-- ==== Sys2Proof/Word.lean ====
section
/-! DEFINITION. The word and byte types of the block (R6, R41). -/

namespace Sys2Proof

/-- A CSR word: every CSR access is one aligned 64-bit word (R41). -/
abbrev Word := BitVec 64

/-- A byte of a memory, a message or a flit. -/
abbrev Byte := BitVec 8

/-- A run of bytes, lowest address first (R6). -/
abbrev Bytes := List (BitVec 8)

end Sys2Proof
end

