-- ==== Sys2Proof/Machine/Bytes.lean ====
section
/-! DEFINITION. Byte order, byte slices, bit fields and the two cyclic redundancy checks of the manual (R6, R276, R330). -/

namespace Sys2Proof.Machine

/-- R6: the little-endian number in a run of bytes. -/
def leNat : Bytes → Nat
  | [] => 0
  | b :: r => b.toNat + 256 * leNat r

/-- R6: `n` bytes of `v`, least significant first. -/
def leBytes : Nat → Nat → Bytes
  | 0, _ => []
  | n + 1, v => BitVec.ofNat 8 v :: leBytes n (v / 256)

/-- `n` zero bytes. -/
def zeros (n : Nat) : Bytes := List.replicate n 0

/-- `n` bytes from byte `i`; bytes past the end read as zero. -/
def bslice (bs : Bytes) (i n : Nat) : Bytes :=
  let r := (bs.drop i).take n
  r ++ zeros (n - r.length)

/-- The little-endian number in `n` bytes from byte `i`. -/
def leAt (bs : Bytes) (i n : Nat) : Nat := leNat (bslice bs i n)

/-- Bits [hi:lo] of a number (R6). -/
def bits (v hi lo : Nat) : Nat := v / 2 ^ lo % 2 ^ (hi + 1 - lo)

/-- One bit of a number. -/
def bit (v i : Nat) : Bool := v / 2 ^ i % 2 == 1

/-- A signed reading of the low `w` bits. -/
def sext (w v : Nat) : Int :=
  let u := v % 2 ^ w
  if u < 2 ^ (w - 1) then (u : Int) else (u : Int) - (2 ^ w : Nat)

/-- The low `w` bits of an integer. -/
def wrapInt (w : Nat) (i : Int) : Nat := (i % (2 ^ w : Nat)).toNat

/-- `⌈a ÷ b⌉`. -/
def cdiv (a b : Nat) : Nat := (a + b - 1) / b

/-- Cut a run of bytes into pieces of `n`; `fuel` bounds the number of pieces. -/
def chunks (n : Nat) : Nat → Bytes → List Bytes
  | 0, _ => []
  | f + 1, bs => if bs.length ≤ n then [bs] else bs.take n :: chunks n f (bs.drop n)

/-- One bit step of the CRC-16 of R276: polynomial 0x1021, most significant bit first. -/
def crc16Bit (c : Nat) : Nat := if c.testBit 15 then ((c <<< 1) ^^^ 0x1021) % 0x10000 else (c <<< 1) % 0x10000

/-- One byte of CRC-16. -/
def crc16Byte (c : Nat) (b : Byte) : Nat :=
  crc16Bit (crc16Bit (crc16Bit (crc16Bit (crc16Bit (crc16Bit (crc16Bit (crc16Bit (c ^^^ (b.toNat <<< 8)))))))))

/-- R276: CRC-16 with polynomial 0x1021, initial value 0xFFFF, no reflection and no final complement. -/
def crc16 (bs : Bytes) : Nat := bs.foldl crc16Byte 0xFFFF

/-- One bit step of CRC-32C in its reflected form. -/
def crc32cBit (c : Nat) : Nat := if c.testBit 0 then (c >>> 1) ^^^ 0x82F63B78 else c >>> 1

/-- One byte of CRC-32C. -/
def crc32cByte (c : Nat) (b : Byte) : Nat :=
  crc32cBit (crc32cBit (crc32cBit (crc32cBit (crc32cBit (crc32cBit (crc32cBit (crc32cBit (c ^^^ b.toNat))))))))

/-- R107, R330: CRC-32C (polynomial 0x1EDC6F41 reflected, initial and final value all ones). -/
def crc32c (bs : Bytes) : Nat := bs.foldl crc32cByte 0xFFFFFFFF ^^^ 0xFFFFFFFF

/-- The indices of the set bits of the low `n` bits of a mask, rising. -/
def maskBits (m n : Nat) : List Nat := (List.range n).filter fun i => bit m i

/-- A bitwise merge: the bits of `mask` from `new`, the rest from `old`. -/
def mergeBits (old new mask : Word) : Word := (old &&& ~~~mask) ||| (new &&& mask)

end Sys2Proof.Machine
end

