-- ==== Sys2Proof/Machine/Msg.lean ====
section
/-! DEFINITION. Transactions and flits on the wire: the transaction header (R271, Table LSA-1), segments (R272), the flit
(R330, Table LNK-2), and the control bytes that the end-to-end CRC covers (R276). -/

namespace Sys2Proof.Machine

/-- The transaction header of Table LSA-1. `op` is OP in requests, STATUS in CPL and CPL_DATA. -/
structure Hdr where
  type : Nat := 0
  sint : Bool := false
  spray : Bool := false
  last : Bool := true
  retry : Bool := false
  tc : Nat := 0
  vep : Nat := 0
  dint : Bool := false
  dst : Nat := 0
  src : Nat := 0
  reqId : Nat := 0
  gen : Nat := 0
  op : Nat := 0
  seq : Nat := 0
  hcrc : Nat := 0
  deriving DecidableEq, Repr, Inhabited

/-- One segment: the header and the payload bytes of its flit. -/
structure Seg where
  hdr : Hdr
  pay : Bytes
  deriving DecidableEq, Repr, Inhabited

/-- A whole transaction: the header of its first segment, and the payload bytes of its segments in order. -/
structure Msg where
  hdr : Hdr
  pay : Bytes
  deriving DecidableEq, Repr, Inhabited

/-! Transaction types (Table LSA-2). -/
def tREAD : Nat := 0
def tWRITE : Nat := 1
def tWRITE_ACK : Nat := 2
def tATOMIC : Nat := 3
def tFENCE : Nat := 4
def tTILE : Nat := 5
def tCTRL : Nat := 6
def tNOTIFY : Nat := 7
def tSNP : Nat := 8
def tSNP_RSP : Nat := 9
def tWB : Nat := 10
def tEVICT_CLEAN : Nat := 11
def tCPL : Nat := 12
def tCPL_DATA : Nat := 13

/-! Status codes (Table LSA-4). -/
def stOK : Nat := 0x00
def stOK_S : Nat := 0x01
def stOK_E : Nat := 0x02
def stACCESS : Nat := 0x10
def stALIGN : Nat := 0x11
def stTIER_LATE : Nat := 0x12
def stTIER_FAILED : Nat := 0x13
def stINTEGRITY : Nat := 0x14
def stHOME_LOST : Nat := 0x15
def stEXTENT_WITHDRAWN : Nat := 0x16
def stTARGET_DEAD : Nat := 0x17
def stPORT_DOWN : Nat := 0x18
def stAMBIGUOUS : Nat := 0x19
def stREVOKED : Nat := 0x1A
def stFENCED : Nat := 0x1B
def stNOT_HOSTED : Nat := 0x1C
def stUNSUPPORTED : Nat := 0x1D

/-! CTRL subtypes (Table LSA-3). -/
def cSLIP : Nat := 0x01
def cPREPARE : Nat := 0x02
def cVOTE : Nat := 0x03
def cDECISION : Nat := 0x04
def cDECISION_ACK : Nat := 0x05
def cOUTCOME_QUERY : Nat := 0x06
def cOUTCOME_ANSWER : Nat := 0x07
def cABORT : Nat := 0x08
def cHOME_QUERY : Nat := 0x09
def cHOME_ANSWER : Nat := 0x0A
def cLEASE_RECALL : Nat := 0x0B
def cLEASE_END : Nat := 0x0C
def cPUB_QUERY : Nat := 0x0D
def cPUB_ANSWER : Nat := 0x0E

/-- Table LSA-1: the header as a 128-bit number. -/
def Hdr.enc (h : Hdr) : Nat :=
  h.type % 16 + h.sint.toNat * 2 ^ 4 + h.spray.toNat * 2 ^ 5 + h.last.toNat * 2 ^ 6 + h.retry.toNat * 2 ^ 7
    + h.tc % 8 * 2 ^ 8 + h.vep % 16 * 2 ^ 11 + h.dint.toNat * 2 ^ 15 + h.dst % 2 ^ 24 * 2 ^ 16 + h.src % 2 ^ 24 * 2 ^ 40
    + h.reqId % 2 ^ 16 * 2 ^ 64 + h.gen % 2 ^ 8 * 2 ^ 80 + h.op % 2 ^ 8 * 2 ^ 88 + h.seq % 2 ^ 16 * 2 ^ 96
    + h.hcrc % 2 ^ 16 * 2 ^ 112

/-- Table LSA-1 read back. -/
def Hdr.dec (v : Nat) : Hdr where
  type := bits v 3 0
  sint := bit v 4
  spray := bit v 5
  last := bit v 6
  retry := bit v 7
  tc := bits v 10 8
  vep := bits v 14 11
  dint := bit v 15
  dst := bits v 39 16
  src := bits v 63 40
  reqId := bits v 79 64
  gen := bits v 87 80
  op := bits v 95 88
  seq := bits v 111 96
  hcrc := bits v 127 112

/-- A header whose fields fit their widths. -/
def Hdr.fits (h : Hdr) : Bool :=
  h.type < 16 && h.tc < 8 && h.vep < 16 && h.dst < 2 ^ 24 && h.src < 2 ^ 24 && h.reqId < 2 ^ 16 && h.gen < 2 ^ 8
    && h.op < 2 ^ 8 && h.seq < 2 ^ 16 && h.hcrc < 2 ^ 16

/-- R330: the 248-byte body of a DATA flit that carries a segment. -/
def Seg.body (g : Seg) : Bytes := leBytes 16 g.hdr.enc ++ bslice g.pay 0 232

/-- The segment in a DATA body. -/
def Seg.ofBody (b : Bytes) : Seg := ⟨Hdr.dec (leAt b 0 16), bslice b 16 232⟩

/-- Whether a header is that of a shuttle segment (R272): WRITE or WRITE_ACK with TC1 and SPRAY = 1. -/
def Hdr.isShuttle (h : Hdr) : Bool := (h.type == tWRITE || h.type == tWRITE_ACK) && h.tc == 1 && h.spray

/-- Whether a type has a reply in Table LSA-2. -/
def Hdr.hasReply (h : Hdr) : Bool :=
  !h.isShuttle && (h.type == tREAD || h.type == tWRITE_ACK || h.type == tATOMIC || h.type == tFENCE || h.type == tWB
    || h.type == tEVICT_CLEAN)

/-- The control bytes at the start of the first segment's payload (Table LSA-2; Table SHT-3 for a shuttle segment). CTRL and
NOTIFY: the whole payload. -/
def Hdr.ctlLen (h : Hdr) : Nat :=
  if h.isShuttle then 32
  else if h.type = tREAD ∨ h.type = tWRITE ∨ h.type = tWRITE_ACK ∨ h.type = tATOMIC ∨ h.type = tTILE then 16
  else if h.type = tSNP ∨ h.type = tSNP_RSP ∨ h.type = tWB ∨ h.type = tEVICT_CLEAN then 8
  else 0

/-- R276: the value HCRC must have. `first` says whether the segment is the first of its transaction. -/
def Seg.hcrcOf (g : Seg) (first : Bool) : Nat :=
  let ctl :=
    if g.hdr.type = tCTRL ∨ g.hdr.type = tNOTIFY then bslice g.pay 0 232
    else if first then bslice g.pay 0 g.hdr.ctlLen else []
  crc16 ((leBytes 16 g.hdr.enc).take 14 ++ ctl)

/-- The segment with its HCRC set by R276. -/
def Seg.sealCrc (g : Seg) (first : Bool) : Seg :=
  { g with hdr := { g.hdr with hcrc := g.hcrcOf first } }

/-- Table LNK-2: the trailer fields of a flit. -/
structure Trailer where
  lseq : Nat
  lack : Nat
  ccount : Nat
  ctc : Nat
  kind : Nat
  ackValid : Bool
  deriving DecidableEq, Repr

/-- R330: a flit of 256 bytes: the body, the trailer, and the LCRC over bytes 0 to 251. -/
def mkFlit (body : Bytes) (t : Trailer) : Bytes :=
  let b := bslice body 0 248 ++ leBytes 1 t.lseq ++ leBytes 1 t.lack ++ leBytes 1 t.ccount
    ++ leBytes 1 (t.ctc % 8 + t.kind % 8 * 8 + t.ackValid.toNat * 64)
  b ++ leBytes 4 (crc32c b)

/-- R331: whether a flit's LCRC holds. -/
def flitOk (f : Bytes) : Bool := f.length == 256 && crc32c (f.take 252) == leAt f 252 4

/-- The trailer of a flit. -/
def trailerOf (f : Bytes) : Trailer where
  lseq := leAt f 248 1
  lack := leAt f 249 1
  ccount := leAt f 250 1
  ctc := bits (leAt f 251 1) 2 0
  kind := bits (leAt f 251 1) 5 3
  ackValid := bit (leAt f 251 1) 6

/-- The body of a flit. -/
def bodyOf (f : Bytes) : Bytes := bslice f 0 248

/-- R272: the segments of a message: 232 payload bytes each, SEQ 0 upward in the pinned class, HCRC set. In the sprayed class
SEQ runs on from `seq0`, the flow's next number (R374). -/
def Msg.segs (m : Msg) (seq0 : Nat) : List Seg :=
  let cs := chunks 232 (m.pay.length + 1) m.pay
  (cs.zipIdx).map fun (c, i) =>
    Seg.sealCrc ⟨{ m.hdr with seq := (seq0 + i) % 65536, last := i + 1 == cs.length }, bslice c 0 232⟩ (i == 0)

end Sys2Proof.Machine
end

