-- ==== Sys2Proof/Syntax.lean ====
section
/-! DEFINITION. The commands of the block: one constructor per row of the opcode table, with the row's operands. The rule is the one
the table names. A message operand `m` is a whole transaction, that entered by port region `prg` or reached engine `n`; a flit operand `f`
is its 256 bytes, with its corrected symbols and, where it has a bit in an uncorrectable codeword, how many such codewords it is the first
to show (R329). `stores` are stores of the cores to control-die memory that came before. -/

namespace Sys2Proof

open Machine

/-- What happens to a word of a region's SRAM (R128): one of its bits turns; two do, which the region finds while no step reads the word; or
two do, which it has not found. -/
inductive SramError where
  | single (word : Nat)
  | double (word : Nat)
  | hidden (word : Nat)
  deriving DecidableEq, Repr

/-- A command that reaches the block. The rows of units that make accesses keep an operand `ext` without content: what such a unit lacks comes
as the outcome of its own request, and nothing comes with the row (log entry 16). -/
inductive Instr where
  /-- CSR_WRITE (R44): a direct write of `size` bytes at CSR address `a`. -/
  | csrWrite (stores : List (Nat × Byte)) (a : Nat) (size : Nat) (w : Word)
  /-- TIM_NOW_READ (R68): a read of TIM_NOW. -/
  | timNowRead
  /-- TIM_SET (R70): a write of TIM_SET. -/
  | timSet (w : Word)
  /-- ERR_STICKY_CLEAR (R418): a write of G_ERR_STICKY on page `p` of unit `u` of group `g`. -/
  | errStickyClear (g : Nat) (u : Nat) (p : Nat) (w : Word)
  /-- ERR_INJECT (R43): a write of G_ERR_INJECT. -/
  | errInject (g : Nat) (u : Nat) (p : Nat) (w : Word)
  /-- CONTEXT_RESET (R126): a write of G_RESET_CTL with REQ = 1. -/
  | contextReset (g : Nat) (u : Nat) (p : Nat) (ctx : Nat)
  /-- ENGINE_RESET (R430): a write of G_RESET_CTL with REQ = 2. -/
  | engineReset (g : Nat) (u : Nat) (p : Nat)
  /-- RESET_DONE (R426): the reset of a scope completes: rung 0 context, 1 engine, 2 partition, 3 region, 4 chip. -/
  | resetDone (rung : Nat) (g : Nat) (u : Nat) (ctx : Nat)
  /-- RESET_ESCALATED (R426): the window of a reset ends. -/
  | resetEscalated (rung : Nat) (g : Nat) (u : Nat) (ctx : Nat)
  /-- CLS_ALLOC (R49): a read of CLS_ALLOC. -/
  | clsAlloc
  /-- CLS_STAGE_DATA (R50): a write of CLS_STAGE_DATA of slot `c`. -/
  | clsStageData (c : Nat) (w : Word)
  /-- CLS_SEAL (R52): CMD = SEAL. -/
  | clsSeal (c : Nat)
  /-- CLS_CLOSE (R53): CMD = CLOSE, with what the firmware knows of other devices: leases (lender, ID, base, GiB, borrower,
  partition), first PSNs by queue pair, and local digests by switch. -/
  | clsClose (c : Nat) (stores : List (Nat × Byte)) (leases : List (Nat × Nat × Nat × Nat × Nat × Nat)) (psns : List (Nat × Nat))
    (digests : List (Nat × Bytes))
  /-- CLS_ABORT (R61): CMD = ABORT. -/
  | clsAbort (c : Nat)
  /-- CLS_RELEASE (R48): CMD = RELEASE. -/
  | clsRelease (c : Nat)
  /-- CLAUSE_ARMED (R54): validation and its data work are over. -/
  | clauseArmed (c : Nat)
  /-- GUARD_INTERVAL (R58): 1 µs before the commit instant. -/
  | guardInterval (c : Nat)
  /-- CLAUSE_COMMIT (R57): the commit instant. -/
  | clauseCommit (c : Nat)
  /-- CLAUSE_TIMEOUT (R60): 10 s after the open time. -/
  | clauseTimeout (c : Nat)
  /-- CLAUSE_IN_DOUBT (R66): 10 s after the open time of a PREPARED participant. -/
  | clauseInDoubt (c : Nat)
  /-- COORD_VOTE_TIMEOUT (R64): 10 s after the open time of a coordinator. -/
  | coordVoteTimeout (c : Nat)
  /-- PREPARE (R64): a PREPARE arrives, having entered by port region `prg`. -/
  | prepare (prg : Nat) (m : Msg)
  /-- VOTE (R64): a VOTE arrives. -/
  | vote (prg : Nat) (m : Msg)
  /-- DECISION (R66): a DECISION arrives. -/
  | decision (prg : Nat) (m : Msg)
  /-- DECISION_ACK (R65): a DECISION_ACK arrives. -/
  | decisionAck (prg : Nat) (m : Msg)
  /-- OUTCOME_QUERY_TIMER (R65): 100 µs after the vote or the last query. -/
  | outcomeQueryTimer (c : Nat)
  /-- OUTCOME_QUERY (R65): an OUTCOME_QUERY arrives. -/
  | outcomeQuery (prg : Nat) (m : Msg)
  /-- OUTCOME_ANSWER (R65): an OUTCOME_ANSWER arrives. -/
  | outcomeAnswer (prg : Nat) (m : Msg)
  /-- TIME_MARK_TX (R69): MARK_INTERVAL has passed on a port. -/
  | timeMarkTx (port : Nat)
  /-- TIME_MARK (R345): a TIME_MARK flit arrives, with the corrected symbols and the uncorrectable codewords. -/
  | timeMark (port : Nat) (f : Bytes) (corr : Nat) (uncorr : Option Nat)
  /-- PTP_SYNC (R69): a PTP message yields an offset in ps. -/
  | ptpSync (off : Int)
  /-- PPS_IN_EDGE (R69): a rising edge on PPS_IN. -/
  | ppsInEdge
  /-- PPS_OUT (R480): device time reaches a whole second. -/
  | ppsOut
  /-- TIME_HOLDOVER (R69): the source of time is lost. -/
  | timeHoldover
  /-- TIME_UNLOCKED (R72): HOLDOVER_LIMIT has passed. -/
  | timeUnlocked
  /-- ROUND_START (R74): the next round of domain unit `d` + 1 starts. -/
  | roundStart (d : Nat)
  /-- GATE_ENTRY_NEXT (R78): the DURATION of the gate entry of port region `n` expires. -/
  | gateEntryNext (n : Nat)
  /-- DECISION_INSTANT (R88): round end minus LEAD. -/
  | decisionInstant (d : Nat)
  /-- SLIP (R90): a SLIP arrives on a port. -/
  | slip (port : Nat) (m : Msg)
  /-- TILE (R82): a TILE message completes for a unit of this switch. -/
  | tile (prg : Nat) (m : Msg)
  /-- PROG_LOAD (R107): a write of CRG_PROG_LOAD. -/
  | progLoad (stores : List (Nat × Byte)) (n : Nat) (w : Word)
  /-- PROG_LOAD_DONE (R107): the copy ends; `bad`: a read error was met. -/
  | progLoadDone (n : Nat) (bad : Bool)
  /-- NOP (R108): bobbin `b` (its global index) meets a NOP descriptor. -/
  | nopDesc (b : Nat)
  /-- STEP (R122): a STEP descriptor. -/
  | stepDesc (b : Nat)
  /-- LOOP (R111): a LOOP descriptor. -/
  | loopDesc (b : Nat)
  /-- NEXT (R111): a NEXT descriptor. -/
  | nextDesc (b : Nat)
  /-- WAIT_ROUND (R123): a WAIT_ROUND descriptor. -/
  | waitRoundDesc (b : Nat)
  /-- END (R123): an END descriptor. -/
  | endDesc (b : Nat)
  /-- READ_DATA_ARRIVE (R123): read data for a bobbin arrives. -/
  | readDataArrive (b : Nat)
  /-- BOB_ARM (R123): BOB_CTL.CMD = ARM. -/
  | bobArm (b : Nat)
  /-- BOB_START (R123): BOB_CTL.CMD = START. -/
  | bobStart (b : Nat)
  /-- BOB_STOP (R123): BOB_CTL.CMD = STOP. -/
  | bobStop (b : Nat)
  /-- BOB_RELEASE (R123): BOB_CTL.CMD = RELEASE. -/
  | bobRelease (b : Nat)
  /-- INGRESS (R120): the next unit of an INGRESS step, the one in place `i` of bobbin `b`. -/
  | ingress (b : Nat) (i : Nat)
  /-- EGRESS (R120): the next unit of an EGRESS step, the one in place `i` of bobbin `b`. -/
  | egress (b : Nat) (i : Nat)
  /-- LOAD (R121): the next unit of a LOAD step, the one in place `i` of bobbin `b`. -/
  | load (b : Nat) (i : Nat) (ext : Unit)
  /-- STORE (R121): the next unit of a STORE step, the one in place `i` of bobbin `b`. -/
  | store (b : Nat) (i : Nat) (ext : Unit)
  /-- EXPAND (R167): the next unit of an EXPAND step, the one in place `i` of bobbin `b`. -/
  | expand (b : Nat) (i : Nat) (ext : Unit)
  /-- MATMUL (R143): the next unit of a MATMUL step, the one in place `i` of bobbin `b`. -/
  | matmul (b : Nat) (i : Nat)
  /-- ELEMWISE (R149): the next unit of an ELEMWISE step, the one in place `i` of bobbin `b`. -/
  | elemwise (b : Nat) (i : Nat)
  /-- NORM (R151): the next unit of a NORM step, the one in place `i` of bobbin `b`. -/
  | norm (b : Nat) (i : Nat)
  /-- ATTEND (R196): the next unit of an ATTEND step, the one in place `i` of bobbin `b`. -/
  | attend (b : Nat) (i : Nat) (ext : Unit)
  /-- REDUCE (R214): the next unit of a REDUCE step, the one in place `i` of bobbin `b`. -/
  | reduce (b : Nat) (i : Nat)
  /-- GATHER (R229): the next unit of a GATHER step, the one in place `i` of bobbin `b`. -/
  | gather (b : Nat) (i : Nat) (ext : Unit)
  /-- SCATTER (R230): the next unit of a SCATTER step, the one in place `i` of bobbin `b`. -/
  | scatter (b : Nat) (i : Nat) (ext : Unit)
  /-- FILTER (R232): the next unit of a FILTER step, the one in place `i` of bobbin `b`. -/
  | filter (b : Nat) (i : Nat)
  /-- CONVERT (R142): the next unit of a CONVERT step, the one in place `i` of bobbin `b`. -/
  | convert (b : Nat) (i : Nat)
  /-- COMPRESS (R171): the next unit of a COMPRESS step, the one in place `i` of bobbin `b`. -/
  | compress (b : Nat) (i : Nat) (ext : Unit)
  /-- STEP_COMPLETE (R117): the last unit of a step completes. -/
  | stepComplete (b : Nat) (i : Nat)
  /-- COLL_CONTRIBUTION (R213): a contribution or partial arrives. -/
  | collContribution (prg : Nat) (m : Msg)
  /-- COLL_SET_OPEN (R213): waiting contribution `i` tries again. -/
  | collSetOpen (i : Nat)
  /-- COLL_TIMEOUT (R217): TIMEOUT_US has passed for the set of tile `t`. -/
  | collTimeout (id : Nat) (t : Nat)
  /-- ABORT (R224): an ABORT arrives. -/
  | abort (prg : Nat) (m : Msg)
  /-- CMB_BUF_EXPIRE (R233): READ_WINDOW has passed for a buffer of unit `n`. -/
  | cmbBufExpire (n : Nat) (addr : Nat) (len : Nat)
  /-- REPLY_CACHE_EXPIRE (R285): HOLD has passed for a completed entry. -/
  | replyCacheExpire (n : Nat) (src : Nat) (sint : Bool) (gen : Nat) (id : Nat)
  /-- READ (R277): an uncached READ arrives through port region `prg`. -/
  | read (prg : Nat) (m : Msg)
  /-- RD_SHARED (R290): a READ with OP 1 arrives. -/
  | rdShared (prg : Nat) (m : Msg)
  /-- RD_UNIQUE (R290): a READ with OP 2 arrives. -/
  | rdUnique (prg : Nat) (m : Msg)
  /-- UPGRADE (R290): a READ with OP 3 arrives. -/
  | upgrade (prg : Nat) (m : Msg)
  /-- WRITE (R279): a posted WRITE arrives. -/
  | write (prg : Nat) (m : Msg)
  /-- WRITE_ACK (R277): an acknowledged write arrives. -/
  | writeAck (prg : Nat) (m : Msg)
  /-- FENCE (R280): a FENCE arrives. -/
  | fence (prg : Nat) (m : Msg)
  /-- ATOMIC_ADD (R283): an ADD arrives. -/
  | atomicAdd (prg : Nat) (m : Msg)
  /-- EXACT_ADD (R284): an EXACT_ADD arrives. -/
  | exactAdd (prg : Nat) (m : Msg)
  /-- ATOMIC_MIN (R283): a MIN arrives. -/
  | atomicMin (prg : Nat) (m : Msg)
  /-- ATOMIC_MAX (R283): a MAX arrives. -/
  | atomicMax (prg : Nat) (m : Msg)
  /-- ATOMIC_CAS (R283): a CAS arrives. -/
  | atomicCas (prg : Nat) (m : Msg)
  /-- ATOMIC_BATCH_PASS (R234): the operation on an address returns at unit `n`. -/
  | atomicBatchPass (n : Nat) (addr : Nat)
  /-- SNP_RSP (R292): a snoop response arrives. -/
  | snpRsp (prg : Nat) (m : Msg)
  /-- WB (R290): a WB arrives. -/
  | wb (prg : Nat) (m : Msg)
  /-- EVICT_CLEAN (R290): an EVICT_CLEAN arrives. -/
  | evictClean (prg : Nat) (m : Msg)
  /-- COH_SNP_TIMEOUT (R291): SNP_LIMIT has passed for an agent asked about line `l`. -/
  | cohSnpTimeout (l : Nat) (agent : Nat)
  /-- COH_WB_TIMEOUT (R292): 4 µs have passed for an announced WB. -/
  | cohWbTimeout (l : Nat) (agent : Nat)
  /-- CPL (R254): a CPL arrives. -/
  | cpl (prg : Nat) (m : Msg)
  /-- CPL_DATA (R254): a CPL_DATA arrives. -/
  | cplData (prg : Nat) (m : Msg)
  /-- WRITE_FAILED (R279): a NOTIFY WRITE_FAILED arrives. -/
  | writeFailed (prg : Nat) (m : Msg)
  /-- HOME_ENTRY_FETCH (R253): the fetch of extent entry `e` by a hub completes. -/
  | homeEntryFetch (hub : Nat) (e : Nat)
  /-- TIER_LATE (R252): the tier deadline of request `arr` passes. -/
  | tierLate (arr : Nat)
  /-- REMOTE_LIMIT_EXPIRE (R296): MRG_REMOTE_LIMIT has passed for request `id` of the device. -/
  | remoteLimitExpire (id : Nat)
  /-- SCRUB (R249): a scrub pass of HBC unit `u`; `ups` are the errors that have arisen: block, byte and wrong bits. -/
  | scrub (u : Nat) (ups : List (Nat × Nat × Nat))
  /-- MOVE_SECTOR_COPY (R259): the next sector of the move of an extent address, with what its tray returned for a source in the layout of
  R251, read through the tray. -/
  | moveSectorCopy (addr : Nat × Bytes)
  /-- MOVE_DRAIN_DONE (R261): the source reports. -/
  | moveDrainDone (addr : Nat)
  /-- MOVE_DRAIN (R261): DRAIN_LIMIT has passed. -/
  | moveDrain (addr : Nat)
  /-- OBJ_FREE_COMPLETE (R257): the last request on object `i` has ended. -/
  | objFreeComplete (i : Nat)
  /-- WITHDRAW_RANGE_RELEASE (R266): the last request at the home of extent `e` has ended. -/
  | withdrawRangeRelease (e : Nat)
  /-- LEASE_GRACE_EXPIRE (R268): the grace of a recalled lease ends. -/
  | leaseGraceExpire (id : Nat)
  /-- LEASE_RECALL (R268): a LEASE_RECALL arrives. -/
  | leaseRecall (prg : Nat) (m : Msg)
  /-- LEASE_END (R268): a LEASE_END arrives. -/
  | leaseEnd (prg : Nat) (m : Msg)
  /-- HQ_GO (R264): MRG_HQ_CTL.GO = 1. -/
  | hqGo
  /-- HOME_QUERY_TIMER (R263): 1 ms has passed for an entry in DOUBT. -/
  | homeQueryTimer (addr : Nat)
  /-- HOME_DECLARED_LOST (R263): HQ_TIMEOUT has passed. -/
  | homeDeclaredLost (addr : Nat)
  /-- HOME_QUERY (R264): a HOME_QUERY arrives. -/
  | homeQuery (prg : Nat) (m : Msg)
  /-- HOME_ANSWER (R263): a HOME_ANSWER arrives. -/
  | homeAnswer (prg : Nat) (m : Msg)
  /-- PUB_QUERY (R302): a PUB_QUERY arrives. -/
  | pubQuery (prg : Nat) (m : Msg)
  /-- PUB_ANSWER (R302): a PUB_ANSWER arrives. -/
  | pubAnswer (prg : Nat) (m : Msg)
  /-- DOORBELL (R308): a DOORBELL segment arrives at engine `n`. -/
  | doorbell (n : Nat) (m : Msg) (ext : Unit)
  /-- SQ_READ_DONE (R309): the read of send entries of queue pair `q` returns. -/
  | sqReadDone (q : Nat) (ext : Unit)
  /-- WQE_SEND (R309): the next request of queue pair `q`, a SEND, starts. -/
  | wqeSend (q : Nat)
  /-- WQE_WRITE (R309): the next request of queue pair `q`, a WRITE, starts. -/
  | wqeWrite (q : Nat)
  /-- WQE_READ (R309): the next request of queue pair `q`, a READ, starts. -/
  | wqeRead (q : Nat)
  /-- WQE_FLUSH (R317): the next request of queue pair `q`, a FLUSH, starts. -/
  | wqeFlush (q : Nat)
  /-- SHUTTLE_SEGMENT_TX (R312): engine `n` sends a segment. -/
  | shuttleSegmentTx (n : Nat) (ext : Unit)
  /-- SHT_SEND (R324): the segment arrives at engine `n`. -/
  | shtSend (n : Nat) (m : Msg) (ext : Unit)
  /-- SHT_WRITE (R324): the segment arrives at engine `n`. -/
  | shtWrite (n : Nat) (m : Msg) (ext : Unit)
  /-- READ_REQ (R313): the segment arrives at engine `n`. -/
  | readReq (n : Nat) (m : Msg) (ext : Unit)
  /-- READ_RESP (R315): the segment arrives at engine `n`. -/
  | readResp (n : Nat) (m : Msg)
  /-- SHT_FLUSH (R317): the segment arrives at engine `n`. -/
  | shtFlush (n : Nat) (m : Msg) (ext : Unit)
  /-- ACK (R319): the segment arrives at engine `n`. -/
  | ack (n : Nat) (m : Msg) (ext : Unit)
  /-- NAK (R321): the segment arrives at engine `n`. -/
  | nak (n : Nat) (m : Msg) (ext : Unit)
  /-- ACK_DELAY_EXPIRE (R313): ACK_DELAY has passed. -/
  | ackDelayExpire (q : Nat)
  /-- SHT_RETRY_TIMER (R321): the retry timer of queue pair `q` expires. -/
  | shtRetryTimer (q : Nat) (ext : Unit)
  /-- PLACEMENT_DONE (R316): the placement of a segment ends. -/
  | placementDone (q : Nat) (psn : Nat) (ext : Unit)
  /-- REVOKE_DONE (R325): the placements of registration `i` have drained. -/
  | revokeDone (i : Nat)
  /-- REVOKE_LATE (R325): DRAIN has passed since the revoke. -/
  | revokeLate (i : Nat) (ext : Unit)
  /-- FLIT_SLOT_TX (R332): a flit slot of a port. -/
  | flitSlotTx (port : Nat)
  /-- FLIT_DATA (R334): a DATA flit arrives. -/
  | flitData (port : Nat) (f : Bytes) (corr : Nat) (uncorr : Option Nat)
  /-- IDLE (R333): an IDLE flit arrives. -/
  | idle (port : Nat) (f : Bytes) (corr : Nat) (uncorr : Option Nat)
  /-- RETRY_REQ (R335): a RETRY_REQ flit arrives. -/
  | retryReq (port : Nat) (f : Bytes) (corr : Nat) (uncorr : Option Nat)
  /-- TRAIN (R342): a TRAIN flit arrives. -/
  | train (port : Nat) (f : Bytes) (corr : Nat) (uncorr : Option Nat)
  /-- TRAIN_TX (R340): 1 µs has passed in a training state. -/
  | trainTx (port : Nat)
  /-- GANG_CUT (R349): a CONTROL flit with OP 1 arrives. -/
  | gangCut (port : Nat) (f : Bytes) (corr : Nat) (uncorr : Option Nat)
  /-- RETRAIN_REQ (R340): a CONTROL flit with OP 2 arrives. -/
  | retrainReq (port : Nat) (f : Bytes) (corr : Nat) (uncorr : Option Nat)
  /-- FAULT_IDLE (R340): a FAULT_IDLE flit arrives. -/
  | faultIdle (port : Nat) (f : Bytes) (corr : Nat) (uncorr : Option Nat)
  /-- FLIT_RESERVED_KIND (R330): a flit of KIND 7 arrives. -/
  | flitReservedKind (port : Nat) (corr : Nat) (uncorr : Option Nat)
  /-- REPLAY_TIMEOUT (R335): REPLAY_TIMEOUT has passed. -/
  | replayTimeout (port : Nat)
  /-- LINK_DETECT (R340): signal on all four lanes. -/
  | linkDetect (port : Nat)
  /-- EQUALIZE_DONE (R340): equalisation is complete. -/
  | equalizeDone (port : Nat)
  /-- ALIGN_LOCK (R340): alignment-marker and codeword lock. -/
  | alignLock (port : Nat)
  /-- LINK_TRAIN_TIMEOUT (R340): the limit of a training state. -/
  | linkTrainTimeout (port : Nat)
  /-- LOCK_LOST (R340): codeword lock is lost. -/
  | lockLost (port : Nat)
  /-- AUTO_RETRY (R340): AUTO_RETRY ms have passed in DOWN. -/
  | autoRetry (port : Nat)
  /-- TRAY_LINK_UP (R352): the link of CXL port `c` comes up, with the tray capacity in units of 256 MiB. -/
  | trayLinkUp (c : Nat) (capacity : Nat) (width : Nat) (speed : Nat)
  /-- TRAY_RESPONSE (R353): a response: `kind` 0 data or completion, 1 poison or a media error. -/
  | trayResponse (c : Nat) (tag : Nat) (kind : Nat) (raw : Bytes)
  /-- CXP_LINK_DOWN (R354): 0 the link goes down, 1 an uncorrectable and 2 a correctable error. -/
  | cxpLinkDown (c : Nat) (kind : Nat)
  /-- HOST_MEMRD (R357): a MemRd of logical device `ld`. -/
  | hostMemrd (c : Nat) (ld : Nat) (dpa : Nat) (ext : Unit)
  /-- HOST_WRITE (R358): a MemWr. -/
  | hostWrite (c : Nat)
  /-- IDENTIFY_MEMORY_DEVICE (R359): the mailbox command of logical device `ld`. -/
  | identifyMemoryDevice (c : Nat) (ld : Nat)
  /-- GET_PARTITION_INFO (R359): the mailbox command. -/
  | getPartitionInfo (c : Nat) (ld : Nat)
  /-- GET_HEALTH_INFO (R359): the mailbox command. -/
  | getHealthInfo (c : Nat) (ld : Nat)
  /-- GET_SUPPORTED_LOGS (R359): the mailbox command. -/
  | getSupportedLogs (c : Nat) (ld : Nat)
  /-- GET_LOG (R359): the mailbox command. -/
  | getLog (c : Nat) (ld : Nat)
  /-- GET_EVENT_RECORDS (R359): the mailbox command. -/
  | getEventRecords (c : Nat) (ld : Nat)
  /-- CLEAR_EVENT_RECORDS (R359): the mailbox command. -/
  | clearEventRecords (c : Nat) (ld : Nat)
  /-- CXL_MBX_UNSUPPORTED (R359): any other mailbox command. -/
  | cxlMbxUnsupported (c : Nat) (ld : Nat)
  /-- IN_PUSH (R457): a host writes IN_PUSH. -/
  | inPush (c : Nat) (ld : Nat) (len : Nat) (tag : Nat) (ws : List Word)
  /-- OUT_POP (R457): a host writes OUT_POP. -/
  | outPop (c : Nat) (ld : Nat)
  /-- TOKEN_REFILL (R383): a refill event of a port. -/
  | tokenRefill (port : Nat) (sel : Nat)
  /-- RESEQ_OPEN_HOLD (R376): OPEN_HOLD has passed for a flow of the resequencer of port region `prg`. -/
  | reseqOpenHold (prg : Nat) (src : Nat) (dst : Nat) (tc : Nat) (sint : Bool) (dint : Bool)
  /-- RESEQ_FLOW_IDLE (R376): FLOW_IDLE has passed for a flow of the resequencer of port region `prg`. -/
  | reseqFlowIdle (prg : Nat) (src : Nat) (dst : Nat) (tc : Nat) (sint : Bool) (dint : Bool)
  /-- RESEQ_TIMEOUT (R379): TIMEOUT has passed for a flow of the resequencer of port region `prg`. -/
  | reseqTimeout (prg : Nat) (src : Nat) (dst : Nat) (tc : Nat) (sint : Bool) (dint : Bool)
  /-- RESEQ_FORCED (R380): every entry is in use and nothing can be delivered. -/
  | reseqForced (prg : Nat)
  /-- ROUTE_HOLD_EXPIRE (R373): HOLD has passed for a path that moved. -/
  | routeHoldExpire (path : Nat)
  /-- PART_RETIRE_FREE (R410): the retirement of partition `p` ends. -/
  | partRetireFree (p : Nat)
  /-- CONSENT_EXPIRE (R414): device time passes NOT_AFTER. -/
  | consentExpire (p : Nat)
  /-- ATTEST_GO (R415): SEC_ATTEST_CTL.GO = 1. -/
  | attestGo (stores : List (Nat × Byte))
  /-- ATTEST_DONE (R416): the report ends; `stored`: the state-store die took the index. -/
  | attestDone (stored : Bool)
  /-- TAP_ACCESS (R412): 0 IDCODE or BYPASS, 1 boundary scan, 2 a CSR read, 3 a CSR write. -/
  | tapAccess (op : Nat) (a : Nat) (size : Nat) (w : Word)
  /-- HANG_WINDOW (R424): a window ends in which G_PROGRESS did not change. -/
  | hangWindow (g : Nat) (u : Nat)
  /-- UCIE_MODULE_DOWN (R17): module `m` of a link of a hub fails. -/
  | ucieModuleDown (hub : Nat) (link : Nat) (m : Nat)
  /-- TEST_DONE (R433): a test ends. -/
  | testDone (kind : Nat) (flt : Nat) (pass : Bool) (fails : Nat)
  /-- DUMP_GO (R437): a write of FLT_DUMP_CTL with GO = 1. -/
  | dumpGo (w : Word)
  /-- DUMP_READ_TIMEOUT (R437): a read of the page at `base` takes 1 ms, after `words` words. -/
  | dumpReadTimeout (base : Nat) (words : Nat)
  /-- DUMP_DONE (R438): the dump ends. -/
  | dumpDone
  /-- POWER_ON (R467): the first release of RESET_N, with the rail voltages. -/
  | powerOn (rails : List Nat)
  /-- RESET_N_ASSERT (R467): RESET_N is asserted for `ns` ns. -/
  | resetNAssert (ns : Nat)
  /-- BOOT_SOURCE_TIMEOUT (R448): 500 ms without a chunk. -/
  | bootSourceTimeout
  /-- BOOT_CHUNK (R448): image bytes from byte `off` arrive. -/
  | bootChunk (off : Nat) (d : Bytes)
  /-- BOOT_NONE (R448): BOOT_NONE from a source. -/
  | bootNone (hlk : Bool)
  /-- IMAGE_VERIFIED (R447): the checks of the image end; `ready`: the firmware reports READY. -/
  | imageVerified (ready : Bool)
  /-- CHP_RESTART (R449): CHP_RESTART.GO = 1. -/
  | chpRestart
  /-- WDOG_KICK (R449): a write of CHP_WDOG with KICK = 1. -/
  | wdogKick (w : Word)
  /-- FW_WATCHDOG (R449): the watchdog period has passed. -/
  | fwWatchdog
  /-- MBX_PUSH (R454): a message for a mailbox: kind 1 HLK, 3 the management port, 4 the board controller. -/
  | mbxPush (kind : Nat) (port : Nat) (m : Msg)
  /-- MBX_IN_POP (R454): a read of MBX_IN_POP of mailbox `m`. -/
  | mbxInPop (m : Nat)
  /-- MBX_OUT_PUSH (R456): a write of MBX_OUT_PUSH. -/
  | mbxOutPush (m : Nat) (w : Word)
  /-- MBX_DOORBELL_CLEAR (R455): a W1C write, with the bits that are set at the same time. -/
  | mbxDoorbellClear (full : Bool) (w : Word) (sets : Word)
  /-- I3C_ENTDAA (R460): the dynamic address is assigned. -/
  | i3cEntdaa
  /-- PWR_RAIL_SEL (R482): a write of PWR_RAIL_SEL. -/
  | pwrRailSel (w : Word)
  /-- PWR_RAIL_MIN (R482): a read of PWR_RAIL_MIN. -/
  | pwrRailMin
  /-- SUPPLY_WARN (R469): a core rail is below WARN_MV. -/
  | supplyWarn (rail : Nat) (mv : Nat)
  /-- RAIL_FAULT (R470): a rail leaves its limits or is removed. -/
  | railFault (rail : Nat) (mv : Nat)
  /-- THERM_WARN (R471): a region is above WARN (in 1/16 °C). -/
  | thermWarn (n : Nat) (t : Int)
  /-- THERM_TRIP (R471): a region is at or above the trip (in 1/16 °C). -/
  | thermTrip (n : Nat) (t : Int)
  /-- AUX_LOSS (R467): VDD_AUX falls. -/
  | auxLoss
  /-- PARK_POWER_OFF (R473): the last request of region `k` (16·kind + index) has ended. -/
  | parkPowerOff (k : Nat)
  /-- STANDBY_ENTRY_DONE (R474): entry is complete. -/
  | standbyEntryDone
  /-- PWR_STANDBY_EXIT (R474): PWR_STANDBY.EXIT = 1. -/
  | pwrStandbyExit
  /-- STANDBY_EXIT_DONE (R474): the device is initialised. -/
  | standbyExitDone
  /-- RAIL_GOOD (R469): a rail returns. -/
  | railGood (rail : Nat) (mv : Nat)
  /-- JUNCTION_COOLED (R471): a region cools. -/
  | junctionCooled (n : Nat) (t : Int)
  /-- BOOT_RETRY (R448): one second has passed. -/
  | bootRetry
  /-- PARK_EXIT (R473): the power-up of region `k` is over. -/
  | parkExit (k : Nat)
  /-- HBC_PHY (R419): a channel loses PHY lock or fails training. -/
  | hbcPhy (u : Nat)
  /-- SRAM_UE_IDLE (R128): bits of a word of the SRAM of region `n` turn. -/
  | sramUeIdle (n : Nat) (word : SramError)
  deriving DecidableEq, Repr

end Sys2Proof
end

