-- ==== Sys2Proof/Decode.lean ====
section
/-! DEFINITION. The words of the opcode table. None of its rows gives bits: every command is an access, a message, an event or the end
of an operation, and no word spells one. -/

namespace Sys2Proof

/-- The command that a word of `nbits` bits spells by the table: none. -/
def decodeTableWord (_nbits _w : Nat) : Option Instr := none

end Sys2Proof
end

