-- ==== Sys2Proof/Machine/SMap.lean ====
section
/-! DEFINITION. Sparse maps keyed by a number: strictly rising keys, and no entry equal to what an unlisted key
reads as, so that equal maps are equal data. Registers, contexts, tables and memories are held in this form. -/

namespace Sys2Proof.Machine

/-- A map from numbers to values, as a list in rising key order. -/
abbrev SMap (α : Type) := List (Nat × α)

/-- The value at key `k`; `d k` where the map lists none. -/
def sget {α : Type} (d : Nat → α) (m : SMap α) (k : Nat) : α :=
  match m with
  | [] => d k
  | (k', v) :: r => if k' = k then v else sget d r k

/-- Remove every entry of key `k`. -/
def sdel {α : Type} (m : SMap α) (k : Nat) : SMap α :=
  match m with
  | [] => []
  | (k', v) :: r => if k' = k then sdel r k else (k', v) :: sdel r k

/-- Insert an entry before the first larger key. -/
def sins {α : Type} (m : SMap α) (k : Nat) (v : α) : SMap α :=
  match m with
  | [] => [(k, v)]
  | (k', v') :: r => if k < k' then (k, v) :: (k', v') :: r else (k', v') :: sins r k v

/-- Write `v` at key `k`, keeping the canonical form: writing the unlisted value removes the entry. -/
def sset {α : Type} [DecidableEq α] (d : Nat → α) (m : SMap α) (k : Nat) (v : α) : SMap α :=
  if v = d k then sdel m k else sins (sdel m k) k v

/-- The canonical form: keys strictly rising, no entry equal to the unlisted value. -/
def SMap.Wf {α : Type} (d : Nat → α) (m : SMap α) : Prop :=
  m.Pairwise (fun x y => x.1 < y.1) ∧ ∀ e ∈ m, e.2 ≠ d e.1

/-- Keep the entries whose key passes `p`. -/
def skeep {α : Type} (p : Nat → Bool) (m : SMap α) : SMap α := m.filter fun e => p e.1

/-- A map of optional entries: absent keys read `none`. -/
def sfind {α : Type} (m : SMap α) (k : Nat) : Option α :=
  match m with
  | [] => none
  | (k', v) :: r => if k' = k then some v else sfind r k

/-- Store an entry of a map of optional entries. -/
def sput {α : Type} (m : SMap α) (k : Nat) (v : α) : SMap α := sins (sdel m k) k v

/-- Keys strictly rising. -/
def SMap.Sorted {α : Type} (m : SMap α) : Prop := m.Pairwise (fun x y => x.1 < y.1)

end Sys2Proof.Machine
end

