-- ==== Sys2Proof/Machine/Regs.lean ====
section
/-! DEFINITION. The register map: Table CTL-1 (addresses), Table CTL-3 (the common page header) and the
register tables of every chapter (PKG-7, CTL-8, PRK-3, STR-12, ARI-8, EXP-5, ATT-8, RGF-12, MEM-10, LSA-9, SHT-8, LNK-9,
GND-6, SEC-7, FLT-9, BOO-8, PWR-7), each with its fields, access types, reset values and retention codes.
A name is the manual's own; its argument `u` is the CSR unit, and `i` the index of an array of registers.
Where the manual gives a reset value that no number says (fuses, own ID), the row holds 0 and
`State.reset` or the accessor named in the register's chapter supplies it. -/

namespace Sys2Proof.Machine

/-- Access types (Table CTL-4). -/
inductive Acc where
  | rw | ro | w1c | w1s | wo | rc | st
  deriving DecidableEq, Repr

/-- Retention codes (Table CTL-5). `const` is the manual's dash: a constant, or no stored value. -/
inductive Ret where
  | n | p | c | ck | const
  deriving DecidableEq, Repr

/-- A field of a register: its lowest bit and its width. -/
structure Fld where
  lo : Nat
  width : Nat
  deriving DecidableEq, Repr

/-- A field as a register table lists it. -/
structure FieldDef where
  fld : Fld
  acc : Acc
  reset : Nat
  ret : Ret
  deriving DecidableEq, Repr

/-- A register row: its offset, and for an array of registers the stride and the count. -/
structure RegRow where
  off : Nat
  stride : Nat
  count : Nat
  flds : List FieldDef
  deriving DecidableEq, Repr

/-- R38: the CSR address of offset `o` on page `p` of unit `u` in group `g`. -/
def csrAddr (g u p o : Nat) : Nat :=
  0x1000000000 + 0x10000000 * g + 0x1000 * p + o + 0x10000 * u

/-- The fields of Table CTL-1 of a CSR address. -/
def csrGroup (a : Nat) : Nat := (a - 0x1000000000) / 0x10000000
def csrUnit (a : Nat) : Nat := a / 0x10000 % 0x1000
def csrPage (a : Nat) : Nat := a / 0x1000 % 0x10
def csrOff (a : Nat) : Nat := a % 0x1000
/-- The base address of the page that holds a CSR address. -/
def csrBase (a : Nat) : Nat := a / 0x1000 * 0x1000

/-! Group codes (Table CTL-2). -/
def grCHP : Nat := 0x00
def grCLS : Nat := 0x01
def grTIM : Nat := 0x02
def grCRG : Nat := 0x03
def grTBK : Nat := 0x04
def grSTN : Nat := 0x05
def grBOB : Nat := 0x06
def grPRG : Nat := 0x07
def grPRT : Nat := 0x08
def grGND : Nat := 0x09
def grQOS : Nat := 0x0A
def grMRG : Nat := 0x0B
def grHBC : Nat := 0x0C
def grCXP : Nat := 0x0D
def grDIR : Nat := 0x0E
def grCMB : Nat := 0x0F
def grSHT : Nat := 0x10
def grSEC : Nat := 0x11
def grFLT : Nat := 0x12
def grMBX : Nat := 0x13
def grPWR : Nat := 0x14

/-! The common page header (Table CTL-3). -/
def G_PAGE_ID (g u p : Nat) : Nat := csrAddr g u p 0x000
def G_PAGE_CAP (g u p : Nat) : Nat := csrAddr g u p 0x008
def G_CTL (g u p : Nat) : Nat := csrAddr g u p 0x010
def G_STATUS (g u p : Nat) : Nat := csrAddr g u p 0x018
def G_ERR_STICKY (g u p : Nat) : Nat := csrAddr g u p 0x020
def G_ERR_MASK (g u p : Nat) : Nat := csrAddr g u p 0x028
def G_ERR_CLASS (g u p : Nat) : Nat := csrAddr g u p 0x030
def G_ERR_INJECT (g u p : Nat) : Nat := csrAddr g u p 0x038
def G_PROGRESS (g u p : Nat) : Nat := csrAddr g u p 0x040
def G_PROGRESS_WINDOW (g u p : Nat) : Nat := csrAddr g u p 0x048
def G_GEN (g u p : Nat) : Nat := csrAddr g u p 0x050
def G_RESET_CTL (g u p : Nat) : Nat := csrAddr g u p 0x058
def G_CTL_ENABLE : Fld := ⟨0, 1⟩
def G_CTL_LEVEL : Fld := ⟨1, 1⟩
def G_STATUS_ENABLED : Fld := ⟨0, 1⟩
def G_STATUS_IN_RESET : Fld := ⟨1, 1⟩
def G_STATUS_FAULTED : Fld := ⟨2, 1⟩
def G_STATUS_FENCED : Fld := ⟨3, 1⟩
def G_STATUS_PARKED : Fld := ⟨4, 1⟩
def G_STATUS_ARMED : Fld := ⟨5, 1⟩
def G_SRC : Fld := ⟨0, 16⟩
def G_GEN_GEN : Fld := ⟨0, 8⟩
def G_PROGRESS_WINDOW_WINDOW : Fld := ⟨0, 32⟩
def G_RESET_CTL_REQ : Fld := ⟨0, 3⟩
def G_RESET_CTL_CONTEXT : Fld := ⟨16, 12⟩
def G_RESET_CTL_BUSY : Fld := ⟨32, 1⟩
def G_RESET_CTL_LAST : Fld := ⟨33, 3⟩
/-- G_ERR_CLASS.CLASSk. -/
def G_CLASS (k : Nat) : Fld := ⟨3 * k, 3⟩

/-! Table PKG-7 (R34). -/
def CRG_TBK_MAP (u : Nat) : Nat := csrAddr grCRG u 0 0x100
def CRG_TBK_MAP_SPARE_PHYS : Fld := ⟨0, 5⟩
def CRG_SLICE (u : Nat) : Nat := csrAddr grCRG u 0 0x108
def CRG_SLICE_STN_QUANTUM : Fld := ⟨0, 8⟩
def CRG_TBK_STATE (u : Nat) : Nat := csrAddr grCRG u 0 0x110
def CRG_TBK_STATE_ACTIVE : Fld := ⟨0, 17⟩
def CRG_TBK_STEPS (u : Nat) : Nat := csrAddr grCRG u 0 0xC00
def CRG_SLICE_TURNS (u : Nat) : Nat := csrAddr grCRG u 0 0xC08
def PRT_VEP_WEIGHT (u : Nat) : Nat := csrAddr grPRT u 0 0x100
def PRT_VEP_WEIGHT_VEP (k : Nat) : Fld := ⟨4 * k, 3⟩
def SHT_SLICE (u : Nat) : Nat := csrAddr grSHT u 0 0x100
def SHT_SLICE_QUANTUM : Fld := ⟨0, 8⟩
def MRG_RING_STATE (u : Nat) : Nat := csrAddr grMRG u 0 0x100
def MRG_RING_STATE_BUNDLE_UP : Fld := ⟨0, 4⟩
def MRG_RING_STATE_LIVE_MODULES : Fld := ⟨4, 20⟩

/-! Table CTL-8 (R67). -/
def CLS_CTL (u : Nat) : Nat := csrAddr grCLS u 0 0x100
def CLS_CTL_CMD : Fld := ⟨0, 3⟩
def CLS_STATE (u : Nat) : Nat := csrAddr grCLS u 0 0x108
def CLS_STATE_STATE : Fld := ⟨0, 4⟩
def CLS_STATE_REASON : Fld := ⟨4, 8⟩
def CLS_STATE_ENTRIES : Fld := ⟨16, 13⟩
def CLS_STATE_FAILED_ENTRY : Fld := ⟨32, 13⟩
def CLS_STATE_GLOBAL : Fld := ⟨48, 1⟩
def CLS_COND (u : Nat) : Nat := csrAddr grCLS u 0 0x110
def CLS_COND_KIND : Fld := ⟨0, 2⟩
def CLS_COND_ROLE : Fld := ⟨4, 2⟩
def CLS_COND_DOM : Fld := ⟨8, 2⟩
def CLS_COND_PEERS : Fld := ⟨16, 12⟩
def CLS_TIME (u : Nat) : Nat := csrAddr grCLS u 0 0x118
def CLS_GLOBAL_ID (u : Nat) : Nat := csrAddr grCLS u 0 0x120
def CLS_GLOBAL_ID_COORD_SWITCH : Fld := ⟨0, 12⟩
def CLS_GLOBAL_ID_COORD_SLOT : Fld := ⟨12, 4⟩
def CLS_GLOBAL_ID_SERIAL : Fld := ⟨16, 32⟩
def CLS_REQUESTER (u : Nat) : Nat := csrAddr grCLS u 0 0x128
def CLS_REQUESTER_KIND : Fld := ⟨0, 3⟩
def CLS_REQUESTER_PARTITION : Fld := ⟨4, 4⟩
def CLS_APPROVAL_A (u : Nat) : Nat := csrAddr grCLS u 0 0x130
def CLS_APPROVAL_A_ROLE : Fld := ⟨0, 3⟩
def CLS_APPROVAL_A_PARTITION : Fld := ⟨4, 4⟩
def CLS_APPROVAL_A_BUF : Fld := ⟨12, 36⟩
def CLS_APPROVAL_B (u : Nat) : Nat := csrAddr grCLS u 0 0x138
def CLS_DIGEST (u i : Nat) : Nat := csrAddr grCLS u 0 (0x140 + 8 * i)
def CLS_STAGE_ADDR (u : Nat) : Nat := csrAddr grCLS u 0 0x160
def CLS_STAGE_ADDR_ADDR : Fld := ⟨0, 36⟩
def CLS_STAGE_ADDR_ACTION : Fld := ⟨44, 16⟩
def CLS_STAGE_ADDR_KIND : Fld := ⟨60, 4⟩
def CLS_STAGE_MASK (u : Nat) : Nat := csrAddr grCLS u 0 0x168
def CLS_STAGE_DATA (u : Nat) : Nat := csrAddr grCLS u 0 0x170
def CLS_ALLOC : Nat := csrAddr grCLS 16 0 0x100
def CLS_ALLOC_SLOT : Fld := ⟨0, 5⟩
def CLS_ALLOC_SERIAL : Fld := ⟨32, 32⟩
def CLS_OUTCOME_USE : Nat := csrAddr grCLS 16 0 0x108
def CLS_OUTCOME_USE_ENTRIES : Fld := ⟨0, 9⟩
def CLS_COMMITS : Nat := csrAddr grCLS 16 0 0xC00
def CLS_ABORTS : Nat := csrAddr grCLS 16 0 0xC08
def CLS_LATE_COMMITS : Nat := csrAddr grCLS 16 0 0xC10

/-! Table PRK-3 (R101). -/
def TIM_NOW : Nat := csrAddr grTIM 0 0 0x100
def TIM_FRAC : Nat := csrAddr grTIM 0 0 0x108
def TIM_FRAC_FRAC : Fld := ⟨0, 16⟩
def TIM_STATE : Nat := csrAddr grTIM 0 0 0x110
def TIM_STATE_STATE : Fld := ⟨0, 2⟩
def TIM_SOURCE : Nat := csrAddr grTIM 0 0 0x118
def TIM_SOURCE_KIND : Fld := ⟨0, 3⟩
def TIM_SOURCE_PORT : Fld := ⟨8, 8⟩
def TIM_OFFSET : Nat := csrAddr grTIM 0 0 0x120
def TIM_OFFSET_OFFSET : Fld := ⟨0, 32⟩
def TIM_LIMITS : Nat := csrAddr grTIM 0 0 0x128
def TIM_LIMITS_ALIGN_LIMIT : Fld := ⟨0, 8⟩
def TIM_LIMITS_HOLDOVER_LIMIT : Fld := ⟨16, 16⟩
def TIM_LIMITS_MARK_INTERVAL : Fld := ⟨32, 16⟩
def TIM_SET : Nat := csrAddr grTIM 0 0 0x130
def TIM_MARKS_RX : Nat := csrAddr grTIM 0 0 0xC00
def TIM_ALIGN_EXCEED : Nat := csrAddr grTIM 0 0 0xC08
def TIM_DOM_ID (u : Nat) : Nat := csrAddr grTIM u 0 0x100
def TIM_DOM_ID_ID : Fld := ⟨0, 16⟩
def TIM_DOM_ID_BOUND : Fld := ⟨16, 1⟩
def TIM_DOM_ORIGIN (u : Nat) : Nat := csrAddr grTIM u 0 0x108
def TIM_DOM_ROUND (u : Nat) : Nat := csrAddr grTIM u 0 0x110
def TIM_DOM_ROUND_LEN : Fld := ⟨0, 14⟩
def TIM_DOM_ROUND_EPOCH_ROUNDS : Fld := ⟨24, 24⟩
def TIM_DOM_SLIP (u : Nat) : Nat := csrAddr grTIM u 0 0x118
def TIM_DOM_SLIP_LEAD : Fld := ⟨0, 16⟩
def TIM_DOM_SLIP_MAX_RUN : Fld := ⟨16, 8⟩
def TIM_DOM_BANK (u : Nat) : Nat := csrAddr grTIM u 0 0x120
def TIM_DOM_BANK_BANK : Fld := ⟨0, 1⟩
def TIM_DOM_PORTS (u i : Nat) : Nat := csrAddr grTIM u 0 (0x128 + 8 * i)
def TIM_DOM_POS (u : Nat) : Nat := csrAddr grTIM u 0 0x148
def TIM_DOM_SCHED (u : Nat) : Nat := csrAddr grTIM u 0 0x150
def TIM_DOM_EPOCH (u : Nat) : Nat := csrAddr grTIM u 0 0x158
def TIM_DOM_EPOCH_EPOCH : Fld := ⟨0, 32⟩
def TIM_DOM_EPOCH_IN_SLIP : Fld := ⟨32, 1⟩
def TIM_DOM_EPOCH_SCHED_IN_EPOCH : Fld := ⟨40, 24⟩
def TIM_DOM_SLIP_ROUNDS (u : Nat) : Nat := csrAddr grTIM u 0 0xC00
def TIM_DOM_SLIPS_SENT (u : Nat) : Nat := csrAddr grTIM u 0 0xC08
def TIM_DOM_SLIPS_FWD (u : Nat) : Nat := csrAddr grTIM u 0 0xC10
def TIM_DOM_SLIP_LATE (u : Nat) : Nat := csrAddr grTIM u 0 0xC18
def CRG_SCHED (u : Nat) : Nat := csrAddr grCRG u 0 0x118
def CRG_SCHED_DOM : Fld := ⟨0, 2⟩
def CRG_SCHED_BOUND : Fld := ⟨2, 1⟩
def CRG_SCHED_SLIP_THRESH : Fld := ⟨8, 8⟩
def CRG_SLIP_EPOCH (u : Nat) : Nat := csrAddr grCRG u 0 0xC10
def CRG_SLIP_EPOCH_COUNT : Fld := ⟨0, 32⟩
def CRG_SLIP_TOTAL (u : Nat) : Nat := csrAddr grCRG u 0 0xC18
def PRG_SCHED (u : Nat) : Nat := csrAddr grPRG u 0 0x100
def PRG_SLIP_EPOCH (u : Nat) : Nat := csrAddr grPRG u 0 0xC00
def PRG_SLIP_EPOCH_COUNT : Fld := ⟨0, 32⟩
def PRG_SLIP_TOTAL (u : Nat) : Nat := csrAddr grPRG u 0 0xC08
def PRG_GATE_SLIP (u : Nat) : Nat := csrAddr grPRG u 1 0x100
def PRG_GATE_SLIP_SLIP_GATES : Fld := ⟨0, 8⟩
def PRG_GATE_B0 (u i : Nat) : Nat := csrAddr grPRG u 1 (0x400 + 8 * i)
def PRG_GATE_B0_ENTRY_LO : Fld := ⟨0, 32⟩
def PRG_GATE_B0_ENTRY_HI : Fld := ⟨32, 32⟩
def PRG_GATE_B1 (u i : Nat) : Nat := csrAddr grPRG u 1 (0x800 + 8 * i)
def PRG_GATE_B1_ENTRY_LO : Fld := ⟨0, 32⟩
def PRG_GATE_B1_ENTRY_HI : Fld := ⟨32, 32⟩

/-! Table STR-10 (R129). -/
def CRG_PROG_SEL (u : Nat) : Nat := csrAddr grCRG u 0 0x120
def CRG_PROG_SEL_BANK : Fld := ⟨0, 1⟩
def CRG_PROG_SRC (u : Nat) : Nat := csrAddr grCRG u 0 0x128
def CRG_PROG_SRC_ADDR : Fld := ⟨3, 45⟩
def CRG_PROG_LOAD (u : Nat) : Nat := csrAddr grCRG u 0 0x130
def CRG_PROG_LOAD_BANK : Fld := ⟨0, 1⟩
def CRG_PROG_LOAD_BYTES : Fld := ⟨1, 21⟩
def CRG_PROG_LOAD_GO : Fld := ⟨32, 1⟩
def CRG_PROG_LOAD_BUSY : Fld := ⟨33, 1⟩
def CRG_PROG_LOAD_RESULT : Fld := ⟨35, 4⟩
def CRG_PROG_ID0 (u : Nat) : Nat := csrAddr grCRG u 0 0x138
def CRG_PROG_ID1 (u : Nat) : Nat := csrAddr grCRG u 0 0x140
def CRG_PROG_STATE (u : Nat) : Nat := csrAddr grCRG u 0 0x148
def CRG_PROG_STATE_IN_FORCE : Fld := ⟨0, 1⟩
def CRG_PROG_STATE_EPOCHS : Fld := ⟨8, 24⟩
def CRG_PROG_STATE_VALID : Fld := ⟨32, 2⟩
def CRG_STEPS_SCHED (u : Nat) : Nat := csrAddr grCRG u 0 0xC20
def CRG_STEPS_UNSCHED (u : Nat) : Nat := csrAddr grCRG u 0 0xC28
def CRG_READS (u : Nat) : Nat := csrAddr grCRG u 0 0xC30
def CRG_SRAM_CE (u : Nat) : Nat := csrAddr grCRG u 0 0xC38
def CRG_TILES_UNMATCHED (u : Nat) : Nat := csrAddr grCRG u 0 0xC40
def BOB_CTL (u : Nat) : Nat := csrAddr grBOB u 0 0x100
def BOB_CTL_CMD : Fld := ⟨0, 3⟩
def BOB_STATE (u : Nat) : Nat := csrAddr grBOB u 0 0x108
def BOB_STATE_STATE : Fld := ⟨0, 3⟩
def BOB_STATE_MODE : Fld := ⟨4, 2⟩
def BOB_STATE_BANK : Fld := ⟨6, 1⟩
def BOB_STATE_STREAM_ID : Fld := ⟨8, 20⟩
def BOB_STATE_CURSOR : Fld := ⟨32, 24⟩
def BOB_STATE_DEPTH : Fld := ⟨56, 3⟩
def BOB_POS (u : Nat) : Nat := csrAddr grBOB u 0 0x110
def BOB_POS_TILE : Fld := ⟨0, 32⟩
def BOB_POS_READS : Fld := ⟨32, 7⟩
def BOB_POS_ISSUED : Fld := ⟨40, 4⟩
def BOB_FAULT (u : Nat) : Nat := csrAddr grBOB u 0 0x118
def BOB_FAULT_CODE : Fld := ⟨0, 8⟩
def BOB_FAULT_STATION : Fld := ⟨8, 5⟩
def BOB_FAULT_DESC : Fld := ⟨16, 24⟩
def BOB_FAULT_DETAIL : Fld := ⟨40, 24⟩
def BOB_FAULT_TILE (u : Nat) : Nat := csrAddr grBOB u 0 0x120
def BOB_FAULT_TILE_TILE : Fld := ⟨0, 32⟩
def BOB_STEPS (u : Nat) : Nat := csrAddr grBOB u 0 0xC00
def BOB_READS (u : Nat) : Nat := csrAddr grBOB u 0 0xC08
def BOB_WAIT_MEM (u : Nat) : Nat := csrAddr grBOB u 0 0xC10
def STN_BIND (u : Nat) : Nat := csrAddr grSTN u 0 0x100
def STN_BIND_TYPE : Fld := ⟨0, 8⟩
def STN_BIND_TBK_MASK : Fld := ⟨16, 16⟩
def STN_BIND_FMT_IN0 : Fld := ⟨32, 8⟩
def STN_BIND_FMT_IN1 : Fld := ⟨40, 8⟩
def STN_BIND_FMT_OUT : Fld := ⟨48, 8⟩
def STN_BIND_UNSCHED : Fld := ⟨56, 1⟩
def STN_NAME0 (u : Nat) : Nat := csrAddr grSTN u 0 0x108
def STN_NAME1 (u : Nat) : Nat := csrAddr grSTN u 0 0x110
def STN_STEPS_SCHED (u : Nat) : Nat := csrAddr grSTN u 0 0xC00
def STN_STEPS_UNSCHED (u : Nat) : Nat := csrAddr grSTN u 0 0xC08
def STN_UNITS (u : Nat) : Nat := csrAddr grSTN u 0 0xC10
def STN_BYTES_IN (u : Nat) : Nat := csrAddr grSTN u 0 0xC18
def STN_BYTES_OUT (u : Nat) : Nat := csrAddr grSTN u 0 0xC20

/-! Table ARI-5 (R157). -/
def STN_SAT_OUT (u : Nat) : Nat := csrAddr grSTN u 0 0xC28
def STN_NAN_OUT (u : Nat) : Nat := csrAddr grSTN u 0 0xC30
def STN_MX_TRUNC (u : Nat) : Nat := csrAddr grSTN u 0 0xC38

/-! Table EXP-3 (R178). -/
def STN_EXP_TILES (u : Nat) : Nat := csrAddr grSTN u 0 0xC40
def STN_EXP_RES (u : Nat) : Nat := csrAddr grSTN u 0 0xC48
def STN_EXP_MEM_BYTES (u : Nat) : Nat := csrAddr grSTN u 0 0xC50
def STN_EXP_SLOT_BYTES (u : Nat) : Nat := csrAddr grSTN u 0 0xC58

/-! Table ATT-7 (R207). -/
def STN_ATT_SLICES (u : Nat) : Nat := csrAddr grSTN u 0 0xC60
def STN_ATT_PRODUCTS (u : Nat) : Nat := csrAddr grSTN u 0 0xC68
def STN_ATT_ENTRIES (u : Nat) : Nat := csrAddr grSTN u 0 0xC70
def STN_ATT_ENTRY_ERR (u : Nat) : Nat := csrAddr grSTN u 0 0xC78
def STN_ATT_COW (u : Nat) : Nat := csrAddr grSTN u 0 0xC80
def STN_ATT_PLACED (u : Nat) : Nat := csrAddr grSTN u 0 0xC88

/-! Table RGF-12 (R237). -/
def GND_COLL_SRC : Nat := csrAddr grGND 0 2 0x100
def GND_COLL_SRC_ADDR : Fld := ⟨6, 42⟩
def GND_MCAST_SRC : Nat := csrAddr grGND 0 2 0x108
def GND_MCAST_SRC_ADDR : Fld := ⟨6, 42⟩
def GND_COLL_SEL : Nat := csrAddr grGND 0 2 0x110
def GND_COLL_SEL_ID : Fld := ⟨0, 10⟩
def GND_COLL_VIEW : Nat := csrAddr grGND 0 2 0x118
def GND_COLL_VIEW_STATE : Fld := ⟨0, 2⟩
def GND_COLL_VIEW_REASON : Fld := ⟨8, 8⟩
def GND_COLL_VIEW_OPEN_SETS : Fld := ⟨16, 10⟩
def GND_COLL_VIEW_TREE_TAG : Fld := ⟨32, 32⟩
def GND_COLL_RESULTS : Nat := csrAddr grGND 0 2 0xC00
def GND_COLL_CONTRIB : Nat := csrAddr grGND 0 2 0xC08
def GND_COLL_DUP : Nat := csrAddr grGND 0 2 0xC10
def GND_COLL_STRAY : Nat := csrAddr grGND 0 2 0xC18
def GND_COLL_ABORTS : Nat := csrAddr grGND 0 2 0xC20
def GND_MCAST_COPIES : Nat := csrAddr grGND 0 2 0xC28
def GND_MCAST_DROPPED : Nat := csrAddr grGND 0 2 0xC30
def CMB_CTL (u : Nat) : Nat := csrAddr grCMB u 0 0x100
def CMB_CTL_READ_WINDOW : Fld := ⟨0, 14⟩
def CMB_CTL_ATOMIC_EN : Fld := ⟨16, 3⟩
def CMB_CTL_BATCH_MAX : Fld := ⟨24, 7⟩
def CMB_BUF_STATE (u : Nat) : Nat := csrAddr grCMB u 0 0x108
def CMB_BUF_STATE_BYTES : Fld := ⟨0, 21⟩
def CMB_READS_IN (u : Nat) : Nat := csrAddr grCMB u 0 0xC00
def CMB_READS_MERGED (u : Nat) : Nat := csrAddr grCMB u 0 0xC08
def CMB_BUF_EVICT (u : Nat) : Nat := csrAddr grCMB u 0 0xC10
def CMB_ATOMICS_IN (u : Nat) : Nat := csrAddr grCMB u 0 0xC18
def CMB_BATCHES (u : Nat) : Nat := csrAddr grCMB u 0 0xC20
def CMB_BATCH_MEMBERS (u : Nat) : Nat := csrAddr grCMB u 0 0xC28

/-! Table MEM-10 (R270). -/
def MRG_DEADLINE (u : Nat) : Nat := csrAddr grMRG u 1 0x100
def MRG_DEADLINE_T0 : Fld := ⟨0, 16⟩
def MRG_DEADLINE_T1 : Fld := ⟨16, 16⟩
def MRG_DEADLINE_T2 : Fld := ⟨32, 16⟩
def MRG_DEADLINE_T3 : Fld := ⟨48, 16⟩
def MRG_SCRUB (u : Nat) : Nat := csrAddr grMRG u 1 0x108
def MRG_SCRUB_PERIOD : Fld := ⟨0, 8⟩
def MRG_HOME_HITS (u : Nat) : Nat := csrAddr grMRG u 1 0xC00
def MRG_HOME_MISSES (u : Nat) : Nat := csrAddr grMRG u 1 0xC08
def MRG_ECC_CE (u : Nat) : Nat := csrAddr grMRG u 1 0xC10
def MRG_ECC_UE (u : Nat) : Nat := csrAddr grMRG u 1 0xC18
def MRG_MAC_FAIL (u : Nat) : Nat := csrAddr grMRG u 1 0xC20
def MRG_TIER_LATE (u : Nat) : Nat := csrAddr grMRG u 1 0xC28
def MRG_TIER_FAILED (u : Nat) : Nat := csrAddr grMRG u 1 0xC30
def MRG_LATE_DROPS (u : Nat) : Nat := csrAddr grMRG u 1 0xC38
def MRG_POISON_WRITTEN (u : Nat) : Nat := csrAddr grMRG u 1 0xC40
def MRG_REG_BASE : Nat := csrAddr grMRG 0 2 0x100
def MRG_REG_BASE_ADDR : Fld := ⟨30, 18⟩
def MRG_REG_LIMITS : Nat := csrAddr grMRG 0 2 0x108
def MRG_REG_LIMITS_HQ_TIMEOUT : Fld := ⟨0, 16⟩
def MRG_REG_LIMITS_DRAIN_LIMIT : Fld := ⟨16, 16⟩
def MRG_REG_LIMITS_RECALL_GRACE : Fld := ⟨32, 16⟩
def MRG_HQ_ADDR : Nat := csrAddr grMRG 0 2 0x110
def MRG_HQ_CTL : Nat := csrAddr grMRG 0 2 0x118
def MRG_HQ_CTL_GO : Fld := ⟨0, 1⟩
def MRG_HQ_CTL_BUSY : Fld := ⟨1, 1⟩
def MRG_HQ_CTL_RESULT : Fld := ⟨4, 2⟩
def MRG_HQ_ANSWER0 : Nat := csrAddr grMRG 0 2 0x120
def MRG_HQ_ANSWER1 : Nat := csrAddr grMRG 0 2 0x128
def MRG_CAP_PLANNED (i : Nat) : Nat := csrAddr grMRG 0 2 (0xC00 + 16 * i)
def MRG_CAP_OCCUPIED (i : Nat) : Nat := csrAddr grMRG 0 2 (0xC08 + 16 * i)
def MRG_LENT : Nat := csrAddr grMRG 0 2 0xC40
def MRG_MOVES : Nat := csrAddr grMRG 0 2 0xC48
def MRG_HOMES_LOST : Nat := csrAddr grMRG 0 2 0xC50
def MRG_WITHDRAWN : Nat := csrAddr grMRG 0 2 0xC58

/-! Table LSA-9 (R305). -/
def CHP_SWITCH_ID : Nat := csrAddr grCHP 0 0 0x128
def CHP_SWITCH_ID_ID : Fld := ⟨0, 12⟩
def PRG_DEAD_TARGET (u : Nat) : Nat := csrAddr grPRG u 0 0x108
def PRG_DEAD_TARGET_TARGET : Fld := ⟨0, 24⟩
def PRG_DEAD_TARGET_INT : Fld := ⟨24, 1⟩
def PRG_E2E_CRC (u : Nat) : Nat := csrAddr grPRG u 0 0xC10
def PRG_TARGET_DEAD (u : Nat) : Nat := csrAddr grPRG u 0 0xC18
def PRG_WRITE_FAILED (u : Nat) : Nat := csrAddr grPRG u 0 0xC20
def PRG_UNSUP_DROPS (u : Nat) : Nat := csrAddr grPRG u 0 0xC28
def CMB_REPLY_CTL (u : Nat) : Nat := csrAddr grCMB u 0 0x110
def CMB_REPLY_CTL_HOLD : Fld := ⟨0, 16⟩
def CMB_REPLY_STATE (u : Nat) : Nat := csrAddr grCMB u 0 0x118
def CMB_REPLY_STATE_PENDING : Fld := ⟨0, 13⟩
def CMB_REPLY_STATE_HELD : Fld := ⟨16, 13⟩
def CMB_REPLY_HITS (u : Nat) : Nat := csrAddr grCMB u 0 0xC30
def CMB_AMBIGUOUS (u : Nat) : Nat := csrAddr grCMB u 0 0xC38
def CMB_REPLY_EVICT (u : Nat) : Nat := csrAddr grCMB u 0 0xC40
def DIR_COH_SRC : Nat := csrAddr grDIR 0 1 0x100
def DIR_COH_SRC_ADDR : Fld := ⟨8, 40⟩
def DIR_COH_LIMITS : Nat := csrAddr grDIR 0 1 0x108
def DIR_COH_LIMITS_SNP_LIMIT : Fld := ⟨0, 16⟩
def DIR_COH_STATE : Nat := csrAddr grDIR 0 1 0x110
def DIR_COH_STATE_SET : Fld := ⟨0, 8⟩
def DIR_SNOOPS (u : Nat) : Nat := csrAddr grDIR u 0 0xC00
def DIR_WB (u : Nat) : Nat := csrAddr grDIR u 0 0xC08
def DIR_WB_PENDING (u : Nat) : Nat := csrAddr grDIR u 0 0xC10
def DIR_EVICT_CROSS (u : Nat) : Nat := csrAddr grDIR u 0 0xC18
def DIR_FILTER_EVICT (u : Nat) : Nat := csrAddr grDIR u 0 0xC20
def DIR_ENTRIES (u : Nat) : Nat := csrAddr grDIR u 0 0xC28
def DIR_ENTRIES_COUNT : Fld := ⟨0, 25⟩
def MRG_REMOTE_LIMIT : Nat := csrAddr grMRG 0 2 0x130
def MRG_REMOTE_LIMIT_LIMIT : Fld := ⟨0, 32⟩
def MRG_PUB_SRC : Nat := csrAddr grMRG 0 3 0x100
def MRG_PUB_SRC_ADDR : Fld := ⟨18, 30⟩
def MRG_PUB_USE : Nat := csrAddr grMRG 0 3 0x108
def MRG_PUB_USE_ENTRIES : Fld := ⟨0, 13⟩
def MRG_PUB_CREATED : Nat := csrAddr grMRG 0 3 0xC00
def MRG_PUB_CONFLICTS : Nat := csrAddr grMRG 0 3 0xC08
def MRG_PUB_RETIRED : Nat := csrAddr grMRG 0 3 0xC10

/-! Table SHT-8 (R327). -/
def SHT_RETRY (u : Nat) : Nat := csrAddr grSHT u 0 0x108
def SHT_RETRY_BASE : Fld := ⟨0, 16⟩
def SHT_RETRY_LIMIT : Fld := ⟨16, 3⟩
def SHT_WINDOW (u : Nat) : Nat := csrAddr grSHT u 0 0x110
def SHT_WINDOW_INIT : Fld := ⟨0, 16⟩
def SHT_WINDOW_MIN : Fld := ⟨16, 16⟩
def SHT_WINDOW_MAX : Fld := ⟨32, 16⟩
def SHT_ACK (u : Nat) : Nat := csrAddr grSHT u 0 0x118
def SHT_ACK_EVERY : Fld := ⟨0, 4⟩
def SHT_ACK_DELAY : Fld := ⟨8, 8⟩
def SHT_QP_SEL (u : Nat) : Nat := csrAddr grSHT u 0 0x120
def SHT_QP_SEL_QP : Fld := ⟨0, 11⟩
def SHT_QP_CTX (u i : Nat) : Nat := csrAddr grSHT u 0 (0x128 + 8 * i)
def SHT_SEGS_TX (u : Nat) : Nat := csrAddr grSHT u 0 0xC00
def SHT_SEGS_RX (u : Nat) : Nat := csrAddr grSHT u 0 0xC08
def SHT_RETRIES (u : Nat) : Nat := csrAddr grSHT u 0 0xC10
def SHT_NAKS_TX (u : Nat) : Nat := csrAddr grSHT u 0 0xC18
def SHT_ECHOES (u : Nat) : Nat := csrAddr grSHT u 0 0xC20
def SHT_DISCARDS (u : Nat) : Nat := csrAddr grSHT u 0 0xC28
def SHT_ACTION_SKIPPED (u : Nat) : Nat := csrAddr grSHT u 0 0xC30
def SHT_LATE_DROPS (u : Nat) : Nat := csrAddr grSHT u 0 0xC38
def SHT_REG_LIMITS : Nat := csrAddr grSHT 0 1 0x100
def SHT_REG_LIMITS_DRAIN : Fld := ⟨0, 16⟩
def SHT_REG_SEL : Nat := csrAddr grSHT 0 1 0x108
def SHT_REG_SEL_INDEX : Fld := ⟨0, 14⟩
def SHT_REG_VIEW : Nat := csrAddr grSHT 0 1 0x110
def SHT_REG_VIEW_STATE : Fld := ⟨0, 2⟩
def SHT_REG_VIEW_KEYGEN : Fld := ⟨8, 8⟩
def SHT_REG_VIEW_PENDING : Fld := ⟨16, 32⟩

/-! Table LNK-9 (R360). -/
def PRT_LINK_STATE (u : Nat) : Nat := csrAddr grPRT u 0 0x108
def PRT_LINK_STATE_STATE : Fld := ⟨0, 3⟩
def PRT_LINK_STATE_PEER_ROLE : Fld := ⟨4, 1⟩
def PRT_LINK_STATE_PEER_SWITCH : Fld := ⟨16, 12⟩
def PRT_LINK_STATE_PEER_PORT : Fld := ⟨28, 8⟩
def PRT_LINK_STATE_PEER_VEPS : Fld := ⟨36, 5⟩
def PRT_LINK_STATE_GANG_LIVE : Fld := ⟨44, 4⟩
def PRT_GANG (u : Nat) : Nat := csrAddr grPRT u 0 0x110
def PRT_GANG_WIDTH : Fld := ⟨0, 2⟩
def PRT_LINK_CFG (u : Nat) : Nat := csrAddr grPRT u 0 0x118
def PRT_LINK_CFG_AUTO_RETRY : Fld := ⟨0, 16⟩
def PRT_LINK_CFG_RETRY_LIMIT : Fld := ⟨16, 4⟩
def PRT_LINK_CFG_REPLAY_TIMEOUT : Fld := ⟨20, 12⟩
def PRT_TIME_ASYM (u : Nat) : Nat := csrAddr grPRT u 0 0x120
def PRT_TIME_ASYM_ASYM : Fld := ⟨0, 32⟩
def PRT_TIME_DELAY (u : Nat) : Nat := csrAddr grPRT u 0 0x128
def PRT_TIME_DELAY_DELAY : Fld := ⟨0, 32⟩
def PRT_TIME_DELAY_VALID : Fld := ⟨32, 1⟩
def PRT_RETRY_RTT (u : Nat) : Nat := csrAddr grPRT u 0 0x130
def PRT_RETRY_RTT_RTT : Fld := ⟨0, 16⟩
def PRT_CREDIT_ADV (u : Nat) : Nat := csrAddr grPRT u 0 0x400
def PRT_CREDIT_ADV_TC (k : Nat) : Fld := ⟨8 * k, 8⟩
def PRT_FLITS_TX (u : Nat) : Nat := csrAddr grPRT u 0 0xC00
def PRT_FLITS_RX (u : Nat) : Nat := csrAddr grPRT u 0 0xC08
def PRT_CRC_FAIL (u : Nat) : Nat := csrAddr grPRT u 0 0xC10
def PRT_REPLAYS (u : Nat) : Nat := csrAddr grPRT u 0 0xC18
def PRT_FEC_CORR (u : Nat) : Nat := csrAddr grPRT u 0 0xC20
def PRT_FEC_UNCORR (u : Nat) : Nat := csrAddr grPRT u 0 0xC28
def PRT_RETRAINS (u : Nat) : Nat := csrAddr grPRT u 0 0xC30
def PRT_CREDIT_STALL (u : Nat) : Nat := csrAddr grPRT u 0 0xC38
def PRT_MARKS_DISCARDED (u : Nat) : Nat := csrAddr grPRT u 0 0xC40
def CXP_ROLE (u : Nat) : Nat := csrAddr grCXP u 0 0x100
def CXP_ROLE_ROLE : Fld := ⟨0, 1⟩
def CXP_LINK_STATE (u : Nat) : Nat := csrAddr grCXP u 0 0x108
def CXP_LINK_STATE_STATE : Fld := ⟨0, 2⟩
def CXP_LINK_STATE_WIDTH : Fld := ⟨4, 2⟩
def CXP_LINK_STATE_SPEED : Fld := ⟨8, 1⟩
def CXP_TRAY_T2 (u : Nat) : Nat := csrAddr grCXP u 0 0x110
def CXP_TRAY_T2_BASE : Fld := ⟨0, 24⟩
def CXP_TRAY_T2_SIZE : Fld := ⟨24, 24⟩
def CXP_TRAY_T3 (u : Nat) : Nat := csrAddr grCXP u 0 0x118
def CXP_TRAY_T3_BASE : Fld := ⟨0, 24⟩
def CXP_TRAY_T3_SIZE : Fld := ⟨24, 24⟩
def CXP_HOST_CFG (u : Nat) : Nat := csrAddr grCXP u 0 0x120
def CXP_HOST_CFG_SLOT_LOG2 : Fld := ⟨0, 6⟩
def CXP_HOST_CFG_LD_MODE : Fld := ⟨8, 1⟩
def CXP_LD_PART (u : Nat) : Nat := csrAddr grCXP u 0 0x128
def CXP_LD_PART_LD (k : Nat) : Fld := ⟨4 * k, 4⟩
def CXP_LD_VALID (u : Nat) : Nat := csrAddr grCXP u 0 0x130
def CXP_LD_VALID_LD : Fld := ⟨0, 16⟩
def CXP_REQ_TX (u : Nat) : Nat := csrAddr grCXP u 0 0xC00
def CXP_POISON_RX (u : Nat) : Nat := csrAddr grCXP u 0 0xC08
def CXP_LATE_DROPS (u : Nat) : Nat := csrAddr grCXP u 0 0xC10
def CXP_CE (u : Nat) : Nat := csrAddr grCXP u 0 0xC18
def CXP_HOST_RD (u : Nat) : Nat := csrAddr grCXP u 0 0xC20
def CXP_HOST_POISON (u : Nat) : Nat := csrAddr grCXP u 0 0xC28
def CXP_HOST_WR_DISCARD (u : Nat) : Nat := csrAddr grCXP u 0 0xC30
def CXP_HOST_OVERSIZE (u : Nat) : Nat := csrAddr grCXP u 0 0xC38

/-! Table GND-3 (R392). -/
def GND_SHARED_CAP (u : Nat) : Nat := csrAddr grGND u 0 0x100
def GND_SHARED_CAP_TC (k : Nat) : Fld := ⟨8 * k, 8⟩
def GND_MARK (u : Nat) : Nat := csrAddr grGND u 0 0x108
def GND_MARK_THRESH : Fld := ⟨0, 16⟩
def GND_RESEQ (u : Nat) : Nat := csrAddr grGND u 0 0x110
def GND_RESEQ_TIMEOUT : Fld := ⟨0, 16⟩
def GND_RESEQ_OPEN_HOLD : Fld := ⟨16, 16⟩
def GND_RESEQ_FLOW_IDLE : Fld := ⟨32, 16⟩
def GND_BUF_STATE (u : Nat) : Nat := csrAddr grGND u 0 0x118
def GND_BUF_STATE_RESERVED : Fld := ⟨0, 17⟩
def GND_BUF_STATE_SHARED : Fld := ⟨17, 17⟩
def GND_RESEQ_STATE (u : Nat) : Nat := csrAddr grGND u 0 0x120
def GND_RESEQ_STATE_HELD : Fld := ⟨0, 13⟩
def GND_RESEQ_STATE_FLOWS : Fld := ⟨16, 15⟩
def GND_FLITS_IN (u : Nat) : Nat := csrAddr grGND u 0 0xC00
def GND_FLITS_OUT (u : Nat) : Nat := csrAddr grGND u 0 0xC08
def GND_CREDITS_RELEASED (u : Nat) : Nat := csrAddr grGND u 0 0xC10
def GND_MARKED (u : Nat) : Nat := csrAddr grGND u 0 0xC18
def GND_FLUSHED (u : Nat) : Nat := csrAddr grGND u 0 0xC20
def GND_RESEQ_MSGS (u : Nat) : Nat := csrAddr grGND u 0 0xC28
def GND_RESEQ_HELD (u : Nat) : Nat := csrAddr grGND u 0 0xC30
def GND_RESEQ_TIMEOUTS (u : Nat) : Nat := csrAddr grGND u 0 0xC38
def GND_RESEQ_LATE (u : Nat) : Nat := csrAddr grGND u 0 0xC40
def GND_RESEQ_FORCED (u : Nat) : Nat := csrAddr grGND u 0 0xC48
def GND_RESEQ_OPENED (u : Nat) : Nat := csrAddr grGND u 0 0xC50
def GND_ROUTE_SRC : Nat := csrAddr grGND 0 1 0x100
def GND_ROUTE_SRC_ADDR : Fld := ⟨6, 42⟩
def GND_ROUTE_CFG : Nat := csrAddr grGND 0 1 0x108
def GND_ROUTE_CFG_HOLD : Fld := ⟨0, 16⟩
def GND_UPLINK (i : Nat) : Nat := csrAddr grGND 0 1 (0x110 + 8 * i)
def GND_ROUTE_STATE : Nat := csrAddr grGND 0 1 0x130
def GND_ROUTE_STATE_LOADS : Fld := ⟨0, 32⟩
def GND_ROUTE_STATE_HOLDING : Fld := ⟨32, 1⟩
def QOS_TB_TC (u i : Nat) : Nat := csrAddr grQOS u 0 (0x100 + 8 * i)
def QOS_TB_TC_RATE : Fld := ⟨0, 20⟩
def QOS_TB_TC_REFILL : Fld := ⟨20, 20⟩
def QOS_TB_TC_BURST : Fld := ⟨40, 20⟩
def QOS_TB_TC_MODE : Fld := ⟨60, 1⟩
def QOS_VT (u : Nat) : Nat := csrAddr grQOS u 0 0x128
def QOS_VT_SHARE5 : Fld := ⟨0, 8⟩
def QOS_VT_SHARE6 : Fld := ⟨8, 8⟩
def QOS_VT_SHARE7 : Fld := ⟨16, 8⟩
def QOS_POL_VEP_A (u i : Nat) : Nat := csrAddr grQOS u 0 (0x200 + 16 * i)
def QOS_POL_VEP_A_CIR : Fld := ⟨0, 20⟩
def QOS_POL_VEP_A_REFILL : Fld := ⟨20, 20⟩
def QOS_POL_VEP_A_CBS : Fld := ⟨40, 20⟩
def QOS_POL_VEP_A_KIND : Fld := ⟨60, 2⟩
def QOS_POL_VEP_B (u i : Nat) : Nat := csrAddr grQOS u 0 (0x208 + 16 * i)
def QOS_POL_VEP_B_PIR : Fld := ⟨0, 20⟩
def QOS_POL_VEP_B_EBS_PBS : Fld := ⟨20, 20⟩
def QOS_POL_VEP_B_RED : Fld := ⟨41, 1⟩
def QOS_POL_TC_A (u i : Nat) : Nat := csrAddr grQOS u 0 (0x300 + 16 * i)
def QOS_POL_TC_A_CIR : Fld := ⟨0, 20⟩
def QOS_POL_TC_A_REFILL : Fld := ⟨20, 20⟩
def QOS_POL_TC_A_CBS : Fld := ⟨40, 20⟩
def QOS_POL_TC_A_KIND : Fld := ⟨60, 2⟩
def QOS_POL_TC_B (u i : Nat) : Nat := csrAddr grQOS u 0 (0x308 + 16 * i)
def QOS_POL_TC_B_PIR : Fld := ⟨0, 20⟩
def QOS_POL_TC_B_EBS_PBS : Fld := ⟨20, 20⟩
def QOS_POL_TC_B_RED : Fld := ⟨41, 1⟩
def QOS_POL_TC_B_AWARE : Fld := ⟨40, 1⟩
def QOS_FLITS_TC (u i : Nat) : Nat := csrAddr grQOS u 0 (0xC00 + 8 * i)
def QOS_GREEN (u : Nat) : Nat := csrAddr grQOS u 0 0xC40
def QOS_YELLOW (u : Nat) : Nat := csrAddr grQOS u 0 0xC48
def QOS_RED (u : Nat) : Nat := csrAddr grQOS u 0 0xC50
def QOS_HELD (u : Nat) : Nat := csrAddr grQOS u 0 0xC58
def QOS_REMARKED (u : Nat) : Nat := csrAddr grQOS u 0 0xC60
def QOS_TOKEN_WAIT (u : Nat) : Nat := csrAddr grQOS u 0 0xC68

/-! Table SEC-7 (R417). -/
def SEC_PART_STATE (u : Nat) : Nat := csrAddr grSEC u 0 0x100
def SEC_PART_STATE_STATE : Fld := ⟨0, 2⟩
def SEC_PART_STATE_PGEN : Fld := ⟨8, 8⟩
def SEC_PART_STATE_KEYGEN : Fld := ⟨16, 8⟩
def SEC_PART_STATE_KEY_STATE : Fld := ⟨24, 2⟩
def SEC_PART_STATE_CONSENT : Fld := ⟨28, 2⟩
def SEC_PART_MEMBERS (u : Nat) : Nat := csrAddr grSEC u 0 0x108
def SEC_PART_MEMBERS_CRG : Fld := ⟨0, 16⟩
def SEC_PART_MEMBERS_PRG : Fld := ⟨16, 16⟩
def SEC_PART_MEMBERS_COH : Fld := ⟨32, 8⟩
def SEC_PART_GRANT (u i : Nat) : Nat := csrAddr grSEC u 0 (0x110 + 8 * i)
def SEC_PART_GRANT_BASE : Fld := ⟨0, 24⟩
def SEC_PART_GRANT_SIZE : Fld := ⟨24, 24⟩
def SEC_PART_GRANT_CXP : Fld := ⟨48, 4⟩
def SEC_PART_GRANT_TIER : Fld := ⟨52, 2⟩
def SEC_PART_GRANT_VALID : Fld := ⟨63, 1⟩
def SEC_PART_TKEY (u i : Nat) : Nat := csrAddr grSEC u 0 (0x150 + 8 * i)
def SEC_PART_CONSENT_END (u : Nat) : Nat := csrAddr grSEC u 0 0x170
def SEC_TRUST (i : Nat) : Nat := csrAddr grSEC 16 0 (0x100 + 8 * i)
def SEC_DEBUG : Nat := csrAddr grSEC 16 0 0x120
def SEC_DEBUG_JTAG : Fld := ⟨0, 2⟩
def SEC_DEBUG_INJECT : Fld := ⟨2, 1⟩
def SEC_DEBUG_DUMP_DATA : Fld := ⟨3, 1⟩
def SEC_FM_KEY (i : Nat) : Nat := csrAddr grSEC 16 0 (0x128 + 8 * i)
def SEC_CUST_KEY (i : Nat) : Nat := csrAddr grSEC 16 0 (0x148 + 8 * i)
def SEC_CUST_BANK : Nat := csrAddr grSEC 16 0 0x168
def SEC_CUST_BANK_BANK : Fld := ⟨0, 2⟩
def SEC_BIND (i : Nat) : Nat := csrAddr grSEC 16 0 (0x170 + 8 * i)
def SEC_ATTEST_SRC : Nat := csrAddr grSEC 16 0 0x190
def SEC_ATTEST_SRC_ADDR : Fld := ⟨16, 32⟩
def SEC_ATTEST_CTL : Nat := csrAddr grSEC 16 0 0x198
def SEC_ATTEST_CTL_GO : Fld := ⟨0, 1⟩
def SEC_ATTEST_CTL_BUSY : Fld := ⟨1, 1⟩
def SEC_ATTEST_CTL_RESULT : Fld := ⟨4, 2⟩
def SEC_ATTEST_CTL_LENGTH : Fld := ⟨32, 16⟩
def SEC_SIGN_INDEX : Nat := csrAddr grSEC 16 0 0x1A0
def SEC_SIGN_INDEX_INDEX : Fld := ⟨0, 40⟩
def SEC_APPROVALS_OK : Nat := csrAddr grSEC 16 0 0xC00
def SEC_APPROVALS_BAD : Nat := csrAddr grSEC 16 0 0xC08
def SEC_REPORTS : Nat := csrAddr grSEC 16 0 0xC10
def SEC_ZEROIZES : Nat := csrAddr grSEC 16 0 0xC18
def SEC_RETIRE_DROPS : Nat := csrAddr grSEC 16 0 0xC20
def SEC_TAP_DENIED : Nat := csrAddr grSEC 16 0 0xC28

/-! Table FLT-9 (R444). -/
def FLT_CHIP_STATUS : Nat := csrAddr grFLT 0 0 0x100
def FLT_CHIP_STATUS_CLASS_SET : Fld := ⟨0, 5⟩
def FLT_CHIP_STATUS_SAFE : Fld := ⟨8, 1⟩
def FLT_CHIP_STATUS_ERRN : Fld := ⟨9, 1⟩
def FLT_REGION_SUM : Nat := csrAddr grFLT 0 0 0x108
def FLT_REGION_SUM_RGN : Fld := ⟨0, 16⟩
def FLT_REGION_SUM_PRG : Fld := ⟨16, 16⟩
def FLT_REGION_SUM_MRG : Fld := ⟨32, 4⟩
def FLT_REGION_SUM_CTLR : Fld := ⟨36, 1⟩
def FLT_PART_SUM : Nat := csrAddr grFLT 0 0 0x110
def FLT_PART_SUM_FENCED : Fld := ⟨0, 16⟩
def FLT_PART_SUM_RESET : Fld := ⟨16, 16⟩
def FLT_AUTO : Nat := csrAddr grFLT 0 0 0x118
def FLT_AUTO_ENGINE : Fld := ⟨0, 1⟩
def FLT_AUTO_CHIP_RESET : Fld := ⟨1, 1⟩
def FLT_AUTO_POWER : Fld := ⟨2, 1⟩
def FLT_DUMP_DST : Nat := csrAddr grFLT 0 0 0x120
def FLT_DUMP_DST_ADDR : Fld := ⟨16, 32⟩
def FLT_DUMP_CTL : Nat := csrAddr grFLT 0 0 0x128
def FLT_DUMP_CTL_GO : Fld := ⟨0, 1⟩
def FLT_DUMP_CTL_AUTO : Fld := ⟨1, 1⟩
def FLT_DUMP_CTL_SIZE_MIB : Fld := ⟨8, 8⟩
def FLT_DUMP_CTL_BUSY : Fld := ⟨32, 1⟩
def FLT_DUMP_CTL_RESULT : Fld := ⟨33, 3⟩
def FLT_DUMP_STATE : Nat := csrAddr grFLT 0 0 0x130
def FLT_DUMP_STATE_LENGTH : Fld := ⟨0, 32⟩
def FLT_DUMP_STATE_PLACEHOLDERS : Fld := ⟨32, 32⟩
def FLT_LAST_RESET : Nat := csrAddr grFLT 0 0 0x138
def FLT_LAST_RESET_CAUSE : Fld := ⟨0, 3⟩
def FLT_SAFE_ENTRIES : Nat := csrAddr grFLT 0 0 0xC00
def FLT_ESCALATIONS : Nat := csrAddr grFLT 0 0 0xC08
def FLT_CHIP_RESETS : Nat := csrAddr grFLT 0 0 0xC10
def FLT_PART_RESETS : Nat := csrAddr grFLT 0 0 0xC18
def FLT_DUMPS : Nat := csrAddr grFLT 0 0 0xC20
def FLT_RGN_STATUS (u : Nat) : Nat := csrAddr grFLT u 0 0x100
def FLT_RGN_STATUS_CLASS_SET : Fld := ⟨0, 5⟩
def FLT_TEST_RESULT (u : Nat) : Nat := csrAddr grFLT u 0 0x108
def FLT_TEST_RESULT_STATE : Fld := ⟨0, 2⟩
def FLT_TEST_RESULT_KIND : Fld := ⟨4, 4⟩
def FLT_TEST_RESULT_UNIT : Fld := ⟨16, 12⟩
def FLT_TEST_RESULT_FAILS : Fld := ⟨32, 32⟩
def FLT_LATE_DROPS (u : Nat) : Nat := csrAddr grFLT u 0 0xC00
def FLT_HANGS (u : Nat) : Nat := csrAddr grFLT u 0 0xC08
def MRG_STK_STATE (u : Nat) : Nat := csrAddr grMRG u 0 0x108
def MRG_STK_STATE_ONLINE : Fld := ⟨0, 4⟩
def TIM_DOM_RESTARTS (u : Nat) : Nat := csrAddr grTIM u 0 0xC20
def TIM_DOM_RESTART_DROPS (u : Nat) : Nat := csrAddr grTIM u 0 0xC28

/-! Table BOO-8 (R461). -/
def CHP_BOOT_STATE : Nat := csrAddr grCHP 0 0 0x100
def CHP_BOOT_STATE_STATE : Fld := ⟨0, 3⟩
def CHP_BOOT_STATE_SOURCE : Fld := ⟨4, 1⟩
def CHP_FW_VERSION : Nat := csrAddr grCHP 0 0 0x108
def CHP_RESTART : Nat := csrAddr grCHP 0 0 0x110
def CHP_RESTART_GO : Fld := ⟨0, 1⟩
def CHP_WDOG : Nat := csrAddr grCHP 0 0 0x118
def CHP_WDOG_PERIOD : Fld := ⟨0, 16⟩
def CHP_WDOG_AUTO : Fld := ⟨16, 1⟩
def CHP_WDOG_KICK : Fld := ⟨32, 1⟩
def CHP_DEVICE_ID : Nat := csrAddr grCHP 0 0 0x120
def MBX_BIND (u : Nat) : Nat := csrAddr grMBX u 0 0x100
def MBX_BIND_KIND : Fld := ⟨0, 3⟩
def MBX_BIND_ROLE : Fld := ⟨4, 3⟩
def MBX_BIND_SOURCE : Fld := ⟨16, 24⟩
def MBX_NOTIFY (u : Nat) : Nat := csrAddr grMBX u 0 0x108
def MBX_NOTIFY_MODE : Fld := ⟨0, 1⟩
def MBX_NOTIFY_BIT : Fld := ⟨8, 5⟩
def MBX_IN_STATE (u : Nat) : Nat := csrAddr grMBX u 0 0x110
def MBX_IN_STATE_COUNT : Fld := ⟨0, 5⟩
def MBX_IN_POP (u : Nat) : Nat := csrAddr grMBX u 0 0x118
def MBX_OUT_PUSH (u : Nat) : Nat := csrAddr grMBX u 0 0x120
def MBX_OUT_STATE (u : Nat) : Nat := csrAddr grMBX u 0 0x128
def MBX_OUT_STATE_COUNT : Fld := ⟨0, 5⟩
def MBX_ACCEPTED (u : Nat) : Nat := csrAddr grMBX u 0 0xC00
def MBX_REFUSED (u : Nat) : Nat := csrAddr grMBX u 0 0xC08
def MBX_SENT (u : Nat) : Nat := csrAddr grMBX u 0 0xC10
def MBX_POPPED (u : Nat) : Nat := csrAddr grMBX u 0 0xC18
def MBX_DOORBELL : Nat := csrAddr grMBX 64 0 0x100
def MBX_DOORBELL_BITS : Fld := ⟨0, 32⟩
def MBX_DB_MASK : Nat := csrAddr grMBX 64 0 0x108
def MBX_DB_MASK_BITS : Fld := ⟨0, 32⟩
def MBX_FULL_PEND : Nat := csrAddr grMBX 64 0 0x110
def MBX_FULL_MASK : Nat := csrAddr grMBX 64 0 0x118

/-! Table PWR-7 (R482). -/
def PWR_STATE : Nat := csrAddr grPWR 0 0 0x100
def PWR_STATE_DEV : Fld := ⟨0, 2⟩
def PWR_STATE_SLEEP_OK : Fld := ⟨2, 1⟩
def PWR_STATE_PARKED_RGN : Fld := ⟨16, 16⟩
def PWR_STATE_PARKED_PRG : Fld := ⟨32, 16⟩
def PWR_STANDBY : Nat := csrAddr grPWR 0 0 0x108
def PWR_STANDBY_EXIT : Fld := ⟨0, 1⟩
def PWR_SUPPLY_LIMITS : Nat := csrAddr grPWR 0 0 0x110
def PWR_SUPPLY_LIMITS_WARN_MV : Fld := ⟨0, 16⟩
def PWR_SUPPLY_LIMITS_RESET_MV : Fld := ⟨16, 16⟩
def PWR_THERM : Nat := csrAddr grPWR 0 0 0x118
def PWR_THERM_WARN : Fld := ⟨0, 8⟩
def PWR_THERM_TRIP : Fld := ⟨8, 8⟩
def PWR_RAIL_SEL : Nat := csrAddr grPWR 0 0 0x120
def PWR_RAIL_SEL_RAIL : Fld := ⟨0, 6⟩
def PWR_RAIL_VIEW : Nat := csrAddr grPWR 0 0 0x128
def PWR_RAIL_VIEW_MV : Fld := ⟨0, 16⟩
def PWR_RAIL_VIEW_STATE : Fld := ⟨16, 2⟩
def PWR_RAIL_MIN : Nat := csrAddr grPWR 0 0 0x130
def PWR_RAIL_MIN_MV : Fld := ⟨0, 16⟩
def PWR_TJ_MAX : Nat := csrAddr grPWR 0 0 0x138
def PWR_TJ_MAX_TEMP : Fld := ⟨0, 16⟩
def PWR_TJ_MAX_REGION : Fld := ⟨16, 8⟩
def PWR_TEMP_RGN (i : Nat) : Nat := csrAddr grPWR 0 0 (0x200 + 8 * i)
def PWR_TEMP_RGN_TEMP : Fld := ⟨0, 16⟩
def PWR_TEMP_PRG (i : Nat) : Nat := csrAddr grPWR 0 0 (0x280 + 8 * i)
def PWR_TEMP_PRG_TEMP : Fld := ⟨0, 16⟩
def PWR_TEMP_MRG (i : Nat) : Nat := csrAddr grPWR 0 0 (0x300 + 8 * i)
def PWR_TEMP_MRG_TEMP : Fld := ⟨0, 16⟩
def PWR_TEMP_CTLR : Nat := csrAddr grPWR 0 0 0x320
def PWR_TEMP_CTLR_TEMP : Fld := ⟨0, 16⟩
def PWR_PARKS : Nat := csrAddr grPWR 0 0 0xC00
def PWR_STANDBYS : Nat := csrAddr grPWR 0 0 0xC08

/-! The register rows of each kind of page. -/

def fd (lo w : Nat) (a : Acc) (r : Nat) (t : Ret) : FieldDef := ⟨⟨lo, w⟩, a, r, t⟩

def rowsCRG : List RegRow :=
  [⟨0x100, 8, 1, [fd 0 5 .st 16 .c]⟩,
    ⟨0x108, 8, 1, [fd 0 8 .rw 1 .p]⟩,
    ⟨0x110, 8, 1, [fd 0 17 .ro 65535 .n]⟩,
    ⟨0xC00, 8, 1, [fd 0 64 .ro 0 .p]⟩,
    ⟨0xC08, 8, 1, [fd 0 64 .ro 0 .p]⟩,
    ⟨0x118, 8, 1, [fd 0 2 .st 0 .p, fd 2 1 .st 0 .p, fd 8 8 .st 8 .p]⟩,
    ⟨0xC10, 8, 1, [fd 0 32 .ro 0 .p]⟩,
    ⟨0xC18, 8, 1, [fd 0 64 .ro 0 .p]⟩,
    ⟨0x120, 8, 1, [fd 0 1 .st 0 .p]⟩,
    ⟨0x128, 8, 1, [fd 3 45 .rw 0 .p]⟩,
    ⟨0x130, 8, 1, [fd 0 1 .rw 0 .p, fd 1 21 .rw 0 .p, fd 32 1 .w1s 0 .const, fd 33 1 .ro 0 .n, fd 35 4 .ro 0 .n]⟩,
    ⟨0x138, 8, 1, [fd 0 64 .ro 0 .p]⟩,
    ⟨0x140, 8, 1, [fd 0 64 .ro 0 .p]⟩,
    ⟨0x148, 8, 1, [fd 0 1 .ro 0 .n, fd 8 24 .ro 0 .n, fd 32 2 .ro 0 .p]⟩,
    ⟨0xC20, 8, 1, [fd 0 64 .ro 0 .p]⟩,
    ⟨0xC28, 8, 1, [fd 0 64 .ro 0 .p]⟩,
    ⟨0xC30, 8, 1, [fd 0 64 .ro 0 .p]⟩,
    ⟨0xC38, 8, 1, [fd 0 64 .ro 0 .p]⟩,
    ⟨0xC40, 8, 1, [fd 0 64 .ro 0 .p]⟩]

def rowsPRT : List RegRow :=
  [⟨0x100, 8, 1, [fd 0 3 .rw 0 .p, fd 4 3 .rw 0 .p, fd 8 3 .rw 0 .p, fd 12 3 .rw 0 .p, fd 16 3 .rw 0 .p, fd 20 3 .rw 0 .p, fd 24 3 .rw 0 .p, fd 28 3 .rw 0 .p, fd 32 3 .rw 0 .p, fd 36 3 .rw 0 .p, fd 40 3 .rw 0 .p, fd 44 3 .rw 0 .p, fd 48 3 .rw 0 .p, fd 52 3 .rw 0 .p, fd 56 3 .rw 0 .p, fd 60 3 .rw 0 .p]⟩,
    ⟨0x108, 8, 1, [fd 0 3 .ro 0 .n, fd 4 1 .ro 0 .n, fd 16 12 .ro 0 .n, fd 28 8 .ro 0 .n, fd 36 5 .ro 0 .n, fd 44 4 .ro 0 .n]⟩,
    ⟨0x110, 8, 1, [fd 0 2 .st 0 .c]⟩,
    ⟨0x118, 8, 1, [fd 0 16 .rw 100 .p, fd 16 4 .rw 8 .p, fd 20 12 .rw 100 .p]⟩,
    ⟨0x120, 8, 1, [fd 0 32 .rw 0 .c]⟩,
    ⟨0x128, 8, 1, [fd 0 32 .ro 0 .n, fd 32 1 .ro 0 .n]⟩,
    ⟨0x130, 8, 1, [fd 0 16 .ro 0 .n]⟩,
    ⟨0x400, 8, 1, [fd 0 8 .rw 0 .p, fd 8 8 .rw 0 .p, fd 16 8 .rw 0 .p, fd 24 8 .rw 0 .p, fd 32 8 .rw 0 .p, fd 40 8 .rw 0 .p, fd 48 8 .rw 0 .p, fd 56 8 .rw 0 .p]⟩,
    ⟨0xC00, 8, 1, [fd 0 64 .ro 0 .p]⟩,
    ⟨0xC08, 8, 1, [fd 0 64 .ro 0 .p]⟩,
    ⟨0xC10, 8, 1, [fd 0 64 .ro 0 .p]⟩,
    ⟨0xC18, 8, 1, [fd 0 64 .ro 0 .p]⟩,
    ⟨0xC20, 8, 1, [fd 0 64 .ro 0 .p]⟩,
    ⟨0xC28, 8, 1, [fd 0 64 .ro 0 .p]⟩,
    ⟨0xC30, 8, 1, [fd 0 64 .ro 0 .p]⟩,
    ⟨0xC38, 8, 1, [fd 0 64 .ro 0 .p]⟩,
    ⟨0xC40, 8, 1, [fd 0 64 .ro 0 .p]⟩]

def rowsSHT : List RegRow :=
  [⟨0x100, 8, 1, [fd 0 8 .rw 4 .p]⟩,
    ⟨0x108, 8, 1, [fd 0 16 .rw 16 .p, fd 16 3 .rw 7 .p]⟩,
    ⟨0x110, 8, 1, [fd 0 16 .rw 64 .p, fd 16 16 .rw 4 .p, fd 32 16 .rw 4096 .p]⟩,
    ⟨0x118, 8, 1, [fd 0 4 .rw 4 .p, fd 8 8 .rw 2 .p]⟩,
    ⟨0x120, 8, 1, [fd 0 11 .rw 0 .n]⟩,
    ⟨0x128, 8, 16, [fd 0 64 .ro 0 .n]⟩,
    ⟨0xC00, 8, 1, [fd 0 64 .ro 0 .p]⟩,
    ⟨0xC08, 8, 1, [fd 0 64 .ro 0 .p]⟩,
    ⟨0xC10, 8, 1, [fd 0 64 .ro 0 .p]⟩,
    ⟨0xC18, 8, 1, [fd 0 64 .ro 0 .p]⟩,
    ⟨0xC20, 8, 1, [fd 0 64 .ro 0 .p]⟩,
    ⟨0xC28, 8, 1, [fd 0 64 .ro 0 .p]⟩,
    ⟨0xC30, 8, 1, [fd 0 64 .ro 0 .p]⟩,
    ⟨0xC38, 8, 1, [fd 0 64 .ro 0 .p]⟩]

def rowsMRG : List RegRow :=
  [⟨0x100, 8, 1, [fd 0 4 .ro 15 .n, fd 4 20 .ro 49680 .n]⟩,
    ⟨0x108, 8, 1, [fd 0 4 .ro 15 .c]⟩]

def rowsCLSslot : List RegRow :=
  [⟨0x100, 8, 1, [fd 0 3 .wo 0 .const]⟩,
    ⟨0x108, 8, 1, [fd 0 4 .ro 0 .n, fd 4 8 .ro 0 .n, fd 16 13 .ro 0 .n, fd 32 13 .ro 0 .n, fd 48 1 .ro 0 .n]⟩,
    ⟨0x110, 8, 1, [fd 0 2 .rw 0 .n, fd 4 2 .rw 0 .n, fd 8 2 .rw 0 .n, fd 16 12 .rw 0 .n]⟩,
    ⟨0x118, 8, 1, [fd 0 64 .rw 0 .n]⟩,
    ⟨0x120, 8, 1, [fd 0 12 .rw 0 .n, fd 12 4 .rw 0 .n, fd 16 32 .rw 0 .n]⟩,
    ⟨0x128, 8, 1, [fd 0 3 .rw 0 .n, fd 4 4 .rw 0 .n]⟩,
    ⟨0x130, 8, 1, [fd 0 3 .rw 0 .n, fd 4 4 .rw 0 .n, fd 12 36 .rw 0 .n]⟩,
    ⟨0x138, 8, 1, [fd 0 3 .rw 0 .n, fd 4 4 .rw 0 .n, fd 12 36 .rw 0 .n]⟩,
    ⟨0x140, 8, 4, [fd 0 64 .ro 0 .n]⟩,
    ⟨0x160, 8, 1, [fd 0 36 .rw 0 .n, fd 44 16 .rw 0 .n, fd 60 4 .rw 0 .n]⟩,
    ⟨0x168, 8, 1, [fd 0 64 .rw 18446744073709551615 .n]⟩,
    ⟨0x170, 8, 1, [fd 0 64 .wo 0 .const]⟩]

def rowsCLS16 : List RegRow :=
  [⟨0x100, 8, 1, [fd 0 5 .rc 31 .n, fd 32 32 .rc 0 .n]⟩,
    ⟨0x108, 8, 1, [fd 0 9 .ro 0 .c]⟩,
    ⟨0xC00, 8, 1, [fd 0 64 .ro 0 .c]⟩,
    ⟨0xC08, 8, 1, [fd 0 64 .ro 0 .c]⟩,
    ⟨0xC10, 8, 1, [fd 0 64 .ro 0 .c]⟩]

def rowsTIM0 : List RegRow :=
  [⟨0x100, 8, 1, [fd 0 64 .ro 0 .n]⟩,
    ⟨0x108, 8, 1, [fd 0 16 .ro 0 .n]⟩,
    ⟨0x110, 8, 1, [fd 0 2 .ro 0 .n]⟩,
    ⟨0x118, 8, 1, [fd 0 3 .st 0 .c, fd 8 8 .st 0 .c]⟩,
    ⟨0x120, 8, 1, [fd 0 32 .ro 0 .n]⟩,
    ⟨0x128, 8, 1, [fd 0 8 .rw 8 .c, fd 16 16 .rw 100 .c, fd 32 16 .rw 16 .c]⟩,
    ⟨0x130, 8, 1, [fd 0 64 .wo 0 .const]⟩,
    ⟨0xC00, 8, 1, [fd 0 64 .ro 0 .n]⟩,
    ⟨0xC08, 8, 1, [fd 0 64 .ro 0 .n]⟩]

def rowsTIMd : List RegRow :=
  [⟨0x100, 8, 1, [fd 0 16 .st 0 .p, fd 16 1 .st 0 .p]⟩,
    ⟨0x108, 8, 1, [fd 0 64 .st 0 .p]⟩,
    ⟨0x110, 8, 1, [fd 0 14 .st 1000 .p, fd 24 24 .st 1000 .p]⟩,
    ⟨0x118, 8, 1, [fd 0 16 .st 4000 .p, fd 16 8 .st 16 .p]⟩,
    ⟨0x120, 8, 1, [fd 0 1 .st 0 .p]⟩,
    ⟨0x128, 8, 4, [fd 0 64 .st 0 .p]⟩,
    ⟨0x148, 8, 1, [fd 0 64 .ro 0 .n]⟩,
    ⟨0x150, 8, 1, [fd 0 64 .ro 0 .n]⟩,
    ⟨0x158, 8, 1, [fd 0 32 .ro 0 .n, fd 32 1 .ro 0 .n, fd 40 24 .ro 0 .n]⟩,
    ⟨0xC00, 8, 1, [fd 0 64 .ro 0 .p]⟩,
    ⟨0xC08, 8, 1, [fd 0 64 .ro 0 .p]⟩,
    ⟨0xC10, 8, 1, [fd 0 64 .ro 0 .p]⟩,
    ⟨0xC18, 8, 1, [fd 0 64 .ro 0 .p]⟩,
    ⟨0xC20, 8, 1, [fd 0 64 .ro 0 .p]⟩,
    ⟨0xC28, 8, 1, [fd 0 64 .ro 0 .p]⟩]

def rowsPRG : List RegRow :=
  [⟨0x100, 8, 1, [fd 0 2 .st 0 .p, fd 2 1 .st 0 .p, fd 8 8 .st 8 .p]⟩,
    ⟨0xC00, 8, 1, [fd 0 32 .ro 0 .p]⟩,
    ⟨0xC08, 8, 1, [fd 0 64 .ro 0 .p]⟩,
    ⟨0x108, 8, 1, [fd 0 24 .ro 0 .n, fd 24 1 .ro 0 .n]⟩,
    ⟨0xC10, 8, 1, [fd 0 64 .ro 0 .p]⟩,
    ⟨0xC18, 8, 1, [fd 0 64 .ro 0 .p]⟩,
    ⟨0xC20, 8, 1, [fd 0 64 .ro 0 .p]⟩,
    ⟨0xC28, 8, 1, [fd 0 64 .ro 0 .p]⟩]

def rowsPRGp1 : List RegRow :=
  [⟨0x100, 8, 1, [fd 0 8 .rw 255 .p]⟩,
    ⟨0x400, 8, 128, [fd 0 31 .rw 0 .p, fd 32 31 .rw 0 .p]⟩,
    ⟨0x800, 8, 128, [fd 0 31 .rw 0 .p, fd 32 31 .rw 0 .p]⟩]

def rowsBOB : List RegRow :=
  [⟨0x100, 8, 1, [fd 0 3 .wo 0 .const]⟩,
    ⟨0x108, 8, 1, [fd 0 3 .ro 0 .n, fd 4 2 .ro 0 .n, fd 6 1 .ro 0 .n, fd 8 20 .ro 0 .n, fd 32 24 .ro 0 .n, fd 56 3 .ro 0 .n]⟩,
    ⟨0x110, 8, 1, [fd 0 32 .ro 0 .n, fd 32 7 .ro 0 .n, fd 40 4 .ro 0 .n]⟩,
    ⟨0x118, 8, 1, [fd 0 8 .ro 0 .n, fd 8 5 .ro 0 .n, fd 16 24 .ro 0 .n, fd 40 24 .ro 0 .n]⟩,
    ⟨0x120, 8, 1, [fd 0 32 .ro 0 .n]⟩,
    ⟨0xC00, 8, 1, [fd 0 64 .ro 0 .p]⟩,
    ⟨0xC08, 8, 1, [fd 0 64 .ro 0 .p]⟩,
    ⟨0xC10, 8, 1, [fd 0 64 .ro 0 .p]⟩]

def rowsSTN : List RegRow :=
  [⟨0x100, 8, 1, [fd 0 8 .ro 0 .p, fd 16 16 .ro 0 .p, fd 32 8 .ro 0 .p, fd 40 8 .ro 0 .p, fd 48 8 .ro 0 .p, fd 56 1 .ro 0 .p]⟩,
    ⟨0x108, 8, 1, [fd 0 64 .ro 0 .p]⟩,
    ⟨0x110, 8, 1, [fd 0 64 .ro 0 .p]⟩,
    ⟨0xC00, 8, 1, [fd 0 64 .ro 0 .p]⟩,
    ⟨0xC08, 8, 1, [fd 0 64 .ro 0 .p]⟩,
    ⟨0xC10, 8, 1, [fd 0 64 .ro 0 .p]⟩,
    ⟨0xC18, 8, 1, [fd 0 64 .ro 0 .p]⟩,
    ⟨0xC20, 8, 1, [fd 0 64 .ro 0 .p]⟩,
    ⟨0xC28, 8, 1, [fd 0 64 .ro 0 .p]⟩,
    ⟨0xC30, 8, 1, [fd 0 64 .ro 0 .p]⟩,
    ⟨0xC38, 8, 1, [fd 0 64 .ro 0 .p]⟩,
    ⟨0xC40, 8, 1, [fd 0 64 .ro 0 .p]⟩,
    ⟨0xC48, 8, 1, [fd 0 64 .ro 0 .p]⟩,
    ⟨0xC50, 8, 1, [fd 0 64 .ro 0 .p]⟩,
    ⟨0xC58, 8, 1, [fd 0 64 .ro 0 .p]⟩,
    ⟨0xC60, 8, 1, [fd 0 64 .ro 0 .p]⟩,
    ⟨0xC68, 8, 1, [fd 0 64 .ro 0 .p]⟩,
    ⟨0xC70, 8, 1, [fd 0 64 .ro 0 .p]⟩,
    ⟨0xC78, 8, 1, [fd 0 64 .ro 0 .p]⟩,
    ⟨0xC80, 8, 1, [fd 0 64 .ro 0 .p]⟩,
    ⟨0xC88, 8, 1, [fd 0 64 .ro 0 .p]⟩]

def rowsGND0p2 : List RegRow :=
  [⟨0x100, 8, 1, [fd 6 42 .rw 0 .p]⟩,
    ⟨0x108, 8, 1, [fd 6 42 .rw 0 .p]⟩,
    ⟨0x110, 8, 1, [fd 0 10 .rw 0 .n]⟩,
    ⟨0x118, 8, 1, [fd 0 2 .ro 0 .n, fd 8 8 .ro 0 .n, fd 16 10 .ro 0 .n, fd 32 32 .ro 0 .n]⟩,
    ⟨0xC00, 8, 1, [fd 0 64 .ro 0 .p]⟩,
    ⟨0xC08, 8, 1, [fd 0 64 .ro 0 .p]⟩,
    ⟨0xC10, 8, 1, [fd 0 64 .ro 0 .p]⟩,
    ⟨0xC18, 8, 1, [fd 0 64 .ro 0 .p]⟩,
    ⟨0xC20, 8, 1, [fd 0 64 .ro 0 .p]⟩,
    ⟨0xC28, 8, 1, [fd 0 64 .ro 0 .p]⟩,
    ⟨0xC30, 8, 1, [fd 0 64 .ro 0 .p]⟩]

def rowsCMB : List RegRow :=
  [⟨0x100, 8, 1, [fd 0 14 .rw 2000 .p, fd 16 3 .rw 7 .p, fd 24 7 .rw 64 .p]⟩,
    ⟨0x108, 8, 1, [fd 0 21 .ro 0 .n]⟩,
    ⟨0xC00, 8, 1, [fd 0 64 .ro 0 .p]⟩,
    ⟨0xC08, 8, 1, [fd 0 64 .ro 0 .p]⟩,
    ⟨0xC10, 8, 1, [fd 0 64 .ro 0 .p]⟩,
    ⟨0xC18, 8, 1, [fd 0 64 .ro 0 .p]⟩,
    ⟨0xC20, 8, 1, [fd 0 64 .ro 0 .p]⟩,
    ⟨0xC28, 8, 1, [fd 0 64 .ro 0 .p]⟩,
    ⟨0x110, 8, 1, [fd 0 16 .rw 2000 .p]⟩,
    ⟨0x118, 8, 1, [fd 0 13 .ro 0 .n, fd 16 13 .ro 0 .n]⟩,
    ⟨0xC30, 8, 1, [fd 0 64 .ro 0 .p]⟩,
    ⟨0xC38, 8, 1, [fd 0 64 .ro 0 .p]⟩,
    ⟨0xC40, 8, 1, [fd 0 64 .ro 0 .p]⟩]

def rowsMRGnp1 : List RegRow :=
  [⟨0x100, 8, 1, [fd 0 16 .rw 5 .p, fd 16 16 .rw 20 .p, fd 32 16 .rw 20 .p, fd 48 16 .rw 1000 .p]⟩,
    ⟨0x108, 8, 1, [fd 0 8 .rw 24 .p]⟩,
    ⟨0xC00, 8, 1, [fd 0 64 .ro 0 .p]⟩,
    ⟨0xC08, 8, 1, [fd 0 64 .ro 0 .p]⟩,
    ⟨0xC10, 8, 1, [fd 0 64 .ro 0 .p]⟩,
    ⟨0xC18, 8, 1, [fd 0 64 .ro 0 .p]⟩,
    ⟨0xC20, 8, 1, [fd 0 64 .ro 0 .p]⟩,
    ⟨0xC28, 8, 1, [fd 0 64 .ro 0 .p]⟩,
    ⟨0xC30, 8, 1, [fd 0 64 .ro 0 .p]⟩,
    ⟨0xC38, 8, 1, [fd 0 64 .ro 0 .p]⟩,
    ⟨0xC40, 8, 1, [fd 0 64 .ro 0 .p]⟩]

def rowsMRG0p2 : List RegRow :=
  [⟨0x100, 8, 1, [fd 30 18 .st 0 .p]⟩,
    ⟨0x108, 8, 1, [fd 0 16 .rw 100 .p, fd 16 16 .rw 50 .p, fd 32 16 .rw 100 .p]⟩,
    ⟨0x110, 8, 1, [fd 0 64 .rw 0 .n]⟩,
    ⟨0x118, 8, 1, [fd 0 1 .w1s 0 .const, fd 1 1 .ro 0 .n, fd 4 2 .ro 0 .n]⟩,
    ⟨0x120, 8, 1, [fd 0 64 .ro 0 .n]⟩,
    ⟨0x128, 8, 1, [fd 0 64 .ro 0 .n]⟩,
    ⟨0xC00, 16, 4, [fd 0 64 .ro 0 .p]⟩,
    ⟨0xC08, 16, 4, [fd 0 64 .ro 0 .p]⟩,
    ⟨0xC40, 8, 1, [fd 0 64 .ro 0 .p]⟩,
    ⟨0xC48, 8, 1, [fd 0 64 .ro 0 .p]⟩,
    ⟨0xC50, 8, 1, [fd 0 64 .ro 0 .p]⟩,
    ⟨0xC58, 8, 1, [fd 0 64 .ro 0 .p]⟩,
    ⟨0x130, 8, 1, [fd 0 32 .rw 1000 .p]⟩]

def rowsCHP : List RegRow :=
  [⟨0x128, 8, 1, [fd 0 12 .st 4095 .c]⟩,
    ⟨0x100, 8, 1, [fd 0 3 .ro 0 .n, fd 4 1 .ro 0 .n]⟩,
    ⟨0x108, 8, 1, [fd 0 64 .ro 0 .n]⟩,
    ⟨0x110, 8, 1, [fd 0 1 .w1s 0 .const]⟩,
    ⟨0x118, 8, 1, [fd 0 16 .rw 1000 .c, fd 16 1 .rw 1 .c, fd 32 1 .w1s 0 .const]⟩,
    ⟨0x120, 8, 1, [fd 0 64 .ro 0 .const]⟩]

def rowsDIR0p1 : List RegRow :=
  [⟨0x100, 8, 1, [fd 8 40 .rw 0 .p]⟩,
    ⟨0x108, 8, 1, [fd 0 16 .rw 50 .p]⟩,
    ⟨0x110, 8, 1, [fd 0 8 .ro 0 .n]⟩]

def rowsDIR : List RegRow :=
  [⟨0xC00, 8, 1, [fd 0 64 .ro 0 .p]⟩,
    ⟨0xC08, 8, 1, [fd 0 64 .ro 0 .p]⟩,
    ⟨0xC10, 8, 1, [fd 0 64 .ro 0 .p]⟩,
    ⟨0xC18, 8, 1, [fd 0 64 .ro 0 .p]⟩,
    ⟨0xC20, 8, 1, [fd 0 64 .ro 0 .p]⟩,
    ⟨0xC28, 8, 1, [fd 0 25 .ro 0 .n]⟩]

def rowsMRG0p3 : List RegRow :=
  [⟨0x100, 8, 1, [fd 18 30 .st 0 .p]⟩,
    ⟨0x108, 8, 1, [fd 0 13 .ro 0 .p]⟩,
    ⟨0xC00, 8, 1, [fd 0 64 .ro 0 .p]⟩,
    ⟨0xC08, 8, 1, [fd 0 64 .ro 0 .p]⟩,
    ⟨0xC10, 8, 1, [fd 0 64 .ro 0 .p]⟩]

def rowsSHT0p1 : List RegRow :=
  [⟨0x100, 8, 1, [fd 0 16 .rw 50 .p]⟩,
    ⟨0x108, 8, 1, [fd 0 14 .rw 0 .n]⟩,
    ⟨0x110, 8, 1, [fd 0 2 .ro 0 .n, fd 8 8 .ro 0 .n, fd 16 32 .ro 0 .n]⟩]

def rowsCXP : List RegRow :=
  [⟨0x100, 8, 1, [fd 0 1 .st 0 .c]⟩,
    ⟨0x108, 8, 1, [fd 0 2 .ro 0 .n, fd 4 2 .ro 0 .n, fd 8 1 .ro 0 .n]⟩,
    ⟨0x110, 8, 1, [fd 0 24 .st 0 .c, fd 24 24 .st 0 .c]⟩,
    ⟨0x118, 8, 1, [fd 0 24 .st 0 .c, fd 24 24 .st 0 .c]⟩,
    ⟨0x120, 8, 1, [fd 0 6 .st 34 .c, fd 8 1 .st 0 .c]⟩,
    ⟨0x128, 8, 1, [fd 0 4 .st 0 .c, fd 4 4 .st 0 .c, fd 8 4 .st 0 .c, fd 12 4 .st 0 .c, fd 16 4 .st 0 .c, fd 20 4 .st 0 .c, fd 24 4 .st 0 .c, fd 28 4 .st 0 .c, fd 32 4 .st 0 .c, fd 36 4 .st 0 .c, fd 40 4 .st 0 .c, fd 44 4 .st 0 .c, fd 48 4 .st 0 .c, fd 52 4 .st 0 .c, fd 56 4 .st 0 .c, fd 60 4 .st 0 .c]⟩,
    ⟨0x130, 8, 1, [fd 0 16 .st 0 .c]⟩,
    ⟨0xC00, 8, 1, [fd 0 64 .ro 0 .p]⟩,
    ⟨0xC08, 8, 1, [fd 0 64 .ro 0 .p]⟩,
    ⟨0xC10, 8, 1, [fd 0 64 .ro 0 .p]⟩,
    ⟨0xC18, 8, 1, [fd 0 64 .ro 0 .p]⟩,
    ⟨0xC20, 8, 1, [fd 0 64 .ro 0 .p]⟩,
    ⟨0xC28, 8, 1, [fd 0 64 .ro 0 .p]⟩,
    ⟨0xC30, 8, 1, [fd 0 64 .ro 0 .p]⟩,
    ⟨0xC38, 8, 1, [fd 0 64 .ro 0 .p]⟩]

def rowsGND : List RegRow :=
  [⟨0x100, 8, 1, [fd 0 8 .rw 220 .p, fd 8 8 .rw 220 .p, fd 16 8 .rw 220 .p, fd 24 8 .rw 220 .p, fd 32 8 .rw 220 .p, fd 40 8 .rw 16 .p, fd 48 8 .rw 4 .p, fd 56 8 .rw 220 .p]⟩,
    ⟨0x108, 8, 1, [fd 0 16 .rw 512 .p]⟩,
    ⟨0x110, 8, 1, [fd 0 16 .rw 100 .p, fd 16 16 .rw 10 .p, fd 32 16 .rw 1000 .p]⟩,
    ⟨0x118, 8, 1, [fd 0 17 .ro 0 .n, fd 17 17 .ro 0 .n]⟩,
    ⟨0x120, 8, 1, [fd 0 13 .ro 0 .n, fd 16 15 .ro 0 .n]⟩,
    ⟨0xC00, 8, 1, [fd 0 64 .ro 0 .p]⟩,
    ⟨0xC08, 8, 1, [fd 0 64 .ro 0 .p]⟩,
    ⟨0xC10, 8, 1, [fd 0 64 .ro 0 .p]⟩,
    ⟨0xC18, 8, 1, [fd 0 64 .ro 0 .p]⟩,
    ⟨0xC20, 8, 1, [fd 0 64 .ro 0 .p]⟩,
    ⟨0xC28, 8, 1, [fd 0 64 .ro 0 .p]⟩,
    ⟨0xC30, 8, 1, [fd 0 64 .ro 0 .p]⟩,
    ⟨0xC38, 8, 1, [fd 0 64 .ro 0 .p]⟩,
    ⟨0xC40, 8, 1, [fd 0 64 .ro 0 .p]⟩,
    ⟨0xC48, 8, 1, [fd 0 64 .ro 0 .p]⟩,
    ⟨0xC50, 8, 1, [fd 0 64 .ro 0 .p]⟩]

def rowsGND0p1 : List RegRow :=
  [⟨0x100, 8, 1, [fd 6 42 .rw 0 .p]⟩,
    ⟨0x108, 8, 1, [fd 0 16 .rw 50 .p]⟩,
    ⟨0x110, 8, 4, [fd 0 64 .st 0 .c]⟩,
    ⟨0x130, 8, 1, [fd 0 32 .ro 0 .c, fd 32 1 .ro 0 .n]⟩]

def rowsQOS : List RegRow :=
  [⟨0x100, 8, 5, [fd 0 20 .rw 1024 .p, fd 20 20 .rw 1 .p, fd 40 20 .rw 64 .p, fd 60 1 .rw 0 .p]⟩,
    ⟨0x128, 8, 1, [fd 0 8 .rw 16 .p, fd 8 8 .rw 8 .p, fd 16 8 .rw 128 .p]⟩,
    ⟨0x200, 16, 16, [fd 0 20 .rw 0 .p, fd 20 20 .rw 1 .p, fd 40 20 .rw 0 .p, fd 60 2 .rw 0 .p]⟩,
    ⟨0x208, 16, 16, [fd 0 20 .rw 0 .p, fd 20 20 .rw 0 .p, fd 41 1 .rw 0 .p]⟩,
    ⟨0x300, 16, 6, [fd 0 20 .rw 0 .p, fd 20 20 .rw 1 .p, fd 40 20 .rw 0 .p, fd 60 2 .rw 0 .p]⟩,
    ⟨0x308, 16, 6, [fd 0 20 .rw 0 .p, fd 20 20 .rw 0 .p, fd 41 1 .rw 0 .p, fd 40 1 .rw 0 .p]⟩,
    ⟨0xC00, 8, 8, [fd 0 64 .ro 0 .p]⟩,
    ⟨0xC40, 8, 1, [fd 0 64 .ro 0 .p]⟩,
    ⟨0xC48, 8, 1, [fd 0 64 .ro 0 .p]⟩,
    ⟨0xC50, 8, 1, [fd 0 64 .ro 0 .p]⟩,
    ⟨0xC58, 8, 1, [fd 0 64 .ro 0 .p]⟩,
    ⟨0xC60, 8, 1, [fd 0 64 .ro 0 .p]⟩,
    ⟨0xC68, 8, 1, [fd 0 64 .ro 0 .p]⟩]

def rowsSECp : List RegRow :=
  [⟨0x100, 8, 1, [fd 0 2 .ro 0 .p, fd 8 8 .ro 0 .c, fd 16 8 .ro 0 .c, fd 24 2 .ro 0 .p, fd 28 2 .ro 0 .p]⟩,
    ⟨0x108, 8, 1, [fd 0 16 .st 0 .p, fd 16 16 .st 0 .p, fd 32 8 .st 0 .p]⟩,
    ⟨0x110, 8, 8, [fd 0 24 .st 0 .p, fd 24 24 .st 0 .p, fd 48 4 .st 0 .p, fd 52 2 .st 0 .p, fd 63 1 .st 0 .p]⟩,
    ⟨0x150, 8, 4, [fd 0 64 .ro 0 .p]⟩,
    ⟨0x170, 8, 1, [fd 0 64 .ro 0 .p]⟩]

def rowsSEC16 : List RegRow :=
  [⟨0x100, 8, 4, [fd 0 64 .st 0 .p]⟩,
    ⟨0x120, 8, 1, [fd 0 2 .st 1 .p, fd 2 1 .st 0 .p, fd 3 1 .st 0 .p]⟩,
    ⟨0x128, 8, 4, [fd 0 64 .ro 0 .p]⟩,
    ⟨0x148, 8, 4, [fd 0 64 .ro 0 .const]⟩,
    ⟨0x168, 8, 1, [fd 0 2 .ro 0 .const]⟩,
    ⟨0x170, 8, 4, [fd 0 64 .st 0 .n]⟩,
    ⟨0x190, 8, 1, [fd 16 32 .rw 0 .p]⟩,
    ⟨0x198, 8, 1, [fd 0 1 .w1s 0 .const, fd 1 1 .ro 0 .n, fd 4 2 .ro 0 .n, fd 32 16 .ro 0 .n]⟩,
    ⟨0x1A0, 8, 1, [fd 0 40 .ro 0 .const]⟩,
    ⟨0xC00, 8, 1, [fd 0 64 .ro 0 .p]⟩,
    ⟨0xC08, 8, 1, [fd 0 64 .ro 0 .p]⟩,
    ⟨0xC10, 8, 1, [fd 0 64 .ro 0 .p]⟩,
    ⟨0xC18, 8, 1, [fd 0 64 .ro 0 .p]⟩,
    ⟨0xC20, 8, 1, [fd 0 64 .ro 0 .p]⟩,
    ⟨0xC28, 8, 1, [fd 0 64 .ro 0 .p]⟩]

def rowsFLT0 : List RegRow :=
  [⟨0x100, 8, 1, [fd 0 5 .ro 0 .n, fd 8 1 .ro 0 .n, fd 9 1 .ro 0 .n]⟩,
    ⟨0x108, 8, 1, [fd 0 16 .ro 0 .n, fd 16 16 .ro 0 .n, fd 32 4 .ro 0 .n, fd 36 1 .ro 0 .n]⟩,
    ⟨0x110, 8, 1, [fd 0 16 .ro 0 .n, fd 16 16 .ro 0 .n]⟩,
    ⟨0x118, 8, 1, [fd 0 1 .rw 1 .c, fd 1 1 .rw 0 .c, fd 2 1 .rw 1 .c]⟩,
    ⟨0x120, 8, 1, [fd 16 32 .rw 0 .c]⟩,
    ⟨0x128, 8, 1, [fd 0 1 .w1s 0 .const, fd 1 1 .rw 1 .c, fd 8 8 .rw 64 .c, fd 32 1 .ro 0 .n, fd 33 3 .ro 0 .n]⟩,
    ⟨0x130, 8, 1, [fd 0 32 .ro 0 .n, fd 32 32 .ro 0 .n]⟩,
    ⟨0x138, 8, 1, [fd 0 3 .ro 5 .c]⟩,
    ⟨0xC00, 8, 1, [fd 0 64 .ro 0 .c]⟩,
    ⟨0xC08, 8, 1, [fd 0 64 .ro 0 .c]⟩,
    ⟨0xC10, 8, 1, [fd 0 64 .ro 0 .c]⟩,
    ⟨0xC18, 8, 1, [fd 0 64 .ro 0 .c]⟩,
    ⟨0xC20, 8, 1, [fd 0 64 .ro 0 .c]⟩]

def rowsFLTr : List RegRow :=
  [⟨0x100, 8, 1, [fd 0 5 .ro 0 .n]⟩,
    ⟨0x108, 8, 1, [fd 0 2 .ro 0 .n, fd 4 4 .ro 0 .n, fd 16 12 .ro 0 .n, fd 32 32 .ro 0 .n]⟩,
    ⟨0xC00, 8, 1, [fd 0 64 .ro 0 .p]⟩,
    ⟨0xC08, 8, 1, [fd 0 64 .ro 0 .p]⟩]

def rowsMBX : List RegRow :=
  [⟨0x100, 8, 1, [fd 0 3 .st 0 .c, fd 4 3 .st 0 .c, fd 16 24 .st 0 .c]⟩,
    ⟨0x108, 8, 1, [fd 0 1 .rw 1 .c, fd 8 5 .rw 0 .c]⟩,
    ⟨0x110, 8, 1, [fd 0 5 .ro 0 .n]⟩,
    ⟨0x118, 8, 1, [fd 0 64 .rc 0 .n]⟩,
    ⟨0x120, 8, 1, [fd 0 64 .wo 0 .const]⟩,
    ⟨0x128, 8, 1, [fd 0 5 .ro 0 .n]⟩,
    ⟨0xC00, 8, 1, [fd 0 64 .ro 0 .c]⟩,
    ⟨0xC08, 8, 1, [fd 0 64 .ro 0 .c]⟩,
    ⟨0xC10, 8, 1, [fd 0 64 .ro 0 .c]⟩,
    ⟨0xC18, 8, 1, [fd 0 64 .ro 0 .c]⟩]

def rowsMBX64 : List RegRow :=
  [⟨0x100, 8, 1, [fd 0 32 .w1c 0 .n]⟩,
    ⟨0x108, 8, 1, [fd 0 32 .rw 0 .c]⟩,
    ⟨0x110, 8, 1, [fd 0 64 .w1c 0 .n]⟩,
    ⟨0x118, 8, 1, [fd 0 64 .rw 0 .c]⟩]

def rowsPWR : List RegRow :=
  [⟨0x100, 8, 1, [fd 0 2 .ro 0 .n, fd 2 1 .ro 0 .n, fd 16 16 .ro 0 .n, fd 32 16 .ro 0 .n]⟩,
    ⟨0x108, 8, 1, [fd 0 1 .w1s 0 .const]⟩,
    ⟨0x110, 8, 1, [fd 0 16 .rw 680 .ck, fd 16 16 .ro 620 .const]⟩,
    ⟨0x118, 8, 1, [fd 0 8 .rw 95 .ck, fd 8 8 .ro 110 .const]⟩,
    ⟨0x120, 8, 1, [fd 0 6 .rw 0 .n]⟩,
    ⟨0x128, 8, 1, [fd 0 16 .ro 0 .n, fd 16 2 .ro 0 .n]⟩,
    ⟨0x130, 8, 1, [fd 0 16 .rc 65535 .n]⟩,
    ⟨0x138, 8, 1, [fd 0 16 .ro 0 .n, fd 16 8 .ro 0 .n]⟩,
    ⟨0x200, 8, 16, [fd 0 16 .ro 0 .n]⟩,
    ⟨0x280, 8, 16, [fd 0 16 .ro 0 .n]⟩,
    ⟨0x300, 8, 4, [fd 0 16 .ro 0 .n]⟩,
    ⟨0x320, 8, 1, [fd 0 16 .ro 0 .n]⟩,
    ⟨0xC00, 8, 1, [fd 0 64 .ro 0 .p]⟩,
    ⟨0xC08, 8, 1, [fd 0 64 .ro 0 .p]⟩]

/-- The register rows of a page beyond the common header (none: the page has only its header). -/
def pageRows (g u p : Nat) : List RegRow :=
  match g, p with
  | 0x03, 0 => rowsCRG
  | 0x08, 0 => rowsPRT
  | 0x10, 0 => rowsSHT
  | 0x0B, 0 => rowsMRG
  | 0x01, 0 => if u = 16 then rowsCLS16 else rowsCLSslot
  | 0x02, 0 => if u = 0 then rowsTIM0 else rowsTIMd
  | 0x07, 0 => rowsPRG
  | 0x07, 1 => rowsPRGp1
  | 0x06, 0 => rowsBOB
  | 0x05, 0 => rowsSTN
  | 0x09, 2 => if u = 0 then rowsGND0p2 else []
  | 0x0F, 0 => rowsCMB
  | 0x0B, 1 => rowsMRGnp1
  | 0x0B, 2 => if u = 0 then rowsMRG0p2 else []
  | 0x00, 0 => rowsCHP
  | 0x0E, 1 => if u = 0 then rowsDIR0p1 else []
  | 0x0E, 0 => rowsDIR
  | 0x0B, 3 => if u = 0 then rowsMRG0p3 else []
  | 0x10, 1 => if u = 0 then rowsSHT0p1 else []
  | 0x0D, 0 => rowsCXP
  | 0x09, 0 => rowsGND
  | 0x09, 1 => if u = 0 then rowsGND0p1 else []
  | 0x0A, 0 => rowsQOS
  | 0x11, 0 => if u = 16 then rowsSEC16 else rowsSECp
  | 0x12, 0 => if u = 0 then rowsFLT0 else rowsFLTr
  | 0x13, 0 => if u = 64 then rowsMBX64 else rowsMBX
  | 0x14, 0 => rowsPWR
  | _, _ => []

/-- The units of a group (R22, Table PKG-4; R67; R101; Table GND-7; R393; R444; R461; R482). Of group DBG the manual
gives pages and no unit: DEDUCED, one unit with the common header alone (log entry 4). -/
def unitExists (g u : Nat) : Bool :=
  match g with
  | 0x00 => u == 0
  | 0x01 => u ≤ 16
  | 0x02 => u ≤ 4
  | 0x03 => u < 16
  | 0x04 => u < 272
  | 0x05 => u < 512
  | 0x06 => u < 4096
  | 0x07 => u < 16
  | 0x08 => u < 256
  | 0x09 => u < 16
  | 0x0A => u < 256
  | 0x0B => u < 4
  | 0x0C => u < 512
  | 0x0D => u < 16
  | 0x0E => u < 16
  | 0x0F => u < 16
  | 0x10 => u < 16
  | 0x11 => u ≤ 16
  | 0x12 => u == 0 || (0x10 ≤ u && u ≤ 0x1F) || (0x20 ≤ u && u ≤ 0x2F) || (0x30 ≤ u && u ≤ 0x33) || u == 0x40
  | 0x13 => u ≤ 64
  | 0x14 => u == 0
  | 0x15 => u == 0
  | _ => false

/-- PAGE_CAP.LAST_PAGE: the highest page of a unit (R42 and the page placements of each chapter). -/
def lastPage (g u : Nat) : Nat :=
  match g with
  | 0x07 => 1
  | 0x09 => if u = 0 then 2 else 0
  | 0x0B => if u = 0 then 3 else 1
  | 0x0E => if u = 0 then 1 else 0
  | 0x10 => if u = 0 then 1 else 0
  | _ => 0

/-- A fault source: its page (group and page) and its bit (Table FLT-1). The unit is given beside it. -/
structure Src where
  g : Nat
  p : Nat
  bit : Nat
  deriving DecidableEq, Repr

/-! The fault sources of Table FLT-1. -/
def srcCHP_CSR_ACCESS : Src := ⟨grCHP, 0, 0⟩
def srcCHP_UCIE_MODULE_DOWN : Src := ⟨grCHP, 0, 1⟩
def srcCHP_CTL_LINK_REROUTED : Src := ⟨grCHP, 0, 2⟩
def srcCHP_RING_BROKEN : Src := ⟨grCHP, 0, 3⟩
def srcCHP_FD_ISOLATED : Src := ⟨grCHP, 0, 4⟩
def srcCHP_FUSE_MISMATCH : Src := ⟨grCHP, 0, 5⟩
def srcCHP_SIDE_BUS : Src := ⟨grCHP, 0, 6⟩
def srcCHP_FW_WATCHDOG : Src := ⟨grCHP, 0, 7⟩
def srcCLS_CLAUSE_IN_DOUBT : Src := ⟨grCLS, 0, 0⟩
def srcCLS_CLAUSE_LATE_COMMIT : Src := ⟨grCLS, 0, 1⟩
def srcTIM_TIME_ALIGN : Src := ⟨grTIM, 0, 0⟩
def srcTIM_TIME_HOLDOVER : Src := ⟨grTIM, 0, 1⟩
def srcTIM_TIME_UNLOCKED : Src := ⟨grTIM, 0, 2⟩
def srcTIM_SLIP_LATE : Src := ⟨grTIM, 0, 0⟩
def srcTIM_SLIP_STALL : Src := ⟨grTIM, 0, 1⟩
def srcCRG_STRAGGLER : Src := ⟨grCRG, 0, 0⟩
def srcCRG_PROG_TRUNCATED : Src := ⟨grCRG, 0, 3⟩
def srcCRG_SRAM_UE_IDLE : Src := ⟨grCRG, 0, 4⟩
def srcCRG_PROG_INVALID : Src := ⟨grCRG, 0, 1⟩
def srcCRG_UNMATCHED_TILE : Src := ⟨grCRG, 0, 2⟩
def srcCRG_STALE_TILE : Src := ⟨grCRG, 0, 5⟩
def srcCRG_ACC_UE : Src := ⟨grCRG, 0, 6⟩
def srcCRG_HANG : Src := ⟨grCRG, 0, 15⟩
def srcTBK_TBK_UE : Src := ⟨grTBK, 0, 0⟩
def srcTBK_HANG : Src := ⟨grTBK, 0, 15⟩
def srcSTN_HANG : Src := ⟨grSTN, 0, 15⟩
def srcBOB_STEP_FAULT : Src := ⟨grBOB, 0, 0⟩
def srcBOB_HANG : Src := ⟨grBOB, 0, 15⟩
def srcPRG_STRAGGLER : Src := ⟨grPRG, 0, 0⟩
def srcPRG_TARGET_DEAD_SEEN : Src := ⟨grPRG, 0, 2⟩
def srcPRG_E2E_CRC : Src := ⟨grPRG, 0, 1⟩
def srcPRG_HANG : Src := ⟨grPRG, 0, 15⟩
def srcPRT_LINK_DOWN : Src := ⟨grPRT, 0, 0⟩
def srcPRT_LINK_RETRAIN : Src := ⟨grPRT, 0, 1⟩
def srcPRT_LINK_PARAM : Src := ⟨grPRT, 0, 2⟩
def srcPRT_LINK_ROLE : Src := ⟨grPRT, 0, 3⟩
def srcPRT_PEER_FAULT_IDLE : Src := ⟨grPRT, 0, 4⟩
def srcPRT_GANG_DEGRADED : Src := ⟨grPRT, 0, 5⟩
def srcPRT_PORT_FENCED : Src := ⟨grPRT, 0, 6⟩
def srcPRT_HANG : Src := ⟨grPRT, 0, 15⟩
def srcSHT_QP_ERROR : Src := ⟨grSHT, 0, 0⟩
def srcSHT_HANG : Src := ⟨grSHT, 0, 15⟩
def srcSHT_REVOKE_LATE : Src := ⟨grSHT, 1, 0⟩
def srcCMB_HANG : Src := ⟨grCMB, 0, 15⟩
def srcGND_RESEQ_TIMEOUT : Src := ⟨grGND, 0, 0⟩
def srcGND_RESEQ_FORCED : Src := ⟨grGND, 0, 1⟩
def srcGND_HANG : Src := ⟨grGND, 0, 15⟩
def srcGND_COLL_ABORTED : Src := ⟨grGND, 2, 0⟩
def srcGND_COLL_DUP : Src := ⟨grGND, 2, 1⟩
def srcGND_COLL_STRAY : Src := ⟨grGND, 2, 2⟩
def srcMRG_HANG : Src := ⟨grMRG, 0, 15⟩
def srcMRG_HBC_UE : Src := ⟨grMRG, 1, 0⟩
def srcMRG_MAC_FAIL : Src := ⟨grMRG, 1, 1⟩
def srcMRG_MOVE_DRAIN : Src := ⟨grMRG, 2, 0⟩
def srcMRG_HOME_DECLARED_LOST : Src := ⟨grMRG, 2, 1⟩
def srcMRG_LEASE_RECALLED : Src := ⟨grMRG, 2, 2⟩
def srcHBC_HBC_PHY : Src := ⟨grHBC, 0, 0⟩
def srcHBC_HANG : Src := ⟨grHBC, 0, 15⟩
def srcCXP_CXP_LINK_DOWN : Src := ⟨grCXP, 0, 0⟩
def srcCXP_CXP_UE : Src := ⟨grCXP, 0, 1⟩
def srcCXP_TRAY_CONFIG : Src := ⟨grCXP, 0, 2⟩
def srcCXP_TRAY_POISON : Src := ⟨grCXP, 0, 3⟩
def srcCXP_HOST_WRITE : Src := ⟨grCXP, 0, 4⟩
def srcCXP_HANG : Src := ⟨grCXP, 0, 15⟩
def srcDIR_COH_SNP_TIMEOUT : Src := ⟨grDIR, 0, 0⟩
def srcDIR_COH_WB_TIMEOUT : Src := ⟨grDIR, 0, 1⟩
def srcDIR_COH_PROTOCOL : Src := ⟨grDIR, 0, 2⟩
def srcDIR_DIR_UE : Src := ⟨grDIR, 0, 3⟩
def srcDIR_HANG : Src := ⟨grDIR, 0, 15⟩
def srcSEC_SIGN_STATE : Src := ⟨grSEC, 0, 0⟩
def srcSEC_TAP_DENIED : Src := ⟨grSEC, 0, 1⟩
def srcPWR_SUPPLY_WARN : Src := ⟨grPWR, 0, 0⟩
def srcPWR_THERM_WARN : Src := ⟨grPWR, 0, 1⟩
def srcPWR_THERM_TRIP : Src := ⟨grPWR, 0, 2⟩
def srcPWR_RAIL_FAULT : Src := ⟨grPWR, 0, 3⟩
def srcFLT_RESET_ESCALATED : Src := ⟨grFLT, 0, 0⟩
def srcFLT_DUMP_PLACEHOLDER : Src := ⟨grFLT, 0, 1⟩

/-- Table FLT-1 as a list per page: (bit, default class). -/
def pageSources (g u p : Nat) : List (Nat × Nat) :=
  match g, p with
  | 0x00, 0 => [(0, 0), (1, 0), (2, 0), (3, 2), (4, 4), (5, 4), (6, 0), (7, 2)]
  | 0x01, 0 => if u = 16 then [(0, 2), (1, 2)] else []
  | 0x02, 0 => if u = 0 then [(0, 0), (1, 0), (2, 3)] else [(0, 3), (1, 3)]
  | 0x03, 0 => [(0, 0), (1, 3), (2, 3), (3, 0), (4, 0), (5, 3), (6, 0), (15, 3)]
  | 0x04, 0 => [(0, 2), (15, 2)]
  | 0x05, 0 => [(15, 2)]
  | 0x06, 0 => [(0, 1), (15, 1)]
  | 0x07, 0 => [(0, 0), (1, 3), (2, 0), (15, 3)]
  | 0x08, 0 => [(0, 0), (1, 0), (2, 0), (3, 0), (4, 0), (5, 0), (6, 0), (15, 2)]
  | 0x10, 0 => [(0, 0), (15, 2)]
  | 0x10, 1 => if u = 0 then [(0, 0)] else []
  | 0x0F, 0 => [(15, 2)]
  | 0x09, 0 => [(0, 0), (1, 0), (15, 2)]
  | 0x09, 2 => if u = 0 then [(0, 0), (1, 0), (2, 0)] else []
  | 0x0B, 0 => [(15, 4)]
  | 0x0B, 1 => [(0, 0), (1, 0)]
  | 0x0B, 2 => if u = 0 then [(0, 0), (1, 0), (2, 0)] else []
  | 0x0C, 0 => [(0, 2), (15, 2)]
  | 0x0D, 0 => [(0, 0), (1, 0), (2, 0), (3, 0), (4, 0), (15, 2)]
  | 0x0E, 0 => [(0, 3), (1, 3), (2, 3), (3, 4), (15, 2)]
  | 0x11, 0 => if u = 16 then [(0, 2), (1, 0)] else []
  | 0x14, 0 => [(0, 0), (1, 0), (2, 4), (3, 4)]
  | 0x12, 0 => if u = 0 then [(0, 0), (1, 0)] else []
  | _, _ => []

/-- The reset value of G_ERR_CLASS of a page (R419). -/
def classReset (g u p : Nat) : Nat :=
  (pageSources g u p).foldl (fun a x => a + x.2 * 8 ^ x.1) 0

/-- The default hang window of a page (Table FLT-3); a page not listed has 0. -/
def windowReset (g p : Nat) : Nat :=
  match g, p with
  | 0x06, 0 => 10000 | 0x05, 0 => 2000 | 0x04, 0 => 1000 | 0x03, 0 => 2000 | 0x08, 0 => 10000
  | 0x07, 0 => 10000 | 0x09, 0 => 10000 | 0x10, 0 => 10000 | 0x0F, 0 => 10000 | 0x0C, 0 => 1000
  | 0x0D, 0 => 5000 | 0x0E, 0 => 1000 | 0x0B, 0 => 5000
  | _, _ => 0

/-- The header of every page (Table CTL-3), as register rows. PAGE_ID, PAGE_CAP and STATUS are computed
(`csrView`), and RESET_CTL.BUSY with them. -/
def headerRows (g u p : Nat) : List RegRow :=
  let linkPage := g = grPRT ∨ g = grCXP
  [⟨0x000, 8, 1, [fd 0 64 .ro 0 .const]⟩,
   ⟨0x008, 8, 1, [fd 0 64 .ro 0 .const]⟩,
   ⟨0x010, 8, 1, [fd 0 1 .st (if linkPage then 0 else 1) (if linkPage then .c else .p), fd 1 1 .st 0 .p]⟩,
   ⟨0x018, 8, 1, [fd 0 64 .ro 0 .n]⟩,
   ⟨0x020, 8, 1, [fd 0 16 .w1c 0 .c]⟩,
   ⟨0x028, 8, 1, [fd 0 16 .st 0 .c]⟩,
   ⟨0x030, 8, 1, [fd 0 48 .st (classReset g u p) .c]⟩,
   ⟨0x038, 8, 1, [fd 0 16 .wo 0 .const]⟩,
   ⟨0x040, 8, 1, [fd 0 64 .ro 0 .n]⟩,
   ⟨0x048, 8, 1, [fd 0 32 .rw (windowReset g p) .p]⟩,
   ⟨0x050, 8, 1, [fd 0 8 .ro 1 .c]⟩,
   ⟨0x058, 8, 1, [fd 0 3 .wo 0 .const, fd 16 12 .wo 0 .const, fd 32 1 .ro 0 .n, fd 33 3 .ro 0 .n]⟩]

/-- Whether a CSR address names a page that exists (R41, R42). -/
def pageExists (a : Nat) : Bool :=
  0x1000000000 ≤ a && unitExists (csrGroup a) (csrUnit a) && csrPage a ≤ lastPage (csrGroup a) (csrUnit a)

/-- The row that holds offset `o`. -/
def rowAt (rows : List RegRow) (o : Nat) : Option RegRow :=
  rows.find? fun r => r.off ≤ o && o < r.off + r.stride * r.count && (o - r.off) % r.stride == 0

/-- The register row of a CSR address, if the register exists (R41). -/
def regRow? (a : Nat) : Option RegRow :=
  if pageExists a then
    if csrOff a < 0x100 then rowAt (headerRows (csrGroup a) (csrUnit a) (csrPage a)) (csrOff a)
    else rowAt (pageRows (csrGroup a) (csrUnit a) (csrPage a)) (csrOff a)
  else none

/-- The reset value of a register from its fields. -/
def rowReset (r : RegRow) : BitVec 64 :=
  BitVec.ofNat 64 (r.flds.foldl (fun v f => v + f.reset * 2 ^ f.fld.lo) 0)

/-- R461: the reset value of MBX_BIND differs by unit: m0 holds KIND 3 and ROLE 1, m63 holds KIND 4 and ROLE 4.
CLS_GLOBAL_ID and CLS_STATE take their values when a slot opens. -/
def regReset (a : Nat) : BitVec 64 :=
  if a = MBX_BIND 0 then 0x13#64 else if a = MBX_BIND 63 then 0x44#64
  else match regRow? a with
    | some r => rowReset r
    | none => 0

end Sys2Proof.Machine
end

