-- ==== Sys2Proof/Machine/State.lean ====
section
/-! DEFINITION. The state of the block: every register, queue, buffer, table, mode and pin that the spec gives the HX-4816, as
plain data, and the queue of commands that wait. `State.reset` is the device as Table BOO-4 and the reset columns leave it. -/

namespace Sys2Proof.Machine

/-- Why the machine stops. -/
inductive Fault where
  /-- RESET_N was asserted for longer than the 100 ns that are ignored and shorter than the 1 µs that reset: R467 specifies no
  effect. Raised by RESET_N_ASSERT. Safe: the machine stops where the hardware does something unspecified. -/
  | resetPulseUnspecified
  deriving DecidableEq, Repr

/-- Why a command has no meaning. -/
inductive Refusal where
  /-- The command has no meaning yet: raised by an arm of `exec` that rejects it by name. Safe. -/
  | notModelled (mnemonic : String)
  deriving DecidableEq, Repr

/-- The outcome of the last CSR access: the error flag, and the value that a read returned (R41). -/
structure CsrReply where
  err : Bool := false
  val : Word := 0
  deriving DecidableEq, Repr, Inhabited

/-- A fault bit that went from 0 to 1 and whose class action is due (R418, R422). -/
structure Fire where
  src : Src
  unit : Nat
  deriving DecidableEq, Repr

/-! ### Links and the ground (chapters 12 and 13) -/

/-- A parameter block of a TRAIN flit (Table LNK-5), as far as it is kept. -/
structure Peer where
  role : Nat := 0
  switch : Nat := 0
  port : Nat := 0
  gang : Nat := 0
  veps : Nat := 0
  caps : Nat := 0
  credits : List Nat := []
  nextSeq : Nat := 0
  deriving DecidableEq, Repr, Inhabited

/-- A time on a link: nanoseconds and the 16-bit fraction. -/
structure Stamp where
  ns : Nat := 0
  frac : Nat := 0
  deriving DecidableEq, Repr, Inhabited

/-- The last mark received on a port (Table LNK-6, the ECHO fields). -/
structure MarkRx where
  tx : Stamp
  rx : Stamp
  seq : Nat
  deriving DecidableEq, Repr, Inhabited

/-- What a port holds beyond its registers (R332 to R349). The link state itself is PRT_LINK_STATE. -/
structure Port where
  /-- LSEQ of the next new DATA flit. -/
  nextSeq : Nat := 0
  /-- The replay buffer: LSEQ and body, oldest first (at most 64, R333). -/
  buf : List (Nat × Bytes) := []
  /-- LSEQs that are due to be sent again, in order (R335). -/
  replay : List Nat := []
  /-- Replays in a row that brought no advance (R335). -/
  replays : Nat := 0
  retryDue : Bool := false
  /-- CONTROL bodies that wait to be sent. -/
  control : List Bytes := []
  markDue : Bool := false
  markSeq : Nat := 0
  /-- Marks sent: MARK_SEQ, the stamp, and the reference time of sending (R68, R345). -/
  marksSent : List (Nat × Stamp × Nat) := []
  lastMark : Option MarkRx := none
  /-- The accepted delay measurements, newest first, at most 8, in 2^-16 ns (R345). -/
  delays : List Int := []
  /-- Credits held per class (R337), and the last accepted CCOUNT per class (R338). -/
  credits : SMap Nat := []
  ccount : SMap Nat := []
  /-- The receive side: highest LSEQ received in order, and whether a RETRY_REQ was sent and LACK + 1 is awaited (R334). -/
  lack : Nat := 255
  discarding : Bool := false
  /-- Credits released per class since the link became ACTIVE, and the part reported (R338). -/
  released : SMap Nat := []
  reported : SMap Nat := []
  /-- The class reported last (the rotation of R338). -/
  repRot : Nat := 7
  /-- FAULT_IDLE flits in a row (Table LNK-4). -/
  faultRun : Nat := 0
  /-- The peer's accepted block of this training, that of the previous ACTIVE period, and the own-block acknowledgement. -/
  peer : Option Peer := none
  prev : Option Peer := none
  ownAcked : Bool := false
  /-- The port lost lock and must regain it before parameters count (RETRAIN, Table LNK-4). -/
  locked : Bool := false
  /-- The port has started a new link since its fence (R432). -/
  newLink : Bool := false
  fenced : Bool := false
  /-- A gang's live members (R349), the rotation of the transmitter and of the receiver, and segments accepted on this member
  that wait for the rotation (R348). Kept on the base port, but for `rxq`. -/
  cut : List Nat := []
  txTurn : Nat := 0
  rxTurn : Nat := 0
  rxq : List Seg := []
  /-- Flits to be dealt again, ahead of new ones (R349): bodies in their original order. -/
  redeal : List Bytes := []
  /-- Send time of each buffered flit's LSEQ, for the retry round trip (R336). -/
  sentAt : List (Nat × Nat) := []
  /-- The turn of R31 in each class: the virtual endpoint served and the flits left of its quantum (an unlisted class: (15, 0)). -/
  veps : SMap (Nat × Nat) := []
  /-- The flit sent in the last slot (the port's output). -/
  out : Bytes := []
  /-- REGION_TEST loops the lanes back inside the PHY (R433). -/
  looped : Bool := false
  /-- PRT_CREDIT_ADV as the last TRAIN block announced it (R337). -/
  announced : Option Word := none
  /-- Boot TILEs in arrival: virtual endpoint and class of those whose first segment was admitted (R395). -/
  bootTiles : List (Nat × Nat) := []
  deriving DecidableEq, Repr, Inhabited

/-- An output of a ground slice (R362). A port stands for its gang. -/
inductive Out where
  | port (p : Nat)
  | rgn (n : Nat)
  | sht (n : Nat)
  | hub (q : Nat)
  deriving DecidableEq, Repr, Inhabited

/-- What keeps a flit from going on: the policer that found it red, a red flit before it of its port and class, when its own policers let
it pass, re-marked or as it is (R388, R389), a route change (R373), a resequencer without room (R376, R380), chip-class safe state (R423), a
unit of its region that accepts no work (Table CTL-3), or a reply for which no cell is free (R372). -/
inductive Hold where
  | none
  | police
  | behind (remark : Bool)
  | route
  | reseq
  | safe
  | off
  | reply
  deriving DecidableEq, Repr, Inhabited

/-- A flit in a cell of the ground (R361). `resv` is the port and the class whose reserved cell it holds (none: a shared cell); `inPort` the
port it came from (none: a unit of the device); `desc` whether it has descended (R371). -/
structure GCell where
  slice : Nat
  out : Out
  seg : Seg
  inPort : Option Nat
  resv : Option (Nat × Nat)
  first : Bool
  hold : Hold
  desc : Bool
  /-- When the cell became an entry of a resequencer (R380), or a pinned flit was queued for a port (R373). -/
  stamp : Nat
  /-- The stored flit of a multicast tile that this is a copy of, plus 1 (R219); 0: a flit of its own. The copies of one flit take one cell
  among them. -/
  copy : Nat := 0
  /-- It goes over one link without being routed (R89, R219). -/
  direct : Bool := false
  deriving DecidableEq, Repr, Inhabited

/-- A sprayed flow (R374). -/
structure FlowKey where
  src : Nat
  dst : Nat
  tc : Nat
  sint : Bool
  dint : Bool
  deriving DecidableEq, Repr, Inhabited

/-- A flow context of a resequencer (R376): `e = none` while OPENING. `held` lists held segments with their input port.
`part` is the message being delivered, and `kept` the cells that a TILE in delivery goes on holding (R120, R213). `dropTo` is set while
arriving segments are discarded up to the next LAST (R379). -/
structure Flow where
  prg : Nat
  key : FlowKey
  e : Option Nat
  held : List GCell
  part : Bytes
  first : Option Hdr
  dropTo : Bool
  kept : List GCell := []
  deriving DecidableEq, Repr, Inhabited

/-- A message delivered whole to a unit of the device, that the unit has not taken yet. `prg` is the port region through which it
entered this switch, and `port` the port (none: a unit of the device sent it). A TILE waits in the ground: `cells` are the cells that it
holds (R120, R213). -/
structure Delivered where
  out : Out
  prg : Nat
  msg : Msg
  port : Option Nat := none
  cells : List GCell := []
  deriving DecidableEq, Repr, Inhabited

/-- A route change that holds pinned flits (R373). -/
structure RouteHold where
  path : Nat
  oldPort : Nat
  newPort : Nat
  timed : Bool
  /-- The entry number of the change (`Ground.seen`). -/
  at_ : Nat
  deriving DecidableEq, Repr, Inhabited

/-- A pinned transaction that an output and class serve until its LAST (R365): its slice, its input, and what its segments share. -/
structure Lock where
  slice : Nat
  port : Option Nat
  src : Nat
  sint : Bool
  reqId : Nat
  type : Nat
  deriving DecidableEq, Repr, Inhabited

/-- The tokens of one policer: the committed and the excess (or peak) bucket, in bytes. -/
structure Meter where
  c : Nat := 0
  e : Nat := 0
  deriving DecidableEq, Repr, Inhabited

/-- The ground (chapter 13). -/
structure Ground where
  /-- Every occupied cell, in order of entry: the VOQs are its parts by slice, output and class. -/
  cells : List GCell := []
  /-- Segments of units of the device that wait for a shared cell (R363), in order. -/
  waiting : List GCell := []
  /-- Route table entries (R367) and path groups as member lists. -/
  routes : SMap Nat := []
  groups : SMap (List Nat) := []
  /-- Multicast groups (R218): 4,096 entries of 64 bytes. -/
  mcast : SMap Bytes := []
  /-- The transaction that an output and class serve until LAST (R365): key 8·output + class. -/
  lock : SMap Lock := []
  /-- Last slice served per output and class; last token-bucket class served per port. -/
  lastSlice : SMap Nat := []
  lastTb : SMap Nat := []
  /-- Token buckets (key 8·port + class, bytes), wake times (key 8·port + class, in 2^-32 ns) and policers. -/
  tokens : SMap Nat := []
  wake : SMap Nat := []
  meters : SMap Meter := []
  /-- Bucket and policer settings in force, where a write has not yet met a refill (R386). -/
  inForce : SMap Word := []
  flows : List Flow := []
  delivered : List Delivered := []
  routeHolds : List RouteHold := []
  /-- The port that each pinned path takes: key (source switch, destination switch, descended), value port + 1 (R373). -/
  paths : SMap Nat := []
  /-- Entries that resequencers have taken, and changes of pinned paths: the age of an entry (R373, R380). -/
  seen : Nat := 0
  /-- Next SEQ of each sprayed flow the device sends (R374). -/
  flowSeq : List (FlowKey × Nat) := []
  /-- Flits of multicast tiles that the ground has stored (R219). -/
  copies : Nat := 0
  /-- Outputs and classes (8·port + class) whose next flit has been counted as delayed: for want of credit, and for want of tokens. -/
  stalled : List Nat := []
  tokenWait : List Nat := []
  deriving DecidableEq, Repr, Inhabited
/-! ### Faults and resets (chapter 15) -/

/-- The rungs of the reset ladder (Table FLT-5) and the reset of one unowned region. -/
inductive Rung where
  | context
  | engine
  | partition
  | region
  | chip
  deriving DecidableEq, Repr, Inhabited

/-- What a reset covers: a context of a page (group, unit, context), a block (group, unit), a partition, a region
(group CRG or PRG, unit), or the package. -/
structure Scope where
  rung : Rung
  g : Nat := 0
  u : Nat := 0
  ctx : Nat := 0
  deriving DecidableEq, Repr, Inhabited

/-- A reset in progress (R426, R427): its scope, the event stamp at which it began, the pages whose request it serves
(page bases), those whose reset was abandoned for this one (R426), and whether it waits for the end of a guard interval (R58). -/
structure ResetJob where
  scope : Scope
  began : Nat
  askers : List Nat
  late : List Nat := []
  deferred : Bool := false
  deriving DecidableEq, Repr, Inhabited

/-- A fence of a block (R422): the source that caused it (none: an escalation, R426) and the stamp of the fence. -/
structure BlockFence where
  g : Nat
  u : Nat
  src : Option Src
  at_ : Nat
  deriving DecidableEq, Repr

/-- A cause that persists (R418): the source, its unit, and for HANG the value of G_PROGRESS that must change. -/
structure Cause where
  src : Src
  unit : Nat
  progress : Word
  deriving DecidableEq, Repr

/-- A test in progress or done (R433 to R436): kind 1 region, 2 tile block, 3 port, 4 stack; the collector; the unit. -/
structure TestRun where
  kind : Nat
  flt : Nat
  unit : Nat
  deriving DecidableEq, Repr, Inhabited

/-- The dump engine (R437, R438): records written so far, and where it stands. -/
structure Dump where
  trigger : Nat := 0
  start : Nat := 0
  /-- CSR pages still to be read, in order. -/
  todo : List Nat := []
  /-- Bytes of the records so far, each record whole. -/
  bytes : Bytes := []
  records : Nat := 0
  placeholders : Nat := 0
  deriving DecidableEq, Repr, Inhabited

/-- Fault and reset state beyond the registers. -/
structure FaultState where
  /-- Counts events, so that "began after the latest firing" can be decided (R422). -/
  stamp : Nat := 1
  /-- The stamp of each source's latest firing. -/
  lastFire : SMap Nat := []
  causes : List Cause := []
  fences : List BlockFence := []
  jobs : List ResetJob := []
  /-- The partitions (a bit each) that a source's current setting acts on, where the source's page does not say (R420). -/
  acts : SMap Nat := []
  /-- Began-stamps of the latest completed resets of blocks (a reset of their region, partition or chip counts) and of the chip; of
  partitions, with the stamp of completion; and the stamp of each partition's latest fence and of safe state's entry. -/
  engineDone : SMap Nat := []
  partDone : SMap (Nat × Nat) := []
  chipDone : Nat := 0
  partFence : SMap Nat := []
  safeAt : Nat := 0
  safe : Bool := false
  tests : List TestRun := []
  dump : Option Dump := none
  /-- UCIe modules removed from their bundle (R17): key 128·hub + 32·link + module. -/
  ucieDown : List Nat := []
  /-- A power cycle has been asked for (R429). -/
  powerAsked : Bool := false
  deriving DecidableEq, Repr, Inhabited

/-! ### Network time and schedule domains (chapter 3) -/

/-- The time unit beyond its registers. -/
structure TimeUnit where
  /-- Elapsed reference-clock time since power-on, ns: what every timeout counts (R68). -/
  ref : Nat := 0
  /-- Correction still to be slewed, in 2^-16 ns: positive moves device time forward (R70). -/
  slew : Int := 0
  /-- Consecutive measurements within and beyond ALIGN_LIMIT (Table PRK-1). -/
  good : Nat := 0
  bad : Nat := 0
  /-- PPS_OUT is high until this reference time; 0 is low (R71, R480). -/
  ppsUntil : Nat := 0
  deriving DecidableEq, Repr, Inhabited

/-- A schedule domain unit beyond its registers. -/
structure Domain where
  started : Bool := false
  /-- B_e and n_e of R74. -/
  epochStart : Nat := 0
  epochRound : Nat := 0
  /-- Rounds for which a SLIP is held (R90), those for which one was sent or forwarded, and the later copies of such (R89). -/
  held : List Nat := []
  sent : List Nat := []
  copies : Nat := 0
  /-- The decision instant of the current round has passed (R88). -/
  decided : Bool := false
  /-- Slip rounds in a row (R94). -/
  slipRun : Nat := 0
  /-- Rounds and scheduled rounds below these belong to an epoch that EPOCH_RESTART cut (R441). -/
  cutRound : Nat := 0
  cutSched : Nat := 0
  deriving DecidableEq, Repr, Inhabited

/-- A port region's gate list: the entry in force and the reference time at which it started (R78). -/
structure GatePos where
  entry : Nat := 0
  since : Nat := 0
  deriving DecidableEq, Repr, Inhabited

/-! ### Stream programs, bobbins and collectives (chapters 4 and 8) -/

/-- A loop level (R111). -/
structure LoopLvl where
  start : Nat
  i : Nat
  count : Nat
  tstep : Nat
  sstep : Nat
  deriving DecidableEq, Repr, Inhabited

/-- An issued step (R117, R122). Operand places are absolute granules of the region's SRAM with the end of the area they lie in. -/
structure Step where
  /-- Descriptor index, station index, station type and engine. -/
  desc : Nat
  station : Nat
  type : Nat
  engine : Nat
  /-- Position in the round group (R118) and the tile index T (R112). -/
  pos : Nat
  tile : Nat
  addr : Nat
  in0 : Option (Nat × Nat)
  in1 : Option (Nat × Nat)
  in2 : Option (Nat × Nat)
  out : Option (Nat × Nat)
  arg0 : Nat
  param : Nat
  rows : Nat
  cols : Nat
  sched : Bool
  /-- The round label of a scheduled step (R83). -/
  label : Nat
  /-- The next unit to run, and how many the step has (R117). -/
  unit : Nat
  units : Nat
  /-- Reads that still wait for credit, and reads outstanding (R122). -/
  toRead : Nat
  reading : Nat
  /-- The pages that are the units of a BWD_KV step (R190). -/
  notes : List Nat
  /-- Its place among the region's steps in order of issue (R120), and the granules of its IN0, IN1, IN2 and OUT runs (R109). -/
  order : Nat := 0
  grans : Nat × Nat × Nat × Nat := (0, 0, 0, 0)
  /-- Reads that the step asked for when it was issued, and reads that its units have made (R121, R122). -/
  planned : Nat := 0
  made : Nat := 0
  /-- What the step read once: the header and U panels of EXPAND (R162, R166), the headers and entries of ATTEND (R184). -/
  kept : List Bytes := []
  /-- The entries of an ATTEND block: the code that ended each (0: it goes on), and its pages in list order (R191, R205). -/
  runs : List (Nat × List Nat) := []
  /-- What memory holds has not said yet which runs and reads the step has (R109, R121). -/
  vague : Bool := false
  deriving DecidableEq, Repr, Inhabited

/-- A bobbin beyond its registers (R122). -/
structure Bobbin where
  stack : List LoopLvl := []
  steps : List Step := []
  /-- STEPs executed in the current round group (R118). -/
  pos : Nat := 0
  /-- Granule ranges written by scheduled INGRESS in this round group, not readable before the next scheduled round (R120). -/
  unseen : List (Nat × Nat) := []
  deriving DecidableEq, Repr, Inhabited

/-- An arrived tile that waits (R82, R120): the region, its TILE message, whether it has a round label, whether an EGRESS of this device
sent it, and the cells that it holds. -/
structure WaitTile where
  rgn : Nat
  msg : Msg
  sched : Bool
  here : Bool
  cells : List GCell := []
  deriving DecidableEq, Repr, Inhabited

/-- A program load in progress (R107). -/
structure ProgLoad where
  rgn : Nat
  bank : Nat
  bytes : Nat
  src : Nat
  deriving DecidableEq, Repr, Inhabited

/-- An exact accumulator (R152): the 320-bit two's complement value A in units of 2^-149, COUNT, and the flags. -/
structure Acc320 where
  a : Int := 0
  count : Nat := 0
  nan : Bool := false
  pinf : Bool := false
  ninf : Bool := false
  ovr : Bool := false
  deriving DecidableEq, Repr, Inhabited

/-- A tile set of a reducing region (R213). -/
structure TileSet where
  coll : Nat
  rgn : Nat
  tile : Nat
  label : Nat
  accs : List Acc320
  /-- Members that contributed: their indices, and 4096 plus the bobbin for local contributors. -/
  seen : List Nat
  contribs : Nat
  full : Bool
  deriving DecidableEq, Repr, Inhabited

/-- A contribution that waits for a tile set (R213): the collective, T, the member, the label, its rectangle, and the cells that it holds. -/
structure WaitContrib where
  coll : Nat
  tile : Nat
  member : Nat
  label : Nat
  fmt : Nat
  pay : Bytes
  rows : Nat
  cols : Nat
  cells : List GCell := []
  deriving DecidableEq, Repr, Inhabited

/-- A collective: its descriptor copy (R209), state (0 CLOSED, 1 OPEN, 2 ABORTING, 3 ABORTED), the reason, and for each
reducing region how many tile sets have been opened in increasing T (R213). -/
structure Coll where
  state : Nat := 0
  reason : Nat := 0
  desc : Bytes := []
  done : List Nat := []
  deriving DecidableEq, Repr, Inhabited

/-- Consequences that are due within the running command and are settled before it ends (empty between commands). -/
inductive Due where
  /-- A collective aborts with a reason (R223). -/
  | coll (id reason : Nat)
  /-- A port went down or was fenced: collectives with a target on it abort (R223). -/
  | portGone (p : Nat)
  /-- A bobbin faulted: collectives that it contributes to abort (R223). -/
  | bobGone (b : Nat) (step : Option Step)
  /-- A reducing region was reset, fenced or parked (R223). -/
  | regionGone (n : Nat)
  /-- A CSR register was changed at a commit (old value): the unit takes the consequences its chapter gives. -/
  | changed (a : Nat) (old : Word)
  /-- A clause aborts with a reason (R59, R268). -/
  | clause (slot reason : Nat)
  /-- A queue pair enters ERROR with a status (R314, R410). -/
  | qpError (qp status : Nat)
  /-- A direct write that a guard interval held takes effect (R58). -/
  | write (a : Nat) (w : Word)
  /-- A sprayed transaction met a dead port behind its resequencer, and is answered (R296). -/
  | deadEnd (prg : Nat) (h : Hdr) (pay : Bytes)
  deriving DecidableEq, Repr


/-! ### Keys, memory and homes (chapters 9 and 14) -/

/-- A working key set of a partition: everything its derivation takes (R405). Two sets are one key exactly when all agree. -/
structure WorkKey where
  k : Bytes
  part : Nat
  gen : Nat
  salt : Bytes
  deriving DecidableEq, Repr, Inhabited

/-- A key slot (R403). -/
structure KeySlot where
  cur : Option WorkKey := none
  prev : Option WorkKey := none
  legacy : Option Bytes := none
  deriving DecidableEq, Repr, Inhabited

/-- What the side bytes of a stored sector say (R245 to R248): the key its MAC was made with, an ENC bit and a POISON bit for each of its
four blocks, and a bit for each block that was not written since its extent was allocated (R249). -/
structure Sector where
  key : WorkKey
  enc : Nat
  poison : Nat
  stale : Nat := 0
  deriving DecidableEq, Repr, Inhabited

/-- An object entry (Table MEM-5), with its publication state (R298): 0 DRAFT, 1 PUBLISHED, 2 RETIRED. -/
structure Obj where
  size : Nat := 0
  planned : Nat := 0
  firstFrame : Nat := 0
  extBase : Nat := 0
  flags : Nat := 0
  part : Nat := 0
  extLog : Nat := 21
  state : Nat := 0
  pub : Nat := 0
  /-- The OBJ_FREE of a FREEING object has committed (R257). -/
  freed : Bool := false
  deriving DecidableEq, Repr, Inhabited

/-- An extent entry (Table MEM-6), with the object offset and the length that follow from its object. -/
structure Ext where
  state : Nat := 0
  tier : Nat := 0
  gen : Nat := 0
  home : Nat := 0
  lease : Nat := 0
  phys : Nat := 0
  obj : Nat := 0
  off : Nat := 0
  len : Nat := 0
  /-- The range of a WITHDRAWN extent still awaits its release (R266). -/
  holding : Bool := false
  /-- The home holds the HX-3208 layout (R251): until a move brings the extent into the native one (R176). -/
  legacy : Bool := false
  deriving DecidableEq, Repr, Inhabited

/-- A hosted-extent entry (R255): state 0 HOSTED, 1 INCOMING, 2 OUTGOING, 3 DOUBT; `got` counts the sectors of an INCOMING copy and
`since` is the time at which DOUBT began. `from_` is the switch that an INCOMING copy comes from (R262, R267). -/
structure Hosted where
  registrar : Nat
  addr : Nat
  gen : Nat
  phys : Nat
  len : Nat
  lease : Nat
  part : Nat
  enc : Bool
  state : Nat
  got : Nat
  since : Nat
  slot : Nat
  from_ : Nat
  deriving DecidableEq, Repr, Inhabited

/-- A lease that this switch lends (R267), and the end of its grace once recalled (R268). -/
structure Lease where
  id : Nat
  base : Nat
  gib : Nat
  borrower : Nat
  part : Nat
  recallEnd : Option Nat
  deriving DecidableEq, Repr, Inhabited

/-- A move whose source or destination is here (R259, R262): the clause slot, the extent (for the registrar), its object address, the
local source if any, the destination, the next sector to copy, copies not yet acknowledged, and sectors received at a local
destination. `phase` 0: copying; 1: committed, draining. `legacy`: the source holds the HX-3208 layout (R176). `fill`: no source; the
zero fill of a ZERO_INIT allocation at a lender (R257). -/
structure Move where
  slot : Nat
  ext : Option Nat
  addr : Nat
  part : Nat
  enc : Bool
  gen : Nat
  src : Option Nat
  dstSw : Nat
  dst : Nat
  dstTier : Nat
  lease : Nat
  len : Nat
  next : Nat
  unacked : List Nat
  got : Nat
  phase : Nat
  legacy : Bool := false
  fill : Bool := false
  deriving DecidableEq, Repr, Inhabited

/-- Where a request stands: it waits for a fetch of its extent entry (R253); for the drain of a move (R261) or the commit of a
guarded one; for the end of a publication's commit (R301); for a line (R289) or a domain sweep (R295); at a tray; at a lender; at
its home, snooping; for its original in the reply cache (R285); for a free tag, or for room there; as a FENCE, for earlier writes
(R280); for an earlier request of its source (R281); for the end of an engine reset (R35); in safe state, for ever (R423); or for
nothing any more. A request at a tray holds a tag for each 64-byte line that has not been answered (R353). -/
inductive Stage where
  | fetch (hub ext : Nat)
  | drain (ext : Nat)
  | pub (obj : Nat)
  | line (l : Nat)
  | sweep (d : Nat)
  | tray (c : Nat) (tags : List Nat)
  | tagWait (c : Nat)
  | lender (id : Nat)
  | home (l : Nat)
  | retry
  | room
  | fence
  | order
  | engine (g u : Nat)
  | safe
  | ready
  deriving DecidableEq, Repr, Inhabited

/-- A request from the fabric that the device holds: its arrival number, the port region of entry, the message, where it stands, its
extent with the GEN, tier and physical address at lookup, its deadline on the reference clock, and the identical reads that joined it
(R233); for a FENCE, `more` lists the earlier requests of its source that have not left the ground (R280). -/
structure Req where
  arr : Nat
  prg : Nat
  msg : Msg
  stage : Stage := .ready
  ext : Nat := 0
  gen : Nat := 0
  tier : Nat := 0
  due : Nat := 0
  more : List Msg := []
  /-- The conjunction unit's operation that this request carries to its home (R234). -/
  op : Option Nat := none
  phys : Nat := 0
  /-- The port through which it entered (R234). -/
  port : Nat := 0
  /-- Accepted: no publication that commits later holds or refuses it (R301). -/
  accepted : Bool := false
  /-- Its lookup has been counted (R253). -/
  looked : Bool := false
  /-- Its crossing is counted (R292). -/
  crossed : Bool := false
  /-- Sent to its home a second time (R236). -/
  resent : Bool := false
  /-- Its lookup found the HX-3208 layout (R251). -/
  legacy : Bool := false
  /-- A unit of this device asked for it: the access (`Mem.far`) that its outcome completes. -/
  dev : Option Nat := none
  /-- Counted in CMB_READS_IN (R237). -/
  merged : Bool := false
  /-- A FENCE whose earlier shuttle segments have left the ground: the placements that they brought, by QPN and PSN (R280). -/
  places : Option (List (Nat × Nat)) := none
  deriving DecidableEq, Repr, Inhabited

/-- Who in this device makes an access that it cannot complete at once: a step of a bobbin, by its order (R120); a queue pair, with what the
access does for it; a CXL host, by port and LD (R357). -/
inductive Asker where
  | bob (b order : Nat)
  | qp (n job : Nat)
  | host (c ld : Nat)
  deriving DecidableEq, Repr, Inhabited

/-- An access that a unit of this device makes and that is not complete when it is made: whom it is for, what it is (a message type and an
OP), the address, the bytes that it names, the data that it brings and its GEN; and the status and data that came back. It stays until its unit of
work is done. -/
structure FarReq where
  id : Nat
  who : Asker
  type : Nat
  op : Nat
  a : Nat
  n : Nat
  arg : Bytes
  gen : Nat := 0
  reply : Option (Nat × Bytes) := none
  /-- What asked for it has gone (R431). -/
  dead : Bool := false
  deriving DecidableEq, Repr, Inhabited

/-- A request that the device originated toward another switch and that awaits its reply (R254, R296): its REQ_ID, GEN, kind and
time. Kinds: 0 a posted write, 1 a move sector of the move with the extent address `a`, 2 a publication query, 3 the
HOME_QUERY of a hosted entry in DOUBT with the extent address `a`, 4 that of MRG_HQ_CTL, 5 the access `a` of a unit (`Mem.far`). -/
structure DevReq where
  id : Nat
  gen : Nat
  kind : Nat
  a : Nat
  at_ : Nat
  deriving DecidableEq, Repr, Inhabited

/-- An atomic batch or single operation of a conjunction unit (R234): the address, the operation, the partition, the members with
their operands in order, whether it was passed to the hub, and each member's outcome once known. `comb` and `cap` are what ATOMIC_EN
and BATCH_MAX said when it was opened (R237); `ports` gives the members' ports by arrival number. -/
structure CmbOp where
  id : Nat
  addr : Nat
  op : Nat
  part : Nat
  members : List (Nat × Msg)
  passed : Bool
  results : Option (List (Nat × Bytes))
  comb : Bool := false
  cap : Nat := 1
  ports : List (Nat × Nat) := []
  deriving DecidableEq, Repr, Inhabited

/-- A combine-buffer entry (R233), with the end of its window on the reference clock. -/
structure CmbBuf where
  addr : Nat
  len : Nat
  data : Bytes
  until_ : Nat
  deriving DecidableEq, Repr, Inhabited

/-- A reply-cache entry (R285): its key, the partition, and the cached STATUS, whether data follows, the data, and the time. -/
structure RcEnt where
  src : Nat
  sint : Bool
  gen : Nat
  reqId : Nat
  part : Nat
  reply : Option (Nat × Option Bytes)
  at_ : Nat
  deriving DecidableEq, Repr, Inhabited

/-- A conjunction unit. -/
structure Cmb where
  ops : List CmbOp := []
  bufs : List CmbBuf := []
  cache : List RcEnt := []
  deriving DecidableEq, Repr, Inhabited

/-- A set coherence domain (R287). -/
structure CohDom where
  part : Nat
  members : List Nat
  ranges : List (Nat × Nat)
  /-- A COH_DOMAIN_CLEAR is in validation: coherent reads wait (R295). -/
  sweeping : Bool
  deriving DecidableEq, Repr, Inhabited

/-- A line's directory record (R290): S with a set of holders, or O with one owner; `age` orders entries (R294). -/
structure DirLine where
  owned : Bool
  holders : List Nat
  age : Nat
  deriving DecidableEq, Repr, Inhabited

/-- The current transaction of a line (R289): its request (none for an eviction or a sweep), the snoop operation, the agents whose
answer is awaited with their limits, holders that stay, dirty data, and agents whose announced WB is awaited with its limit, and
agents whose WB came ahead of their answer. -/
structure LineTxn where
  line : Nat
  req : Option Req
  op : Nat
  ask : List (Nat × Nat)
  stay : List Nat
  dirty : Option Bytes
  wbs : List (Nat × Nat)
  gotWb : List Nat
  poisoned : Bool
  deriving DecidableEq, Repr, Inhabited

/-- A publication (R299): state 1 PUBLISHED, 2 RETIRED; 0 an entry kept for a PUB_CREATE that passed validation. -/
structure Pub where
  name : Nat
  version : Nat
  state : Nat
  addr : Nat
  length : Nat
  owner : Nat
  readers : Nat
  cxp : Nat
  deriving DecidableEq, Repr, Inhabited

/-- A MemRd or MemWr of a host that waits (R35, R357): its port, logical device and address, and the object range that a MemRd was found to
read. -/
structure HostReq where
  port : Nat
  ld : Nat
  dpa : Nat
  write : Bool := false
  at_ : Option (Nat × Nat) := none
  deriving DecidableEq, Repr, Inhabited

/-- Memory, homes, requests and coherence. -/
structure Mem where
  keys : SMap KeySlot := []
  /-- Data of stored blocks, as plaintext, by 52-bit physical local address (R239). -/
  pool : List Host.Cell := []
  sectors : SMap Sector := []
  /-- Erroneous bytes of stored blocks (R246, R249): key 80·block + byte, value the wrong bits. -/
  errs : SMap Nat := []
  objs : SMap Obj := []
  exts : SMap Ext := []
  hosted : List Hosted := []
  leases : List Lease := []
  moves : List Move := []
  /-- Extent entries in the hub caches, oldest first: (hub, extent). -/
  hcache : List (Nat × Nat) := []
  /-- Ranges that clauses hold (R257): slot, switch, base, length. -/
  held : List (Nat × Nat × Nat × Nat) := []
  /-- MRG_REG_BASE and MRG_PUB_SRC as they took effect (R253, R299). -/
  homeBase : Nat := 0
  pubBase : Nat := 0
  reqs : List Req := []
  arrivals : Nat := 0
  devReqs : List DevReq := []
  nextId : Nat := 0
  /-- Tags of tray requests that ended before their response (R353): the port, the tag, the hub and the arrival number of the request. -/
  lateTags : List (Nat × Nat × Nat × Nat) := []
  /-- Requests forwarded to a lender that ended before their reply (R252, R270): the REQ_ID and the hub of the request. -/
  lateIds : List (Nat × Nat) := []
  /-- Accesses of units that wait, or whose unit of work is not done. -/
  far : List FarReq := []
  /-- Host reads and writes that wait, oldest first. -/
  hosts : List HostReq := []
  /-- The turns of hub blocks among requesters that became ready together (R23, R31): by block, the source served and the blocks left. -/
  turns : SMap (Nat × Nat) := []
  cmbs : SMap Cmb := []
  doms : SMap CohDom := []
  dir : SMap DirLine := []
  txns : List LineTxn := []
  age : Nat := 0
  pubs : SMap Pub := []
  /-- Keys reserved by guard intervals (R300): slot, name, version, object. -/
  reserved : List (Nat × Nat × Nat × Nat) := []
  /-- Extents held by the guard interval of a move (R260). -/
  guarded : List Nat := []
  /-- The last publication answer received (R302). -/
  pubAnswer : Bytes := []
  deriving DecidableEq, Repr, Inhabited
/-! ### Clauses (chapter 2) -/

/-- A staged entry (R50): its ADDR word, MASK and DATA, and for an ACTION that takes a descriptor the bytes read at validation. -/
structure Entry where
  addr : Word
  mask : Word
  data : Word
  desc : Bytes := []
  deriving DecidableEq, Repr, Inhabited

/-- A clause beyond its registers (R48 to R66). -/
structure Clause where
  /-- The open time, in device time (R49). -/
  opened : Nat := 0
  /-- The time of CLOSE (R55). -/
  closed : Nat := 0
  entries : List Entry := []
  /-- The local digest of R52. -/
  dig : Bytes := []
  /-- The global digest of R64, once it is formed (a coordinator) or given (a participant); empty: none. -/
  glob : Bytes := []
  /-- Entries that have passed every item of R53: their claims are held (R484), and an abort undoes what they took. -/
  passed : Nat := 0
  /-- The second role whose approvals were verified (R62): 0 to 15 the tenant of a partition, 16 the custodian. -/
  appr : Option Nat := none
  /-- PREPAREs held, by switch, with the local digests (R64), and the votes. -/
  preps : List (Nat × Bytes) := []
  votes : List (Nat × Bool) := []
  /-- Every entry has passed every item of R53: only validation work remains; and the entry whose data work is due (R53). -/
  checked : Bool := false
  work : Nat := 0
  /-- Leases that the firmware knows as a borrower, with the lender, when the clause was closed (R267). -/
  leases : List (Nat × Lease) := []
  /-- SEND_PSN of the peers of queue pairs, by QPN, as the peers' own QP_CONNECTs give them (Table SHT-2). -/
  psns : List (Nat × Nat) := []
  /-- The commit instant, once it is fixed as a device time. -/
  commitAt : Option Nat := none
  /-- The commit instant had passed when the decision came (R66). -/
  late : Bool := false
  inGuard : Bool := false
  /-- Direct writes held in the guard interval, in order (R58). -/
  delayed : List (Nat × Word) := []
  deriving DecidableEq, Repr, Inhabited

/-- An entry of the outcome record (R65): the CLS_GLOBAL_ID, the decision with its commit time once recorded, and the participants that
have not acknowledged it. -/
structure Outcome where
  gid : Nat
  decided : Option (Bool × Nat)
  waiting : List Nat
  deriving DecidableEq, Repr, Inhabited

/-! ### The shuttle (chapter 11) -/

/-- A send request that the engine has read: its ring index and 64 bytes, whether it has started, whether all its segments have been
sent, the data bytes sent and acknowledged, its first PSN and the PSNs it took, the response PSNs that arrived and the bytes placed
(READ), and the status of its acknowledgement (FLUSH). -/
structure Wqe where
  id : Nat
  raw : Bytes
  started : Bool := false
  out : Bool := false
  sent : Nat := 0
  acked : Nat := 0
  first : Nat := 0
  span : Nat := 0
  got : List Nat := []
  placed : Nat := 0
  answer : Option Nat := none
  deriving DecidableEq, Repr, Inhabited

/-- A segment sent and not acknowledged: its PSN and the PSNs it takes, its request, the offset and length of its data, what it counts in
INFLIGHT, and the request's bytes where it is a READ_REQ or a FLUSH. -/
structure SentSeg where
  psn : Nat
  span : Nat
  wqe : Nat
  off : Nat
  len : Nat
  cost : Nat
  raw : Bytes := []
  deriving DecidableEq, Repr, Inhabited

/-- A READ_RESP segment that waits to be sent. -/
structure Resp where
  psn : Nat
  addr : Nat
  len : Nat
  off : Nat
  first : Bool
  last : Bool
  deriving DecidableEq, Repr, Inhabited

/-- A placement that is outstanding (R316): its segment's PSN, the request of a READ_RESP or the receive index of a SEND, the
registration of a WRITE, the target address and the data. -/
structure Place where
  psn : Nat
  read : Option Nat
  recv : Option Nat
  reg : Option Nat
  addr : Nat
  data : Bytes
  deriving DecidableEq, Repr, Inhabited

/-- A SEND message at the responder: its receive index and entry, the bytes accepted, placements outstanding, whether its last segment
was accepted, and the status of its placements. -/
structure RecvMsg where
  id : Nat
  wrId : Nat
  addr : Nat
  len : Nat
  bytes : Nat
  left : Nat
  last : Bool
  status : Nat
  deriving DecidableEq, Repr, Inhabited

/-- A queue pair: the context of Table SHT-1, and what the engine keeps of its work. -/
structure Qp where
  state : Nat := 0
  part : Nat := 0
  gen : Nat := 1
  err : Nat := 0
  owner : Nat := 0
  peer : Nat := 0
  peerQp : Nat := 0
  sqBase : Nat := 0
  rqBase : Nat := 0
  cqBase : Nat := 0
  sqLog : Nat := 0
  rqLog : Nat := 0
  cqLog : Nat := 0
  flags : Nat := 0
  sqHead : Nat := 0
  sqTail : Nat := 0
  rqHead : Nat := 0
  rqTail : Nat := 0
  cqTail : Nat := 0
  cqHead : Nat := 0
  sendPsn : Nat := 0
  unaPsn : Nat := 0
  recvPsn : Nat := 0
  halvePsn : Nat := 0
  window : Nat := 0
  inflight : Nat := 0
  clean : Nat := 0
  retries : Nat := 0
  timerDue : Nat := 0
  wqes : List Wqe := []
  segs : List SentSeg := []
  /-- PSNs to be sent again, in order (R321), and the last PSN for which a NAK SEQ was obeyed. -/
  resend : List Nat := []
  nakSeq : Option Nat := none
  resps : List Resp := []
  places : List Place := []
  recvs : List RecvMsg := []
  /-- Completions whose write has not been acknowledged, in order (R310): WR_ID, BYTES, OP and STATUS. -/
  cqes : List (Nat × Nat × Nat × Nat) := []
  /-- Accepted segments not acknowledged, the PSNs of those that carried MARK, and whether the current gap was reported (R313). -/
  unackd : Nat := 0
  marked : List Nat := []
  gap : Bool := false
  /-- PSNs of FLUSHes that wait for placements, failed placements since the last one, and the statuses of answered FLUSHes (R317). -/
  flushes : List Nat := []
  fails : List (Nat × Nat) := []
  flushed : List (Nat × Nat) := []
  /-- Segments that came as WRITE_ACK and await their CPL (R311). -/
  cpls : List (Nat × Hdr) := []
  /-- PART_RETIRE stopped the QP (R411). -/
  retired : Bool := false
  deriving DecidableEq, Repr, Inhabited

/-- A registration (R323). `ended` counts placements that DRAIN ended. -/
structure Reg where
  state : Nat := 0
  keygen : Nat := 0
  base : Nat := 0
  len : Nat := 0
  part : Nat := 0
  rights : Nat := 0
  notify : Nat := 0
  ended : Nat := 0
  deriving DecidableEq, Repr, Inhabited

/-- The shuttle engines: queue pairs by QPN, registrations by index, the turn of each engine (R31), and placements whose late replies
are still to be dropped (R325), by QPN and PSN. -/
structure Shuttle where
  qps : SMap Qp := []
  regs : SMap Reg := []
  turns : SMap (Nat × Nat) := []
  late : List (Nat × Nat) := []
  deriving DecidableEq, Repr, Inhabited

/-! ### Control die, mailboxes, CXL hosts, power and security (chapters 12, 14, 16 and 17) -/

/-- A mailbox (R452): its queues, the SEQ counts of each direction, the words that an outbound message still lacks, and what IN_STATUS
says of the last push through a BAR window (R457). -/
structure Mbx where
  inq : List Word := []
  outq : List Word := []
  inSeq : Nat := 0
  outSeq : Nat := 0
  need : Nat := 0
  push : Nat := 0
  deriving DecidableEq, Repr, Inhabited

/-- The control die beyond its registers (R445 to R451, R460). -/
structure Boot where
  /-- The fuse shadow in the state-store die; none while blank (R446). -/
  shadow : Option Bytes := none
  /-- A power-on has started since VDD_AUX became good (R467). -/
  on : Bool := false
  /-- The firmware runs. -/
  fw : Bool := false
  /-- The loader fetches: the source asked (an index into the order of R448), whether it waits the second before it starts again, and
  whether a chunk came. -/
  fetching : Bool := false
  src : Nat := 0
  retry : Bool := false
  chunk : Bool := false
  /-- A BOOT_REQUEST for the HLK source waits until its port is ACTIVE. -/
  ask : Bool := false
  /-- Image bytes held, by offset. -/
  pieces : List (Nat × Bytes) := []
  /-- The digest of the image in force (Table SEC-6). -/
  digest : Bytes := []
  /-- Reference time of the last kick of the watchdog (R449). -/
  kicked : Nat := 0
  /-- The board controller has assigned an I3C address; interrupts held until then; the reasons sent, oldest first (R460). -/
  i3c : Bool := false
  ibiHeld : List Nat := []
  ibiSent : List Nat := []
  /-- The last frame sent on the management port, and the last MSI-X of an LD (16·port + LD + 1; 0 none). -/
  mgmt : Bytes := []
  msix : Nat := 0
  deriving DecidableEq, Repr, Inhabited

/-- The answer of a CXL port to its host (R357 to R359): the port, the LD, and for a read poison and data, for a mailbox command its
return code and values. -/
structure CxlOut where
  port : Nat
  ld : Nat
  poison : Bool := false
  data : Bytes := []
  code : Nat := 0
  vals : List Nat := []
  deriving DecidableEq, Repr, Inhabited

/-- Power and temperature (chapter 17): voltages of rails in mV, where they were reported; rails that are not good; core rails below the
warning level; regions (numbered as FLT units) above WARN and at or above the trip; THERMTRIP_N driven low; parked regions that are
powered off, and those that power up (kind·16 + index, kind 0 compute, 1 port). -/
structure Power where
  mv : SMap Nat := []
  bad : List Nat := []
  below : List Nat := []
  warm : List Nat := []
  hot : List Nat := []
  trip : Bool := false
  off : List Nat := []
  up : List Nat := []
  deriving DecidableEq, Repr, Inhabited

/-- A consent in force (R413, R414). -/
structure Consent where
  scope : Nat
  notAfter : Nat
  digest : Bytes
  deriving DecidableEq, Repr, Inhabited

/-- Security state beyond the registers. -/
structure Sec where
  consents : SMap Consent := []
  /-- TAP sessions since chip reset (Table SEC-6), and the TAP's last answer. -/
  sessions : Nat := 0
  tap : Word := 0
  /-- The next signing index, in the state-store die (R416). -/
  index : Nat := 0
  /-- The report that is being built (R415). -/
  report : Bytes := []
  /-- Partitions whose retirement is in progress (Table SEC-4, step 5). -/
  retiring : List Nat := []
  deriving DecidableEq, Repr, Inhabited

/-- The state of the block. -/
structure State where
  /-- The commands that wait, first in first out. -/
  pending : List Instr
  /-- Every CSR register, by address; an unlisted one holds its reset value (`regReset`). -/
  regs : SMap Word
  /-- The outcome of the last CSR access. -/
  reply : CsrReply
  /-- The model's own counter of free values (no part of the hardware). -/
  free : Nat
  /-- Device time (R68), live: nanoseconds and fraction. -/
  clk : Stamp
  tim : TimeUnit
  /-- The four schedule domain units, by 0 to 3. -/
  doms : SMap Domain
  /-- Gate positions, by port region. -/
  gates : SMap GatePos
  /-- Regions that have raised STRAGGLER in this epoch (R96): collector units. -/
  stragglers : List Nat
  /-- Control-die memory, as far as it was written (an unlisted byte reads as 0). -/
  cdmem : List Host.Cell
  fires : List Fire
  dues : List Due
  flt : FaultState
  /-- Program banks by 2·region + bank (R106): the image as loaded. -/
  banks : SMap Bytes
  /-- Tile SRAM (R127): byte `a` of region `n` at 50331648·n + a. -/
  sram : List Host.Cell
  /-- SRAM words with an uncorrectable error (R128), by 6291456·region + word. -/
  sramBad : List Nat
  bobs : SMap Bobbin
  /-- The turn of each station engine in unscheduled work (R31): by engine, the bobbin served and the tiles left of its quantum. -/
  turns : SMap (Nat × Nat)
  tiles : List WaitTile
  /-- Tiles discarded as stale, by the region they were for (R83 counts them; no register shows the count). -/
  stale : SMap Nat
  progLoads : List ProgLoad
  colls : SMap Coll
  sets : List TileSet
  waitContribs : List WaitContrib
  ports : SMap Port
  ground : Ground
  mem : Mem
  /-- Clauses by slot, the serial counter (R49), and the outcome record (R65). -/
  cls : SMap Clause
  serial : Nat
  outcomes : List Outcome
  sht : Shuttle
  /-- Mailboxes by index. -/
  mbx : SMap Mbx
  boot : Boot
  /-- The latest answer to a CXL host. -/
  cxl : Option CxlOut
  pwr : Power
  sec : Sec
  deriving DecidableEq, Repr

/-- The device as every register's reset value and an empty queue leave it, before the first release of RESET_N (POWER_ON). -/
def State.reset : State where
  pending := []
  regs := []
  reply := {}
  free := 0
  clk := {}
  tim := {}
  doms := []
  gates := []
  stragglers := []
  cdmem := []
  fires := []
  dues := []
  flt := {}
  banks := []
  sram := []
  sramBad := []
  bobs := []
  turns := []
  tiles := []
  stale := []
  progLoads := []
  colls := []
  sets := []
  waitContribs := []
  ports := []
  ground := {}
  mem := {}
  cls := []
  serial := 0
  outcomes := []
  sht := {}
  mbx := []
  boot := {}
  cxl := none
  pwr := {}
  sec := {}

end Sys2Proof.Machine
end

