-- ==== Sys2Proof/Machine/Arith.lean ====
section
/-! DEFINITION. Number formats, rounding and exact accumulation (chapter 5): exact values, the encodings of Tables STR-1 and ARI-1,
the rounding of R138 to R141, the FP32 operations of R135, the exact accumulator of R152 to R155, and tiles in memory
order (R102 to R104). -/

namespace Sys2Proof.Machine

/-! ### Exact values -/

/-- An exact value: a signed rational (zero keeps its sign), an infinity, or NaN. Every NaN is one NaN (R131). -/
inductive Val where
  | fin (neg : Bool) (num den : Nat)
  | inf (neg : Bool)
  | nan
  deriving DecidableEq, Repr, Inhabited

/-- `n × 2^k` with a sign. -/
def Val.dy (neg : Bool) (n : Nat) (k : Int) : Val :=
  if 0 ≤ k then .fin neg (n * 2 ^ k.toNat) 1 else .fin neg n (2 ^ (-k).toNat)

/-- Plus zero. -/
def Val.zero : Val := .fin false 0 1

/-- An integer. -/
def Val.ofInt (i : Int) : Val := .fin (i < 0) i.natAbs 1

/-- Whether a value is a zero of either sign. -/
def Val.isZero : Val → Bool
  | .fin _ n _ => n == 0
  | _ => false

def Val.isNan : Val → Bool
  | .nan => true
  | _ => false

/-- The signed numerator. -/
def signed (neg : Bool) (n : Nat) : Int := if neg then -(n : Int) else n

def Val.neg : Val → Val
  | .fin s n d => .fin (!s) n d
  | .inf s => .inf (!s)
  | .nan => .nan

/-- The exact sum under the IEEE rules of R135: unlike infinities give NaN; an exact zero sum is +0 unless both terms are −0. -/
def Val.add : Val → Val → Val
  | .nan, _ => .nan
  | _, .nan => .nan
  | .inf a, .inf b => if a = b then .inf a else .nan
  | .inf a, _ => .inf a
  | _, .inf b => .inf b
  | .fin a n d, .fin b m e =>
    let x : Int := signed a n * (e : Int) + signed b m * (d : Int)
    if x = 0 then .fin (a && b && n == 0 && m == 0) 0 1 else .fin (x < 0) x.natAbs (d * e)

def Val.sub (x y : Val) : Val := x.add y.neg

/-- The exact product: an infinity times a zero is NaN; a zero has the product's sign (R136). -/
def Val.mul : Val → Val → Val
  | .nan, _ => .nan
  | _, .nan => .nan
  | .inf a, .inf b => .inf (a != b)
  | .inf a, .fin b n _ => if n = 0 then .nan else .inf (a != b)
  | .fin a n _, .inf b => if n = 0 then .nan else .inf (a != b)
  | .fin a n d, .fin b m e => .fin (a != b) (n * m) (d * e)

/-- Division of a value by a positive count. -/
def Val.divNat (x : Val) (k : Nat) : Val :=
  match x with
  | .fin s n d => .fin s n (d * k)
  | v => v

/-- Numeric order of two values that are not NaN; −0 equals +0. -/
def Val.lt : Val → Val → Bool
  | .fin a n d, .fin b m e => signed a n * (e : Int) < signed b m * (d : Int)
  | .inf a, .inf b => a && !b
  | .inf a, .fin _ _ _ => a
  | .fin _ _ _, .inf b => !b
  | _, _ => false

/-- Numeric equality; NaN equals nothing. -/
def Val.numEq : Val → Val → Bool
  | .fin a n d, .fin b m e => signed a n * (e : Int) == signed b m * (d : Int)
  | .inf a, .inf b => a == b
  | _, _ => false

/-- The sign bit. -/
def Val.sign : Val → Bool
  | .fin s _ _ => s
  | .inf s => s
  | .nan => false

/-- IEEE 754-2019 maximum (R133): a NaN operand gives NaN, and −0 counts as less than +0. -/
def Val.max (x y : Val) : Val :=
  if x.isNan || y.isNan then .nan
  else if x.lt y then y else if y.lt x then x else if x.sign then y else x

/-- IEEE 754-2019 minimum (R133). -/
def Val.min (x y : Val) : Val :=
  if x.isNan || y.isNan then .nan
  else if x.lt y then x else if y.lt x then y else if x.sign then x else y

/-! ### Formats (Tables STR-1 and ARI-1) -/

/-- A scalar encoding: a float with E exponent and M mantissa bits (`sp` 0: no special values, 1: the NaN of E4M3, 2: IEEE), or a
two's complement integer of `w` bits in units of 2^`u`. -/
inductive Enc where
  | flt (e m : Nat) (bias : Int) (sp : Nat)
  | int (w : Nat) (u : Int)
  deriving DecidableEq, Repr

/-- The element encoding of a format code of Table STR-1. -/
def fmtEnc (f : Nat) : Enc :=
  match f with
  | 0x01 => .flt 2 1 1 0
  | 0x02 => .flt 2 1 1 0
  | 0x03 => .flt 2 3 1 0
  | 0x04 => .flt 3 2 3 0
  | 0x05 => .flt 2 3 1 0
  | 0x06 => .flt 3 2 3 0
  | 0x07 => .flt 4 3 7 1
  | 0x08 => .flt 5 2 15 2
  | 0x09 => .flt 4 3 7 1
  | 0x0A => .flt 5 2 15 2
  | 0x0B => .int 8 (-6)
  | 0x0C => .int 8 0
  | 0x0D => .flt 8 7 127 2
  | 0x0E => .flt 5 10 15 2
  | 0x0F => .flt 8 23 127 2
  | _ => .int 32 0

/-- Bits per stored element. -/
def fmtBits (f : Nat) : Nat :=
  match f with
  | 0x01 => 4
  | 0x02 => 4
  | 0x03 => 6
  | 0x04 => 6
  | 0x05 => 6
  | 0x06 => 6
  | 0x0D => 16
  | 0x0E => 16
  | 0x0F => 32
  | 0x10 => 32
  | _ => 8

/-- Whether a format is an MX format. -/
def fmtMx (f : Nat) : Bool := f == 2 || f == 5 || f == 6 || f == 9 || f == 10 || f == 11

/-- Whether a code names a tile format. -/
def fmtValid (f : Nat) : Bool := 1 ≤ f && f ≤ 0x10

/-- Data and scale bytes per row (Table STR-1). -/
def fmtRow (f : Nat) : Nat := 16 * fmtBits f
def fmtScale (f : Nat) : Nat := if fmtMx f then 4 else 0

/-- R104: bytes and granules of a tile of `rows` stored rows. -/
def tileBytes (f rows : Nat) : Nat := rows * (fmtRow f + fmtScale f)
def tileGran (f rows : Nat) : Nat := cdiv (tileBytes f rows) 512

/-- The value of an element code (R130, R131, R133). -/
def Enc.val (e : Enc) (c : Nat) : Val :=
  match e with
  | .flt eb m bias sp =>
    let s := bit c (eb + m)
    let x := bits c (eb + m - 1) m
    let f := c % 2 ^ m
    if sp = 2 ∧ x = 2 ^ eb - 1 then if f = 0 then .inf s else .nan
    else if sp = 1 ∧ x = 2 ^ eb - 1 ∧ f = 2 ^ m - 1 then .nan
    else if x = 0 then Val.dy s f (1 - bias - m)
    else Val.dy s (2 ^ m + f) (x - bias - m)
  | .int w u => let i := sext w c; Val.dy (i < 0) i.natAbs u

/-- The exponent of the largest finite value, and its significand in units of 2^(exponent − M). -/
def fltTop (eb m : Nat) (bias : Int) (sp : Nat) : Int × Nat :=
  if sp = 2 then (2 ^ eb - 2 - bias, 2 ^ (m + 1) - 1)
  else if sp = 1 then (2 ^ eb - 1 - bias, 2 ^ (m + 1) - 2)
  else (2 ^ eb - 1 - bias, 2 ^ (m + 1) - 1)

/-- `⌊log2 (n ÷ d)⌋` for positive n and d. -/
def floorLog2 (n d : Nat) : Int :=
  let e : Int := (Nat.log2 n : Int) - (Nat.log2 d : Int)
  if 0 ≤ e then (if n < d * 2 ^ e.toNat then e - 1 else e)
  else (if n * 2 ^ (-e).toNat < d then e - 1 else e)

/-- Rounding modes of R137. -/
inductive Mode where
  | rne
  | sr
  | rtz
  deriving DecidableEq, Repr

/-- R138, R139: round N ÷ D (a magnitude in units of the grid's step) to an integer; `top` is the largest finite point. The
answer is the point chosen, whether it overflows, and whether, without an overflow, it counts as a saturation: R138 names only
an RTZ result of a value at or above top + ½. -/
def roundPoint (mode : Mode) (u : Nat) (top n d : Nat) : Nat × Bool × Bool :=
  let lo := n / d
  let r := n % d
  let far := 2 * n ≥ d * (2 * top + 1)
  match mode with
  | .rtz => (Nat.min lo top, false, far)
  | .rne =>
    let k := if 2 * r < d then lo else if d < 2 * r then lo + 1 else if lo % 2 = 0 then lo else lo + 1
    (k, far || top < k, false)
  | .sr =>
    let q := r * 2 ^ 32 / d
    let k := if q + u % 2 ^ 32 ≥ 2 ^ 32 then lo + 1 else lo
    (k, top < k, false)

/-- The code of a finite magnitude `k × 2^q` on the grid of a float encoding. -/
def fltCode (eb m : Nat) (bias : Int) (neg : Bool) (k : Nat) (q : Int) : Nat :=
  let s := if neg then 2 ^ (eb + m) else 0
  if k = 0 then s else
  let x : Int := Nat.log2 k + q
  if x < 1 - bias then s + k
  else
    let e := (x + bias).toNat
    let l := Nat.log2 k
    let f := if l ≤ m then k * 2 ^ (m - l) else k / 2 ^ (l - m)
    s + e * 2 ^ m + (f - 2 ^ m)

/-- The canonical NaN of a float encoding (R131). -/
def fltNan (eb m sp : Nat) : Nat :=
  if sp = 1 then 2 ^ (eb + m) - 1
  else if m = 2 then 2 ^ (eb + m) - 1
  else (2 ^ eb - 1) * 2 ^ m + 2 ^ (m - 1)

/-- An output element: its code, and whether it counts in STN_SAT_OUT and in STN_NAN_OUT. -/
structure OutEl where
  code : Nat
  sat : Bool := false
  nan : Bool := false
  deriving DecidableEq, Repr

/-- R138 and Table ARI-2: a value written in an element encoding (MX elements aside, but for their grids). The element maximum of a negative
integer is that of two's complement, for MXINT8 too (DEDUCED, log entry 140). -/
def Enc.out (e : Enc) (mode : Mode) (sat : Bool) (u : Nat) (v : Val) : OutEl :=
  match e with
  | .flt eb m bias sp =>
    let (xt, top) := fltTop eb m bias sp
    let sgn := fun (s : Bool) => if s then 2 ^ (eb + m) else 0
    let maxC := fun (s : Bool) => fltCode eb m bias s top (xt - m)
    let infC := fun (s : Bool) => sgn s + (2 ^ eb - 1) * 2 ^ m
    match v with
    | .nan => if sp = 0 then ⟨0, false, true⟩ else ⟨fltNan eb m sp, false, true⟩
    | .inf s =>
      if sp = 2 then ⟨infC s, false, false⟩
      else if sp = 1 then if sat then ⟨maxC s, true, false⟩ else ⟨fltNan eb m sp, false, true⟩
      else ⟨maxC s, true, false⟩
    | .fin s n d =>
      if n = 0 then ⟨sgn s, false, false⟩ else
      let x := Max.max (1 - bias) (Min.min xt (floorLog2 n d))
      let q := x - m
      let (n', d') := if 0 ≤ q then (n, d * 2 ^ q.toNat) else (n * 2 ^ (-q).toNat, d)
      let topHere := if x = xt then top else 2 ^ (m + 2)
      let (k, ovf, far) := roundPoint mode u topHere n' d'
      if ovf then
        if sp = 2 then if sat then ⟨maxC s, true, false⟩ else ⟨infC s, true, false⟩
        else if sp = 1 then if sat then ⟨maxC s, true, false⟩ else ⟨fltNan eb m sp, false, true⟩
        else ⟨maxC s, true, false⟩
      else ⟨fltCode eb m bias s k q, x == xt && far, false⟩
  | .int w un =>
    let endC := fun (s : Bool) => if s then 2 ^ (w - 1) else 2 ^ (w - 1) - 1
    match v with
    | .nan => ⟨0, false, true⟩
    | .inf s => ⟨endC s, true, false⟩
    | .fin s n d =>
      let top := if s then 2 ^ (w - 1) else 2 ^ (w - 1) - 1
      let (n', d') := if 0 ≤ un then (n, d * 2 ^ un.toNat) else (n * 2 ^ (-un).toNat, d)
      let (k, ovf, far) := roundPoint mode u top n' d'
      if ovf then ⟨endC s, true, false⟩
      else ⟨wrapInt w (signed s k), far, false⟩

/-! ### FP32 operations (R135) -/

/-- The FP32 encoding. -/
def encF32 : Enc := .flt 8 23 127 2

/-- rne32: round to FP32, nearest even. -/
def rne32 (v : Val) : Val := encF32.val (encF32.out .rne false 0 v).code

/-- The FP32 value of a word's low 32 bits. -/
def f32Val (c : Nat) : Val := encF32.val (c % 2 ^ 32)

/-- The FP32 code of a value on the FP32 grid. -/
def f32Code (v : Val) : Nat := (encF32.out .rne false 0 v).code

def addF32 (x y : Val) : Val := rne32 (x.add y)
def subF32 (x y : Val) : Val := rne32 (x.sub y)
def mulF32 (x y : Val) : Val := rne32 (x.mul y)

/-- A fused multiply-add, rounded once. -/
def fmaF32 (x y z : Val) : Val := rne32 ((x.mul y).add z)

/-- The reciprocal square root, correctly rounded. A quotient that is not exact carries a sticky bit far below the FP32 grid. -/
def rsqrt32 (v : Val) : Val :=
  match v with
  | .nan => .nan
  | .inf s => if s then .nan else .zero
  | .fin s n d =>
    if n = 0 then .inf s
    else if s then .nan
    else
      let z := d * 2 ^ 256 / n
      let k := Nat.sqrt z
      let y : Val := if k * k * n = d * 2 ^ 256 then .fin false k (2 ^ 128) else .fin false (2 * k + 1) (2 ^ 129)
      rne32 y

/-! ### OUTCONV and stochastic rounding (R137, R140) -/

/-- e^y for 0 ≤ y ≤ 1 in units of 2^-256, by its series. -/
def expSeries : Nat → Nat → Nat → Nat → Nat
  | 0, _, _, _ => 0
  | f + 1, j, term, y => term + expSeries f (j + 1) (term * y / (2 ^ 256 * (j + 1))) y

/-- R196: e^x correctly rounded to FP32. The exact rational value is computed to about 240 bits before the rounding. -/
def exp32 (v : Val) : Val :=
  match v with
  | .nan => .nan
  | .inf true => .zero
  | .inf false => .inf false
  | .fin s n d =>
    if n = 0 then .fin false 1 1
    else if 256 * d < n then if s then .zero else .inf false
    else
      let y := n * 2 ^ 256 / (d * 256)
      let e := (List.range 8).foldl (fun e _ => e * e / 2 ^ 256) (expSeries 64 0 (2 ^ 256) y)
      rne32 (if s then .fin false (2 ^ 256) e else .fin false e (2 ^ 256))

/-- The correctly rounded FP32 quotient of two values. -/
def divF32 (x y : Val) : Val :=
  match x, y with
  | .nan, _ => .nan
  | _, .nan => .nan
  | .inf _, .inf _ => .nan
  | .inf a, .fin b _ _ => .inf (a != b)
  | .fin a _ _, .inf b => .fin (a != b) 0 1
  | .fin a n d, .fin b m e =>
    if m = 0 then if n = 0 then .nan else .inf (a != b)
    else rne32 (.fin (a != b) (n * e) (d * m))

/-- The mode of an OUTCONV word; none for the reserved value, which faults the step with PARAM. -/
def outMode (oc : Nat) : Option Mode :=
  match oc % 4 with
  | 0 => some .rne
  | 1 => some .sr
  | 2 => some .rtz
  | _ => none

def outSat (oc : Nat) : Bool := bit oc 2

/-- mix64 of R140. -/
def mix64 (z : Nat) : Nat :=
  let z := ((z ^^^ (z / 2 ^ 30)) * 0xBF58476D1CE4E5B9) % 2 ^ 64
  let z := ((z ^^^ (z / 2 ^ 27)) * 0x94D049BB133111EB) % 2 ^ 64
  z ^^^ (z / 2 ^ 31)

/-- The seed of an output tile (R140). -/
def srSeed (stream tile : Nat) : Nat := mix64 ((stream * 2 ^ 32) ||| (tile % 2 ^ 32))

/-- The random bits of element `e`. -/
def srBits (seed e : Nat) : Nat := mix64 (seed ^^^ ((e + 1) * 0x9E3779B97F4A7C15 % 2 ^ 64))

/-! ### Tiles (R102 to R104) -/

/-- Element code (r, c) of a tile of `rows` stored rows. -/
def tileCode (f : Nat) (bs : Bytes) (r c : Nat) : Nat :=
  let w := fmtBits f
  leAt bs (r * fmtRow f + c * w / 8) 4 / 2 ^ (c * w % 8) % 2 ^ w

/-- The scale byte of block `b` of row `r`. -/
def tileScale (f rows : Nat) (bs : Bytes) (r b : Nat) : Nat := leAt bs (rows * fmtRow f + 4 * r + b) 1

/-- R132: the value of an MX element. -/
def mxVal (f : Nat) (scale code : Nat) : Val :=
  if scale = 0xFF then .nan else ((fmtEnc f).val code).mul (Val.dy false 1 ((scale : Int) - 127))

/-- The stored element (r, c), read as it stands. -/
def tileRaw (f rows : Nat) (bs : Bytes) (r c : Nat) : Val :=
  if fmtMx f then mxVal f (tileScale f rows bs r (c / 32)) (tileCode f bs r c)
  else (fmtEnc f).val (tileCode f bs r c)

/-- R104: the element a station reads, zero at or above ROWS and COLS. -/
def tileVal (f rows cols : Nat) (bs : Bytes) (r c : Nat) : Val :=
  if r < rows ∧ c < cols then tileRaw f rows bs r c else .zero

/-- A tile or rectangle as it is written, with what its elements add to STN_SAT_OUT and STN_NAN_OUT. -/
structure OutTile where
  bytes : Bytes
  sat : Nat := 0
  nan : Nat := 0
  deriving DecidableEq, Repr

/-- The exponent of the element format's largest normal (R141). -/
def mxEmax (f : Nat) : Int :=
  match f with
  | 0x02 => 2
  | 0x05 => 2
  | 0x06 => 4
  | 0x09 => 8
  | 0x0A => 15
  | _ => 0

/-- R141: one MX block: the scale byte and the element codes. -/
def mxBlock (f : Nat) (mode : Mode) (us : List Nat) (vs : List Val) : Nat × List OutEl :=
  let vs := vs.map rne32
  if vs.any (fun v => match v with | .fin _ _ _ => false | _ => true) then (0xFF, vs.map fun _ => ⟨0, false, true⟩)
  else if vs.all Val.isZero then (0, vs.map fun _ => ⟨0, false, false⟩)
  else
    let top := vs.foldl (fun (m : Int) v => match v with
      | .fin _ n d => if n = 0 then m else Max.max m (floorLog2 n d)
      | _ => m) (-1000)
    let x := Max.max (-127) (Min.min 127 (top - mxEmax f))
    ((x + 127).toNat, (vs.zip us).map fun (v, u) => (fmtEnc f).out mode true u (v.mul (Val.dy false 1 (-x))))

/-- Pack element codes of `w` bits, lowest first, into bytes (R103). -/
def packCodes (w : Nat) (cs : List Nat) : Bytes :=
  leBytes (cdiv (w * cs.length) 8) (cs.foldr (fun c a => a * 2 ^ w + c % 2 ^ w) 0)

/-- Write one row: the element codes and scale bytes, and the counts. -/
def outRow (f : Nat) (mode : Mode) (sat : Bool) (seed r cols width : Nat) (g : Nat → Val) : List Nat × List Nat × Nat × Nat :=
  if fmtMx f then
    let bl := (List.range (width / 32)).map fun b =>
      if 32 * b < cols then
        mxBlock f mode ((List.range 32).map fun i => srBits seed (128 * r + 32 * b + i))
          ((List.range 32).map fun i => g (32 * b + i))
      else (0, List.replicate 32 ⟨0, false, false⟩)
    let es := (bl.map (·.2)).flatten
    (es.map (·.code), bl.map (·.1), (es.filter (·.sat)).length, (es.filter (·.nan)).length)
  else
    let es := (List.range width).map fun c =>
      if c < cols then (fmtEnc f).out mode sat (srBits seed (128 * r + c)) (g c) else ⟨0, false, false⟩
    (es.map (·.code), [], (es.filter (·.sat)).length, (es.filter (·.nan)).length)

/-- Write a rectangle of `rows` rows, `cols` valid and `width` stored columns. A tile has width 128 (R102); the packing of R120 has
the width of its columns, with a row of FP6 filled to a whole group. -/
def outRect (f : Nat) (mode : Mode) (sat : Bool) (seed rows cols width : Nat) (g : Nat → Nat → Val) : OutTile :=
  let rs := (List.range rows).map fun r => outRow f mode sat seed r cols width (g r)
  ⟨(rs.map fun x => packCodes (fmtBits f) x.1).flatten ++ (rs.map fun x => x.2.1.map (BitVec.ofNat 8 ·)).flatten,
    (rs.map (·.2.2.1)).sum, (rs.map (·.2.2.2)).sum⟩

/-- Write an output tile (R104): OUTCONV `oc`, the seed of R140. -/
def outTile (f oc seed rows cols : Nat) (g : Nat → Nat → Val) : OutTile :=
  match outMode oc with
  | some m => outRect f m (outSat oc) seed rows cols 128 g
  | none => ⟨[], 0, 0⟩

/-- R120: pack the valid rectangle of a stored tile. -/
def packRect (f rows cols : Nat) (bs : Bytes) : Bytes :=
  let w := fmtBits f
  let width := if w = 6 then cdiv cols 4 * 4 else cols
  let data := (List.range rows).map fun r =>
    packCodes w ((List.range width).map fun c => if c < cols then tileCode f bs r c else 0)
  let sc := if fmtMx f then (List.range rows).map fun r =>
      (List.range (cols / 32)).map fun b => BitVec.ofNat 8 (tileScale f rows bs r b) else []
  data.flatten ++ sc.flatten

/-- Element code (r, c) of a packed rectangle. -/
def rectCode (f cols : Nat) (bs : Bytes) (r c : Nat) : Nat :=
  let w := fmtBits f
  let row := if w = 6 then cdiv cols 4 * 3 else cdiv (w * cols) 8
  leAt bs (r * row + c * w / 8) 4 / 2 ^ (c * w % 8) % 2 ^ w

/-- The value of element (r, c) of a packed rectangle. -/
def rectVal (f rows cols : Nat) (bs : Bytes) (r c : Nat) : Val :=
  if fmtMx f then
    let row := cdiv (fmtBits f * cols) 8
    let row := if fmtBits f = 6 then cdiv cols 4 * 3 else row
    mxVal f (leAt bs (rows * row + r * (cols / 32) + c / 32) 1) (rectCode f cols bs r c)
  else (fmtEnc f).val (rectCode f cols bs r c)

/-- R120: unpack a rectangle of `rows` rows into a tile of `stored` stored rows: the elements it lacks are zero. -/
def unpackRect (f stored rows cols : Nat) (bs : Bytes) : Bytes :=
  let w := fmtBits f
  let row := if w = 6 then cdiv cols 4 * 3 else cdiv (w * cols) 8
  let data := (List.range stored).map fun r =>
    packCodes w ((List.range 128).map fun c => if r < rows ∧ c < cols then rectCode f cols bs r c else 0)
  let sc := if fmtMx f then (List.range stored).map fun r =>
      (List.range 4).map fun b =>
        if r < rows ∧ 32 * b < cols then BitVec.ofNat 8 (leAt bs (rows * row + r * (cols / 32) + b) 1) else 0 else []
  data.flatten ++ sc.flatten

/-- R104: a tile of `rows` stored rows with every element in a column at or above `cols` zero. Scale bytes are no
elements, and stay (DEDUCED, log entry 137). -/
def clipTile (f rows cols : Nat) (bs : Bytes) : Bytes :=
  if 128 ≤ cols then bs else
  ((List.range rows).map fun r =>
    let row := bslice (bs.drop (r * fmtRow f)) 0 (fmtRow f)
    packCodes (fmtBits f) ((List.range 128).map fun c => if c < cols then tileCode f row 0 c else 0)).flatten
    ++ bs.drop (rows * fmtRow f)

/-! ### Exact sums (R135, R152 to R155) -/

/-- Add a term to a fixed-point state in units of 2^-`u`, without the count. -/
def accTerm (u : Nat) (a : Acc320) (v : Val) : Acc320 :=
  match v with
  | .nan => { a with nan := true }
  | .inf false => { a with pinf := true }
  | .inf true => { a with ninf := true }
  | .fin s n d => { a with a := a.a + signed s (n * 2 ^ u / d) }

/-- R153: add a term to an exact accumulator. -/
def accAdd (a : Acc320) (v : Val) : Acc320 :=
  if a.ovr then a
  else if a.count = 2 ^ 32 then { a with ovr := true }
  else accTerm 149 { a with count := a.count + 1 } v

/-- The value of a fixed-point state in units of 2^-`u`, by the flag rule of R135. -/
def accVal (u : Nat) (a : Acc320) : Val :=
  if a.ovr || a.nan || (a.pinf && a.ninf) then .nan
  else if a.pinf then .inf false
  else if a.ninf then .inf true
  else if a.a = 0 then .zero
  else .fin (a.a < 0) a.a.natAbs (2 ^ u)

/-- R154: read out an exact accumulator as an exact value, to be rounded once. -/
def accOut (a : Acc320) : Val := accVal 149 a

/-- R155: an accumulator object's 64 bytes. -/
def accEnc (a : Acc320) : Bytes :=
  leBytes 40 (wrapInt 320 a.a) ++ leBytes 5 a.count
    ++ leBytes 1 (a.nan.toNat + 2 * a.pinf.toNat + 4 * a.ninf.toNat + 8 * a.ovr.toNat) ++ zeros 18

/-- R155 read back. -/
def accDec (bs : Bytes) : Acc320 where
  a := sext 320 (leAt bs 0 40)
  count := leAt bs 40 5
  nan := bit (leAt bs 45 1) 0
  pinf := bit (leAt bs 45 1) 1
  ninf := bit (leAt bs 45 1) 2
  ovr := bit (leAt bs 45 1) 3

/-- R234: add a batch's partial to an accumulator as one addition: past 2^32 terms OVER is set and nothing is added. -/
def accMerge (a b : Acc320) : Acc320 :=
  if a.ovr then a
  else if b.ovr || 2 ^ 32 < a.count + b.count then { a with ovr := true }
  else ⟨a.a + b.a, a.count + b.count, a.nan || b.nan, a.pinf || b.pinf, a.ninf || b.ninf, false⟩

/-! ### MATMUL (R143 to R147, R485) -/

/-- The classes of R143. -/
def mmNarrow (f : Nat) : Bool := f == 1 || f == 3 || f == 4 || f == 7 || f == 8 || f == 12
def mm16 (f : Nat) : Bool := f == 13 || f == 14

/-- Table ARI-3: the grid exponent and the headroom of an MX element format. -/
def mxGrid (f : Nat) : Int × Int :=
  match f with
  | 0x02 => (-1, 76)
  | 0x05 => (-3, 72)
  | 0x06 => (-4, 66)
  | 0x09 => (-9, 48)
  | 0x0A => (-16, 20)
  | _ => (-6, 69)

/-- `⌊i × 2^k⌋`. -/
def floorShift (i : Int) (k : Int) : Int := if 0 ≤ k then i * 2 ^ k.toNat else i / 2 ^ (-k).toNat

/-- The integer D_b of R145, or a flag state where an element is NaN or infinite. -/
def mxDot (ug : Nat) (xs : List (Val × Val)) : Acc320 :=
  xs.foldl (fun a p => accTerm ug a (p.1.mul p.2)) {}

/-- R145: the chain value of one output element. `blocks` gives the biased scale sum of each block and its element pairs. The
second answer says whether a block fell below the window, with bits to lose or without (DEDUCED, log entry 141). -/
def mxChain (f0 f1 : Nat) (blocks : List (Bool × Nat × List (Val × Val))) : Val × Bool :=
  let (g0, h0) := mxGrid f0
  let (g1, h1) := mxGrid f1
  let h := Min.min h0 h1
  let ug := (-(g0 + g1)).toNat
  let smax := blocks.foldl (fun m b => Nat.max m b.2.1) 0
  let (acc, tr) := blocks.foldl (fun (x : Acc320 × Bool) b =>
      let d := mxDot ug b.2.2
      let sh : Int := (b.2.1 : Int) - smax + h
      let a := x.1
      ({ a with a := a.a + floorShift d.a sh, nan := a.nan || d.nan || b.1, pinf := a.pinf || d.pinf, ninf := a.ninf || d.ninf },
        x.2 || sh < 0)) ({}, false)
  let v := accVal 0 acc
  (v.mul (Val.dy false 1 (g0 + g1 + (smax : Int) - 254 - h)), tr)

/-- One level of the tree of R146. -/
def treeLevel : List Val → List Val
  | a :: b :: r => addF32 a b :: treeLevel r
  | l => l

/-- tree(k) of R146 over 128 products. -/
def tree16 (vs : List Val) : Val :=
  ((treeLevel (treeLevel (treeLevel (treeLevel (treeLevel (treeLevel (treeLevel vs))))))).head?).getD .zero

/-- The chain value of output element (i, n) over the first `k` products of some operand pairs (R143 to R146, R169), and whether the chain
lost bits below the window of R145. The IN1 tile has 128 stored rows; products beyond `k` are zero, and no block of them enters. -/
def mmElem (f0 f1 rows k : Nat) (xs : List (Bytes × Bytes)) (i n : Nat) : Val × Bool :=
  if fmtMx f0 then
    mxChain f0 f1 ((xs.map fun (x, y) => (List.range 4).map fun b =>
      let sa := tileScale f0 rows x i b
      let sb := tileScale f1 128 y n b
      (sa == 0xFF || sb == 0xFF, sa + sb, (List.range 32).map fun m =>
        ((fmtEnc f0).val (tileCode f0 x i (32 * b + m)), (fmtEnc f1).val (tileCode f1 y n (32 * b + m))))).flatten.take (k / 32))
  else if mm16 f0 then
    let ts := xs.map fun (x, y) => tree16 ((List.range 128).map fun m =>
      mulF32 (tileRaw f0 rows x i m) (tileRaw f1 128 y n m))
    match ts with
    | [] => (.zero, false)
    | t :: r => (r.foldl addF32 t, false)
  else
    (accVal 32 (xs.foldl (fun a (x, y) => (List.range 128).foldl (fun a m =>
      accTerm 32 a ((tileRaw f0 rows x i m).mul (tileRaw f1 128 y n m))) a) {}), false)

/-! ### ELEMWISE and NORM (R148 to R151) -/

/-- R148: whether an ELEMWISE parameter block is valid. Reserved bits of a block are not read (DESIGN CHOICE, log entry 138). -/
def ewParamOk (p : Bytes) : Bool :=
  let s := leAt p 9 1
  let d := leAt p 10 1
  let brk := (List.range (s - 1)).map fun k => f32Val (leAt p (20 + 4 * k) 4)
  (outMode (leAt p 0 8)).isSome && leAt p 8 1 ≤ 5 && 1 ≤ s && s ≤ 16 && d ≤ 7
    && p.length == 20 + 4 * (s - 1) + 4 * s * (d + 1)
    && brk.all (fun v => match v with | .fin _ _ _ => true | _ => false)
    && (brk.zip (brk.drop 1)).all (fun (a, b) => a.lt b)

/-- R149: one element. `y` is the element of IN1 where BINOP names one. -/
def ewElem (p : Bytes) (x y : Val) : Val :=
  let s := leAt p 9 1
  let d := leAt p 10 1
  let brk := (List.range (s - 1)).map fun k => f32Val (leAt p (20 + 4 * k) 4)
  let coef := fun (g j : Nat) => f32Val (leAt p (20 + 4 * (s - 1) + 4 * (g * (d + 1) + j)) 4)
  let x := match leAt p 8 1 with
    | 1 => addF32 x y
    | 2 => subF32 x y
    | 3 => mulF32 x y
    | 4 => x.max y
    | 5 => x.min y
    | _ => x
  let t := fmaF32 (f32Val (leAt p 12 4)) x (f32Val (leAt p 16 4))
  let g := if t.isNan then 0 else (brk.filter fun q => q.lt t || q.numEq t).length
  let lo := if 1 ≤ g then (brk[g - 1]?).getD .zero else if 1 < s then (brk[0]?).getD .zero else .zero
  let w := subF32 t lo
  (List.range d).foldl (fun acc i => fmaF32 acc w (coef g (d - 1 - i))) (coef g d)

/-- R150: whether a NORM parameter block is valid. -/
def normParamOk (p : Bytes) : Bool :=
  p.length == 16 && (outMode (leAt p 0 8)).isSome && leAt p 8 1 ≤ 1
    && (match f32Val (leAt p 12 4) with | .fin s n _ => !s || n == 0 | _ => false)

/-- R151: the statistics of a row: the mean and the reciprocal deviation. -/
def normStats (p : Bytes) (xs : List Val) : Val × Val :=
  let n := xs.length
  let s1 := accOut (xs.foldl accAdd {})
  let s2 := accOut (xs.foldl (fun a x => accAdd a (mulF32 x x)) {})
  let q2 := rne32 (s2.divNat n)
  let (mean, var) :=
    if leAt p 8 1 = 0 then
      let mean := rne32 (s1.divNat n)
      (mean, Val.zero.max (subF32 q2 (mulF32 mean mean)))
    else (Val.zero, q2)
  (mean, rsqrt32 (addF32 var (f32Val (leAt p 12 4))))

/-- R151: one normalised element; `gb` holds gamma and beta of an affine step. -/
def normElem (mean rstd x : Val) (gb : Option (Val × Val)) : Val :=
  let y := mulF32 (subF32 x mean) rstd
  match gb with
  | some (g, b) => fmaF32 y g b
  | none => y

end Sys2Proof.Machine
end

