-- ==== Sys2Proof/Machine/Hash.lean ====
section
/-! DEFINITION. The sponge functions of FIPS 202: SHAKE256, which digests clauses, images, keys and descriptors (R52, R398, R400, R447), and
those that ML-KEM uses beside it (R404). -/

namespace Sys2Proof.Machine

/-- The Keccak-f[1600] state: 25 lanes, lane (x, y) at index x + 5y. -/
abbrev Lanes := List (BitVec 64)

def lane (a : Lanes) (i : Nat) : BitVec 64 := a[i]?.getD 0

/-- One step of the shift register of iota (x^8 + x^6 + x^5 + x^4 + 1). -/
def iotaStep (r : Nat) : Nat := if r < 128 then 2 * r else (2 * r) ^^^ 0x171

/-- The register after the seven bits of one round, and the constant that they make: bit `j` stands at place 2^j - 1. -/
def iotaWord (r : Nat) : Nat × Nat :=
  (List.range 7).foldl (fun p j => (iotaStep p.1, p.2 + p.1 % 2 * 2 ^ (2 ^ j - 1))) (r, 0)

/-- The lanes of rho and pi as one walk: from (1, 0) each lane moves to the place of the next, rotated by a triangular number. -/
def piWalk : Nat → Nat → Nat → Nat → List (Nat × Nat × Nat)
  | 0, _, _, _ => []
  | n + 1, k, x, y =>
    let z := (2 * x + 3 * y) % 5
    (x + 5 * y, y + 5 * z, (k + 1) * (k + 2) / 2 % 64) :: piWalk n (k + 1) y z

/-- Theta: every lane takes the parity of two columns. -/
def theta (a : Lanes) : Lanes :=
  let par := fun x => (List.range 5).foldl (fun v y => v ^^^ lane a (x % 5 + 5 * y)) 0
  let mix := (List.range 5).map fun x => par (x + 4) ^^^ (par (x + 1)).rotateLeft 1
  (List.range 25).map fun i => lane a i ^^^ lane mix (i % 5)

/-- Rho and pi. -/
def rhoPi (a : Lanes) : Lanes :=
  (piWalk 24 0 1 0).foldl (fun b (src, dst, n) => b.set dst ((lane a src).rotateLeft n)) a

/-- Chi: the only step that is not linear, on each row. -/
def chi (a : Lanes) : Lanes :=
  (List.range 25).map fun i =>
    let row := i / 5 * 5
    lane a i ^^^ (~~~(lane a (row + (i + 1) % 5)) &&& lane a (row + (i + 2) % 5))

/-- One round on the lanes and the shift register of iota. -/
def keccakRound (s : Lanes × Nat) : Lanes × Nat :=
  let a := chi (rhoPi (theta s.1))
  let (r, c) := iotaWord s.2
  (a.set 0 (lane a 0 ^^^ BitVec.ofNat 64 c), r)

/-- Keccak-f[1600]: 24 rounds. -/
def keccakF (a : Lanes) : Lanes := ((List.range 24).foldl (fun s _ => keccakRound s) (a, 1)).1

/-- Absorb one block of `r` bytes. -/
def absorb (r : Nat) (a : Lanes) (blk : Bytes) : Lanes :=
  keccakF ((List.range 25).map fun i => if 8 * i < r then lane a i ^^^ BitVec.ofNat 64 (leAt blk (8 * i) 8) else lane a i)

/-- Absorb the message, padded by `dom` (the domain bits and the first bit of pad10*1) up to the last bit. -/
def absorbAll (r : Nat) (dom : Byte) : Nat → Lanes → Bytes → Lanes
  | 0, a, _ => a
  | n + 1, a, m =>
    if m.length < r then
      let p := bslice (m ++ [dom]) 0 (r - 1)
      absorb r a (p ++ [if m.length = r - 1 then dom ||| 0x80 else 0x80])
    else absorbAll r dom n (absorb r a (m.take r)) (m.drop r)

/-- Squeeze `n` blocks of output. -/
def squeeze (r : Nat) : Nat → Lanes → Bytes
  | 0, _ => []
  | n + 1, a => (List.range (r / 8)).flatMap (fun i => leBytes 8 (lane a i).toNat) ++ squeeze r n (keccakF a)

/-- The sponge of rate `r` with `n` bytes of output. -/
def sponge (r : Nat) (dom : Byte) (m : Bytes) (n : Nat) : Bytes :=
  let a := absorbAll r dom (m.length / r + 1) (List.replicate 25 0) m
  (squeeze r (n / r + 1) a).take n

/-- SHAKE256 and SHAKE128 with `n` bytes of output, SHA3-256 and SHA3-512. -/
def shake256 (m : Bytes) (n : Nat) : Bytes := sponge 136 0x1F m n
def shake128 (m : Bytes) (n : Nat) : Bytes := sponge 168 0x1F m n
def sha3w256 (m : Bytes) : Bytes := sponge 136 0x06 m 32
def sha3w512 (m : Bytes) : Bytes := sponge 72 0x06 m 64

/-- The text of a domain label, as ASCII. -/
def ascii (s : String) : Bytes := s.toList.map fun c => BitVec.ofNat 8 c.toNat

end Sys2Proof.Machine
end

