-- ==== Sys2Proof/Machine/Aes.lean ====
section
/-! DEFINITION. The ciphers that the stored layout names (R174, R248, R251, R404): AES-256 (FIPS 197), XTS (IEEE 1619), CMAC (SP
800-38B) and the AES key wrap (RFC 3394). -/

namespace Sys2Proof.Machine

/-! ### AES-256 -/

/-- A column of the AES state, or a word of its key schedule: bytes in row order. -/
structure Col where
  r0 : Byte
  r1 : Byte
  r2 : Byte
  r3 : Byte
  deriving DecidableEq, Repr, Inhabited

/-- The AES state: four columns. -/
structure AesBlk where
  c0 : Col
  c1 : Col
  c2 : Col
  c3 : Col
  deriving DecidableEq, Repr, Inhabited

/-- The substitution and its inverse, 32 entries to a number, entry 0 in the lowest byte. -/
def aesSub : List Nat :=
  [0xc072a49cafa2d4adf04759fa7dc982ca76abd7fe2b670130c56f6bf27b777c63,
   0x75b227ebe28012079a059618c323c7041531d871f1e5a534ccf73f362693fdb7,
   0xcf584c4a39becb6a5bb1fc20ed00d153842fe329b3d63b52a05a6e1b1a2c8309,
   0xd2f3ff1021dab6bcf5389d928f40a351a89f3c507f02f94585334d43fbaaefd0,
   0xdb0b5ede14b8ee4688902a22dc4f816073195d643d7ea7c41744975fec130ccd,
   0x08ae7a65eaf4566ca94ed58d6d37c8e779e4959162acd3c25c2406490a3a32e0,
   0x9e1dc186b95735610ef6034866b53e708a8bbd4b1f74dde8c6b4a61c2e2578ba,
   0x16bb54b00f2d99416842e6bf0d89a18cdf2855cee9871e9b948ed9691198f8e1]
def aesUnsub : List Nat :=
  [0xcbe9dec444438e3487ff2f9b8239e37cfbd7f3819ea340bf38a53630d56a0952,
   0x25d18b6d49a25b76b224d92866a12e084ec3fa420b954cee3d23c2a632947b54,
   0x849d8da75746155edab9edfd5048706c92b6655dcc5ca4d41698688664f6f872,
   0x6b8a130103bdafc1020f3fca8f1e2cd00645b3b80558e4f70ad3bc8c00abd890,
   0x6edf751ce837f9e28535ade72274ac9673e6b4f0cecff297eadc674f4111913a,
   0xf45acd78fec0db9a2079d2c64b3e56fc1bbe18aa0e62b76f89c5291d711af147,
   0xef9cc9939f7ae52d0d4ab519a97f51605fec8027591012b131c7078833a8dd1f,
   0x7d0c2155631469e126d677ba7e042b17619953833cbbebc8b0f52aae4d3be0a0]

/-- The entry of a substitution. -/
def subByte (t : List Nat) (b : Byte) : Byte :=
  BitVec.ofNat 8 (t.getD (b.toNat / 32) 0 / 2 ^ (8 * (b.toNat % 32)))

def Col.map (f : Byte → Byte) (c : Col) : Col := ⟨f c.r0, f c.r1, f c.r2, f c.r3⟩
def Col.xor (c d : Col) : Col := ⟨c.r0 ^^^ d.r0, c.r1 ^^^ d.r1, c.r2 ^^^ d.r2, c.r3 ^^^ d.r3⟩
def AesBlk.map (f : Col → Col) (b : AesBlk) : AesBlk := ⟨f b.c0, f b.c1, f b.c2, f b.c3⟩
def AesBlk.xor (a b : AesBlk) : AesBlk := ⟨a.c0.xor b.c0, a.c1.xor b.c1, a.c2.xor b.c2, a.c3.xor b.c3⟩

/-- ShiftRows: row `r` moves `r` columns to the left; and back. -/
def AesBlk.shift (b : AesBlk) : AesBlk :=
  ⟨⟨b.c0.r0, b.c1.r1, b.c2.r2, b.c3.r3⟩, ⟨b.c1.r0, b.c2.r1, b.c3.r2, b.c0.r3⟩,
   ⟨b.c2.r0, b.c3.r1, b.c0.r2, b.c1.r3⟩, ⟨b.c3.r0, b.c0.r1, b.c1.r2, b.c2.r3⟩⟩
def AesBlk.unshift (b : AesBlk) : AesBlk :=
  ⟨⟨b.c0.r0, b.c3.r1, b.c2.r2, b.c1.r3⟩, ⟨b.c1.r0, b.c0.r1, b.c3.r2, b.c2.r3⟩,
   ⟨b.c2.r0, b.c1.r1, b.c0.r2, b.c3.r3⟩, ⟨b.c3.r0, b.c2.r1, b.c1.r2, b.c0.r3⟩⟩

/-- Multiplication by x in the field of AES. -/
def aesTwice (b : Byte) : Byte := if b.msb then (b <<< 1) ^^^ 0x1B else b <<< 1

/-- MixColumns of a column, and its inverse, which mixes once more after a correction of the even and the odd rows. -/
def Col.mix (c : Col) : Col :=
  ⟨aesTwice (c.r0 ^^^ c.r1) ^^^ c.r1 ^^^ c.r2 ^^^ c.r3, aesTwice (c.r1 ^^^ c.r2) ^^^ c.r2 ^^^ c.r3 ^^^ c.r0,
   aesTwice (c.r2 ^^^ c.r3) ^^^ c.r3 ^^^ c.r0 ^^^ c.r1, aesTwice (c.r3 ^^^ c.r0) ^^^ c.r0 ^^^ c.r1 ^^^ c.r2⟩
def Col.unmix (c : Col) : Col :=
  let u := aesTwice (aesTwice (c.r0 ^^^ c.r2))
  let v := aesTwice (aesTwice (c.r1 ^^^ c.r3))
  Col.mix ⟨c.r0 ^^^ u, c.r1 ^^^ v, c.r2 ^^^ u, c.r3 ^^^ v⟩

/-- The next key word from the one before (`p`), the one eight before (`q`), its number, and the round constant. -/
def keyWord (i : Nat) (rc : Byte) (q p : Col) : Col :=
  if i % 8 = 0 then
    let w := (⟨p.r1, p.r2, p.r3, p.r0⟩ : Col).map (subByte aesSub)
    q.xor ⟨w.r0 ^^^ rc, w.r1, w.r2, w.r3⟩
  else if i % 8 = 4 then q.xor (p.map (subByte aesSub))
  else q.xor p

/-- The key schedule: `w` holds the words so far, the last first. -/
def keyWords : Nat → Nat → Byte → List Col → List Col
  | 0, _, _, w => w
  | n + 1, i, rc, w =>
    keyWords n (i + 1) (if i % 8 = 0 then aesTwice rc else rc) (keyWord i rc (w.getD 7 default) (w.getD 0 default) :: w)

/-- Bytes as columns, four at a time. -/
def colsOf : Nat → Bytes → List Col
  | 0, _ => []
  | n + 1, d => ⟨d.getD 0 0, d.getD 1 0, d.getD 2 0, d.getD 3 0⟩ :: colsOf n (d.drop 4)

/-- Four columns at a time as blocks. -/
def aesBlks : List Col → List AesBlk
  | a :: b :: c :: d :: r => ⟨a, b, c, d⟩ :: aesBlks r
  | _ => []

/-- The 15 round keys of a 32-byte key. -/
def aesKeys (k : Bytes) : List AesBlk := aesBlks (keyWords 52 8 1 (colsOf 8 k).reverse).reverse

/-- AES-256 of a block: the first key is added, each further key ends a round, the last of which does not mix. -/
def aesRounds : List AesBlk → AesBlk → AesBlk
  | [], b => b
  | [k], b => ((b.map (Col.map (subByte aesSub))).shift).xor k
  | k :: r, b => aesRounds r ((((b.map (Col.map (subByte aesSub))).shift).map Col.mix).xor k)
def aesEnc (ks : List AesBlk) (b : AesBlk) : AesBlk :=
  match ks with
  | [] => b
  | k :: r => aesRounds r (b.xor k)

/-- The inverse cipher. -/
def aesUnrounds : List AesBlk → AesBlk → AesBlk
  | [], b => b
  | [k], b => ((b.xor k).unshift).map (Col.map (subByte aesUnsub))
  | k :: r, b => (((((aesUnrounds r b).xor k).map Col.unmix).unshift).map (Col.map (subByte aesUnsub)))
def aesDec (ks : List AesBlk) (b : AesBlk) : AesBlk :=
  match ks with
  | [] => b
  | k :: r => (aesUnrounds r b).xor k

/-- A block from 16 bytes, and its bytes. -/
def AesBlk.ofBytes (d : Bytes) : AesBlk := (aesBlks (colsOf 4 d)).getD 0 default
def Col.bytes (c : Col) : Bytes := [c.r0, c.r1, c.r2, c.r3]
def AesBlk.bytes (b : AesBlk) : Bytes := b.c0.bytes ++ b.c1.bytes ++ b.c2.bytes ++ b.c3.bytes

/-! ### XTS (R248, R251) -/

/-- The next tweak: the number of the 16 bytes, byte 0 lowest, times x. -/
def nextTweak (t : AesBlk) : AesBlk :=
  let v := 2 * leNat t.bytes
  AesBlk.ofBytes (leBytes 16 (if v < 2 ^ 128 then v else v ^^^ 0x87))

/-- XTS over `n` blocks of 16 bytes: `f` is the cipher of the data key, `t` the tweak of the first block. -/
def xtsRun (f : AesBlk → AesBlk) : Nat → AesBlk → Bytes → Bytes
  | 0, _, _ => []
  | n + 1, t, d => ((f ((AesBlk.ofBytes d).xor t)).xor t).bytes ++ xtsRun f n (nextTweak t) (d.drop 16)

/-- XTS of a data unit of whole blocks under 64 key bytes (data key, tweak key), with an address as tweak. -/
def xtsEnc (k : Bytes) (addr : Nat) (d : Bytes) : Bytes :=
  xtsRun (aesEnc (aesKeys (bslice k 0 32))) (d.length / 16) (aesEnc (aesKeys (bslice k 32 32)) (AesBlk.ofBytes (leBytes 16 addr))) d
def xtsDec (k : Bytes) (addr : Nat) (d : Bytes) : Bytes :=
  xtsRun (aesDec (aesKeys (bslice k 0 32))) (d.length / 16) (aesEnc (aesKeys (bslice k 32 32)) (AesBlk.ofBytes (leBytes 16 addr))) d

/-! ### CMAC (R248) -/

/-- The big-endian number of a block, doubled. -/
def cmacTwice (b : AesBlk) : AesBlk :=
  let v := 2 * leNat b.bytes.reverse
  AesBlk.ofBytes (leBytes 16 (if v < 2 ^ 128 then v else v ^^^ 0x87)).reverse

/-- The chain over the blocks of a message; `last` is what the last block takes. -/
def cmacRun (ks : List AesBlk) (last : AesBlk) : Nat → AesBlk → Bytes → AesBlk
  | 0, c, _ => c
  | 1, c, d => aesEnc ks ((c.xor (AesBlk.ofBytes d)).xor last)
  | n + 1, c, d => cmacRun ks last n (aesEnc ks (c.xor (AesBlk.ofBytes d))) (d.drop 16)

/-- AES-256-CMAC of a message of whole blocks. -/
def cmac (k d : Bytes) : Bytes :=
  let ks := aesKeys k
  (cmacRun ks (cmacTwice (aesEnc ks (AesBlk.ofBytes []))) (d.length / 16) (AesBlk.ofBytes []) d).bytes

/-! ### Key wrap (R404) -/

/-- One step back of the unwrap: `a` is the check register, `r` the 8-byte registers, `t` the step's number. -/
def unwrapStep (ks : List AesBlk) (n t : Nat) (p : Bytes × List Bytes) : Bytes × List Bytes :=
  let i := (t - 1) % n
  let x := List.zipWith (· ^^^ ·) p.1 (leBytes 8 t).reverse
  let b := (aesDec ks (AesBlk.ofBytes (x ++ p.2.getD i []))).bytes
  (b.take 8, p.2.set i (b.drop 8))

/-- The key that a wrapped key opens to under a 32-byte key-encryption key; none where the check fails. -/
def aesUnwrap (kek d : Bytes) : Option Bytes :=
  let n := d.length / 8 - 1
  let p := (List.range (6 * n)).foldl (fun p i => unwrapStep (aesKeys kek) n (6 * n - i) p)
    (d.take 8, (List.range n).map fun i => bslice d (8 + 8 * i) 8)
  if p.1 = List.replicate 8 0xA6 then some p.2.flatten else none

end Sys2Proof.Machine
end

