-- ==== Sys2Proof/Machine/Ecc.lean ====
section
/-! DEFINITION. The codes of a stored block (R246, R247): Reed–Solomon RS(74,64) over bytes, and the 7-bit check over META and a MAC
quarter. Symbols of the field are numbers below 256; addition is exclusive or. -/

namespace Sys2Proof.Machine

/-! ### The field of R246 -/

/-- Multiplication by α. -/
def gfTwice (a : Nat) : Nat := if a < 128 then 2 * a else (2 * a) ^^^ 0x11D

/-- Multiplication: `n` bits of `b` are left. -/
def gfMulGo : Nat → Nat → Nat → Nat
  | 0, _, _ => 0
  | n + 1, a, b => (if b % 2 = 1 then a else 0) ^^^ gfMulGo n (gfTwice a) (b / 2)
def gfMul (a b : Nat) : Nat := gfMulGo 8 a b

/-- α to a power. -/
def gfPow : Nat → Nat
  | 0 => 1
  | n + 1 => gfTwice (gfPow n)

/-- The inverse: the 254th power, by squarings. -/
def gfInv (a : Nat) : Nat :=
  ((List.range 7).foldl (fun (x : Nat × Nat) _ => let q := gfMul x.1 x.1; (q, gfMul x.2 q)) (a, 1)).2

/-- A polynomial at a point; coefficients from the constant term up. -/
def gfEval (x : Nat) : List Nat → Nat
  | [] => 0
  | c :: r => c ^^^ gfMul x (gfEval x r)

/-- A scalar multiple, and a sum. -/
def gfScale (k : Nat) (p : List Nat) : List Nat := p.map (gfMul k)
def gfAdd : List Nat → List Nat → List Nat
  | [], q => q
  | p, [] => p
  | a :: p, b :: q => (a ^^^ b) :: gfAdd p q
def gfMulPoly : List Nat → List Nat → List Nat
  | [], _ => []
  | a :: p, q => gfAdd (gfScale a q) (0 :: gfMulPoly p q)

/-! ### RS(74,64) -/

/-- The generator without its leading coefficient, from the constant term up: roots α^0 to α^9. -/
def rsGen : List Nat := ((List.range 10).foldl (fun g i => gfMulPoly [gfPow i, 1] g) [1]).take 10

/-- The check symbols of a message, highest order first, by division: `r` holds the remainder, highest order first. -/
def rsCheck (d : List Nat) : List Nat :=
  d.foldl (fun r m => gfAdd (gfScale (m ^^^ r.headD 0) rsGen.reverse) (r.drop 1 ++ [0])) (List.replicate 10 0)

/-- The ten syndromes of a word of 74 symbols, highest order first. -/
def rsSyn (w : List Nat) : List Nat := (List.range 10).map fun j => w.foldl (fun v c => gfMul v (gfPow j) ^^^ c) 0

/-- The error locator: the locator `c`, the one before the last change of length `b` with its discrepancy `d`, the length `l`, the steps
since `m`. -/
structure Locate where
  c : List Nat := [1]
  b : List Nat := [1]
  d : Nat := 1
  l : Nat := 0
  m : Nat := 1
  deriving DecidableEq, Repr

/-- One syndrome more. -/
def Locate.step (s : List Nat) (x : Locate) (n : Nat) : Locate :=
  let e := (List.range (x.l + 1)).foldl (fun v i => v ^^^ gfMul (x.c.getD i 0) (s.getD (n - i) 0)) 0
  if e = 0 then { x with m := x.m + 1 } else
  let c := gfAdd x.c (List.replicate x.m 0 ++ gfScale (gfMul e (gfInv x.d)) x.b)
  if 2 * x.l ≤ n then ⟨c, x.c, e, n + 1 - x.l, 1⟩ else { x with c := c, m := x.m + 1 }

/-- The errors of a word of 74 symbols as (place, value), at most five; none where no five explain the syndromes. -/
def rsErrors (w : List Nat) : Option (List (Nat × Nat)) :=
  let s := rsSyn w
  let x := (List.range 10).foldl (Locate.step s) {}
  let at_ := (List.range 74).filter fun i => gfEval (gfInv (gfPow (73 - i))) x.c == 0
  let om := (gfMulPoly s x.c).take 10
  let dc := (List.range x.c.length).filterMap fun i => if i % 2 = 1 then some (x.c.getD i 0) else none
  let es := at_.map fun i =>
    let v := gfInv (gfPow (73 - i))
    (i, gfMul (gfPow (73 - i)) (gfMul (gfEval v om) (gfInv (gfEval (gfMul v v) dc))))
  if 5 < x.l ∨ at_.length ≠ x.l then none else some es

/-- R246: a word of 74 symbols after correction; none where it is uncorrectable. -/
def rsCorrect (w : List Nat) : Option (List Nat) :=
  if (rsSyn w).all (· == 0) then some w else
  match rsErrors w with
  | none => none
  | some es =>
    let v := es.foldl (fun (w : List Nat) e => w.set e.1 (w.getD e.1 0 ^^^ e.2)) w
    if (rsSyn v).all (· == 0) then some v else none

/-! ### The check of META and the MAC quarter (R247) -/

/-- The columns of the 41 bits: the numbers below 48 that are no power of two. The manual gives no check matrix (DESIGN CHOICE, log
entry 97). -/
def secCols : List Nat := (List.range 48).filter fun n => 2 < n && n != 4 && n != 8 && n != 16 && n != 32

/-- The exclusive or of the columns of the set bits of a 41-bit number. -/
def secSum (v : Nat) : Nat := ((secCols.zipIdx).filter fun c => bit v c.2).foldl (fun a c => a ^^^ c.1) 0

/-- Whether the number of set bits of `n` bits is odd. -/
def parity (n v : Nat) : Bool := (maskBits v n).length % 2 == 1

/-- The 7 check bits of 41 bits: the six sums, then the parity of all. -/
def secCheck (v : Nat) : Nat := secSum v + (if parity 41 v != parity 6 (secSum v) then 64 else 0)

/-- The 48 bits (41 of data, then the 7 of the check) after correction; none where more than one bit is wrong. -/
def secCorrect (w : Nat) : Option Nat :=
  let v := w % 2 ^ 41
  let c := w / 2 ^ 41 % 128
  let s := secSum v ^^^ (c % 64)
  if !parity 48 w then (if s = 0 then some w else none)
  else if s = 0 then some (w ^^^ 2 ^ 47)
  else if (maskBits s 6).length = 1 then some (w ^^^ 2 ^ (41 + Nat.log2 s))
  else match (secCols.zipIdx).find? fun x => x.1 == s with
    | some x => some (w ^^^ 2 ^ x.2)
    | none => none

/-! ### A native block of 80 bytes (Table MEM-4) -/

/-- META[8:0] (R247). -/
def metaWord (poison enc : Bool) (part : Nat) : Nat := poison.toNat + enc.toNat * 2 + part % 16 * 4

/-- The 48 bits that bytes 64 to 69 hold, as the code has them: META[8:0], the MAC quarter, then the check. -/
def sideBits (b : Bytes) : Nat := leAt b 64 2 % 512 + leAt b 66 4 * 2 ^ 9 + leAt b 64 2 / 512 * 2 ^ 41
def sideBytes (v : Nat) : Bytes := leBytes 2 (v % 512 + v / 2 ^ 41 % 128 * 512) ++ leBytes 4 (v / 2 ^ 9)

/-- The 74 symbols of the code in a block: bytes 0 to 63, then 70 to 79. -/
def blockWord (b : Bytes) : List Nat := (bslice b 0 64 ++ bslice b 70 10).map (·.toNat)

/-- R174, R245: a native block: 64 stored data bytes, META, a quarter of the sector MAC, the check symbols. -/
def nativeBlock (data quarter : Bytes) (poison enc : Bool) (part : Nat) : Bytes :=
  let v := metaWord poison enc part + leNat quarter * 2 ^ 9
  data ++ sideBytes (v + secCheck v * 2 ^ 41) ++ (rsCheck (data.map (·.toNat))).map (BitVec.ofNat 8 ·)

/-- R249: the 80 bytes of a block after correction; none where it is uncorrectable. -/
def correctBlock (b : Bytes) : Option Bytes :=
  match rsCorrect (blockWord b), secCorrect (sideBits b) with
  | some w, some v =>
    let d := w.map (BitVec.ofNat 8 ·)
    some (d.take 64 ++ sideBytes v ++ d.drop 64)
  | _, _ => none

/-- R175, R251: the data of an 80-byte unit of the HX-3208 layout, decrypted: check bits over the plaintext in bytes 64 to 73. -/
def legacyUnit (b : Bytes) : Option Bytes :=
  (rsCorrect ((bslice b 0 74).map (·.toNat))).map fun w => (w.take 64).map (BitVec.ofNat 8 ·)

/-- R251: the data of a run of units at a tray address, under the legacy key pair; none where one is uncorrectable, or there is no
key. -/
def legacyOpen (key : Option Bytes) (addr : Nat) (raw : Bytes) : Option Bytes :=
  match key with
  | none => none
  | some k =>
    (List.range (raw.length / 80)).foldl (fun r i =>
      match r, legacyUnit (xtsDec k (addr + 64 * i) (bslice raw (80 * i) 80)) with
      | some d, some u => some (d ++ u)
      | _, _ => none) (some [])

end Sys2Proof.Machine
end

