-- ==== Sys2Proof/Config.lean ====
section
/-! DEFINITION. What one device fixes, and the values that the manual leaves open. Every constant here is opaque: no proof can see
its value. -/

namespace Sys2Proof

/-- A value that the manual does not state, one for each tick of `State.free` (log entry 2). -/
opaque Config.freeWord : Nat → BitVec 64

/-- Table BOO-2: the fuse array as its shadow holds it, by byte. -/
opaque Config.fuse : Nat → BitVec 8

/-- R416: the device's signature over a digest, made with a signing index. -/
opaque Config.sign : Nat → Bytes → Bytes

/-- Table BOO-2: the device-unique secret, by byte, from which the device's keys come (R404). -/
opaque Config.secret : Nat → BitVec 8

/-- Table SEC-6: the certificate chain, and the digests of the ROM and the loader. -/
opaque Config.certs : Bytes
opaque Config.romDigest : Bytes
opaque Config.loaderDigest : Bytes

end Sys2Proof
end

