-- ==== Sys2Proof/Machine/Ops.lean ====
section
/-! DEFINITION. The named operations over the state: registers and their fields, counters, fault sources, device time, control-die
memory and free values. -/

namespace Sys2Proof.Machine

/-! ### Fields and registers -/

/-- The value of a field of a word. -/
def Fld.get (f : Fld) (w : Word) : Nat := w.toNat / 2 ^ f.lo % 2 ^ f.width

/-- A word with a field replaced. -/
def Fld.set (f : Fld) (w : Word) (v : Nat) : Word :=
  mergeBits w (BitVec.ofNat 64 (v % 2 ^ f.width * 2 ^ f.lo)) (BitVec.ofNat 64 ((2 ^ f.width - 1) * 2 ^ f.lo))

/-- The value in force of the register at a CSR address. -/
def rdReg (s : State) (a : Nat) : Word := sget regReset s.regs a

/-- Set the register at a CSR address. -/
def wrReg (s : State) (a : Nat) (w : Word) : State := { s with regs := sset regReset s.regs a w }

/-- A field of a register. -/
def rdF (s : State) (a : Nat) (f : Fld) : Nat := f.get (rdReg s a)

/-- Set a field of a register. -/
def wrF (s : State) (a : Nat) (f : Fld) (v : Nat) : State := wrReg s a (f.set (rdReg s a) v)

/-- Whether a one-bit field is set. -/
def rdBit (s : State) (a : Nat) (f : Fld) : Bool := rdF s a f == 1

/-- Advance a 64-bit counter (it wraps). -/
def bump (s : State) (a : Nat) (n : Nat := 1) : State := wrReg s a (rdReg s a + BitVec.ofNat 64 n)

/-- Advance G_PROGRESS of a page by one work unit (R424). -/
def progress (s : State) (g u : Nat) : State := bump s (G_PROGRESS g u 0)

/-- Bit `i` of a 256-bit map held in four registers. -/
def mapBit (s : State) (a : Nat → Nat) (i : Nat) : Bool := bit (rdReg s (a (i / 64))).toNat (i % 64)

/-- The answer to a CSR access that completes normally. -/
def okReply (s : State) (v : Word := 0) : State := { s with reply := ⟨false, v⟩ }

/-! ### Device time and identity -/

/-- Device time in whole nanoseconds. -/
def now (s : State) : Nat := s.clk.ns

/-- Device time in units of 2^-16 ns. -/
def nowFine (s : State) : Nat := s.clk.ns * 65536 + s.clk.frac

/-- R274: the device's own switch ID; 0xFFF while unassigned. -/
def ownId (s : State) : Nat := rdF s CHP_SWITCH_ID CHP_SWITCH_ID_ID

/-- Whether the switch ID is assigned (R274). -/
def idAssigned (s : State) : Bool := ownId s != 0xFFF

/-- The GEN of a page (R430). -/
def genOf (s : State) (g u : Nat) : Nat := rdF s (G_GEN g u 0) G_GEN_GEN

/-- A value that nothing constrains, and the next one after it. -/
def takeFree (s : State) : Word × State := (Config.freeWord s.free, { s with free := s.free + 1 })

/-- Bytes that nothing constrains. -/
def takeFreeBytes (n : Nat) (s : State) : Bytes × State :=
  ((List.range n).map fun i => BitVec.ofNat 8 (Config.freeWord (s.free + i)).toNat, { s with free := s.free + n })

/-! ### Control-die memory -/

/-- A byte of control-die memory. A byte that nothing has written reads as 0 (DESIGN CHOICE, log entry 3). -/
def cdByte (s : State) (a : Nat) : Byte := sget (fun _ => 0) s.cdmem a

/-- Store one byte in control-die memory. -/
def cdPut (s : State) (a : Nat) (b : Byte) : State := { s with cdmem := sset (fun _ => 0) s.cdmem a b }

/-- `n` bytes of control-die memory. -/
def cdRead (s : State) (a n : Nat) : Bytes := (List.range n).map fun i => cdByte s (a + i)

/-- Store bytes in control-die memory. -/
def cdWrite (s : State) (a : Nat) : Bytes → State
  | [] => s
  | b :: r => cdWrite (cdPut s a b) (a + 1) r

/-- The stores that the control-die cores made since the last command: no row of the table writes control-die memory, so the
commands that read it carry them (log entry 5). -/
def fwStores (s : State) (cells : List (Nat × Byte)) : State := cells.foldl (fun s c => cdPut s c.1 c.2) s

/-! ### Fault sources -/

/-- The key of a source of a unit. -/
def Src.key (f : Src) (u : Nat) : Nat := csrAddr f.g u f.p f.bit

/-- The collector unit of a unit's region (R444). -/
def collectorOf (g u : Nat) : Nat :=
  if g = grCRG then 0x10 + u
  else if g = grTBK then 0x10 + u / 17
  else if g = grSTN then 0x10 + u / 32
  else if g = grBOB then 0x10 + u / 256
  else if g = grPRG ∨ g = grSHT ∨ g = grCMB ∨ g = grGND then 0x20 + u
  else if g = grPRT ∨ g = grQOS then 0x20 + u / 16
  else if g = grMRG then 0x30 + u
  else if g = grHBC then 0x30 + u / 128
  else if g = grCXP ∨ g = grDIR then 0x30 + u / 4
  else 0x40

/-- Whether a source's sticky bit is set. -/
def stickySet (s : State) (f : Src) (u : Nat) : Bool := bit (rdReg s (G_ERR_STICKY f.g u f.p)).toNat f.bit

/-- Whether a source is masked. -/
def srcMasked (s : State) (f : Src) (u : Nat) : Bool := bit (rdReg s (G_ERR_MASK f.g u f.p)).toNat f.bit

/-- The class of a source: 0 NOTICE, 1 CONTEXT, 2 ENGINE, 3 PARTITION, 4 CHIP. -/
def srcClass (s : State) (f : Src) (u : Nat) : Nat := rdF s (G_ERR_CLASS f.g u f.p) (G_CLASS f.bit)

/-- The next event stamp. -/
def tickStamp (s : State) : State := { s with flt := { s.flt with stamp := s.flt.stamp + 1 } }

/-- R418: every firing becomes its source's latest one. -/
def firedNow (f : Src) (u : Nat) (s : State) : State :=
  { s with flt := { s.flt with
    stamp := s.flt.stamp + 1, lastFire := sset (fun _ => 0) s.flt.lastFire (f.key u) s.flt.stamp } }

/-- Set a source's sticky bit. -/
def setSticky (f : Src) (u : Nat) (s : State) : State :=
  wrReg s (G_ERR_STICKY f.g u f.p) (rdReg s (G_ERR_STICKY f.g u f.p) ||| BitVec.ofNat 64 (2 ^ f.bit))

/-- R424: a HANG bit that sets counts in FLT_HANGS of its collector. -/
def countHang (f : Src) (u : Nat) (s : State) : State := if f.bit = 15 then bump s (FLT_HANGS (collectorOf f.g u)) else s

/-- R418, R422: the class action of a source that set is due, unless the source is masked. -/
def noteFire (f : Src) (u : Nat) (s : State) : State :=
  if srcMasked s f u then s else { s with fires := s.fires ++ [⟨f, u⟩] }

/-- R418: a source fires. Every firing becomes its latest one. A bit that goes from 0 to 1 is recorded for its class action, unless
it is masked; a HANG bit that sets counts in FLT_HANGS (R424). -/
def raise (f : Src) (u : Nat) (s : State) : State :=
  if stickySet s f u then firedNow f u s else noteFire f u (countHang f u (setSticky f u (firedNow f u s)))

/-- R41: a CSR access that fails: it has no effect on any register, returns zero, and sets CSR_ACCESS in the CHP page of unit 0. -/
def csrError (s : State) : State := raise srcCHP_CSR_ACCESS 0 { s with reply := ⟨true, 0⟩ }

/-- A CSR access that another rule refuses: it completes with an error and no other effect. R41 names the five kinds that set
CSR_ACCESS; no rule names it for any other. -/
def csrRefused (s : State) : State := { s with reply := ⟨true, 0⟩ }

/-- Raise a source when a condition holds. -/
def raiseIf (c : Bool) (f : Src) (u : Nat) (s : State) : State := if c then raise f u s else s

/-- Whether a block is fenced (R422), or is a channel of a stack taken offline (R435). -/
def blockFenced (s : State) (g u : Nat) : Bool :=
  (s.flt.fences.any fun x => x.g == g && x.u == u)
    || (g == grHBC && !bit (rdF s (MRG_STK_STATE (u / 128)) MRG_STK_STATE_ONLINE) (u / 32 % 4))

/-- Whether a region is parked (R473); `port` says which kind. -/
def regionParked (s : State) (port : Bool) (n : Nat) : Bool :=
  bit (rdF s PWR_STATE (if port then PWR_STATE_PARKED_PRG else PWR_STATE_PARKED_RGN)) n

/-- Whether a region accepts no work because it is parked or under test (R433, R473). -/
def regionOff (s : State) (port : Bool) (n : Nat) : Bool :=
  regionParked s port n || s.flt.tests.any fun t => t.kind == 1 && t.flt == (if port then 0x20 else 0x10) + n

/-- Whether a unit accepts work: G_CTL.ENABLE is set and its block is not fenced (Table CTL-3, R422). -/
def unitOn (s : State) (g u : Nat) : Bool := rdBit s (G_CTL g u 0) G_CTL_ENABLE && !blockFenced s g u

/-- Whether a compute region starts steps: not in safe state (R423), parked or under test, and enabled. -/
def crgStarts (s : State) (n : Nat) : Bool := !s.flt.safe && !regionOff s false n && unitOn s grCRG n

/-- Whether a reset that holds the unit IN_RESET is in progress: an engine reset of the block, or a reset above it whose list of
regions `regs` names the unit's collector. Partition membership is the caller's (`unitInReset`). -/
def engineResetting (s : State) (g u : Nat) : Bool :=
  s.flt.jobs.any fun j => !j.deferred && j.scope.rung == .engine && j.scope.g == g && j.scope.u == u

/-- Whether a unit takes no request now: it is in an engine reset (R35), or G_CTL.ENABLE is 0 (Table CTL-3). Requests wait for it. -/
def unitHeld (s : State) (g u : Nat) : Bool := engineResetting s g u || !rdBit s (G_CTL g u 0) G_CTL_ENABLE

end Sys2Proof.Machine
end

