-- ==== Sys2Proof/Machine/Ground.lean ====
section
/-! DEFINITION. The ground (chapter 13): cells and virtual output queues, routes, the resequencer, policing, the flush of a port,
and the ends of requests that meet a dead target (R296) or a flush (R390). -/

namespace Sys2Proof.Machine

/-! ### Partitions and ports -/

/-- The partition that owns compute region `n` (R393). -/
def ownerCRG (s : State) (n : Nat) : Option Nat :=
  (List.range 16).find? fun p => bit (rdF s (SEC_PART_MEMBERS p) SEC_PART_MEMBERS_CRG) n

/-- The partition that owns port region `n` (R393). -/
def ownerPRG (s : State) (n : Nat) : Option Nat :=
  (List.range 16).find? fun p => bit (rdF s (SEC_PART_MEMBERS p) SEC_PART_MEMBERS_PRG) n

/-- SEC_PART_STATE.STATE: 0 FREE, 1 ACTIVE, 2 FENCED. -/
def partState (s : State) (p : Nat) : Nat := rdF s (SEC_PART_STATE p) SEC_PART_STATE_STATE

/-- Whether a partition is fenced (R423). -/
def partFenced (s : State) (p : Nat) : Bool := partState s p == 2

/-- A port beyond its registers. -/
def portOf (s : State) (p : Nat) : Port := sget (fun _ => {}) s.ports p

/-- Set a port. -/
def setPort (s : State) (p : Nat) (x : Port) : State := { s with ports := sset (fun _ => {}) s.ports p x }

/-- Change a port. -/
def modPort (s : State) (p : Nat) (f : Port → Port) : State := setPort s p (f (portOf s p))

/-- PRT_LINK_STATE.STATE. -/
def linkState (s : State) (p : Nat) : Nat := rdF s (PRT_LINK_STATE p) PRT_LINK_STATE_STATE

/-- Link states (Table LNK-9). -/
def lsDISABLED : Nat := 0
def lsDETECT : Nat := 1
def lsEQUALIZE : Nat := 2
def lsALIGN : Nat := 3
def lsPARAM : Nat := 4
def lsACTIVE : Nat := 5
def lsRETRAIN : Nat := 6
def lsDOWN : Nat := 7

/-- R347: the base port of the gang that port `p` belongs to. -/
def gangBase (s : State) (p : Nat) : Nat :=
  if rdF s (PRT_GANG (p / 4 * 4)) PRT_GANG_WIDTH = 2 then p / 4 * 4
  else if rdF s (PRT_GANG (p / 2 * 2)) PRT_GANG_WIDTH = 1 then p / 2 * 2
  else p

/-- The number of ports of the gang on base port `b`. -/
def gangWidth (s : State) (b : Nat) : Nat :=
  match rdF s (PRT_GANG b) PRT_GANG_WIDTH with
  | 1 => 2
  | 2 => 4
  | _ => 1

/-- The members of a gang that are ACTIVE and were not cut (R349). -/
def gangLive (s : State) (b : Nat) : List Nat :=
  (List.range (gangWidth s b)).map (b + ·) |>.filter fun m => linkState s m == lsACTIVE && !(portOf s b).cut.contains m

/-- Whether a port is fenced: by PORT_FENCE (R432), as a block (R422), or with its partition (R423). -/
def portShut (s : State) (b : Nat) : Bool :=
  (portOf s b).fenced || blockFenced s grPRT b || (match ownerPRG s (b / 16) with
    | some q => partFenced s q
    | none => false)

/-- R368: a port (a gang) is live while it is ACTIVE and not fenced. -/
def portLive (s : State) (b : Nat) : Bool := !(gangLive s b).isEmpty && !portShut s b

/-- SEC_TRUST: the port is a switch link (R275). A gang follows its base port (R347). -/
def trustedPort (s : State) (p : Nat) : Bool := mapBit s SEC_TRUST (gangBase s p)

/-- GND_UPLINK: the port leads to a switch of higher rank (R371). -/
def uplinkPort (s : State) (p : Nat) : Bool := mapBit s GND_UPLINK p

/-! ### Outputs and queues -/

/-- A number for each output, for keys. -/
def Out.code : Out → Nat
  | .port p => p
  | .rgn n => 256 + n
  | .sht n => 272 + n
  | .hub q => 288 + q

/-- The cells a slice's VOQ holds for an output and class (R362), in order: those that nothing holds. -/
def voq (s : State) (sl : Nat) (o : Out) (tc : Nat) : List GCell :=
  s.ground.cells.filter fun c => c.slice == sl && c.out == o && c.seg.hdr.tc == tc && c.hold == .none

/-- R363 and its field note: the credits that a port advertises for a class, in flits. Under LEVEL = 0 they are the values
derived from the ground's allocation; an expert value is the one taken at the last new link. -/
def creditAdv (s : State) (p c : Nat) : Nat :=
  if rdBit s (G_CTL grPRT p 0) G_CTL_LEVEL then
    4 * (PRT_CREDIT_ADV_TC c).get (sget regReset s.ground.inForce (PRT_CREDIT_ADV p))
  else match c with
    | 0 => 64 | 1 => 128 | 2 => 64 | 3 => 128 | 4 => 32 | 5 => 16 | 6 => 16 | _ => 128

/-- Credits advertised for the link on base port `b`: a gang multiplies its base port's values by its width (R363). -/
def linkCreditAdv (s : State) (b c : Nat) : Nat := creditAdv s b c * gangWidth s b

/-- The cells reserved in a slice. -/
def reservedTotal (s : State) (sl : Nat) : Nat :=
  ((List.range 16).map fun i => ((List.range 8).map (creditAdv s (gangBase s (16 * sl + i)))).sum).sum

/-- Every cell in use: those queued and those held by a resequencer. -/
def allCells (s : State) : List GCell :=
  s.ground.cells ++ s.ground.flows.flatMap (fun f => f.held ++ f.kept) ++ s.ground.delivered.flatMap (·.cells) ++ s.tiles.flatMap (·.cells)
    ++ s.waitContribs.flatMap (·.cells)

/-- Count cells, the copies of one stored flit as one (R219). -/
def countCells (p : GCell → Bool) : List GCell → Nat
  | [] => 0
  | c :: r => (if p c && (c.copy == 0 || !r.any fun d => d.copy == c.copy && p d) then 1 else 0) + countCells p r

/-- Shared cells of a slice in use. -/
def sharedUsed (s : State) (sl : Nat) : Nat := countCells (fun c => c.slice == sl && c.resv == none) (allCells s)

/-- Shared cells of a slice and class in use. -/
def sharedUsedTc (s : State) (sl tc : Nat) : Nat :=
  countCells (fun c => c.slice == sl && c.resv == none && c.seg.hdr.tc == tc) (allCells s)

/-- R372: the requests that units of the device have accepted and not answered, with their port regions of entry: those delivered, held,
joined to a held one, or in a conjunction unit's batch. -/
def owedReplies (s : State) : List (Nat × Msg) :=
  let held := (s.mem.reqs ++ s.mem.txns.filterMap (·.req)).filter fun r => r.op.isNone && r.dev.isNone
  let all := (s.ground.delivered.map fun d => (d.prg, d.msg))
    ++ held.flatMap (fun r => (r.prg, r.msg) :: (if r.msg.hdr.type = tFENCE then [] else r.more.map fun m => (r.prg, m)))
    ++ s.mem.cmbs.flatMap fun c => c.2.ops.flatMap fun o => o.members.map fun x => (c.1, x.2)
  all.filter (·.2.hdr.hasReply)

/-- The flits of the longest reply to a request (Table LSA-2). -/
def replyFlits (m : Msg) : Nat := if m.hdr.type = tREAD then cdiv (max 1 (min 4096 (leAt m.pay 8 4))) 232 else 1

/-- Reserved cells of a slice in use. -/
def reservedUsed (s : State) (sl : Nat) : Nat := (allCells s).countP fun c => c.slice == sl && c.resv != none

/-- R363: the cap of a class; a TC6 value of 0 acts as 1. -/
def sharedCap (s : State) (sl tc : Nat) : Nat :=
  let v := rdF s (GND_SHARED_CAP sl) (GND_SHARED_CAP_TC tc)
  256 * (if tc = 6 ∧ v = 0 then 1 else v)

/-- Whether a flit of class `tc` finds a shared cell (R363) while `kept` and `keptTc` cells of the slice and of its class wait for replies. -/
def roomBut (s : State) (sl tc kept keptTc : Nat) : Bool :=
  sharedUsedTc s sl tc + keptTc < sharedCap s sl tc && sharedUsed s sl + kept + reservedTotal s sl < 65536

/-- R337: the ground frees the space of a flit that came over a link, so a credit of its class is released. -/
def releaseCredit (s : State) (b tc : Nat) : State :=
  let s := modPort s b fun x => { x with released := sset (fun _ => 0) x.released tc (sget (fun _ => 0) x.released tc + 1) }
  bump s (GND_CREDITS_RELEASED (b / 16))

/-! ### Dead targets and the ends of requests -/

/-- A CPL to the source of a request (Table LSA-2, R271): request ID, GEN and class are echoed. -/
def cplHdr (s : State) (h : Hdr) (status : Nat) : Hdr :=
  { type := tCPL, sint := true, tc := h.tc, vep := h.vep, dint := h.sint, dst := h.src, src := ownId s * 4096,
    reqId := h.reqId, gen := h.gen, op := status }

/-- R279: NOTIFY WRITE_FAILED for a posted write: the write's address, REQ_ID, the status and five reserved bytes. -/
def writeFailedMsg (s : State) (h : Hdr) (pay : Bytes) (status : Nat) : Msg :=
  ⟨{ cplHdr s h 0x02 with type := tNOTIFY },
   bslice pay 0 8 ++ leBytes 2 h.reqId ++ leBytes 1 status ++ zeros 5⟩

/-- R314: the NAK that a ground returns for a flushed shuttle segment: control bytes as Table SHT-7, SOP NAK, the queue pairs
exchanged, the PSN and the status. -/
def nakMsg (s : State) (h : Hdr) (pay : Bytes) (status : Nat) : Msg :=
  ⟨{ cplHdr s h 0 with type := tWRITE, tc := 1, spray := true },
   [0x07, 0x00, BitVec.ofNat 8 status, 0x00] ++ bslice pay 8 4 ++ bslice pay 4 4 ++ bslice pay 12 4 ++ zeros 24⟩

/-- R296: the event of a dead target on the PRG page of port region `n`. -/
def deadTarget (s : State) (n : Nat) (h : Hdr) : State :=
  let s := wrF s (PRG_DEAD_TARGET n) PRG_DEAD_TARGET_TARGET h.dst
  let s := wrF s (PRG_DEAD_TARGET n) PRG_DEAD_TARGET_INT h.dint.toNat
  raise srcPRG_TARGET_DEAD_SEEN n (bump s (PRG_TARGET_DEAD n))

/-! ### Routes -/

/-- R368: the hash of a pinned flow's switches. -/
def pathHash (h : Hdr) : Nat := crc16 (leBytes 3 (h.src / 4096 % 4096 + h.dst / 4096 % 4096 * 4096))

/-- The member of a sprayed segment's group with the shortest VOQ; the earlier one on a tie (R369). -/
def shortest (s : State) (sl tc : Nat) : List Nat → Option Nat
  | [] => none
  | p :: r =>
    match shortest s sl tc r with
    | none => some p
    | some q => if (voq s sl (.port p) tc).length ≤ (voq s sl (.port q) tc).length then some p else some q

/-- R219: a forward copy, addressed to a multicast group of the switch that its link reaches: switch ID 0xFFF, which R274 gives to no
switch, with the group as local endpoint. -/
def groupCopy (s : State) (h : Hdr) : Bool :=
  idAssigned s && h.dint && h.sint && h.type == tTILE && h.dst / 4096 == 0xFFF

/-- R375: the region whose resequencer orders a sprayed segment that ends at this switch. -/
def reseqPrg (h : Hdr) : Nat :=
  let e := h.dst % 4096
  if !h.dint then e / 256 % 16
  else if 0x100 ≤ e ∧ e < 0x110 then e - 0x100
  else if 0x200 ≤ e ∧ e < 0x210 then e - 0x200
  else h.src % 16

/-- Whether a header's DST names this switch (R274: while the ID is unassigned, internal endpoint 0x300 of any switch too). An unassigned
switch stamps its ID 0xFFF into SRC, so the reply to a request that it ends names 0xFFF. -/
def forThisSwitch (s : State) (h : Hdr) : Bool :=
  h.dst / 4096 == ownId s || (!idAssigned s && h.dint && h.dst % 4096 == 0x300) || groupCopy s h

/-- The output of a flit whose destination is this switch (R273, R362, R375): none where the endpoint's port is down or fenced. -/
def localOut (s : State) (sl : Nat) (h : Hdr) : Option Out :=
  let e := h.dst % 4096
  if groupCopy s h then some (.hub (sl / 4))
  else if h.dint then
    if 0x100 ≤ e ∧ e < 0x110 then some (.rgn (e - 0x100))
    else if 0x200 ≤ e ∧ e < 0x210 then some (.sht (e - 0x200))
    else some (.hub (if h.spray then reseqPrg h / 4 else sl / 4))
  else
    let b := gangBase s (e / 16)
    if portLive s b then some (.port b) else none

/-- Add a consequence that is due within the command. -/
def addDue (d : Due) (s : State) : State := { s with dues := s.dues ++ [d] }

/-- The live members of the path group that a flit takes (R367, R371). -/
def liveMembers (s : State) (h : Hdr) (desc : Bool) : List Nat :=
  let e := sget (fun _ => 0) s.ground.routes (h.dst / 4096)
  let g := if desc then bits e 15 8 else bits e 7 0
  (sget (fun _ => []) s.ground.groups g).filter (portLive s)

/-- R367 to R369: the output of a flit that enters slice `sl`; none is no route. -/
def routeOut (s : State) (sl : Nat) (h : Hdr) (desc : Bool) : Option Out :=
  if forThisSwitch s h then localOut s sl h
  else
    let ms := liveMembers s h desc
    if h.spray then (shortest s sl h.tc ms).map .port
    else if ms.isEmpty then none
    else (ms[pathHash h % ms.length]?).map .port

/-- The output of a flit that arrives. A sprayed segment for an endpoint of this switch whose port is down takes its place in its resequencer
all the same, and meets the dead port behind it: only the discards of R276 and flushes leave gaps (R379; DEDUCED, log entry 123). -/
def arriveOut (s : State) (sl : Nat) (h : Hdr) (desc : Bool) : Option Out :=
  match routeOut s sl h desc with
  | some o => some o
  | none => if h.spray && forThisSwitch s h then some (.port (gangBase s (h.dst % 4096 / 16))) else none

/-- The key of a pinned path (R373). -/
def pathKey (h : Hdr) (desc : Bool) : Nat := (h.src / 4096 * 4096 + h.dst / 4096) * 2 + desc.toNat

/-! ### Delivery inside the device -/

/-- The parts of a pinned transaction queued for a unit: same input, class, source and request. -/
def samePinned (c d : GCell) : Bool :=
  c.out == d.out && c.inPort == d.inPort && c.hold == .none && c.seg.hdr.tc == d.seg.hdr.tc
    && c.seg.hdr.src == d.seg.hdr.src && c.seg.hdr.sint == d.seg.hdr.sint && c.seg.hdr.reqId == d.seg.hdr.reqId
    && c.seg.hdr.type == d.seg.hdr.type && !c.seg.hdr.spray

/-- The port region through which a cell entered this switch. -/
def GCell.prg (c : GCell) : Nat := c.slice

/-- A cell leaves the ground: its reserved cell, if it held one, gives back its credit (R363). -/
def cellLeaves (s : State) (c : GCell) : State :=
  let s := bump (progress s grGND c.slice) (GND_FLITS_OUT c.slice)
  let s := progress s grPRG c.slice
  match c.resv with
  | some (b, tc) => releaseCredit s b tc
  | none => s

/-- Cells leave the ground. -/
def freeCells (cs : List GCell) (s : State) : State := cs.foldl cellLeaves s

/-- A cell that its flit holds on to after its bytes have been taken. -/
def GCell.slim (c : GCell) : GCell := { c with seg := { c.seg with pay := [] } }

/-- Whether the cells of a message stay with it after its delivery: a TILE may have to wait in the ground (R120, R213). -/
def keepsCells (h : Hdr) : Bool := h.type == tTILE

/-- Deliver a whole message to a unit of the device, with the cells that it goes on holding. -/
def deliver (s : State) (o : Out) (prg : Nat) (port : Option Nat) (m : Msg) (cells : List GCell := []) : State :=
  { s with ground := { s.ground with delivered := s.ground.delivered ++ [⟨o, prg, m, port, cells⟩] } }

/-- The cells of a VOQ, those that wait for a resequencer behind it among them. -/
def voqCells (s : State) (sl : Nat) (o : Out) (tc : Nat) : Nat :=
  s.ground.cells.countP fun c => c.slice == sl && c.out == o && c.seg.hdr.tc == tc && (c.hold == .none || c.hold == .reseq)

/-- R366: a TC1 sprayed segment that enters a VOQ with more than THRESH cells is marked. -/
def markIn (s : State) (c : GCell) : State × GCell :=
  let th := rdF s (GND_MARK c.slice) GND_MARK_THRESH
  if c.seg.hdr.tc == 1 && c.seg.hdr.spray && c.first && th != 0 && decide (th < voqCells s c.slice c.out 1) then
    (bump s (GND_MARKED c.slice),
      { c with seg := { c.seg with pay := (c.seg.pay.take 32) ++ leBytes 1 (leAt c.seg.pay 32 1 ||| 1) ++ c.seg.pay.drop 33 } })
  else (s, c)

/-- Add a cell at the tail of its VOQ, marking a TC1 sprayed segment by R366. A virtual-time class that becomes non-empty wakes no
earlier than now (R384); wake times are kept in 2^-32 ns. -/
def pushCell (s : State) (c : GCell) : State :=
  let (s, c) := markIn s c
  let g := s.ground
  let c := if c.seg.hdr.spray then c else { c with stamp := g.seen }
  let tc := c.seg.hdr.tc
  let wakes : Bool := match c.out with
    | .port _ => decide (5 ≤ tc) && !g.cells.any (fun d => d.out == c.out && d.seg.hdr.tc == tc && d.hold == .none)
    | _ => false
  let k := 8 * c.out.code + tc
  let wake := if wakes then sset (fun _ => 0) g.wake k (max (sget (fun _ => 0) g.wake k) (nowFine s * 65536)) else g.wake
  { s with ground := { g with cells := g.cells ++ [c], wake := wake } }

/-- Where a unit's flits enter the ground (Table GND-1). `home` is the memory side: what homes send, replies and snoops, enters at the
slice of its output, so that what goes to one agent keeps its order (R281; DEDUCED, log entry 125). -/
inductive Origin where
  | region (n : Nat)
  | hub (q : Nat)
  | home
  deriving DecidableEq, Repr

/-- The slice a device-originated flit enters, given its output. -/
def entrySlice : Origin → Option Out → Nat
  | .region n, _ => n
  | .hub q, some (.port p) => 4 * q + p / 16 % 4
  | .hub q, some (.rgn n) => 4 * q + n % 4
  | .hub q, some (.sht n) => 4 * q + n % 4
  | .hub q, _ => 4 * q
  | .home, some (.port p) => p / 16
  | .home, some (.rgn n) => n
  | .home, some (.sht n) => n
  | .home, some (.hub q) => 4 * q
  | .home, none => 0

/-- R372: the slice and class in which the reply to a request will stand. -/
def replyPlace (s : State) (m : Msg) : Nat × Nat :=
  (entrySlice .home (routeOut s 0 (cplHdr s m.hdr 0) false), m.hdr.tc)

/-- Cells that are kept for replies: of a slice, or of one class of it. -/
def keptCells (s : State) (sl : Nat) (tc : Option Nat) : Nat :=
  ((owedReplies s).map fun x =>
    let p := replyPlace s x.2
    if p.1 = sl ∧ tc.all (· == p.2) then replyFlits x.2 else 0).sum

/-- Whether a flit of class `tc` finds a shared cell (R363) that is not kept for a reply (R372). -/
def sharedRoom (s : State) (sl tc : Nat) : Bool := roomBut s sl tc (keptCells s sl none) (keptCells s sl (some tc))

/-- Whether the reply to a request finds cells of its own (R372). -/
def replyRoom (s : State) (m : Msg) : Bool :=
  let (sl, tc) := replyPlace s m
  let n := replyFlits m
  roomBut s sl tc (keptCells s sl none + n - 1) (keptCells s sl (some tc) + n - 1)

/-- Whether a request for a unit of the device waits for a cell for its reply in the queue of a cell (R372). -/
def replyWaits (s : State) (c : GCell) : Bool :=
  s.ground.cells.any fun d => d.hold == .reply && d.slice == c.slice && d.out == c.out && d.seg.hdr.tc == c.seg.hdr.tc

/-- A unit of the device takes a whole pinned transaction of which `c` is the LAST segment: its cells are freed unless it is a TILE. -/
def takePinned (parts : List GCell) (c : GCell) (s : State) : State :=
  let s := { s with ground := { s.ground with cells := s.ground.cells.filter fun d => !parts.contains d } }
  let h := match parts with | d :: _ => d.seg.hdr | [] => c.seg.hdr
  let m : Msg := ⟨h, parts.flatMap (·.seg.pay)⟩
  if keepsCells h then deliver s c.out c.prg c.inPort m (parts.map GCell.slim)
  else deliver (freeCells parts s) c.out c.prg c.inPort m

/-- A pinned segment reaches the queue of a unit of the device. With LAST the transaction is whole: the unit takes it, a request only while it
holds a cell for the reply (R372). -/
def pinnedIn (s : State) (c : GCell) : State :=
  let s := pushCell s c
  if c.seg.hdr.last then
    let parts := s.ground.cells.filter (samePinned · c)
    let h := match parts with | d :: _ => d.seg.hdr | [] => c.seg.hdr
    if h.hasReply && (replyWaits s c || !replyRoom s ⟨h, parts.flatMap (·.seg.pay)⟩) then
      { s with ground := { s.ground with cells := s.ground.cells.map fun d => if parts.contains d then { d with hold := .reply } else d } }
    else takePinned parts c s
  else s

/-- R372: the oldest requests of their queues that wait for a cell for the reply are taken while they find one; `fuel` bounds their
number. -/
def takeWaiting : Nat → State → State
  | 0, s => s
  | fuel + 1, s =>
    let waits := s.ground.cells.filter (·.hold == .reply)
    let ends := waits.filter (·.seg.hdr.last)
    let parts := fun (c : GCell) => waits.filter fun d => samePinned { d with hold := .none } { c with hold := .none }
    let front := ends.filter fun c =>
      (ends.find? fun d => d.slice == c.slice && d.out == c.out && d.seg.hdr.tc == c.seg.hdr.tc) == some c
    match front.find? fun c => replyRoom s ⟨((parts c).headD c).seg.hdr, (parts c).flatMap (·.seg.pay)⟩ with
    | some c => takeWaiting fuel (takePinned (parts c) c s)
    | none => s

/-! ### The resequencer -/

/-- The flow of a sprayed segment (R374). -/
def flowKey (h : Hdr) : FlowKey := ⟨h.src, h.dst, h.tc, h.sint, h.dint⟩

/-- The context of a flow. -/
def findFlow (s : State) (prg : Nat) (k : FlowKey) : Option Flow :=
  s.ground.flows.find? fun f => f.prg == prg && f.key == k

/-- Replace a flow context. -/
def putFlow (s : State) (f : Flow) : State :=
  { s with ground := { s.ground with
    flows := s.ground.flows.map fun x => if x.prg == f.prg && x.key == f.key then f else x } }

/-- Entries of a resequencer in use. -/
def reseqEntries (s : State) (prg : Nat) : Nat :=
  ((s.ground.flows.filter (·.prg == prg)).map (·.held.length)).sum

/-- R377: one in-order segment is delivered: to the VOQ of its port, or to a unit of the device when its message is whole. Where the port is
down, its transaction meets a dead target at its first segment (R296), and a copy of a multicast tile is discarded and counted (R219). -/
def deliverSeg (s : State) (f : Flow) (c : GCell) : State × Flow :=
  match c.out with
  | .port b =>
    let s := if c.seg.hdr.last then bump s (GND_RESEQ_MSGS f.prg) else s
    if portLive s b then (pushCell s c, f)
    else
      let s := cellLeaves s c
      let s := if !c.first then s else if c.copy != 0 then bump s GND_MCAST_DROPPED
        else addDue (.deadEnd c.slice c.seg.hdr c.seg.pay) (deadTarget s c.slice c.seg.hdr)
      (s, { f with dropTo := !c.seg.hdr.last })
  | o =>
    let prg := match o with
      | .hub _ => if groupCopy s c.seg.hdr then c.prg else f.prg
      | _ => c.prg
    let keeps := keepsCells c.seg.hdr
    let s := if keeps then s else cellLeaves s c
    let kept := if keeps then f.kept ++ [c.slim] else f.kept
    let part := f.part ++ c.seg.pay
    let h := match f.first with | some h => h | none => c.seg.hdr
    if c.seg.hdr.last then
      (deliver (bump s (GND_RESEQ_MSGS f.prg)) o prg c.inPort ⟨h, part⟩ kept, { f with part := [], first := none, kept := [] })
    else (s, { f with part := part, first := some h, kept := kept })

/-- R377: deliver every held segment that has become contiguous. -/
def runFlow : Nat → State → Flow → State × Flow
  | 0, s, f => (s, f)
  | n + 1, s, f =>
    match f.e with
    | none => (s, f)
    | some e =>
      match f.held.find? (fun c => c.seg.hdr.seq == e) with
      | none => (s, f)
      | some c =>
        let f := { f with e := some ((e + 1) % 65536), held := f.held.erase c }
        if f.dropTo then runFlow n (cellLeaves s c) { f with dropTo := !c.seg.hdr.last }
        else
          let (s, f) := deliverSeg s f c
          runFlow n s f

/-- R376 to R378: a sprayed segment that ends at this switch reaches its resequencer. -/
def reseqIn (s : State) (c : GCell) : State :=
  let h := c.seg.hdr
  let prg := reseqPrg h
  let c := { c with stamp := s.ground.seen }
  let s := { s with ground := { s.ground with seen := s.ground.seen + 1 } }
  match findFlow s prg (flowKey h) with
  | none =>
    if (s.ground.flows.countP (·.prg == prg)) < 16384 ∧ reseqEntries s prg < 4096 then
      let s := bump (bump s (GND_RESEQ_OPENED prg)) (GND_RESEQ_HELD prg)
      { s with ground := { s.ground with flows := s.ground.flows ++ [⟨prg, flowKey h, none, [c], [], none, false, []⟩] } }
    else { s with ground := { s.ground with cells := s.ground.cells ++ [{ c with hold := .reseq }] } }
  | some f =>
    match f.e with
    | some e =>
      let d := (h.seq + 65536 - e) % 65536
      if d = 0 then
        let (s, f) := runFlow (f.held.length + 1) s { f with held := c :: f.held }
        putFlow s f
      else if 32768 ≤ d then bump (cellLeaves s c) (GND_RESEQ_LATE prg)
      else if reseqEntries s prg < 4096 then
        putFlow (bump s (GND_RESEQ_HELD prg)) { f with held := f.held ++ [c] }
      else { s with ground := { s.ground with cells := s.ground.cells ++ [{ c with hold := .reseq }] } }
    | none =>
      if reseqEntries s prg < 4096 then putFlow (bump s (GND_RESEQ_HELD prg)) { f with held := f.held ++ [c] }
      else { s with ground := { s.ground with cells := s.ground.cells ++ [{ c with hold := .reseq }] } }

/-- Whether a cell waits for a context or an entry of the resequencer of port region `prg`. -/
def reseqWaits (prg : Nat) (c : GCell) : Bool := c.hold == .reseq && reseqPrg c.seg.hdr == prg

/-- Segments that waited for a context or an entry of a resequencer try again, in order, as long as one gets through. -/
def reseqRetryN : Nat → State → Nat → State
  | 0, s, _ => s
  | n + 1, s, prg =>
    let wait := s.ground.cells.filter (reseqWaits prg)
    let s := { s with ground := { s.ground with cells := s.ground.cells.filter fun c => !reseqWaits prg c } }
    let s := wait.foldl (fun s c => reseqIn s { c with hold := .none }) s
    if s.ground.cells.countP (reseqWaits prg) < wait.length then reseqRetryN n s prg else s

/-- Every segment that waits for the resequencer of port region `prg` tries again. -/
def reseqRetry (s : State) (prg : Nat) : State := reseqRetryN (s.ground.cells.countP (reseqWaits prg)) s prg

/-- A sprayed segment that ends at this switch, and those that what it delivers makes room for. -/
def reseqEnter (s : State) (c : GCell) : State := reseqRetry (reseqIn s c) (reseqPrg c.seg.hdr)

/-- The lowest held segment of a flow, in the half-space order from a base (R374). -/
def lowestHeld (base : Nat) : List GCell → Option GCell
  | [] => none
  | c :: r =>
    match lowestHeld base r with
    | none => some c
    | some d =>
      if (c.seg.hdr.seq + 65536 - base) % 65536 ≤ (d.seg.hdr.seq + 65536 - base) % 65536 then some c else some d

/-- R376: the base from which the lowest SEQ of an OPENING flow is taken: half a space below one of its held segments, so that
every held one lies after it. -/
def openBase (f : Flow) : Nat :=
  match f.held with
  | c :: _ => (c.seg.hdr.seq + 32768) % 65536
  | [] => 0

/-- R379: give up on the missing segments of a flow. -/
def reseqRelease (s : State) (f : Flow) : State :=
  let e := match f.e with | some e => e | none => openBase f
  let dist := fun (c : GCell) => (c.seg.hdr.seq + 65536 - e) % 65536
  let s := freeCells f.kept s
  match lowestHeld e (f.held.filter (·.seg.hdr.last)) with
  | some l =>
    let gone := f.held.filter fun c => dist c ≤ dist l
    let s := freeCells gone s
    let f := { f with e := some ((l.seg.hdr.seq + 1) % 65536), held := f.held.filter (fun c => dist l < dist c),
                      part := [], first := none, kept := [], dropTo := false }
    let (s, f) := runFlow (f.held.length + 1) s f
    putFlow s f
  | none =>
    let s := freeCells f.held s
    let top := f.held.foldl (fun m c => max m (dist c)) 0
    putFlow s { f with e := some ((e + top + 1) % 65536), held := [], part := [], first := none, kept := [], dropTo := true }

/-- R376: OPEN_HOLD has passed: E becomes the lowest held SEQ, and delivery starts. -/
def reseqOpened (prg : Nat) (k : FlowKey) (s : State) : State :=
  match findFlow s prg k with
  | none => s
  | some f =>
    if f.e.isSome then s else
    match lowestHeld (openBase f) f.held with
    | none => s
    | some c =>
      let (s, f) := runFlow (f.held.length + 1) s { f with e := some c.seg.hdr.seq }
      reseqRetry (putFlow s f) prg

/-- R376: a context that holds nothing, neither a segment nor a part of a message in delivery, was idle for FLOW_IDLE, and is freed. -/
def reseqIdle (prg : Nat) (k : FlowKey) (s : State) : State :=
  match findFlow s prg k with
  | none => s
  | some f =>
    if !f.held.isEmpty || f.first.isSome then s
    else reseqRetry { s with ground := { s.ground with flows := s.ground.flows.filter fun x => !(x.prg == prg && x.key == k) } } prg

/-- R379: TIMEOUT passes without an advance of E. -/
def reseqTimeout (prg : Nat) (k : FlowKey) (s : State) : State :=
  match findFlow s prg k with
  | none => s
  | some f =>
    if f.held.isEmpty ∨ f.e.isNone then s
    else reseqRetry (raise srcGND_RESEQ_TIMEOUT prg (bump (reseqRelease s f) (GND_RESEQ_TIMEOUTS prg))) prg

/-- R380: every entry is in use and nothing can be delivered: the flow of the oldest entry is released. -/
def reseqForced (prg : Nat) (s : State) : State :=
  if reseqEntries s prg < 4096 then s else
  let old := fun (f : Flow) => f.held.foldl (fun m c => min m c.stamp) s.ground.seen
  let pick := fun (m : Option Flow) (f : Flow) =>
    if f.prg ≠ prg ∨ f.held.isEmpty then m
    else match m with
      | none => some f
      | some x => if old f < old x then some f else m
  match s.ground.flows.foldl pick none with
  | none => s
  | some f => reseqRetry (raise srcGND_RESEQ_FORCED prg (bump (reseqRelease s f) (GND_RESEQ_FORCED prg))) prg

/-! ### Entry into the ground -/

/-- A flit with a known output reaches its queue: this switch is its destination, or it goes on to a port. -/
def enqueue (s : State) (c : GCell) : State :=
  if forThisSwitch s c.seg.hdr then
    match c.out, c.seg.hdr.spray with
    | .port _, true => reseqEnter s c
    | _, true => let (s, c) := markIn s c; reseqEnter s c
    | .port _, false => pushCell s c
    | _, false => pinnedIn s c
  else pushCell s c

/-- R373: a pinned flit whose path has moved to a new member waits at entry. -/
def enterRouted (s : State) (c : GCell) : State :=
  match c.out with
  | .port p =>
    if c.seg.hdr.spray || forThisSwitch s c.seg.hdr then enqueue s c
    else
      let k := pathKey c.seg.hdr c.desc
      let old := sget (fun _ => 0) s.ground.paths k
      let waiting := s.ground.routeHolds.any fun h => h.path == k
      if waiting then
        { s with ground := { s.ground with cells := s.ground.cells ++ [{ c with hold := .route }] } }
      else if old ≠ 0 ∧ old ≠ p + 1 then
        { s with ground := { s.ground with
          cells := s.ground.cells ++ [{ c with hold := .route }],
          seen := s.ground.seen + 1
          routeHolds := s.ground.routeHolds ++ [⟨k, old - 1, p, false, s.ground.seen + 1⟩] } }
      else enqueue { s with ground := { s.ground with paths := sset (fun _ => 0) s.ground.paths k (p + 1) } } c
  | _ => enqueue s c

/-- Whether the ground has stored this flit for another copy (R219). -/
def stored (s : State) (c : GCell) : Bool := c.copy != 0 && (allCells s).any (·.copy == c.copy)

/-- The next SEQ of a sprayed flow that the device sends, advanced by `n` segments (R374). -/
def takeFlowSeq (s : State) (k : FlowKey) (n : Nat) : Nat × State :=
  match s.ground.flowSeq.find? (·.1 == k) with
  | some (_, q) =>
    (q, { s with ground := { s.ground with
      flowSeq := s.ground.flowSeq.map fun x => if x.1 == k then (k, (q + n) % 65536) else x } })
  | none => (0, { s with ground := { s.ground with flowSeq := s.ground.flowSeq ++ [(k, n % 65536)] } })

/-- R374: a sprayed segment takes the next number of its flow as it enters the ground, so that what never enters leaves no gap. -/
def numbered (s : State) (c : GCell) : State × GCell :=
  if c.seg.hdr.spray then
    let (q, s) := takeFlowSeq s (flowKey c.seg.hdr) 1
    (s, { c with seg := Seg.sealCrc { c.seg with hdr := { c.seg.hdr with seq := q } } c.first })
  else (s, c)

/-- R374: a segment of the flow is still in this device whose number lies 2^15 or more behind the next one. -/
def flowFar (s : State) (c : GCell) : Bool :=
  c.seg.hdr.spray && match s.ground.flowSeq.find? (·.1 == flowKey c.seg.hdr) with
    | some (k, q) => (allCells s).any fun d => d.seg.hdr.spray && flowKey d.seg.hdr == k && decide (32768 ≤ (q + 65536 - d.seg.hdr.seq) % 65536)
    | none => false

/-- A flit that a unit of the device originates enters the ground, or waits for a shared cell behind those of its slice and class
(R363, R364). A copy of a flit that is stored needs no cell; a reply, for which a cell was kept (R372), waits only behind what goes to the
same place. -/
def enterAs (reply : Bool) (s : State) (c : GCell) : State :=
  let tc := c.seg.hdr.tc
  let behind := s.ground.waiting.any fun d => d.slice == c.slice && d.seg.hdr.tc == tc
    && (!reply || (d.seg.hdr.dst == c.seg.hdr.dst && d.seg.hdr.dint == c.seg.hdr.dint))
  let here := stored s c
  if !behind && (here || sharedRoom s c.slice tc) && !flowFar s c then
    let (s, c) := numbered (if here then s else bump s (GND_FLITS_IN c.slice)) c
    if c.direct then pushCell s c else enterRouted s c
  else { s with ground := { s.ground with waiting := s.ground.waiting ++ [c] } }
def enterShared (s : State) (c : GCell) : State := enterAs false s c

/-- A segment that a unit of the device originates. A segment without a route is discarded with the events of R296; what its issuer is
told is the caller's. -/
def emitSeg (reply : Bool) (s : State) (o : Origin) (g : Seg) (first : Bool) : State :=
  let out := routeOut s (entrySlice o none) g.hdr false
  let sl := entrySlice o out
  match out with
  | none => deadTarget s sl g.hdr
  | some out => enterAs reply s ⟨sl, out, g, none, none, first, .none, false, 0, 0, false⟩

/-- Whether a message that the device originates finds a route (R296). -/
def hasRoute (s : State) (o : Origin) (h : Hdr) : Bool := (routeOut s (entrySlice o none) h false).isSome

/-- A unit of the device sends a message, `reply` one for which it kept a cell (R372). -/
def emitAs (reply : Bool) (o : Origin) (m : Msg) (s : State) : State :=
  if hasRoute s o m.hdr then (m.segs 0).zipIdx.foldl (fun s g => emitSeg reply s o g.1 (g.2 == 0)) s
  else deadTarget s (entrySlice o none) m.hdr
def emit (o : Origin) (m : Msg) (s : State) : State := emitAs false o m s

/-- The memory side of the device answers a request. -/
def emitReply (m : Msg) (s : State) : State := emitAs true .home m s

/-- A unit sends a message over one link, on base port `b`, without routing it (R89): nothing if the port is not live. -/
def emitPort (b : Nat) (m : Msg) (s : State) : State :=
  if portLive s b then
    (m.segs 0).zipIdx.foldl (fun s g => enterShared s ⟨b / 16, .port b, g.1, none, none, g.2 == 0, .none, false, 0, 0, true⟩) s
  else s

/-- R219: the copies of a multicast tile, one for each target (its port, its message, and whether it goes to a neighbour's group): the
ground of slice `sl` stores each flit once, and each copy has a place in the queue of its port. -/
def emitCopies (sl : Nat) (ts : List (Nat × Msg × Bool)) (s : State) : State :=
  let gs := ts.map fun t => (t.1, t.2.1.segs 0, t.2.2)
  let n := (gs.map (·.2.1.length)).foldl max 0
  let base := s.ground.copies
  let s := { s with ground := { s.ground with copies := base + 1 } }
  (List.range n).foldl (fun s k => gs.foldl (fun s t => match t.2.1[k]? with
    | some g => enterShared s ⟨sl, .port t.1, g, none, none, k == 0, .none, false, 0, 65536 * base + k + 1, t.2.2⟩
    | none => s) s) s

/-- The multicast tiles of which cells hold copies. -/
def copiesIn : List GCell → List Nat
  | [] => []
  | c :: r => let l := copiesIn r
              if c.copy == 0 || l.contains ((c.copy - 1) / 65536) then l else (c.copy - 1) / 65536 :: l

/-- R272, R296, R390: a request ends with an error status. A type with a reply, or a reserved one, is answered with CPL; a posted WRITE
with WRITE_FAILED, which the port region counts (R279); a shuttle segment with a NAK where `nak` says so; any other type is
discarded. -/
def endRequest (o : Origin) (prg : Nat) (h : Hdr) (pay : Bytes) (status : Nat) (nak : Bool) (s : State) : State :=
  if h.hasReply ∨ 13 < h.type then emitAs (o == .home) o ⟨cplHdr s h status, []⟩ s
  else if h.isShuttle then if nak then emit o (nakMsg s h pay status) s else s
  else if h.type = tWRITE then emit o (writeFailedMsg s h pay status) (bump s (PRG_WRITE_FAILED prg))
  else s

/-- Flits that waited for a shared cell try again, in order. The route is looked up when a flit enters (R362), unless it is bound to one
link. Where none is left, its transaction meets a dead target at its first segment (R296) and does not enter at all (`gone`); one of which a
part has left is cut, and its further segments take their numbers (R374), as if they had been flushed. -/
def reenter : List GCell → Bool → State → State
  | [], _, s => s
  | c :: r, gone, s =>
    if c.direct || c.copy != 0 then reenter r gone (enterShared s c)
    else if gone && !c.first then reenter r (!c.seg.hdr.last) s
    else match arriveOut s c.slice c.seg.hdr c.desc with
      | some o => reenter r false (enterShared s { c with out := o })
      | none =>
        if c.first then
          reenter r (!c.seg.hdr.last)
            (endRequest (.region c.slice) c.slice c.seg.hdr c.seg.pay stTARGET_DEAD true (deadTarget s c.slice c.seg.hdr))
        else reenter r false (numbered s c).1

/-- Segments that waited for a shared cell enter while there is room, in order, and requests that waited for a cell for their replies are
taken. -/
def drainWaiting (s : State) : State :=
  takeWaiting (s.ground.cells.countP (·.hold == .reply)) (reenter s.ground.waiting false { s with ground := { s.ground with waiting := [] } })

/-! ### Policing (R388, R389) -/

/-- The colours of a metered flit. -/
inductive Colour where
  | green
  | yellow
  | red
  deriving DecidableEq, Repr

/-- The key of a policer: stage 1 by virtual endpoint, stage 2 by class. -/
def meterKey (p stage i : Nat) : Nat := p * 32 + stage * 16 + i

/-- A bucket's or policer's setting in force: a write meets it at the next refill (R386). -/
def inForce (s : State) (a : Nat) : Word := sget regReset s.ground.inForce a

/-- R388: meter 256 bytes by RFC 2697 (KIND 1) or RFC 2698 (KIND 2). `pre` is the colour before, in colour-aware use. -/
def meter (kind : Nat) (m : Meter) (pre : Colour) : Colour × Meter :=
  if kind = 1 then
    if pre = .green ∧ 256 ≤ m.c then (.green, { m with c := m.c - 256 })
    else if pre ≠ .red ∧ 256 ≤ m.e then (.yellow, { m with e := m.e - 256 })
    else (.red, m)
  else if kind = 2 then
    if pre = .red ∨ m.e < 256 then (.red, m)
    else if pre = .yellow ∨ m.c < 256 then (.yellow, { m with e := m.e - 256 })
    else (.green, ⟨m.c - 256, m.e - 256⟩)
  else (.green, m)

/-- Meter a flit of port `b` through both stages: the final colour, and whether the policer that decided it re-marks. `vep` is none
on a switch link, where no virtual endpoint is read (R275). -/
def police (s : State) (b tc : Nat) (vep : Option Nat) : Colour × Bool × State :=
  if 6 ≤ tc then (.green, false, s) else
  let (c1, red1, on1, s) : Colour × Bool × Bool × State :=
    match vep with
    | none => (.green, false, false, s)
    | some v =>
      let a := inForce s (QOS_POL_VEP_A b v)
      let k := meterKey b 0 v
      let (c, m) := meter (QOS_POL_VEP_A_KIND.get a) (sget (fun _ => {}) s.ground.meters k) .green
      let kind := QOS_POL_VEP_A_KIND.get a
      (c, QOS_POL_VEP_B_RED.get (inForce s (QOS_POL_VEP_B b v)) == 1, kind == 1 || kind == 2,
        { s with ground := { s.ground with meters := sset (fun _ => {}) s.ground.meters k m } })
  let a := inForce s (QOS_POL_TC_A b tc)
  let bw := inForce s (QOS_POL_TC_B b tc)
  let kind := QOS_POL_TC_A_KIND.get a
  if kind = 1 ∨ kind = 2 then
    let pre := if QOS_POL_TC_B_AWARE.get bw = 1 then c1 else .green
    let k := meterKey b 1 tc
    let (c, m) := meter kind (sget (fun _ => {}) s.ground.meters k) pre
    (c, QOS_POL_TC_B_RED.get bw == 1,
      { s with ground := { s.ground with meters := sset (fun _ => {}) s.ground.meters k m } })
  else (c1, red1 && on1, s)

/-- A flit that passed its policers is routed and enters (R362), or its transaction meets a dead target, at its first segment (R296). -/
def routeIn (s : State) (c : GCell) : State :=
  match arriveOut s c.slice c.seg.hdr c.desc with
  | some o =>
    let tc := c.seg.hdr.tc
    match c.resv with
    | some (b, k) =>
      if sharedRoom s c.slice tc then enterRouted (releaseCredit s b k) { c with out := o, resv := none, hold := .none }
      else enterRouted s { c with out := o, hold := .none }
    | none => enterRouted s { c with out := o, hold := .none }
  | none =>
    let s := cellLeaves s c
    if c.first then endRequest (.region c.slice) c.slice c.seg.hdr c.seg.pay stTARGET_DEAD true (deadTarget s c.slice c.seg.hdr) else s

/-- R389: REMARK applies to READ and TILE only. -/
def mayRemark (c : GCell) : Bool := c.seg.hdr.type == tREAD || c.seg.hdr.type == tTILE

/-- A flit re-marked to TC0, with its HCRC computed anew. -/
def remarked (c : GCell) : GCell := { c with seg := Seg.sealCrc { c.seg with hdr := { c.seg.hdr with tc := 0 } } c.first }

/-- Whether a cell waits for the policers of port `b` and class `tc`, or behind one that does. -/
def policeHeld (b tc : Nat) (c : GCell) : Bool :=
  (c.hold == .police || c.hold == .behind false || c.hold == .behind true) && c.inPort == some b && c.seg.hdr.tc == tc

/-- R388, R389: a flit that arrived on port `b` is metered, and goes on, waits behind a red one of its class, or waits for its policers. -/
def meterIn (s : State) (b : Nat) (c : GCell) : State :=
  let vep := if trustedPort s b then none else some (c.seg.hdr.src % 16)
  let behind := s.ground.cells.any (policeHeld b c.seg.hdr.tc)
  let keep := fun (h : Hold) (s : State) => { s with ground := { s.ground with cells := s.ground.cells ++ [{ c with hold := h }] } }
  let (col, remark, s) := police s b c.seg.hdr.tc vep
  match col with
  | .green => let s := bump s (QOS_GREEN b); if behind then keep (.behind false) s else routeIn s c
  | .yellow => let s := bump s (QOS_YELLOW b); if behind then keep (.behind false) s else routeIn s c
  | .red =>
    if remark && mayRemark c then
      let s := bump (bump s (QOS_RED b)) (QOS_REMARKED b)
      if behind then keep (.behind true) s else routeIn s (remarked c)
    else keep .police (bump (bump s (QOS_RED b)) (QOS_HELD b))

/-- The flits that wait on port `b` and class `tc` go on, in order, until one of them is red still (R389): a red one is metered again, and one
behind it has been metered at its arrival. -/
def remeter : Nat → State → Nat → Nat → State
  | 0, s, _, _ => s
  | n + 1, s, b, tc =>
    match s.ground.cells.find? (policeHeld b tc) with
    | none => s
    | some c =>
      let goes := fun (s : State) (d : GCell) =>
        routeIn { s with ground := { s.ground with cells := s.ground.cells.erase c } } { d with hold := .none }
      match c.hold with
      | .behind rm => remeter n (goes s (if rm then remarked c else c)) b tc
      | _ =>
        let vep := if trustedPort s b then none else some (c.seg.hdr.src % 16)
        let (col, _, s1) := police s b tc vep
        match col with
        | .green => remeter n (goes (bump s1 (QOS_GREEN b)) c) b tc
        | .yellow => remeter n (goes (bump s1 (QOS_YELLOW b)) c) b tc
        | .red => s

/-! ### Ingress from a port -/

/-- R276: whether a segment's HCRC holds, and whether it is the first of its transaction. A pinned segment's place is its SEQ. A
sprayed segment's place is not in its header: it is the first when the CRC over its control bytes holds. -/
def hcrcCheck (g : Seg) : Option Bool :=
  if g.hdr.spray then
    if g.hdr.hcrc = g.hcrcOf true then some true
    else if g.hdr.hcrc = g.hcrcOf false then some false else none
  else if g.hdr.hcrc = g.hcrcOf (g.hdr.seq == 0) then some (g.hdr.seq == 0) else none

/-- BOOT_CFG[8:1] of the fuses: the port over which the loader fetches (Table BOO-2). -/
def bootPort : Nat := (leNat ((List.range 8).map fun i => Config.fuse (208 + i)) / 2) % 256

/-- R395: boot traffic: while the loader fetches over HLK (CHP_BOOT_STATE = FETCH), BOOT_NONE and the TILEs of stream 0xF_FFFF that arrive on
the boot port. Only a transaction's first segment names the stream; the others follow an admitted one. -/
def bootTraffic (s : State) (b : Nat) (h : Hdr) (pay : Bytes) (first : Bool) : Bool :=
  rdF s CHP_BOOT_STATE CHP_BOOT_STATE_STATE == 1 && rdBit s CHP_BOOT_STATE CHP_BOOT_STATE_SOURCE && b == gangBase s bootPort
    && ((h.type == tNOTIFY && h.op == 0x1F)
      || (h.type == tTILE && h.tc == 0 && (if first then leAt pay 0 4 % 2 ^ 20 == 0xFFFFF else (portOf s b).bootTiles.contains (h.src % 16, h.tc))))

/-- R395: what is known of a boot TILE in arrival on port `b`: an admitted first segment, up to the LAST. -/
def bootTile (b : Nat) (h : Hdr) (s : State) : State :=
  if h.type ≠ tTILE then s else
  modPort s b fun x =>
    let rest := x.bootTiles.filter (· != (h.src % 16, h.tc))
    { x with bootTiles := if h.last then rest else rest ++ [(h.src % 16, h.tc)] }

/-- R395: the traffic that port `b` of an unowned region admits: CTRL on TC6, NOTIFY MBX_PUSH to internal endpoint 0x300, and boot
traffic for it. -/
def admittedUnowned (s : State) (b : Nat) (h : Hdr) (pay : Bytes) (first : Bool) : Bool :=
  (h.type == tCTRL && h.tc == 6)
    || (h.dint && h.dst % 4096 == 0x300 && ((h.type == tNOTIFY && h.op == 0x10) || bootTraffic s b h pay first))

/-- R274: what an unassigned switch accepts: mailbox NOTIFYs and boot traffic for internal endpoint 0x300. -/
def admittedUnassigned (h : Hdr) : Bool :=
  h.dint && h.dst % 4096 == 0x300 && (h.type == tNOTIFY || h.type == tTILE)

/-- R273: a READ, WRITE, WRITE_ACK or ATOMIC whose DST is not internal endpoint 0x000 of the switch in its address, or a FENCE whose
DST is no internal endpoint 0x000. It is routed by DST alone, and so ends where it enters. The address is in the first segment; the
home compares it for a request of several. -/
def misnamed (h : Hdr) (pay : Bytes) (first : Bool) : Bool :=
  let req := (h.type == tREAD || h.type == tWRITE || h.type == tWRITE_ACK || h.type == tATOMIC) && !h.isShuttle
  ((req || h.type == tFENCE) && (!h.dint || h.dst % 4096 != 0))
    || (req && first && h.last && leAt pay 0 8 / 2 ^ 52 != h.dst / 4096)

/-- A DATA flit's segment, accepted by the link on port `p`, enters the ground (R275, R276, R361, R394, R395, R389). A SLIP
is never routed: it reaches this switch whatever its DST names (R89). -/
def groundIn (p : Nat) (g : Seg) (s : State) : State :=
  let b := gangBase s p
  let prg := b / 16
  if unitHeld s grGND prg || !rdBit s (G_CTL grPRG prg 0) G_CTL_ENABLE then
    { s with ground := { s.ground with
      cells := s.ground.cells ++ [⟨prg, .port b, g, some b, some (b, g.hdr.tc), false, .off, false, 0, 0, false⟩] } }
  else
  let s := bump s (GND_FLITS_IN prg)
  match hcrcCheck g with
  | none => raise srcPRG_E2E_CRC prg (releaseCredit (bump s (PRG_E2E_CRC prg)) b g.hdr.tc)
  | some first =>
    let trusted := trustedPort s b
    let owner := ownerPRG s prg
    let vep := g.hdr.vep
    let h := if trusted then g.hdr else
      { g.hdr with src := ownId s * 4096 + (16 * b + vep) % 4096, sint := false, vep := match owner with | some q => q | none => 0 }
    let g := Seg.sealCrc { g with hdr := h } first
    let origin := Origin.region prg
    let reject := fun (st : Nat) (s : State) =>
      let s := releaseCredit s b h.tc
      if first then endRequest origin prg h g.pay st false s else s
    if portShut s b || blockFenced s grGND prg then reject stFENCED s
    else if !idAssigned s && !admittedUnassigned h then reject stACCESS s
    else if !trusted && owner.isNone && !admittedUnowned s b h g.pay first then reject stACCESS s
    else
    let s := if !trusted && owner.isNone then bootTile b h s else s
    if misnamed h g.pay first then reject stACCESS s
    else if h.type = tCTRL ∧ h.op = cSLIP then deliver (releaseCredit s b h.tc) (.hub (prg / 4)) prg (some b) ⟨h, g.pay⟩
    else
      meterIn s b ⟨prg, .port b, g, some b, some (b, h.tc), first, .none, uplinkPort s b, 0, 0, false⟩

/-- Flits that waited for a unit of their region that accepted no work enter in order, once it does (Table CTL-3); `fuel` bounds them. -/
def groundOn : Nat → State → State
  | 0, s => s
  | n + 1, s =>
    match s.ground.cells.find? fun c => c.hold == .off && !unitHeld s grGND c.slice && rdBit s (G_CTL grPRG c.slice 0) G_CTL_ENABLE with
    | some c => groundOn n (groundIn (c.inPort.getD 0) c.seg { s with ground := { s.ground with cells := s.ground.cells.erase c } })
    | none => s

/-! ### The flush of a port (R390) -/

/-- Whether an earlier flushed cell belongs to the same transaction. -/
def sameTxn (c d : GCell) : Bool :=
  c.seg.hdr.src == d.seg.hdr.src && c.seg.hdr.sint == d.seg.hdr.sint && c.seg.hdr.reqId == d.seg.hdr.reqId
    && c.seg.hdr.type == d.seg.hdr.type && c.seg.hdr.gen == d.seg.hdr.gen && c.seg.hdr.dst == d.seg.hdr.dst

/-- Answer each flushed transaction once, at its first flushed segment. What the answer takes from a first segment that has left already (a
write's address, a queue pair) is a free value (log entry 119). -/
def answerFlushed (status : Nat) : List GCell → List GCell → State → State
  | _, [], s => s
  | seen, c :: r, s =>
    let s := cellLeaves (bump s (GND_FLUSHED c.slice)) c
    let s := if seen.any (sameTxn c) then s
      else
        if 13 < c.seg.hdr.type then s else
        let (pay, s) := if c.first then (c.seg.pay, s) else takeFreeBytes 32 s
        endRequest (.region c.slice) c.slice c.seg.hdr pay status true s
    answerFlushed status (c :: seen) r s

/-- R390: flush every VOQ toward the port (the gang) on base port `b`. A copy of a multicast tile among them is discarded (R219). What
waits for a cell and may go over this link only is dropped with it. The pinned flits that wait to change to it (R373) are routed again. -/
def flushPort (b status : Nat) (s : State) : State :=
  let queued := fun (c : GCell) => c.out == .port b && c.hold == .none
  let moving := fun (c : GCell) => c.out == .port b && c.hold == .route
  let bound := fun (c : GCell) => c.out == .port b && (c.direct || c.copy != 0)
  let gone := s.ground.cells.filter queued
  let late := s.ground.waiting.filter bound
  let again := s.ground.cells.filter moving
  let s := { s with ground := { s.ground with
    cells := s.ground.cells.filter (fun c => !(queued c || moving c)),
    waiting := s.ground.waiting.filter (fun c => !bound c),
    lock := s.ground.lock.filter (fun e => e.1 / 8 != b),
    routeHolds := s.ground.routeHolds.filter (fun h => h.newPort != b) } }
  let s := answerFlushed status [] gone (bump s GND_MCAST_DROPPED (copiesIn (gone ++ late)).length)
  again.foldl (fun s c => routeIn s { c with hold := .none }) s

/-- The message that was delivered to a unit: the first equal one, if the ground holds it. -/
def deliveredMsg (s : State) (o : Out) (m : Msg) : Option Delivered :=
  s.ground.delivered.find? fun d => d.out.code / 16 == o.code / 16 && d.msg == m

/-- The unit that takes a message which entered by port region `prg` (R273, R375). -/
def unitOut (prg : Nat) (h : Hdr) : Out :=
  let e := h.dst % 4096
  if h.dint ∧ 0x100 ≤ e ∧ e < 0x110 then .rgn (e - 0x100)
  else if h.dint ∧ 0x200 ≤ e ∧ e < 0x210 then .sht (e - 0x200)
  else .hub (prg / 4)

/-- The port through which a message for a unit came in: that of its delivery; without one, the port of its source endpoint, or the
first of its port region. -/
def arrivalPort (s : State) (o : Out) (prg : Nat) (m : Msg) : Nat :=
  match (deliveredMsg s o m).bind (·.port) with
  | some p => p
  | none => if !m.hdr.sint && m.hdr.src / 4096 == ownId s then m.hdr.src % 4096 / 16 else 16 * prg

/-- Take a message that was delivered to a unit, and leave its cells to the caller. -/
def detachDelivered (s : State) (o : Out) (m : Msg) : List GCell × State :=
  match deliveredMsg s o m with
  | some d => (d.cells, { s with ground := { s.ground with delivered := s.ground.delivered.erase d } })
  | none => ([], s)

/-- Take a message that was delivered to a unit: its cells are free. -/
def takeDelivered (s : State) (o : Out) (m : Msg) : State :=
  let (cs, s) := detachDelivered s o m
  drainWaiting (freeCells cs s)

/-- R273: the port region through which a message entered this switch. -/
def entryPrg (s : State) (prg : Nat) (m : Msg) : Nat := arrivalPort s (unitOut prg m.hdr) prg m / 16

/-- R364, R273: a message for an internal endpoint that does not take it. -/
def unsupported (prg : Nat) (m : Msg) (s : State) : State :=
  if m.hdr.hasReply then emit (.region prg) ⟨cplHdr s m.hdr stUNSUPPORTED, []⟩ s
  else bump s (PRG_UNSUP_DROPS prg)

end Sys2Proof.Machine
end

