-- ==== Sys2Proof/Machine/Memory.lean ====
section
/-! DEFINITION. Pool memory (chapter 9): stored sectors and their verification (R245 to R250), keys (R403, R407), the home lookup
(R239 to R256), ranges, what the move and fill engines write (R257, R259), trays (R250), and the capacity sums (R269). -/

namespace Sys2Proof.Machine

/-- Change the memory part of the state. -/
def modMem (s : State) (f : Mem → Mem) : State := { s with mem := f s.mem }

/-- Whether two ranges overlap. -/
def overlap (a n b m : Nat) : Bool := a < b + m && b < a + n && n != 0 && m != 0

/-! ### Physical addresses (R239, R241, R250) -/

/-- Whether a physical local address lies in a tray window. -/
def isTray (p : Nat) : Bool := bit p 51

/-- The CXL port of a tray address. -/
def trayPort (p : Nat) : Nat := bits p 50 47

/-- The T0 physical window's address of P. -/
def t0Addr (p : Nat) : Nat := 2 ^ 50 + p

/-- The hub whose stacks or CXL port hold an address. -/
def homeHub (p : Nat) : Nat := if isTray p then trayPort p / 4 else bits p 9 8

/-- R241: the channel of a T0 address: HBC unit, 128 in each hub. -/
def channelOf (p : Nat) : Nat := 128 * bits p 9 8 + 32 * bits p 11 10 + bits p 16 12

/-- R422, R435: whether a fenced channel holds a block of a T0 range. -/
def channelFenced (s : State) (p n : Nat) : Bool :=
  (List.range (n / 64 + 2)).any fun i =>
    (i == 0 || p / 64 * 64 + 64 * i < p + n) && blockFenced s grHBC (channelOf (p / 64 * 64 + 64 * i))

/-- R241: the directory slice of a T0 address (R288). -/
def sliceOf (p : Nat) : Nat := 4 * bits p 9 8 + bits p 11 10

/-! ### Keys -/

/-- The key slot of a partition. -/
def slotOf (s : State) (p : Nat) : KeySlot := sget (fun _ => {}) s.mem.keys p

/-- Set a key slot. -/
def setSlot (s : State) (p : Nat) (k : KeySlot) : State :=
  modMem s fun m => { m with keys := sset (fun _ => {}) m.keys p k }

/-- SEC_PART_STATE.KEY_STATE: 0 EMPTY, 1 LOADED, 2 ROTATING. -/
def keyState (s : State) (p : Nat) : Nat := rdF s (SEC_PART_STATE p) SEC_PART_STATE_KEY_STATE

/-- The key that seals what a partition writes: its slot's, or, with an EMPTY slot, one that no key material enters. R406 has only
CRYPT requests end with ACCESS then, and R248 computes the MAC of every sector. It goes with the partition and the key generation
(R249), so that it never verifies what a loaded key sealed. -/
def sealKey (s : State) (part : Nat) : WorkKey :=
  (slotOf s part).cur.getD ⟨[], part, rdF s (SEC_PART_STATE part) SEC_PART_STATE_KEYGEN, []⟩

/-- R249, R407: a sector's MAC matches for a partition under its current key, or under its previous one during a rotation. -/
def keyFits (s : State) (part : Nat) (k : WorkKey) : Bool :=
  k.part == part && (sealKey s part == k || (slotOf s part).prev == some k)

/-- R405: the 96 bytes of the working keys: the XTS data key, the XTS tweak key and the CMAC key. -/
def WorkKey.bytes (k : WorkKey) : Bytes := shake256 (k.k ++ ascii "HX48-DEK" ++ leBytes 1 k.part ++ leBytes 1 k.gen ++ k.salt) 96
def WorkKey.xts (k : WorkKey) : Bytes := bslice k.bytes 0 64
def WorkKey.mac (k : WorkKey) : Bytes := bslice k.bytes 64 32

/-! ### Stored bytes (R174, R245 to R248)

The pool holds data as plaintext, and a sector's record which key sealed it. What stands in the memory follows from the two. -/

/-- R248: data bytes as stored at an address: XTS ciphertext, one data unit to a 64-byte block, or the bytes themselves. -/
def storedData (k : WorkKey) (enc : Bool) (p : Nat) (d : Bytes) : Bytes :=
  if enc then (List.range (cdiv d.length 64)).flatMap fun i => xtsEnc k.xts (p + 64 * i) (bslice d (64 * i) 64) else d

/-- The data that stored bytes decrypt to. -/
def openedData (k : WorkKey) (enc : Bool) (p : Nat) (d : Bytes) : Bytes :=
  if enc then (List.range (cdiv d.length 64)).flatMap fun i => xtsDec k.xts (p + 64 * i) (bslice d (64 * i) 64) else d

/-- R248: the MAC of a sector at an address, over its 256 stored bytes. -/
def sectorMac (k : WorkKey) (p : Nat) (stored : Bytes) : Bytes := cmac k.mac (stored ++ leBytes 8 p ++ leBytes 1 k.gen ++ zeros 7)

/-- A data byte of the pool. -/
def poolByte (s : State) (p : Nat) : Byte := sget (fun _ => 0) s.mem.pool p

/-- Data bytes of the pool. -/
def poolBytes (s : State) (p n : Nat) : Bytes := (List.range n).map fun i => poolByte s (p + i)

/-- R174, R247: the 256 data bytes of a sealed sector as they are stored: ENC is a bit of each block. -/
def storedSector (s : State) (t : Sector) (sec : Nat) : Bytes :=
  (List.range 4).flatMap fun i => storedData t.key (bit t.enc i) (256 * sec + 64 * i) (poolBytes s (256 * sec + 64 * i) 64)

/-- R245, Table MEM-4: the 80 bytes of block `b` of a sealed sector, before any error. -/
def storedBlock (s : State) (t : Sector) (b : Nat) : Bytes :=
  let d := storedSector s t (b / 4)
  nativeBlock (bslice d (64 * (b % 4)) 64) (bslice (sectorMac t.key (b / 4 * 256) d) (4 * (b % 4)) 4) (bit t.poison (b % 4))
    (bit t.enc (b % 4)) t.key.part

/-! ### Sectors -/

/-- The blocks of a sector. -/
def sectorBlocks (sec : Nat) : List Nat := [4 * sec, 4 * sec + 1, 4 * sec + 2, 4 * sec + 3]

/-- The wrong bits of a block, byte by byte. -/
def blockErrs (s : State) (b : Nat) : Bytes := (List.range 80).map fun i => BitVec.ofNat 8 (sget (fun _ => 0) s.mem.errs (80 * b + i))

/-- Whether a block has an erroneous byte. -/
def blockBad (s : State) (b : Nat) : Bool := s.mem.errs.any fun e => e.1 / 80 == b

/-- R249: the wrong bits that correction leaves in a block; none where it is uncorrectable. Both codes are linear: what correction does
to a codeword with errors is the codeword with what it does to the errors alone, which are a word like any other. -/
def errsAfter (s : State) (b : Nat) : Option Bytes := if blockBad s b then correctBlock (blockErrs s b) else some (zeros 80)

/-- Set the wrong bits of a block. -/
def setErrs (b : Nat) (e : Bytes) (s : State) : State :=
  modMem s fun m => { m with errs :=
    (e.zipIdx.filter (·.1 != 0)).foldl (fun r x => sset (fun _ => 0) r (80 * b + x.2) x.1.toNat) (skeep (fun k => k / 80 != b) m.errs) }

/-- The blocks of a sector in which correction changes something, with what it leaves, and those that are uncorrectable. Wrong bits that
are a codeword themselves show no error. -/
def fixable (s : State) (sec : Nat) : List (Nat × Bytes) :=
  (((sectorBlocks sec).filter (blockBad s)).filterMap fun b => (errsAfter s b).map fun e => (b, e)).filter fun x => x.2 != blockErrs s x.1
def unfixable (s : State) (sec : Nat) : List Nat := (sectorBlocks sec).filter fun b => (errsAfter s b).isNone

/-- R424: `n` blocks of a T0 address are work units of their channel. -/
def blocksMoved (p n : Nat) (s : State) : State := if isTray p then s else bump s (G_PROGRESS grHBC (channelOf p) 0) n

/-- R249: correct what can be corrected in a sector; count it; the blocks are rewritten. -/
def correctSector (sec : Nat) (s : State) : State :=
  let ce := fixable s sec
  if ce.isEmpty then s else ce.foldl (fun s x => setErrs x.1 x.2 s) (bump s (MRG_ECC_CE (homeHub (256 * sec))) ce.length)

/-- The blocks of a sector that a range of `n` bytes at `p` within it touches, as bits. -/
def blockMask (p n : Nat) : Nat :=
  (List.range 4).foldl (fun m i => if overlap (p / 256 * 256 + 64 * i) 64 p n then m + 2 ^ i else m) 0

/-- Those of them that the range covers only in part. -/
def partMask (p n : Nat) : Nat :=
  (List.range 4).foldl (fun m i =>
    let b := p / 256 * 256 + 64 * i
    if overlap b 64 p n && !(p ≤ b && b + 64 ≤ p + n) then m + 2 ^ i else m) 0

/-- R249: the sector MAC verifies for a partition over what correction left, and none of the blocks `mask` awaits its first write.
Bytes that correction got wrong, or another key, never verify (R405; log entry 79). -/
def sectorFits (s : State) (part sec mask : Nat) : Bool :=
  match sfind s.mem.sectors sec with
  | some t => keyFits s part t.key && t.stale &&& mask == 0 && !(sectorBlocks sec).any (blockBad s)
  | none => false

/-- The sector holds a block with POISON. -/
def sectorPoison (s : State) (sec : Nat) : Bool :=
  match sfind s.mem.sectors sec with
  | some t => t.poison != 0
  | none => false

/-- R249: read the blocks `mask` of a sector for a partition: the status (0 OK, TIER_FAILED, INTEGRITY) and the counts and sources it
causes. -/
def readSector (part sec mask : Nat) (s : State) : Nat × State :=
  let s := correctSector sec (blocksMoved (256 * sec) 4 s)
  let hub := homeHub (256 * sec)
  let ue := unfixable s sec
  if !ue.isEmpty then (stTIER_FAILED, raise srcMRG_HBC_UE hub (bump s (MRG_ECC_UE hub) ue.length))
  else if sectorPoison s sec then (stTIER_FAILED, s)
  else if sectorFits s part sec mask then (stOK, s)
  else (stINTEGRITY, raise srcMRG_MAC_FAIL hub (bump s (MRG_MAC_FAIL hub)))

/-- Store data bytes in the pool. -/
def poolPut : Bytes → Nat → List Host.Cell → List Host.Cell
  | [], _, m => m
  | b :: r, p, m => poolPut r (p + 1) (sset (fun _ => 0) m p b)

/-- The blocks of a sector that await their first write, and those with ENC. -/
def staleOf (s : State) (sec : Nat) : Nat := ((sfind s.mem.sectors sec).map (·.stale)).getD 0
def encOf (s : State) (sec : Nat) : Nat := ((sfind s.mem.sectors sec).map (·.enc)).getD 0

/-- Some bits of a mask without those of another. -/
def without (a b : Nat) : Nat := a - (a &&& b)

/-- Store `d` at `p` within one sector, and the side bytes of the sector: a MAC under the current key of the partition, no POISON, no
error; the blocks `stale` still await their first write. Each block that `d` covers takes ENC from its extent (R247). -/
def sealSector (part : Nat) (enc : Bool) (p : Nat) (d : Bytes) (stale : Nat) (s : State) : State :=
  let sec := p / 256
  let new := blockMask p d.length
  let encs := without (encOf s sec) new + (if enc then new else 0)
  blocksMoved p 4 (modMem s fun m => { m with
    pool := poolPut d p m.pool
    errs := skeep (fun k => k / 320 != sec) m.errs
    sectors := sput m.sectors sec ⟨sealKey s part, encs, 0, stale⟩ })

/-- Seal a sector with `d` written at `p`: the blocks that `d` covers have been written now. -/
def putSector (part : Nat) (enc : Bool) (p : Nat) (d : Bytes) (s : State) : State :=
  sealSector part enc p d (without (staleOf s (p / 256)) (blockMask p d.length)) s

/-- R248: write `d` at `p` within one sector. Less than a sector verifies the rest first, with none of the blocks `mask` awaiting its first
write, and writes nothing where it does not. -/
def writeSectorOver (mask part : Nat) (enc : Bool) (p : Nat) (d : Bytes) (s : State) : Nat × State :=
  let (st, s) := if d.length = 256 then (stOK, s) else readSector part (p / 256) mask s
  if st = stOK then (stOK, putSector part enc p d s) else (st, s)

/-- R248, R249: a request writes `d` at `p` within one sector. A sector never written since its extent was allocated does not verify: with
an extent's blocks of a sector awaiting their first write, less than the sector is not written. -/
def writeSector (part : Nat) (enc : Bool) (p : Nat) (d : Bytes) (s : State) : Nat × State :=
  writeSectorOver (blockMask p d.length) part enc p d s

/-- The sectors of a range, with the part of the range in each: (start, length). -/
def pieces : Nat → Nat → Nat → List (Nat × Nat)
  | 0, _, _ => []
  | f + 1, p, n =>
    if n = 0 then [] else
    let k := min n (256 - p % 256)
    (p, k) :: pieces f (p + k) (n - k)

/-- R249: read a range: the first failing sector's status, the data, and the effects of every sector read. -/
def memRead (part p n : Nat) (s : State) : Nat × Bytes × State :=
  let (st, s) := (pieces (n / 256 + 2) p n).foldl (fun (a : Nat × State) x =>
    let (e, s) := readSector part (x.1 / 256) (blockMask x.1 x.2) a.2
    (if a.1 = stOK then e else a.1, s)) (stOK, s)
  (st, if st = stOK then poolBytes s p n else [], s)

/-- R248: write a range: each sector on its own; the status of the first that failed. -/
def memWrite (part : Nat) (enc : Bool) (p : Nat) (d : Bytes) (s : State) : Nat × State :=
  (pieces (d.length / 256 + 2) p d.length).foldl (fun (a : Nat × State) x =>
    let (e, s) := writeSector part enc x.1 (bslice d (x.1 - p) x.2) a.2
    (if a.1 = stOK then e else a.1, s)) (stOK, s)

/-- R249: what an extent allocated without ZERO_INIT holds does not verify: the sectors wholly inside it lose their side bytes, and its
blocks in a sector that it shares await their first write. -/
def forgetRange (p n : Nat) (s : State) : State :=
  let lo := cdiv p 256
  let hi := (p + n) / 256
  let edge := fun (e : Nat × Sector) =>
    if overlap (256 * e.1) 256 p n then
      let a := max p (256 * e.1)
      (e.1, { e.2 with stale := e.2.stale ||| blockMask a (min (p + n) (256 * e.1 + 256) - a) })
    else e
  modMem s fun m => { m with sectors := (skeep (fun k => k < lo || hi ≤ k) m.sectors).map edge }

/-- R249, R259: write POISON on the blocks of a sector, with fresh check bits. -/
def poisonSector (part : Nat) (sec mask : Nat) (s : State) : State :=
  let t := (sfind s.mem.sectors sec).getD ⟨sealKey s part, 0, 0, 0⟩
  let s := bump s (MRG_POISON_WRITTEN (homeHub (256 * sec))) (maskBits mask 4).length
  modMem s fun m => { m with
    sectors := sput m.sectors sec { t with poison := t.poison ||| mask }
    errs := skeep (fun k => k / 320 != sec || !bit mask (k / 80 % 4)) m.errs }

/-! ### The home table -/

def objOf (s : State) (i : Nat) : Obj := sget (fun _ => {}) s.mem.objs i
def setObj (s : State) (i : Nat) (o : Obj) : State := modMem s fun m => { m with objs := sset (fun _ => {}) m.objs i o }
def extOf (s : State) (i : Nat) : Ext := sget (fun _ => {}) s.mem.exts i
def setExt (s : State) (i : Nat) (e : Ext) : State := modMem s fun m => { m with exts := sset (fun _ => {}) m.exts i e }

/-- Extent states (Table MEM-6). -/
def esFREE : Nat := 0
def esHOME : Nat := 1
def esMOVING : Nat := 2
def esLOST : Nat := 3
def esWITHDRAWN : Nat := 4

/-- Frames of an object. -/
def objFrames (o : Obj) : Nat := cdiv o.size (2 ^ 30)

/-- Extents of an object. -/
def objExtents (o : Obj) : Nat := cdiv o.size (2 ^ o.extLog)

/-- The extent indices of an object. -/
def objExts (o : Obj) : List Nat := (List.range (objExtents o)).map (o.extBase + ·)

/-- The flags of Table MEM-3. -/
def Obj.movable (o : Obj) : Bool := bit o.flags 4
def Obj.sharedRo (o : Obj) : Bool := bit o.flags 5
def Obj.crypt (o : Obj) : Bool := bit o.flags 6
def Obj.lr (o : Obj) : Bool := bit o.flags 7
def Obj.zeroInit (o : Obj) : Bool := bit o.flags 8
def Obj.legacy (o : Obj) : Bool := bit o.flags 9

/-- R253: the object whose frames hold a local object-window address. -/
def objAt (s : State) (a : Nat) : Option Nat :=
  (s.mem.objs.find? fun e => e.2.state != 0 && e.2.firstFrame ≤ a / 2 ^ 30 && a / 2 ^ 30 < e.2.firstFrame + objFrames e.2).map (·.1)

/-- The object offset of a local address. -/
def objOff (o : Obj) (a : Nat) : Nat := a - o.firstFrame * 2 ^ 30

/-- The extent that holds an object offset. -/
def extAt (o : Obj) (off : Nat) : Nat := o.extBase + off / 2 ^ o.extLog

/-- The extent named by a global object address: its index, if the address is an object address of this registrar. -/
def extByAddr (s : State) (g : Nat) : Option Nat :=
  if g / 2 ^ 52 % 4096 = ownId s ∧ g % 2 ^ 52 < 2 ^ 50 then
    match objAt s (g % 2 ^ 52) with
    | some i =>
      let o := objOf s i
      let off := objOff o (g % 2 ^ 52)
      if off < o.size then some (extAt o off) else none
    | none => none
  else none

/-- The global address of an extent. -/
def extAddr (s : State) (e : Nat) : Nat :=
  ownId s * 2 ^ 52 + (objOf s (extOf s e).obj).firstFrame * 2 ^ 30 + (extOf s e).off

/-- The publication of an object, with its table index (R299). -/
def pubOfObj (s : State) (i : Nat) : Option (Nat × Pub) :=
  s.mem.pubs.find? fun e => e.2.state != 0 && objAt s (e.2.addr % 2 ^ 52) == some i

/-- R252, R298: whether a partition may read an object. -/
def mayRead (s : State) (i : Nat) (part : Nat) : Bool :=
  let o := objOf s i
  if o.part = part then true
  else if o.sharedRo ∧ o.pub = 1 then
    match pubOfObj s i with
    | some (_, p) => p.state == 1 && bit p.readers part
    | none => false
  else false

/-- What a request asks of memory. -/
inductive Use where
  | read
  | write
  | atomic
  deriving DecidableEq, Repr

/-- The outcome of a home lookup: an error, or the object, the extent and the physical address. -/
inductive Look where
  | err (st : Nat)
  | ok (obj ext phys : Nat)
  deriving DecidableEq, Repr

/-- R240, R244, R252, R284, R298, R406: the rights of a request on `n` bytes at local address `a`, by partition, up to the extent. `accepted`
is one that had them: a write that a publication committed since then does not refuse (R301), or a read that a retirement does not (R303). -/
def lookRightsOf (accepted : Bool) (s : State) (part : Nat) (u : Use) (a n : Nat) : Look :=
  if 2 ^ 50 ≤ a then .err stACCESS else
  match objAt s a with
  | none => .err stACCESS
  | some i =>
    let o := objOf s i
    let off := objOff o a
    if o.state ≠ 1 ∨ o.size < off + n then .err stACCESS
    else if u = .read ∧ !mayRead s i part ∧ !(accepted && o.sharedRo) then .err stACCESS
    else if u ≠ .read ∧ o.part ≠ part then .err stACCESS
    else if u ≠ .read ∧ o.legacy then .err stACCESS
    else if u = .write ∧ o.sharedRo ∧ o.pub ≠ 0 ∧ !accepted then .err stACCESS
    else if u = .atomic ∧ o.sharedRo then .err stACCESS
    else if o.crypt ∧ keyState s o.part = 0 then .err stACCESS
    else
      let e := extAt o off
      .ok i e ((extOf s e).phys + (off - (extOf s e).off))

def lookRights (s : State) (part : Nat) (u : Use) (a n : Nat) : Look := lookRightsOf false s part u a n

/-- R252: what the extent's state makes of a request. -/
def lookState (s : State) (u : Use) (e : Nat) : Option Nat :=
  let x := extOf s e
  if x.state = esHOME ∨ x.state = esMOVING then
    if u = .atomic ∧ x.tier = 3 then some stACCESS else none
  else if x.state = esLOST then some stHOME_LOST
  else if x.state = esWITHDRAWN then some stEXTENT_WITHDRAWN
  else some stACCESS

/-- R252: the tier deadline of a hub, in ns; a field of 0 acts as 1 µs. -/
def tierDeadline (s : State) (hub tier : Nat) : Nat :=
  let f : Fld := if tier = 0 then MRG_DEADLINE_T0 else if tier = 1 then MRG_DEADLINE_T1
    else if tier = 2 then MRG_DEADLINE_T2 else MRG_DEADLINE_T3
  1000 * max 1 (rdF s (MRG_DEADLINE hub) f)

/-- Whether a CXL port's tray can be reached (R354): its link is up in tray role. -/
def trayUp (s : State) (c : Nat) : Bool :=
  rdF s (CXP_LINK_STATE c) CXP_LINK_STATE_STATE == 2 && rdF s (CXP_ROLE c) CXP_ROLE_ROLE == 0

/-! ### Mirrors of a move (R259) -/

/-- The sectors of a move that were copied: below `next`. A write at the source to a copied sector is mirrored to a local destination
by copying the sector again; a destination on another switch is the fabric's (`mirrorOut`). -/
def moveOfExt (s : State) (e : Nat) : Option Move := s.mem.moves.find? fun v => v.ext == some e

/-- The move that copies from a physical range that holds `p`. -/
def moveAtSrc (s : State) (p : Nat) : Option Move :=
  s.mem.moves.find? fun v => match v.src with
    | some b => b ≤ p && p < b + v.len
    | none => false

/-- Replace a move (same slot and address). -/
def putMove (s : State) (v : Move) : State :=
  modMem s fun m => { m with moves := m.moves.map fun w => if w.slot = v.slot ∧ w.addr = v.addr then v else w }

/-- The bytes of sector `i` of a move. -/
def moveBytes (v : Move) (i : Nat) : Nat := min 256 (v.len - 256 * i)

/-! ### Capacity (R269) -/

/-- Bytes rounded up to the granule. -/
def granule (n : Nat) : Nat := cdiv n 64 * 64

/-- Add to a tier's sums. -/
def capAdd (s : State) (tier planned occupied : Nat) : State :=
  bump (bump s (MRG_CAP_PLANNED tier) planned) (MRG_CAP_OCCUPIED tier) occupied

/-- Take from a tier's sums. -/
def capSub (s : State) (tier planned occupied : Nat) : State :=
  let s := wrReg s (MRG_CAP_PLANNED tier) (rdReg s (MRG_CAP_PLANNED tier) - BitVec.ofNat 64 planned)
  wrReg s (MRG_CAP_OCCUPIED tier) (rdReg s (MRG_CAP_OCCUPIED tier) - BitVec.ofNat 64 occupied)

/-- The part of an object's PLANNED that falls to an extent, pro rata to its length; the parts of all extents add up to PLANNED. -/
def extPlanned (o : Obj) (x : Ext) : Nat :=
  if o.size = 0 then 0 else o.planned * (x.off + x.len) / o.size - o.planned * x.off / o.size

/-! ### Ranges -/

/-- Whether a physical range of this switch is in use: by a live or freeing extent homed here, a withdrawn one whose range was not yet
released, the source of a move that drains (step 7 of Table MEM-9), a hosted entry, or a clause. -/
def rangeUsed (s : State) (p n : Nat) : Bool :=
  s.mem.exts.any (fun e =>
    (((e.2.state == esHOME || e.2.state == esMOVING || e.2.state == esLOST) && e.2.home == ownId s) || e.2.holding)
      && overlap e.2.phys e.2.len p n)
    || s.mem.moves.any (fun v => v.phase == 1 && overlap (v.src.getD 0) (if v.src.isSome then v.len else 0) p n)
    || s.mem.hosted.any (fun h => overlap h.phys h.len p n)
    || s.mem.held.any (fun h => h.2.1 == ownId s && overlap h.2.2.1 h.2.2.2 p n)

/-- R250: the tray lines that an access of `n` bytes at `p` moves: five for each sector; a write of part of a sector reads it first. -/
def trayLines (write : Bool) (p n : Nat) : Nat :=
  ((pieces (n / 256 + 2) p n).map fun x => if write && x.2 != 256 then 10 else 5).sum

/-- R250: an access of an engine of this device counts the tray lines that it moves. -/
def trayMoved (write : Bool) (p n : Nat) (s : State) : State :=
  if isTray p then bump s (CXP_REQ_TX (trayPort p)) (trayLines write p n) else s

/-! ### What the engines write (R257, R259)

A fill or a copy writes a range of its own from end to end. Where such a range starts or ends within a sector, the rest of the sector
is verified and kept if another range in use has bytes there; bytes that belong to no range hold nothing that could be kept (log
entry 98). -/

/-- Whether a range in use other than [base, base + len) has bytes in a sector. -/
def sectorShared (s : State) (base len sec : Nat) : Bool :=
  rangeUsed s (256 * sec) (base - 256 * sec) || rangeUsed s (base + len) (256 * sec + 256 - (base + len))

/-- Write `d` at `p` within one sector, as part of the engine's range. -/
def enginePiece (part : Nat) (enc : Bool) (base len p : Nat) (d : Bytes) (s : State) : State :=
  let sec := p / 256
  let s := trayMoved true p d.length s
  if d.length = 256 || (sectorFits s part sec (partMask p d.length) && !sectorPoison s sec) then putSector part enc p d s
  else if sectorShared s base len sec then (writeSectorOver (partMask p d.length) part enc p d s).2
  else sealSector part enc p d (15 - blockMask p d.length) s

/-- Write `d` at `p`, as part of the engine's range. -/
def engineWrite (part : Nat) (enc : Bool) (base len p : Nat) (d : Bytes) (s : State) : State :=
  (pieces (d.length / 256 + 2) p d.length).foldl (fun s x => enginePiece part enc base len x.1 (bslice d (x.1 - p) x.2) s) s

/-- Write POISON on the blocks of a range. -/
def enginePoison (part p n : Nat) (s : State) : State :=
  let s := trayMoved true p n s
  (pieces (n / 256 + 2) p n).foldl (fun s x => poisonSector part (x.1 / 256) (blockMask x.1 x.2) s) s

/-- R257: fill a range with zero data under the current key. -/
def zeroFill (part : Nat) (enc : Bool) (p n : Nat) (s : State) : State :=
  (pieces (n / 256 + 2) p n).foldl (fun s x => enginePiece part enc p n x.1 (zeros x.2) s) s

/-- R175: an uncorrectable unit of a legacy extent is counted and raises HBC_UE, as R249 has it for a block. -/
def legacyBad (p : Nat) (s : State) : State := raise srcMRG_HBC_UE (homeHub p) (bump s (MRG_ECC_UE (homeHub p)))

/-- R259, R176: what a move reads for sector `i` of its source at `b`: the data, or none where it is bad. `raw` holds the 80-byte units
that the tray of a legacy source returned. -/
def moveRead (v : Move) (b i : Nat) (raw : Bytes) (s : State) : Option Bytes × State :=
  let p := b + 256 * i
  let n := moveBytes v i
  let s := trayMoved false p n s
  if v.legacy then
    match legacyOpen (slotOf s v.part).legacy p (bslice raw 0 (80 * cdiv n 64)) with
    | some d => (some (bslice d 0 n), s)
    | none => (none, legacyBad p s)
  else
    let (st, d, s) := memRead v.part p n s
    (if st = stOK then some d else none, s)

/-- R259: sector `i` of a move reaches a destination on this device, re-keyed; a bad source poisons it. -/
def movePut (v : Move) (i : Nat) (d : Option Bytes) (s : State) : State :=
  match d with
  | some d => engineWrite v.part v.enc v.dst v.len (v.dst + 256 * i) d s
  | none => enginePoison v.part (v.dst + 256 * i) (moveBytes v i) s

/-- R259: the payload of sector `i` of a move to another switch: the address and LEN, the data as the destination stores them, a MAC for
the destination address, and whether the source was bad (the form is the model's: log entry 99). -/
def movePay (s : State) (v : Move) (i : Nat) (d : Option Bytes) : Bytes :=
  let p := v.dst + 256 * i
  let n := moveBytes v i
  let k := sealKey s v.part
  let st := storedData k v.enc p (bslice (d.getD []) 0 n)
  leBytes 8 (v.dstSw * 2 ^ 52 + p) ++ leBytes 4 n ++ zeros 4 ++ st ++ sectorMac k p (bslice st 0 256) ++ leBytes 1 d.isNone.toNat

/-- R259: a sector of a move arrives for a range of this switch. One whose MAC does not verify here leaves a sector that never does. -/
def moveArrive (part : Nat) (enc : Bool) (base len p n : Nat) (pay : Bytes) (s : State) : State :=
  let k := sealKey s part
  let st := bslice pay 16 n
  if leAt pay (32 + n) 1 ≠ 0 then enginePoison part p n s
  else if bslice pay (16 + n) 16 = sectorMac k p (bslice st 0 256) then engineWrite part enc base len p (openedData k enc p st) s
  else forgetRange p n s

/-- Whether a held request is past its lookup (R252): its deadline runs, and nothing takes it back before the lookup. -/
def pastLookup (r : Req) : Bool :=
  r.due != 0 && (match r.stage with
  | .fetch _ _ => false
  | .drain _ => false
  | .pub _ => false
  | _ => true)

/-- R254: whether an extent's requests past lookup remain: held, or with a line's transaction. -/
def reqsOn (s : State) (e : Nat) : List Req :=
  (s.mem.reqs.filter fun r => r.ext == e && pastLookup r) ++ (s.mem.txns.filterMap (·.req)).filter (·.ext == e)

/-! ### Trays (R250, R353) -/

/-- R250: the data bytes that a tray range of a CXL port holds. -/
def trayData (s : State) (c tier : Nat) : Nat :=
  (if tier = 3 then rdF s (CXP_TRAY_T3 c) CXP_TRAY_T3_SIZE else rdF s (CXP_TRAY_T2 c) CXP_TRAY_T2_SIZE) * 2 ^ 28 * 4 / 5 / 256 * 256

/-- R250: the tray offset of the line that holds the side bytes of the sector at a data offset. -/
def sideLine (s : State) (c tier off : Nat) : Nat := trayData s c tier + 64 * (off / 256)

/-! ### The tables in control-die memory (R253, R299)

The manual fixes the entries and gives no place for the object and the extent table within the 1 GiB: they follow the locator here (log
entry 20). -/

/-- R253: the frame locator word of a frame. -/
def locWord (s : State) (f : Nat) : Bytes :=
  match objAt s (f * 2 ^ 30) with
  | some i => leBytes 8 (i + (f - (objOf s i).firstFrame) * 2 ^ 20)
  | none => leBytes 8 0xFFFFF

/-- Table MEM-5. -/
def Obj.enc (o : Obj) : Bytes :=
  if o.state = 0 then zeros 32 else
  leBytes 8 o.size ++ leBytes 8 o.planned ++ leBytes 4 (o.firstFrame % 2 ^ 20) ++ leBytes 4 o.extBase ++ leBytes 2 o.flags
    ++ leBytes 1 (o.part % 16) ++ leBytes 1 o.extLog ++ leBytes 1 o.state ++ zeros 3

/-- Table MEM-6: an extent entry as its 16 bytes. -/
def Ext.enc (x : Ext) : Bytes :=
  leBytes 8 (x.state % 8 + x.tier % 4 * 8 + x.gen % 256 * 2 ^ 8 + x.home % 4096 * 2 ^ 16 + x.lease % 65536 * 2 ^ 28)
    ++ leBytes 8 (x.phys % 2 ^ 52)

/-- The limits of the tables (R253). -/
def objMax : Nat := 0xFFFFF
def extMax : Nat := 2 ^ 24

/-- The byte at an offset of the home table. -/
def homeTableByte (s : State) (off : Nat) : Byte :=
  if off < 2 ^ 23 then (locWord s (off / 8)).getD (off % 8) 0
  else if off < 2 ^ 23 + 32 * objMax then (objOf s ((off - 2 ^ 23) / 32)).enc.getD ((off - 2 ^ 23) % 32) 0
  else
    let o := off - (2 ^ 23 + 2 ^ 25)
    if 2 ^ 23 + 2 ^ 25 ≤ off ∧ o < 16 * extMax then (extOf s (o / 16)).enc.getD (o % 16) 0 else 0

/-- R299: a publication entry as its 64 bytes; the places of its fields are those of `pdPub`. -/
def Pub.enc (p : Pub) : Bytes :=
  leBytes 8 p.name ++ leBytes 4 p.version ++ leBytes 1 p.state ++ leBytes 1 p.owner ++ leBytes 2 p.readers ++ leBytes 8 p.addr
    ++ leBytes 8 p.length ++ leBytes 2 p.cxp ++ zeros 30

/-- The byte at an offset of the publication table. -/
def pubTableByte (s : State) (off : Nat) : Byte :=
  match sfind s.mem.pubs (off / 64) with
  | some p => if p.state = 0 then 0 else p.enc.getD (off % 64) 0
  | none => 0

/-- R253, R299: a byte of control-die memory as a reader finds it: the two tables stand at their bases once they hold an entry. R445
keeps tables out of the firmware area, and a base in it (reset: 0) shows the table nowhere (log entry 122). -/
def cdSee (s : State) (a : Nat) : Byte :=
  if 2 ^ 29 ≤ s.mem.homeBase ∧ s.mem.homeBase ≤ a ∧ a < s.mem.homeBase + 2 ^ 30 ∧ s.mem.objs.any (·.2.state != 0) then homeTableByte s (a - s.mem.homeBase)
  else if 2 ^ 29 ≤ s.mem.pubBase ∧ s.mem.pubBase ≤ a ∧ a < s.mem.pubBase + 2 ^ 18 ∧ s.mem.pubs.any (·.2.state != 0) then pubTableByte s (a - s.mem.pubBase)
  else cdByte s a

/-- `n` bytes of control-die memory from address `a`, as a reader finds them. -/
def cdLoad (s : State) (a n : Nat) : Bytes := (List.range n).map fun i => cdSee s (a + i)

end Sys2Proof.Machine
end

