-- ==== Sys2Proof/Machine/Fabric.lean ====
section
/-! DEFINITION. Requests from the fabric (chapter 10): their checks, the home lookup, combining (R233 to R236), the reply cache (R285),
coherence (R287 to R295), fences (R280), and what completes a request at a tray, a lender or its home. -/

namespace Sys2Proof.Machine

/-! ### Replies -/

/-- The hub where a request that entered by port region `prg` is looked up. -/
def entryHub (prg : Nat) : Nat := prg / 4

/-- Answer a request: CPL_DATA with data, CPL without, WRITE_FAILED for a posted write that failed (R278, R279). What a home sends to one
agent keeps its order (R281, R289). -/
def answer (prg : Nat) (m : Msg) (st : Nat) (data : Option Bytes) (s : State) : State :=
  match data with
  | some d => if m.hdr.hasReply then emitReply ⟨{ cplHdr s m.hdr st with type := tCPL_DATA }, d⟩ s else s
  | none => if st < 0x10 ∧ !m.hdr.hasReply then s else endRequest .home prg m.hdr m.pay st false s

/-- Count an outcome of Table MEM-7 at the hub of entry. -/
def countTier (prg st : Nat) (s : State) : State :=
  if st = stTIER_LATE then bump s (MRG_TIER_LATE (entryHub prg))
  else if st = stTIER_FAILED then bump s (MRG_TIER_FAILED (entryHub prg))
  else s

/-! ### Conjunction unit state -/

def cmbOf (s : State) (n : Nat) : Cmb := sget (fun _ => {}) s.mem.cmbs n
def setCmb (s : State) (n : Nat) (c : Cmb) : State := modMem s fun m => { m with cmbs := sset (fun _ => {}) m.cmbs n c }
def modCmb (s : State) (n : Nat) (f : Cmb → Cmb) : State := setCmb s n (f (cmbOf s n))

/-- READ_WINDOW in ns; 0 disables read combining (R237). -/
def readWindow (s : State) (n : Nat) : Nat :=
  let w := rdF s (CMB_CTL n) CMB_CTL_READ_WINDOW
  if w = 0 then 0 else max 500 (min 8000 w)

/-- Bytes in a combine buffer. -/
def bufBytes (c : Cmb) : Nat := (c.bufs.map (·.len)).sum

/-- Evict the oldest buffers until `n` bytes fit in the 1 MiB buffer (R233). -/
def makeRoom : Nat → Nat → Nat → State → State
  | 0, _, _, s => s
  | f + 1, n, len, s =>
    let c := cmbOf s n
    if bufBytes c + len ≤ 2 ^ 20 then s
    else makeRoom f n len (bump (setCmb s n { c with bufs := c.bufs.drop 1 }) (CMB_BUF_EVICT n))

/-- R233: the data of a combined read stays in the buffer until its window ends. -/
def keepRead (n addr len : Nat) (d : Bytes) (s : State) : State :=
  let w := readWindow s n
  if w = 0 then s else
  let s := makeRoom ((cmbOf s n).bufs.length) n len s
  modCmb s n fun c => { c with bufs := c.bufs ++ [⟨addr, len, d, s.tim.ref + w⟩] }

/-- R233: drop the buffer entries that overlap a range of global addresses, in every unit. -/
def dropReads (addr len : Nat) (s : State) : State :=
  modMem s fun m => { m with cmbs := m.cmbs.map fun e =>
    (e.1, { e.2 with bufs := e.2.bufs.filter fun b => !(overlap b.addr b.len addr len) }) }

/-! ### The message forms of Table LSA-2 -/

/-- The global address and LEN of a READ, WRITE or WRITE_ACK; the address of an ATOMIC. -/
def msgAddr (m : Msg) : Nat := leAt m.pay 0 8
def msgLen (m : Msg) : Nat := leAt m.pay 8 4
def msgData (m : Msg) : Bytes := bslice m.pay 16 (msgLen m)

/-- The width of an atomic's operand in bytes (Table LSA-6); 0 for a reserved OP. -/
def atomWidth (op : Nat) : Nat :=
  if op = 0x01 then 4
  else if op = 0x02 then 8
  else if op = 0x03 then 64
  else if op = 0x10 ∨ op = 0x12 ∨ op = 0x14 ∨ op = 0x18 ∨ op = 0x1A ∨ op = 0x1C ∨ op = 0x20 then 4
  else if op = 0x11 ∨ op = 0x13 ∨ op = 0x19 ∨ op = 0x1B ∨ op = 0x21 then 8
  else if op = 0x22 then 16
  else 0

/-- The bytes that a request names. -/
def msgSpan (m : Msg) : Nat := if m.hdr.type = tATOMIC then atomWidth m.hdr.op else msgLen m

/-- The operands of an ATOMIC message. -/
def atomArg (m : Msg) : Bytes := bslice m.pay 16 16
def atomArg2 (m : Msg) : Bytes := bslice m.pay 32 16

/-- R234: what an EXACT_ADD brings: its term, or, from a conjunction unit of another switch, the exact partial of a batch, as the 64
bytes of R155 (the form is the model's: log entry 11). -/
def exactPart (m : Msg) : Acc320 := if m.pay.length = 80 then accDec (bslice m.pay 16 64) else accAdd {} (f32Val (leAt (atomArg m) 0 4))

/-- R283, R133: the new operand bytes of an atomic on `old`. -/
def atomNew (op : Nat) (old arg new : Bytes) : Bytes :=
  let w := old.length
  let o := leNat old
  let a := leNat (bslice arg 0 w)
  let si := fun (v : Nat) => sext (8 * w) v
  if op = 0x01 ∨ op = 0x02 then leBytes w ((o + a) % 2 ^ (8 * w))
  else if op = 0x10 ∨ op = 0x11 then if si a < si o then leBytes w a else old
  else if op = 0x12 ∨ op = 0x13 then if a < o then leBytes w a else old
  else if op = 0x14 then leBytes 4 (f32Code ((f32Val o).min (f32Val a)))
  else if op = 0x18 ∨ op = 0x19 then if si o < si a then leBytes w a else old
  else if op = 0x1A ∨ op = 0x1B then if o < a then leBytes w a else old
  else if op = 0x1C then leBytes 4 (f32Code ((f32Val o).max (f32Val a)))
  else if old = bslice arg 0 w then bslice new 0 w else old

/-- R234: the exact partial of a batch. -/
def batchPart (ms : List Msg) : Acc320 := ms.foldl (fun a m => accMerge a (exactPart m)) {}

/-- R234: the new bytes after a batch, and each member's old value. EXACT_ADD adds the batch's partial as one addition. -/
def batchApply (op : Nat) (old : Bytes) (ms : List Msg) : Bytes × List Bytes :=
  if op = 0x03 then
    (accEnc (accMerge (accDec old) (batchPart ms)), ms.map fun _ => [])
  else
    ms.foldl (fun (x : Bytes × List Bytes) m => (atomNew op x.1 (atomArg m) (atomArg2 m), x.2 ++ [x.1])) (old, [])

/-- R234: the operand that a combined operation carries to a home on another switch: the exact partial, or one ADD, MIN or MAX. -/
def batchArg (op : Nat) (ms : List Msg) : Bytes :=
  match ms with
  | [] => zeros 32
  | m :: r =>
    let w := atomWidth op
    if op = 0x03 then (if r.isEmpty then m.pay.drop 16 else accEnc (batchPart (m :: r)))
    else if 0x20 ≤ op then bslice m.pay 16 32
    else bslice (r.foldl (fun x n => atomNew op x (atomArg n) []) (bslice (atomArg m) 0 w)) 0 32

/-! ### Requests held -/

/-- The next arrival number. -/
def nextArr (s : State) : Nat × State := (s.mem.arrivals, modMem s fun m => { m with arrivals := m.arrivals + 1 })

/-- Hold a request. -/
def holdReq (r : Req) (g : Stage) (s : State) : State := modMem s fun m => { m with reqs := m.reqs ++ [{ r with stage := g }] }

/-- Drop a held request. -/
def dropReq (arr : Nat) (s : State) : State := modMem s fun m => { m with reqs := m.reqs.filter (·.arr != arr) }

/-- Every request that the device holds: those that wait, and those with a line's transaction. -/
def heldReqs (s : State) : List Req := s.mem.reqs ++ s.mem.txns.filterMap (·.req)

/-- A WRITE or a WRITE_ACK. -/
def Msg.isWrite (m : Msg) : Bool := m.hdr.type == tWRITE || m.hdr.type == tWRITE_ACK

/-- R281, Table LSA-5: whether an earlier request of the same source and class keeps a READ or a write back: two writes are observed in
issue order, and a READ and a write of overlapping bytes do not pass each other. -/
def orderBlocked (s : State) (r : Req) : Bool :=
  (heldReqs s).any fun q => q.arr < r.arr && q.stage != .fence && q.msg.hdr.src == r.msg.hdr.src && q.msg.hdr.sint == r.msg.hdr.sint
    && q.msg.hdr.tc == r.msg.hdr.tc
    && ((q.msg.isWrite && r.msg.isWrite)
      || (((q.msg.isWrite && r.msg.hdr.type == tREAD) || (q.msg.hdr.type == tREAD && r.msg.isWrite))
        && overlap (msgAddr q.msg) (msgLen q.msg) (msgAddr r.msg) (msgLen r.msg)))

/-- R256, R265: how a forwarded request ends: with its home lost where the lender is dead on the route or does not host the extent. -/
def lenderStatus (st : Nat) : Nat := if st = stTARGET_DEAD ∨ st = stPORT_DOWN ∨ st = stNOT_HOSTED then stHOME_LOST else st

/-- Make the requests of a stage ready to go on. -/
def wake (p : Req → Bool) (s : State) : State :=
  modMem s fun m => { m with reqs := m.reqs.map fun r => if p r then { r with stage := .ready } else r }

/-- A device-chosen REQ_ID. -/
def freshId (s : State) : Nat × State :=
  (s.mem.nextId % 65536, modMem s fun m => { m with
    nextId := (m.nextId + 1) % 65536, lateIds := m.lateIds.filter (·.1 != m.nextId % 65536) })

/-- The partition of a request that came through the fabric (R394): header bits [14:11]. -/
def reqPart (m : Msg) : Nat := m.hdr.vep

/-- R235: the operation of a conjunction unit that a request carries. -/
def findOp (s : State) (n id : Nat) : Option CmbOp := (cmbOf s n).ops.find? (·.id == id)

/-- Replace an operation. -/
def putOp (n : Nat) (o : CmbOp) (s : State) : State :=
  modCmb s n fun c => { c with ops := c.ops.map fun x => if x.id = o.id then o else x }

/-- The outcome of an operation at its home becomes known for each member. -/
def opDone (n id st : Nat) (olds : List Bytes) (s : State) : State :=
  match findOp s n id with
  | none => s
  | some o =>
    putOp n { o with results := some ((List.range o.members.length).map fun i => (st, (olds[i]?).getD [])) } s

/-- R444: the collector of the region that an access is for. -/
def Asker.flt : Asker → Nat
  | .bob b _ => 0x10 + b / 256
  | .qp n _ => 0x20 + n / 2048
  | .host c _ => 0x30 + c / 4

/-- The counter of a dropped reply: that of R325 for a placement that DRAIN ended, else that of R431. -/
def lateReply (w : Asker) (s : State) : State :=
  match w with
  | .qp q j =>
    if j % 8 = 6 ∧ s.sht.late.contains (q, j / 8) then
      bump { s with sht := { s.sht with late := s.sht.late.erase (q, j / 8) } } (SHT_LATE_DROPS (q / 2048))
    else bump s (FLT_LATE_DROPS w.flt)
  | _ => bump s (FLT_LATE_DROPS w.flt)

/-- An access of a unit has its outcome. One whose asker has gone is dropped and counted (R431). -/
def farDone (id st : Nat) (data : Bytes) (s : State) : State :=
  match s.mem.far.find? (·.id == id) with
  | none => s
  | some f =>
    if f.dead then lateReply f.who (modMem s fun m => { m with far := m.far.filter (·.id != id) })
    else modMem s fun m => { m with far := m.far.map fun x => if x.id = id then { x with reply := some (st, data) } else x }

/-- An access of a unit stays unanswered: it ends with a dead target (R296). -/
def farLost (id : Nat) (s : State) : State :=
  modMem s fun m => { m with far := (m.far.filter fun f => !(f.id == id && f.dead)).map fun f =>
    if f.id = id then { f with reply := some (stTARGET_DEAD, []) } else f }

/-- A request ends: an operation's outcome becomes known, or that of an access of a unit; any other is answered, with its joined reads
(R233). A READ that the conjunction unit counted is answered by it (R424). -/
def finish (r : Req) (st : Nat) (data : Option Bytes) (s : State) : State :=
  match r.op, r.dev with
  | some id, _ => opDone r.prg id st [] (countTier r.prg st s)
  | none, some id => farDone id st (data.getD []) (countTier r.prg st s)
  | none, none =>
    let s := countTier r.prg st s
    let s := answer r.prg r.msg st data (if r.merged then bump s (G_PROGRESS grCMB r.prg 0) (1 + r.more.length) else s)
    r.more.foldl (fun s m => answer r.prg m st data (countTier r.prg st s)) s

/-! ### Service at a home of this device -/

/-- R259: send sector `i` of a move to its destination on another switch: a WRITE_ACK of the move. -/
def moveSend (v : Move) (i : Nat) (d : Option Bytes) (s : State) : State :=
  let (id, s) := freshId s
  let s := putMove s { v with unacked := v.unacked ++ [id] }
  let m : Msg := ⟨{ type := tWRITE_ACK, sint := true, tc := 3, vep := v.part, dint := true, dst := v.dstSw * 4096,
                    src := ownId s * 4096, reqId := id, gen := v.gen }, movePay s v i d⟩
  let s := modMem s fun x => { x with devReqs := x.devReqs ++ [⟨id, v.gen, 1, v.addr, s.tim.ref⟩] }
  emit (.hub (homeHub (v.src.getD 0))) m s

/-- R257, R259: sector `i` of a move: read at the source, or zero for a fill, and put in place at the destination. -/
def moveSector (v : Move) (i : Nat) (raw : Bytes) (s : State) : State :=
  let (d, s) := match v.src with
    | some b => moveRead v b i raw s
    | none => (some (zeros (moveBytes v i)), s)
  if v.dstSw = ownId s then movePut v i d s else moveSend v i d s

/-- R259: after a write at `p`, mirror the written sectors that were copied already, in the order in which the source applied them. -/
def mirror (p n : Nat) (s : State) : State :=
  match moveAtSrc s p with
  | none => s
  | some v =>
    match v.src with
    | none => s
    | some b =>
      let lo := (p - b) / 256
      let hi := (p - b + n - 1) / 256
      (List.range (hi - lo + 1)).foldl (fun s k =>
        match moveAtSrc s p with
        | some v => if lo + k < v.next then moveSector v (lo + k) [] s else s
        | none => s) s

/-- R233: the data of a READ of a SHARED_RO object stays in the combine buffer of its unit. -/
def keepShared (r : Req) (d : Bytes) (s : State) : State :=
  match objAt s (msgAddr r.msg % 2 ^ 52) with
  | some i =>
    if (objOf s i).sharedRo && r.msg.hdr.type == tREAD && r.msg.hdr.op == 0 && r.dev.isNone then keepRead r.prg (msgAddr r.msg) (msgLen r.msg) d s else s
  | none => s

/-- R181, R284: one atomic operation of a unit of this device. -/
def serveAtomic (r : Req) (part : Nat) (enc : Bool) (p : Nat) (s : State) : State :=
  let w := atomWidth r.msg.hdr.op
  let (st, old, s) := memRead part p w s
  if st ≠ stOK then finish r st none s else
  let (st, s) := memWrite part enc p (atomNew r.msg.hdr.op old (atomArg r.msg) (atomArg2 r.msg)) s
  finish r st (some old) (mirror p w s)

/-- Serve a request at physical address `p` of this device, under partition `part` (R248, R249, R284). A write drops the combine-buffer
entries that it overlaps before it is applied (R298). A CRYPT request of a partition without a key ends with ACCESS (R406, R408), and safe
state blocks what writes (R423). -/
def serve (r : Req) (part : Nat) (enc : Bool) (p : Nat) (s : State) : State :=
  let h := r.msg.hdr
  if enc && keyState s part == 0 then finish r stACCESS none s
  else if s.flt.safe && h.type != tREAD then holdReq r .safe s
  else if h.type = tREAD then
    let (st, d, s) := memRead part p (msgLen r.msg) s
    if st = stOK then finish r stOK (some d) (keepShared r d s) else finish r st none s
  else if h.type = tATOMIC then
    match r.op with
    | none => serveAtomic r part enc p s
    | some id =>
      match findOp s r.prg id with
      | none => s
      | some o =>
        let w := atomWidth o.op
        let (st, old, s) := memRead part p w s
        if st ≠ stOK then finish r st none s else
        let (new, olds) := batchApply o.op old (o.members.map (·.2))
        let (st, s) := memWrite part enc p new s
        opDone r.prg id st olds (mirror p w (countTier r.prg st s))
  else
    let (st, s) := memWrite part enc p (msgData r.msg) (dropReads (msgAddr r.msg) (msgLen r.msg) s)
    finish r st none (mirror p (msgLen r.msg) s)

/-! ### Coherence (R287 to R295) -/

/-- The domain that covers a local object-window address. -/
def coverDom (s : State) (a : Nat) : Option Nat :=
  (s.mem.doms.find? fun e => e.2.ranges.any fun r => r.1 ≤ a / 2 ^ 30 && a / 2 ^ 30 < r.1 + r.2).map (·.1)

/-- R288: whether an object is covered. -/
def objCovered (s : State) (o : Obj) : Bool :=
  (List.range (objFrames o)).any fun i => (coverDom s ((o.firstFrame + i) * 2 ^ 30)).isSome

/-- The directory slice of a line, named by its local object-window address. -/
def lineSlice (s : State) (a : Nat) : Nat :=
  match objAt s a with
  | some i => let o := objOf s i
              let x := extOf s (extAt o (objOff o a))
              sliceOf (x.phys + (objOff o a - x.off))
  | none => sliceOf a

/-- R420: a coherence source of the line's slice fires; a new setting acts on the partition of the domain that covers the line. -/
def cohRaise (f : Src) (l : Nat) (s : State) : State :=
  let u := lineSlice s (64 * l)
  let mask := match (coverDom s (64 * l)).bind (sfind s.mem.doms) with
    | some d => 2 ^ d.part
    | none => 0
  let s := if stickySet s f u then s
    else { s with flt := { s.flt with acts := sset (fun _ => 0) s.flt.acts (f.key u) mask } }
  raise f u s

/-- R294: the set of a line within its slice: P[40:12] and P[7:6], modulo 2^20 (DESIGN CHOICE, log entry 10). -/
def lineSet (s : State) (a : Nat) : Nat :=
  match objAt s a with
  | some i => let o := objOf s i
              let x := extOf s (extAt o (objOff o a))
              let p := x.phys + (objOff o a - x.off)
              (bits p 40 12 * 4 + bits p 7 6) % 2 ^ 20
  | none => 0

/-- A line's record. -/
def dirOf (s : State) (l : Nat) : Option DirLine := sfind s.mem.dir l

/-- Set a line's record; no holder is I. -/
def setDir (l : Nat) (owned : Bool) (hs : List Nat) (s : State) : State :=
  match hs with
  | [] => modMem s fun m => { m with dir := sdel m.dir l }
  | _ =>
    let age := match dirOf s l with
      | some d => d.age
      | none => s.mem.age
    modMem s fun m => { m with dir := sput m.dir l ⟨owned, hs, age⟩, age := m.age + 1 }

/-- The holders of a line. -/
def holders (s : State) (l : Nat) : List Nat :=
  match dirOf s l with
  | some d => d.holders
  | none => []

/-- SNP_LIMIT in ns. -/
def snpLimit (s : State) : Nat := 1000 * rdF s DIR_COH_LIMITS DIR_COH_LIMITS_SNP_LIMIT

/-- Send a snoop to an agent: OP 1 SNP_INV, 2 SNP_SHARE (R290). -/
def sendSnoop (l op agent : Nat) (s : State) : State :=
  let sl := lineSlice s (64 * l)
  emit .home ⟨{ type := tSNP, sint := true, tc := 3, dst := agent, src := ownId s * 4096, op := op },
    leBytes 8 (ownId s * 2 ^ 52 + 64 * l)⟩ (bump s (DIR_SNOOPS sl))

/-- Begin a line's transaction: snoop agents. -/
def startTxn (l : Nat) (r : Option Req) (op : Nat) (ask stay : List Nat) (s : State) : State :=
  let lim := s.tim.ref + snpLimit s
  let s := modMem s fun m => { m with txns := m.txns ++ [⟨l, r, op, ask.map (fun x => (x, lim)), stay, none, [], [], false⟩] }
  ask.foldl (fun s x => sendSnoop l op x s) s

/-- The current transaction of a line. -/
def txnOf (s : State) (l : Nat) : Option LineTxn := s.mem.txns.find? (·.line == l)

/-- Replace a line's transaction. -/
def putTxn (t : LineTxn) (s : State) : State :=
  modMem s fun m => { m with txns := m.txns.map fun x => if x.line = t.line then t else x }

/-- Write a whole line of an object at its home. -/
def writeLine (l : Nat) (d : Bytes) (s : State) : State :=
  match objAt s (64 * l) with
  | some i =>
    let o := objOf s i
    let x := extOf s (extAt o (objOff o (64 * l)))
    let p := x.phys + (objOff o (64 * l) - x.off)
    mirror p 64 (memWrite o.part o.crypt p d s).2
  | none => s

/-- R292: write the line with POISON. -/
def poisonLine (l : Nat) (s : State) : State :=
  match objAt s (64 * l) with
  | some i =>
    let o := objOf s i
    let x := extOf s (extAt o (objOff o (64 * l)))
    let p := x.phys + (objOff o (64 * l) - x.off)
    poisonSector o.part (p / 256) (2 ^ (p / 64 % 4)) s
  | none => s

/-- R288: the domain that covers a line, if COH_DOMAIN_CLEAR sweeps it (R295). -/
def sweepingDom (s : State) (l : Nat) : Bool :=
  match (coverDom s (64 * l)).bind (sfind s.mem.doms) with
  | some d => d.sweeping
  | none => false

/-- R295: a line that gets a record while its domain is swept receives SNP_INV like the others. -/
def sweepLine (l : Nat) (s : State) : State :=
  if sweepingDom s l && !(holders s l).isEmpty && (txnOf s l).isNone then startTxn l none 1 (holders s l) [] s else s

/-- Grant a coherent read to Q (Table LSA-8): data from memory unless `bare`; the record after it. -/
def grant (r : Req) (l st : Nat) (owned : Bool) (hs : List Nat) (bare : Bool) (s : State) : State :=
  if bare then finish r st none (setDir l owned hs s)
  else
    let (e, d, s) := memRead (objOf s (extOf s r.ext).obj).part r.phys 64 s
    if e = stOK then finish r st (some d) (setDir l owned hs s) else finish r e none s

/-- R294: the line to evict before a new entry is made for `l`: the oldest of a full set, if it has no transaction. -/
def victim (s : State) (l : Nat) : Option Nat :=
  let same := s.mem.dir.filter fun e =>
    lineSlice s (64 * e.1) == lineSlice s (64 * l) && lineSet s (64 * e.1) == lineSet s (64 * l) && e.1 != l
  if same.length < 16 then none
  else (same.foldl (fun (b : Option (Nat × DirLine)) e => match b with
    | none => some e
    | some x => if e.2.age < x.2.age then some e else b) none).map (·.1)

/-- Requests that waited for a line go on. -/
def wakeLine (l : Nat) (s : State) : State := wake (fun r => r.stage == .line l) s

/-- R290: a coherent READ from member Q on a line without a transaction. One that waits for an eviction keeps its line (`lineBusy`); its
crossing is counted once (R292). -/
def coherentRead (r : Req) (l : Nat) (s : State) : State :=
  let q := r.msg.hdr.src
  let sl := lineSlice s (64 * l)
  let op := r.msg.hdr.op
  let s := if op ≠ 3 ∧ (holders s l).contains q then setDir l false ((holders s l).filter (· != q)) s else s
  let hs := holders s l
  let owned := match dirOf s l with
    | some d => d.owned
    | none => false
  let others := hs.filter (· != q)
  let holder := hs.contains q
  let s := if op = 3 ∧ !holder ∧ !r.crossed then bump s (DIR_EVICT_CROSS sl) else s
  let r := { r with crossed := r.crossed || (op == 3 && !holder) }
  let room := match dirOf s l with
    | some _ => none
    | none => victim s l
  match room with
  | some v =>
    let s := holdReq r (.line v) s
    if (txnOf s v).isSome then s
    else startTxn v none 1 (holders s v) [] (bump s (DIR_FILTER_EVICT sl))
  | none =>
    if op = 1 then
      if hs.isEmpty then wakeLine l (grant r l stOK_E true [q] false s)
      else if owned then startTxn l (some r) 2 others [] s
      else wakeLine l (grant r l stOK_S false (hs ++ [q]) false s)
    else if op = 3 ∧ holder then
      if others.isEmpty then wakeLine l (grant r l stOK_E true [q] true s)
      else startTxn l (some r) 1 others [q] s
    else if others.isEmpty then wakeLine l (grant r l stOK_E true [q] false s)
    else startTxn l (some r) 1 others [] s

/-- A line's transaction has all its answers: the record is set, its request is granted or goes on, and waiting requests with it. -/
def endTxn (t : LineTxn) (s : State) : State :=
  let s := modMem s fun m => { m with txns := m.txns.filter (·.line != t.line) }
  let s := progress (setDir t.line false t.stay s) grDIR (lineSlice s (64 * t.line))
  let s := match t.req with
    | none => s
    | some r =>
      if t.poisoned then finish r stTIER_FAILED none s
      else if r.msg.hdr.type = tREAD ∧ r.msg.hdr.op ≠ 0 then
        let q := r.msg.hdr.src
        if r.msg.hdr.op = 1 then grant r t.line stOK_S false (t.stay ++ [q]) false s
        else grant r t.line stOK_E true [q] (r.msg.hdr.op == 3 && t.stay.contains q) s
      else holdReq r .ready s
  sweepLine t.line (wakeLine t.line s)

/-- End a line's transaction once nothing is awaited. -/
def tryEndTxn (l : Nat) (s : State) : State :=
  match txnOf s l with
  | some t => if t.ask.isEmpty ∧ t.wbs.isEmpty then endTxn t s else s
  | none => s

/-- The lines of `n` bytes at a local address. -/
def spanLines (a n : Nat) : List Nat := (List.range (cdiv (a % 64 + n) 64)).map (a / 64 + ·)

/-- R293: the first line of an uncached access to covered lines that must be snooped, and how: OP 2 for a read of an owned line, OP 1 for a
write or atomic on a held line. -/
def snoopNeedAt (s : State) (read : Bool) (a n : Nat) : Option (Nat × Nat) :=
  if read then
    ((spanLines a n).find? fun l => match dirOf s l with | some d => d.owned | none => false).map fun l => (l, 2)
  else ((spanLines a n).find? fun l => !(holders s l).isEmpty).map fun l => (l, 1)

/-- R293 for a request. -/
def snoopNeed (s : State) (m : Msg) : Option (Nat × Nat) := snoopNeedAt s (m.hdr.type == tREAD) (msgAddr m % 2 ^ 52) (msgSpan m)

/-- Whether a request names a line. -/
def Req.names (r : Req) (l : Nat) : Bool := (spanLines (msgAddr r.msg % 2 ^ 52) (msgSpan r.msg)).contains l

/-- R289: a line of an access that has a transaction, or that a request which arrived before number `arr` has: one with a transaction on
another of its lines, or one that waits for a line or is about to go on from there. -/
def lineBusyAt (s : State) (arr a n : Nat) : Option Nat :=
  (spanLines a n).find? fun l => s.mem.txns.any (fun t => t.line == l || t.req.any (·.names l))
    || s.mem.reqs.any fun q => q.arr < arr && q.due != 0 && q.names l && (match q.stage with | .line _ => true | .ready => true | _ => false)

/-- R289 for a request. -/
def lineBusy (s : State) (r : Req) : Option Nat := lineBusyAt s r.arr (msgAddr r.msg % 2 ^ 52) (msgSpan r.msg)

/-! ### Trays and lenders -/

/-- The tags of a CXL port in use. -/
def tagsUsed (s : State) (c : Nat) : List Nat :=
  s.mem.reqs.flatMap (fun r => match r.stage with
    | .tray c' ts => if c' = c then ts else []
    | _ => []) ++ (s.mem.lateTags.filter (·.1 == c)).map (·.2.1)

/-- The lowest `n` free tags of 1,024 (R353); none while there are not so many. -/
def freeTags (s : State) (c n : Nat) : Option (List Nat) :=
  let used := tagsUsed s c
  let free := ((List.range 1024).filter fun t => !used.contains t).take n
  if free.length = n then some free else none

/-- The tray lines of a request (R250). -/
def reqLines (r : Req) : Nat := trayLines (r.msg.hdr.type != tREAD) r.phys (msgSpan r.msg)

/-- Send a request's lines to its tray, or let it wait for tags (R353). -/
def trayIssue (r : Req) (c : Nat) (s : State) : State :=
  match freeTags s c (reqLines r) with
  | some ts => holdReq r (.tray c ts) (bump s (CXP_REQ_TX c) ts.length)
  | none => holdReq r (.tagWait c) s

/-- What a tray's port makes of a request: it ends with a fence or a link that is down (R354), or waits for the end of an engine reset (R35);
none: it goes on. -/
def atTray (r : Req) (c : Nat) (s : State) : Option State :=
  if blockFenced s grCXP c then some (finish r stFENCED none s)
  else if engineResetting s grCXP c then some (holdReq r (.engine grCXP c) s)
  else if !trayUp s c then some (finish r stTIER_FAILED none s)
  else none

/-- A request at its tray's port. -/
def toTray (r : Req) (c : Nat) (s : State) : State :=
  match atTray r c s with
  | some s => s
  | none => trayIssue r c s

/-- The message that forwards a request to the lender of its home (R254, R267); `retry` marks a batch sent again (R236). -/
def lenderMsg (s : State) (r : Req) (x : Ext) (id : Nat) (retry : Bool) : Msg :=
  let h := r.msg.hdr
  let pay := leBytes 8 (x.home * 2 ^ 52 + r.phys) ++ (match r.op with
    | some oid => match findOp s r.prg oid with
      | some o => zeros 8 ++ batchArg o.op (o.members.map (·.2))
      | none => []
    | none => r.msg.pay.drop 8)
  ⟨{ h with type := (if h.type = tWRITE then tWRITE_ACK else h.type), sint := true, dint := true, retry := retry,
            dst := x.home * 4096, src := ownId s * 4096, vep := (objOf s x.obj).part, reqId := id, gen := r.gen }, pay⟩

/-- R254, R267: forward a request to the lender of its home; without a route the home is lost to it. -/
def toLender (r : Req) (x : Ext) (s : State) : State :=
  let (id, s) := freshId s
  let m := lenderMsg s r x id false
  if hasRoute s (.hub (entryHub r.prg)) m.hdr then
    holdReq r (.lender id) (emit (.hub (entryHub r.prg)) m s)
  else finish r stHOME_LOST none (deadTarget s (4 * entryHub r.prg) m.hdr)

/-! ### The way of a request -/

/-- Whether an accepted write to an object is neither applied nor ended (R301). -/
def writesOpen (s : State) (i : Nat) : Bool :=
  (heldReqs s).any fun r => r.msg.isWrite && r.accepted && (extOf s r.ext).obj == i

/-- A channel of a T0 range that takes no request now: in an engine reset, or not enabled (Table CTL-3). -/
def channelReset (s : State) (p n : Nat) : Option Nat :=
  ((List.range (n / 64 + 2)).filter fun i => i == 0 || p / 64 * 64 + 64 * i < p + n).map (fun i => channelOf (p / 64 * 64 + 64 * i))
    |>.find? (unitHeld s grHBC)

/-- R422, R35: what a fence of the channels, or one that takes no request now, makes of a request on a T0 range: it ends, or waits; none goes on. -/
def atChannel (r : Req) (p : Nat) (s : State) : Option State :=
  if channelFenced s p (msgSpan r.msg) then some (finish r stFENCED none s)
  else match channelReset s p (msgSpan r.msg) with
    | some u => some (holdReq r (.engine grHBC u) s)
    | none => none

/-- The last steps of a request: its tier. -/
def atTier (r : Req) (i : Nat) (s : State) : State :=
  let x := extOf s r.ext
  let o := objOf s i
  if x.tier = 0 then match atChannel r r.phys s with
    | some s => s
    | none => serve r o.part o.crypt r.phys s
  else if x.tier = 1 then toLender r x s
  else toTray r (trayPort r.phys) s

/-- Coherence of a request on a covered line: a coherent READ by Table LSA-8; others snoop first (R293). -/
def atLine (r : Req) (i : Nat) (s : State) : State :=
  let m := r.msg
  let a := msgAddr m % 2 ^ 52
  let coh := m.hdr.type == tREAD && m.hdr.op != 0
  match coverDom s a with
  | none => if coh then finish r stACCESS none s else atTier r i s
  | some d =>
    let member := match sfind s.mem.doms d with
      | some x => x.members.contains m.hdr.src && !m.hdr.sint
      | none => false
    if coh && !member then finish r stACCESS none s
    else if blockFenced s grDIR (lineSlice s a) then finish r stFENCED none s
    else if unitHeld s grDIR (lineSlice s a) then holdReq r (.engine grDIR (lineSlice s a)) s
    else if coh && sweepingDom s (a / 64) then holdReq r (.sweep d) s
    else match lineBusy s r with
      | some l => holdReq r (.line l) s
      | none =>
        match atChannel r r.phys s with
        | some s => s
        | none =>
          if coh then coherentRead r (a / 64) s
          else match snoopNeed s m with
            | some (l, op) => startTxn l (some r) op (holders s l) [] s
            | none => atTier r i s

/-- R233: a READ of a SHARED_RO object at its conjunction unit: answered from the buffer, joined to an identical read that is
outstanding, or its own. -/
def combineRead (r : Req) (i : Nat) (s : State) : State :=
  let o := objOf s i
  if r.msg.hdr.type ≠ tREAD ∨ r.msg.hdr.op ≠ 0 ∨ !o.sharedRo ∨ r.dev.isSome then atLine r i s else
  let n := r.prg
  let s := if r.merged then s else bump s (CMB_READS_IN n)
  let r := { r with merged := true }
  if readWindow s n = 0 then atLine r i s else
  let a := msgAddr r.msg
  let len := msgLen r.msg
  match (cmbOf s n).bufs.find? fun b => b.addr == a && b.len == len with
  | some b => finish r stOK (some b.data) (bump s (CMB_READS_MERGED n))
  | none =>
    match s.mem.reqs.find? fun q => q.prg == n && q.msg.hdr.type == tREAD && q.msg.hdr.op == 0 && msgAddr q.msg == a
        && msgLen q.msg == len && q.op.isNone && q.dev.isNone && pastLookup q with
    | some q =>
      bump (modMem s fun m => { m with reqs := m.reqs.map fun y => if y.arr = q.arr then { y with more := y.more ++ [r.msg] } else y })
        (CMB_READS_MERGED n)
    | none => atLine r i s

/-- R252: the lookup of a request is complete: its extent, GEN, tier and place. Its deadline runs from the first one
(DEDUCED, log entry 124). -/
def lookedUp (s : State) (r : Req) (e p : Nat) : Req :=
  let x := extOf s e
  { r with ext := e, gen := x.gen, tier := x.tier, phys := p, legacy := x.legacy,
           due := if r.due = 0 then s.tim.ref + tierDeadline s (entryHub r.prg) x.tier else r.due }

/-- R301: whether a publication holds a request on an object: a write from the guard interval on, a grantee's read while writes accepted
before it are open. -/
def pubHolds (s : State) (r : Req) (i : Nat) : Bool :=
  if r.msg.isWrite then !r.accepted && s.mem.reserved.any fun x => x.2.2.2 == i
  else r.msg.hdr.type == tREAD && (objOf s i).part != reqPart r.msg && writesOpen s i

/-- The lookup of a request: one that is past it keeps its extent, whatever becomes of its object (R257). -/
def lookOnce (s : State) (r : Req) (u : Use) : Look :=
  if r.due ≠ 0 then
    let x := extOf s r.ext
    .ok x.obj r.ext (x.phys + (objOff (objOf s x.obj) (msgAddr r.msg % 2 ^ 52) - x.off))
  else lookRightsOf r.accepted s (reqPart r.msg) u (msgAddr r.msg % 2 ^ 52) (msgSpan r.msg)

/-- R252: a request past its form checks: rights, holds, the extent cache, the extent's state, and its service. A write that a publication
holds has not passed its rights (R301). -/
def process (r : Req) (s : State) : State :=
  let m := r.msg
  let a := msgAddr m
  let hub := entryHub r.prg
  let u := if m.hdr.type = tREAD then Use.read else if m.hdr.type = tATOMIC then .atomic else .write
  if partFenced s (reqPart m) || blockFenced s grMRG hub then finish r stFENCED none s else
  if s.flt.safe && u != .read then holdReq r .safe s else
  if unitHeld s grMRG hub then holdReq r (.engine grMRG hub) s else
  match lookOnce s r u with
  | .err st => finish r st none s
  | .ok i e p =>
    let r := { r with ext := e, accepted := r.accepted || u == .read }
    if pubHolds s r i then holdReq r (.pub i) s else
    let r := { r with accepted := true }
    if !r.looked ∧ !s.mem.hcache.contains (hub, e) then
      holdReq { r with looked := true } (.fetch hub e) (bump s (MRG_HOME_MISSES hub))
    else
      let s := if r.looked then s else bump s (MRG_HOME_HITS hub)
      let r := { r with looked := true }
      if s.mem.guarded.contains e ∨ s.mem.moves.any (fun v => v.ext == some e && v.phase == 1) then holdReq r (.drain e) s
      else match lookState s u e with
        | some st => finish r st none s
        | none =>
          let s := if r.due = 0 then progress s grMRG hub else s
          let r := lookedUp s r e p
          if orderBlocked s r then holdReq r .order s
          else combineRead r i (if u = .write ∧ (objOf s i).sharedRo then dropReads a (msgLen m) s else s)

/-! ### Requests between switches (R240, R255, R267) -/

/-- The state of a hosted entry (R255). -/
def hsHOSTED : Nat := 0
def hsINCOMING : Nat := 1
def hsOUTGOING : Nat := 2
def hsDOUBT : Nat := 3

/-- The lease that covers a T0 range. -/
def leaseAt (s : State) (p n : Nat) : Option Lease :=
  s.mem.leases.find? fun l => t0Addr l.base ≤ p && p + n ≤ t0Addr l.base + l.gib * 2 ^ 30

/-- Whether a WRITE_ACK brings a sector of a move: its payload is that of `movePay` (log entry 99). -/
def moveSectorMsg (m : Msg) : Bool := m.hdr.type == tWRITE_ACK && m.pay.length == 33 + msgLen m

/-- R255, R267: a request of another switch on a hosted extent, or into one that comes in from its registrar or the source of its
move. A sector of a move for a partition that was retired here finds no entry and is dropped (R411). -/
def hostedReq (r : Req) (p n : Nat) (s : State) : State :=
  let m := r.msg
  let from_ := m.hdr.src / 4096
  let here := fun (h : Hosted) => h.phys ≤ p && p + n ≤ h.phys + h.len && h.gen == m.hdr.gen
  match s.mem.hosted.find? fun h => h.state == hsINCOMING && here h && (h.from_ == from_ || h.registrar == from_) with
  | some h =>
    if m.hdr.type = tWRITE_ACK then
      let s := moveArrive h.part h.enc h.phys h.len p n m.pay s
      finish r stOK none (modMem s fun x => { x with hosted := x.hosted.map fun y =>
        if y = h then { y with got := max y.got ((p - h.phys) / 256 + 1) } else y })
    else finish r stNOT_HOSTED none s
  | none =>
    if (match leaseAt s p n with | some l => l.borrower != from_ | none => false) then finish r stACCESS none s
    else match s.mem.hosted.find? fun h => (h.state == hsHOSTED || h.state == hsOUTGOING) && here h && h.registrar == from_ with
      | some h => serve r h.part h.enc p s
      | none => if moveSectorMsg m && partState s m.hdr.vep != 1 then bump s SEC_RETIRE_DROPS else finish r stNOT_HOSTED none s

/-- R240: a request on a physical window, which only another switch may make: a borrower under a lease, or the source of a move that
comes to this registrar. -/
def physReq (r : Req) (s : State) : State :=
  let m := r.msg
  let p := msgAddr m % 2 ^ 52
  let n := msgSpan m
  let from_ := m.hdr.src / 4096
  if !(m.hdr.sint && m.hdr.src % 4096 == 0) || !(bit p 50 || isTray p) then finish r stACCESS none s else
  let hub := entryHub r.prg
  if (partFenced s (reqPart m) && !moveSectorMsg m) || blockFenced s grMRG hub then finish r stFENCED none s else
  if s.flt.safe && m.hdr.type != tREAD then holdReq r .safe s else
  if unitHeld s grMRG hub then holdReq r (.engine grMRG hub) s else
  if orderBlocked s r then holdReq r .order s else
  match (if isTray p then atTray r (trayPort p) s else atChannel r p s) with
  | some s => s
  | none =>
    let s := progress s grMRG hub
    let s := if isTray p then bump s (CXP_REQ_TX (trayPort p)) (trayLines (m.hdr.type != tREAD) p n) else s
    match s.mem.moves.find? fun v => v.dstSw == ownId s && v.src.isNone && v.dst ≤ p && p + n ≤ v.dst + v.len && v.gen == m.hdr.gen
        && v.ext.any (fun e => (extOf s e).home == from_) with
    | some v =>
      if m.hdr.type = tWRITE_ACK then
        let s := moveArrive v.part v.enc v.dst v.len p n m.pay s
        finish r stOK none (putMove s { v with got := max v.got ((p - v.dst) / 256 + 1) })
      else finish r stNOT_HOSTED none s
    | none => hostedReq r p n s

/-- A request goes on: on an object address, or on a physical window. -/
def goOn (r : Req) (s : State) : State := if 2 ^ 50 ≤ msgAddr r.msg % 2 ^ 52 then physReq r s else process r s

/-! ### Atomics at the conjunction unit (R234 to R236, R285) -/

/-- R234: the kind under which atomics combine. -/
def atomKind (op : Nat) : Nat := if op = 0x03 then 2 else if op ≤ 0x02 then 1 else if op < 0x20 then 3 else 0

/-- Whether the unit combines an operation (ATOMIC_EN). -/
def combinable (s : State) (n : Nat) (m : Msg) : Bool :=
  let k := atomKind m.hdr.op
  let en := rdF s (CMB_CTL n) CMB_CTL_ATOMIC_EN
  if k = 1 then bit en 0 else if k = 2 then bit en 1 else if k = 3 then bit en 2 else false

/-- BATCH_MAX, 1 to 64. -/
def batchMax (s : State) (n : Nat) : Nat := max 1 (min 64 (rdF s (CMB_CTL n) CMB_CTL_BATCH_MAX))

/-- R234: members by port index, then virtual endpoint, then arrival. The virtual endpoint of a requester that is no endpoint of the port
of this switch (`own`) is not known here: there the arrival decides. -/
def memberKey (own : Nat) (ports : List (Nat × Nat)) (x : Nat × Msg) : Nat :=
  let p := ((ports.find? (·.1 == x.1)).map (·.2)).getD 0
  (16 * p + (if x.2.hdr.src / 16 = 256 * own + p ∧ !x.2.hdr.sint then x.2.hdr.src % 16 else 0)) * 2 ^ 64 + x.1
def insertMember (own : Nat) (ports : List (Nat × Nat)) (x : Nat × Msg) : List (Nat × Msg) → List (Nat × Msg)
  | [] => [x]
  | y :: r => if memberKey own ports x < memberKey own ports y then x :: y :: r else y :: insertMember own ports x r

/-- Pass an operation to the hub: one request carries it to its home. -/
def passOp (n id : Nat) (s : State) : State :=
  match findOp s n id with
  | none => s
  | some o =>
    match o.members with
    | [] => s
    | (arr, m) :: r =>
      let s := if r.isEmpty then s
        else bump (bump s (CMB_BATCHES n)) (CMB_BATCH_MEMBERS n) o.members.length
      let s := putOp n { o with passed := true } s
      goOn { arr := arr, prg := n, msg := m, op := some id } s

/-- R235: pass the open batches that hold a member of this source, ahead of a later request from it. -/
def flushSource (n src : Nat) (s : State) : State :=
  ((cmbOf s n).ops.filter fun o => !o.passed && o.members.any (·.2.hdr.src == src)).foldl (fun s o => passOp n o.id s) s

/-- R285: an entry of the reply cache for a message's key. -/
def rcFind (s : State) (n : Nat) (m : Msg) : Option RcEnt :=
  (cmbOf s n).cache.find? fun e => e.src == m.hdr.src && e.sint == m.hdr.sint && e.gen == m.hdr.gen && e.reqId == m.hdr.reqId

/-- Whether two entries have one key. -/
def rcSame (m : Msg) (e : RcEnt) : Bool :=
  e.src == m.hdr.src && e.sint == m.hdr.sint && e.gen == m.hdr.gen && e.reqId == m.hdr.reqId

/-- R285: make a PENDING entry, evicting the oldest completed one for room; none while all 4,096 are PENDING. -/
def rcCreate (n : Nat) (m : Msg) (s : State) : Option State :=
  let c := cmbOf s n
  let cache := c.cache.filter fun e => !rcSame m e
  let ent : RcEnt := ⟨m.hdr.src, m.hdr.sint, m.hdr.gen, m.hdr.reqId, reqPart m, none, 0⟩
  if cache.length < 4096 then some (setCmb s n { c with cache := cache ++ [ent] })
  else
    let done := cache.filter (·.reply.isSome)
    match done.foldl (fun (b : Option RcEnt) e => match b with
        | none => some e
        | some x => if e.at_ < x.at_ then some e else b) none with
    | some x => some (bump (setCmb s n { c with cache := cache.erase x ++ [ent] }) (CMB_REPLY_EVICT n))
    | none => none

/-- R234, R235, R237: an atomic enters its unit: it opens an operation, joins a batch, or opens one behind an outstanding operation or a
full batch. A request of another kind or partition first passes what is open on the address. -/
def unitAtomic (n arr port : Nat) (m : Msg) (s : State) : State :=
  let a := msgAddr m
  let s := flushSource n m.hdr.src s
  let part := reqPart m
  let fits := fun (o : CmbOp) => o.comb && o.op == m.hdr.op && o.part == part
  let s := ((cmbOf s n).ops.filter fun o => o.addr == a && !o.passed && !fits o).foldl (fun s o => passOp n o.id s) s
  match (cmbOf s n).ops.find? fun o => o.addr == a && !o.passed && fits o && o.members.length < o.cap with
  | some o =>
    let ports := o.ports ++ [(arr, port)]
    putOp n { o with members := insertMember (ownId s) ports (arr, m) o.members, ports := ports } s
  | none =>
    let busy := (cmbOf s n).ops.any fun o => o.addr == a
    let comb := combinable s n m
    let o : CmbOp := ⟨arr, a, m.hdr.op, part, [(arr, m)], false, none, comb, batchMax s n, [(arr, port)]⟩
    let s := modCmb s n fun c => { c with ops := c.ops ++ [o] }
    if busy ∧ comb then s else passOp n arr s

/-- R285: an ATOMIC at its conjunction unit and the reply cache. A request of a fenced partition ends with FENCED (R411), as at a fenced unit;
one that takes no request now holds it (R35, Table CTL-3). -/
def atomicIn (n : Nat) (r : Req) (s : State) : State :=
  let m := r.msg
  if partFenced s (reqPart m) || blockFenced s grCMB n then finish r stFENCED none s
  else if unitHeld s grCMB n then holdReq r (.engine grCMB n) s
  else match rcFind s n m, m.hdr.retry with
  | some e, false =>
    if e.reply.isNone then finish r stAMBIGUOUS none (bump s (CMB_AMBIGUOUS n))
    else match rcCreate n m s with
      | some s => unitAtomic n r.arr r.port m s
      | none => holdReq r .room s
  | none, false =>
    match rcCreate n m s with
    | some s => unitAtomic n r.arr r.port m s
    | none => holdReq r .room s
  | some e, true =>
    match e.reply with
    | some (st, d) => finish r st d (bump s (CMB_REPLY_HITS n))
    | none => holdReq r .retry s
  | none, true => finish r stAMBIGUOUS none (bump s (CMB_AMBIGUOUS n))

/-- R285: a PENDING entry of the key completes. -/
def rcDone (m : Msg) (st : Nat) (data : Option Bytes) (t : Nat) (e : RcEnt) : RcEnt :=
  if rcSame m e && e.reply.isNone then { e with reply := some (st, data), at_ := t } else e

/-- R285: the reply of a member becomes known: its entry completes, it is answered, and so are the retries that wait for it. -/
def replyMember (n : Nat) (m : Msg) (st : Nat) (old : Bytes) (s : State) : State :=
  let data := if st = stOK ∧ m.hdr.op ≠ 0x03 then some old else none
  let s := modCmb s n fun c => { c with cache := c.cache.map (rcDone m st data s.tim.ref) }
  let s := answer n m st data (progress s grCMB n)
  let rs := s.mem.reqs.filter fun r => r.stage == .retry && r.prg == n && r.msg.hdr.src == m.hdr.src && r.msg.hdr.sint == m.hdr.sint
    && r.msg.hdr.gen == m.hdr.gen && r.msg.hdr.reqId == m.hdr.reqId
  rs.foldl (fun s r => answer n r.msg st data (dropReq r.arr (bump s (CMB_REPLY_HITS n)))) s

/-- R234: the oldest operation on an address whose outcome is known returns at the unit: its members are answered, and the open batch
behind it is passed. -/
def returnOp (n a : Nat) (s : State) : State :=
  match (cmbOf s n).ops.find? fun o => o.addr == a && o.passed with
  | none => s
  | some o =>
    match o.results with
    | none => s
    | some rs =>
      let s := modCmb s n fun c => { c with ops := c.ops.filter (·.id != o.id) }
      let s := (o.members.zip rs).foldl (fun s x => replyMember n x.1.2 x.2.1 x.2.2 s) s
      match (cmbOf s n).ops.find? fun x => x.addr == a && !x.passed with
      | some x => passOp n x.id s
      | none => s

/-! ### Snoop answers and write-backs (R291, R292) -/

/-- R292: the limit for an announced WB: 4 µs. -/
def wbLimit : Nat := 4000

/-- R272, R273: what a message to the directory must be: for internal endpoint 0x000, on TC3, with an OP that is not reserved. -/
def toDirOk (m : Msg) : Bool :=
  m.hdr.dint && m.hdr.dst % 4096 == 0 && m.hdr.tc == 3 && (if m.hdr.type = tSNP_RSP then m.hdr.op < 8 else m.hdr.op == 0)

/-- A message that goes to the directory. -/
def Msg.toDir (m : Msg) : Bool := m.hdr.type == tSNP_RSP || m.hdr.type == tWB || m.hdr.type == tEVICT_CLEAN

/-- The line that a message names: its place in the object window of this switch. -/
def msgLine (s : State) (m : Msg) : Nat := if msgAddr m / 2 ^ 52 % 4096 = ownId s then msgAddr m % 2 ^ 52 / 64 else 2 ^ 46

/-- The physical address of a line in T0, if that is its home. -/
def lineT0 (s : State) (l : Nat) : Option Nat :=
  match objAt s (64 * l) with
  | some i =>
    let x := extOf s (extAt (objOf s i) (objOff (objOf s i) (64 * l)))
    if x.tier = 0 then some (x.phys + (objOff (objOf s i) (64 * l) - x.off)) else none
  | none => none

/-- Whether a message to the directory brings data for memory. -/
def Msg.brings (m : Msg) : Bool := m.hdr.type == tWB || (m.hdr.type == tSNP_RSP && bit m.hdr.op 1)

/-- SNP_RSP at the home. -/
def snpRspAt (m : Msg) (s : State) : State :=
  let l := msgLine s m
  let x := m.hdr.src
  match txnOf s l with
  | none => s
  | some t =>
    if !t.ask.any (·.1 == x) then s else
    let t := { t with ask := t.ask.filter (·.1 != x), stay := if bit m.hdr.op 0 then t.stay ++ [x] else t.stay }
    let (t, s) :=
      if bit m.hdr.op 2 ∧ !t.gotWb.contains x then
        ({ t with wbs := t.wbs ++ [(x, s.tim.ref + wbLimit)] }, bump s (DIR_WB_PENDING (lineSlice s (64 * l))))
      else if bit m.hdr.op 2 then (t, bump s (DIR_WB_PENDING (lineSlice s (64 * l))))
      else (t, s)
    tryEndTxn l (putTxn t (if bit m.hdr.op 1 then writeLine l (bslice m.pay 8 64) s else s))

/-- WB at the home, applied on arrival. -/
def wbAt (prg : Nat) (m : Msg) (s : State) : State :=
  let l := msgLine s m
  let q := m.hdr.src
  let s := bump s (DIR_WB (lineSlice s (64 * l)))
  let d := bslice m.pay 8 64
  let cpl := fun (s : State) => answer prg m stOK none s
  let owner := match dirOf s l with
    | some r => r.owned && r.holders.contains q
    | none => false
  match txnOf s l with
  | some t =>
    if t.wbs.any (·.1 == q) then
      tryEndTxn l (putTxn { t with wbs := t.wbs.filter (·.1 != q) } (cpl (writeLine l d s)))
    else if t.ask.any (·.1 == q) then cpl (putTxn { t with gotWb := t.gotWb ++ [q] } (writeLine l d s))
    else if owner then cpl (setDir l false [] (writeLine l d s))
    else cohRaise srcDIR_COH_PROTOCOL l (cpl s)
  | none =>
    if owner then cpl (setDir l false [] (writeLine l d s))
    else cohRaise srcDIR_COH_PROTOCOL l (cpl s)

/-- EVICT_CLEAN at the home. -/
def evictAt (prg : Nat) (m : Msg) (s : State) : State :=
  let l := msgLine s m
  let q := m.hdr.src
  let asked := match txnOf s l with
    | some t => t.ask.any (·.1 == q)
    | none => false
  let s := if (holders s l).contains q ∧ !asked then setDir l false ((holders s l).filter (· != q)) s
    else bump s (DIR_EVICT_CROSS (lineSlice s (64 * l)))
  answer prg m stOK none s

/-- A message for the directory: it waits while the hub, the line's slice or, with data for memory, the line's channel takes no request (R35,
Table CTL-3). In safe state no write is done, and one with data stays where it is (R423). -/
def dirMsg (r : Req) (s : State) : State :=
  let m := r.msg
  let sl := lineSlice s (64 * msgLine s m)
  let ch := if m.brings then (lineT0 s (msgLine s m)).bind fun p => channelReset s p 64 else none
  if s.flt.safe && m.brings then holdReq r .safe s
  else if unitHeld s grMRG (entryHub r.prg) then holdReq r (.engine grMRG (entryHub r.prg)) s
  else if unitHeld s grDIR sl then holdReq r (.engine grDIR sl) s
  else match ch with
    | some u => holdReq r (.engine grHBC u) s
    | none =>
      let s := progress s grMRG (entryHub r.prg)
      if m.hdr.type = tSNP_RSP then snpRspAt m s
      else if m.hdr.type = tWB then wbAt r.prg m s
      else evictAt r.prg m s

/-! ### Requests that wait -/

/-- Whether a new entry finds room in a reply cache. -/
def rcRoom (s : State) (n : Nat) : Bool := (cmbOf s n).cache.length < 4096 || (cmbOf s n).cache.any (·.reply.isSome)

/-- Requests whose reason to wait is gone: the publication's or the engine reset's end, that of an earlier request, a line's transaction, or
the want of room in a reply cache. -/
def unblock (s : State) : State :=
  wake (fun r => match r.stage with
    | .order => !orderBlocked s r
    | .pub i => !pubHolds s r i
    | .engine g u => !unitHeld s g u
    | .line l => (txnOf s l).isNone && (lineBusy s r).isNone
    | .room => rcRoom s r.prg
    | _ => false) s

/-- R23, R31, Table PKG-6: the hub block that a ready request goes to next: the channel of its first block in T0 once it was looked up, the
port of its tray, or the hub where it entered. -/
def nextBlock (r : Req) : Nat :=
  if r.due != 0 && r.tier == 0 then 64 + channelOf r.phys
  else if r.due != 0 && 2 ≤ r.tier then 16 + trayPort r.phys
  else entryHub r.prg

/-- Table PKG-6: the source of a request at a hub: 0 the local fabric die, 1 the local compute die, 2 the ring, 3 a CXL host. -/
def hubSource (s : State) (r : Req) : Nat :=
  if r.due != 0 && homeHub r.phys != entryHub r.prg then 2
  else match r.dev.bind fun id => s.mem.far.find? (·.id == id) with
    | some f => match f.who with
      | .bob _ _ => 1
      | .qp _ _ => 0
      | .host _ _ => 3
    | none => 0

/-- Table PKG-6: the quantum of a block in 64-byte blocks, and what a request takes of it: a channel serves 8 blocks, any other block of a hub
one request. -/
def quantumOf (b : Nat) : Nat := if 64 ≤ b then 8 else 1
def costOf (b : Nat) (r : Req) : Nat := if 64 ≤ b then cdiv (r.phys % 64 + msgSpan r.msg) 64 else 1

/-- The oldest of some requests. -/
def oldest (rs : List Req) : Option Req :=
  rs.foldl (fun (b : Option Req) r => match b with
    | none => some r
    | some x => if r.arr < x.arr then some r else b) none

/-- The request that goes on next: at the block of the oldest ready one, the oldest of the source whose turn it is, or of the next source that
has one ready in increasing order (R23, R31). -/
def nextReady (s : State) : Option Req :=
  let rs := s.mem.reqs.filter (·.stage == .ready)
  match oldest rs with
  | none => none
  | some x =>
    let b := nextBlock x
    let here := rs.filter (nextBlock · == b)
    let (c, left) := sget (fun _ => (3, 0)) s.mem.turns b
    let has := fun (k : Nat) => here.any (hubSource s · == k)
    let src := if left != 0 && has c then some c else ((List.range 4).map fun i => (c + 1 + i) % 4).find? has
    match src with
    | some k => oldest (here.filter (hubSource s · == k))
    | none => some x

/-- A source's turn at a block goes on, or another's begins. -/
def takeTurn (r : Req) (s : State) : State :=
  let b := nextBlock r
  let k := hubSource s r
  let (c, left) := sget (fun _ => (3, 0)) s.mem.turns b
  let left := (if c = k ∧ left ≠ 0 then left else quantumOf b) - costOf b r
  modMem s fun m => { m with turns := sset (fun _ => (3, 0)) m.turns b (k, left) }

/-- A request that waited goes on: an ATOMIC that its conjunction unit has not taken, a message for the directory, or any other. -/
def resume (r : Req) (s : State) : State :=
  if r.msg.toDir then dirMsg r s
  else if r.msg.hdr.type = tATOMIC ∧ r.op.isNone ∧ r.dev.isNone then atomicIn r.prg r s
  else goOn r s

/-- Requests that became ready go on. -/
def pump : Nat → State → State
  | 0, s => s
  | n + 1, s =>
    let s := unblock s
    match nextReady s with
    | none => s
    | some r => pump n (resume r (dropReq r.arr (takeTurn r s)))

/-! ### Fences (R280) -/

/-- A WRITE, WRITE_ACK or ATOMIC that a FENCE orders: in every class, so that shuttle segments are among them. -/
def fenced (h : Hdr) : Bool := h.type == tWRITE || h.type == tWRITE_ACK || h.type == tATOMIC

/-- Whether two headers are of one request of one source; sprayed ones of one flit or message. -/
def sameReq (a b : Hdr) : Bool :=
  a.src == b.src && a.sint == b.sint && a.type == b.type && a.reqId == b.reqId && a.gen == b.gen && a.tc == b.tc
    && (!a.spray || (a.seq == b.seq && a.dst == b.dst))

/-- R280: the requests of a fence's source that have entered this switch for it and not yet left the ground. In the fence's own class the
ground keeps their order, so that those ahead of it are the ones delivered before it; those of another class may all be earlier. -/
def fenceAhead (s : State) (o : Out) (m : Msg) : List Msg :=
  let mine := fun (h : Hdr) => fenced h && h.src == m.hdr.src && h.sint == m.hdr.sint
  let shut := s.ground.delivered.filter fun d => mine d.msg.hdr && d.msg.hdr.isShuttle
  let flying := (allCells s ++ s.ground.waiting).filter fun c => mine c.seg.hdr && c.seg.hdr.isShuttle && forThisSwitch s c.seg.hdr
  let before := (s.ground.delivered.takeWhile fun d => d.msg != m).filter fun d => d.out.code / 16 == o.code / 16 && mine d.msg.hdr
  let after := (s.ground.delivered.dropWhile fun d => d.msg != m).filter fun d =>
    d.out.code / 16 == o.code / 16 && mine d.msg.hdr && d.msg.hdr.tc != m.hdr.tc
  let cells := s.ground.cells.filter fun c => c.seg.hdr.seq == 0 && mine c.seg.hdr && forThisSwitch s c.seg.hdr && c.seg.hdr.tc != m.hdr.tc
  (before ++ after ++ shut).map (·.msg) ++ (cells ++ flying).map fun c => ⟨c.seg.hdr, []⟩

/-- The placements that a source's shuttle segments have brought and that are outstanding, by QPN and PSN. -/
def placesOf (s : State) (src : Nat) : List (Nat × Nat) :=
  s.sht.qps.flatMap fun e => if e.2.peer = src then e.2.places.map fun p => (e.1, p.psn) else []

/-- Whether a placement is outstanding. -/
def placeOpen (s : State) (x : Nat × Nat) : Bool := ((sfind s.sht.qps x.1).getD {}).places.any (·.psn == x.2)

/-- Whether an earlier write or atomic of a fence's source is neither applied nor ended. -/
def fenceWaits (s : State) (f : Req) : Bool :=
  let ahead := fun (h : Hdr) => f.more.any fun m => sameReq m.hdr h
  let same := fun (arr : Nat) (h : Hdr) => h.src == f.msg.hdr.src && h.sint == f.msg.hdr.sint && (arr < f.arr || ahead h)
  (heldReqs s).any (fun r => fenced r.msg.hdr && same r.arr r.msg.hdr)
    || s.mem.cmbs.any (fun c => c.2.ops.any fun o => o.results.isNone && o.members.any fun x => same x.1 x.2.hdr)
    || (allCells s ++ s.ground.waiting).any (fun c => ahead c.seg.hdr) || s.ground.delivered.any (fun d => ahead d.msg.hdr)

/-- Fences that wait for nothing more complete, in order: once the earlier requests are applied or ended, and the earlier shuttle segments
have left the ground, the placements that are outstanding then are the last. -/
def runFences (s : State) : State :=
  (s.mem.reqs.filter fun r => r.stage == .fence).foldl (fun s f =>
    if fenceWaits s f then s else
    let left := (f.places.getD (placesOf s f.msg.hdr.src)).filter (placeOpen s)
    if left.isEmpty then answer f.prg f.msg stOK none (dropReq f.arr s)
    else modMem s fun m => { m with reqs := m.reqs.map fun q => if q.arr = f.arr then { q with places := some left } else q }) s

/-- Let every ready request and every satisfied fence go on. -/
def runReqs (s : State) : State := runFences (pump (4 * s.mem.reqs.length + 4 * s.mem.txns.length + 8) s)

/-! ### Entry -/

/-- R272, R277, R283: the form of a request; none where it holds. -/
def formError (m : Msg) : Option Nat :=
  let h := m.hdr
  let tcOk := if h.type = tATOMIC then h.tc == 4
    else if h.type = tREAD then h.tc == 3 || h.tc == 0
    else h.tc == 3
  if !tcOk ∨ 13 < h.type then some stUNSUPPORTED
  else if h.type = tREAD ∧ 3 < h.op then some stUNSUPPORTED
  else if h.type = tATOMIC ∧ atomWidth h.op = 0 then some stUNSUPPORTED
  else if (h.type = tWRITE ∨ h.type = tWRITE_ACK) ∧ h.op ≠ 0 then some stUNSUPPORTED
  else if h.type = tATOMIC then if msgAddr m % atomWidth h.op = 0 then none else some stALIGN
  else
    let n := msgLen m
    let a := msgAddr m
    if n = 0 ∨ 4096 < n ∨ a / 4096 ≠ (a + n - 1) / 4096 then some stALIGN
    else if h.type = tREAD ∧ h.op ≠ 0 ∧ (n ≠ 64 ∨ a % 64 ≠ 0) then some stALIGN
    else none

/-- A READ, WRITE, WRITE_ACK or ATOMIC for internal endpoint 0x000 of this switch (R273, R277 to R286). An ATOMIC goes through the
conjunction unit and its reply cache, whichever window it names. -/
def fabricReq (prg : Nat) (m : Msg) (s : State) : State :=
  let port := arrivalPort s (unitOut prg m.hdr) prg m
  let s := takeDelivered s (unitOut prg m.hdr) m
  let (arr, s) := nextArr s
  let r : Req := { arr := arr, prg := prg, msg := m, port := port }
  let s := if m.hdr.type = tATOMIC then s else flushSource prg m.hdr.src s
  runReqs (match formError m with
  | some st => finish r st none s
  | none =>
    if !m.hdr.dint || m.hdr.dst % 4096 ≠ 0 || msgAddr m / 2 ^ 52 % 4096 ≠ ownId s then finish r stACCESS none s
    else if m.hdr.type = tATOMIC then atomicIn prg r (bump s (CMB_ATOMICS_IN prg))
    else goOn r s)

/-! ### Accesses of this device's own units (R121, R309, R316, R357) -/

/-- An access that a unit makes: what it is, the address, the bytes it names, its data, and the GEN that it carries to another switch. -/
structure Ask where
  type : Nat
  op : Nat := 0
  a : Nat
  n : Nat
  arg : Bytes := []
  gen : Nat := 0
  deriving DecidableEq, Repr

/-- The message of an access: SRC is internal endpoint 0x000, which takes the replies (R273). -/
def askMsg (s : State) (part id : Nat) (k : Ask) : Msg :=
  ⟨{ type := k.type, op := k.op, sint := true, dint := true, tc := if k.type = tATOMIC then 4 else 3, vep := part,
     dst := k.a / 2 ^ 52 % 4096 * 4096, src := ownId s * 4096, reqId := id, gen := k.gen },
    leBytes 8 k.a ++ (if k.type = tATOMIC then zeros 8 else leBytes 4 k.n ++ zeros 4) ++ k.arg⟩

/-- A unit of region `n` asks for an access: of an object of this switch it is a request like any other, from its lookup on; to another
switch it is sent, and ends at once where there is no route (R296). -/
def ask (who : Asker) (n part : Nat) (k : Ask) (s : State) : State :=
  let (arr, s) := nextArr s
  let put := fun (reply : Option (Nat × Bytes)) (s : State) =>
    let f : FarReq := { id := arr, who := who, type := k.type, op := k.op, a := k.a, n := k.n, arg := k.arg, gen := k.gen, reply := reply }
    modMem s fun m => { m with far := m.far ++ [f] }
  if k.a / 2 ^ 52 % 4096 = ownId s then
    runReqs (goOn { arr := arr, prg := n, msg := askMsg s part 0 k, dev := some arr } (put none s))
  else
    let (id, s) := freshId s
    let m := askMsg s part id k
    if hasRoute s (.region n) m.hdr then
      emit (.region n) m (put none (modMem s fun x => { x with devReqs := x.devReqs ++ [⟨id, k.gen, 5, arr, s.tim.ref⟩] }))
    else put (some (stTARGET_DEAD, [])) (deadTarget s n m.hdr)

/-- The access of an asker that a unit makes now, if it has asked for it: the first like it that the unit has not used (`used`). -/
def farFind (s : State) (who : Asker) (used : List Nat) (k : Ask) : Option FarReq :=
  s.mem.far.find? fun f => !f.dead && f.who == who && f.type == k.type && f.op == k.op && f.a == k.a && f.n == k.n && f.arg == k.arg
    && !used.contains f.id

/-- An asker needs its accesses no more: those that are outstanding end without it (R431). -/
def farDrop (p : Asker → Bool) (s : State) : State :=
  modMem s fun m =>
    let left := m.far.filter fun f => !(p f.who && f.reply.isSome)
    { m with far := left.map fun f => { f with dead := f.dead || p f.who } }

/-- R280: a FENCE. -/
def fenceIn (prg : Nat) (m : Msg) (s : State) : State :=
  let ahead := fenceAhead s (unitOut prg m.hdr) m
  let s := takeDelivered s (unitOut prg m.hdr) m
  let (arr, s) := nextArr s
  let s := flushSource prg m.hdr.src s
  let r : Req := { arr := arr, prg := prg, msg := m, stage := .fence, more := ahead }
  if m.hdr.tc ≠ 3 ∨ m.hdr.op ≠ 0 then runReqs (answer prg m stUNSUPPORTED none s)
  else if !m.hdr.dint || m.hdr.dst % 4096 ≠ 0 then runReqs (answer prg m stACCESS none s)
  else if partFenced s (reqPart m) ∧ !m.hdr.sint then runReqs (answer prg m stFENCED none s)
  else runReqs (holdReq r .fence s)

/-! ### What completes a request -/

/-- The largest number of entries of a hub cache (R253). -/
def hubCache : Nat := 65536

/-- R253: an extent entry reaches a hub cache; the oldest leaves a full one. -/
def cacheFill (hub e : Nat) (s : State) : State :=
  let mine := s.mem.hcache.filter (·.1 == hub)
  let c := s.mem.hcache.filter (· != (hub, e))
  let c := if hubCache ≤ mine.length then match mine.head? with
    | some x => c.erase x
    | none => c else c
  modMem s fun m => { m with hcache := c ++ [(hub, e)] }

/-- R253: a miss completes its fetch, and the lookups that wait for it go on. -/
def entryFetched (hub e : Nat) (s : State) : State :=
  if s.mem.reqs.any (fun r => r.stage == .fetch hub e) then
    runReqs (wake (fun r => r.stage == .fetch hub e) (cacheFill hub e s))
  else s

/-- R255: an extent becomes LOST. -/
def loseExt (e : Nat) (s : State) : State :=
  let x := extOf s e
  if x.state = esLOST then s else bump (setExt s e { x with state := esLOST }) MRG_HOMES_LOST

/-- R252, R254: a reply from a lender for a forwarded request. A lender that is dead on the route ends it with HOME_LOST (R256). -/
def lenderReply (prg : Nat) (m : Msg) (s : State) : State :=
  match s.mem.reqs.find? fun r => match r.stage with | .lender id => id == m.hdr.reqId | _ => false with
  | none =>
    match s.mem.lateIds.find? (·.1 == m.hdr.reqId) with
    | some x => bump (modMem s fun y => { y with lateIds := y.lateIds.erase x }) (MRG_LATE_DROPS x.2)
    | none => bump s (MRG_LATE_DROPS (entryHub prg))
  | some r =>
    if m.hdr.gen ≠ (extOf s r.ext).gen % 256 then bump s (MRG_LATE_DROPS (entryHub r.prg)) else
    let s := dropReq r.arr s
    let s := if m.hdr.op = stNOT_HOSTED then loseExt r.ext s else s
    let st := lenderStatus m.hdr.op
    match r.op with
    | some id =>
      match findOp s r.prg id with
      | some o =>
        let (_, olds) := batchApply o.op (bslice m.pay 0 (atomWidth o.op)) (o.members.map (·.2))
        opDone r.prg id st olds (countTier r.prg st s)
      | none => s
    | none =>
      if m.hdr.type = tCPL_DATA ∧ st < 0x10 then
        let d := bslice m.pay 0 (msgSpan r.msg)
        finish r st (some d) (keepShared r d s)
      else finish r st none (if r.msg.isWrite then dropReads (msgAddr r.msg) (msgLen r.msg) s else s)

/-- R353: whether an earlier request at the tray overlaps the same sectors: the hub orders requests to one line. -/
def trayBlocked (s : State) (r : Req) : Bool :=
  s.mem.reqs.any fun q => q.arr < r.arr && (match q.stage with | .tray _ _ => true | _ => false) && q.ext == r.ext
    && overlap (msgAddr q.msg / 64) (msgSpan q.msg / 64 + 2) (msgAddr r.msg / 64) (msgSpan r.msg / 64 + 2)
    && !(q.msg.hdr.type == tREAD && r.msg.hdr.type == tREAD)

/-- Requests that wait for tags of a port take what has become free, in order. -/
def tagFreed (c : Nat) (s : State) : State :=
  (s.mem.reqs.filter (·.stage == .tagWait c)).foldl (fun s r =>
    if (s.mem.reqs.find? (·.stage == .tagWait c)) == some r && (freeTags s c (reqLines r)).isSome then trayIssue r c (dropReq r.arr s)
    else s) s

/-- Tags whose late response is still to come (R353), and forwarded requests whose reply is (R252). -/
def lateTags (r : Req) (s : State) : State :=
  match r.stage with
  | .lender id => modMem s fun m => { m with lateIds := m.lateIds.filter (·.1 != id) ++ [(id, entryHub r.prg)] }
  | .tray c ts => modMem s fun m => { m with lateTags := m.lateTags ++ ts.map fun t => (c, t, entryHub r.prg, r.arr) }
  | _ => s

/-- R251: a READ of the HX-3208 layout opens the 80-byte units that the tray returned; an uncorrectable one ends it with TIER_FAILED. -/
def serveLegacy (r : Req) (part : Nat) (raw : Bytes) (s : State) : State :=
  match legacyOpen (slotOf s part).legacy (r.phys / 64 * 64) raw with
  | some d =>
    let d := bslice d (r.phys % 64) (msgLen r.msg)
    finish r stOK (some d) (keepShared r d s)
  | none => finish r stTIER_FAILED none (legacyBad r.phys s)

/-- The last line of a request at its tray has been answered: it is served where its lookup found its home (R261). -/
def trayServe (r : Req) (raw : Bytes) (s : State) : State :=
  let o := objOf s (extOf s r.ext).obj
  if r.legacy then serveLegacy r o.part raw s else serve r o.part o.crypt r.phys s

/-- R353, R251: a tray response to one line. `kind` 0 data or completion, 1 poison or a media error. `raw` holds the 80-byte units of a
LEGACY_LAYOUT read, as the tray returned them. A poisoned line ends its request; the last line of a request completes it. -/
def trayResponse (c tag kind : Nat) (raw : Bytes) (s : State) : State :=
  match s.mem.reqs.find? fun r => match r.stage with | .tray c' ts => c' == c && ts.contains tag | _ => false with
  | none =>
    match s.mem.lateTags.find? fun x => x.1 == c && x.2.1 == tag with
    | some x =>
      let s := bump (modMem s fun m => { m with lateTags := m.lateTags.erase x }) (CXP_LATE_DROPS c)
      tagFreed c (if s.mem.lateTags.any fun y => y.2.2.2 == x.2.2.2 then s else bump s (MRG_LATE_DROPS x.2.2.1))
    | none => s
  | some r =>
    if trayBlocked s r then s else
    let left := (match r.stage with | .tray _ ts => ts.filter (· != tag) | _ => [])
    let r := { r with stage := .tray c left }
    let s := if left.isEmpty then progress s grCXP c else s
    if kind = 1 then
      runReqs (finish r stTIER_FAILED none (raise srcCXP_TRAY_POISON c (bump (tagFreed c (lateTags r (dropReq r.arr s))) (CXP_POISON_RX c))))
    else if left.isEmpty then runReqs (trayServe r raw (tagFreed c (dropReq r.arr s)))
    else modMem s fun m => { m with reqs := m.reqs.map fun q => if q.arr = r.arr then r else q }

/-- End a line's part in the transaction of a request that ends otherwise: the transaction goes on without it. -/
def dropTxnReq (arr : Nat) (s : State) : State :=
  modMem s fun m => { m with txns := m.txns.map fun t => if t.req.any (·.arr == arr) then { t with req := none } else t }

/-- A request that has been looked up ends with a status. -/
def endReq (r : Req) (st : Nat) (s : State) : State := finish r st none (lateTags r (dropTxnReq r.arr (dropReq r.arr s)))

/-- R252: the tier deadline of a request past lookup has passed. -/
def tierLate (arr : Nat) (s : State) : State :=
  match (heldReqs s).find? fun r => r.arr == arr && r.due != 0 && r.due ≤ s.tim.ref with
  | none => s
  | some r => runReqs (endReq r stTIER_LATE s)

/-- End every request past lookup on an extent with a status (R254, R265, R266, R268). -/
def endReqsOn (e st : Nat) (s : State) : State :=
  (reqsOn s e).foldl (fun s r => endReq r st s) s

/-- R254: GEN of an extent advances. -/
def nextGen (x : Ext) : Nat := (x.gen + 1) % 256

/-- R354: a tray link goes down: outstanding requests to its ranges end with TIER_FAILED, and its tags are free again. -/
def trayDown (c : Nat) (s : State) : State :=
  let gone := s.mem.reqs.filter fun r => match r.stage with
    | .tray c' _ => c' == c
    | .tagWait c' => c' == c
    | _ => false
  let s := modMem s fun m => { m with lateTags := m.lateTags.filter (·.1 != c) }
  runReqs (gone.foldl (fun s r => finish r stTIER_FAILED none (dropReq r.arr s)) s)

/-! ### The directory's messages and limits (R291, R292) -/

/-- SNP_RSP, WB or EVICT_CLEAN for the directory. -/
def dirIn (prg : Nat) (m : Msg) (s : State) : State :=
  let from_ := entryPrg s prg m
  let s := takeDelivered s (unitOut prg m.hdr) m
  if !toDirOk m then unsupported from_ m s else
  let (arr, s) := nextArr s
  runReqs (dirMsg { arr := arr, prg := prg, msg := m } s)

/-- R292: an announced WB did not come in its time. In safe state nothing is written (R423), and the limit waits. -/
def wbTimeout (l agent : Nat) (s : State) : State :=
  if s.flt.safe then s else
  match txnOf s l with
  | none => s
  | some t =>
    if t.wbs.any (fun x => x.1 == agent && x.2 ≤ s.tim.ref) then
      let s := poisonLine l s
      let s := putTxn { t with wbs := t.wbs.filter (·.1 != agent), poisoned := true } s
      runReqs (tryEndTxn l (cohRaise srcDIR_COH_WB_TIMEOUT l s))
    else s

/-- R291: an agent did not answer a snoop within SNP_LIMIT. -/
def snpTimeout (l agent : Nat) (s : State) : State :=
  match txnOf s l with
  | none => s
  | some t => if t.ask.any (fun x => x.1 == agent && x.2 ≤ s.tim.ref) then cohRaise srcDIR_COH_SNP_TIMEOUT l s else s

/-- R295: a sweep of a domain: coherent reads wait, and every recorded line of the domain receives SNP_INV. -/
def sweepDom (d : Nat) (s : State) : State :=
  match sfind s.mem.doms d with
  | none => s
  | some x =>
    let s := modMem s fun m => { m with doms := sput m.doms d { x with sweeping := true } }
    let ls := s.mem.dir.filter fun e => coverDom s (64 * e.1) == some d
    ls.foldl (fun s e => if (txnOf s e.1).isSome then s else startTxn e.1 none 1 e.2.holders [] s) s

/-- R295: whether a domain holds no record and no transaction. -/
def domEmpty (s : State) (d : Nat) : Bool :=
  !(s.mem.dir.any fun e => coverDom s (64 * e.1) == some d) && !(s.mem.txns.any fun t => coverDom s (64 * t.line) == some d)

/-- A domain is cleared: its record goes, and the coherent reads that waited end with ACCESS (R295). -/
def clearDom (d : Nat) (s : State) : State :=
  let ls := (s.mem.dir.filter fun e => coverDom s (64 * e.1) == some d).map (·.1)
  let s := modMem s fun m => { m with dir := skeep (fun k => !ls.contains k) m.dir, doms := sdel m.doms d }
  runReqs (wake (fun r => r.stage == .sweep d) s)

end Sys2Proof.Machine
end

