-- ==== Sys2Proof/Machine/Time.lean ====
section
/-! DEFINITION. Network time (R68 to R72), the domain units' rounds (R74, R75), gate lists (R77 to R81) and the SLIP message (R89). -/

namespace Sys2Proof.Machine

/-! ### The time unit -/

/-- Time unit states (Table PRK-3). -/
def tsFREE : Nat := 0
def tsACQUIRE : Nat := 1
def tsLOCKED : Nat := 2
def tsHOLDOVER : Nat := 3

/-- TIM_STATE. -/
def timState (s : State) : Nat := rdF s TIM_STATE TIM_STATE_STATE

/-- Set TIM_STATE. -/
def setTimState (s : State) (v : Nat) : State := wrF s TIM_STATE TIM_STATE_STATE v

/-- Whether domain unit `d` (0 to 3) is bound. -/
def domBound (s : State) (d : Nat) : Bool := rdBit s (TIM_DOM_ID (d + 1)) TIM_DOM_ID_BOUND

/-- Whether any schedule domain is bound (R70). -/
def anyBound (s : State) : Bool := (List.range 4).any (domBound s)

/-- A stamp in units of 2^-16 ns. -/
def Stamp.fine (t : Stamp) : Int := t.ns * 65536 + t.frac

/-- A device time from units of 2^-16 ns; device time is a 64-bit count. -/
def stampOf (i : Int) : Stamp :=
  let n := (i % (2 ^ 80 : Nat)).toNat
  ⟨n / 65536, n % 65536⟩

/-- MARK_INTERVAL in ns: 0 acts as 1 µs, and a value above 1,000 as 1,000. -/
def markInterval (s : State) : Nat := 1000 * min 1000 (max 1 (rdF s TIM_LIMITS TIM_LIMITS_MARK_INTERVAL))

/-- A signed picosecond value clamped to a 32-bit field. -/
def clampPs (i : Int) : Nat := wrapInt 32 (max (-0x80000000) (min 0x7FFFFFFF i))

/-- One tick of the reference clock: 1 ns. Device time advances with it, and an outstanding correction is slewed by at most
2^-16 ns per ns, which is below 20 ppm (R70). -/
def tick (s : State) : State :=
  let step : Int := if s.tim.slew = 0 then 0 else if 0 < s.tim.slew then 1 else -1
  { s with
    clk := stampOf (s.clk.fine + 65536 + step)
    tim := { s.tim with ref := s.tim.ref + 1, slew := s.tim.slew - step,
                        ppsUntil := if s.tim.ppsUntil ≤ s.tim.ref + 1 then 0 else s.tim.ppsUntil } }

/-- R418: TIME_ALIGN's cause ends. -/
def dropCause (f : Src) (u : Nat) (s : State) : State :=
  { s with flt := { s.flt with causes := s.flt.causes.filter fun c => !(c.src == f && c.unit == u) } }

/-- R418: a cause that lasts begins. -/
def addCause (f : Src) (u : Nat) (prog : Word) (s : State) : State :=
  { dropCause f u s with flt := { s.flt with causes := s.flt.causes.filter (fun c => !(c.src == f && c.unit == u)) ++ [⟨f, u, prog⟩] } }

/-- R70 and Table PRK-1: one offset measurement, in ps, from the selected source. While no domain is bound, device time steps at every one,
however small the offset (DESIGN CHOICE, log entry 134). -/
def measure (off : Int) (s : State) : State :=
  let limit : Int := 1000 * rdF s TIM_LIMITS TIM_LIMITS_ALIGN_LIMIT
  let within := off.natAbs ≤ limit.natAbs
  let s := wrF s TIM_OFFSET TIM_OFFSET_OFFSET (clampPs off)
  let s := if within then s else bump s TIM_ALIGN_EXCEED
  let fine := off * 65536 / 1000
  let s := if anyBound s then { s with tim := { s.tim with slew := -fine } }
    else { s with clk := stampOf (s.clk.fine - fine), tim := { s.tim with slew := 0 } }
  let good := if within then s.tim.good + 1 else 0
  let bad := if within then 0 else s.tim.bad + 1
  let s := { s with tim := { s.tim with good := good, bad := bad } }
  let st := timState s
  let s := if within then dropCause srcTIM_TIME_ALIGN 0 s else s
  if st = tsFREE then setTimState { s with tim := { s.tim with good := 0, bad := 0 } } tsACQUIRE
  else if (st = tsACQUIRE ∨ st = tsHOLDOVER) ∧ 16 ≤ good then
    setTimState { s with tim := { s.tim with bad := 0 } } tsLOCKED
  else if st = tsLOCKED then
    if bad = 4 then raise srcTIM_TIME_ALIGN 0 (addCause srcTIM_TIME_ALIGN 0 0 s)
    else s
  else s

/-- TIM_SOURCE in force changes from `old` (Table PRK-1). A unit that is LOCKED stays so under KIND 4, and starts afresh (DESIGN CHOICE, log
entry 135). -/
def timSourceChanged (old : Word) (s : State) : State :=
  let kind := rdF s TIM_SOURCE TIM_SOURCE_KIND
  let same := kind == TIM_SOURCE_KIND.get old && rdF s TIM_SOURCE TIM_SOURCE_PORT == TIM_SOURCE_PORT.get old
  let clear := fun (s : State) =>
    dropCause srcTIM_TIME_ALIGN 0 { s with tim := { s.tim with good := 0, bad := 0, slew := 0 } }
  if kind = 0 then setTimState (clear s) tsFREE
  else if same then s
  else if kind = 4 then if timState s = tsLOCKED then clear s else setTimState (clear s) tsLOCKED
  else setTimState (clear s) tsACQUIRE

/-- R68: after a chip reset or STANDBY the unit acquires again the source that TIM_SOURCE still names. -/
def timStart (s : State) : State :=
  let kind := rdF s TIM_SOURCE TIM_SOURCE_KIND
  if kind = 4 then setTimState s tsLOCKED else if 1 ≤ kind ∧ kind ≤ 3 then setTimState s tsACQUIRE else s

/-- R69: a PTP message yields an offset, in ps. -/
def ptpSync (off : Int) (s : State) : State := if rdF s TIM_SOURCE TIM_SOURCE_KIND = 1 then measure off s else s

/-- R69: an edge on PPS_IN: device time should be a whole second, the nearest one. -/
def ppsEdge (s : State) : State :=
  if rdF s TIM_SOURCE TIM_SOURCE_KIND ≠ 2 then s
  else
    let fine := (s.clk.ns % 1000000000) * 65536 + s.clk.frac
    let off : Int := if fine < 500000000 * 65536 then fine else (fine : Int) - 1000000000 * 65536
    measure (off * 1000 / 65536) s

/-- R480: PPS_OUT rises, and stays high for 1 ms. -/
def ppsOut (s : State) : State := { s with tim := { s.tim with ppsUntil := s.tim.ref + 1000000 } }

/-- Table PRK-1: a LOCKED unit loses its source. Holding the last rate, it cancels what is left of the offset and then runs at the rate of
the reference (DESIGN CHOICE, log entry 135). -/
def timHoldover (s : State) : State :=
  let k := rdF s TIM_SOURCE TIM_SOURCE_KIND
  if timState s = tsLOCKED ∧ 1 ≤ k ∧ k ≤ 3 then
    raise srcTIM_TIME_HOLDOVER 0 (setTimState { s with tim := { s.tim with good := 0, bad := 0 } } tsHOLDOVER)
  else s

/-- Table PRK-1: HOLDOVER_LIMIT elapses. -/
def timUnlocked (s : State) : State :=
  if timState s = tsHOLDOVER then
    raise srcTIM_TIME_UNLOCKED 0 (setTimState { s with tim := { s.tim with good := 0 } } tsFREE)
  else s

/-! ### Rounds -/

/-- A domain unit beyond its registers. -/
def domOf (s : State) (d : Nat) : Domain := sget (fun _ => {}) s.doms d

/-- Set a domain unit. -/
def setDom (s : State) (d : Nat) (x : Domain) : State := { s with doms := sset (fun _ => {}) s.doms d x }

/-- The round index n, the scheduled-round index s, and whether the round is a slip round (R74, R75). -/
def roundOf (s : State) (d : Nat) : Nat := (rdReg s (TIM_DOM_POS (d + 1))).toNat
def schedOf (s : State) (d : Nat) : Nat := (rdReg s (TIM_DOM_SCHED (d + 1))).toNat
def inSlip (s : State) (d : Nat) : Bool := rdBit s (TIM_DOM_EPOCH (d + 1)) TIM_DOM_EPOCH_IN_SLIP

/-- The round length in force, ns. -/
def roundLen (s : State) (d : Nat) : Nat := 1000 * rdF s (TIM_DOM_ROUND (d + 1)) TIM_DOM_ROUND_LEN

/-- R74: the start of round `n` of the current epoch. -/
def roundStart (s : State) (d n : Nat) : Nat := (domOf s d).epochStart + (n - (domOf s d).epochRound) * roundLen s d

/-- The domain that a compute or port region is bound to (R73): the SCHED register decides. -/
def boundDom (s : State) (sched : Nat) : Option Nat :=
  if rdBit s sched CRG_SCHED_BOUND then
    let d := rdF s sched CRG_SCHED_DOM
    if domBound s d then some d else none
  else none

/-- The domain of compute region `n`. -/
def crgDom (s : State) (n : Nat) : Option Nat := boundDom s (CRG_SCHED n)

/-- The domain of port region `n`. -/
def prgDom (s : State) (n : Nat) : Option Nat := boundDom s (PRG_SCHED n)

/-- The domain unit that serves domain ID `i`. -/
def domById (s : State) (i : Nat) : Option Nat :=
  (List.range 4).find? fun d => domBound s d && rdF s (TIM_DOM_ID (d + 1)) TIM_DOM_ID_ID == i

/-! ### The clauses that a boundary commits (R55, R74) -/

/-- The target of an entry, its kind and its action code (CLS_STAGE_ADDR). -/
def Entry.target (e : Entry) : Nat := 0x1000000000 + e.addr.toNat % 2 ^ 36
def Entry.kind (e : Entry) : Nat := bits e.addr.toNat 63 60
def Entry.code (e : Entry) : Nat := bits e.addr.toNat 59 44

def clsState (s : State) (c : Nat) : Nat := rdF s (CLS_STATE c) CLS_STATE_STATE
/-- The page that an entry names. -/
def Entry.page (e : Entry) : Nat := csrBase e.target
def Entry.isAction (e : Entry) : Bool := e.kind == 2
def acEPOCH_RESTART : Nat := 0x0610

def csARMED : Nat := 4

def clsOf (s : State) (c : Nat) : Clause := sget (fun _ => {}) s.cls c
/-- KIND of the commit condition (R55): 0 NOW, 1 NEXT_ROUND, 2 NEXT_EPOCH, 3 AT_TIME. -/
def clsKind (s : State) (c : Nat) : Nat := rdF s (CLS_COND c) CLS_COND_KIND
/-- 0 local, 1 coordinator, 2 participant. -/
def clsRole (s : State) (c : Nat) : Nat := rdF s (CLS_COND c) CLS_COND_ROLE
def clsDom (s : State) (c : Nat) : Nat := rdF s (CLS_COND c) CLS_COND_DOM

/-- Whether a clause's commit instant is a device time: AT_TIME, and what a coordinator and its participants decided (R64), unless that
had passed (R66). -/
def byTime (s : State) (c : Nat) : Bool := clsKind s c == 3 || (clsRole s c != 0 && !(clsOf s c).late)

/-- Whether the round that starts now begins an epoch: the first round, the scheduled round after EPOCH_ROUNDS of them (R75), or the
boundary that EPOCH_RESTART makes (R441). -/
def epochBegins (s : State) (d : Nat) (restart : Bool) : Bool :=
  let x := domOf s d
  if !x.started then true
  else if restart then true
  else if x.held.contains (roundOf s d) then false
  else rdF s (TIM_DOM_ROUND (d + 1)) TIM_DOM_ROUND_EPOCH_ROUNDS ≤ rdF s (TIM_DOM_EPOCH (d + 1)) TIM_DOM_EPOCH_SCHED_IN_EPOCH + 1

/-- The device time at which the next round of domain unit `d` starts. -/
def nextStart (s : State) (d : Nat) : Nat :=
  if (domOf s d).started then roundStart s d (roundOf s d + 1) else (rdReg s (TIM_DOM_ORIGIN (d + 1))).toNat

/-- Whether an ARMED clause counts the boundaries of a domain, and the next one is late enough. -/
def waitsRound (s : State) (d c : Nat) : Bool :=
  clsState s c == csARMED && (clsKind s c == 1 || clsKind s c == 2) && clsDom s c == d
    && (match (clsOf s c).commitAt with
      | some t => t ≤ nextStart s d
      | none => false)

/-- Whether a clause holds an EPOCH_RESTART of domain unit `d` that its boundary brings (R441). -/
def restarts (s : State) (d c : Nat) : Bool :=
  clsKind s c == 1 && clsState s c == csARMED
    && (clsOf s c).entries.any fun e => e.isAction && e.code == acEPOCH_RESTART && csrUnit e.page == d + 1

/-- The armed clauses that the boundary of domain unit `d` commits with the next round (R55). -/
def boundaryClauses (s : State) (d : Nat) (epoch : Bool) : List Nat :=
  ((List.range 16).filter (waitsRound s d)).filter fun c => clsKind s c == 1 || epoch || byTime s c

/-- R77, R79: the bank of gate lists that the next round of domain unit `d` uses: the one in force, or the one that a clause writes at its
start. -/
def nextBank (s : State) (d : Nat) : Nat :=
  let a := TIM_DOM_BANK (d + 1)
  let es := (boundaryClauses s d (epochBegins s d ((List.range 16).any (restarts s d)))).flatMap fun c => (clsOf s c).entries
  TIM_DOM_BANK_BANK.get (es.foldl (fun w e => if e.kind = 0 ∧ e.target = a then mergeBits w e.data e.mask else w) (rdReg s a))

/-! ### Gate lists -/

/-- R77: entry `i` of a bank of a port region's gate list. -/
def gateEntry (s : State) (n bank i : Nat) : Nat :=
  let w := rdReg s (if bank = 0 then PRG_GATE_B0 n (i / 2) else PRG_GATE_B1 n (i / 2))
  if i % 2 = 0 then PRG_GATE_B0_ENTRY_LO.get w else PRG_GATE_B0_ENTRY_HI.get w

/-- The bank in force of a domain (R77). -/
def bankInForce (s : State) (d : Nat) : Nat := rdF s (TIM_DOM_BANK (d + 1)) TIM_DOM_BANK_BANK

/-- The gate position of a port region. -/
def gatePos (s : State) (n : Nat) : GatePos := sget (fun _ => {}) s.gates n

/-- Set a gate position. -/
def setGate (s : State) (n : Nat) (g : GatePos) : State := { s with gates := sset (fun _ => {}) s.gates n g }

/-- R78: whether gate `c` stays open until `stop` (ns of the reference clock) along a bank's list, of which entry `i` began at `since`.
An entry of no duration is passed over; entry 255, which has none behind it, holds as LAST does (DESIGN CHOICE, log entry 114). `fuel` is the
number of entries behind entry `i`. -/
def gateRun (s : State) (n b c stop : Nat) : Nat → Nat → Nat → Bool
  | 0, i, _ => bit (gateEntry s n b i) c
  | fuel + 1, i, since =>
    let e := gateEntry s n b i
    let ends := since + 4 * bits e 29 8
    if bit e 30 then bit e c
    else if ends = since then gateRun s n b c stop fuel (i + 1) since
    else bit e c && (stop ≤ ends || gateRun s n b c stop fuel (i + 1) (max ends s.tim.ref))

/-- R79, R80: gate `c` of port region `n` is open and stays open for at least 4 ns more, over the end of the round too: a held SLIP makes the
next round a slip round, and any other begins at entry 0 of the bank that it uses. Between the commit of a binding and round 0 the position
stands at entry 0, as if its duration had passed (DESIGN CHOICE, log entry 114). -/
def gateOpen (s : State) (n c : Nat) : Bool :=
  match prgDom s n with
  | none => true
  | some d =>
    if !rdBit s (G_CTL grPRG n 1) G_CTL_LEVEL then true
    else
      let b := bankInForce s d
      let g := gatePos s n
      let slip := bit (rdF s (PRG_GATE_SLIP n) PRG_GATE_SLIP_SLIP_GATES) c
      let left := if (domOf s d).started then min 4 (roundStart s d (roundOf s d + 1) - now s) else 4
      let along := fun (b stop i since : Nat) => gateRun s n b c stop (255 - i) i since
      (if inSlip s d then slip else along b (s.tim.ref + left) g.entry g.since)
        && (left == 4 || (if (domOf s d).held.contains (roundOf s d) then slip
          else along (nextBank s d) (s.tim.ref + 4) 0 (s.tim.ref + left)))

/-- R78: the entry's DURATION has expired: the region moves to the next entry, or holds the one marked LAST, or entry 255 (log entry 114). -/
def gateNext (s : State) (n : Nat) : State :=
  match prgDom s n with
  | none => s
  | some d =>
    let g := gatePos s n
    if inSlip s d || bit (gateEntry s n (bankInForce s d) g.entry) 30 || 255 ≤ g.entry then s
    else setGate s n ⟨g.entry + 1, s.tim.ref⟩

/-! ### SLIP -/

/-- The ports a domain sends SLIP on (R89), each the base port of its gang. -/
def domPorts (s : State) (d : Nat) : List Nat :=
  (((List.range 256).filter fun p => mapBit s (TIM_DOM_PORTS (d + 1)) p).map (gangBase s)).eraseDups

/-- Table PRK-2: a SLIP payload. -/
def slipPay (dom origin region hops round : Nat) : Bytes :=
  leBytes 2 dom ++ leBytes 2 origin ++ leBytes 1 region ++ leBytes 1 hops ++ zeros 2 ++ leBytes 8 round ++ zeros 8

/-- R89: the SLIP message for the party at the far end of port `p`. -/
def slipMsg (s : State) (p : Nat) (pay : Bytes) : Msg :=
  let sw := trustedPort s p
  ⟨{ type := tCTRL, tc := 6, op := cSLIP, sint := true, src := ownId s * 4096,
     dint := sw, dst := if sw then rdF s (PRT_LINK_STATE p) PRT_LINK_STATE_PEER_SWITCH * 4096
                        else ownId s * 4096 + 16 * p % 4096 }, pay⟩

/-- R89: send a SLIP on every port of the domain but the one (by its gang's base port) that it came from. -/
def sendSlip (s : State) (d : Nat) (except : Option Nat) (pay : Bytes) : State :=
  ((domPorts s d).filter (fun p => some p != except)).foldl (fun s p => emitPort p (slipMsg s p pay) s) s

end Sys2Proof.Machine
end

