-- ==== Sys2Proof/Machine/Link.lean ====
section
/-! DEFINITION. HLK links (R328 to R349): flits sent and received, retry, credits, training, time marks and gangs; and the scheduler
of an output (R365, R382 to R384). -/

namespace Sys2Proof.Machine

/-! ### Flit kinds (Table LNK-3) -/
def kDATA : Nat := 0
def kIDLE : Nat := 1
def kRETRY_REQ : Nat := 2
def kTIME_MARK : Nat := 3
def kTRAIN : Nat := 4
def kCONTROL : Nat := 5
def kFAULT_IDLE : Nat := 6

/-- Set the link state of a port. -/
def setLink (s : State) (p st : Nat) : State := wrF s (PRT_LINK_STATE p) PRT_LINK_STATE_STATE st

/-! ### Leaving ACTIVE -/

/-- R348: the member of the gang on `b` whose turn it is among those that pass `p`, from member index `i` on. -/
def gangNext (s : State) (b i : Nat) (p : Nat → Bool) : Option Nat :=
  ((List.range (gangWidth s b)).map fun k => b + (i + k) % gangWidth s b).find? p

/-- GANG_LIVE shows the live members of the link on base port `b` (Table LNK-9). -/
def showLive (b : Nat) (s : State) : State :=
  wrF s (PRT_LINK_STATE b) PRT_LINK_STATE_GANG_LIVE (((gangLive s b).map (fun q => 2 ^ (q - b))).sum)

/-- R348, R349: the receiver of a gang takes delivered flits from its members in rotation. A lost member keeps its turns while it still has
flits that it accepted. -/
def gangDeliver : Nat → Nat → State → State
  | 0, _, s => s
  | n + 1, b, s =>
    match gangNext s b (portOf s b).rxTurn fun m => (gangLive s b).contains m || !(portOf s m).rxq.isEmpty with
    | none => s
    | some m =>
      match (portOf s m).rxq with
      | [] => s
      | g :: r =>
        let s := modPort s m fun y => { y with rxq := r }
        let s := modPort s b fun y => { y with rxTurn := (m - b + 1) % gangWidth s b }
        gangDeliver n b (groundIn b g s)

/-- R349: member `m` of the gang on `b` is lost while others live: its end of the link asks for GANG_CUT on a live member, and
GANG_DEGRADED is raised. The rotation goes on over the survivors. -/
def gangLose (b m : Nat) (s : State) : State :=
  let s := modPort s b fun x => { x with cut := if x.cut.contains m then x.cut else x.cut ++ [m] }
  match (gangLive s b).head? with
  | none => s
  | some l =>
    let body := [1, BitVec.ofNat 8 (m - b), BitVec.ofNat 8 (portOf s m).lack]
    let s := modPort s l fun x => { x with control := x.control ++ [body] }
    raise srcPRT_GANG_DEGRADED b (gangDeliver 64 b s)

/-- A port leaves the ACTIVE state for good or for RETRAIN: a gang with live members goes on without it; otherwise, on DOWN, the
ground flushes its queues (R340, R390) and what depends on the port is told. A gang without a live member is DOWN (R349). -/
def portLost (p : Nat) (down : Bool) (s : State) : State :=
  let b := gangBase s p
  let s := showLive b s
  if 1 < gangWidth s b ∧ !(gangLive s b).isEmpty then gangLose b p s
  else if down ∨ 1 < gangWidth s b then addDue (.portGone b) (flushPort b stPORT_DOWN s)
  else s

/-- Entry to DOWN (Table LNK-4), with the source that the table raises. -/
def linkFall (f : Src) (p : Nat) (s : State) : State :=
  let s := setLink s p lsDOWN
  let s := modPort s p fun x => { x with peer := none, ownAcked := false, locked := false, faultRun := 0,
                                         retryDue := false, control := [], replay := [], markDue := false }
  portLost p true (raise f p s)

/-- Entry to DOWN with LINK_DOWN. -/
def linkDown (p : Nat) (s : State) : State := linkFall srcPRT_LINK_DOWN p s

/-- Entry to RETRAIN (Table LNK-4). -/
def linkRetrain (p : Nat) (s : State) : State :=
  let s := bump (setLink s p lsRETRAIN) (PRT_RETRAINS p)
  let s := modPort s p fun x => { x with peer := none, ownAcked := false, locked := false, replays := 0, faultRun := 0 }
  portLost p false (raise srcPRT_LINK_RETRAIN p s)

/-- ENABLE = 0 commits: the transmitter stops (Table LNK-4). -/
def linkDisable (p : Nat) (s : State) : State :=
  let was := linkState s p
  let s := setLink s p lsDISABLED
  let s := modPort s p fun x => { x with peer := none, prev := none, buf := [], replay := [], ownAcked := false, locked := false,
                                         retryDue := false, control := [], markDue := false, faultRun := 0, out := [] }
  if was = lsACTIVE ∨ was = lsRETRAIN then portLost p true s else s

/-! ### Training events (Table LNK-4) -/

/-- Signal on all four lanes. -/
def linkDetect (p : Nat) (s : State) : State := if linkState s p = lsDETECT then setLink s p lsEQUALIZE else s

/-- Equalisation is complete on all lanes. -/
def equalizeDone (p : Nat) (s : State) : State := if linkState s p = lsEQUALIZE then setLink s p lsALIGN else s

/-- Alignment-marker and codeword lock on all lanes. -/
def alignLock (p : Nat) (s : State) : State :=
  if linkState s p = lsALIGN then setLink s p lsPARAM
  else if linkState s p = lsRETRAIN then modPort s p fun x => { x with locked := true }
  else s

/-- The time limit of a training state expires. -/
def trainTimeout (p : Nat) (s : State) : State :=
  let st := linkState s p
  if st = lsEQUALIZE ∨ st = lsALIGN then linkDown p s
  else if st = lsPARAM then linkFall srcPRT_LINK_PARAM p s
  else if st = lsRETRAIN then linkDown p (modPort s p fun x => { x with buf := [] })
  else s

/-- An ACTIVE port loses codeword lock. -/
def lockLost (p : Nat) (s : State) : State := if linkState s p = lsACTIVE then linkRetrain p s else s

/-- R347: a setting of a port's retry: a member of a gang goes by the base port's. -/
def linkCfg (s : State) (p : Nat) (f : Fld) : Nat := rdF s (PRT_LINK_CFG (gangBase s p)) f

/-- AUTO_RETRY ms have passed in DOWN. A port under test stays there (R433). -/
def autoRetry (p : Nat) (s : State) : State :=
  if linkState s p = lsDOWN ∧ linkCfg s p PRT_LINK_CFG_AUTO_RETRY ≠ 0 ∧ !(portOf s p).looped then setLink s p lsDETECT else s

/-! ### Receiving -/

/-- R333: an acknowledgement covers every flit up to LACK. The round trip of the flit it names is measured (R336). -/
def takeAck (p lack : Nat) (s : State) : State :=
  let x := portOf s p
  if x.buf.any (·.1 == lack) then
    let keep := (x.buf.dropWhile (·.1 != lack)).drop 1
    let s := match x.sentAt.find? (·.1 == lack) with
      | some (_, t) => wrF s (PRT_RETRY_RTT p) PRT_RETRY_RTT_RTT (min 65535 (s.tim.ref - t))
      | none => s
    setPort s p { x with buf := keep, replays := 0,
                         replay := x.replay.filter (fun q => keep.any (·.1 == q)),
                         sentAt := x.sentAt.filter (fun q => keep.any (·.1 == q.1)) }
  else s

/-- R338: a credit report. -/
def takeCredit (p c ccount : Nat) (s : State) : State :=
  let b := gangBase s p
  modPort s b fun x =>
    let delta := (ccount + 256 - sget (fun _ => 0) x.ccount c) % 256
    if 1 ≤ delta ∧ delta ≤ 127 then
      { x with credits := sset (fun _ => 0) x.credits c (sget (fun _ => 0) x.credits c + delta),
               ccount := sset (fun _ => 0) x.ccount c ccount }
    else x

/-- What every good flit with ACK_VALID brings (R333, R338). -/
def takeTrailer (p : Nat) (t : Trailer) (s : State) : State :=
  let s := progress (bump s (PRT_FLITS_RX p)) grPRT p
  let s := modPort s p fun x => { x with faultRun := 0 }
  if t.ackValid then takeCredit p t.ctc t.ccount (takeAck p t.lack s) else s

/-- R334: a DATA flit that failed or came out of order: one RETRY_REQ, until LACK + 1 arrives. -/
def rxGap (p : Nat) (s : State) : State :=
  modPort s p fun x => if x.discarding then x else { x with retryDue := true, discarding := true }

/-- An accepted DATA flit goes to the ground, in a gang through the rotation. In safe state it stays in its reserved cell (R423). -/
def rxDeliver (p : Nat) (g : Seg) (s : State) : State :=
  let b := gangBase s p
  if s.flt.safe then
    let c : GCell := ⟨b / 16, .port b, g, some b, some (b, g.hdr.tc), false, .safe, false, 0, 0, false⟩
    { s with ground := { s.ground with cells := s.ground.cells ++ [c] } }
  else if gangWidth s b = 1 then groundIn p g s
  else
    let s := modPort s p fun x => { x with rxq := x.rxq ++ [g] }
    gangDeliver 64 b s

/-- R331, R334: a flit whose link CRC fails is discarded. Its kind is not known, so that a DATA flit may be the one that is lost. -/
def rxBad (p : Nat) (s : State) : State :=
  let s := bump s (PRT_CRC_FAIL p)
  if linkState s p = lsACTIVE then rxGap p s else s

/-- R329: what the error correction counts with a flit: `corr` corrected symbols, and where the flit has a bit in an uncorrectable codeword,
`uncorr` such codewords that no flit before it has counted. It is treated as a failed one. -/
def rxFlit (p corr : Nat) (uncorr : Option Nat) (k : State → State) (s : State) : State :=
  let s := bump s (PRT_FEC_CORR p) corr
  match uncorr with
  | some n => rxBad p (bump s (PRT_FEC_UNCORR p) n)
  | none => k s

/-- R334: a DATA flit arrives. -/
def rxData (p : Nat) (f : Bytes) (s : State) : State :=
  if !flitOk f then rxBad p s
  else if linkState s p ≠ lsACTIVE then s
  else
    let t := trailerOf f
    if t.kind ≠ kDATA then s
    else
      let s := if s.flt.safe then s else takeTrailer p t s
      if t.lseq = ((portOf s p).lack + 1) % 256 then
        let s := modPort s p fun x => { x with lack := t.lseq, discarding := false }
        rxDeliver p (Seg.ofBody (bodyOf f)) s
      else rxGap p s

/-- A good flit of a kind other than DATA, in the ACTIVE state: none of a bad flit's trailer is used (R331). `act` is what the kind
adds. -/
def rxOther (p kind : Nat) (f : Bytes) (act : Trailer → State → State) (s : State) : State :=
  if !flitOk f then rxBad p s
  else if s.flt.safe then s
  else if (trailerOf f).kind ≠ kind ∨ linkState s p ≠ lsACTIVE then s
  else act (trailerOf f) (takeTrailer p (trailerOf f) s)

/-- R335: resend every buffered flit after `lack`; a LACK outside the buffer means RETRAIN. -/
def rxRetryReq (p lack : Nat) (s : State) : State :=
  let x := portOf s p
  let seqs := x.buf.map (·.1)
  let known := seqs.contains lack || (match seqs.head? with
    | some q => (lack + 1) % 256 == q
    | none => (lack + 1) % 256 == x.nextSeq)
  if !known then linkRetrain p s
  else
    let limit := max 1 (linkCfg s p PRT_LINK_CFG_RETRY_LIMIT)
    if seqs.isEmpty then s
    else if limit ≤ x.replays then linkRetrain p s
    else bump (setPort s p { x with replay := seqs.filter (· != lack), replays := x.replays + 1 }) (PRT_REPLAYS p)

/-- R335: REPLAY_TIMEOUT passes: a receiver that still lacks LACK + 1 repeats RETRY_REQ; a transmitter with flits unacknowledged
replays from the oldest, or retrains after RETRY_LIMIT replays in a row. -/
def replayTimeout (p : Nat) (s : State) : State :=
  if linkState s p ≠ lsACTIVE then s else
  let s := modPort s p fun x => if x.discarding then { x with retryDue := true } else x
  let x := portOf s p
  if x.buf.isEmpty then s
  else if max 1 (linkCfg s p PRT_LINK_CFG_RETRY_LIMIT) ≤ x.replays then linkRetrain p s
  else bump (setPort s p { x with replay := x.buf.map (·.1), replays := x.replays + 1 }) (PRT_REPLAYS p)

/-- Table LNK-4: FAULT_IDLE in ACTIVE or RETRAIN; the fourth in a row takes the link DOWN. -/
def rxFaultIdle (p : Nat) (s : State) : State :=
  if s.flt.safe then s
  else if linkState s p = lsACTIVE ∨ linkState s p = lsRETRAIN then
    let n := (portOf s p).faultRun + 1
    if n < 4 then modPort s p fun x => { x with faultRun := n }
    else linkDown p (raise srcPRT_PEER_FAULT_IDLE p s)
  else s

/-- R349: GANG_CUT arrives: the lost member's later flits are dealt again, ahead of new ones, over the survivors. -/
def rxGangCut (p : Nat) (idx lseq : Nat) (s : State) : State :=
  let b := gangBase s p
  let m := b + idx
  if gangWidth s b ≤ idx then s
  else
    let x := portOf s m
    let later := if x.buf.any (·.1 == lseq) then (x.buf.dropWhile (·.1 != lseq)).drop 1 else x.buf
    let s := setPort s m { x with buf := [], replay := [], sentAt := [] }
    let s := modPort s b fun y => { y with redeal := y.redeal ++ later.map (·.2),
                                           cut := if y.cut.contains m then y.cut else y.cut ++ [m] }
    raise srcPRT_GANG_DEGRADED b (showLive b s)

/-! ### Training -/

/-- Table LNK-5: the block a TRAIN flit carries. -/
def Peer.ofBody (f : Bytes) : Peer where
  role := leAt f 1 1
  switch := bits (leAt f 2 2) 11 0
  port := leAt f 4 1
  gang := bits (leAt f 5 1) 3 0
  veps := leAt f 6 1
  caps := leAt f 7 1
  credits := (List.range 8).map fun i => leAt f (8 + 2 * i) 2
  nextSeq := leAt f 24 1

/-- The GANG byte of a port's own block. -/
def ownGang (s : State) (p : Nat) : Nat :=
  let b := gangBase s p
  rdF s (PRT_GANG b) PRT_GANG_WIDTH + (p - b) * 4

/-- R337, R363: the credits that a block announces for a class: those of PRT_CREDIT_ADV as it stands, or the derived ones. -/
def creditsToSend (s : State) (b c : Nat) : Nat :=
  if rdBit s (G_CTL grPRT b 0) G_CTL_LEVEL then 4 * rdF s (PRT_CREDIT_ADV b) (PRT_CREDIT_ADV_TC c) * gangWidth s b else linkCreditAdv s b c

/-- Table LNK-5: the device's own block. -/
def trainBody (s : State) (p : Nat) : Bytes :=
  let b := gangBase s p
  let x := portOf s p
  [0x01, 0x00] ++ leBytes 2 (ownId s) ++ leBytes 1 p ++ leBytes 1 (ownGang s p) ++ [16, 0x03]
    ++ (List.range 8).flatMap (fun c => leBytes 2 (creditsToSend s b c))
    ++ leBytes 1 (x.lack + 1) ++ leBytes 1 x.peer.isSome.toNat

/-- R339: a new link: sequence and credit state restart from the parameter blocks (what is sent from the peer's NEXT_SEQ, what is received from
the port's own, which its block gave the peer), and the ground flushes the queues. A member that was
cut stays out while others live: it rejoins by a PRT_GANG clause (R349). -/
def newLink (p : Nat) (pe : Peer) (s : State) : State :=
  let b := gangBase s p
  let first := (gangLive s b).isEmpty
  let s := modPort s p fun x => { x with
    nextSeq := pe.nextSeq, buf := [], replay := [], replays := 0, discarding := false, retryDue := false,
    control := [], rxq := [], sentAt := [], faultRun := 0, newLink := true }
  if first then
    let s := flushPort b stPORT_DOWN s
    let s := modPort s b fun x => { x with
      credits := (pe.credits.zipIdx).foldl (fun m c => sset (fun _ => 0) m c.2 c.1) [],
      ccount := [], released := [], reported := [], cut := [], txTurn := 0, rxTurn := 0, redeal := [] }
    let a := PRT_CREDIT_ADV b
    let adv := (portOf s b).announced.getD (rdReg s a)
    { s with ground := { s.ground with inForce := sset regReset s.ground.inForce a adv } }
  else s

/-- The port enters ACTIVE with the accepted peer block. -/
def linkActive (p : Nat) (pe : Peer) (s : State) : State :=
  let same := linkState s p == lsRETRAIN && (match (portOf s p).prev with
    | some q => q.switch == pe.switch && q.port == pe.port && q.role == pe.role && q.gang == pe.gang
    | none => false) && ((portOf s p).buf.any (·.1 == pe.nextSeq) || (portOf s p).nextSeq == pe.nextSeq)
  let s := if same then
      modPort s p fun x =>
        let keep := x.buf.dropWhile (·.1 != pe.nextSeq)
        { x with buf := keep, replay := keep.map (·.1), replays := 0 }
    else newLink p pe s
  let s := setLink s p lsACTIVE
  let s := wrF s (PRT_LINK_STATE p) PRT_LINK_STATE_PEER_ROLE pe.role
  let s := wrF s (PRT_LINK_STATE p) PRT_LINK_STATE_PEER_SWITCH pe.switch
  let s := wrF s (PRT_LINK_STATE p) PRT_LINK_STATE_PEER_PORT pe.port
  let s := wrF s (PRT_LINK_STATE p) PRT_LINK_STATE_PEER_VEPS pe.veps
  modPort (showLive (gangBase s p) s) p fun x => { x with prev := some pe }

/-- R342: a TRAIN flit arrives. -/
def rxTrain (p : Nat) (f : Bytes) (s : State) : State :=
  if !flitOk f then rxBad p s
  else if s.flt.safe then s
  else
    let st := linkState s p
    if (trailerOf f).kind ≠ kTRAIN ∨ ¬(st = lsPARAM ∨ (st = lsRETRAIN ∧ (portOf s p).locked)) then s
    else
      let pe := Peer.ofBody f
      let s := modPort (progress (bump s (PRT_FLITS_RX p)) grPRT p) p fun x => { x with faultRun := 0 }
      if leAt f 0 1 ≠ 1 ∨ pe.credits.any (· == 0) ∨ pe.gang ≠ ownGang s p then
        raise srcPRT_LINK_PARAM p (modPort s p fun x => { x with peer := none })
      else
        let s := if (pe.role == 0) != trustedPort s p then raise srcPRT_LINK_ROLE p s else s
        let acked := (portOf s p).ownAcked || leAt f 25 1 == 1
        let s := modPort s p fun x => { x with peer := some pe, ownAcked := acked }
        if acked then linkActive p pe s else s

/-! ### Time marks (R344, R345) -/

/-- The stamp in ten bytes of a mark body. -/
def stampAt (f : Bytes) (i : Nat) : Stamp := ⟨leAt f i 8, leAt f (i + 8) 2⟩

/-- R69: a mark is due on a port: it takes the next slot that R332 gives it. -/
def markDue (p : Nat) (s : State) : State :=
  if linkState s p = lsACTIVE then modPort s p fun x => { x with markDue := true } else s

/-- Table LNK-6: the body of the mark a port sends now. -/
def markBody (s : State) (p : Nat) : Bytes :=
  let x := portOf s p
  let st := fun (t : Stamp) => leBytes 8 t.ns ++ leBytes 2 t.frac
  match x.lastMark with
  | some m => st s.clk ++ leBytes 2 x.markSeq ++ st m.tx ++ st m.rx ++ leBytes 2 m.seq ++ leBytes 1 (timState s + 4)
  | none => st s.clk ++ leBytes 2 x.markSeq ++ zeros 22 ++ leBytes 1 (timState s)

/-- The mean of a list of measurements. -/
def meanInt (l : List Int) : Int := if l.isEmpty then 0 else l.sum / l.length

/-- R345: one delay measurement on a port, in 2^-16 ns. -/
def delayMeasure (p : Nat) (d : Int) (s : State) : State :=
  let x := portOf s p
  if x.delays.length = 8 ∧ 2 * 65536 < (d - meanInt x.delays).natAbs then bump s (PRT_MARKS_DISCARDED p)
  else
    let ds := (d :: x.delays).take 8
    let s := setPort s p { x with delays := ds }
    let s := wrF s (PRT_TIME_DELAY p) PRT_TIME_DELAY_DELAY (wrapInt 32 (meanInt ds * 1000 / 65536))
    wrF s (PRT_TIME_DELAY p) PRT_TIME_DELAY_VALID (ds.length == 8).toNat

/-- R344, R345, R70: a TIME_MARK arrives on a port: it is kept for the echo, measured if it echoes a recent mark of this port, and
used for the offset when the port is the parent. -/
def rxMark (p : Nat) (f : Bytes) (s : State) : State :=
  let tx := stampAt f 0
  let rx := s.clk
  let echoTx := stampAt f 12
  let echoRx := stampAt f 22
  let x := portOf s p
  let valid := bit (leAt f 34 1) 2 && x.marksSent.any (fun m =>
    m.1 == leAt f 32 2 && m.2.1 == echoTx && decide (s.tim.ref - m.2.2 ≤ 4 * markInterval s))
  let s := if valid then
      delayMeasure p (((rx.fine - echoTx.fine) - (tx.fine - echoRx.fine)) / 2) s
    else s
  let s := modPort s p fun y => { y with lastMark := some ⟨tx, rx, leAt f 10 2⟩ }
  if rdF s TIM_SOURCE TIM_SOURCE_KIND = 3 ∧ rdF s TIM_SOURCE TIM_SOURCE_PORT = p then
    let delay := sext 32 (rdF s (PRT_TIME_DELAY p) PRT_TIME_DELAY_DELAY)
    let asym := sext 32 (rdF s (PRT_TIME_ASYM p) PRT_TIME_ASYM_ASYM)
    measure ((rx.fine - tx.fine) * 1000 / 65536 - delay - asym) (bump s TIM_MARKS_RX)
  else s

/-! ### The scheduler of an output -/

/-- The heads of the VOQs of port `b` and class `tc`, by slice: the first flit of each slice that nothing holds. A fenced slice sends
nothing (R422). -/
def voqHead (s : State) (b tc sl : Nat) : Option GCell := if blockFenced s grGND sl then none else (voq s sl (.port b) tc).head?

/-- The heads of a class's VOQs, in the circular order of R365. -/
def voqHeads (s : State) (b tc : Nat) : List GCell :=
  let last := sget (fun _ => 15) s.ground.lastSlice (8 * b + tc)
  (List.range 16).filterMap fun i => voqHead s b tc ((last + 1 + i) % 16)

/-- The virtual endpoint of the port that a flit is for. -/
def GCell.vep (c : GCell) : Nat := c.seg.hdr.dst % 16

/-- R31: the virtual endpoint whose turn it is among those for which a flit heads a VOQ: the one in its turn while its quantum lasts, else
the next in increasing index. -/
def vepPick (s : State) (b tc : Nat) (vs : List Nat) : Option Nat :=
  let (c, left) := sget (fun _ => (15, 0)) (portOf s b).veps tc
  if 0 < left ∧ vs.contains c then some c
  else ((List.range 16).map fun i => (c + 1 + i) % 16).find? vs.contains

/-- R365: the pinned transaction that a cell is a part of. -/
def GCell.lock (c : GCell) : Lock := ⟨c.slice, c.inPort, c.seg.hdr.src, c.seg.hdr.sint, c.seg.hdr.reqId, c.seg.hdr.type⟩

/-- R365, R31: the cell that output `b` and class `tc` serve next: the next of the pinned transaction that they are locked to, or the next
slice's in circular order, on a port with virtual endpoints among those that the endpoint in its turn heads. R382 picks the class first, so that the turns are taken within a class
(DEDUCED, log entry 103). -/
def nextCell (s : State) (b tc : Nat) : Option GCell :=
  match sfind s.ground.lock (8 * b + tc) with
  | some l => if blockFenced s grGND l.slice then none
    else (voq s l.slice (.port b) tc).find? fun c => !c.seg.hdr.spray && c.lock == l
  | none =>
    let hs := voqHeads s b tc
    if trustedPort s b then hs.head?
    else match vepPick s b tc (hs.map GCell.vep) with
      | some v => hs.find? (·.vep == v)
      | none => none

/-- Whether a class is considered in this slot (R382): a flit heads a VOQ, the gate is open, and credit is held. -/
def considered (s : State) (b tc : Nat) : Bool :=
  (nextCell s b tc).isSome && gateOpen s (b / 16) tc && 0 < sget (fun _ => 0) (portOf s b).credits tc

/-- The wake time of a virtual-time class, in 2^-32 ns. -/
def wakeOf (s : State) (b tc : Nat) : Nat := sget (fun _ => 0) s.ground.wake (8 * b + tc)

/-- Tokens of a token-bucket class, in bytes. -/
def tokensOf (s : State) (b tc : Nat) : Nat := sget (fun _ => 0) s.ground.tokens (8 * b + tc)

/-- The virtual-time class with the smallest wake time among some, ties in the order TC6, TC7, TC5. -/
def minWake (s : State) (b : Nat) (cs : List Nat) : Option Nat :=
  let pick := fun (m : Option Nat) (c : Nat) =>
    if cs.contains c then
      match m with
      | none => some c
      | some d => if wakeOf s b c < wakeOf s b d then some c else some d
    else m
  [6, 7, 5].foldl pick none

/-- The next token-bucket class among some, in circular order after the last one served. -/
def nextTb (s : State) (b : Nat) (cs : List Nat) : Option Nat :=
  let last := sget (fun _ => 4) s.ground.lastTb b
  ((List.range 5).map fun i => (last + 1 + i) % 5).find? cs.contains

/-- R382: the class that a port sends from in this slot. A wake time fires in the first 8 ns slot of the fine wheel at or after it (R385). -/
def pickClass (s : State) (b : Nat) : Option Nat :=
  let cs := (List.range 8).filter (considered s b)
  let vt := cs.filter (5 ≤ ·)
  let tb := cs.filter (· < 5)
  let due := fun (c : Nat) => cdiv (wakeOf s b c) (8 * 2 ^ 32) * 8 ≤ now s
  match minWake s b (vt.filter due) with
  | some c => some c
  | none =>
    match nextTb s b (tb.filter fun c => 256 ≤ tokensOf s b c) with
    | some c => some c
    | none =>
      match minWake s b vt with
      | some c => some c
      | none => nextTb s b (tb.filter fun c => QOS_TB_TC_MODE.get (inForce s (QOS_TB_TC b c)) == 0)

/-- QOS_VT.SHAREc; 0 acts as 1. -/
def shareOf (s : State) (b tc : Nat) : Nat :=
  max 1 (rdF s (QOS_VT b) (match tc with | 5 => QOS_VT_SHARE5 | 6 => QOS_VT_SHARE6 | _ => QOS_VT_SHARE7))

/-- R383, R384: what sending a flit of a class takes from its bucket or adds to its wake time. t_flit × 256 is 655.36 ns on an x4
port, in units of 2^-32 ns, rounded down. -/
def chargeClass (s : State) (b tc : Nat) : State :=
  let k := 8 * b + tc
  if tc < 5 then
    { s with ground := { s.ground with
      tokens := sset (fun _ => 0) s.ground.tokens k (tokensOf s b tc - 256),
      lastTb := sset (fun _ => 4) s.ground.lastTb b tc } }
  else
    let t := 65536 * 2 ^ 32 / (100 * gangWidth s b * shareOf s b tc)
    { s with ground := { s.ground with
      wake := sset (fun _ => 0) s.ground.wake k (max (wakeOf s b tc) (nowFine s * 65536) + t) } }

/-- R373: a pinned flit that was routed before change number `n` remains queued toward port `b`. -/
def oldRouted (s : State) (b n : Nat) : Bool :=
  s.ground.cells.any fun c => c.out == .port b && c.hold == .none && !c.seg.hdr.spray && c.stamp < n

/-- R373: release held pinned flits whose time has passed and toward whose old member nothing remains queued from before the change. -/
def releaseRoutes (s : State) : State :=
  let free := s.ground.routeHolds.filter fun h => h.timed && !oldRouted s h.oldPort h.at_
  if free.isEmpty then s else
  let keys := free.map (·.path)
  let go := s.ground.cells.filter fun c => c.hold == .route && keys.contains (pathKey c.seg.hdr c.desc)
  let s := { s with ground := { s.ground with
    routeHolds := s.ground.routeHolds.filter (fun h => !keys.contains h.path),
    cells := s.ground.cells.filter (fun c => !(c.hold == .route && keys.contains (pathKey c.seg.hdr c.desc))),
    paths := free.foldl (fun m h => sset (fun _ => 0) m h.path (h.newPort + 1)) s.ground.paths } }
  go.foldl (fun s c => routeIn s { c with hold := .none }) s

/-- R373: HOLD µs have passed since the change of a path. Where no flit of the path waits, and none remains queued toward the old
member, its later flits do not wait either. -/
def routeHoldOver (path : Nat) (s : State) : State :=
  let old := sget (fun _ => 0) s.ground.paths path
  if s.ground.routeHolds.any (fun h => h.path == path) then
    releaseRoutes { s with ground := { s.ground with
      routeHolds := s.ground.routeHolds.map fun h => if h.path = path then { h with timed := true } else h } }
  else if oldRouted s (old - 1) s.ground.seen then s
  else { s with ground := { s.ground with paths := sset (fun _ => 0) s.ground.paths path 0 } }

/-- The ground gives up a cell to port `b`, by R365: the lock of a pinned transaction follows its segments. -/
def takeCell (s : State) (b tc : Nat) (c : GCell) : State :=
  let k := 8 * b + tc
  let s := { s with ground := { s.ground with
    cells := s.ground.cells.erase c, stalled := s.ground.stalled.erase k, tokenWait := s.ground.tokenWait.erase k,
    lock := if c.seg.hdr.spray || c.seg.hdr.last then sdel s.ground.lock k else sput s.ground.lock k c.lock,
    lastSlice := sset (fun _ => 15) s.ground.lastSlice k c.slice } }
  let s := cellLeaves s c
  releaseRoutes (drainWaiting s)

/-! ### Sending -/

/-- R338: the class whose releases a flit reports: the next one with unreported releases. -/
def reportClass (x : Port) : Nat :=
  match ((List.range 8).map fun i => (x.repRot + 1 + i) % 8).find? (fun c =>
      sget (fun _ => 0) x.released c != sget (fun _ => 0) x.reported c) with
  | some c => c
  | none => x.repRot

/-- Send a flit of a kind on port `p` with a fresh trailer (Table LNK-2). Of a class's releases it reports 127 at most (R338). -/
def sendFlit (s : State) (p kind lseq : Nat) (body : Bytes) : State :=
  let b := gangBase s p
  let x := portOf s b
  let c := reportClass x
  let rel := min (sget (fun _ => 0) x.released c) (sget (fun _ => 0) x.reported c + 127)
  let f := mkFlit body ⟨lseq, (portOf s p).lack, rel % 256, c, kind, true⟩
  let s := setPort s b { x with reported := sset (fun _ => 0) x.reported c rel, repRot := c }
  let s := modPort s p fun y => { y with out := f }
  progress (bump s (PRT_FLITS_TX p)) grPRT p

/-- A new DATA flit: its body enters the replay buffer (R333). -/
def sendData (s : State) (p : Nat) (body : Bytes) : State :=
  let q := (portOf s p).nextSeq
  let s := sendFlit s p kDATA q body
  modPort s p fun x => { x with nextSeq := (q + 1) % 256, buf := x.buf ++ [(q, body)], sentAt := x.sentAt ++ [(q, s.tim.ref)] }

/-- R348: whether it is port `p`'s turn to take the gang's next new DATA flit. -/
def gangTurn (s : State) (p : Nat) : Bool :=
  let b := gangBase s p
  gangNext s b (portOf s b).txTurn (gangLive s b).contains == some p

/-- R31, Table PKG-6: a flit of endpoint `v` has been sent: it uses one of the 16 × weight flits of its turn, and starts one where it was
not its turn. The turn ends where no further flit of the endpoint is ready. -/
def vepSlice (s : State) (b tc v : Nat) : State :=
  let quantum := 16 * (rdF s (PRT_VEP_WEIGHT b) (PRT_VEP_WEIGHT_VEP v) + 1)
  let (c, left) := sget (fun _ => (15, 0)) (portOf s b).veps tc
  let left := if c = v ∧ 0 < left then left - 1 else quantum - 1
  let more := (voqHeads s b tc).any (·.vep == v)
  modPort s b fun x => { x with veps := sset (fun _ => (15, 0)) x.veps tc (v, if more then left else 0) }

/-- Count the flits that something holds back, each once: the next of a class without credit, and that of a token-bucket class in LIMIT mode
without tokens (Tables LNK-9 and GND-8). -/
def countStalls (s : State) (b : Nat) : State :=
  let blocked := (List.range 8).filter fun c =>
    (nextCell s b c).isSome && gateOpen s (b / 16) c && sget (fun _ => 0) (portOf s b).credits c == 0
      && !s.ground.stalled.contains (8 * b + c)
  let limited := (List.range 5).filter fun c =>
    considered s b c && decide (tokensOf s b c < 256) && QOS_TB_TC_MODE.get (inForce s (QOS_TB_TC b c)) == 1
      && !s.ground.tokenWait.contains (8 * b + c)
  let s := { s with ground := { s.ground with
    stalled := s.ground.stalled ++ blocked.map (8 * b + ·), tokenWait := s.ground.tokenWait ++ limited.map (8 * b + ·) } }
  bump (bump s (PRT_CREDIT_STALL b) blocked.length) (QOS_TOKEN_WAIT b) limited.length

/-- A port sends the next new DATA flit of its gang, if any (R332 item 5). -/
def sendNew (s : State) (p : Nat) : Option State :=
  let b := gangBase s p
  if 64 ≤ (portOf s p).buf.length ∨ !gangTurn s p then none
  else
    let turn := fun (s : State) => modPort s b fun x => { x with txTurn := (p - b + 1) % gangWidth s b }
    match (portOf s b).redeal with
    | body :: r => some (turn (sendData (modPort s b fun x => { x with redeal := r }) p body))
    | [] =>
      match pickClass s b with
      | none => none
      | some tc =>
        match nextCell s b tc with
        | none => none
        | some c =>
          let s := takeCell s b tc c
          let s := modPort s b fun x => { x with credits := sset (fun _ => 0) x.credits tc (sget (fun _ => 0) x.credits tc - 1) }
          let s := vepSlice (chargeClass s b tc) b tc c.vep
          some (turn (sendData (bump s (QOS_FLITS_TC p tc)) p c.seg.body))

/-- A flit that reports no release goes out on port `p`. -/
def sendBare (s : State) (p : Nat) (body : Bytes) (t : Trailer) : State :=
  progress (bump (modPort s p fun x => { x with out := mkFlit body t }) (PRT_FLITS_TX p)) grPRT p

/-- R340: the states in which a port sends TRAIN blocks. -/
def training (st : Nat) : Bool := st == lsALIGN || st == lsPARAM || st == lsRETRAIN

/-- R332, R333: the IDLE flit of a slot between two TRAIN blocks. -/
def trainIdle (p : Nat) (s : State) : State :=
  let b := portOf s (gangBase s p)
  sendBare s p [] ⟨(portOf s p).nextSeq, (portOf s p).lack, sget (fun _ => 0) b.reported b.repRot % 256, b.repRot, kIDLE, true⟩

/-- R332: one flit slot of port `p`. -/
def flitSlot (p : Nat) (s : State) : State :=
  if s.flt.safe then
    if linkState s p = lsDISABLED then s else sendBare s p [] ⟨(portOf s p).nextSeq, 0, 0, 0, kFAULT_IDLE, false⟩
  else if training (linkState s p) then trainIdle p s
  else if linkState s p ≠ lsACTIVE then s
  else
    let x := portOf s p
    if x.retryDue then sendFlit (setPort s p { x with retryDue := false }) p kRETRY_REQ x.nextSeq []
    else match x.control with
    | c :: r => sendFlit (setPort s p { x with control := r }) p kCONTROL x.nextSeq c
    | [] =>
      if x.markDue then
        let body := markBody s p
        let sent := ((x.markSeq, s.clk, s.tim.ref) :: x.marksSent).take 64
        sendFlit (setPort s p { x with markDue := false, markSeq := (x.markSeq + 1) % 65536, marksSent := sent }) p
          kTIME_MARK x.nextSeq body
      else match x.replay with
      | q :: r =>
        match x.buf.find? (·.1 == q) with
        | some (_, body) => sendFlit (setPort s p { x with replay := r }) p kDATA q body
        | none => sendFlit (setPort s p { x with replay := r }) p kIDLE x.nextSeq []
      | [] =>
        match sendNew s p with
        | some s' => countStalls s' (gangBase s p)
        | none => sendFlit (countStalls s (gangBase s p)) p kIDLE x.nextSeq []

/-- R340: the port sends its TRAIN block in ALIGN, PARAM and RETRAIN. -/
def trainTx (p : Nat) (s : State) : State :=
  if !s.flt.safe && training (linkState s p) then
    let s := sendBare s p (trainBody s p) ⟨(portOf s p).nextSeq, 0, 0, 0, kTRAIN, false⟩
    let b := gangBase s p
    modPort s b fun x => { x with announced := some (rdReg s (PRT_CREDIT_ADV b)) }
  else s

/-! ### Flits of other kinds as they arrive -/

/-- CONTROL: OP 1 GANG_CUT, 2 RETRAIN_REQ. -/
def rxControl (p op : Nat) (f : Bytes) (s : State) : State :=
  rxOther p kCONTROL f (fun _ s =>
    if leAt f 0 1 ≠ op then s
    else if op = 1 then rxGangCut p (leAt f 1 1) (leAt f 2 1) s
    else linkRetrain p s) s

/-- FAULT_IDLE as it arrives. -/
def rxFault (p : Nat) (f : Bytes) (s : State) : State :=
  if !flitOk f then rxBad p s
  else if s.flt.safe ∨ (trailerOf f).kind ≠ kFAULT_IDLE then s
  else rxFaultIdle p (bump s (PRT_FLITS_RX p))

/-! ### Token buckets and policers (R383, R386) -/

/-- A refill event of port `b`: `sel` 0 to 4 a token bucket, 8 + v the stage-1 policer of endpoint v, 32 + c the stage-2 policer of
class c. A pending change takes effect, tokens are capped, and held red flits are metered again. -/
def refill (b sel : Nat) (s : State) : State :=
  let put := fun (a : Nat) (s : State) =>
    { s with ground := { s.ground with inForce := sset regReset s.ground.inForce a (rdReg s a) } }
  let again := fun (s : State) => (List.range 6).foldl (fun s c => remeter s.ground.cells.length s b c) s
  let pol := fun (a bb k : Nat) (s : State) =>
    let s := put bb (put a s)
    let wa := rdReg s a
    let wb := rdReg s bb
    let m := sget (fun _ => {}) s.ground.meters k
    let cir := QOS_POL_VEP_A_CIR.get wa
    let cbs := 256 * QOS_POL_VEP_A_CBS.get wa
    let ebs := 256 * QOS_POL_VEP_B_EBS_PBS.get wb
    let m' : Meter :=
      if QOS_POL_VEP_A_KIND.get wa = 2 then
        ⟨min cbs (m.c + cir), min ebs (m.e + QOS_POL_VEP_B_PIR.get wb)⟩
      else
        let c := min cbs m.c
        let c' := min cbs (c + cir)
        ⟨c', min ebs (m.e + (c + cir - c'))⟩
    { s with ground := { s.ground with meters := sset (fun _ => {}) s.ground.meters k m' } }
  if sel < 5 then
    let a := QOS_TB_TC b sel
    let s := put a s
    let w := rdReg s a
    let t := min (256 * QOS_TB_TC_BURST.get w) (tokensOf s b sel + QOS_TB_TC_RATE.get w)
    { s with ground := { s.ground with tokens := sset (fun _ => 0) s.ground.tokens (8 * b + sel) t } }
  else if 8 ≤ sel ∧ sel < 24 then
    again (pol (QOS_POL_VEP_A b (sel - 8)) (QOS_POL_VEP_B b (sel - 8)) (meterKey b 0 (sel - 8)) s)
  else if 32 ≤ sel ∧ sel < 38 then
    again (pol (QOS_POL_TC_A b (sel - 32)) (QOS_POL_TC_B b (sel - 32)) (meterKey b 1 (sel - 32)) s)
  else s

end Sys2Proof.Machine
end

