-- ==== Sys2Proof/Machine/Bobbin.lean ====
section
/-! DEFINITION. Stream programs and bobbins (chapter 4): program images and their checks (R106, R107), descriptors (R108 to R112), bobbin
states (R113, R122 to R126) and the order of a station's work (R118, R119). Region SRAM (R127, R128). -/

namespace Sys2Proof.Machine

/-! ### Program images -/

/-- A program bank's image. -/
def progOf (s : State) (n bank : Nat) : Bytes := sget (fun _ => []) s.banks (2 * n + bank)

/-- Fields of Table STR-2. -/
def phStations (p : Bytes) : Nat := leAt p 0x18 1
def phBobbins (p : Bytes) : Nat := leAt p 0x1A 2
def phDescs (p : Bytes) : Nat := leAt p 0x1C 4
def phStationOff (p : Bytes) : Nat := leAt p 0x20 4
def phBobbinOff (p : Bytes) : Nat := leAt p 0x24 4
def phDescOff (p : Bytes) : Nat := leAt p 0x28 4
def phParamOff (p : Bytes) : Nat := leAt p 0x2C 4
def phParamBytes (p : Bytes) : Nat := leAt p 0x30 4
def phSharedBase (p : Bytes) : Nat := leAt p 0x34 4 % 2 ^ 17
def phSharedGran (p : Bytes) : Nat := leAt p 0x38 4 % 2 ^ 15

/-- A station table entry (Table STR-3). -/
structure Stn where
  name0 : Nat
  name1 : Nat
  type : Nat
  engine : Nat
  mask : Nat
  in0 : Nat
  in1 : Nat
  out : Nat
  unsched : Bool
  param : Bytes
  deriving DecidableEq, Repr, Inhabited

/-- Station `i` of an image. -/
def stnOf (p : Bytes) (i : Nat) : Stn :=
  let o := phStationOff p + 32 * i
  ⟨leAt p o 8, leAt p (o + 8) 8, leAt p (o + 0x10) 1, leAt p (o + 0x11) 1, leAt p (o + 0x12) 2, leAt p (o + 0x14) 1,
    leAt p (o + 0x15) 1, leAt p (o + 0x16) 1, bit (leAt p (o + 0x17) 1) 0,
    bslice p (phParamOff p + leAt p (o + 0x18) 4) (leAt p (o + 0x1C) 4)⟩

/-- The stations of an image. -/
def stns (p : Bytes) : List Stn := (List.range (phStations p)).map (stnOf p)

/-- A bobbin table entry (Table STR-4). -/
structure BobEnt where
  stream : Nat
  mode : Nat
  bob : Nat
  base : Nat
  gran : Nat
  first : Nat
  maxReads : Nat
  baseTile : Nat
  epochStep : Nat
  deriving DecidableEq, Repr, Inhabited

/-- Bobbin entry `i` of an image. -/
def bobEntAt (p : Bytes) (i : Nat) : BobEnt :=
  let v := leAt p (phBobbinOff p + 32 * i) 32
  ⟨bits v 19 0, bits v 21 20, bits v 31 24, bits v 48 32, bits v 63 49, bits v 87 64, bits v 94 88, bits v 127 96, bits v 159 128⟩

/-- The bobbin entries of an image. -/
def bobEnts (p : Bytes) : List BobEnt := (List.range (phBobbins p)).map (bobEntAt p)

/-- The entry of a bobbin that an image names: MODE 0 is unused. -/
def bobEnt (p : Bytes) (b : Nat) : Option BobEnt := (bobEnts p).find? fun e => e.bob == b && (e.mode == 1 || e.mode == 2)

/-! Station type codes (Table STR-7). -/
def tyINGRESS : Nat := 0x01
def tyEGRESS : Nat := 0x02
def tyLOAD : Nat := 0x03
def tySTORE : Nat := 0x04
def tyEXPAND : Nat := 0x05
def tyMATMUL : Nat := 0x06
def tyELEMWISE : Nat := 0x07
def tyNORM : Nat := 0x08
def tyATTEND : Nat := 0x09
def tyREDUCE : Nat := 0x0A
def tyGATHER : Nat := 0x0B
def tySCATTER : Nat := 0x0C
def tyFILTER : Nat := 0x0D
def tyCONVERT : Nat := 0x0E
def tyCOMPRESS : Nat := 0x0F

/-- R143: whether two input formats and an output format form a class of MATMUL. -/
def mmClassOk (a b o : Nat) : Bool :=
  ((mmNarrow a && mmNarrow b) || (fmtMx a && fmtMx b) || (mm16 a && mm16 b))
    && fmtValid o && (o != 0x0C && o != 0x10 || (a == 0x0C && b == 0x0C))

/-- R186: the format rules of an ATTEND station. -/
def attClassOk (a b o : Nat) : Bool :=
  (((b == 7 || b == 8) && (a == 7 || a == 8)) || (mm16 b && mm16 a)) && fmtValid o && o != 0x0C && o != 0x10

/-- R107, R143, R161, R186, R214, R228 to R231: the rules of one station entry; `RESULT = 5` where they fail. -/
def stnOk (x : Stn) : Bool :=
  let zeroOr := fun f => f == 0 || fmtValid f
  1 ≤ x.type && x.type ≤ 0x0F && x.engine < 32 && zeroOr x.in0 && zeroOr x.in1 && zeroOr x.out
    && (x.mask == 0 || x.type == tyEXPAND || x.type == tyMATMUL || x.type == tyATTEND || x.type == tyCOMPRESS)
    && (if x.type = tyMATMUL ∨ x.type = tyEXPAND ∨ x.type = tyCOMPRESS then mmClassOk x.in0 x.in1 x.out
        else if x.type = tyATTEND then attClassOk x.in0 x.in1 x.out
        else if x.type = tyGATHER then x.in0 == 0x10 && fmtValid x.out
        else if x.type = tySCATTER then x.in0 == 0x10 && fmtValid x.in1 && !fmtMx x.in1
        else if x.type = tyFILTER then x.out == x.in0 && fmtValid x.in0 && !fmtMx x.in0 && !fmtMx x.in1
        else if x.type = tyLOAD ∨ x.type = tyINGRESS then fmtValid x.out
        else if x.type = tySTORE ∨ x.type = tyEGRESS ∨ x.type = tyREDUCE then fmtValid x.in0
        else fmtValid x.in0 && fmtValid x.out)

/-- Whether a list has no repeats. -/
def distinct : List Nat → Bool
  | [] => true
  | x :: r => !r.contains x && distinct r

/-- Whether masks are disjoint. -/
def disjoint : List Nat → Bool
  | [] => true
  | x :: r => r.all (fun y => x &&& y == 0) && disjoint r

/-- R107: the checks of an image of `bytes` bytes: 1 loaded, or the failed check's RESULT. An entry of the reserved MODE 3 fails with 6, and
the ranges of an entry of MODE 0 are not looked at (DESIGN CHOICE, log entry 116). -/
def imageCheck (p : Bytes) (bytes : Nat) : Nat :=
  let fits := fun (o k : Nat) => o + k ≤ bytes
  let head := leAt p 0 4 == 0x50535848 && leAt p 4 2 == 1 && leAt p 0x10 4 == bytes && bytes % 32 == 0 && 64 ≤ bytes
    && bytes ≤ 1048576 && 1 ≤ phStations p && phStations p ≤ 32 && phBobbins p ≤ 256 && 1 ≤ phDescs p && phDescs p ≤ 32767
    && phStationOff p % 32 == 0 && phBobbinOff p % 32 == 0 && phDescOff p % 32 == 0
    && fits (phStationOff p) (32 * phStations p) && fits (phBobbinOff p) (32 * phBobbins p) && fits (phDescOff p) (32 * phDescs p)
    && fits (phParamOff p) (phParamBytes p)
    && (List.range (phStations p)).all fun i =>
        let o := phStationOff p + 32 * i
        leAt p (o + 0x18) 4 + leAt p (o + 0x1C) 4 ≤ phParamBytes p
  if !head then 3
  else if crc32c (p.take 0x14 ++ zeros 4 ++ p.drop 0x18) ≠ leAt p 0x14 4 then 4
  else
    let st := stns p
    if !(st.all stnOk && distinct (st.map (·.engine)) && disjoint (st.map (·.mask))
        && (st.filter fun x => x.type == tyREDUCE).length ≤ 1) then 5
    else
      let bs := (bobEnts p).filter fun e => e.mode != 0
      if !(phSharedBase p + phSharedGran p ≤ 98304 && bs.all (fun e => e.base + e.gran ≤ 98304 && e.first < phDescs p
          && 1 ≤ e.maxReads && e.maxReads ≤ 64 && e.mode ≤ 2) && distinct (bs.map (·.bob))) then 6
      else 1

/-- Whether a bank holds a valid image. -/
def bankValid (s : State) (n bank : Nat) : Bool := bit (rdF s (CRG_PROG_STATE n) CRG_PROG_STATE_VALID) bank

/-- R106: the bank that is to be in force in region `n`. -/
def bankSelected (s : State) (n : Nat) : Nat :=
  match crgDom s n with
  | some d => bankInForce s d
  | none => rdF s (CRG_PROG_SEL n) CRG_PROG_SEL_BANK

/-- The bank in force. -/
def bankNow (s : State) (n : Nat) : Nat := rdF s (CRG_PROG_STATE n) CRG_PROG_STATE_IN_FORCE

/-! ### Region SRAM (R127, R128) -/

/-- Bytes of a region's SRAM. -/
def sramSize : Nat := 50331648

/-- `k` bytes of region `n`'s SRAM from byte `a`. -/
def sramGet (s : State) (n a k : Nat) : Bytes := (List.range k).map fun i => sget (fun _ => 0) s.sram (sramSize * n + a + i)

/-- Store bytes in a region's SRAM; a bad word is good once it is written (R128). -/
def sramPut (n a : Nat) (d : Bytes) (s : State) : State :=
  let lo := (sramSize * n + a) / 8
  let hi := (sramSize * n + a + d.length + 7) / 8
  { s with
    sram := (d.zipIdx).foldl (fun m x => sset (fun _ => 0) m (sramSize * n + a + x.2) x.1) s.sram
    sramBad := s.sramBad.filter fun w => !(lo ≤ w && w < hi) }

/-- Whether a run of bytes holds a word with an uncorrectable error. -/
def sramBadIn (s : State) (n a k : Nat) : Bool :=
  s.sramBad.any fun w => (sramSize * n + a) / 8 ≤ w && w < (sramSize * n + a + k + 7) / 8

/-! ### Bobbins -/

/-- Bobbin states (Table STR-8). -/
def bsIDLE : Nat := 0
def bsARMED : Nat := 1
def bsRUNNING : Nat := 2
def bsWAIT_MEM : Nat := 3
def bsWAIT_ROUND : Nat := 4
def bsDONE : Nat := 5
def bsFAULTED : Nat := 6

/-- The region of a bobbin's global index, and its index there. -/
def bobRgn (b : Nat) : Nat := b / 256
def bobIdx (b : Nat) : Nat := b % 256

def bobState (s : State) (b : Nat) : Nat := rdF s (BOB_STATE b) BOB_STATE_STATE
def setBobState (b v : Nat) (s : State) : State := wrF s (BOB_STATE b) BOB_STATE_STATE v
def bobMode (s : State) (b : Nat) : Nat := rdF s (BOB_STATE b) BOB_STATE_MODE
def bobBank (s : State) (b : Nat) : Nat := rdF s (BOB_STATE b) BOB_STATE_BANK
def bobCursor (s : State) (b : Nat) : Nat := rdF s (BOB_STATE b) BOB_STATE_CURSOR
def setCursor (b v : Nat) (s : State) : State := wrF s (BOB_STATE b) BOB_STATE_CURSOR v
def bobOf (s : State) (b : Nat) : Bobbin := sget (fun _ => {}) s.bobs b
def setBob (s : State) (b : Nat) (x : Bobbin) : State := { s with bobs := sset (fun _ => {}) s.bobs b x }
def modBob (b : Nat) (f : Bobbin → Bobbin) (s : State) : State := setBob s b (f (bobOf s b))

/-- The bobbins of region `n`. -/
def rgnBobs (n : Nat) : List Nat := (List.range 256).map (256 * n + ·)

/-- The image a bobbin runs. -/
def bobProg (s : State) (b : Nat) : Bytes := progOf s (bobRgn b) (bobBank s b)

/-- Whether a bobbin is scheduled. -/
def bobSched (s : State) (b : Nat) : Bool := bobMode s b == 1

/-- R126: a bobbin faults: it records the code, the station, the descriptor, the detail and T, and raises STEP_FAULT. Any state but
IDLE. -/
def bobFault (b code station desc detail tile : Nat) (st : Option Step) (s : State) : State :=
  if bobState s b = bsIDLE then s else
  let w := BOB_FAULT_DETAIL.set (BOB_FAULT_DESC.set (BOB_FAULT_STATION.set (BOB_FAULT_CODE.set 0 code) station) desc) detail
  let s := wrF (wrReg s (BOB_FAULT b) w) (BOB_FAULT_TILE b) BOB_FAULT_TILE_TILE tile
  addDue (.bobGone b st) (raise srcBOB_STEP_FAULT b (setBobState b bsFAULTED s))

/-- A partition fence reaches a bobbin: FENCED, without a source of its own (Table STR-8, R423). -/
def bobFenced (b : Nat) (s : State) : State :=
  if bobState s b = bsIDLE then s else
  let s := wrReg s (BOB_FAULT b) (BOB_FAULT_CODE.set 0 0x10)
  addDue (.bobGone b none) (setBobState b bsFAULTED (modBob b (fun x => { x with steps := [] }) s))

/-- Discard a bobbin's issued steps (R33). -/
def dropSteps (b : Nat) (s : State) : State := modBob b (fun x => { x with steps := [] }) s

/-- Put a bobbin at the start of its program: cursor at FIRST_DESC, an empty loop stack, no steps. -/
def bobRestart (b : Nat) (e : BobEnt) (bank : Nat) (s : State) : State :=
  let w := rdReg s (BOB_STATE b)
  let w := BOB_STATE_MODE.set (BOB_STATE_BANK.set (BOB_STATE_STREAM_ID.set (BOB_STATE_CURSOR.set w e.first) e.stream) bank) e.mode
  setBob (wrReg s (BOB_STATE b) w) b {}

/-! ### Banks take force -/

/-- STN_BIND and STN_NAME of the engines of a region follow the bank in force (Table STR-10). -/
def bindStations (n : Nat) (s : State) : State :=
  let p := progOf s n (bankNow s n)
  let st := if bankValid s n (bankNow s n) then stns p else []
  (List.range 32).foldl (fun s e =>
    let u := 32 * n + e
    match st.find? fun x => x.engine == e with
    | some x =>
      let w := STN_BIND_TYPE.set (STN_BIND_TBK_MASK.set (STN_BIND_FMT_IN0.set (STN_BIND_FMT_IN1.set (STN_BIND_FMT_OUT.set
        (STN_BIND_UNSCHED.set 0 x.unsched.toNat) x.out) x.in1) x.in0) x.mask) x.type
      wrReg (wrReg (wrReg s (STN_BIND u) w) (STN_NAME0 u) (BitVec.ofNat 64 x.name0)) (STN_NAME1 u) (BitVec.ofNat 64 x.name1)
    | none => wrReg (wrReg (wrReg s (STN_BIND u) 0) (STN_NAME0 u) 0) (STN_NAME1 u) 0) s

/-- Whether the partition that owns region `n` is fenced. -/
def ownerFenced (s : State) (n : Nat) : Bool := (ownerCRG s n).any (partFenced s)

/-- A bank takes force in a region that no domain restarts now (R106): unbound, or at a binding. -/
def bankTakesForce (n : Nat) (s : State) : State :=
  bindStations n (wrF s (CRG_PROG_STATE n) CRG_PROG_STATE_IN_FORCE (bankSelected s n))

/-- R113, Table STR-8: the scheduled bobbins of region `n` at an epoch boundary; a bank switch applies first. An IDLE bobbin runs only where a
bank that names it takes force, and in a fenced partition none does (R423). An invalid bank raises PROG_INVALID at every boundary while it
stays in force (DESIGN CHOICE, log entry 117). -/
def epochRestart (n : Nat) (s : State) : State :=
  let old := bankNow s n
  let bank := bankSelected s n
  let switched := old != bank
  let s := wrF s (CRG_PROG_STATE n) CRG_PROG_STATE_IN_FORCE bank
  let e := rdF s (CRG_PROG_STATE n) CRG_PROG_STATE_EPOCHS
  let s := wrF s (CRG_PROG_STATE n) CRG_PROG_STATE_EPOCHS (if switched then 0 else e + 1)
  let s := if switched then bindStations n s else s
  let p := progOf s n bank
  let valid := bankValid s n bank
  let s := raiseIf (!valid) srcCRG_PROG_INVALID n s
  let bs := rgnBobs n
  let cut := bs.any fun b => bobSched s b && (bobState s b == bsRUNNING || bobState s b == bsWAIT_MEM || bobState s b == bsWAIT_ROUND)
  let s := raiseIf cut srcCRG_PROG_TRUNCATED n s
  bs.foldl (fun s b =>
    let st := bobState s b
    let busy := st != bsIDLE && bobMode s b == 2
    if busy then s else
    match if valid then bobEnt p (bobIdx b) else none with
    | some x =>
      if x.mode = 1 ∧ st ≠ bsFAULTED ∧ (st ≠ bsIDLE ∨ switched ∧ !ownerFenced s n) then setBobState b bsRUNNING (bobRestart b x bank s)
      else if x.mode = 1 then s
      else if st = bsIDLE then s
      else setBobState b bsIDLE (setBob s b {})
    | none => if st = bsIDLE then s else setBobState b bsIDLE (setBob s b {})) s

/-! ### Descriptors (R108 to R112) -/

/-- The descriptor at an index. -/
def descAt (p : Bytes) (i : Nat) : Nat := leAt p (phDescOff p + 32 * i) 32

/-- R112: the displacement D and the slot stride S of the stack. -/
def displacement (baseTile epochs step : Nat) (st : List LoopLvl) : Nat :=
  st.foldl (fun d l => d + l.i * l.tstep) (baseTile + epochs * step)
def slotStride (st : List LoopLvl) : Nat := st.foldl (fun d l => d + l.i * l.sstep) 0

/-- The number of tiles that PARAM[7:0] names. -/
def tilesOf (param : Nat) : Nat := param % 256 + 1

/-- The granules of a run of `k` tiles. -/
def runGran (f rows k : Nat) : Nat := k * tileGran f rows

/-- R109: how many granules each operand of a step takes, as far as the descriptor, the formats and the parameter block say:
IN0, IN1, IN2, OUT. EXPAND, ATTEND and COMPRESS find theirs from memory or from a block that must be valid first: their plan says them. -/
def operandGran (x : Stn) (param rows : Nat) : Nat × Nat × Nat × Nat :=
  let n := tilesOf param
  if x.type = tyINGRESS then (0, 0, 0, tileGran x.out rows)
  else if x.type = tyEGRESS then (tileGran x.in0 rows, 0, 0, 0)
  else if x.type = tyLOAD then (0, 0, 0, runGran x.out rows (param + 1))
  else if x.type = tySTORE then (runGran x.in0 rows (param + 1), 0, 0, 0)
  else if x.type = tyMATMUL then
    let kt := param % 16 + 1
    let nt := param / 16 % 16 + 1
    (runGran x.in0 rows kt, runGran x.in1 128 (kt * nt), 0, runGran x.out rows nt)
  else if x.type = tyELEMWISE then (runGran x.in0 rows n, if leAt x.param 8 1 = 0 then 0 else runGran x.in1 rows n, 0, runGran x.out rows n)
  else if x.type = tyNORM then (runGran x.in0 rows n, 2 * n, tileGran 0x0F rows, runGran x.out rows n)
  else if x.type = tyREDUCE then (runGran x.in0 rows n, 0, 0, 0)
  else if x.type = tyGATHER then (n, 0, 0, runGran x.out 128 n)
  else if x.type = tySCATTER then (n, runGran x.in1 128 n, 0, 0)
  else if x.type = tyFILTER then
    if leAt x.param 0 1 = 2 then (runGran x.in0 rows n, runGran x.in1 rows n, tileGran 0x10 rows, tileGran x.out rows)
    else (runGran x.in0 rows n, runGran x.in1 rows n, runGran 0x10 rows n, runGran x.out rows n)
  else if x.type = tyCONVERT then (runGran x.in0 rows n, 0, 0, runGran x.out rows n)
  else (0, 0, 0, 0)

/-- Whether an operand of a type is written by the step: IN2 of NORM and FILTER, and of ATTEND in its forward modes; OUT always. -/
def in2Written (x : Stn) : Bool :=
  x.type == tyNORM || x.type == tyFILTER || (x.type == tyATTEND && leAt x.param 8 1 ≤ 2)

/-- R109, R112: the place of an operand: none for 0xFFFF; the first granule and the end of its area. -/
def operandPlace (p : Bytes) (e : BobEnt) (ref stride : Nat) (strided : Bool) : Option (Nat × Nat) :=
  if ref = 0xFFFF then none
  else if bit ref 15 then some (phSharedBase p + ref % 2 ^ 15, phSharedBase p + phSharedGran p)
  else some (e.base + ref % 2 ^ 15 + (if strided then stride else 0), e.base + e.gran)

/-- R121: the fewest reads of at most 4 KiB, each in one 4 KiB range, that cover `n` bytes at `a`. -/
def readsFor (a n : Nat) : Nat := if n = 0 then 0 else (a + n - 1) / 4096 - a / 4096 + 1

/-- Whether a station type works in reads (R121). -/
def readsMem (t : Nat) : Bool := t == tyLOAD || t == tySTORE || t == tyEXPAND || t == tyGATHER || t == tyATTEND || t == tyCOMPRESS

/-- R117: the units of a step known at issue. -/
def unitsOf (x : Stn) (param : Nat) : Nat :=
  if x.type = tyMATMUL then param / 16 % 16 + 1
  else if x.type = tyELEMWISE ∨ x.type = tyEXPAND ∨ x.type = tyREDUCE then tilesOf param
  else if x.type = tyLOAD ∨ x.type = tySTORE then param + 1
  else 1

/-- The granules of an operand's run of `g` granules. -/
def runOf (o : Option (Nat × Nat)) (g : Nat) : List (Nat × Nat) := match o with
  | some (a, _) => [(a, g)]
  | none => []

/-- R109: a run of `g` granules lies in its operand's area. A step without that operand has no run. -/
def runFits (o : Option (Nat × Nat)) (g : Nat) : Bool :=
  match o with
  | some (a, z) => g == 0 || a + g ≤ z
  | none => true

/-- R109: whether the runs of a step lie in their areas. -/
def runsFit (st : Step) : Bool :=
  runFits st.in0 st.grans.1 && runFits st.in1 st.grans.2.1 && runFits st.in2 st.grans.2.2.1 && runFits st.out st.grans.2.2.2

/-- Granule ranges of a step: those it reads and those it writes. -/
def stepReads (x : Stn) (st : Step) : List (Nat × Nat) :=
  runOf st.in0 st.grans.1 ++ runOf st.in1 st.grans.2.1 ++ (if in2Written x then [] else runOf st.in2 st.grans.2.2.1)
def stepWrites (x : Stn) (st : Step) : List (Nat × Nat) :=
  runOf st.out st.grans.2.2.2 ++ (if in2Written x then runOf st.in2 st.grans.2.2.1 else [])

/-- Whether two lists of granule ranges meet. -/
def rangesMeet (a b : List (Nat × Nat)) : Bool := a.any fun x => b.any fun y => overlap x.1 x.2 y.1 y.2

/-- R122: a hazard of a new step on an earlier incomplete one. While memory has not said which runs a step has, it is a hazard with every other
(DESIGN CHOICE, log entry 127). -/
def hazard (p : Bytes) (old new : Step) : Bool :=
  let xo := stnOf p old.station
  let xn := stnOf p new.station
  old.vague || new.vague || rangesMeet (stepWrites xo old) (stepReads xn new ++ stepWrites xn new) || rangesMeet (stepReads xo old) (stepWrites xn new)

/-- Reads outstanding of a bobbin. -/
def readsOut (x : Bobbin) : Nat := (x.steps.map (·.reading)).sum

/-- R112: the tile index T of a STEP of descriptor `d`. -/
def stepTile (s : State) (b : Nat) (e : BobEnt) (d : Nat) : Nat :=
  let epochs := if bobSched s b then rdF s (CRG_PROG_STATE (bobRgn b)) CRG_PROG_STATE_EPOCHS else 0
  (displacement e.baseTile epochs e.epochStep (bobOf s b).stack + bits d 63 32) % 2 ^ 32

/-- R120: a new step comes after every issued step of its region. -/
def nextOrder (s : State) (n : Nat) : Nat :=
  1 + (((rgnBobs n).flatMap fun b => (bobOf s b).steps).map (·.order)).foldl max 0

/-- R121: the reads of `k` consecutive runs of `n` bytes from `a`. -/
def runReads (a n k : Nat) : Nat := ((List.range k).map fun q => readsFor (a + q * n) n).sum

/-- A STEP at a bobbin's cursor: the step it would issue, or the fault code it meets (R108, R109, R112, R119); a step for a
fenced station, or one in reset, ends with FENCED (R422, log entry 67). -/
def buildStep (s : State) (b : Nat) (e : BobEnt) : Nat ⊕ Step :=
  let p := bobProg s b
  let n := bobRgn b
  let d := descAt p (bobCursor s b)
  let stn := bits d 12 8
  if phStations p ≤ stn then .inl 0x01 else
  let x := stnOf p stn
  let sched := bobSched s b
  if !sched ∧ !x.unsched then .inl 0x04 else
  if blockFenced s grSTN (32 * n + x.engine) ∨ engineResetting s grSTN (32 * n + x.engine) then .inl 0x10 else
  let y := bobOf s b
  let t := stepTile s b e d
  let stride := slotStride y.stack
  let arg0 := bits d 191 128
  let pitch := bits d 255 224
  let addr := if pitch = 0 then arg0 else (arg0 + t * pitch * 64) % 2 ^ 64
  let param := bits d 207 192
  let rows := bits d 214 208 + 1
  let cols := bits d 221 215 + 1
  let pl := fun (hi lo k : Nat) => operandPlace p e (bits d hi lo) stride (bit d (16 + k))
  let st : Step := {
    desc := bobCursor s b, station := stn, type := x.type, engine := x.engine, pos := y.pos, tile := t, addr := addr,
    in0 := pl 79 64 0, in1 := pl 95 80 1, in2 := pl 111 96 2, out := pl 127 112 3, arg0 := arg0, param := param, rows := rows, cols := cols,
    sched := sched, label := (match crgDom s n with | some k => schedOf s k | none => 0), unit := 0, units := unitsOf x param,
    toRead := 0, reading := 0, notes := [], order := nextOrder s n, grans := operandGran x param rows }
  let k := if x.type = tyLOAD then runReads addr (tileBytes x.out rows) (param + 1)
    else if x.type = tySTORE then runReads addr (tileBytes x.in0 rows) (param + 1) else 0
  if runsFit st then .inr { st with toRead := k, planned := k } else .inl 0x03

/-- The opcode at a bobbin's cursor. Where it has passed the last descriptor, the opcode is a reserved one (DESIGN CHOICE, log entry 136). -/
def opAt (s : State) (b : Nat) : Nat :=
  let p := bobProg s b
  if bobCursor s b < phDescs p then descAt p (bobCursor s b) % 256 else 0xFF

/-- R73, R83: scheduled work has a scheduled round. A scheduled bobbin that the binding of its region set RUNNING takes no descriptor
before round 0 of the domain (log entry 44). -/
def beforeRounds (s : State) (b : Nat) : Bool :=
  bobSched s b && (match crgDom s (bobRgn b) with
    | some d => !(domOf s d).started
    | none => false)

/-- A RUNNING bobbin that executes a descriptor of opcode `op`: a reserved opcode faults it instead (R108); another opcode is not
this event. -/
def bobExec (b op : Nat) (k : State → State) (s : State) : State :=
  if bobState s b ≠ bsRUNNING ∨ beforeRounds s b ∨ regionOff s false (bobRgn b) ∨ !unitOn s grCRG (bobRgn b) ∨ !unitOn s grBOB b then s
  else if 5 < opAt s b then bobFault b 0x01 0 (bobCursor s b) 0 0 none s
  else if opAt s b = op then k s else s

/-- R111: LOOP. -/
def bobLoop (b : Nat) (s : State) : State :=
  let p := bobProg s b
  let d := descAt p (bobCursor s b)
  let y := bobOf s b
  if 4 ≤ y.stack.length then bobFault b 0x02 0 (bobCursor s b) 0 0 none s
  else
    let l : LoopLvl := ⟨bobCursor s b, 0, bits d 151 128, bits d 63 32, bits d 207 192⟩
    setCursor b (bobCursor s b + 1) (setBob s b { y with stack := y.stack ++ [l] })

/-- R111: NEXT. A LOOP whose COUNT is 0, which is outside its range, runs its body once (DESIGN CHOICE, log entry 117). -/
def bobNext (b : Nat) (s : State) : State :=
  let y := bobOf s b
  match y.stack.getLast? with
  | none => bobFault b 0x01 0 (bobCursor s b) 0 0 none s
  | some l =>
    if l.i + 1 < l.count then
      setCursor b (l.start + 1) (setBob s b { y with stack := y.stack.dropLast ++ [{ l with i := l.i + 1 }] })
    else setCursor b (bobCursor s b + 1) (setBob s b { y with stack := y.stack.dropLast })

/-- R123: WAIT_ROUND. -/
def bobWait (b : Nat) (s : State) : State :=
  if bobSched s b then if (bobOf s b).steps.isEmpty then setBobState b bsWAIT_ROUND s else s
  else setCursor b (bobCursor s b + 1) s

/-- R123: END. -/
def bobEnd (b : Nat) (s : State) : State := if (bobOf s b).steps.isEmpty then setBobState b bsDONE s else s

/-! ### BOB_CTL (Table STR-8) -/

/-- A command of BOB_CTL, or an error. 1 ARM, 2 START, 3 STOP, 4 RELEASE. -/
def bobCmd (b cmd : Nat) (s : State) : State :=
  let n := bobRgn b
  let p := progOf s n (bankNow s n)
  let st := bobState s b
  let sched := st != bsIDLE && bobSched s b
  if sched then csrRefused s
  else if cmd = 1 ∧ st = bsIDLE then
    match if bankValid s n (bankNow s n) then bobEnt p (bobIdx b) else none with
    | some e => if e.mode = 2 then okReply (setBobState b bsARMED (bobRestart b e (bankNow s n) s)) else csrRefused s
    | none => csrRefused s
  else if cmd = 2 ∧ st = bsARMED then okReply (setBobState b bsRUNNING s)
  else if cmd = 2 ∧ st = bsDONE then
    match bobEnt (bobProg s b) (bobIdx b) with
    | some e => okReply (setBobState b bsRUNNING (bobRestart b e (bobBank s b) s))
    | none => csrRefused s
  else if cmd = 3 ∧ (st = bsRUNNING ∨ st = bsWAIT_MEM) then okReply (setBobState b bsARMED (dropSteps b s))
  else if cmd = 4 ∧ (st = bsARMED ∨ st = bsDONE) then okReply (setBobState b bsIDLE (setBob s b {}))
  else csrRefused s

/-! ### Program load (R107) -/

/-- Whether a load into a bank is refused: it is in force, or a bobbin armed from it is neither IDLE nor DONE. -/
def loadRefused (s : State) (n bank : Nat) : Bool :=
  bankNow s n == bank
    || (List.range 256).any fun i =>
      let b := 256 * n + i
      bobState s b != bsIDLE && bobState s b != bsDONE && bobBank s b == bank

/-- A write of CRG_PROG_LOAD: BANK and BYTES take their values, and GO starts the load. One while BUSY is 1 starts nothing, and BANK and BYTES
take their values all the same (DESIGN CHOICE, log entry 116). -/
def progLoad (n : Nat) (w : Word) (s : State) : State :=
  let a := CRG_PROG_LOAD n
  let bank := CRG_PROG_LOAD_BANK.get w
  let bytes := CRG_PROG_LOAD_BYTES.get w
  let s := okReply (wrF (wrF s a CRG_PROG_LOAD_BANK bank) a CRG_PROG_LOAD_BYTES bytes)
  if CRG_PROG_LOAD_GO.get w = 0 ∨ rdBit s a CRG_PROG_LOAD_BUSY then s
  else if loadRefused s n bank then wrF s a CRG_PROG_LOAD_RESULT 2
  else
    let s := wrF (wrF s a CRG_PROG_LOAD_BUSY 1) a CRG_PROG_LOAD_RESULT 0
    { s with progLoads := s.progLoads ++ [⟨n, bank, bytes, rdF s (CRG_PROG_SRC n) CRG_PROG_SRC_ADDR * 8⟩] }

/-- The load completes: the copy, its checks, RESULT and VALID. `bad`: a read error met while copying. -/
def progLoaded (n : Nat) (bad : Bool) (s : State) : State :=
  match s.progLoads.find? (·.rgn == n) with
  | none => s
  | some l =>
    let s := { s with progLoads := s.progLoads.filter (·.rgn != n) }
    let img := cdLoad s l.src l.bytes
    let r := if bad then 7 else imageCheck img l.bytes
    let a := CRG_PROG_LOAD n
    let s := wrF (wrF s a CRG_PROG_LOAD_BUSY 0) a CRG_PROG_LOAD_RESULT r
    let v := rdF s (CRG_PROG_STATE n) CRG_PROG_STATE_VALID
    let v' := if l.bank = 0 then v / 2 * 2 + (if r = 1 then 1 else 0) else v % 2 + (if r = 1 then 2 else 0)
    let s := wrF s (CRG_PROG_STATE n) CRG_PROG_STATE_VALID v'
    if r = 1 then
      wrReg { s with banks := sset (fun _ => []) s.banks (2 * n + l.bank) img }
        (if l.bank = 0 then CRG_PROG_ID0 n else CRG_PROG_ID1 n) (BitVec.ofNat 64 (leAt img 8 8))
    else { s with banks := sset (fun _ => []) s.banks (2 * n + l.bank) [] }

/-! ### The order of a station's work (R118, R119, R31) -/

/-- R120: whether a waiting tile is the one that an INGRESS step of region `n` expects. -/
def forStep (n : Nat) (st : Step) (t : WaitTile) : Bool :=
  t.rgn == n && leAt t.msg.pay 0 4 % 2 ^ 20 == st.arg0 % 2 ^ 20 && leAt t.msg.pay 4 4 == st.tile

/-- R120: whether a tile waits for an INGRESS step, and no INGRESS step of the region issued before it expects the same. -/
def tileWaits (s : State) (b : Nat) (st : Step) : Bool :=
  s.tiles.any (forStep (bobRgn b) st)
    && (rgnBobs (bobRgn b)).all fun o => (bobOf s o).steps.all fun y =>
      !(y.type == tyINGRESS && y.arg0 % 2 ^ 20 == st.arg0 % 2 ^ 20 && y.tile == st.tile && y.unit < y.units && y.order < st.order)

/-- Whether an access that a unit of a step has asked for has no outcome yet: the step blocks (R31). -/
def stepWaits (s : State) (b : Nat) (st : Step) : Bool :=
  s.mem.far.any fun f => !f.dead && f.reply.isNone && f.who == .bob b st.order

/-- Whether a step's inputs are ready: its reads have arrived, no operand awaits the next scheduled round (R120), and an INGRESS has
its tile. -/
def stepReady (s : State) (b : Nat) (st : Step) : Bool :=
  let x := stnOf (bobProg s b) st.station
  (bobState s b == bsRUNNING || bobState s b == bsWAIT_MEM)
    && st.unit < st.units && st.toRead == 0 && st.reading == 0 && !st.vague && !stepWaits s b st
    && !rangesMeet (stepReads x st) (bobOf s b).unseen
    && (st.type != tyINGRESS || tileWaits s b st)

/-- The ready steps of an engine, as (bobbin, step). -/
def readySteps (s : State) (n engine : Nat) : List (Nat × Step) :=
  (rgnBobs n).flatMap fun b =>
    ((bobOf s b).steps.filter fun st => st.engine == engine && stepReady s b st).map fun st => (b, st)

/-- R31: the bobbin whose turn it is among those with ready unscheduled work: the one served while its quantum lasts, else the next
in increasing order after it. -/
def turnOf (s : State) (n engine : Nat) (cands : List Nat) : Option Nat :=
  match sfind s.turns (32 * n + engine) with
  | some (c, left) =>
    if 0 < left ∧ cands.contains c then some c
    else match cands.find? (c < ·) with
      | some x => some x
      | none => cands.head?
  | none => cands.head?

/-- R25: the TBK unit that carries logical block `i` of region `n`. -/
def tbkOf (s : State) (n i : Nat) : Nat := 17 * n + (if i < rdF s (CRG_TBK_MAP n) CRG_TBK_MAP_SPARE_PHYS then i else i + 1)

/-- R117: the lowest-numbered free tile block of a mask of region `n`: enabled, not fenced, and in no engine reset. A unit is one command, and
leaves its block free. -/
def freeBlock (s : State) (n mask : Nat) : Option Nat :=
  (maskBits mask 16).find? fun i => unitOn s grTBK (tbkOf s n i) && !engineResetting s grTBK (tbkOf s n i)

/-- R117: a unit finds a tile block, if its station names any. A station of an array type with an empty mask runs without (DESIGN CHOICE, log
entry 126). -/
def blockFree (s : State) (n mask : Nat) : Bool := (maskBits mask 16).isEmpty || (freeBlock s n mask).isSome

/-- R118, R119: whether a station may start this step's next unit now. -/
def mayStart (s : State) (b : Nat) (st : Step) : Bool :=
  let n := bobRgn b
  let rs := readySteps s n st.engine
  let sc := rs.filter (·.2.sched)
  stepReady s b st && crgStarts s n && unitOn s grBOB b && unitOn s grSTN (32 * n + st.engine)
    && !engineResetting s grSTN (32 * n + st.engine)
    && blockFree s n (stnOf (bobProg s b) st.station).mask
    && (if st.sched then sc.all fun x => st.pos < x.2.pos || (st.pos == x.2.pos && b ≤ x.1)
        else sc.isEmpty && turnOf s n st.engine (rs.map (·.1)) == some b)

/-- A unit of unscheduled work of `k` tiles is served (R31, R119). -/
def serveTurn (b : Nat) (st : Step) (k : Nat) (s : State) : State :=
  if st.sched then s else
  let n := bobRgn b
  let key := 32 * n + st.engine
  let q := max 1 (rdF s (CRG_SLICE n) CRG_SLICE_STN_QUANTUM)
  match sfind s.turns key with
  | some (c, left) =>
    if c = b ∧ 0 < left then { s with turns := sput s.turns key (b, left - k) }
    else bump { s with turns := sput s.turns key (b, q - k) } (CRG_SLICE_TURNS n)
  | none => bump { s with turns := sput s.turns key (b, q - k) } (CRG_SLICE_TURNS n)

/-- Replace a step of a bobbin (same descriptor and position). -/
def putStep (b : Nat) (st : Step) (s : State) : State :=
  modBob b (fun y => { y with steps := y.steps.map fun x => if x.desc = st.desc ∧ x.pos = st.pos then st else x }) s

/-- R31: a turn ends where its bobbin has no unscheduled work of the engine that is ready, or blocks. -/
def expireTurns (s : State) : State :=
  { s with turns := s.turns.map fun x =>
      if (bobOf s x.2.1).steps.any fun st => !st.sched && st.engine == x.1 % 32 && stepReady s x.2.1 st then x else (x.1, (x.2.1, 0)) }

end Sys2Proof.Machine
end

