-- ==== Sys2Proof/Machine/Coll.lean ====
section
/-! DEFINITION. Collectives (chapter 8): descriptors (R209), members (R211), contributions and tile sets (R212 to R217), multicast
(R218, R219), partials (R220 to R222) and the abort (R223 to R227). -/

namespace Sys2Proof.Machine

/-! ### TILE messages (Table LSA-2, R120) -/

def tmStream (m : Msg) : Nat := leAt m.pay 0 4 % 2 ^ 20
def tmFmt (m : Msg) : Nat := leAt m.pay 3 1
def tmTile (m : Msg) : Nat := leAt m.pay 4 4
def tmRows (m : Msg) : Nat := leAt m.pay 8 2 % 128 + 1
def tmCols (m : Msg) : Nat := leAt m.pay 8 2 / 256 % 128 + 1
def tmBytes (m : Msg) : Nat := leAt m.pay 12 4
/-- The rectangle of a TILE. -/
def tmData (m : Msg) : Bytes := bslice (m.pay.drop 16) 0 (tmBytes m)
/-- The round label of a scheduled TILE (R83). -/
def tmLabel (m : Msg) : Nat := m.hdr.reqId

/-- A TILE message of this device: destination, class, label, stream, format, tile index, size and data. -/
def tileMsg (s : State) (src dst : Nat) (dint : Bool) (tc label stream fmt tile rows cols : Nat) (d : Bytes) : Msg :=
  ⟨{ type := tTILE, sint := true, spray := true, tc := tc, dint := dint, dst := dst, src := ownId s * 4096 + src, reqId := label % 65536 },
   leBytes 4 (stream % 2 ^ 20 + fmt * 2 ^ 24) ++ leBytes 4 tile ++ leBytes 2 (rows - 1 + (cols - 1) * 256) ++ zeros 2
     ++ leBytes 4 d.length ++ d⟩

/-- A TILE sent on with another stream ID and destination. -/
def restamp (s : State) (m : Msg) (dst : Nat) (dint : Bool) (stream : Nat) : Msg :=
  ⟨{ m.hdr with sint := true, src := ownId s * 4096, dint := dint, dst := dst, vep := 0, retry := false, seq := 0, hcrc := 0 },
   leBytes 4 (stream % 2 ^ 20 + tmFmt m * 2 ^ 24) ++ m.pay.drop 4⟩

/-- The full round index that a 16-bit label stands for near round `n`. -/
def labelIndex (n label : Nat) : Nat :=
  let back := (n + 65536 - label % 65536) % 65536
  if back < 32768 then n - back else n + (65536 - back)

/-! ### Descriptors (Table RGF-2) and groups (Table RGF-4) -/

def cdKind (d : Bytes) : Nat := leAt d 0 1 % 8
def cdSched (d : Bytes) : Bool := bit (leAt d 0 1) 3
def cdStage (d : Bytes) : Bool := bit (leAt d 0 1) 4
def cdForm (d : Bytes) : Nat := bits (leAt d 0 1) 5 5
def cdPart (d : Bytes) : Nat := leAt d 1 1 % 16
def cdDom (d : Bytes) : Nat := bits (leAt d 1 1) 5 4
def cdFmtIn (d : Bytes) : Nat := leAt d 2 1
def cdFmtOut (d : Bytes) : Nat := leAt d 3 1
def cdLocal (d : Bytes) : Nat := leAt d 4 1
def cdReserve (d : Bytes) : Nat := leAt d 5 1
def cdRows (d : Bytes) : Nat := leAt d 6 1 % 128 + 1
def cdCols (d : Bytes) : Nat := leAt d 7 1 % 128 + 1
def cdContrib (d : Bytes) : Nat := leAt d 8 4 % 2 ^ 20
def cdResult (d : Bytes) : Nat := leAt d 0x0C 4 % 2 ^ 20
def cdTiles (d : Bytes) : Nat := leAt d 0x10 4
def cdRegions (d : Bytes) : List Nat := maskBits (leAt d 0x14 2) 16
def cdGroup (d : Bytes) : Nat := leAt d 0x16 2 % 4096
def cdBlock (d : Bytes) : Nat := leAt d 0x18 4
def cdTag (d : Bytes) : Nat := leAt d 0x1C 4
def cdParent (d : Bytes) : Nat := leAt d 0x20 4 % 2 ^ 24
def cdParentStream (d : Bytes) : Nat := leAt d 0x24 4 % 2 ^ 20
def cdTimeout (d : Bytes) : Nat := leAt d 0x28 4
def cdOutconv (d : Bytes) : Nat := leAt d 0x30 8
/-- The kinds that add contributions in exact accumulators: those of Table RGF-1 but ALL_GATHER and BROADCAST, which only replicate
(R208, R216). R208 counts three where its table has two. -/
def cdReducing (d : Bytes) : Bool := cdKind d < 2

def collOf (s : State) (i : Nat) : Coll := sget (fun _ => {}) s.colls i
def setColl (s : State) (i : Nat) (c : Coll) : State := { s with colls := sset (fun _ => {}) s.colls i c }
/-- The open collectives, in increasing ID. -/
def openColls (s : State) : List (Nat × Coll) := s.colls.filter fun e => e.2.state == 1

/-- A multicast group entry; empty while it is not set. -/
def mcOf (s : State) (g : Nat) : Bytes := sget (fun _ => []) s.ground.mcast g
/-- Local targets: local endpoints in increasing port index (R211). -/
def mcLocals (s : State) (g : Nat) : List Nat :=
  let e := mcOf s g
  if e.isEmpty then [] else (maskBits (leAt e 0 32) 256).map fun p => 16 * p + leAt e 0x20 1 % 16
/-- Forward targets: port and group at the neighbour, in FWD order. -/
def mcFwds (s : State) (g : Nat) : List (Nat × Nat) :=
  let e := mcOf s g
  if e.isEmpty then [] else (List.range (min 8 (leAt e 0x21 1))).map fun i =>
    let w := leAt e (0x28 + 3 * i) 3
    (w % 256, w / 256 % 4096)

/-- The switch at the far end of a port (R342). -/
def peerSwitch (s : State) (p : Nat) : Nat := rdF s (PRT_LINK_STATE (gangBase s p)) PRT_LINK_STATE_PEER_SWITCH

/-- R211: the number of members. -/
def collMembers (s : State) (d : Bytes) : Nat := (mcLocals s (cdGroup d)).length + (mcFwds s (cdGroup d)).length + cdLocal d

/-- R212: the member index of a TILE's source. -/
def memberOf (s : State) (d : Bytes) (h : Hdr) : Option Nat :=
  let ls := mcLocals s (cdGroup d)
  if h.sint then
    ((mcFwds s (cdGroup d)).findIdx? fun f => peerSwitch s f.1 == h.src / 4096).map (ls.length + ·)
  else if h.src / 4096 = ownId s then ls.findIdx? (· == h.src % 4096)
  else none

/-- Whether a member index is that of a child switch. -/
def isChild (s : State) (d : Bytes) (k : Nat) : Bool := (mcLocals s (cdGroup d)).length ≤ k

/-! ### Multicast (R219) -/

/-- Send a TILE to one local target: a copy for a port that is down or fenced is discarded. -/
def sendLocal (prg : Nat) (m : Msg) (stream ep : Nat) (s : State) : State :=
  if portLive s (gangBase s (ep / 16)) then
    bump (emit (.region prg) (restamp s m (ownId s * 4096 + ep) false stream) s) GND_MCAST_COPIES
  else bump s GND_MCAST_DROPPED

/-- The targets of a group: the port of each, its copy of a TILE, and whether that goes to a neighbour's group over its one link. -/
def mcTargets (s : State) (g : Nat) (m : Msg) (stream : Nat) : List (Nat × Msg × Bool) :=
  (mcLocals s g).map (fun e => (gangBase s (e / 16), restamp s m (ownId s * 4096 + e) false stream, false))
    ++ (mcFwds s g).map fun f => (gangBase s f.1, restamp s m (0xFFF * 4096 + f.2) true stream, true)

/-- Replicate a TILE to every target of a group with a stream ID: stored once, with a copy for each port that is live (R219). -/
def replicate (prg g : Nat) (m : Msg) (stream : Nat) (s : State) : State :=
  let ts := mcTargets s g m stream
  let live := ts.filter fun t => portLive s t.1
  bump (bump (emitCopies prg live s) GND_MCAST_COPIES live.length) GND_MCAST_DROPPED (ts.length - live.length)

/-! ### Discarding queued results (Table RGF-7, step 2) -/

/-- Every cell that a sprayed segment of this device's own can stand in before a port sends it, in the order of a flow: the queues of ports, the
resequencers, the entries to those, and the wait for a shared cell. -/
def ownCells (s : State) : List GCell :=
  s.ground.cells.filter (·.hold != .reseq) ++ s.ground.flows.flatMap (·.held) ++ s.ground.cells.filter (·.hold == .reseq) ++ s.ground.waiting

/-- The segments, from its first one `c` on, of a message in a list of cells. -/
def runFrom (l : List GCell) (c : GCell) : List GCell :=
  c :: (((l.dropWhile (· != c)).drop 1).filter fun x => x.inPort == none && flowKey x.seg.hdr == flowKey c.seg.hdr).takeWhile (!·.first)

/-- Segments of a TILE. -/
def tileSegs (c : GCell) : Nat := cdiv (16 + leAt c.seg.pay 12 4) 232

/-- How far the number of a segment lies from `q`. -/
def seqFrom (q : Nat) (x : GCell) : Nat := (x.seg.hdr.seq + 65536 - q) % 65536

/-- The numbers of a flow close up over `k` that were removed at `q`. -/
def closeGap (f : FlowKey) (q k : Nat) (s : State) : State :=
  let move := fun (x : GCell) =>
    if flowKey x.seg.hdr == f && x.inPort == none && seqFrom q x < 32768 then
      { x with seg := Seg.sealCrc { x.seg with hdr := { x.seg.hdr with seq := (x.seg.hdr.seq + 65536 - k) % 65536 } } x.first }
    else x
  let g := s.ground
  { s with ground := { g with
    cells := g.cells.map move
    flows := g.flows.map fun y => { y with held := y.held.map move }
    flowSeq := g.flowSeq.map fun e => if e.1 == f then (e.1, (e.2 + 65536 - k) % 65536) else e } }

/-- Remove a message of this device, all of whose segments `run` are still here. The numbers behind it close up, so that its receiver misses
none, unless a later segment of the flow has gone already: then the receiver's resequencer gives the message up (R379). What a resequencer
of this device has let go is numbered no more; what waits for a cell has no number yet (R374). -/
def dropRun (run : List GCell) (s : State) : State :=
  let g := s.ground
  let passed := fun (x : GCell) => forThisSwitch s x.seg.hdr && g.cells.any fun y => y == x && y.hold != .reseq
  let inFlow := run.filter fun x => !(g.waiting.contains x || passed x)
  let s := { s with ground := { g with
    cells := g.cells.filter fun x => !run.contains x
    waiting := g.waiting.filter fun x => !run.contains x
    flows := g.flows.map fun y => { y with held := y.held.filter fun x => !run.contains x } } }
  match inFlow with
  | [] => s
  | c :: _ =>
    let f := flowKey c.seg.hdr
    let q := c.seg.hdr.seq
    let k := inFlow.length
    let next := ((s.ground.flowSeq.find? (·.1 == f)).map (·.2)).getD 0
    let later := (s.ground.cells ++ s.ground.flows.flatMap (·.held)).countP fun x =>
      flowKey x.seg.hdr == f && x.inPort == none && decide (k ≤ seqFrom q x ∧ seqFrom q x < 32768)
    if later + k = (next + 65536 - q) % 65536 then closeGap f q k s else s

/-- Discard every queued TILE of this device's collectives on one of some streams that no port has started. -/
def dropTiles (streams : List Nat) (s : State) : State :=
  let l := ownCells s
  let firsts := l.filter fun c =>
    c.first && c.seg.hdr.type == tTILE && c.inPort == none && c.seg.hdr.sint && c.seg.hdr.src == ownId s * 4096
      && streams.contains (leAt c.seg.pay 0 4 % 2 ^ 20)
      && (match c.out with
        | .port _ => true
        | _ => false)
  let whole := firsts.filter fun c => (runFrom l c).length == tileSegs c
  if whole.isEmpty then s else drainWaiting (whole.reverse.foldl (fun s c => dropRun (runFrom (ownCells s) c) s) s)

/-! ### The abort (R223 to R227) -/

/-- Table RGF-8. -/
def abortPay (tag origin reason hops : Nat) : Bytes :=
  leBytes 4 tag ++ leBytes 2 (origin % 4096) ++ leBytes 1 reason ++ leBytes 1 hops ++ zeros 8

/-- A CTRL message to the registrar of another switch. -/
def ctrlMsg (s : State) (dst op tc : Nat) (pay : Bytes) : Msg :=
  ⟨{ type := tCTRL, sint := true, tc := tc, dint := true, dst := dst, src := ownId s * 4096, op := op }, pay⟩

/-- A CTRL message that answers `m`: it goes to the endpoint that SRC names (R282; log entry 34). -/
def ctrlAnswer (s : State) (m : Msg) (op : Nat) (pay : Bytes) : Msg :=
  ⟨{ (ctrlMsg s m.hdr.src op 6 []).hdr with dint := m.hdr.sint }, pay⟩

/-- Contributions that wait are discarded, and their cells are free. -/
def dropContribs (p : WaitContrib → Bool) (s : State) : State :=
  freeCells ((s.waitContribs.filter p).flatMap (·.cells)) { s with waitContribs := s.waitContribs.filter fun w => !p w }

/-- Tiles that wait are discarded, and their cells are free. -/
def dropWaitTiles (p : WaitTile → Bool) (s : State) : State :=
  freeCells ((s.tiles.filter p).flatMap (·.cells)) { s with tiles := s.tiles.filter fun t => !p t }

/-- Whether an issued step takes part in a collective: a REDUCE step for it, or an INGRESS step on its RESULT_STREAM. -/
def stepOfColl (id : Nat) (d : Bytes) (st : Step) : Bool :=
  (st.type == tyREDUCE && st.arg0 % 1024 == id) || (st.type == tyINGRESS && st.arg0 % 2 ^ 20 == cdResult d)

/-- A collective aborts: steps 2 and 3 of Table RGF-7. `from_` is the switch that an ABORT came from, `hops` the HOPS to send. The
state passes through ABORTING to ABORTED (log entry 13). -/
def collAbort (id reason origin hops : Nat) (from_ : Option Nat) (s : State) : State :=
  let c := collOf s id
  if c.state ≠ 1 then s else
  let d := c.desc
  let s := setColl s id { c with state := 3, reason := reason, done := [] }
  let s := dropContribs (·.coll == id) { s with sets := s.sets.filter (·.coll != id) }
  let s := dropTiles (if cdStage d then [cdResult d, cdParentStream d] else [cdResult d]) s
  let pay := abortPay (cdTag d) origin reason hops
  let s := if cdStage d ∧ from_ ≠ some (cdParent d / 4096) then
      emit (.hub 0) (ctrlMsg s (cdParent d / 4096 * 4096) cABORT 6 pay) s else s
  let s := (mcFwds s (cdGroup d)).foldl (fun s f =>
    let b := gangBase s f.1
    if from_ = some (peerSwitch s b) then s else emitPort b (ctrlMsg s (peerSwitch s b * 4096) cABORT 6 pay) s) s
  let s := (mcLocals s (cdGroup d)).foldl (fun s e =>
    emit (.hub 0) ⟨{ type := tNOTIFY, sint := true, tc := 5, dst := ownId s * 4096 + e, src := ownId s * 4096, op := 0x01 }, pay⟩ s) s
  let s := s.bobs.foldl (fun s e =>
    match if bobState s e.1 = bsFAULTED then none else (bobOf s e.1).steps.find? (stepOfColl id d) with
    | some st => bobFault e.1 0x0E st.station st.desc 0 st.tile (some st) s
    | none => s) s
  raise srcGND_COLL_ABORTED 0 (bump s GND_COLL_ABORTS)

/-- This device detects a cause (Table RGF-6). -/
def collFail (id reason : Nat) (s : State) : State := collAbort id reason (ownId s) 0 none s

/-- An ABORT message arrives (R224): it aborts the open collective with its TREE_TAG and goes on, once. -/
def abortIn (m : Msg) (s : State) : State :=
  match (openColls s).find? fun e => cdTag e.2.desc == leAt m.pay 0 4 with
  | none => s
  | some (id, _) =>
    collAbort id (leAt m.pay 6 1) (leAt m.pay 4 2 % 4096) ((leAt m.pay 7 1 + 1) % 256)
      (if m.hdr.sint then some (m.hdr.src / 4096) else none) s

/-- A port went down or was fenced: collectives with a target on it abort, and those whose parent can no longer be reached. -/
def collPortGone (p : Nat) (s : State) : State :=
  (openColls s).foldl (fun s e =>
    let d := e.2.desc
    if (mcLocals s (cdGroup d)).any fun t => gangBase s (t / 16) == gangBase s p then collFail e.1 0x02 s
    else if (mcFwds s (cdGroup d)).any fun f => gangBase s f.1 == gangBase s p then collFail e.1 0x07 s
    else if cdStage d && !hasRoute s (.hub 0) (ctrlMsg s (cdParent d / 4096 * 4096) cABORT 6 []).hdr then collFail e.1 0x07 s
    else s) s

/-- A bobbin faulted: collectives of its partition that it contributes to abort, and that of the faulting step (R223). -/
def collBobGone (b : Nat) (st : Option Step) (s : State) : State :=
  let steps := (bobOf s b).steps.filter (·.type == tyREDUCE) ++ st.toList
  let part := ownerCRG s (bobRgn b)
  (openColls s).foldl (fun s e =>
    if part == some (cdPart e.2.desc) && steps.any (stepOfColl e.1 e.2.desc) then collFail e.1 0x03 s else s) s

/-- A reducing region was reset, fenced or parked, or lost an accumulator set (R223). -/
def collRegionGone (n : Nat) (s : State) : State :=
  (openColls s).foldl (fun s e => if cdReducing e.2.desc && (cdRegions e.2.desc).contains n then collFail e.1 0x04 s else s) s

/-! ### Tile sets (R213, R215, R217) -/

/-- The region that reduces tile T, and its place among the regions named. -/
def tileRegion (d : Bytes) (t : Nat) : Nat × Nat :=
  let rs := cdRegions d
  let k := if rs.isEmpty then 0 else t % rs.length
  (k, (rs[k]?).getD 0)

/-- The open sets of a collective in a region. -/
def openSets (s : State) (id rgn : Nat) : List TileSet := s.sets.filter fun x => x.coll == id && x.rgn == rgn

/-- The open set of tile T. -/
def setAt (s : State) (id t : Nat) : Option TileSet := s.sets.find? fun x => x.coll == id && x.tile == t

/-- R213: whether a contribution for tile T may open a set: a set is within RESERVE, and every lower tile of its region has one. -/
def mayOpen (s : State) (id t : Nat) : Bool :=
  let c := collOf s id
  let (k, rgn) := tileRegion c.desc t
  (openSets s id rgn).length < cdReserve c.desc && t / max 1 (cdRegions c.desc).length ≤ (c.done[k]?).getD 0

/-- The terms of a contribution added to the accumulators of a set (R212, R220): a rectangle of elements, or an EXACT partial. -/
def addContrib (d : Bytes) (fmt rows cols : Nat) (pay : Bytes) (accs : List Acc320) : List Acc320 :=
  (accs.zipIdx).map fun (a, i) =>
    let r := i / cdCols d
    let c := i % cdCols d
    if r < rows ∧ c < cols then
      if fmt = 0x20 then
        let o := 48 * (cols * r + c)
        let f := leAt pay (o + 40) 1
        { a with a := a.a + sext 320 (leAt pay o 40), count := a.count + 1, nan := a.nan || bit f 0, pinf := a.pinf || bit f 1,
                 ninf := a.ninf || bit f 2 }
      else accAdd a (rectVal fmt rows cols pay r c)
    else accAdd a .zero

/-- The EXACT partial of a set (Table RGF-5). -/
def exactPartial (accs : List Acc320) : Bytes :=
  accs.flatMap fun a => leBytes 40 (wrapInt 320 a.a) ++ leBytes 1 (a.nan.toNat + 2 * a.pinf.toNat + 4 * a.ninf.toNat) ++ zeros 7

/-- The accumulated element of a set. -/
def setVal (x : TileSet) (d : Bytes) (r c : Nat) : Val := accOut ((x.accs[r * cdCols d + c]?).getD {})

/-- The rectangle width that a format is written with (R120: a row of FP6 is filled to a whole group). -/
def rectWidth (f cols : Nat) : Nat := if fmtBits f = 6 then cdiv cols 4 * 4 else cols

/-- R215, R222: a complete set is read out and sent, and is freed. -/
def readOut (x : TileSet) (s : State) : State :=
  let c := collOf s x.coll
  let d := c.desc
  let s := { s with sets := s.sets.filter fun y => !(y.coll == x.coll && y.tile == x.tile) }
  let s := bump s GND_COLL_RESULTS
  let rr := cdRows d
  let cc := cdCols d
  let tc := if cdSched d then 7 else 0
  let label := if cdSched d then (x.label + 1) % 65536 else 0
  if cdStage d then
    let (fmt, pay) := if cdForm d = 0 then (0x20, exactPartial x.accs)
      else (0x0F, (outRect 0x0F .rne false 0 rr cc cc (setVal x d)).bytes)
    let m := tileMsg s 0 (cdParent d) true tc label (cdParentStream d) fmt x.tile rr cc pay
    if hasRoute s (.region x.rgn) m.hdr then emit (.region x.rgn) m s else collFail x.coll 0x07 s
  else
    let seed := srSeed (cdResult d) x.tile
    let mode := (outMode (cdOutconv d)).getD .rne
    let f := cdFmtOut d
    let pay := (outRect f mode (outSat (cdOutconv d)) seed rr cc (rectWidth f cc) (setVal x d)).bytes
    let m := tileMsg s 0 0 false tc label (cdResult d) f x.tile rr cc pay
    if cdKind d = 1 then
      let ls := mcLocals s (cdGroup d)
      match ls[x.tile / max 1 (cdBlock d) % max 1 ls.length]? with
      | some e => sendLocal x.rgn m (cdResult d) e s
      | none => s
    else replicate x.rgn (cdGroup d) m (cdResult d) s

/-- A contribution enters the open set of its tile: a repeated member is discarded, and another label aborts the collective. A set
with a contribution from every member is complete; that of a scheduled collective waits for its round. -/
def enterSet (x : TileSet) (member label fmt rows cols : Nat) (pay : Bytes) (s : State) : State :=
  let d := (collOf s x.coll).desc
  if x.seen.contains member then raise srcGND_COLL_DUP 0 (bump s GND_COLL_DUP)
  else if cdSched d ∧ x.label ≠ label then collFail x.coll 0x06 s
  else
    let s := bump s GND_COLL_CONTRIB
    let x := { x with accs := addContrib d fmt rows cols pay x.accs, seen := x.seen ++ [member], contribs := x.contribs + 1,
                      full := x.contribs + 1 == collMembers s d }
    let s := { s with sets := s.sets.map fun y => if y.coll == x.coll && y.tile == x.tile then x else y }
    if x.full && !cdSched d then readOut x s else s

/-- R213: a contribution for tile T joins the open set, or opens one. The answer says whether it did. -/
def offerSet (id t member label fmt rows cols : Nat) (pay : Bytes) (s : State) : Bool × State :=
  match setAt s id t with
  | some x => (true, enterSet x member label fmt rows cols pay s)
  | none =>
    if mayOpen s id t then
      let c := collOf s id
      let (k, rgn) := tileRegion c.desc t
      let n := (cdRegions c.desc).length
      let done := (List.range n).map fun i => if i = k then max ((c.done[i]?).getD 0) (t / n + 1) else (c.done[i]?).getD 0
      let x : TileSet := ⟨id, rgn, t, label, List.replicate (cdRows c.desc * cdCols c.desc) {}, [], 0, false⟩
      let s := { setColl s id { c with done := done } with sets := s.sets ++ [x] }
      (true, enterSet x member label fmt rows cols pay s)
    else (false, s)

/-- A contribution that has no home (R212). -/
def collStray (s : State) : State := raise srcGND_COLL_STRAY 0 (bump s GND_COLL_STRAY)

/-- Whether a label is of a round that EPOCH_RESTART cut off, and whether it is stale (R83, R441). -/
def labelCut (s : State) (d label : Nat) : Bool := labelIndex (schedOf s d) label < (domOf s d).cutSched
def labelStale (s : State) (d label : Nat) : Bool :=
  let n := schedOf s d
  !(label % 65536 == n % 65536 || (n != 0 && label % 65536 == (n - 1) % 65536))

/-- R83: a tile for region `n` is discarded as stale: it is counted, and the region raises STALE_TILE. -/
def staleTile (n : Nat) (s : State) : State :=
  raise srcCRG_STALE_TILE n { s with stale := sset (fun _ => 0) s.stale n (sget (fun _ => 0) s.stale n + 1) }

/-- R217: a replicated contribution as a collective sends it on: in the class of its results. -/
def gathered (d : Bytes) (m : Msg) : Msg :=
  { m with hdr := { m.hdr with tc := if cdSched d then 7 else 0, reqId := if cdSched d then m.hdr.reqId else 0 } }

/-- R219: a forward copy for group `g`: this switch replicates it again. One whose result stream is that of a collective that is no
longer open names it, and is discarded (R226). -/
def groupTile (prg g : Nat) (m : Msg) (s : State) : State :=
  match s.colls.find? fun e => e.2.state != 0 && cdResult e.2.desc == tmStream m && cdGroup e.2.desc == g with
  | some (_, c) =>
    let dom := cdDom c.desc
    if c.state ≠ 1 then collStray s
    else if cdSched c.desc && labelCut s dom (tmLabel m) then bump s (TIM_DOM_RESTART_DROPS (dom + 1))
    else replicate prg g m (tmStream m) s
  | none => if (mcOf s g).isEmpty then collStray s else replicate prg g m (tmStream m) s

/-- A TILE arrives at the switch's own endpoint through port region `prg`: a contribution or partial (R212 to R216, R222). Anything
else is stray. A contribution that must wait for its set waits in the ground, in the cells `cs` of its message (R213). -/
def collTile (prg : Nat) (m : Msg) (cs : List GCell) (s₀ : State) : State :=
  let stream := tmStream m
  let s := drainWaiting (freeCells cs s₀)
  match (openColls s).find? fun e => cdContrib e.2.desc == stream with
  | some (id, c) =>
    let d := c.desc
    let dom := cdDom d
    if cdSched d && labelCut s dom (tmLabel m) then bump s (TIM_DOM_RESTART_DROPS (dom + 1))
    else if cdSched d && labelStale s dom (tmLabel m) then staleTile (tileRegion d (tmTile m)).2 s
    else match memberOf s d m.hdr with
      | none => collStray s
      | some k =>
        if cdTiles d ≤ tmTile m then collStray s
        else if cdReducing d then
          if isChild s d k ∧ tmFmt m ≠ (if cdForm d = 0 then 0x20 else 0x0F) then collFail id 0x09 s
          else
            let fmt := if isChild s d k then tmFmt m else cdFmtIn d
            let (ok, s') := offerSet id (tmTile m) k (tmLabel m) fmt (tmRows m) (tmCols m) (tmData m) s
            if ok then s' else
              { s₀ with waitContribs := s₀.waitContribs ++ [⟨id, tmTile m, k, tmLabel m, fmt, tmData m, tmRows m, tmCols m, cs⟩] }
        else if cdKind d = 3 ∧ k ≠ 0 then collStray s
        else
          let s := bump s GND_COLL_CONTRIB
          let m := gathered d m
          if cdStage d then
            let m' := restamp s m (cdParent d) true (cdParentStream d)
            if hasRoute s (.region prg) m'.hdr then emit (.region prg) m' s else collFail id 0x07 s
          else replicate prg (cdGroup d) m (cdResult d) s
  | none => collStray s

/-- A contribution that waits joins or opens its set, if it may now. -/
def collSetOpen (i : Nat) (s : State) : State :=
  match s.waitContribs[i]? with
  | none => s
  | some w =>
    let (ok, s') := offerSet w.coll w.tile w.member w.label w.fmt w.rows w.cols w.pay
      { s with waitContribs := s.waitContribs.eraseIdx i }
    if ok then drainWaiting (freeCells w.cells s') else s

/-- R217: a set of an unscheduled collective has been open for longer than TIMEOUT_US. -/
def collTimeout (id t : Nat) (s : State) : State :=
  if (setAt s id t).isSome && !cdSched (collOf s id).desc then collFail id 0x05 s else s

/-! ### Commit of the collective and multicast actions (Table RGF-3) -/

/-- COLL_OPEN. A collective with a local target on a fenced port aborts at once (R432). -/
def collOpen (id : Nat) (desc : Bytes) (s : State) : State :=
  let s := setColl s id { state := 1, desc := desc }
  if (mcLocals s (cdGroup desc)).any fun e => (portOf s (gangBase s (e / 16))).fenced then collFail id 0x02 s else s

/-- COLL_CLOSE: the slot is CLOSED; open sets of a collective that was OPEN are freed with it. -/
def collClose (id : Nat) (s : State) : State :=
  let s := setColl s id {}
  dropContribs (·.coll == id) { s with sets := s.sets.filter (·.coll != id) }

def mcastSet (g : Nat) (e : Bytes) (s : State) : State := { s with ground := { s.ground with mcast := sset (fun _ => []) s.ground.mcast g e } }
def mcastClear (g : Nat) (s : State) : State := mcastSet g [] s

/-- R217: whether a region is late at a decision instant for the collectives of domain `dom` in scheduled round `n`. -/
def collLate (s : State) (rgn dom n : Nat) : Bool :=
  s.sets.any fun x => x.rgn == rgn && !x.full && cdSched (collOf s x.coll).desc && cdDom (collOf s x.coll).desc == dom
    && x.label % 65536 == n % 65536

/-- R217: at the start of scheduled round `n` of a domain, its complete sets of earlier rounds are read out, in increasing region and
tile. -/
def collRound (dom n : Nat) (s : State) : State :=
  let due := s.sets.filter fun x => x.full && cdSched (collOf s x.coll).desc && cdDom (collOf s x.coll).desc == dom
    && labelIndex n x.label < n
  due.foldl (fun s x => readOut x s) s

end Sys2Proof.Machine
end

