-- ==== Sys2Proof/Machine/Sched.lean ====
section
/-! DEFINITION. The round rule (chapter 3): round boundaries (R74, R75), decision instants (R88), slips (R89 to R97), and the arrival of
tiles at compute regions (R82, R83, R120). -/

namespace Sys2Proof.Machine

/-- The compute regions and the port regions bound to domain unit `d`. -/
def domCRGs (s : State) (d : Nat) : List Nat := (List.range 16).filter fun n => crgDom s n == some d
def domPRGs (s : State) (d : Nat) : List Nat := (List.range 16).filter fun n => prgDom s n == some d

/-! ### Tiles for compute regions -/

/-- R83, R120, R441: a TILE addressed to region `n`: it waits in the ground, in its cells `cs`, for its INGRESS step; one of a cut round is
dropped, a stale one is discarded. `here`: an EGRESS of this device sent it. Its arrival completes the step that waits for it; what R82
delivers at the start of the next scheduled round is what that step wrote (DEDUCED, log entry 104). -/
def regionTile (n : Nat) (m : Msg) (here : Bool) (cs : List GCell) (s : State) : State :=
  let sched := m.hdr.tc == 7
  let wait : State := { s with tiles := s.tiles ++ [⟨n, m, sched, here, cs⟩] }
  match crgDom s n with
  | some d =>
    if sched && labelCut s d (tmLabel m) then bump (drainWaiting (freeCells cs s)) (TIM_DOM_RESTART_DROPS (d + 1))
    else if sched && labelStale s d (tmLabel m) then staleTile n (drainWaiting (freeCells cs s))
    else wait
  | none => wait

/-- The issued INGRESS steps that a tile could complete. -/
def tileSteps (s : State) (t : WaitTile) : Nat :=
  (s.bobs.map fun e => if bobRgn e.1 = t.rgn then (e.2.steps.filter fun st =>
    st.type == tyINGRESS && st.unit < st.units && st.arg0 % 2 ^ 20 == tmStream t.msg && st.tile == tmTile t.msg).length else 0).sum

/-- R105: whether an issued INGRESS step of its region waits for a tile: of several with one pair, the first of each step. -/
def tileMatched (s : State) (t : WaitTile) : Bool :=
  ((s.tiles.takeWhile (· != t)).filter fun o => o.rgn == t.rgn && tmStream o.msg == tmStream t.msg && tmTile o.msg == tmTile t.msg).length
    < tileSteps s t

/-! ### Round boundaries -/

/-- At an epoch boundary the late counters of the domain's regions clear, and each may raise STRAGGLER again (R96). -/
def clearLate (d : Nat) (s : State) : State :=
  let s := (domCRGs s d).foldl (fun s n => wrF s (CRG_SLIP_EPOCH n) CRG_SLIP_EPOCH_COUNT 0) s
  let s := (domPRGs s d).foldl (fun s n => wrF s (PRG_SLIP_EPOCH n) PRG_SLIP_EPOCH_COUNT 0) s
  let gone := (domCRGs s d).map (0x10 + ·) ++ (domPRGs s d).map (0x20 + ·)
  { s with stragglers := s.stragglers.filter fun u => !gone.contains u }

/-- R441: what a restart removes: open sets and waiting contributions of the domain's scheduled collectives, and waiting scheduled
tiles of its regions. Each removed message counts in TIM_DOM_RESTART_DROPS. -/
def restartDrops (d : Nat) (s : State) : State :=
  let mine := fun id => cdSched (collOf s id).desc && cdDom (collOf s id).desc == d && (collOf s id).state == 1
  let gone := fun (t : WaitTile) => t.sched && crgDom s t.rgn == some d
  let k := (s.waitContribs.filter fun x => mine x.coll).length + (s.tiles.filter gone).length
  let s := dropWaitTiles gone (dropContribs (fun x => mine x.coll) { s with sets := s.sets.filter (fun x => !mine x.coll) })
  bump (drainWaiting s) (TIM_DOM_RESTART_DROPS (d + 1)) k

/-- R74, R75, R90, R441: the next round of domain unit `d` starts: the indices, the epoch and the slip state move on. The first round of a
member is round 0, scheduled round 0 of epoch 0, on one that joins a running domain too: nothing tells it the domain's own indices (DESIGN
CHOICE, log entry 113). -/
def roundAdvance (d : Nat) (restart : Bool) (s : State) : State :=
  let u := d + 1
  let x := domOf s d
  let ep := TIM_DOM_EPOCH u
  if !x.started then
    let s := wrReg (wrReg (wrReg s (TIM_DOM_POS u) 0) (TIM_DOM_SCHED u) 0) ep 0
    clearLate d (setDom s d { x with started := true, epochStart := (rdReg s (TIM_DOM_ORIGIN u)).toNat })
  else
    let n := roundOf s d + 1
    let begins := epochBegins s d restart
    let start := roundStart s d n
    let slip := x.held.contains (roundOf s d) && !restart
    let s := wrReg s (TIM_DOM_POS u) (BitVec.ofNat 64 n)
    let x := { x with decided := false }
    if slip then
      let run := x.slipRun + 1
      let s := bump (wrF s ep TIM_DOM_EPOCH_IN_SLIP 1) (TIM_DOM_SLIP_ROUNDS u)
      raiseIf (run == rdF s (TIM_DOM_SLIP u) TIM_DOM_SLIP_MAX_RUN) srcTIM_SLIP_STALL u (setDom s d { x with slipRun := run })
    else
      let sc := schedOf s d + (if restart then 2 else 1)
      let s := wrF (wrReg s (TIM_DOM_SCHED u) (BitVec.ofNat 64 sc)) ep TIM_DOM_EPOCH_IN_SLIP 0
      if begins then
        let s := wrF (wrF s ep TIM_DOM_EPOCH_EPOCH (rdF s ep TIM_DOM_EPOCH_EPOCH + 1)) ep TIM_DOM_EPOCH_SCHED_IN_EPOCH 0
        let x := { x with slipRun := 0, epochStart := start, epochRound := n }
        let x := if restart then
            { x with held := x.held.filter (n ≤ ·), sent := x.sent.filter (n ≤ ·), cutRound := n, cutSched := sc }
          else x
        let s := clearLate d (setDom s d x)
        if restart then restartDrops d s else s
      else
        wrF (setDom s d { x with slipRun := 0 }) ep TIM_DOM_EPOCH_SCHED_IN_EPOCH (rdF s ep TIM_DOM_EPOCH_SCHED_IN_EPOCH + 1)

/-- R78, R82, R113, R120, R123, R217: what the start of a round brings to the regions of domain unit `d`, once the commits of its
boundary have taken force. -/
def roundBegin (d : Nat) (epoch : Bool) (s : State) : State :=
  if !domBound s d || inSlip s d then s else
  let s := (domPRGs s d).foldl (fun s n => setGate s n ⟨0, s.tim.ref⟩) s
  let rs := domCRGs s d
  let s := rs.foldl (fun s n =>
    if epoch then epochRestart n s
    else ((List.range 256).map (256 * n + ·)).foldl (fun s b =>
      if bobSched s b then
        let s := modBob b (fun y => { y with unseen := [] }) s
        if bobState s b = bsWAIT_ROUND then
          setBobState b bsRUNNING (setCursor b (bobCursor s b + 1) (modBob b (fun y => { y with pos := 0 }) s))
        else s
      else s) s) s
  collRound d (schedOf s d) s

/-! ### The decision instant (R88, R96, R124) -/

/-- Whether a compute region is late. -/
def crgLate (s : State) (d n : Nat) : Bool :=
  ((List.range 256).any fun i =>
    let b := 256 * n + i
    (bobState s b == bsRUNNING || bobState s b == bsWAIT_MEM) && bobSched s b)
    || collLate s n d (schedOf s d)

/-- Whether a port region is late: a scheduled flit still waits for one of its ports. -/
def prgLate (s : State) (n : Nat) : Bool :=
  (s.ground.cells ++ s.ground.waiting).any fun c => c.seg.hdr.tc == 7 && (match c.out with
    | .port p => p / 16 == n
    | _ => false)

/-- A late region counts, and raises STRAGGLER when it reaches its threshold, once per epoch. -/
def countLate (sched epochReg totalReg : Nat) (f : Src) (u unit : Nat) (s : State) : State :=
  let k := rdF s epochReg CRG_SLIP_EPOCH_COUNT + 1
  let s := bump (wrF s epochReg CRG_SLIP_EPOCH_COUNT k) totalReg
  let th := rdF s sched CRG_SCHED_SLIP_THRESH
  if th ≠ 0 ∧ th ≤ k ∧ !s.stragglers.contains unit then raise f u { s with stragglers := s.stragglers ++ [unit] } else s

/-- R120: scheduled tiles of the domain's regions that no step took by the decision instant of the round after their label's. -/
def dropUnmatched (d : Nat) (s : State) : State :=
  let n := schedOf s d
  let gone := fun (t : WaitTile) => t.sched && crgDom s t.rgn == some d && labelIndex n (tmLabel t.msg) < n && !tileMatched s t
  let lost := s.tiles.filter gone
  let s := drainWaiting (dropWaitTiles gone s)
  lost.foldl (fun s t => raise srcCRG_UNMATCHED_TILE t.rgn (bump s (CRG_TILES_UNMATCHED t.rgn))) s

/-- R88: the decision instant of the current round of domain unit `d`. Of several late regions ORIGIN_REGION names the lowest compute region,
or else the lowest port region (DESIGN CHOICE, log entry 115). -/
def decisionInstant (d : Nat) (s : State) : State :=
  let x := domOf s d
  if !domBound s d || !x.started || x.decided then s else
  let n := roundOf s d
  let cs := (domCRGs s d).filter (crgLate s d)
  let ps := (domPRGs s d).filter (prgLate s)
  let s := setDom s d { x with decided := true }
  let s := cs.foldl (fun s r => countLate (CRG_SCHED r) (CRG_SLIP_EPOCH r) (CRG_SLIP_TOTAL r) srcCRG_STRAGGLER r (0x10 + r) s) s
  let s := ps.foldl (fun s r => countLate (PRG_SCHED r) (PRG_SLIP_EPOCH r) (PRG_SLIP_TOTAL r) srcPRG_STRAGGLER r (0x20 + r) s) s
  let late := cs ++ ps.map (64 + ·)
  let s := match late with
    | [] => s
    | r :: _ =>
      let s := setDom s d { domOf s d with held := x.held ++ [n], sent := x.sent ++ [n] }
      sendSlip (bump s (TIM_DOM_SLIPS_SENT (d + 1))) d none (slipPay (rdF s (TIM_DOM_ID (d + 1)) TIM_DOM_ID_ID) (ownId s) r 0 n)
  if inSlip s d then s else dropUnmatched d s

/-- R89, R90, R92: a SLIP arrives on port `p`. -/
def slipIn (p : Nat) (m : Msg) (s : State) : State :=
  match domById s (leAt m.pay 0 2) with
  | none => s
  | some d =>
    if !(domPorts s d).contains (gangBase s p) then s else
    let x := domOf s d
    let n := leAt m.pay 8 8
    if n < x.cutRound then bump s (TIM_DOM_RESTART_DROPS (d + 1)) else
    if x.sent.contains n then setDom s d { x with copies := x.copies + 1 } else
    let late := x.started && n < roundOf s d
    let s := setDom s d { x with sent := x.sent ++ [n], held := if late then x.held else x.held ++ [n] }
    let s := if late then raise srcTIM_SLIP_LATE (d + 1) (bump s (TIM_DOM_SLIP_LATE (d + 1))) else s
    let from_ := gangBase s p
    let s := if (domPorts s d).any (· != from_) then bump s (TIM_DOM_SLIPS_FWD (d + 1)) else s
    sendSlip s d (some from_) (bslice m.pay 0 5 ++ leBytes 1 ((leAt m.pay 5 1 + 1) % 256) ++ bslice (m.pay.drop 6) 0 18)

end Sys2Proof.Machine
end

