-- ==== Sys2Proof/Machine/Stations.lean ====
section
/-! DEFINITION. The stations (chapters 4, 5, 6 and 8), but for ATTEND: what one unit of each does. A unit takes its operands from region
SRAM and memory. What this device's own pool serves at once is made here; for any other access the unit asks, and runs once it has its
outcome (log entry 16). -/

namespace Sys2Proof.Machine

/-! ### A running unit -/

/-- What a unit of work has at hand: the state, its bobbin, the partition of its region, on whose account its accesses are and the GEN that
they carry, the accesses whose outcomes it has used and those for which it must ask, whether it cannot run now, and the step fault it met
(code and detail). -/
structure Ctx where
  s : State
  b : Nat
  part : Option Nat
  who : Asker := .bob 0 0
  gen : Nat := 0
  used : List Nat := []
  asks : List Ask := []
  stuck : Bool := false
  fault : Option (Nat × Nat) := none
  /-- The unit is only planned: its reads are counted, and nothing is computed (R121). -/
  dry : Bool := false
  reads : Nat := 0
  /-- The step as the unit leaves it. -/
  step : Step := default

/-- The region of the unit, and the STN page of an engine of it. -/
def Ctx.rgn (c : Ctx) : Nat := bobRgn c.b
def Ctx.ok (c : Ctx) : Bool := !c.stuck && c.fault.isNone
def Ctx.on (c : Ctx) (f : State → State) : Ctx := { c with s := f c.s }
def Ctx.fail (c : Ctx) (code detail : Nat) : Ctx := if c.fault.isSome then c else { c with fault := some (code, detail) }

/-- A change of the state where nothing has stopped the unit. -/
def Ctx.tally (f : State → State) (c : Ctx) : Ctx := if c.ok then c.on f else c

/-- Run a body for each number below `n` while nothing stops the unit. -/
def Ctx.each (c : Ctx) (n : Nat) (f : Nat → Ctx → Ctx) : Ctx := (List.range n).foldl (fun c i => if c.ok then f i c else c) c

/-- Table STR-9: the step fault of a status (Table LSA-4). -/
def statusFault (st : Nat) : Nat :=
  if st = stTIER_LATE then 0x07
  else if st = stTIER_FAILED then 0x08
  else if st = stHOME_LOST ∨ st = stNOT_HOSTED then 0x09
  else if st = stTARGET_DEAD ∨ st = stPORT_DOWN then 0x0A
  else if st = stEXTENT_WITHDRAWN then 0x0B
  else if st = stINTEGRITY then 0x0C
  else if st = stFENCED then 0x10
  else 0x06

/-! ### Memory -/

/-- Where an access of a unit is served: it ends with an error; the pool of this device serves it at once; or the unit asks for it, as any
requester does. -/
inductive Serve where
  | err (st : Nat)
  | here (ext phys : Nat)
  | ask
  deriving DecidableEq, Repr

/-- R301: whether a publication holds an access of partition `p` to object `i`. -/
def pubWaits (s : State) (p : Nat) (u : Use) (i : Nat) : Bool :=
  (u == .write && s.mem.reserved.any fun x => x.2.2.2 == i) || (u == .read && (objOf s i).part != p && writesOpen s i)

/-- R35, R252, R289, R301: an access of partition `p` at local address `a`, looked up as an extent of the pool, meets nothing on its way: no
hold, no line in a transaction, no snoop, no fence or reset of its channels. -/
def atOnce (s : State) (rgn p : Nat) (u : Use) (i a e phys n : Nat) : Bool :=
  !unitHeld s grMRG (entryHub rgn)
    && !(s.mem.guarded.contains e || s.mem.moves.any (fun v => v.ext == some e && v.phase == 1) || pubWaits s p u i)
    && (lookState s u e).isNone && (extOf s e).tier == 0
    && ((coverDom s a).isNone
      || (!blockFenced s grDIR (lineSlice s a) && !unitHeld s grDIR (lineSlice s a) && (lineBusyAt s s.mem.arrivals a n).isNone
        && (snoopNeedAt s (u == .read) a n).isNone))
    && !channelFenced s phys n && (channelReset s phys n).isNone

/-- R121, R252: an access of a unit of region `rgn` at a global address. -/
def serveAt (s : State) (rgn : Nat) (part : Option Nat) (u : Use) (a n : Nat) : Serve :=
  match part with
  | none => .err stACCESS
  | some p =>
    let sw := a / 2 ^ 52 % 4096
    if partFenced s p then .err stFENCED
    else if sw ≠ ownId s then .ask
    else if blockFenced s grMRG (entryHub rgn) then .err stFENCED
    else match lookRights s p u (a % 2 ^ 52) n with
      | .err st => .err st
      | .ok i e phys => if atOnce s rgn p u i (a % 2 ^ 52) e phys n then .here e phys else .ask

/-- R252, R253: a unit's lookup at its hub is a hit or a miss, and a miss fetches the entry. -/
def lookedAt (rgn e : Nat) (s : State) : State :=
  let hub := entryHub rgn
  let s := progress s grMRG hub
  if s.mem.hcache.contains (hub, e) then bump s (MRG_HOME_HITS hub) else cacheFill hub e (bump s (MRG_HOME_MISSES hub))

/-- An access that the unit has asked for: `some none` while it has no outcome. -/
def Ctx.asked (k : Ask) (c : Ctx) : Option (Option (Nat × Bytes)) × Ctx :=
  match farFind c.s c.who c.used k with
  | some f => (some f.reply, { c with used := c.used ++ [f.id] })
  | none => (none, c)

/-- An access of a unit that it must ask for. -/
def Ctx.wants (k : Ask) (c : Ctx) : Ctx := { c with stuck := true, asks := c.asks ++ [{ k with gen := c.gen }] }

/-- An access of a unit that waits. -/
def Ctx.halt (c : Ctx) : Ctx := { c with stuck := true }

/-- One read of at most 4 KiB: its status and data. -/
def Ctx.read1 (a n : Nat) (c : Ctx) : Nat × Bytes × Ctx :=
  if !c.ok then (stOK, zeros n, c) else
  let k : Ask := { type := tREAD, a := a, n := n }
  match c.asked k with
  | (some (some (st, d)), c) => (st, bslice d 0 n, { c with reads := c.reads + 1 })
  | (some none, c) => (stOK, zeros n, c.halt)
  | (none, c) =>
    match serveAt c.s c.rgn c.part .read a n with
    | .err st => (st, zeros n, c.on (countTier c.rgn st))
    | .here e p =>
      let o := objOf c.s (extOf c.s e).obj
      let (st, d, s) := memRead o.part p n (lookedAt c.rgn e c.s)
      (st, bslice d 0 n, { c with s := countTier c.rgn st s, reads := c.reads + 1 })
    | .ask => (stOK, zeros n, c.wants k)

/-- R298: a write drops the combine-buffer entries that it overlaps. -/
def writeDrops (e : Option Nat) (a n : Nat) (s : State) : State :=
  match e with
  | some e => if (objOf s (extOf s e).obj).sharedRo then dropReads a n s else s
  | none => s

/-- One write of at most 4 KiB. A plan, whose state is dropped, asks for none. -/
def Ctx.write1 (a : Nat) (d : Bytes) (c : Ctx) : Nat × Ctx :=
  if !c.ok then (stOK, c) else
  let n := d.length
  let k : Ask := { type := tWRITE_ACK, a := a, n := n, arg := d }
  match if c.dry then (none, c) else c.asked k with
  | (some (some (st, _)), c) => (st, c)
  | (some none, c) => (stOK, c.halt)
  | (none, c) =>
    match serveAt c.s c.rgn c.part .write a n with
    | .err st => (st, c.on (countTier c.rgn st))
    | .here e p =>
      let o := objOf c.s (extOf c.s e).obj
      let (st, s) := memWrite o.part o.crypt p d (writeDrops (some e) a n (lookedAt c.rgn e c.s))
      (st, { c with s := mirror p n (countTier c.rgn st s) })
    | .ask => (stOK, if c.dry then c else c.wants k)

/-- R181, R284: one atomic operation at the home of its word: the status and the old value. A plan asks for none, and goes on as if the word held
0. -/
def Ctx.atomic1 (op a : Nat) (arg new : Bytes) (c : Ctx) : Nat × Bytes × Ctx :=
  let w := atomWidth op
  if !c.ok then (stOK, zeros w, c) else
  let k : Ask := { type := tATOMIC, op := op, a := a, n := w, arg := bslice arg 0 16 ++ bslice new 0 16 }
  match if c.dry then (none, c) else c.asked k with
  | (some (some (st, d)), c) => (st, bslice d 0 w, c)
  | (some none, c) => (stOK, zeros w, c.halt)
  | (none, c) =>
    match serveAt c.s c.rgn c.part .atomic a w with
    | .err st => (st, zeros w, c.on (countTier c.rgn st))
    | .here e p =>
      let o := objOf c.s (extOf c.s e).obj
      let (st, old, s) := memRead o.part p w (lookedAt c.rgn e c.s)
      if st ≠ stOK then (st, zeros w, { c with s := countTier c.rgn st s }) else
      let (st, s) := memWrite o.part o.crypt p (atomNew op old arg new) s
      (st, old, { c with s := mirror p w (countTier c.rgn st s) })
    | .ask => (stOK, zeros w, if c.dry then c else c.wants k)

/-- Cut a range at 4 KiB boundaries (R121). -/
def cuts : Nat → Nat → Nat → List (Nat × Nat)
  | 0, _, _ => []
  | f + 1, a, n => if n = 0 then [] else let k := min n (4096 - a % 4096); (a, k) :: cuts f (a + k) (n - k)

/-- Read a range: the first status that is not OK, and the data. -/
def Ctx.readSt (a n : Nat) (c : Ctx) : Nat × Bytes × Ctx :=
  (cuts (n / 4096 + 2) a n).foldl (fun (x : Nat × Bytes × Ctx) k =>
    if x.1 = stOK then
      let (st, d, c) := x.2.2.read1 k.1 k.2
      (st, x.2.1 ++ d, c)
    else x) (stOK, [], c)

/-- Write a range. -/
def Ctx.writeSt (a : Nat) (d : Bytes) (c : Ctx) : Nat × Ctx :=
  (cuts (d.length / 4096 + 2) a d.length).foldl (fun (x : Nat × Ctx) k =>
    if x.1 = stOK then x.2.write1 k.1 (bslice d (k.1 - a) k.2) else x) (stOK, c)

/-- Read a range; an error faults the step. -/
def Ctx.read (a n : Nat) (c : Ctx) : Bytes × Ctx :=
  let (st, d, c) := c.readSt a n
  (bslice d 0 n, if st = stOK then c else c.fail (statusFault st) 0)

/-- R121: read data whose content no plan needs: a plan counts its reads. -/
def Ctx.bulk (a n : Nat) (c : Ctx) : Bytes × Ctx :=
  if c.dry then (zeros 0, if c.ok then { c with reads := c.reads + readsFor a n } else c) else c.read a n

/-- Write a range; an error faults the step. -/
def Ctx.write (a : Nat) (d : Bytes) (c : Ctx) : Ctx :=
  let (st, c) := c.writeSt a d
  if st = stOK then c else c.fail (statusFault st) 0

/-! ### Slots -/

/-- R109: every operand run of the step lies in its area, once its lengths are known: IN0, IN1, IN2, OUT. -/
def Ctx.spans (st : Step) (g : Nat × Nat × Nat × Nat) (c : Ctx) : Ctx :=
  if !c.ok then c else
  let c := { c with step := { c.step with grans := g } }
  if runsFit { st with grans := g } then c else c.fail 0x03 0

/-- `k` bytes of an operand from byte `off` of its run: SLOT_RANGE past its area, SRAM_UE for a bad word. An operand 0xFFFF that the
station needs faults the step with PARAM (DESIGN CHOICE, log entry 105). -/
def Ctx.slot (o : Option (Nat × Nat)) (off k : Nat) (c : Ctx) : Bytes × Ctx :=
  if !c.ok then (zeros k, c) else
  match o with
  | none => (zeros k, c.fail 0x05 0)
  | some (g, z) =>
    if 512 * z < 512 * g + off + k then (zeros k, c.fail 0x03 0)
    else if sramBadIn c.s c.rgn (512 * g + off) k then (zeros k, c.fail 0x0D 0)
    else (sramGet c.s c.rgn (512 * g + off) k, c)

/-- Tile `q` of an operand's run of tiles of `rows` stored rows; a plan does not look at it. -/
def Ctx.tileOf (o : Option (Nat × Nat)) (f rows q : Nat) (c : Ctx) : Bytes × Ctx :=
  if c.dry then ([], c) else c.slot o (512 * tileGran f rows * q) (tileBytes f rows)

/-- A tile that counts as operand bytes (Table STR-10). -/
def Ctx.tile (o : Option (Nat × Nat)) (f rows q u : Nat) (c : Ctx) : Bytes × Ctx :=
  let (d, c) := c.tileOf o f rows q
  (d, c.tally fun s => bump s (STN_BYTES_IN u) (tileBytes f rows))

/-- Store bytes in an operand's run. -/
def Ctx.putSlot (o : Option (Nat × Nat)) (off : Nat) (d : Bytes) (c : Ctx) : Ctx :=
  if !c.ok then c else
  match o with
  | none => c.fail 0x05 0
  | some (g, z) => if 512 * z < 512 * g + off + d.length then c.fail 0x03 0 else c.on (sramPut c.rgn (512 * g + off) d)

/-- Write tile `q` of an operand's run, with the counts of Table ARI-5. -/
def Ctx.putOut (o : Option (Nat × Nat)) (f rows q u : Nat) (t : OutTile) (c : Ctx) : Ctx :=
  (c.putSlot o (512 * tileGran f rows * q) t.bytes).tally fun s => bump (bump s (STN_SAT_OUT u) t.sat) (STN_NAN_OUT u) t.nan

/-- A tile written that counts as result bytes (Table STR-10). -/
def Ctx.putTile (o : Option (Nat × Nat)) (f rows q u : Nat) (t : OutTile) (c : Ctx) : Ctx :=
  (c.putOut o f rows q u t).tally fun s => bump s (STN_BYTES_OUT u) t.bytes.length

/-- Array steps of a unit: in the region's count, and as work units of the tile block that runs it (R117, R167, R424). -/
def Ctx.array (x : Stn) (k : Nat) (c : Ctx) : Ctx :=
  c.tally fun s =>
    let s := bump s (CRG_TBK_STEPS c.rgn) k
    match freeBlock s c.rgn x.mask with
    | some i => bump s (G_PROGRESS grTBK (tbkOf s c.rgn i) 0) k
    | none => s

/-! ### Running a unit -/

/-- Reads that the units of a step have made are counted beyond those that it asked for at issue (R121, R122). -/
def countReads (b : Nat) (st : Step) (made : Nat) (s : State) : State :=
  let k := max made st.planned - max st.made st.planned
  if k = 0 then s else bump (bump s (BOB_READS b) k) (CRG_READS (bobRgn b)) k

/-- Accesses whose outcomes a unit has used are done. -/
def farUsed (ids : List Nat) (s : State) : State := modMem s fun m => { m with far := m.far.filter fun f => !ids.contains f.id }

/-- A unit has what it needs to run: its context. -/
def stepCtx (s : State) (b : Nat) (st : Step) : Ctx :=
  { s := s, b := b, part := ownerCRG s (bobRgn b), who := .bob b st.order, gen := genOf s grBOB b, step := st }

/-- A unit that cannot run now changes nothing but that it asks for what it lacks. -/
def Ctx.askAll (c : Ctx) (s : State) : State := c.asks.foldl (fun s k => ask c.who c.rgn (c.part.getD 0) k s) s

/-- Run the next unit of issued step `i` of bobbin `b`, a step of type `ty`, that counts as `k` tiles: nothing where it may not start now;
where an outcome is missing, the unit asks for it; a step fault stops the bobbin. -/
def runUnit (ty b i : Nat) (k : Step → Stn → Nat) (body : Step → Stn → Ctx → Ctx) (s : State) : State :=
  match (bobOf s b).steps[i]? with
  | none => s
  | some st =>
    if st.type ≠ ty ∨ !mayStart s b st then s else
    let x := stnOf (bobProg s b) st.station
    let u := 32 * bobRgn b + st.engine
    let c := body st x (stepCtx s b st)
    if c.stuck then c.askAll s else
    let made := if readsMem ty then st.made + c.reads else 0
    let s := farUsed c.used (countReads b st made c.s)
    match c.fault with
    | some (code, det) => bobFault b code st.station st.desc det st.tile (some st) s
    | none =>
      let st := { c.step with made := made }
      if st.unit < st.units then
        serveTurn b st (k st x) (bump (progress (putStep b { st with unit := st.unit + 1 } s) grSTN u) (STN_UNITS u) (k st x))
      else putStep b st s

/-- The STN page of a step's engine. -/
def stnUnit (c : Ctx) (st : Step) : Nat := 32 * c.rgn + st.engine

/-- The seed of output tile `q` of a step (R140). -/
def stepSeed (c : Ctx) (st : Step) (q : Nat) : Nat :=
  srSeed (rdF c.s (BOB_STATE c.b) BOB_STATE_STREAM_ID) ((st.tile + q) % 2 ^ 32)

/-- The OUTCONV word at the start of a parameter block, where the block has the length the station asks for and a valid mode. An empty
block of MATMUL or CONVERT, whose block is the word alone, selects 0 (R137). -/
def outconv (x : Stn) (len : Nat) : Option Nat :=
  let w := leAt x.param 0 8
  if (x.param.length = len ∨ (len = 8 ∧ x.param = [])) ∧ (outMode w).isSome then some w else none

/-- R104: an MX operand's COLS is a multiple of 32. A tile that breaks this faults the step with PARAM; ELEMWISE and NORM look only at the
format of OUT (DESIGN CHOICE, log entry 106). -/
def colsOk (f cols : Nat) : Bool := !fmtMx f || cols % 32 == 0

/-! ### INGRESS and EGRESS (R120) -/

/-- The parameter block of INGRESS, EGRESS, LOAD, STORE (Table STR-3) and REDUCE (R214) is empty.

An INGRESS step takes the first tile that waits for it. A tile in another format than the station's writes values that the manual
does not state (log entry 17). What a scheduled step wrote is readable from the next scheduled round on, but for a tile of an EGRESS of this
device, which does not wait for a boundary (R82). -/
def ingressUnit (st : Step) (x : Stn) (c : Ctx) : Ctx :=
  if !x.param.isEmpty || !colsOk x.out st.cols then c.fail 0x05 0 else
  match c.s.tiles.find? (forStep c.rgn st) with
  | none => c.halt
  | some t =>
    let c := c.on fun s => drainWaiting (freeCells t.cells { s with tiles := s.tiles.erase t })
    let m := t.msg
    let n := tileBytes x.out st.rows
    let (d, c) :=
      if tmFmt m = x.out then (clipTile x.out st.rows st.cols (unpackRect x.out st.rows (tmRows m) (tmCols m) (tmData m)), c)
      else
        let (d, s) := takeFreeBytes n c.s
        (d, { c with s := s })
    let c := c.tally fun s => bump s (STN_BYTES_IN (stnUnit c st)) (tmBytes m)
    let c := c.putTile st.out x.out st.rows 0 (stnUnit c st) ⟨d, 0, 0⟩
    match st.out with
    | some (g, _) =>
      if st.sched && !t.here then c.tally (modBob c.b fun y => { y with unseen := y.unseen ++ [(g, tileGran x.out st.rows)] }) else c
    | none => c

def ingress (b i : Nat) (s : State) : State := runUnit tyINGRESS b i (fun _ _ => 1) ingressUnit s

/-- An EGRESS step sends its tile's rectangle, for the partition of its region (R394); a destination without a route faults the step with TARGET_DEAD. -/
def egressUnit (st : Step) (x : Stn) (c : Ctx) : Ctx :=
  if !x.param.isEmpty || !colsOk x.in0 st.cols then c.fail 0x05 0 else
  let (d, c) := c.tile st.in0 x.in0 st.rows 0 (stnUnit c st)
  if !c.ok then c else
  let m := tileMsg c.s (0x100 + c.rgn) (st.arg0 % 2 ^ 24) false (if st.sched then 7 else 0) (if st.sched then st.label else 0)
    (bits st.arg0 43 24) x.in0 st.tile st.rows st.cols (packRect x.in0 st.rows st.cols d)
  let m := { m with hdr := { m.hdr with vep := c.part.getD 0 } }
  if hasRoute c.s (.region c.rgn) m.hdr then
    c.on fun s => bump (emit (.region c.rgn) m s) (STN_BYTES_OUT (stnUnit c st)) (tmBytes m)
  else (c.on fun s => deadTarget s c.rgn m.hdr).fail 0x0A 0

def egress (b i : Nat) (s : State) : State := runUnit tyEGRESS b i (fun _ _ => 1) egressUnit s

/-! ### LOAD and STORE (R121) -/

/-- A LOAD unit reads the next tile of its run, back to back in memory (R104). -/
def loadUnit (st : Step) (x : Stn) (c : Ctx) : Ctx :=
  if !x.param.isEmpty || !colsOk x.out st.cols then c.fail 0x05 0 else
  let n := tileBytes x.out st.rows
  let (d, c) := c.read (st.addr + st.unit * n) n
  let c := c.tally fun s => bump s (STN_BYTES_IN (stnUnit c st)) n
  c.putTile st.out x.out st.rows st.unit (stnUnit c st) ⟨clipTile x.out st.rows st.cols d, 0, 0⟩

def load (b i : Nat) (s : State) : State := runUnit tyLOAD b i (fun _ _ => 1) loadUnit s

/-- A STORE unit writes the next tile of its run; it works in the same requests as LOAD. -/
def storeUnit (st : Step) (x : Stn) (c : Ctx) : Ctx :=
  if !x.param.isEmpty || !colsOk x.in0 st.cols then c.fail 0x05 0 else
  let n := tileBytes x.in0 st.rows
  let a := st.addr + st.unit * n
  let (d, c) := c.tile st.in0 x.in0 st.rows st.unit (stnUnit c st)
  let c := { c.write a (clipTile x.in0 st.rows st.cols d) with reads := c.reads + readsFor a n }
  c.tally fun s => bump s (STN_BYTES_OUT (stnUnit c st)) n

def store (b i : Nat) (s : State) : State := runUnit tySTORE b i (fun _ _ => 1) storeUnit s

/-! ### MATMUL (R143 to R147, R485) -/

/-- The class factor of a pair of formats (R156, R168): 1 for the 4-bit rate class, 2 for the 8-bit class, 4 for the 16-bit class. -/
def rateClass (f : Nat) : Nat := if fmtBits f = 4 then 1 else if fmtBits f ≤ 8 then 2 else 4
def pairClass (f g : Nat) : Nat := max (rateClass f) (rateClass g)

/-- Value `c` of row `i` of some rows. -/
def at2 (rows : List (List Val)) (i c : Nat) : Val := (((rows[i]?).getD [])[c]?).getD .zero

/-- The chain values of a rectangle of elements over operand pairs of `k` products, and how many of the chains fell below the window
(R145): `r0` the stored rows of IN0. -/
def chainVals (f0 f1 r0 rows cols k : Nat) (xs : List (Bytes × Bytes)) : List (List Val) × Nat :=
  let g := (List.range rows).map fun i => (List.range cols).map fun n => mmElem f0 f1 r0 k xs i n
  (g.map (·.map (·.1)), (g.map fun r => (r.filter (·.2)).length).sum)

/-- A chain's output tile, with that count. -/
def chainTile (f0 f1 fo oc seed rows cols r0 : Nat) (xs : List (Bytes × Bytes)) : OutTile × Nat :=
  let (g, tr) := chainVals f0 f1 r0 rows cols (128 * xs.length) xs
  (outTile fo oc seed rows cols (at2 g), tr)

/-- A MATMUL chain j: it multiplies IN0[k] by IN1[j, k] for each k and rounds the tile once. -/
def matmulUnit (st : Step) (x : Stn) (c : Ctx) : Ctx :=
  match outconv x 8 with
  | none => c.fail 0x05 0
  | some oc =>
    if !colsOk x.out st.cols then c.fail 0x05 0 else
    let u := stnUnit c st
    let kt := st.param % 16 + 1
    let j := st.unit
    let (xs, c) := (List.range kt).foldl (fun (a : List (Bytes × Bytes) × Ctx) k =>
      let (d0, c) := a.2.tile st.in0 x.in0 st.rows k u
      let (d1, c) := c.tile st.in1 x.in1 128 (j * kt + k) u
      (a.1 ++ [(d0, d1)], c)) ([], c)
    if !c.ok then c else
    let (t, tr) := chainTile x.in0 x.in1 x.out oc (stepSeed c st j) st.rows st.cols st.rows xs
    let c := c.putTile st.out x.out st.rows j u t
    (c.tally fun s => bump s (STN_MX_TRUNC u) tr).array x (128 * pairClass x.in0 x.in1 * kt)

def matmul (b i : Nat) (s : State) : State := runUnit tyMATMUL b i (fun st _ => st.param % 16 + 1) matmulUnit s

/-! ### ELEMWISE, NORM and CONVERT (R142, R148 to R151) -/

/-- An element as FP32 (R149, R151). -/
def fp32El (f rows cols : Nat) (d : Bytes) (r k : Nat) : Val := rne32 (tileVal f rows cols d r k)

/-- ELEMWISE: R149. An IN1 without a format is read in the default of the tables (DESIGN CHOICE, log entry 139). -/
def elemwiseUnit (st : Step) (x : Stn) (c : Ctx) : Ctx :=
  let u := stnUnit c st
  let q := st.unit
  if !ewParamOk x.param || !colsOk x.out st.cols then c.fail 0x05 0 else
  let bin := leAt x.param 8 1 != 0
  let (d0, c) := c.tile st.in0 x.in0 st.rows q u
  let (d1, c) := if bin then c.tile st.in1 x.in1 st.rows q u else ([], c)
  if !c.ok then c else
  let g := fun r k => ewElem x.param (fp32El x.in0 st.rows st.cols d0 r k)
    (if bin then fp32El x.in1 st.rows st.cols d1 r k else .zero)
  c.putTile st.out x.out st.rows q u (outTile x.out (leAt x.param 0 8) (stepSeed c st q) st.rows st.cols g)

def elemwise (b i : Nat) (s : State) : State := runUnit tyELEMWISE b i (fun _ _ => 1) elemwiseUnit s

/-- Read a run of `n` tiles. -/
def Ctx.tiles (o : Option (Nat × Nat)) (f rows n u : Nat) (c : Ctx) : List Bytes × Ctx :=
  (List.range n).foldl (fun (a : List Bytes × Ctx) q => let (d, c) := a.2.tile o f rows q u; (a.1 ++ [d], c)) ([], c)

/-- Byte string `q` of a list. -/
def nth (ds : List Bytes) (q : Nat) : Bytes := (ds[q]?).getD []

def normUnit (st : Step) (x : Stn) (c : Ctx) : Ctx :=
  let u := stnUnit c st
  let n := tilesOf st.param
  if !normParamOk x.param || !colsOk x.out st.cols then c.fail 0x05 0 else
  let (ds, c) := c.tiles st.in0 x.in0 st.rows n u
  let (gs, c) := if st.in1.isSome then c.tiles st.in1 0x0F 2 n u else ([], c)
  if !c.ok then c else
  let el := fun q r k => fp32El x.in0 st.rows st.cols (nth ds q) r k
  let row := fun r => (List.range n).flatMap fun q => (List.range st.cols).map fun k => el q r k
  let stats := (List.range st.rows).map fun r => normStats x.param (row r)
  let sOf := fun r => (stats[r]?).getD (.zero, .zero)
  let c := c.each n fun q c =>
    let g := fun r k =>
      let gb := if st.in1.isSome then some (tileRaw 0x0F 2 (nth gs q) 0 k, tileRaw 0x0F 2 (nth gs q) 1 k) else none
      normElem (sOf r).1 (sOf r).2 (el q r k) gb
    c.putTile st.out x.out st.rows q u (outTile x.out (leAt x.param 0 8) (stepSeed c st q) st.rows st.cols g)
  if st.in2.isSome then
    c.putTile st.in2 0x0F st.rows 0 u (outTile 0x0F 0 0 st.rows 2 fun r k => if k = 0 then (sOf r).1 else (sOf r).2)
  else c

def norm (b i : Nat) (s : State) : State := runUnit tyNORM b i (fun st _ => tilesOf st.param) normUnit s

/-- CONVERT: R142. Reserved bits of PARAM that are not zero make PARAM invalid (DESIGN CHOICE, log entry 138). -/
def convertUnit (st : Step) (x : Stn) (c : Ctx) : Ctx :=
  match outconv x 8 with
  | none => c.fail 0x05 0
  | some oc =>
    if !colsOk x.out st.cols || !colsOk x.in0 st.cols || 256 ≤ st.param then c.fail 0x05 0 else
    let u := stnUnit c st
    c.each (tilesOf st.param) fun q c =>
      let (d, c) := c.tile st.in0 x.in0 st.rows q u
      c.putTile st.out x.out st.rows q u (outTile x.out oc (stepSeed c st q) st.rows st.cols (tileVal x.in0 st.rows st.cols d))

def convert (b i : Nat) (s : State) : State := runUnit tyCONVERT b i (fun st _ => tilesOf st.param) convertUnit s

/-! ### EXPAND (R158 to R169) -/

/-- A little-endian view of an LR-pair header (Table EXP-1). -/
structure Lr where
  d : Nat
  k : Nat
  r : Nat
  resFmt : Nat
  resMax : Nat
  res : Bool
  u : Nat
  v : Nat
  dir : Nat
  ent : Nat
  total : Nat
  deriving Repr, Inhabited

def Lr.of (h : Bytes) : Lr :=
  ⟨leAt h 8 4, leAt h 0x0C 4, leAt h 0x10 2, leAt h 0x14 1, leAt h 0x15 1, bit (leAt h 6 2) 0, leAt h 0x18 8, leAt h 0x20 8,
    leAt h 0x28 8, leAt h 0x30 8, leAt h 0x38 8⟩

/-- Row blocks and column blocks. -/
def Lr.nI (h : Lr) : Nat := cdiv h.d 128
def Lr.nJ (h : Lr) : Nat := cdiv h.k 128

/-- R159: the bytes of a panel of format `f`. -/
def panelBytes (f r : Nat) : Nat := cdiv (128 * (r * fmtBits f / 8 + if fmtMx f then r / 32 else 0)) 64 * 64

/-- R162, Table EXP-2: the header checks, but for the run. -/
def lrError (x : Stn) (hd : Bytes) : Option Nat :=
  let h := Lr.of hd
  let fu := leAt hd 0x12 1
  let fv := leAt hd 0x13 1
  let pu := panelBytes fu h.r
  let pv := panelBytes fv h.r
  if leAt hd 0 4 ≠ 0x50524C48 ∨ leAt hd 4 2 ≠ 1 then some 0x01
  else if crc32c (hd.take 0x7C) ≠ leAt hd 0x7C 4 then some 0x02
  else if fu ≠ x.in0 ∨ fv ≠ x.in1 ∨ (h.resFmt ≠ 0 ∧ h.resFmt ≠ 0x0D ∧ h.resFmt ≠ 0x0E) ∨ (h.resFmt = 0 ∧ h.res) then some 0x03
  else if h.d = 0 ∨ 1048576 < h.d ∨ h.k = 0 ∨ 1048576 < h.k ∨ h.r < 8 ∨ 1024 < h.r ∨ h.r % 8 ≠ 0
      ∨ ((fmtMx fu ∨ fmtMx fv) ∧ h.r % 32 ≠ 0) ∨ 64 < h.resMax then some 0x04
  else
    let uEnd := h.u + h.nI * pu
    let vEnd := h.v + h.nJ * pv
    let dEnd := h.dir + 8 * h.nI * h.nJ
    if h.u % 64 ≠ 0 ∨ h.v % 64 ≠ 0 ∨ h.u < 128 ∨ h.v < uEnd ∨ h.total < vEnd
        ∨ (h.res ∧ (h.dir % 64 ≠ 0 ∨ h.ent % 64 ≠ 0 ∨ h.dir < vEnd ∨ h.ent < dEnd ∨ h.total < h.ent)) then some 0x05
    else none

/-- Rank tile `k` of a panel, as a full tile: the columns at or beyond r are zero. -/
def rankTile (f r : Nat) (p : Bytes) (k : Nat) : Bytes :=
  let w := fmtBits f
  let row := r * w / 8
  let data := (List.range 128).map fun i => packCodes w ((List.range 128).map fun m =>
    let j := 128 * k + m
    if j < r then leAt p (i * row + j * w / 8) 4 / 2 ^ (j * w % 8) % 2 ^ w else 0)
  let sc := if fmtMx f then (List.range 128).map fun i => (List.range 4).map fun b =>
      if 128 * k + 32 * b < r then BitVec.ofNat 8 (leAt p (128 * row + i * (r / 32) + 4 * k + b) 1) else 0 else []
  data.flatten ++ sc.flatten

/-- R165: the tile (a, b) of a linear index. -/
def lrTile (h : Lr) (order : Bool) (l : Nat) : Nat × Nat := if order then (l % h.nI, l / h.nI) else (l / h.nJ, l % h.nJ)

/-- Header, panel and residual bytes that EXPAND has read from memory (Tables STR-10 and EXP-3). -/
def expMem (u k : Nat) (s : State) : State := bump (bump s (STN_EXP_MEM_BYTES u) k) (STN_BYTES_IN u) k

/-- Panel bytes that EXPAND has read from slots. -/
def expSlot (u k : Nat) (s : State) : State := bump (bump s (STN_EXP_SLOT_BYTES u) k) (STN_BYTES_IN u) k

/-- R160, R162: the residual of a tile as (POS, VALUE), or a detail code. -/
def lrResidual (h : Lr) (addr a b u : Nat) (c : Ctx) : Nat × List (Nat × Nat) × Ctx :=
  let (w, c) := c.read (addr + h.dir + 8 * (a * h.nJ + b)) 8
  let c := c.tally (expMem u 8)
  let first := leAt w 0 4
  let count := leAt w 4 4 % 128
  if count = 0 then (0, [], c)
  else if 64 < count ∨ h.resMax < count ∨ h.total < h.ent + 4 * (first + count) then (0x07, [], c)
  else
    let (es, c) := c.bulk (addr + h.ent + 4 * first) (4 * count)
    if c.dry then (0, [], c) else
    let c := c.tally (expMem u (4 * count))
    let xs := (List.range count).map fun i => (leAt es (4 * i) 2, leAt es (4 * i + 2) 2)
    let sorted := (List.range (count - 1)).all fun i =>
      ((xs[i]?).getD (0, 0)).1 < ((xs[i + 1]?).getD (0, 0)).1
    if sorted && xs.all (·.1 < 16384) then (0, xs, c) else (0x08, [], c)

/-- The row block of each tile of a run, in run order. -/
def lrRows (h : Lr) (order : Bool) (t n : Nat) : List Nat := (List.range n).map fun k => (lrTile h order (t + k)).1

/-- R162, R166: a step reads and checks the header once; then its runs of cached panels and of tiles must lie in their areas. -/
def expandHead (st : Step) (x : Stn) (order : Bool) (c : Ctx) : Ctx :=
  let u := stnUnit c st
  let n := tilesOf st.param
  let (hd, c) := c.read st.arg0 128
  let c := c.tally (expMem u 128)
  if !c.ok then c else
  let h := Lr.of hd
  match lrError x hd with
  | some e => c.fail 0x0F e
  | none =>
    if h.nI * h.nJ < st.tile + n then c.fail 0x0F 0x06
    else if st.in0.isSome ∧ 1 < (lrRows h order st.tile n).eraseDups.length then c.fail 0x0F 0x09
    else
      let c := { c with step := { c.step with kept := [hd] } }
      c.spans st (cdiv (panelBytes x.in0 h.r) 512, h.nJ * cdiv (panelBytes x.in1 h.r) 512, 0, runGran x.out 128 n)

/-- R166: the U panel of row block `a`: from slots, or from memory, where the step reads each panel once. -/
def expandU (st : Step) (x : Stn) (h : Lr) (order : Bool) (a : Nat) (c : Ctx) : Bytes × Ctx :=
  let u := stnUnit c st
  let pu := panelBytes x.in0 h.r
  match st.in0 with
  | some _ =>
    let (d, c) := if c.dry then ([], c) else c.slot st.in0 0 pu
    (d, c.tally (expSlot u pu))
  | none =>
    match c.step.kept[((lrRows h order st.tile (tilesOf st.param)).eraseDups.findIdx (· == a)) + 1]? with
    | some d => (d, c)
    | none =>
      let (d, c) := c.bulk (st.arg0 + h.u + a * pu) pu
      let c := c.tally (expMem u pu)
      (d, { c with step := { c.step with kept := c.step.kept ++ [d] } })

/-- R166: the Vt panel of column block `b`. -/
def expandV (st : Step) (x : Stn) (h : Lr) (b : Nat) (c : Ctx) : Bytes × Ctx :=
  let u := stnUnit c st
  let pv := panelBytes x.in1 h.r
  match st.in1 with
  | some _ =>
    let (d, c) := if c.dry then ([], c) else c.slot st.in1 (512 * (b * cdiv pv 512)) pv
    (d, c.tally (expSlot u pv))
  | none =>
    let (d, c) := c.bulk (st.arg0 + h.v + b * pv) pv
    (d, c.tally (expMem u pv))

/-- R167: the element (i, n) of tile (a, b) from its chain value. -/
def expandEl (h : Lr) (a b : Nat) (res : List (Nat × Nat)) (chain : Nat → Nat → Val) (i n : Nat) : Val :=
  if h.d ≤ 128 * a + i ∨ h.k ≤ 128 * b + n then .zero else
  match res.find? (·.1 == 128 * i + n) with
  | some e => (chain i n).add ((fmtEnc h.resFmt).val e.2)
  | none => chain i n

/-- R164 to R167: the unit of output tile q. -/
def expandUnit (st : Step) (x : Stn) (c : Ctx) : Ctx :=
  let u := stnUnit c st
  let q := st.unit
  let fl := leAt x.param 8 1
  let order := bit fl 1
  match outconv x 16 with
  | none => c.fail 0x05 0
  | some oc =>
    if 7 < fl ∨ 256 ≤ st.param ∨ bits (descAt (bobProg c.s c.b) st.desc) 255 224 ≠ 0 ∨ st.rows ≠ 128 ∨ st.cols ≠ 128 ∨ st.in2.isSome
        ∨ bslice (x.param.drop 9) 0 7 ≠ zeros 7 then c.fail 0x05 0 else
    let c := if c.step.kept.isEmpty then expandHead st x order c else c
    if !c.ok then c else
    let h := Lr.of (nth c.step.kept 0)
    let (a, b) := lrTile h order (st.tile + q)
    let (det, res, c) := if h.res && !bit fl 2 then lrResidual h st.arg0 a b u c else (0, [], c)
    if !c.ok then c
    else if det ≠ 0 then c.fail 0x0F (det + 256 * q) else
    let (up, c) := expandU st x h order a c
    let (vp, c) := expandV st x h b c
    if c.dry || !c.ok then c else
    let xs := (List.range (cdiv h.r 128)).map fun k => (rankTile x.in0 h.r up k, rankTile x.in1 h.r vp k)
    let (g, tr) := chainVals x.in0 x.in1 128 128 128 h.r xs
    let el := expandEl h a b res (at2 g)
    let t := outTile x.out oc (stepSeed c st q) 128 128 fun r k => if bit fl 0 then el k r else el r k
    let c := c.putTile st.out x.out 128 q u t
    (c.tally fun s => bump (bump (bump s (STN_EXP_TILES u)) (STN_EXP_RES u) res.length) (STN_MX_TRUNC u) tr).array x
      (h.r * pairClass x.in0 x.in1)

def expand (b i : Nat) (s : State) : State := runUnit tyEXPAND b i (fun _ _ => 1) expandUnit s

/-! ### COMPRESS (R171, R172) -/

/-- A tile with its elements in the columns at and above `cols` cleared (R104). -/
def maskTile (f rows cols : Nat) (d : Bytes) : Bytes :=
  let w := fmtBits f
  ((List.range rows).map fun r => packCodes w ((List.range 128).map fun k => if k < cols then tileCode f d r k else 0)).flatten
    ++ d.drop (rows * fmtRow f)

/-- A COMPRESS station counts through STN_UNITS and Table ARI-5 only (R178). The last output tile's valid columns are the station's own
(R171). -/
def compressUnit (st : Step) (x : Stn) (c : Ctx) : Ctx :=
  let u := stnUnit c st
  let kt := leAt x.param 8 1
  let r := leAt x.param 10 2
  let rt := cdiv r 128
  match outconv x 16 with
  | none => c.fail 0x05 0
  | some oc =>
    if kt = 0 ∨ 16 < kt ∨ r < 8 ∨ 1024 < r ∨ r % 8 ≠ 0 ∨ ((fmtMx x.in0 ∨ fmtMx x.in1) ∧ r % 32 ≠ 0) ∨ !colsOk x.in0 st.cols
        ∨ leAt x.param 9 1 ≠ 0 ∨ leAt x.param 12 4 ≠ 0 then c.fail 0x05 0 else
    let c := c.spans st (runGran x.in0 st.rows kt, runGran x.in1 128 (rt * kt), 0, runGran x.out st.rows rt)
    let (gs, c) := (List.range kt).foldl (fun (a : List Bytes × Ctx) k =>
      let (d, c) := a.2.tileOf st.in0 x.in0 st.rows k
      (a.1 ++ [maskTile x.in0 st.rows st.cols d], c)) ([], c)
    let tb := tileBytes x.in1 128
    c.each rt fun j c =>
      let (xs, c) := (List.range kt).foldl (fun (a : List (Bytes × Bytes) × Ctx) k =>
        let (d, c) := match st.in1 with
          | some _ => a.2.tileOf st.in1 x.in1 128 (j * kt + k)
          | none => a.2.bulk (st.addr + (j * kt + k) * tb) tb
        (a.1 ++ [(nth gs k, d)], c)) ([], c)
      if c.dry || !c.ok then c else
      let (t, tr) := chainTile x.in0 x.in1 x.out oc (stepSeed c st j) st.rows (min 128 (r - 128 * j)) st.rows xs
      let c := c.putOut st.out x.out st.rows j u t
      (c.tally fun s => bump s (STN_MX_TRUNC u) tr).array x (128 * pairClass x.in0 x.in1 * kt)

def compress (b i : Nat) (s : State) : State :=
  runUnit tyCOMPRESS b i (fun _ x => leAt x.param 8 1 * cdiv (leAt x.param 10 2) 128) compressUnit s

/-! ### REDUCE (R214) -/

/-- The next tile of a REDUCE run enters its set; it waits while the set may not open. -/
def reduceUnit (st : Step) (x : Stn) (c : Ctx) : Ctx :=
  if !x.param.isEmpty then c.fail 0x05 0 else
  let id := st.arg0 % 1024
  let co := collOf c.s id
  let d := co.desc
  if co.state ≠ 1 ∨ !cdReducing d ∨ cdLocal d = 0 ∨ c.part ≠ some (cdPart d) ∨ cdFmtIn d ≠ x.in0 then c.fail 0x0F 0x41 else
  let t := (st.tile + st.unit) % 2 ^ 32
  let (tile, c) := c.tile st.in0 x.in0 st.rows st.unit (stnUnit c st)
  if !c.ok then c
  else if cdTiles d ≤ t then c.on collStray
  else
    let full := match setAt c.s id t with
      | some y => !y.seen.contains (4096 + c.b) && cdLocal d ≤ (y.seen.filter (4096 ≤ ·)).length
      | none => false
    if full then c.on collStray else
    let pay := packRect x.in0 st.rows st.cols tile
    let (ok, s) := offerSet id t (4096 + c.b) (if cdSched d then st.label % 65536 else 0) x.in0 st.rows st.cols pay c.s
    if ok then { c with s := s } else c.halt

def reduce (b i : Nat) (s : State) : State := runUnit tyREDUCE b i (fun _ _ => 1) reduceUnit s

/-! ### GATHER and SCATTER (R228 to R230) -/

/-- The row bytes of a table of format `f`. -/
def rowBytes (f : Nat) : Nat := fmtRow f + fmtScale f

/-- Table RGF-9a: ROW_STRIDE, MODE and TABLE_ROWS, or none where the block is invalid. -/
def tableParam (x : Stn) (f : Nat) : Option (Nat × Nat × Nat) :=
  if x.param.isEmpty then some (cdiv (rowBytes f) 64 * 64, 0, 2 ^ 31) else
  let stride := leAt x.param 0 4
  let rows := leAt x.param 8 8
  if x.param.length ≠ 16 ∨ stride < rowBytes f ∨ stride % 64 ≠ 0 ∨ leAt x.param 5 3 ≠ 0 ∨ rows = 0 ∨ 2 ^ 31 < rows then none
  else some (stride, leAt x.param 4 1, rows)

/-- Index i of index granule q. -/
def indexAt (ix : List Bytes) (q i : Nat) : Int := sext 32 (leAt (nth ix q) (4 * i) 4)

/-- A full tile built from 128 table rows: their data bytes, then their scale bytes (R102). -/
def tileOfRows (f : Nat) (rows : List Bytes) : Bytes :=
  (rows.map (bslice · 0 (fmtRow f))).flatten ++ (rows.map fun r => bslice (r.drop (fmtRow f)) 0 (fmtScale f)).flatten

/-- Row `i` of output tile `q` of a GATHER step; `seen` holds the rows that the step has read, each distinct index once (R229). -/
def gatherRow (st : Step) (x : Stn) (stride tr q i : Nat) (v : Int) (seen : List (Int × Bytes)) (c : Ctx) :
    Bytes × List (Int × Bytes) × Ctx :=
  let n := rowBytes x.out
  if v = -1 then (zeros n, seen, c)
  else if v < 0 ∨ (tr : Int) ≤ v then ([], seen, c.fail 0x0F (0x31 + 256 * q + 65536 * i))
  else match seen.find? (·.1 == v) with
    | some y => (y.2, seen, c)
    | none =>
      let (d, c) := c.bulk (st.addr + v.toNat * stride) n
      (d, (v, d) :: seen, c.tally fun s => bump s (STN_BYTES_IN (stnUnit c st)) n)

def gatherUnit (st : Step) (x : Stn) (c : Ctx) : Ctx :=
  let u := stnUnit c st
  let n := tilesOf st.param
  match tableParam x x.out with
  | none => c.fail 0x05 0
  | some (stride, mode, tr) =>
    if mode ≠ 0 then c.fail 0x05 0 else
    let (ix, c) := (List.range n).foldl (fun (a : List Bytes × Ctx) q =>
      let (d, c) := a.2.slot st.in0 (512 * q) 512
      (a.1 ++ [d], c.tally fun s => bump s (STN_BYTES_IN u) 512)) ([], c)
    ((List.range n).foldl (fun (a : List (Int × Bytes) × Ctx) q =>
      let (rows, seen, c) := (List.range 128).foldl (fun (r : List Bytes × List (Int × Bytes) × Ctx) i =>
        if !r.2.2.ok then r else
        let (d, seen, c) := gatherRow st x stride tr q i (indexAt ix q i) r.2.1 r.2.2
        (r.1 ++ [d], seen, c)) ([], a.1, a.2)
      (seen, if c.dry then c else c.putTile st.out x.out 128 q u ⟨tileOfRows x.out rows, 0, 0⟩)) ([], c)).2

def gather (b i : Nat) (s : State) : State :=
  runUnit tyGATHER b i (fun st _ => tilesOf st.param) gatherUnit s

/-- R230: the new row in ADD mode: each FP32 element is the rounded sum. -/
def addRow (old row : Bytes) : Bytes :=
  (List.range 128).flatMap fun k => leBytes 4 (f32Code (addF32 (f32Val (leAt old (4 * k) 4)) (f32Val (leAt row (4 * k) 4))))

def scatterUnit (st : Step) (x : Stn) (c : Ctx) : Ctx :=
  let u := stnUnit c st
  let n := tilesOf st.param
  match tableParam x x.in1 with
  | none => c.fail 0x05 0
  | some (stride, mode, tr) =>
    if 1 < mode ∨ (mode = 1 ∧ x.in1 ≠ 0x0F) ∨ rowBytes x.in1 % 64 ≠ 0 then c.fail 0x05 0 else
    c.each n fun q c =>
      let (ix, c) := c.slot st.in0 (512 * q) 512
      let c := c.tally fun s => bump s (STN_BYTES_IN u) 512
      let (d, c) := c.tile st.in1 x.in1 128 q u
      let d := clipTile x.in1 128 st.cols d
      c.each 128 fun i c =>
        let v := indexAt [ix] 0 i
        let row := bslice (d.drop (i * fmtRow x.in1)) 0 (fmtRow x.in1)
        if v = -1 then c
        else if v < 0 ∨ (tr : Int) ≤ v then c.fail 0x0F (0x32 + 256 * q + 65536 * i)
        else
          let a := st.addr + v.toNat * stride
          let (row, c) := if mode = 1 then let (old, c) := c.read a 512; (addRow old row, c) else (row, c)
          (c.write a row).tally fun s => bump s (STN_BYTES_OUT u) row.length

def scatter (b i : Nat) (s : State) : State :=
  runUnit tySCATTER b i (fun st _ => tilesOf st.param) scatterUnit s

/-! ### FILTER (R231, R232) -/

/-- Whether a format's bounds are INT32 words. -/
def intFmt (f : Nat) : Bool := f == 0x0C || f == 0x10

/-- A bound word of a FILTER block. -/
def boundVal (f w : Nat) : Val := if intFmt f then Val.ofInt (sext 32 w) else f32Val w

/-- Whether an element passes the predicate. -/
def filterPass (x : Stn) (v y : Val) : Bool :=
  let lo := boundVal x.in0 (leAt x.param 4 4)
  let hi := boundVal x.in0 (leAt x.param 8 4)
  let cmp := !v.isNan && !lo.isNan
  let p := match leAt x.param 1 1 with
    | 0 => true
    | 1 => cmp && v.lt lo
    | 2 => cmp && (v.lt lo || v.numEq lo)
    | 3 => cmp && lo.lt v
    | 4 => cmp && (lo.lt v || v.numEq lo)
    | 5 => cmp && v.numEq lo
    | 6 => cmp && !v.numEq lo
    | 7 => cmp && !hi.isNan && (lo.lt v || v.numEq lo) && v.lt hi
    | 8 => (match v with | .fin _ _ _ => true | _ => false)
    | _ => !y.isNan && !y.isZero
  p != bit (leAt x.param 2 1) 0

/-- Insert by value: descending when `big`, ties toward the lower column (inserted in column order). -/
def topInsert (big : Bool) (e : Nat × Nat × Val) : List (Nat × Nat × Val) → List (Nat × Nat × Val)
  | [] => [e]
  | f :: r => if (if big then f.2.2.lt e.2.2 else e.2.2.lt f.2.2) then e :: f :: r else f :: topInsert big e r

/-- The parameter block is Table RGF-10; the operations are R232's. -/
def filterUnit (st : Step) (x : Stn) (c : Ctx) : Ctx :=
  let u := stnUnit c st
  let n := tilesOf st.param
  let op := leAt x.param 0 1
  let pred := leAt x.param 1 1
  let kk := leAt x.param 3 1
  if x.param.length ≠ 32 ∨ 2 < op ∨ 9 < pred ∨ 3 < leAt x.param 2 1 ∨ (op = 2 ∧ (kk = 0 ∨ 128 < kk ∨ st.in2.isNone)) ∨ 16 < n
      ∨ bslice (x.param.drop 20) 0 12 ≠ zeros 12 ∨ (pred = 9) ≠ st.in1.isSome then c.fail 0x05 0 else
  let (ds, c) := c.tiles st.in0 x.in0 st.rows n u
  let (ys, c) := if st.in1.isSome then c.tiles st.in1 x.in1 st.rows n u else ([], c)
  if !c.ok then c else
  let fill := ((fmtEnc x.out).out .rne false 0 (boundVal x.in0 (leAt x.param 12 4))).code
  let base := sext 32 (leAt x.param 16 4)
  let val := fun q r k => tileRaw x.in0 st.rows (nth ds q) r k
  let pass := fun q r k => filterPass x (val q r k) (if st.in1.isSome then tileRaw x.in1 st.rows (nth ys q) r k else .zero)
  let codeOf := fun q r k => tileCode x.in0 (nth ds q) r k
  let row := fun (f : Nat) (g : Nat → Nat) => packCodes (fmtBits f) ((List.range 128).map g)
  let rows := fun (f : Nat) (g : Nat → Nat → Nat) => ((List.range st.rows).map fun r => row f (g r)).flatten
  -- the passing elements of row r, as (source column, code, value)
  let hits := fun r => (List.range n).flatMap fun q => ((List.range st.cols).filter (pass q r)).map fun k => (128 * q + k, codeOf q r k, val q r k)
  if op = 0 then
    c.each n fun q c => c.putTile st.out x.out st.rows q u
      ⟨rows x.out fun r k => if st.cols ≤ k then 0 else if pass q r k then codeOf q r k else fill, 0, 0⟩
  else if op = 1 then
    let at_ := fun r q k => (hits r)[q * st.cols + k]?
    let c := c.each n fun q c => c.putTile st.out x.out st.rows q u
      ⟨rows x.out fun r k => if st.cols ≤ k then 0 else match at_ r q k with | some e => e.2.1 | none => fill, 0, 0⟩
    if st.in2.isSome then
      c.each n fun q c => c.putTile st.in2 0x10 st.rows q u
        ⟨rows 0x10 fun r k => if st.cols ≤ k then 0 else match at_ r q k with
          | some e => wrapInt 32 (base + e.1)
          | none => 2 ^ 32 - 1, 0, 0⟩
    else c
  else
    let top := fun r => ((hits r).filter fun e => !e.2.2.isNan).foldl (fun l e => topInsert (bit (leAt x.param 2 1) 1) e l) []
    let c := c.putTile st.out x.out st.rows 0 u
      ⟨rows x.out fun r k => if kk ≤ k then 0 else match (top r)[k]? with | some e => e.2.1 | none => fill, 0, 0⟩
    c.putTile st.in2 0x10 st.rows 0 u
      ⟨rows 0x10 fun r k => if kk ≤ k then 0 else match (top r)[k]? with
        | some e => wrapInt 32 (base + e.1)
        | none => 2 ^ 32 - 1, 0, 0⟩

def filter (b i : Nat) (s : State) : State := runUnit tyFILTER b i (fun st _ => tilesOf st.param) filterUnit s

end Sys2Proof.Machine
end

