-- ==== Sys2Proof/Machine/Cxl.lean ====
section
/-! DEFINITION. CXL ports (R350 to R359): links, trays, and what a host reads, writes and asks. -/

namespace Sys2Proof.Machine

def cxlState (s : State) (c : Nat) : Nat := rdF s (CXP_LINK_STATE c) CXP_LINK_STATE_STATE
def setCxlState (c v : Nat) (s : State) : State := wrF s (CXP_LINK_STATE c) CXP_LINK_STATE_STATE v
def cxlHost (s : State) (c : Nat) : Bool := rdBit s (CXP_ROLE c) CXP_ROLE_ROLE
def cxlOn (s : State) (c : Nat) : Bool := rdBit s (G_CTL grCXP c 0) G_CTL_ENABLE

/-- R352: the two ranges of a tray overlap, or pass its capacity (in units of 256 MiB). -/
def trayBad (s : State) (c capacity : Nat) : Bool :=
  let b2 := rdF s (CXP_TRAY_T2 c) CXP_TRAY_T2_BASE
  let n2 := rdF s (CXP_TRAY_T2 c) CXP_TRAY_T2_SIZE
  let b3 := rdF s (CXP_TRAY_T3 c) CXP_TRAY_T3_BASE
  let n3 := rdF s (CXP_TRAY_T3 c) CXP_TRAY_T3_SIZE
  (n2 != 0 && capacity < b2 + n2) || (n3 != 0 && capacity < b3 + n3) || (n2 != 0 && n3 != 0 && overlap b2 n2 b3 n3)

/-- R352: the link of a port comes up. A tray is enumerated, its decoder programmed and its memory enabled; bad ranges leave the port in
training. -/
def trayLinkUp (c capacity width speed : Nat) (s : State) : State :=
  if !cxlOn s c || cxlState s c == 2 then s else
  let s := wrF (wrF s (CXP_LINK_STATE c) CXP_LINK_STATE_WIDTH (width % 4)) (CXP_LINK_STATE c) CXP_LINK_STATE_SPEED (speed % 2)
  if !cxlHost s c && trayBad s c capacity then raise srcCXP_TRAY_CONFIG c (setCxlState c 1 s)
  else runReqs (setCxlState c 2 s)

/-- A port leaves its active state: requests to its tray end (R354), and those of its host are gone. -/
def cxlLeave (c v : Nat) (s : State) : State :=
  trayDown c (farDrop (fun w => match w with | .host p _ => p == c | _ => false)
    (modMem (setCxlState c v s) fun m => { m with hosts := m.hosts.filter (·.port != c) }))

/-- R354: the link goes down (kind 0), or an uncorrectable error takes it down (1); a correctable error is counted (2). -/
def cxpLinkDown (c kind : Nat) (s : State) : State :=
  if kind = 2 then bump s (CXP_CE c) else
  if cxlState s c = 0 then s else
  let s := if kind = 1 then raise srcCXP_CXP_UE c s else s
  raise srcCXP_CXP_LINK_DOWN c (cxlLeave c 0 s)

/-- A committed change of a staged link setting retrains the port (Table LNK-9). -/
def cxlRetrain (c : Nat) (s : State) : State := if cxlOn s c then cxlLeave c 1 s else s

/-- A commit of G_CTL.ENABLE on a CXP page (R360). A tray link that it takes down raises CXP_LINK_DOWN (R354). -/
def cxlEnable (c : Nat) (s : State) : State :=
  if cxlOn s c then setCxlState c 1 s
  else raiseIf (!cxlHost s c && cxlState s c == 2) srcCXP_CXP_LINK_DOWN c (cxlLeave c 0 s)

/-! ### Host role (R355 to R359) -/

def slotLog (s : State) (c : Nat) : Nat := rdF s (CXP_HOST_CFG c) CXP_HOST_CFG_SLOT_LOG2
def ldPart (s : State) (c ld : Nat) : Nat := rdF s (CXP_LD_PART c) (CXP_LD_PART_LD ld)
/-- R355: logical device `ld` is presented: LD 0, or with LD_MODE = 1 one of up to 16, while CXP_LD_VALID names it. -/
def ldValid (s : State) (c ld : Nat) : Bool :=
  ld < 16 && (ld == 0 || rdBit s (CXP_HOST_CFG c) CXP_HOST_CFG_LD_MODE) && bit (rdF s (CXP_LD_VALID c) CXP_LD_VALID_LD) ld

/-- R356: the publication that a logical device sees at table index `k`. A retired one keeps its entry with STATE 2. -/
def dirPub (s : State) (c ld k : Nat) : Option Pub :=
  match (sfind s.mem.pubs k).filter (·.state != 0) with
  | none => none
  | some p =>
    let q := ldPart s c ld
    if bit p.cxp c && (p.owner == q || bit p.readers q) && p.length ≤ 2 ^ slotLog s c then some p else none

/-- Table LNK-8: directory entry `k`. -/
def dirEntry (s : State) (c ld k : Nat) : Bytes :=
  match dirPub s c ld k with
  | none => zeros 64
  | some p => leBytes 8 p.name ++ leBytes 4 p.version ++ leBytes 1 p.state ++ zeros 3 ++ leBytes 8 ((k + 1) * 2 ^ slotLog s c)
      ++ leBytes 8 p.length ++ zeros 32

/-- The answer to a host read, poison counted (R357). -/
def hostReply (c ld : Nat) (d : Option Bytes) (s : State) : State :=
  let s := if d.isNone then bump s (CXP_HOST_POISON c) else s
  { s with cxl := some { port := c, ld := ld, poison := d.isNone, data := d.getD [] } }

/-- R357: the object range behind a DPA: none where it lies in a slot that is not visible or retired, or past the publication. -/
def hostRange (s : State) (c ld dpa : Nat) : Option (Nat × Nat) :=
  let off := dpa % 2 ^ slotLog s c
  match dirPub s c ld (dpa / 2 ^ slotLog s c - 1) with
  | none => none
  | some p => if p.state ≠ 1 ∨ p.length ≤ off then none else some (p.addr + off, min 64 (p.length - off))

/-- A host request waits. -/
def putHost (h : HostReq) (s : State) : State := modMem s fun m => { m with hosts := m.hosts ++ [h] }

/-- R357: the line of a publication is read under the partition of its logical device. Behind the last byte of the publication, a line reads as
free values (log entry 58). -/
def hostGet (h : HostReq) (a n : Nat) (s : State) : State :=
  let c := h.port
  let (st, d, x) := Ctx.readSt a n
    { s := s, b := 1024 * (c / 4), part := some (ldPart s c h.ld), who := .host c h.ld, gen := genOf s grCXP c }
  if x.stuck then putHost { h with at_ := some (a, n) } (x.askAll s)
  else
    let s := farUsed x.used x.s
    if st = stOK then
      let (pad, s) := takeFreeBytes (64 - n) s
      hostReply c h.ld (some (d ++ pad)) s
    else hostReply c h.ld none s

/-- R357, R303: a MemRd that its port serves. One whose range was found before a PUB_RETIRE completes. -/
def hostLine (h : HostReq) (s : State) : State :=
  if s.flt.safe then hostReply h.port h.ld none s
  else if h.dpa / 2 ^ slotLog s h.port = 0 then
    let k := h.dpa / 64
    hostReply h.port h.ld (if k < 4096 then some (dirEntry s h.port h.ld k) else none) s
  else match h.at_.or (hostRange s h.port h.ld h.dpa) with
    | none => hostReply h.port h.ld none s
    | some (a, n) => hostGet h a n s

/-- R35: a host request waits while its port is in an engine reset. -/
def hostRun (h : HostReq) (s : State) : State :=
  if unitHeld s grCXP h.port then putHost h s
  else if h.write then raise srcCXP_HOST_WRITE h.port (bump s (CXP_HOST_WR_DISCARD h.port))
  else hostLine h s

/-- R357: a 64-byte MemRd. -/
def hostRead (c ld dpa : Nat) (s : State) : State :=
  if cxlOn s c && cxlHost s c && ldValid s c ld then hostRun { port := c, ld := ld, dpa := dpa / 64 * 64 } (bump s (CXP_HOST_RD c)) else s

/-- R358: a MemWr completes and its data is discarded. -/
def hostWrite (c : Nat) (s : State) : State :=
  if cxlOn s c && cxlHost s c then hostRun { port := c, ld := 0, dpa := 0, write := true } s else s

/-- Host requests that waited are tried again, oldest first. -/
def runHosts (s : State) : State :=
  s.mem.hosts.foldl (fun s h => hostRun h (modMem s fun m => { m with hosts := m.hosts.erase h })) s

/-- R355: the capacity of a logical device in bytes. -/
def ldCapacity (s : State) (c : Nat) : Nat := 4097 * 2 ^ slotLog s c

/-- R359: the answer to a command of a logical device's mailbox: a return code and values. -/
def ldAnswer (c ld code : Nat) (vals : List Nat) (s : State) : State :=
  if cxlOn s c && cxlHost s c && ldValid s c ld then { s with cxl := some { port := c, ld := ld, code := code, vals := vals } } else s

/-- The opcodes of the supported commands (the CXL standard's; PRESUMED, log entry 22). -/
def ldOpcodes : List Nat := [0x0100, 0x0101, 0x0400, 0x0401, 0x4000, 0x4100, 0x4200]

end Sys2Proof.Machine
end

