-- ==== Sys2Proof/Machine/Homes.lean ====
section
/-! DEFINITION. Homes and moves (chapter 9): the home-table actions of Table MEM-8 (R257 to R268), moves (R258 to R262), homes in
doubt (R263, R264), withdrawal and lending, scrubbing; the coherence-domain actions (R287, R295) and publications (R298 to R303). -/

namespace Sys2Proof.Machine

/-- What the validation of an entry takes from its clause: CLS_REQUESTER, CLS_COND, and the leases that the firmware knows. -/
structure VCtx where
  slot : Nat
  req : Nat
  part : Nat
  cond : Nat
  role : Nat
  dom : Nat
  leases : List (Nat × Lease)
  deriving DecidableEq, Repr, Inhabited

/-! ### Action codes (Table MEM-8, R287, R299) -/

def acOBJ_ALLOC : Nat := 0x0200
def acOBJ_FREE : Nat := 0x0201
def acEXT_MOVE : Nat := 0x0202
def acEXT_WITHDRAW : Nat := 0x0203
def acHOME_LOSE : Nat := 0x0204
def acLEND : Nat := 0x0205
def acRECALL : Nat := 0x0206
def acMOVE_SEND : Nat := 0x0207
def acMOVE_RECV : Nat := 0x0208
def acCOH_SET : Nat := 0x0300
def acCOH_CLEAR : Nat := 0x0301
def acPUB_CREATE : Nat := 0x0310
def acPUB_RETIRE : Nat := 0x0311

/-! ### Descriptors (their layout is the model's where the manual gives none: log entry 20) -/

/-- OBJ_ALLOC: the object entry of Table MEM-5, then LEASE at 0x20, HOME_SWITCH at 0x22, NRANGES at 0x24 and PHYS at 0x28. With NRANGES 0
the object has one range at PHYS. Otherwise each extent has a range of its own, and PHYS is the control-die address of the list of their
8-byte addresses, which follow the 64 bytes here. -/
def odObj (d : Bytes) : Obj where
  size := leAt d 0 8
  planned := leAt d 8 8
  firstFrame := leAt d 0x10 4 % 2 ^ 20
  flags := leAt d 0x18 2
  part := leAt d 0x1A 1 % 16
  extLog := leAt d 0x1B 1
  state := 1
def odLease (d : Bytes) : Nat := leAt d 0x20 2
def odSwitch (d : Bytes) : Nat := leAt d 0x22 2 % 4096
def odRanges (d : Bytes) : Nat := leAt d 0x24 4
def odPhys (d : Bytes) : Nat := leAt d 0x28 8

/-- EXT_MOVE, MOVE_SEND and MOVE_RECV: the extent address at 0, the destination tier at 8, PARTITION at 9, the destination switch at
0x0A, LEASE at 0x0C, the extent's GEN at 0x0E, CRYPT at bit 0 of 0x0F, PHYS at 0x10 and the extent's length at 0x18; for MOVE_RECV, at 0x20
the switch that the copy comes from, with bit 15 set where it is not the registrar. -/
def mdAddr (d : Bytes) : Nat := leAt d 0 8
def mdTier (d : Bytes) : Nat := leAt d 8 1 % 4
def mdPart (d : Bytes) : Nat := leAt d 9 1 % 16
def mdSwitch (d : Bytes) : Nat := leAt d 0x0A 2 % 4096
def mdLease (d : Bytes) : Nat := leAt d 0x0C 2
def mdGen (d : Bytes) : Nat := leAt d 0x0E 1
def mdCrypt (d : Bytes) : Bool := bit (leAt d 0x0F 1) 0
def mdPhys (d : Bytes) : Nat := leAt d 0x10 8
def mdLen (d : Bytes) : Nat := leAt d 0x18 8
def mdFrom (d : Bytes) : Nat := if bit (leAt d 0x20 2) 15 then leAt d 0x20 2 % 4096 else mdAddr d / 2 ^ 52 % 4096

/-- HOME_LOSE: the switch ID at 0 and the lease at 2, of which a nonzero lease counts. -/
def ldSwitch (d : Bytes) : Nat := leAt d 0 2 % 4096
def ldLease (d : Bytes) : Nat := leAt d 2 2

/-- LEND: lease at 0, borrower at 2, partition at 4, base at 8, size in GiB at 0x10. -/
def ndLease (d : Bytes) : Lease where
  id := leAt d 0 2
  base := leAt d 8 8
  gib := leAt d 0x10 4
  borrower := leAt d 2 2 % 4096
  part := leAt d 4 1 % 16
  recallEnd := none

/-- Table LSA-7. -/
def hdDom (d : Bytes) : Nat := leAt d 0 1 % 8
def hdPart (d : Bytes) : Nat := leAt d 1 1 % 16
def hdMembers (d : Bytes) : List Nat := (List.range (leAt d 2 1)).map fun i => leAt d (0x10 + 4 * i) 4 % 2 ^ 24
def hdRanges (d : Bytes) : List (Nat × Nat) :=
  (List.range (leAt d 3 1)).map fun i => (leAt d (0x90 + 8 * i) 8 % 2 ^ 20, leAt d (0x90 + 8 * i) 8 / 2 ^ 20 % 2 ^ 20)

/-- A publication: NAME at 0, VERSION at 8, OWNER at 13, READERS at 14, the address at 16, LENGTH at 24, CXP at 32. -/
def pdPub (d : Bytes) : Pub where
  name := leAt d 0 8
  version := leAt d 8 4
  state := 1
  owner := leAt d 13 1 % 16
  readers := leAt d 14 2
  addr := leAt d 16 8
  length := leAt d 24 8
  cxp := leAt d 32 2

/-! ### Ranges of a tier -/

/-- Whether a physical range is one of a tier: aligned to the 64-byte granule (R243), in the window of the tier (R239), and for a tray
within its data bytes (R250). -/
def physOk (s : State) (tier p n : Nat) : Bool :=
  p % 64 == 0 && n != 0 &&
    (if tier ≤ 1 then p / 2 ^ 50 == 1 && p % 2 ^ 50 + n ≤ 0x18000000000
     else p / 2 ^ 51 == 1 && bit p 46 == (tier == 3) && p % 2 ^ 46 + n ≤ trayData s (trayPort p) tier)

/-- R435: T0 allocation is refused while a stack of the switch is offline. -/
def t0Open (s : State) : Bool := (List.range 4).all fun n => rdF s (MRG_STK_STATE n) MRG_STK_STATE_ONLINE == 0xF

/-- R396, R435: whether a range lies in a grant of the partition for its tier, and the tier takes allocations. -/
def granted (s : State) (part tier p n : Nat) : Bool :=
  (tier != 0 || t0Open s) && (List.range 8).any fun i =>
    let a := SEC_PART_GRANT part i
    let lo := rdF s a SEC_PART_GRANT_BASE * 2 ^ 30
    let hi := lo + rdF s a SEC_PART_GRANT_SIZE * 2 ^ 30
    let off := if tier = 0 then p % 2 ^ 50 else p % 2 ^ 46
    rdBit s a SEC_PART_GRANT_VALID && rdF s a SEC_PART_GRANT_TIER == tier
      && (tier == 0 || rdF s a SEC_PART_GRANT_CXP == trayPort p) && lo ≤ off && off + n ≤ hi

/-- Whether a range at a home is in use by an extent, a hosted entry or a clause. -/
def rangeTaken (s : State) (home p n : Nat) : Bool :=
  (home == ownId s && rangeUsed s p n)
    || s.mem.held.any (fun h => h.2.1 == home && overlap h.2.2.1 h.2.2.2 p n)
    || s.mem.exts.any fun e => (e.2.state == esHOME || e.2.state == esMOVING) && e.2.home == home && overlap e.2.phys e.2.len p n

/-- A lease that the firmware knows covers a T1 range at a lender (R267). -/
def leaseCovers (ls : List (Nat × Lease)) (s : State) (lease lender part p n : Nat) : Bool :=
  ls.any fun l => l.1 == lender && l.2.id == lease && l.2.borrower == ownId s && l.2.part == part
    && t0Addr l.2.base ≤ p && p + n ≤ t0Addr l.2.base + l.2.gib * 2 ^ 30

/-- Release the ranges that a clause holds (R257). -/
def releaseHeld (slot : Nat) (s : State) : State := modMem s fun m => { m with held := m.held.filter (·.1 != slot) }

/-- A clause holds a range of a switch. -/
def holdRange (slot home p n : Nat) (s : State) : State := modMem s fun m => { m with held := m.held ++ [(slot, home, p, n)] }

/-- A clause lets go of the ranges of a switch that start at `p`. -/
def dropHeld (slot home p : Nat) (s : State) : State :=
  modMem s fun m => { m with held := m.held.filter fun h => !(h.1 == slot && h.2.1 == home && h.2.2.1 == p) }

/-! ### OBJ_ALLOC (R242 to R244, R257) -/

/-- The tier that the HOME flags name. -/
def flagTier (f : Nat) : Nat := if bit f 0 then 0 else if bit f 1 then 1 else if bit f 2 then 2 else 3

/-- Table MEM-3. -/
def flagsOk (f : Nat) : Bool :=
  (maskBits f 4).length == 1 && f / 2 ^ 10 == 0
    && !(bit f 5 && bit f 8) && !(bit f 8 && bit f 9) && !(bit f 9 && !bit f 6) && !(bit f 9 && flagTier f < 2)

/-- Where an object's extents lie: (offset, length) of extent `k`. -/
def extSpan (o : Obj) (k : Nat) : Nat × Nat := (k * 2 ^ o.extLog, min (2 ^ o.extLog) (o.size - k * 2 ^ o.extLog))

/-- Frames of a live or freeing object, or of one that a clause has reserved, that overlap an allocation. -/
def framesTaken (s : State) (o : Obj) : Bool :=
  s.mem.objs.any fun e => overlap (e.2.firstFrame * 2 ^ 30) (objFrames e.2 * 2 ^ 30) (o.firstFrame * 2 ^ 30) (objFrames o * 2 ^ 30)

/-- Where extent `k` of an allocation has its home. -/
def odRange (d : Bytes) (k : Nat) : Nat := if odRanges d = 0 then odPhys d + (extSpan (odObj d) k).1 else leAt d (64 + 8 * k) 8

/-- The ranges that an allocation takes: (address, length). -/
def allocSpans (d : Bytes) : List (Nat × Nat) :=
  let o := odObj d
  if odRanges d = 0 then [(odPhys d, o.size)] else (List.range (objExtents o)).map fun k => (odRange d k, (extSpan o k).2)

/-- The switch whose memory an allocation takes. -/
def allocHome (s : State) (d : Bytes) : Nat := if flagTier (odObj d).flags = 1 then odSwitch d else ownId s

/-- Whether no two of some ranges overlap. -/
def apart : List (Nat × Nat) → Bool
  | [] => true
  | r :: rs => rs.all (fun q => !overlap r.1 r.2 q.1 q.2) && apart rs

/-- The lowest object index that no object uses. -/
def freeObj (s : State) : Nat := ((List.range (s.mem.objs.length + 1)).find? fun i => (objOf s i).size == 0).getD 0

/-- The lowest run of extent-table entries that no object uses (log entry 20). -/
def freeExts (s : State) (n : Nat) : Nat :=
  let used := s.mem.objs.map fun e => (e.2.extBase, objExtents e.2)
  let cand := 0 :: used.map fun x => x.1 + x.2
  let fit := cand.filter fun b => used.all fun x => !overlap b n x.1 x.2
  fit.foldl min extMax

/-- R242 to R244, R253, R257, R267: whether an OBJ_ALLOC passes. -/
def allocOk (x : VCtx) (d : Bytes) (s : State) : Bool :=
  let o := odObj d
  let tier := flagTier o.flags
  flagsOk o.flags && o.size % 64 == 0 && o.size != 0 && o.size ≤ o.planned && 21 ≤ o.extLog && o.extLog ≤ 30
    && partState s o.part == 1 && o.firstFrame + objFrames o ≤ 2 ^ 20 && !framesTaken s o
    && freeObj s < objMax && freeExts s (objExtents o) + objExtents o ≤ extMax
    && (odRanges d == 0 || odRanges d == objExtents o) && apart (allocSpans d)
    && (allocSpans d).all (fun r => physOk s tier r.1 r.2 && !rangeTaken s (allocHome s d) r.1 r.2)
    && (if tier = 1 then (allocSpans d).all fun r => leaseCovers x.leases s (odLease d) (odSwitch d) o.part r.1 r.2
        else (List.range (objExtents o)).all fun k => granted s o.part tier (odRange d k) (extSpan o k).2)

/-- R257, R259: the fill of a ZERO_INIT object at a lender goes sector by sector, as the copies of moves do: one for each extent. -/
def allocFills (slot : Nat) (d : Bytes) (b : Nat) (s : State) : List Move :=
  let o := odObj d
  if o.zeroInit ∧ flagTier o.flags = 1 then
    (List.range (objExtents o)).map fun k =>
      { slot := slot, ext := none, addr := ownId s * 2 ^ 52 + o.firstFrame * 2 ^ 30 + (extSpan o k).1, part := o.part, enc := o.crypt,
        gen := (extOf s (b + k)).gen, src := none, dstSw := odSwitch d, dst := odRange d k, dstTier := 1, lease := odLease d,
        len := (extSpan o k).2, next := 0, unacked := [], got := 0, phase := 0, fill := true }
  else []

/-- R257: a clause holds the ranges of an OBJ_ALLOC that passed, and keeps an object entry, its frames and its extent entries. -/
def allocTake (slot : Nat) (d : Bytes) (s : State) : State :=
  let o := odObj d
  let b := freeExts s (objExtents o)
  let s := modMem s fun m => { m with moves := m.moves ++ allocFills slot d b s }
  let s := (allocSpans d).foldl (fun s r => holdRange slot (allocHome s d) r.1 r.2 s) s
  setObj s (freeObj s) { o with extBase := b, state := 0 }

/-- The object that a passed OBJ_ALLOC has reserved. -/
def allocObj (s : State) (d : Bytes) : Option Nat :=
  (s.mem.objs.find? fun e => e.2.state == 0 && e.2.firstFrame == (odObj d).firstFrame).map (·.1)

/-- The fills of an OBJ_ALLOC of a clause. -/
def allocFilling (slot : Nat) (d : Bytes) (s : State) (v : Move) : Bool :=
  v.slot == slot && v.fill && (v.addr - ownId s * 2 ^ 52) / 2 ^ 30 - (odObj d).firstFrame < objFrames (odObj d)
    && ownId s * 2 ^ 52 + (odObj d).firstFrame * 2 ^ 30 ≤ v.addr

/-- The fills of an OBJ_ALLOC end. -/
def dropFills (slot : Nat) (d : Bytes) (s : State) : State :=
  modMem s fun m => { m with moves := m.moves.filter fun v => !allocFilling slot d s v }

/-- R257: the fill of a ZERO_INIT allocation in local ranges. -/
def allocFill (d : Bytes) (s : State) : State :=
  let o := odObj d
  if o.zeroInit ∧ flagTier o.flags ≠ 1 then (allocSpans d).foldl (fun s r => zeroFill o.part o.crypt r.1 r.2 s) s else s

/-- R253: while the home table is empty, MRG_REG_BASE takes effect. -/
def baseCommit (s : State) : State :=
  if s.mem.objs.all (·.2.state == 0) then
    modMem s fun m => { m with homeBase := rdF s MRG_REG_BASE MRG_REG_BASE_ADDR * 2 ^ 30 }
  else s

/-- R257, R254: the object and its extents come into being. -/
def allocCommit (slot : Nat) (d : Bytes) (s : State) : State :=
  match allocObj s d with
  | none => s
  | some i =>
    let s := dropFills slot d (baseCommit s)
    let o := { objOf s i with state := 1 }
    let tier := flagTier o.flags
    let s := setObj s i o
    let s := (List.range (objExtents o)).foldl (fun s k =>
      let e := o.extBase + k
      setExt s e { state := esHOME, tier := tier, gen := nextGen (extOf s e), home := allocHome s d,
                   lease := if tier = 1 then odLease d else 0, phys := odRange d k, obj := i, off := (extSpan o k).1,
                   len := (extSpan o k).2, legacy := o.legacy }) s
    let s := capAdd s tier o.planned (granule o.size)
    if tier = 1 ∨ o.legacy ∨ o.zeroInit then s else (allocSpans d).foldl (fun s r => forgetRange r.1 r.2 s) s

/-- An aborted OBJ_ALLOC gives back what it reserved. -/
def allocUndo (slot : Nat) (d : Bytes) (s : State) : State :=
  let s := dropFills slot d s
  match allocObj s d with
  | some i => setObj s i {}
  | none => s

/-! ### OBJ_FREE (R257) -/

/-- The object that a global address names. -/
def objByAddr (s : State) (g : Nat) : Option Nat :=
  if g / 2 ^ 52 % 4096 = ownId s ∧ g % 2 ^ 52 < 2 ^ 50 then objAt s (g % 2 ^ 52) else none

def setObjState (s : State) (i st : Nat) : State := setObj s i { objOf s i with state := st }

/-- R253, R303: an object is gone: its extents are FREE with GEN + 1, the sums fall, its publication's entry is freed, and no combine
buffer keeps its data (R233). -/
def dropObj (i : Nat) (s : State) : State :=
  let o := objOf s i
  let s := (objExts o).foldl (fun s e =>
    let x := extOf s e
    setExt (capSub s x.tier (extPlanned o x) x.len) e { gen := nextGen x }) s
  let s := dropReads (ownId s * 2 ^ 52 + o.firstFrame * 2 ^ 30) o.size s
  let ps := s.mem.pubs.filter fun p => p.2.state != 0 && objAt s (p.2.addr % 2 ^ 52) == some i
  let s := wrF s MRG_PUB_USE MRG_PUB_USE_ENTRIES (rdF s MRG_PUB_USE MRG_PUB_USE_ENTRIES - ps.length)
  let s := modMem s fun m => { m with pubs := m.pubs.filter fun p => !ps.contains p }
  setObj s i {}

/-- Whether a request past lookup remains on an object, wherever it waits. -/
def objBusy (s : State) (i : Nat) : Bool := (heldReqs s).any fun r => r.due != 0 && (objExts (objOf s i)).contains r.ext

/-- OBJ_FREE_COMPLETE. -/
def freeComplete (i : Nat) (s : State) : State :=
  let o := objOf s i
  if o.state = 2 ∧ o.freed ∧ !objBusy s i then dropObj i s else s

def freeCommit (i : Nat) (s : State) : State :=
  freeComplete i (setObj s i { objOf s i with freed := true })

/-! ### Moves (R258 to R262) -/

/-- Whether a move's copy is complete on this switch (R260). -/
def moveReady (s : State) (v : Move) : Bool :=
  if v.src.isSome || v.fill then v.len ≤ 256 * v.next && v.unacked.isEmpty
  else if v.dstSw = ownId s then v.len ≤ 256 * v.got
  else true

/-- Whether a move has an end on another switch. -/
def moveCross (s : State) (d : Bytes) : Bool :=
  mdSwitch d != ownId s || (match extByAddr s (mdAddr d) with
    | some e => (extOf s e).home != ownId s
    | none => true)

def moveOk (x : VCtx) (d : Bytes) (s : State) : Bool :=
  match extByAddr s (mdAddr d) with
  | none => false
  | some e =>
    let y := extOf s e
    let o := objOf s y.obj
    o.state == 1 && o.movable && y.state == esHOME && !(y.home == mdSwitch d && y.phys == mdPhys d)
      && physOk s (mdTier d) (mdPhys d) y.len
      && (if mdTier d = 1 then leaseCovers x.leases s (mdLease d) (mdSwitch d) o.part (mdPhys d) y.len
          else mdSwitch d == ownId s && granted s o.part (mdTier d) (mdPhys d) y.len)
      && !objCovered s o && (!moveCross s d || x.role == 1) && !rangeTaken s (mdSwitch d) (mdPhys d) y.len

/-- R258, R259: validation marks the extent MOVING, and the copy starts. -/
def moveTake (slot : Nat) (d : Bytes) (s : State) : State :=
  match extByAddr s (mdAddr d) with
  | none => s
  | some e =>
    let y := extOf s e
    let o := objOf s y.obj
    let s := setExt s e { y with state := esMOVING }
    let s := holdRange slot (mdSwitch d) (mdPhys d) y.len s
    let v : Move := { slot := slot, ext := some e, addr := extAddr s e, part := o.part, enc := o.crypt, gen := y.gen,
                      src := if y.home = ownId s then some y.phys else none, dstSw := mdSwitch d, dst := mdPhys d,
                      dstTier := mdTier d, lease := mdLease d, len := y.len, next := 0, unacked := [], got := 0, phase := 0,
                      legacy := y.legacy }
    modMem s fun m => { m with moves := m.moves ++ [v] }

/-- The move of a clause for an extent that it still copies. -/
def moveOfSlot (s : State) (slot : Nat) (p : Move → Bool) : Option Move := s.mem.moves.find? fun v => v.slot == slot && v.phase == 0 && p v

/-- Remove a move. -/
def dropMove (v : Move) (s : State) : State := modMem s fun m => { m with moves := m.moves.erase v }

/-- Requests that a drain or guard interval of an extent held go on. -/
def wakeExt (e : Nat) (s : State) : State := runReqs (wake (fun r => r.stage == .drain e) s)

/-- R261: a drain is over once the source's accepted writes and their mirrors are complete. A source on another switch says so itself. -/
def drainOver (s : State) (v : Move) : Bool :=
  v.unacked.isEmpty && (match v.src, v.ext with
    | some _, some e => (reqsOn s e).all fun r => r.msg.hdr.type == tREAD
    | _, _ => true)

/-- MOVE_DRAIN_DONE: the report of the source of the move of an extent address. -/
def drainDone (addr : Nat) (s : State) : State :=
  match s.mem.moves.find? fun v => v.addr == addr && v.phase == 1 with
  | none => s
  | some v =>
    if !drainOver s v then s else
    let s := dropMove v s
    match v.ext with
    | some e => wakeExt e s
    | none => modMem s fun m => { m with hosted := m.hosted.filter fun h => !(h.addr == addr && h.state == hsOUTGOING) }

/-- MOVE_DRAIN: the report did not come (R261). -/
def drainLate (addr : Nat) (s : State) : State :=
  match s.mem.moves.find? fun v => v.addr == addr && v.phase == 1 && v.ext.isSome with
  | none => s
  | some v =>
    match v.ext with
    | none => s
    | some e => wakeExt e (raise srcMRG_MOVE_DRAIN 0 (loseExt e (dropMove v s)))

/-- R176: once no extent of an object has the HX-3208 layout, it is a native object. -/
def nativeObj (i : Nat) (s : State) : State :=
  let o := objOf s i
  if o.legacy && (objExts o).all fun e => !(extOf s e).legacy then setObj s i { o with flags := o.flags - 2 ^ 9 } else s

/-- R258, R262: the extent returns to HOME at the source. -/
def moveUndo (slot : Nat) (d : Bytes) (s : State) : State :=
  match moveOfSlot s slot (fun v => v.ext.isSome && extByAddr s (mdAddr d) == v.ext) with
  | none => s
  | some v =>
    match v.ext with
    | none => s
    | some e =>
      let s := if (extOf s e).state = esMOVING then setExt s e { extOf s e with state := esHOME } else s
      let s := modMem s fun m => { m with guarded := m.guarded.filter (· != e) }
      wakeExt e (dropMove v (dropHeld slot v.dstSw v.dst s))

/-- The extent takes its destination (step 6 of Table MEM-9), in the native layout (R176), and the drain begins. One that has been lost or
withdrawn since is not recreated (R265, R266): its move ends as at an abort. -/
def moveCommit (slot : Nat) (d : Bytes) (s : State) : State :=
  match moveOfSlot s slot (fun v => v.ext.isSome && extByAddr s (mdAddr d) == v.ext) with
  | none => s
  | some v =>
    match v.ext with
    | none => s
    | some e =>
      let y := extOf s e
      if y.state ≠ esMOVING then moveUndo slot d s else
      let o := objOf s y.obj
      let s := capAdd (capSub s y.tier (extPlanned o y) y.len) v.dstTier (extPlanned o y) y.len
      let s := setExt s e { y with state := esHOME, tier := v.dstTier, gen := nextGen y, home := v.dstSw, phys := v.dst,
                                   lease := if v.dstTier = 1 then v.lease else 0, legacy := false }
      let s := bump (nativeObj y.obj s) MRG_MOVES
      let s := modMem s fun m => { m with moves := m.moves.map fun w => if w = v then { v with phase := 1, slot := 16 } else w,
                                          guarded := m.guarded.filter (· != e) }
      let s := dropHeld slot v.dstSw v.dst s
      let s := dropReads v.addr v.len s
      if v.src.isSome ∧ v.dstSw = ownId s then drainDone v.addr s else s

/-- R262: MOVE_SEND on the source lender. -/
def sendOk (d : Bytes) (s : State) : Bool :=
  s.mem.hosted.any fun h => h.addr == mdAddr d && h.gen == mdGen d && h.state == hsHOSTED
def sendTake (slot : Nat) (d : Bytes) (s : State) : State :=
  match s.mem.hosted.find? fun h => h.addr == mdAddr d && h.gen == mdGen d && h.state == hsHOSTED with
  | none => s
  | some h =>
    let v : Move := { slot := slot, ext := none, addr := h.addr, part := h.part, enc := h.enc, gen := h.gen, src := some h.phys,
                      dstSw := mdSwitch d, dst := mdPhys d, dstTier := mdTier d, lease := mdLease d, len := h.len, next := 0,
                      unacked := [], got := 0, phase := 0 }
    modMem s fun m => { m with moves := m.moves ++ [v],
                               hosted := m.hosted.map fun y => if y = h then { h with state := hsOUTGOING, slot := slot } else y }
def sendEnd (slot : Nat) (d : Bytes) (st : Nat) (s : State) : State :=
  match moveOfSlot s slot (fun v => v.ext.isNone && v.src.isSome && v.addr == mdAddr d) with
  | none => s
  | some v =>
    let s := modMem (dropMove v s) fun m => { m with hosted := m.hosted.map fun y =>
      if y.addr = v.addr ∧ y.state = hsOUTGOING then { y with state := st, since := s.tim.ref } else y }
    s
def sendCommit (slot : Nat) (d : Bytes) (s : State) : State :=
  match moveOfSlot s slot (fun v => v.ext.isNone && v.src.isSome && v.addr == mdAddr d) with
  | none => s
  | some v => modMem s fun m => { m with moves := m.moves.map fun w => if w = v then { v with phase := 1, slot := 16 } else w }

/-- R255, R260: MOVE_RECV on the destination. -/
def recvOk (d : Bytes) (s : State) : Bool :=
  mdSwitch d == ownId s && mdTier d == 1 && physOk s 1 (mdPhys d) (mdLen d) && s.mem.hosted.length < 262144
    && s.mem.leases.any (fun l => l.id == mdLease d && l.borrower == mdAddr d / 2 ^ 52 % 4096 && l.recallEnd.isNone
        && t0Addr l.base ≤ mdPhys d && mdPhys d + mdLen d ≤ t0Addr l.base + l.gib * 2 ^ 30)
    && !rangeTaken s (ownId s) (mdPhys d) (mdLen d)
def recvTake (slot : Nat) (d : Bytes) (s : State) : State :=
  let h : Hosted := { registrar := mdAddr d / 2 ^ 52 % 4096, addr := mdAddr d, gen := mdGen d, phys := mdPhys d, len := mdLen d,
                      lease := mdLease d, part := mdPart d, enc := mdCrypt d, state := hsINCOMING, got := 0, since := 0, slot := slot,
                      from_ := mdFrom d }
  modMem s fun m => { m with hosted := m.hosted ++ [h] }
def recvReady (slot : Nat) (d : Bytes) (s : State) : Bool :=
  s.mem.hosted.any fun h => h.slot == slot && h.addr == mdAddr d && h.state == hsINCOMING && h.len ≤ 256 * h.got
def recvCommit (slot : Nat) (d : Bytes) (s : State) : State :=
  modMem s fun m => { m with hosted := m.hosted.map fun h =>
    if h.slot = slot ∧ h.addr = mdAddr d ∧ h.state = hsINCOMING then { h with state := hsHOSTED, gen := (h.gen + 1) % 256 } else h }
def recvUndo (slot : Nat) (d : Bytes) (doubt : Bool) (s : State) : State :=
  let mine := fun (h : Hosted) => h.slot == slot && h.addr == mdAddr d && h.state == hsINCOMING
  if doubt then
    modMem s fun m => { m with hosted := m.hosted.map fun h => if mine h then { h with state := hsDOUBT, since := s.tim.ref } else h }
  else modMem s fun m => { m with hosted := m.hosted.filter fun h => !mine h }

/-- Whether a move has sectors still to copy from here. -/
def copying (v : Move) : Bool := v.phase == 0 && (v.src.isSome || v.fill) && 256 * v.next < v.len

/-- Whether an engine of this device can read or write a range now: its channels or its tray's port are not fenced and take requests, and the
tray's link is up, with tags for a sector (R35, R250, R353, R422). -/
def engineMay (s : State) (p n : Nat) : Bool :=
  if isTray p then
    let c := trayPort p
    !blockFenced s grCXP c && !unitHeld s grCXP c && trayUp s c && (freeTags s c 5).isSome
  else !channelFenced s p n && (channelReset s p n).isNone

/-- Whether a move belongs to an entry of its clause. -/
def moveOfEntry (s : State) (slot code : Nat) (d : Bytes) (v : Move) : Bool :=
  v.slot == slot && v.phase == 0
    && (if code = acEXT_MOVE then v.ext.isSome && extByAddr s (mdAddr d) == v.ext
        else if code = acMOVE_SEND then v.ext.isNone && v.src.isSome && v.addr == mdAddr d
        else code == acOBJ_ALLOC && allocFilling slot d s v)

/-- R53: whether the data work of a move is due: the entry whose turn it is brought it. -/
def moveDue (s : State) (v : Move) : Bool :=
  let x := clsOf s v.slot
  match x.entries[x.work]? with
  | some e => x.checked && moveOfEntry s v.slot e.code e.desc v
  | none => false

/-- MOVE_SECTOR_COPY: the next sector of a move whose source is here, or of a fill (R257, R259), where its place can be reached; the data work
of a clause runs in staging order (R53). In safe state nothing is written (R423). -/
def sectorCopy (addr : Nat) (raw : Bytes) (s : State) : State :=
  match s.mem.moves.find? fun v => v.addr == addr && copying v with
  | none => s
  | some v =>
    let n := moveBytes v v.next
    let src := match v.src with
      | some b => engineMay s (b + 256 * v.next) n
      | none => true
    let dst := v.dstSw != ownId s || engineMay s (v.dst + 256 * v.next) n
    if s.flt.safe || !moveDue s v || !src || !dst then s
    else if (s.mem.moves.find? fun w => w.slot == v.slot && copying w) == some v then
      let v' := { v with next := v.next + 1 }
      moveSector v' v.next raw (putMove s v')
    else s

/-! ### Withdrawal and loss (R265, R266) -/

/-- R266: an extent is withdrawn at a commit. -/
def withdrawExt (e : Nat) (s : State) : State :=
  let x := extOf s e
  let busy := x.home == ownId s && !(reqsOn s e).isEmpty
  let s := bump (setExt s e { x with state := esWITHDRAWN, gen := nextGen x, holding := busy }) MRG_WITHDRAWN
  runReqs (endReqsOn e stEXTENT_WITHDRAWN (dropReads (extAddr s e) x.len s))

/-- WITHDRAW_RANGE_RELEASE. -/
def rangeRelease (e : Nat) (s : State) : State :=
  if (extOf s e).state = esWITHDRAWN then setExt s e { extOf s e with holding := false } else s

/-- A move of an extent is cut short: its clause aborts (R268). -/
def cutMove (e : Nat) (s : State) : State :=
  match moveOfExt s e with
  | some v => if v.phase = 0 then addDue (.clause v.slot 0x10) s else s
  | none => s

/-- R265: HOME_LOSE. -/
def homeLose (d : Bytes) (s : State) : State :=
  let gone := s.mem.exts.filter fun e =>
    (e.2.state == esHOME || e.2.state == esMOVING)
      && (if ldLease d ≠ 0 then e.2.tier == 1 && e.2.lease == ldLease d else e.2.home == ldSwitch d)
  gone.foldl (fun s e =>
    let s := cutMove e.1 s
    let x := extOf s e.1
    let s := loseExt e.1 (setExt s e.1 { x with gen := nextGen x })
    runReqs (endReqsOn e.1 stHOME_LOST s)) s

/-! ### Lending (R267, R268) -/

def lendOk (d : Bytes) (s : State) : Bool :=
  let l := ndLease d
  l.id != 0 && l.base % 2 ^ 30 == 0 && l.gib != 0 && l.base + l.gib * 2 ^ 30 ≤ 0x18000000000
    && s.mem.leases.all fun m => m.id != l.id && !overlap m.base (m.gib * 2 ^ 30) l.base (l.gib * 2 ^ 30)
def lendCommit (d : Bytes) (s : State) : State :=
  let l := ndLease d
  bump (modMem s fun m => { m with leases := m.leases ++ [l] }) MRG_LENT (l.gib * 2 ^ 30)

def recallOk (d : Bytes) (s : State) : Bool := s.mem.leases.any (·.id == leAt d 0 2)
/-- RECALL at its commit: the grace, by default RECALL_GRACE, starts, and the borrower is told. -/
def recallCommit (d : Bytes) (s : State) : State :=
  let id := leAt d 0 2
  let g := if leAt d 2 2 = 0 then rdF s MRG_REG_LIMITS MRG_REG_LIMITS_RECALL_GRACE else leAt d 2 2
  match s.mem.leases.find? (·.id == id) with
  | none => s
  | some l =>
    let s := modMem s fun m => { m with leases := m.leases.map fun x =>
      if x.id = id then { x with recallEnd := some (s.tim.ref + 1000000 * g) } else x }
    emit (.hub 0) (ctrlMsg s (l.borrower * 4096) cLEASE_RECALL 6 (leBytes 2 id ++ leBytes 2 g)) s

/-- LEASE_GRACE_EXPIRE. -/
def graceExpire (id : Nat) (s : State) : State :=
  match s.mem.leases.find? fun l => l.id == id && l.recallEnd.isSome with
  | none => s
  | some l =>
    let s := modMem s fun m => { m with leases := m.leases.filter (·.id != id), hosted := m.hosted.filter (·.lease != id) }
    let s := wrReg s MRG_LENT (rdReg s MRG_LENT - BitVec.ofNat 64 (l.gib * 2 ^ 30))
    emit (.hub 0) (ctrlMsg s (l.borrower * 4096) cLEASE_END 6 (leBytes 2 id)) s

/-- LEASE_END at the borrower. The lender is the switch that sent it. -/
def leaseEnd (m : Msg) (s : State) : State :=
  let mine := s.mem.exts.filter fun e => e.2.tier == 1 && e.2.lease == leAt m.pay 0 2 && e.2.home == m.hdr.src / 4096
    && (e.2.state == esHOME || e.2.state == esMOVING || e.2.state == esLOST)
  mine.foldl (fun s e => withdrawExt e.1 (cutMove e.1 s)) s

/-! ### Home queries (R263, R264) -/

def entHome (b : Bytes) : Nat := leAt b 0 8 / 2 ^ 16 % 4096
def entGen (b : Bytes) : Nat := leAt b 0 8 / 2 ^ 8 % 256

/-- The registrar's answer to a query. -/
def homeEntry (s : State) (g : Nat) : Bytes :=
  match extByAddr s g with
  | some e => (extOf s e).enc
  | none => List.replicate 16 0xFF

/-- MRG_HQ_CTL takes an answer. -/
def hqAnswer (ent : Bytes) (s : State) : State :=
  let s := wrF (wrF s MRG_HQ_CTL MRG_HQ_CTL_BUSY 0) MRG_HQ_CTL MRG_HQ_CTL_RESULT (if ent = List.replicate 16 0xFF then 3 else 1)
  wrReg (wrReg s MRG_HQ_ANSWER0 (BitVec.ofNat 64 (leAt ent 0 8))) MRG_HQ_ANSWER1 (BitVec.ofNat 64 (leAt ent 8 8))

/-- Send a HOME_QUERY. -/
def sendQuery (kind addr : Nat) (s : State) : State :=
  let (id, s) := freshId s
  let s := modMem s fun m => { m with devReqs := m.devReqs ++ [⟨id, 0, kind, addr, s.tim.ref⟩] }
  emit (.hub 0) (ctrlMsg s (addr / 2 ^ 52 % 4096 * 4096) cHOME_QUERY 6 (leBytes 8 addr ++ leBytes 4 id)) s

/-- HQ_GO: while a query is outstanding, nothing; an address of this registrar is answered at once. -/
def hqGo (s : State) : State :=
  if rdBit s MRG_HQ_CTL MRG_HQ_CTL_BUSY then s else
  let a := (rdReg s MRG_HQ_ADDR).toNat
  if a / 2 ^ 52 % 4096 = ownId s then hqAnswer (homeEntry s a) s
  else if !hasRoute s (.hub 0) (ctrlMsg s (a / 2 ^ 52 % 4096 * 4096) cHOME_QUERY 6 []).hdr then
    wrF (deadTarget s 0 (ctrlMsg s (a / 2 ^ 52 % 4096 * 4096) cHOME_QUERY 6 []).hdr) MRG_HQ_CTL MRG_HQ_CTL_RESULT 2
  else sendQuery 4 a (wrF (wrF s MRG_HQ_CTL MRG_HQ_CTL_BUSY 1) MRG_HQ_CTL MRG_HQ_CTL_RESULT 0)

/-- HOME_QUERY_TIMER: a hosted entry in DOUBT asks its registrar. -/
def queryTimer (addr : Nat) (s : State) : State :=
  if s.mem.hosted.any (fun h => h.addr == addr && h.state == hsDOUBT) then sendQuery 3 addr s else s

/-- HOME_DECLARED_LOST. -/
def declaredLost (addr : Nat) (s : State) : State :=
  if s.mem.hosted.any (fun h => h.addr == addr && h.state == hsDOUBT) then
    raise srcMRG_HOME_DECLARED_LOST 0 (modMem s fun m => { m with 
      hosted := m.hosted.filter (fun h => !(h.addr == addr && h.state == hsDOUBT)),
      devReqs := m.devReqs.filter (fun q => !(q.kind == 3 && q.a == addr)) })
  else s

/-- HOME_QUERY at the registrar. -/
def homeQuery (m : Msg) (s : State) : State :=
  emit (.hub 0) (ctrlAnswer s m cHOME_ANSWER (bslice m.pay 8 4 ++ zeros 4 ++ homeEntry s (leAt m.pay 0 8))) s

/-- HOME_ANSWER: the answer to MRG_HQ, or to the query of an entry in DOUBT (R263). An answer to no query is dropped (R273). -/
def homeAnswer (prg : Nat) (m : Msg) (s : State) : State :=
  match s.mem.devReqs.find? fun q => (q.kind == 3 || q.kind == 4) && q.id == leAt m.pay 0 4 with
  | none => bump s (MRG_LATE_DROPS (entryHub prg))
  | some q =>
    let s := modMem s fun x => { x with devReqs := x.devReqs.erase q }
    let ent := bslice m.pay 8 16
    if q.kind = 4 then hqAnswer ent s else
    let right := fun (h : Hosted) => ent != List.replicate 16 0xFF && entHome ent == ownId s
      && (entGen ent == h.gen || entGen ent == (h.gen + 1) % 256)
    let next := fun (h : Hosted) =>
      if h.addr = q.a ∧ h.state = hsDOUBT then
        if right h then some { h with state := hsHOSTED, gen := entGen ent } else none
      else some h
    modMem s fun x => { x with hosted := x.hosted.filterMap next }

/-- R236: a batch whose reply is lost goes to its home once more, under its request ID. -/
def resend (r : Req) (id : Nat) (s : State) : State :=
  let m := lenderMsg s r (extOf s r.ext) id true
  if hasRoute s (.hub (entryHub r.prg)) m.hdr then
    emit (.hub (entryHub r.prg)) m (modMem s fun x => { x with reqs := x.reqs.map fun q => if q.arr = r.arr then { q with resent := true } else q })
  else runReqs (finish r stHOME_LOST none (dropReq r.arr (deadTarget s (4 * entryHub r.prg) m.hdr)))

/-- REMOTE_LIMIT_EXPIRE: a request of the device toward another switch stays unanswered (R296). A request forwarded to a lender ends with
its home lost (R256, R265), a batch of atomics only after it was sent once more (R236). A HOME_QUERY of MRG_HQ reads unreachable. The
access of a unit ends with a dead target. A move's sector stays unacknowledged. -/
def remoteLimit (id : Nat) (s : State) : State :=
  match s.mem.devReqs.find? (·.id == id) with
  | some q =>
    let s := modMem s fun x => { x with devReqs := x.devReqs.erase q }
    if q.kind = 4 then wrF (wrF s MRG_HQ_CTL MRG_HQ_CTL_BUSY 0) MRG_HQ_CTL MRG_HQ_CTL_RESULT 2
    else if q.kind = 5 then farLost q.a s
    else s
  | none =>
    match s.mem.reqs.find? fun r => r.stage == .lender id with
    | some r =>
      if r.op.isSome && !r.resent then resend r id s
      else runReqs (finish r (lenderStatus stTARGET_DEAD) none (dropReq r.arr s))
    | none => s

/-! ### Replies to the device's own requests (R254, R273) -/

/-- CPL or CPL_DATA for internal endpoint 0x000: it acknowledges a move's sector, ends the access of a unit, or answers a forwarded request; a
stray one counts in MRG_LATE_DROPS. -/
def cplIn (prg : Nat) (m : Msg) (s : State) : State :=
  let s := takeDelivered s (.hub (prg / 4)) m
  match s.mem.devReqs.find? fun q => (q.kind == 1 || q.kind == 5) && q.id == m.hdr.reqId && q.gen == m.hdr.gen with
  | some q =>
    let s := modMem s fun x => { x with devReqs := x.devReqs.erase q }
    if q.kind = 5 then farDone q.a m.hdr.op m.pay s
    else modMem s fun x => { x with
      moves := x.moves.map fun v => if v.addr = q.a ∧ m.hdr.op = stOK then { v with unacked := v.unacked.filter (· != q.id) } else v }
  | none => runReqs (lenderReply prg m s)

/-- WRITE_FAILED for a posted write of the device: the write ends with its status. -/
def writeFailedIn (prg : Nat) (m : Msg) (s : State) : State :=
  match s.mem.devReqs.find? fun q => q.kind == 0 && q.id == leAt m.pay 8 2 with
  | some q => modMem s fun x => { x with devReqs := x.devReqs.erase q }
  | none => bump s (MRG_LATE_DROPS (entryHub prg))

/-! ### Scrubbing (R249) -/

/-- Wrong bits `x` arise in byte `i` of stored block `b`. -/
def upset (b i x : Nat) (s : State) : State :=
  let k := 80 * b + i % 80
  modMem s fun m => { m with errs := sset (fun _ => 0) m.errs k (sget (fun _ => 0) m.errs k ^^^ x % 256) }

/-- R249: scrub a block: correct it and rewrite it, or set POISON with fresh check bits. -/
def scrubBlock (hub b : Nat) (s : State) : State :=
  match errsAfter s b with
  | some e => if e = blockErrs s b then s else setErrs b e (bump s (MRG_ECC_CE hub))
  | none =>
    let part := match sfind s.mem.sectors (b / 4) with
      | some t => t.key.part
      | none => 0
    poisonSector part (b / 4) (2 ^ (b % 4)) (raise srcMRG_HBC_UE hub (bump s (MRG_ECC_UE hub)))

/-- SCRUB: a pass of HBC unit `u`. Safe state blocks its writes (R423). -/
def scrub (u : Nat) (s : State) : State :=
  if s.flt.safe || rdF s (MRG_SCRUB (u / 128)) MRG_SCRUB_PERIOD == 0 then s else
  let bad := (s.mem.errs.map (·.1 / 80)).eraseDups.filter fun b => !isTray (64 * b) && channelOf (64 * b % 2 ^ 50) == u
  bad.foldl (fun s b => scrubBlock (u / 128) b s) s

/-! ### Coherence domains (R287, R295) -/

/-- R287: whether a COH_DOMAIN_SET passes. The partition of an endpoint of another switch is not known here (log entry 100). -/
def cohSetOk (d : Bytes) (s : State) : Bool :=
  let ms := hdMembers d
  let rs := hdRanges d
  !ms.isEmpty && ms.length ≤ 32 && !rs.isEmpty && rs.length ≤ 8 && (sfind s.mem.doms (hdDom d)).isNone
    && ms.all (fun e => e / 4096 != 0xFFF && (e / 4096 != ownId s
        || (ownerPRG s (e % 4096 / 256) == some (hdPart d) && !trustedPort s (e % 4096 / 16))))
    && rs.all (fun r => r.2 != 0 && s.mem.objs.all fun o =>
        o.2.state == 0 || !overlap (o.2.firstFrame) (objFrames o.2) r.1 r.2
          || (o.2.state == 1 && bit o.2.flags 0 && o.2.part == hdPart d && !o.2.sharedRo))
    && s.mem.doms.all (fun x => x.2.ranges.all fun q => rs.all fun r => !overlap q.1 q.2 r.1 r.2)
def cohSetCommit (d : Bytes) (s : State) : State :=
  let s := modMem s fun m => { m with doms := sput m.doms (hdDom d) ⟨hdPart d, hdMembers d, hdRanges d, false⟩ }
  wrReg s DIR_COH_STATE (rdReg s DIR_COH_STATE ||| BitVec.ofNat 64 (2 ^ hdDom d))
def cohClearOk (d : Bytes) (s : State) : Bool := (sfind s.mem.doms (hdDom d)).isSome
/-- A domain leaves DIR_COH_STATE, with its records. -/
def cohDrop (dom : Nat) (s : State) : State :=
  clearDom dom (wrReg s DIR_COH_STATE (rdReg s DIR_COH_STATE &&& ~~~(BitVec.ofNat 64 (2 ^ dom))))
/-- R61: the domain stays set, and the coherent READs that waited proceed. -/
def cohClearUndo (dom : Nat) (s : State) : State :=
  match sfind s.mem.doms dom with
  | none => s
  | some x => runReqs (wake (fun r => r.stage == .sweep dom)
      (modMem s fun m => { m with doms := sput m.doms dom { x with sweeping := false } }))

/-! ### Publications (R298 to R303) -/

/-- A publication of a key. -/
def pubByKey (s : State) (name version : Nat) : Option (Nat × Pub) :=
  s.mem.pubs.find? fun p => p.2.state != 0 && p.2.name == name && p.2.version == version

/-- The table entry that a clause keeps for its PUB_CREATE: in state 0 until the commit. -/
def pubKept (d : Bytes) : Pub := { pdPub d with state := 0 }

def pubCreateOk (d : Bytes) (s : State) : Bool :=
  let p := pdPub d
  (match objByAddr s p.addr with
    | some i =>
      let o := objOf s i
      o.state == 1 && o.pub == 0 && o.sharedRo && o.part == p.owner && p.length ≤ o.size && objOff o (p.addr % 2 ^ 52) == 0
    | none => false)
    && s.mem.pubs.length < 4096 && p.version != 0xFFFFFFFF && (pubByKey s p.name p.version).isNone
    && (maskBits p.cxp 16).all fun c => rdF s (CXP_ROLE c) CXP_ROLE_ROLE == 1

/-- R300: reserve the key at the start of the guard interval; none where it is taken. -/
def pubReserve (slot : Nat) (d : Bytes) (s : State) : Option State :=
  let p := pdPub d
  if s.mem.reserved.any (fun x => x.2.1 == p.name && x.2.2.1 == p.version) || (pubByKey s p.name p.version).isSome then none
  else
    let i := (objByAddr s p.addr).getD 0
    some (modMem s fun m => { m with reserved := m.reserved ++ [(slot, p.name, p.version, i)] })

/-- A reservation of a slot lapses, and the writes that it held go on. -/
def pubLapse (slot : Nat) (s : State) : State :=
  let mine := s.mem.reserved.filter (·.1 == slot)
  let s := modMem s fun m => { m with reserved := m.reserved.filter (·.1 != slot) }
  if mine.isEmpty then s else runReqs (wake (fun r => mine.any fun x => r.stage == .pub x.2.2.2) s)

/-- The lowest free index of the publication table. -/
def freePub (s : State) : Nat := ((List.range 4096).find? fun i => (sfind s.mem.pubs i).isNone).getD 0

/-- R299: a PUB_CREATE that passed keeps an entry of the table. -/
def pubTake (d : Bytes) (s : State) : State := modMem s fun m => { m with pubs := sput m.pubs (freePub s) (pubKept d) }

/-- The entry that a PUB_CREATE keeps. -/
def pubPlace (s : State) (d : Bytes) : Option Nat := (s.mem.pubs.find? (·.2 == pubKept d)).map (·.1)

/-- An aborted PUB_CREATE gives its entry back. -/
def pubUndo (d : Bytes) (s : State) : State :=
  match pubPlace s d with
  | some k => modMem s fun m => { m with pubs := sdel m.pubs k }
  | none => s

/-- R299: while the table is empty, MRG_PUB_SRC takes effect. -/
def pubBaseCommit (s : State) : State :=
  if s.mem.pubs.all (·.2.state == 0) then modMem s fun m => { m with pubBase := rdF s MRG_PUB_SRC MRG_PUB_SRC_ADDR * 2 ^ 18 } else s

/-- R300: the publication appears; each host port whose slots it exceeds counts it (R356). -/
def pubCommit (slot : Nat) (d : Bytes) (s : State) : State :=
  let p := pdPub d
  match objByAddr s p.addr, pubPlace s d with
  | some i, some k =>
    let s := modMem (pubBaseCommit s) fun m => { m with
      pubs := sput m.pubs k p
      reserved := m.reserved.filter fun x => !(x.1 == slot && x.2.2.2 == i) }
    let s := setObj s i { objOf s i with pub := 1 }
    let s := wrF (bump s MRG_PUB_CREATED) MRG_PUB_USE MRG_PUB_USE_ENTRIES (rdF s MRG_PUB_USE MRG_PUB_USE_ENTRIES + 1)
    let s := (maskBits p.cxp 16).foldl (fun s c =>
      if 2 ^ rdF s (CXP_HOST_CFG c) CXP_HOST_CFG_SLOT_LOG2 < p.length then bump s (CXP_HOST_OVERSIZE c) else s) s
    runReqs (wake (fun r => r.stage == .pub i) s)
  | _, _ => s

def pubRetireOk (d : Bytes) (s : State) : Bool :=
  let p := pdPub d
  match pubByKey s p.name p.version with
  | some (_, q) => q.state == 1 && q.owner == p.owner
  | none => false

/-- A publication becomes RETIRED. -/
def retirePub (k : Nat) (q : Pub) (s : State) : State :=
  let s := modMem s fun m => { m with pubs := sput m.pubs k { q with state := 2 } }
  let s := dropReads q.addr q.length (bump s MRG_PUB_RETIRED)
  match objByAddr s q.addr with
  | some i => setObj s i { objOf s i with pub := 2 }
  | none => s
def pubRetire (d : Bytes) (s : State) : State :=
  match pubByKey s (pdPub d).name (pdPub d).version with
  | some (k, q) => retirePub k q s
  | none => s

/-- R302: the publication that a query of a partition finds. -/
def pubLookup (s : State) (name version : Nat) (part : Option Nat) : Option Pub :=
  let may := fun (p : Pub) => match part with
    | some q => p.owner == q || bit p.readers q
    | none => false
  let ps := (s.mem.pubs.map (·.2)).filter fun p => p.name == name && p.state == 1
  let pick := if version = 0xFFFFFFFF then
      ps.foldl (fun (b : Option Pub) p => match b with
        | none => some p
        | some q => if q.version < p.version then some p else b) none
    else ps.find? (·.version == version)
  match pick with
  | some p => if may p then some p else none
  | none => none

/-- The partition of the source of a query: the owner of its port region for an endpoint of this switch; the header's bits [14:11] for
any other source (R394). -/
def srcPart (s : State) (h : Hdr) : Option Nat :=
  if !h.sint ∧ h.src / 4096 = ownId s then ownerPRG s (h.src % 4096 / 256) else some h.vep

/-- PUB_QUERY: the answer goes to the SRC. -/
def pubQuery (m : Msg) (s : State) : State :=
  let h := m.hdr
  let pay := match pubLookup s (leAt m.pay 0 8) (leAt m.pay 8 4) (srcPart s h) with
    | some p => bslice m.pay 12 4 ++ leBytes 1 0 ++ zeros 3 ++ leBytes 4 p.version ++ zeros 4 ++ leBytes 8 p.addr ++ leBytes 8 p.length
    | none => bslice m.pay 12 4 ++ leBytes 1 1 ++ zeros 3 ++ zeros 24
  emit (.hub 0) (ctrlAnswer s m cPUB_ANSWER pay) s

/-- PUB_ANSWER for a query of the device; any other counts as stray. -/
def pubAnswerIn (prg : Nat) (m : Msg) (s : State) : State :=
  match s.mem.devReqs.find? fun q => q.kind == 2 && q.id == leAt m.pay 0 4 with
  | some q => modMem s fun x => { x with devReqs := x.devReqs.erase q, pubAnswer := bslice m.pay 0 32 }
  | none => bump s (MRG_LATE_DROPS (entryHub prg))

/-! ### Windows of the conjunction units -/

/-- CMB_BUF_EXPIRE. -/
def bufExpire (n addr len : Nat) (s : State) : State :=
  modCmb s n fun c => { c with bufs := c.bufs.filter fun b => !(b.addr == addr && b.len == len) }

/-- REPLY_CACHE_EXPIRE: a completed entry is evicted. -/
def replyExpire (n src : Nat) (sint : Bool) (gen id : Nat) (s : State) : State :=
  runReqs (wake (fun r => r.stage == .room && r.prg == n) (modCmb s n fun c => { c with cache := c.cache.filter fun e =>
    !(e.src == src && e.sint == sint && e.gen == gen && e.reqId == id && e.reply.isSome) }))

/-! ### The phases of an action -/

/-- The codes that this file defines, with the page their entry must name: MRG unit 0 page 2, DIR unit 0 page 1, MRG unit 0 page 3. -/
def homeAction (code page : Nat) : Bool :=
  if acOBJ_ALLOC ≤ code ∧ code ≤ acMOVE_RECV then page == csrAddr grMRG 0 2 0
  else if code = acCOH_SET ∨ code = acCOH_CLEAR then page == csrAddr grDIR 0 1 0
  else if code = acPUB_CREATE ∨ code = acPUB_RETIRE then page == csrAddr grMRG 0 3 0
  else false

/-- The descriptor at a control-die address: 64 bytes, with an OBJ_ALLOC's list of ranges behind them; 256 bytes for a domain. -/
def homeDesc (s : State) (code a : Nat) : Bytes :=
  if code = acCOH_SET ∨ code = acCOH_CLEAR then cdLoad s a 256 else
  let d := cdLoad s a 64
  if code = acOBJ_ALLOC then d ++ cdLoad s (odPhys d) (8 * min (odRanges d) extMax) else d

/-- Item 3 of R53: whether the entry passes its own rules. -/
def homeValue (x : VCtx) (code : Nat) (d : Bytes) (s : State) : Bool :=
  if code = acOBJ_ALLOC then allocOk x d s
  else if code = acOBJ_FREE then match objByAddr s (leAt d 0 8) with
    | some i => (objOf s i).state == 1 && !objCovered s (objOf s i)
    | none => false
  else if code = acEXT_MOVE then moveOk x d s
  else if code = acEXT_WITHDRAW then match extByAddr s (leAt d 0 8) with
    | some e => (extOf s e).state == esHOME || (extOf s e).state == esLOST
    | none => false
  else if code = acLEND then lendOk d s
  else if code = acRECALL then recallOk d s
  else if code = acMOVE_SEND then sendOk d s
  else if code = acMOVE_RECV then recvOk d s
  else if code = acCOH_SET then cohSetOk d s
  else if code = acCOH_CLEAR then cohClearOk d s
  else if code = acPUB_CREATE then pubCreateOk d s
  else if code = acPUB_RETIRE then pubRetireOk d s
  else true

/-- Item 4: the commit condition (Table MEM-8). -/
def homeCond (x : VCtx) (code : Nat) (d : Bytes) (s : State) : Bool :=
  if code = acEXT_MOVE then
    if moveCross s d then x.cond == 1 || x.cond == 3 else x.cond == 0 || x.cond == 3
  else if code = acMOVE_SEND ∨ code = acMOVE_RECV then x.cond == 1 || x.cond == 3
  else true

/-- Item 5: the partition whose tenant may stage the entry (R257, R287, R299); none names no partition. -/
def homePart (code : Nat) (d : Bytes) (s : State) : Option Nat :=
  if code = acOBJ_ALLOC then some (odObj d).part
  else if code = acOBJ_FREE then (objByAddr s (leAt d 0 8)).map fun i => (objOf s i).part
  else if code = acEXT_MOVE ∨ code = acEXT_WITHDRAW then (extByAddr s (leAt d 0 8)).map fun e => (objOf s (extOf s e).obj).part
  else if code = acLEND then some (ndLease d).part
  else if code = acRECALL then (s.mem.leases.find? (·.id == leAt d 0 2)).map (·.part)
  else if code = acMOVE_SEND ∨ code = acMOVE_RECV then some (mdPart d)
  else if code = acCOH_SET then some (hdPart d)
  else if code = acCOH_CLEAR then (sfind s.mem.doms (hdDom d)).map (·.part)
  else if code = acPUB_CREATE ∨ code = acPUB_RETIRE then some (pdPub d).owner
  else none

/-- What an entry that passes validation does at once. -/
def homeTake (slot code : Nat) (d : Bytes) (s : State) : State :=
  if code = acOBJ_ALLOC then allocTake slot d s
  else if code = acOBJ_FREE then match objByAddr s (leAt d 0 8) with
    | some i => setObjState s i 2
    | none => s
  else if code = acEXT_MOVE then moveTake slot d s
  else if code = acMOVE_SEND then sendTake slot d s
  else if code = acMOVE_RECV then recvTake slot d s
  else if code = acPUB_CREATE then pubTake d s
  else s

/-- The data work of an entry whose turn it is starts (R53). -/
def homeStart (code : Nat) (d : Bytes) (s : State) : State := if code = acCOH_CLEAR then sweepDom (hdDom d) s else s

/-- Whether an entry's validation work is done (R55, R260, R295). -/
def homeReady (slot code : Nat) (d : Bytes) (s : State) : Bool :=
  if code = acEXT_MOVE ∨ code = acMOVE_SEND ∨ code = acOBJ_ALLOC then
    (s.mem.moves.filter fun v => v.slot == slot && v.phase == 0).all (moveReady s)
  else if code = acMOVE_RECV then recvReady slot d s
  else if code = acCOH_CLEAR then domEmpty s (hdDom d)
  else true

/-- What the data work of an entry leaves once it is done (R53, R257, R260, R295); none while it lasts. A fill of local ranges is one piece of
work. -/
def homeWork (slot code : Nat) (d : Bytes) (s : State) : Option State :=
  if !(s.mem.moves.filter (moveOfEntry s slot code d)).all (moveReady s) then none
  else if code = acOBJ_ALLOC ∧ flagTier (odObj d).flags ≠ 1 then
    if (odObj d).zeroInit && !(allocSpans d).all (fun r => engineMay s r.1 r.2) then none else some (allocFill d s)
  else if code = acCOH_CLEAR then if domEmpty s (hdDom d) then some s else none
  else some s

/-- The start of the guard interval (R260, R300). None: PUBLISH_CONFLICT. -/
def homeGuard (slot code : Nat) (d : Bytes) (s : State) : Option State :=
  if code = acPUB_CREATE then pubReserve slot d s
  else if code = acEXT_MOVE then match extByAddr s (mdAddr d) with
    | some e => some (modMem s fun m => { m with guarded := m.guarded ++ [e] })
    | none => some s
  else some s

/-- The commit of an entry. -/
def homeCommit (slot code : Nat) (d : Bytes) (s : State) : State :=
  if code = acOBJ_ALLOC then allocCommit slot d s
  else if code = acOBJ_FREE then match objByAddr s (leAt d 0 8) with
    | some i => freeCommit i s
    | none => s
  else if code = acEXT_MOVE then moveCommit slot d s
  else if code = acEXT_WITHDRAW then match extByAddr s (leAt d 0 8) with
    | some e => withdrawExt e s
    | none => s
  else if code = acHOME_LOSE then homeLose d s
  else if code = acLEND then lendCommit d s
  else if code = acRECALL then recallCommit d s
  else if code = acMOVE_SEND then sendCommit slot d s
  else if code = acMOVE_RECV then recvCommit slot d s
  else if code = acCOH_SET then cohSetCommit d s
  else if code = acCOH_CLEAR then cohDrop (hdDom d) s
  else if code = acPUB_CREATE then pubCommit slot d s
  else if code = acPUB_RETIRE then pubRetire d s
  else s

/-- An entry of an aborted clause is undone (R61, R257, R258, R262); `doubt`: the clause ended IN_DOUBT (R263). -/
def homeUndo (slot code : Nat) (d : Bytes) (doubt : Bool) (s : State) : State :=
  if code = acOBJ_ALLOC then allocUndo slot d s
  else if code = acOBJ_FREE then match objByAddr s (leAt d 0 8) with
    | some i => if (objOf s i).state = 2 ∧ !(objOf s i).freed then setObjState s i 1 else s
    | none => s
  else if code = acEXT_MOVE then moveUndo slot d s
  else if code = acMOVE_SEND then sendEnd slot d (if doubt then hsDOUBT else hsHOSTED) s
  else if code = acMOVE_RECV then recvUndo slot d doubt s
  else if code = acCOH_CLEAR then cohClearUndo (hdDom d) s
  else if code = acPUB_CREATE then pubLapse slot (pubUndo d s)
  else s

end Sys2Proof.Machine
end

