-- ==== Sys2Proof/Machine/Xmss.lean ====
section
/-! DEFINITION. The verification of XMSS^MT signatures (R400): RFC 8391 with the parameter set XMSSMT-SHAKE256_40/4_256 of NIST SP 800-208,
which the rule names: n = 32, height 40 in 4 layers, Winternitz parameter 16. -/

namespace Sys2Proof.Machine.Xmss

/-- `n` bytes of `v`, most significant first. -/
def beBytes (n v : Nat) : Bytes := (leBytes n v).reverse

def xorB (a b : Bytes) : Bytes := List.zipWith (· ^^^ ·) a b

/-- SP 800-208: the functions F (0), H (1), H_msg (2) and PRF (3) are SHAKE256 behind their number. -/
def fn (pad : Nat) (key m : Bytes) : Bytes := shake256 (beBytes 32 pad ++ key ++ m) 32

/-- RFC 8391, 2.5: an address: layer, tree, type, and the words that the type gives, of which the last selects key or mask. -/
structure Adr where
  layer : Nat
  tree : Nat
  type : Nat
  w0 : Nat := 0
  w1 : Nat := 0
  w2 : Nat := 0

def Adr.bytes (a : Adr) (keyAndMask : Nat) : Bytes :=
  beBytes 4 a.layer ++ beBytes 8 a.tree ++ [a.type, a.w0, a.w1, a.w2, keyAndMask].flatMap (beBytes 4)

/-- RFC 8391, 3.1.2: `s` steps of a chain from step `i`. -/
def chain (seed : Bytes) (a : Adr) : Nat → Nat → Bytes → Bytes
  | 0, _, x => x
  | s + 1, i, x =>
    let a := { a with w2 := i }
    chain seed a s (i + 1) (fn 0 (fn 3 seed (a.bytes 0)) (xorB x (fn 3 seed (a.bytes 1))))

/-- RFC 8391, 4.1.4: the randomised hash of two nodes. -/
def randHash (seed : Bytes) (a : Adr) (l r : Bytes) : Bytes :=
  fn 1 (fn 3 seed (a.bytes 0)) (xorB l (fn 3 seed (a.bytes 1)) ++ xorB r (fn 3 seed (a.bytes 2)))

/-- RFC 8391, 3.1.5: the 64 digits of a digest and the three of its checksum. -/
def digits (m : Bytes) : List Nat :=
  let d := m.flatMap fun b => [b.toNat / 16, b.toNat % 16]
  let c := (d.map (15 - ·)).sum
  d ++ [c / 256 % 16, c / 16 % 16, c % 16]

/-- RFC 8391, 3.1.6: the public key that a one-time signature leads to. -/
def otsKey (seed : Bytes) (a : Adr) (sig m : Bytes) : List Bytes :=
  (digits m).zipIdx.map fun x => chain seed { a with w1 := x.2 } (15 - x.1) x.1 (bslice sig (32 * x.2) 32)

/-- One level of an L-tree: neighbours are hashed, and a node without one rises. -/
def ltreeLevel (seed : Bytes) (a : Adr) : Nat → List Bytes → List Bytes
  | i, l :: r :: rest => randHash seed { a with w2 := i } l r :: ltreeLevel seed a (i + 1) rest
  | _, rest => rest

/-- RFC 8391, 4.1.5: the root of the L-tree over 67 nodes, from level `h` on. -/
def ltree (seed : Bytes) (a : Adr) (nodes : List Bytes) : Bytes :=
  ((List.range 7).foldl (fun ns h => ltreeLevel seed { a with w1 := h } 0 ns) nodes).headD []

/-- RFC 8391, 4.1.10: the root that the signature `sig` of leaf `leaf` of a tree leads to. -/
def treeRoot (seed : Bytes) (layer tree leaf : Nat) (sig m : Bytes) : Bytes :=
  let ots := otsKey seed { layer := layer, tree := tree, type := 0, w0 := leaf } sig m
  let node := ltree seed { layer := layer, tree := tree, type := 1, w0 := leaf } ots
  (List.range 10).foldl (fun x k =>
    let a : Adr := { layer := layer, tree := tree, type := 2, w1 := k, w2 := leaf / 2 ^ (k + 1) }
    let y := bslice sig (32 * (67 + k)) 32
    if leaf / 2 ^ k % 2 = 0 then randHash seed a x y else randHash seed a y x) node

/-- RFC 8391, 4.2.5, with the layout of R400: the key is OID, root and SEED; the signature is index, r and the four layers. -/
def verify (key m sig : Bytes) : Bool :=
  let root := bslice key 4 32
  let seed := bslice key 36 32
  let idx := ((List.range 5).map fun i => leAt sig i 1 * 256 ^ (4 - i)).sum
  let d := fn 2 (bslice sig 5 32 ++ root ++ beBytes 32 idx) m
  (List.range 4).foldl (fun x j =>
    treeRoot seed j (idx / 2 ^ (10 * (j + 1))) (idx / 2 ^ (10 * j) % 1024) (bslice sig (37 + 2464 * j) 2464) x) d == root

end Sys2Proof.Machine.Xmss
end

