-- ==== Sys2Proof/Machine/Boot.lean ====
section
/-! DEFINITION. The control die: fuses and their shadow (R446), the loader (R447, R448), restarts and the watchdog (R449, R450), the 64
mailboxes (R452 to R457), and the board controller's in-band interrupts (R460). -/

namespace Sys2Proof.Machine

def modBoot (s : State) (f : Boot → Boot) : State := { s with boot := f s.boot }

/-! ### The board controller (R460, Table BOO-7) -/

def ibiBOOT_WAIT : Nat := 1
def ibiBOOT_BAD_IMAGE : Nat := 2
def ibiFW_READY : Nat := 3
def ibiPOWER_CYCLE_REQ : Nat := 4
def ibiSAFE_STATE : Nat := 5
def ibiRESTARTING : Nat := 6
def ibiMBX_OUT : Nat := 7
def ibiFUSE_MISMATCH : Nat := 8
def ibiTHERM : Nat := 9

/-- R460: an in-band interrupt. Until the board controller has assigned an address the device holds it, one of each reason. -/
def ibi (r : Nat) (s : State) : State :=
  modBoot s fun b =>
    if b.i3c then { b with ibiSent := b.ibiSent ++ [r] }
    else if b.ibiHeld.contains r then b else { b with ibiHeld := b.ibiHeld ++ [r] }

/-- R460: ENTDAA assigns the dynamic address; held interrupts are sent. -/
def i3cAddress (s : State) : State :=
  modBoot s fun b => { b with i3c := true, ibiHeld := [], ibiSent := b.ibiSent ++ b.ibiHeld }

/-! ### Fuses (Table BOO-2) -/

/-- The fuse array as its shadow holds it. -/
def fuses : Bytes := (List.range 256).map Config.fuse
def fuseDeviceId : Nat := leAt fuses 0 8
/-- The firmware key bank in force: the higher one burned. -/
def fuseFwKey : Bytes := if (bslice fuses 40 32).all (· == 0) then bslice fuses 8 32 else bslice fuses 40 32
/-- The lowest security version accepted: the number of ones of the thermometer code. -/
def fuseSvn : Nat := (maskBits (leAt fuses 200 8) 64).length
def fuseBootCfg : Nat := leAt fuses 208 8
/-- R448: the sources in order; `true` is HLK. -/
def bootSources : List Bool :=
  if bit fuseBootCfg 9 then (if bit fuseBootCfg 0 then [false, true] else [true, false]) else [false]

/-! ### The loader (R448) -/

/-- CHP_BOOT_STATE (Table BOO-8). -/
def bootState (s : State) : Nat := rdF s CHP_BOOT_STATE CHP_BOOT_STATE_STATE
def setBootState (v : Nat) (s : State) : State := wrF s CHP_BOOT_STATE CHP_BOOT_STATE_STATE v
def bsROM : Nat := 0
def bsFETCH : Nat := 1
def bsVERIFY : Nat := 2
def bsRUNS : Nat := 3
def bsREADY : Nat := 4
def bsRESTARTING : Nat := 5

/-- A frame leaves on the management port: VERSION 1, TYPE, body (Table BOO-6). -/
def mgmtFrame (type : Nat) (body : Bytes) (s : State) : State :=
  modBoot s fun b => { b with mgmt := leBytes 1 1 ++ leBytes 1 type ++ body }

/-- A NOTIFY of the control die. One for a local endpoint needs no route: it leaves on the endpoint's port. -/
def ctlNotify (ep : Nat) (sint : Bool) (op : Nat) (pay : Bytes) (s : State) : State :=
  let m : Msg := ⟨{ type := tNOTIFY, sint := true, tc := 5, dint := sint, dst := ep, src := ownId s * 4096 + 0x300, op := op }, pay⟩
  if ep / 4096 = ownId s ∧ !sint then emitPort (gangBase s (ep % 4096 / 16)) m s else emit (.hub 0) m s

/-- R448: BOOT_REQUEST toward the current source. On HLK the loader trains the port alone first, and the request leaves once the port is
ACTIVE (`bootAsk`). -/
def bootRequest (s : State) : State :=
  let hlk := bootSources.getD s.boot.src false
  let s := modBoot s fun b => { b with fetching := true, retry := false, chunk := false, ask := hlk }
  let s := if bootState s = bsRESTARTING then s else setBootState bsFETCH s
  let s := wrF s CHP_BOOT_STATE CHP_BOOT_STATE_SOURCE hlk.toNat
  if hlk then (if linkState s bootPort = lsDISABLED then setLink s bootPort lsDETECT else s)
  else mgmtFrame 4 (zeros 6 ++ leBytes 8 fuseDeviceId ++ zeros 8) s

/-- The BOOT_REQUEST of the HLK source leaves. -/
def bootAsk (s : State) : State :=
  if s.boot.ask && portLive s (gangBase s bootPort) then
    ctlNotify (ownId s * 4096 + 16 * bootPort) false 0x1E (leBytes 8 fuseDeviceId ++ zeros 8) (modBoot s fun b => { b with ask := false })
  else s

/-- R448: the loader goes to its next source, or waits 1 s after the last one. -/
def bootNext (s : State) : State :=
  if s.boot.src + 1 < bootSources.length then bootRequest (modBoot s fun b => { b with src := b.src + 1 })
  else modBoot s fun b => { b with retry := true, ask := false }

/-- R448: a source failed. -/
def bootFail (s : State) : State := bootNext (ibi ibiBOOT_WAIT s)

/-- R448: 500 ms passed without a first chunk. -/
def bootTimeout (s : State) : State :=
  if s.boot.fetching && !s.boot.chunk && !s.boot.retry then bootFail s else s

/-- R448: BOOT_NONE from the source asked. -/
def bootNone (hlk : Bool) (s : State) : State :=
  if s.boot.fetching && !s.boot.retry && bootSources.getD s.boot.src false == hlk then bootFail s else s

/-- R448: the second has passed; the loader starts again with the first source. -/
def bootRetry (s : State) : State :=
  if s.boot.fetching && s.boot.retry then bootRequest (modBoot s fun b => { b with src := 0 }) else s

/-- How far the bytes from `x` on are held without a gap; `fuel` bounds the pieces crossed. -/
def heldTo (ps : List (Nat × Bytes)) : Nat → Nat → Nat
  | 0, x => x
  | f + 1, x =>
    match ps.find? fun p => p.1 ≤ x && x < p.1 + p.2.length with
    | some p => heldTo ps f (p.1 + p.2.length)
    | none => x

/-- Byte `a` of the image held; the first piece that covers it counts. -/
def imageByte (ps : List (Nat × Bytes)) (a : Nat) : Byte :=
  match ps.find? fun p => p.1 ≤ a && a < p.1 + p.2.length with
  | some p => p.2.getD (a - p.1) 0
  | none => 0
def imageBytes (ps : List (Nat × Bytes)) (a n : Nat) : Bytes := (List.range n).map fun i => imageByte ps (a + i)

/-- The bytes held from byte 0 on. -/
def imageHeld (s : State) : Nat := heldTo s.boot.pieces (s.boot.pieces.length + 1) 0
/-- The bytes of a complete image: its header and BODY_BYTES. -/
def imageNeed (s : State) : Nat := 0x2800 + leNat (imageBytes s.boot.pieces 0x18 8)

/-- R448: a chunk arrives while the loader fetches. One for a range already held is ignored; the loader verifies once the image is
held. -/
def bootChunk (off : Nat) (d : Bytes) (s : State) : State :=
  if !s.boot.fetching then s else
  let ps := s.boot.pieces
  let s := modBoot s fun b => { b with chunk := true }
  if off + d.length ≤ heldTo ps (ps.length + 1) off then s else
  let s := modBoot s fun b => { b with pieces := ps ++ [(off, d)] }
  if 0x2800 ≤ imageHeld s ∧ imageNeed s ≤ imageHeld s ∧ bootState s ≠ bsRESTARTING then setBootState bsVERIFY s else s

/-- R447: the six checks, in order, over an image that is held. -/
def imageOk (ps : List (Nat × Bytes)) : Bool :=
  let hd := imageBytes ps 0 0x2800
  let body := leAt hd 0x18 8
  leAt hd 0 4 == 0x57465848 && leAt hd 4 2 == 1
    && shake256 (bslice hd 0x80 68) 32 == fuseFwKey
    && Xmss.verify (bslice hd 0x80 68) (shake256 (hd.take 0x80) 32) (bslice hd 0x100 9893)
    && fuseSvn ≤ leAt hd 0x10 2
    && body ≤ 0x10000000 && body % 64 == 0 && leAt hd 0x20 8 < body
    && shake256 (imageBytes ps 0x2800 body) 32 == bslice hd 0x28 32

/-- R447 and Table BOO-4: the checks of a complete image end. An accepted one is loaded at control-die address 0 and the firmware runs;
`ready` says that the firmware then found every link trained and raised READY (step 7). A rejected one is discarded. -/
def imageVerified (ready : Bool) (s : State) : State :=
  if !(s.boot.fetching && 0x2800 ≤ imageHeld s && imageNeed s ≤ imageHeld s) then s else
  let ps := s.boot.pieces
  if imageOk ps then
    let hd := imageBytes ps 0 0x2800
    let body := imageBytes ps 0x2800 (leAt hd 0x18 8)
    let s := cdWrite s 0 body
    let s := wrReg s CHP_FW_VERSION (BitVec.ofNat 64 (leAt hd 8 8))
    let s := modBoot s fun b => { b with
      fw := true, fetching := false, ask := false, retry := false, pieces := [], src := 0,
      digest := shake256 (hd ++ body) 32, kicked := s.tim.ref }
    ibi ibiFW_READY (setBootState (if ready then bsREADY else bsRUNS) s)
  else bootNext (ibi ibiBOOT_BAD_IMAGE (modBoot s fun b => { b with pieces := [] }))

/-- R446: the ROM compares the fuse array with its shadow, writes a blank one, and starts the loader unless the two differ. -/
def romStart (s : State) : State :=
  match s.boot.shadow with
  | none => bootRequest (modBoot s fun b => { b with shadow := some fuses })
  | some x => if x = fuses then bootRequest s else ibi ibiFUSE_MISMATCH (raise srcCHP_FUSE_MISMATCH 0 s)

/-- R449, R450: a control-die restart: the cores halt, clauses OPEN (1) or SEALED (2) abort with RESTART, and the loader fetches a fresh
image. -/
def ctlRestart (s : State) : State :=
  let s := modBoot s fun b => { b with fw := false, pieces := [], src := 0 }
  let s := (List.range 16).foldl (fun s c =>
    let st := rdF s (CLS_STATE c) CLS_STATE_STATE
    if st = 1 ∨ st = 2 then addDue (.clause c 0x14) s else s) s
  bootRequest (ibi ibiRESTARTING (setBootState bsRESTARTING s))

/-- R449: the watchdog's period passes without a kick. -/
def fwWatchdog (s : State) : State :=
  if rdF s CHP_WDOG CHP_WDOG_PERIOD = 0 || !s.boot.fw then s else
  let s := raise srcCHP_FW_WATCHDOG 0 (modBoot s fun b => { b with kicked := s.tim.ref })
  if rdBit s CHP_WDOG CHP_WDOG_AUTO then ctlRestart s else s

/-- R449: a kick. -/
def wdogKick (s : State) : State := modBoot s fun b => { b with kicked := s.tim.ref }

/-! ### Mailboxes -/

def mbxOf (s : State) (m : Nat) : Mbx := sget (fun _ => {}) s.mbx m

/-- Set a mailbox, with its counts of queued words. -/
def setMbx (m : Nat) (x : Mbx) (s : State) : State :=
  let s := { s with mbx := sset (fun _ => {}) s.mbx m x }
  wrF (wrF s (MBX_IN_STATE m) MBX_IN_STATE_COUNT x.inq.length) (MBX_OUT_STATE m) MBX_OUT_STATE_COUNT x.outq.length

def mbxKind (s : State) (m : Nat) : Nat := rdF s (MBX_BIND m) MBX_BIND_KIND
def mbxSource (s : State) (m : Nat) : Nat := rdF s (MBX_BIND m) MBX_BIND_SOURCE

/-- Table BOO-5: the header word of an inbound message. -/
def mbxHeader (kind len : Nat) (part : Option Nat) (ep port seq tag : Nat) : Word :=
  BitVec.ofNat 64 (kind % 8 + len % 8 * 2 ^ 3 + part.getD 0 % 16 * 2 ^ 8 + part.isSome.toNat * 2 ^ 12 + ep % 2 ^ 24 * 2 ^ 16
    + port % 2 ^ 8 * 2 ^ 40 + seq % 2 ^ 8 * 2 ^ 48 + tag % 2 ^ 8 * 2 ^ 56)

/-- The 64-bit words of a run of bytes. -/
def wordsOf (n : Nat) (d : Bytes) : List Word := (List.range n).map fun i => BitVec.ofNat 64 (leAt d (8 * i) 8)

/-- R453 to R455: an inbound message for mailbox `m`: 1 accepted whole, 2 refused as full, 3 refused because the binding names
another party. A mailbox whose ENABLE is 0 takes none (Table CTL-3; log entry 131). -/
def mbxAccept (m kind source len : Nat) (part : Option Nat) (ep port tag : Nat) (data : List Word) (s : State) : Nat × State :=
  if 64 ≤ m then (3, s)
  else if !unitOn s grMBX m then (2, bump s (MBX_REFUSED m))
  else if mbxKind s m ≠ kind ∨ ((kind = 1 ∨ kind = 2) ∧ mbxSource s m ≠ source) then (3, bump s (MBX_REFUSED m))
  else
    let x := mbxOf s m
    if 16 < x.inq.length + len + 1 then (2, bump s (MBX_REFUSED m)) else
    let seq := (x.inSeq + 1) % 256
    let x := { x with inq := x.inq ++ mbxHeader kind len part ep port seq tag :: data.take len, inSeq := seq }
    let s := bump (setMbx m x s) (MBX_ACCEPTED m)
    let mode := rdF s (MBX_NOTIFY m) MBX_NOTIFY_MODE
    let s := if mode = 1 then wrReg s MBX_DOORBELL (rdReg s MBX_DOORBELL ||| BitVec.ofNat 64 (2 ^ rdF s (MBX_NOTIFY m) MBX_NOTIFY_BIT))
      else if 8 < x.inq.length then wrReg s MBX_FULL_PEND (rdReg s MBX_FULL_PEND ||| BitVec.ofNat 64 (2 ^ m)) else s
    (1, s)

/-- R454: an MBX_PUSH payload arrives: by a NOTIFY (kind 1) through base port `port`, by a management frame (3) or by the board
controller (4, always mailbox 63). A refused sender is told (MBX_REFUSED), but for the board controller, which has no channel
for it. A binding names an endpoint, and so no internal one (SINT). -/
def mbxPush (kind port : Nat) (m : Msg) (s : State) : State :=
  let p := m.pay
  let box := if kind = 4 then 63 else leAt p 0 1
  let len := leAt p 1 1 % 8
  let tag := leAt p 2 1
  let hlk := kind = 1
  let (r, s) := mbxAccept box kind (if hlk then (if m.hdr.sint then 2 ^ 24 else m.hdr.src) else 0) len (if hlk then srcPart s m.hdr else none)
    (if hlk then m.hdr.src else 0) (if hlk then port else 0) tag (wordsOf len (bslice p 8 56)) s
  if r = 1 then s else
  let why := if r = 2 then 1 else 2
  if kind = 1 then ctlNotify m.hdr.src m.hdr.sint 0x12 (leBytes 1 box ++ leBytes 1 why ++ leBytes 1 tag) s
  else if kind = 3 then mgmtFrame 3 (leBytes 1 box ++ leBytes 1 why ++ leBytes 1 tag) s
  else s

/-- R454: a read of MBX_IN_POP: the oldest inbound word, or 0 from an empty queue. -/
def mbxInPop (m : Nat) (s : State) : State :=
  let x := mbxOf s m
  match x.inq with
  | [] => okReply s 0
  | w :: r => okReply (bump (setMbx m { x with inq := r } s) (MBX_POPPED m)) w

/-- The words of the oldest complete outbound message. -/
def outHead (x : Mbx) : List Word :=
  match x.outq with
  | [] => []
  | h :: r =>
    let n := bits h.toNat 5 3
    if n ≤ r.length then h :: r.take n else []

/-- Free the oldest outbound message. -/
def outPop (m : Nat) (s : State) : State :=
  let x := mbxOf s m
  let n := (outHead x).length
  if n = 0 then s else bump (setMbx m { x with outq := x.outq.drop n } s) (MBX_SENT m)

/-- R454: the payload of a message. -/
def mbxPayload (m : Nat) (ws : List Word) : Bytes :=
  let h := (ws.headD 0).toNat
  leBytes 1 m ++ leBytes 1 (bits h 5 3) ++ leBytes 1 (bits h 63 56) ++ zeros 5 ++ bslice (ws.tail.flatMap fun w => leBytes 8 w.toNat) 0 56

/-- R456, R457: a complete outbound message is delivered: at once on HLK and the management port, which frees its words; a CXL device
and the board controller are told, and read it. `first` says that no complete message waited. -/
def mbxDeliver (m : Nat) (first : Bool) (s : State) : State :=
  let ws := outHead (mbxOf s m)
  let src := mbxSource s m
  match mbxKind s m with
  | 1 => outPop m (ctlNotify src false 0x11 (mbxPayload m ws) s)
  | 2 => if first then modBoot s fun b => { b with msix := 16 * (src % 16) + src / 16 % 16 + 1 } else s
  | 3 => outPop m (mgmtFrame 2 (mbxPayload m ws) s)
  | 4 => ibi ibiMBX_OUT s
  | _ => s

/-- R456: a write of MBX_OUT_PUSH: a header word, which needs room for its whole message, or a data word. The device fills SEQ. -/
def mbxOutPush (m : Nat) (w : Word) (s : State) : State :=
  let x := mbxOf s m
  let first := (outHead x).isEmpty
  if x.need = 0 then
    let len := bits w.toNat 5 3
    if 16 < x.outq.length + len + 1 then csrRefused s else
    let seq := (x.outSeq + 1) % 256
    let h := BitVec.ofNat 64 (len * 2 ^ 3 + seq * 2 ^ 48 + bits w.toNat 63 56 * 2 ^ 56)
    let s := okReply (setMbx m { x with outq := x.outq ++ [h], outSeq := seq, need := len } s)
    if len = 0 then mbxDeliver m first s else s
  else
    let s := okReply (setMbx m { x with outq := x.outq ++ [w], need := x.need - 1 } s)
    if x.need = 1 then mbxDeliver m first s else s

/-- R455: a W1C write to MBX_DOORBELL (`full` false) or MBX_FULL_PEND; bits of `sets` are set together with the clear, and stay. -/
def mbxClear (full : Bool) (w sets : Word) (s : State) : State :=
  let a := if full then MBX_FULL_PEND else MBX_DOORBELL
  let sets := if full then sets else sets &&& 0xFFFFFFFF#64
  okReply (wrReg s a ((rdReg s a &&& ~~~w) ||| sets))

/-- The mailbox that serves logical device `ld` of CXL port `c`, which has a window only in host role and while valid. -/
def ldMailbox (s : State) (c ld : Nat) : Option Nat :=
  if !(cxlHost s c && ldValid s c ld) then none else
  (List.range 64).find? fun m => mbxKind s m == 2 && mbxSource s m % 256 == c + 16 * ld

/-- R457: a write of IN_PUSH in the window of a logical device. IN_STATUS is the answer: the last push and the free words. -/
def inPush (c ld len tag : Nat) (ws : List Word) (s : State) : State :=
  match ldMailbox s c ld with
  | none => { s with cxl := some { port := c, ld := ld, code := 3, vals := [0] } }
  | some m =>
    let part := rdF s (CXP_LD_PART c) (CXP_LD_PART_LD ld)
    let (r, s) := mbxAccept m 2 (mbxSource s m) (len % 8) (some part) (c + 16 * ld) c tag ws s
    let x := { mbxOf s m with push := r }
    { setMbx m x s with cxl := some { port := c, ld := ld, code := r, vals := [16 - x.inq.length] } }

/-- R457: a write of OUT_POP. -/
def cxlOutPop (c ld : Nat) (s : State) : State :=
  match ldMailbox s c ld with
  | some m => outPop m s
  | none => s

end Sys2Proof.Machine
end

