-- ==== Sys2Proof/Machine/Kem.lean ====
section
/-! DEFINITION. ML-KEM-1024 (FIPS 203), by which a tenant wraps a key for this device (R404): KeyGen from a seed, and decapsulation. The
number-theoretic transform is written as the residues that it stands for. -/

namespace Sys2Proof.Machine.Kem

def q : Nat := 3329

/-- A polynomial of 256 coefficients, or its transform. -/
abbrev Poly := List Nat

def co (f : Poly) (i : Nat) : Nat := f.getD i 0
def add (f g : Poly) : Poly := List.zipWith (fun a b => (a + b) % q) f g
def sub (f g : Poly) : Poly := List.zipWith (fun a b => (a + q - b) % q) f g
def sum (fs : List Poly) : Poly := fs.foldl add (List.replicate 256 0)

/-- The powers of `g` modulo q, `n` of them, from `x` on. -/
def powers (g : Nat) : Nat → Nat → List Nat
  | 0, _ => []
  | n + 1, x => x :: powers g n (x * g % q)

/-- The powers of the root 17, of order 256. -/
def roots : List Nat := powers 17 256 1

/-- The seven bits of an index, reversed. -/
def rev7 (i : Nat) : Nat := ((List.range 7).map fun b => i / 2 ^ b % 2 * 2 ^ (6 - b)).sum

/-- FIPS 203, 4.3: the exponent of the root whose power gamma the pair `i` of a transform reduces modulo X^2 - gamma. -/
def gexp (i : Nat) : Nat := 2 * rev7 i + 1

/-- Every second coefficient from `p` on, as the terms of a sum over the roots `e · j`. -/
def dot (f : Poly) (p : Nat) (e : Nat → Nat) : Nat :=
  ((List.range 128).map fun j => co f (2 * j + p) * co roots (e j % 256)).sum % q

/-- FIPS 203, 4.3: the transform, and its inverse (3303 is the inverse of 128). -/
def ntt (f : Poly) : Poly := (List.range 256).map fun k => dot f (k % 2) fun j => gexp (k / 2) * j
def inv (f : Poly) : Poly := (List.range 256).map fun k => dot f (k % 2) (fun i => (256 - gexp i * (k / 2) % 256)) * 3303 % q

/-- FIPS 203, algorithm 11: the product of two transforms. -/
def mul (f g : Poly) : Poly :=
  (List.range 256).map fun k =>
    let i := k / 2
    if k % 2 = 0 then (co f k * co g k + co f (k + 1) * co g (k + 1) % q * co roots (gexp i)) % q
    else (co f (k - 1) * co g k + co f k * co g (k - 1)) % q

/-- Algorithms 5 and 6: `d` bits for each of the 256 values. -/
def encode (d : Nat) (f : Poly) : Bytes := leBytes (32 * d) ((f.zipIdx.map fun x => x.1 % 2 ^ d * 2 ^ (d * x.2)).sum)
def decode (d : Nat) (b : Bytes) : Poly :=
  let v := leNat (bslice b 0 (32 * d))
  (List.range 256).map fun i => v / 2 ^ (d * i) % 2 ^ d % (if d = 12 then q else 2 ^ d)

/-- FIPS 203, 4.2.1: compression to `d` bits, rounding half up, and back. -/
def compress (d : Nat) (f : Poly) : Poly := f.map fun x => (2 ^ (d + 1) * x + q) / (2 * q) % 2 ^ d
def decompress (d : Nat) (f : Poly) : Poly := f.map fun x => (2 * q * x + 2 ^ d) / 2 ^ (d + 1)

/-- Algorithm 7: the values below q among the 12-bit halves of a stream (280 triples, FIPS 203, appendix B). -/
def sampleNtt (seed : Bytes) : Poly :=
  let b := shake128 seed 840
  let c := (List.range 280).flatMap fun i =>
    let v := leAt b (3 * i) 3
    [v % 4096, v / 4096]
  (c.filter (· < q)).take 256

/-- Algorithm 8 with eta = 2, on the stream of algorithm 7's PRF for the nonce `n`. -/
def sampleCbd (s : Bytes) (n : Nat) : Poly :=
  (shake256 (s ++ leBytes 1 n) 128).flatMap fun b =>
    [b.toNat % 16, b.toNat / 16].map fun x => (x % 2 + x / 2 % 2 + q - x / 4 % 2 - x / 8) % q

def four (f : Nat → Poly) : List Poly := (List.range 4).map f

/-- The entry in row `i` and column `j` of the matrix that `rho` gives. -/
def matrix (rho : Bytes) (i j : Nat) : Poly := sampleNtt (rho ++ leBytes 1 j ++ leBytes 1 i)

/-- A decapsulation key in its parts: the secret vector, the encapsulation key and the seed of the rejected secret. -/
structure Key where
  s : List Poly
  ek : Bytes
  z : Bytes

/-- Algorithms 13 and 16: the keys that 64 bytes of seed give. -/
def keyGen (seed : Bytes) : Key :=
  let g := sha3w512 (seed.take 32 ++ leBytes 1 4)
  let rho := g.take 32
  let s := four fun i => ntt (sampleCbd (g.drop 32) i)
  let t := four fun i => add (sum (s.zipIdx.map fun x => mul (matrix rho i x.2) x.1)) (ntt (sampleCbd (g.drop 32) (4 + i)))
  ⟨s, t.flatMap (encode 12) ++ rho, seed.drop 32⟩

/-- Algorithm 14: the ciphertext of a 32-byte message. -/
def encrypt (ek m r : Bytes) : Bytes :=
  let rho := bslice ek 1536 32
  let y := four fun i => ntt (sampleCbd r i)
  let u := four fun i => add (inv (sum (y.zipIdx.map fun x => mul (matrix rho x.2 i) x.1))) (sampleCbd r (4 + i))
  let t := four fun i => decode 12 (ek.drop (384 * i))
  let v := add (add (inv (sum (List.zipWith mul t y))) (sampleCbd r 8)) (decompress 1 (decode 1 m))
  u.flatMap (fun f => encode 11 (compress 11 f)) ++ encode 5 (compress 5 v)

/-- Algorithm 15: the message in a ciphertext. -/
def decrypt (k : Key) (c : Bytes) : Bytes :=
  let u := four fun i => ntt (decompress 11 (decode 11 (c.drop (352 * i))))
  encode 1 (compress 1 (sub (decompress 5 (decode 5 (c.drop 1408))) (inv (sum (List.zipWith mul k.s u)))))

/-- Algorithm 18: the shared secret; of a ciphertext that is no encryption under the key, the rejected one. -/
def decaps (k : Key) (c : Bytes) : Bytes :=
  let m := decrypt k c
  let g := sha3w512 (m ++ sha3w256 k.ek)
  if encrypt k.ek m (g.drop 32) = c then g.take 32 else shake256 (k.z ++ c) 32

end Sys2Proof.Machine.Kem
end

