-- ==== Sys2Proof/Machine/Shuttle.lean ====
section
/-! DEFINITION. The shuttle (chapter 11): queue pairs and their context (R306), rings and doorbells (R308), requests (R309), segments and
acknowledgement (R311 to R314), completion and FLUSH (R315 to R317), the window (R318 to R320), retries (R321, R322), registrations
(R323 to R325) and the states of Table SHT-6. -/

namespace Sys2Proof.Machine

/-! ### Access -/

def qpOf (s : State) (q : Nat) : Qp := sget (fun _ => {}) s.sht.qps q
def setQp (s : State) (q : Nat) (x : Qp) : State := { s with sht := { s.sht with qps := sset (fun _ => {}) s.sht.qps q x } }
def modQp (s : State) (q : Nat) (f : Qp → Qp) : State := setQp s q (f (qpOf s q))
def shtReg (s : State) (i : Nat) : Reg := sget (fun _ => {}) s.sht.regs i
def setShtReg (s : State) (i : Nat) (x : Reg) : State := { s with sht := { s.sht with regs := sset (fun _ => {}) s.sht.regs i x } }

def qsRESET : Nat := 0
def qsINIT : Nat := 1
def qsRTS : Nat := 2
def qsDRAINING : Nat := 3
def qsERROR : Nat := 4

/-- Shuttle status codes (Table SHT-5). -/
def shSEQ : Nat := 0x20
def shNO_RECEIVE : Nat := 0x21
def shKEY : Nat := 0x22
def shLENGTH : Nat := 0x23
def shQP_STATE : Nat := 0x24
def shRETRY_EXCEEDED : Nat := 0x25
def shFLUSHED : Nat := 0x26
def shRING : Nat := 0x27
def shCQ_OVERFLOW : Nat := 0x28
def shENGINE_RESET : Nat := 0x29

/-- The engine of a queue pair number. -/
def qpEngine (q : Nat) : Nat := q / 2048

/-- PSN arithmetic (R306). -/
def psub (a b : Nat) : Nat := (a % 2 ^ 24 + 2 ^ 24 - b % 2 ^ 24) % 2 ^ 24
def padd (a b : Nat) : Nat := (a + b) % 2 ^ 24

/-- Ring-index arithmetic (R306). -/
def rsub (a b : Nat) : Nat := (a % 2 ^ 32 + 2 ^ 32 - b % 2 ^ 32) % 2 ^ 32

/-- Table SHT-1 as the 128 bytes that SHT_QP_CTX shows. -/
def Qp.bytes (q : Qp) : Bytes :=
  leBytes 1 (q.state % 8) ++ leBytes 1 (q.part % 16) ++ leBytes 1 q.gen ++ leBytes 1 q.err
    ++ leBytes 4 (q.owner % 2 ^ 24) ++ leBytes 4 (q.peer % 2 ^ 24) ++ leBytes 4 (q.peerQp % 2 ^ 24)
    ++ leBytes 8 q.sqBase ++ leBytes 8 q.rqBase ++ leBytes 8 q.cqBase
    ++ leBytes 1 q.sqLog ++ leBytes 1 q.rqLog ++ leBytes 1 q.cqLog ++ leBytes 1 (q.flags % 2) ++ zeros 4
    ++ leBytes 4 q.sqHead ++ leBytes 4 q.sqTail ++ leBytes 4 q.rqHead ++ leBytes 4 q.rqTail ++ leBytes 4 q.cqTail
    ++ leBytes 4 q.cqHead ++ leBytes 4 q.sendPsn ++ leBytes 4 q.unaPsn ++ leBytes 4 q.recvPsn ++ leBytes 4 q.halvePsn
    ++ leBytes 4 q.window ++ leBytes 4 q.inflight ++ leBytes 4 q.clean ++ leBytes 1 q.retries ++ zeros 3
    ++ leBytes 8 q.timerDue ++ zeros 16

/-- Table SHT-3. -/
def Wqe.op (w : Wqe) : Nat := leAt w.raw 0 1
def Wqe.signaled (w : Wqe) : Bool := bit (leAt w.raw 1 1) 0
def Wqe.fence (w : Wqe) : Bool := bit (leAt w.raw 1 1) 1
def Wqe.len (w : Wqe) : Nat := leAt w.raw 4 4
def Wqe.wrId (w : Wqe) : Nat := leAt w.raw 8 8
def Wqe.laddr (w : Wqe) : Nat := leAt w.raw 0x10 8
def Wqe.raddr (w : Wqe) : Nat := leAt w.raw 0x18 8
def Wqe.rkey (w : Wqe) : Nat := leAt w.raw 0x20 4

/-- R315, R317: whether a request is complete. -/
def Wqe.complete (w : Wqe) : Bool :=
  if w.op = 4 then w.answer.isSome
  else if w.op = 3 then w.out && w.placed == w.len
  else w.out && w.acked == w.len

/-! The jobs for which an engine reaches memory on a queue pair's account (`Asker.qp`): its rings, and by PSN the source bytes of a segment
and of a response, and the placements of accepted data and of a READ. -/
def jbSQ : Nat := 0
def jbRQ : Nat := 1
def jbCQ : Nat := 2
def jbSource (psn : Nat) : Nat := 8 * psn + 4
def jbResp (psn : Nat) : Nat := 8 * psn + 5
def jbPlace (psn : Nat) (read : Bool) : Nat := 8 * psn + (if read then 7 else 6)

/-- Whether a job reads the bytes of a segment to be sent. -/
def jbSends (j : Nat) : Bool := j % 8 == 4 || j % 8 == 5

/-- Whether a job goes on when its queue pair takes ERROR: completions are written and accepted data is placed. -/
def jbStays (j : Nat) : Bool := j == jbCQ || j % 8 == 6 || j % 8 == 7

/-- The context in which the engine reaches memory for a job: its partition's rights, and the queue pair's GEN. -/
def shtCtx (s : State) (q job : Nat) : Ctx :=
  { s := s, b := 256 * qpEngine q, part := some (qpOf s q).part, who := .qp q job, gen := (qpOf s q).gen }

/-- Accesses of a queue pair are needed no more. -/
def shtDrop (q : Nat) (p : Nat → Bool) (s : State) : State :=
  farDrop (fun w => match w with | .qp x j => x == q && p j | _ => false) s

/-! ### Messages -/

/-- Whether a peer is a shuttle engine: local endpoints 0x200 to 0x20F (DEDUCED, log entry 21). -/
def peerInt (e : Nat) : Bool := 0x200 ≤ e % 4096 && e % 4096 < 0x210

/-- Table SHT-7: the control bytes. -/
def shtCtl (sop flags status dqp sqp psn len key addr : Nat) : Bytes :=
  leBytes 1 sop ++ leBytes 1 flags ++ leBytes 1 status ++ zeros 1 ++ leBytes 4 dqp ++ leBytes 4 sqp ++ leBytes 4 psn
    ++ leBytes 4 len ++ leBytes 4 key ++ leBytes 8 addr

/-- R311: a shuttle segment of queue pair `q` to its peer. -/
def shtMsg (s : State) (q sop flags status psn len key addr : Nat) (data : Bytes) : Msg :=
  let x := qpOf s q
  ⟨{ type := tWRITE, sint := true, spray := true, tc := 1, vep := x.part, dint := peerInt x.peer, dst := x.peer,
     src := ownId s * 4096 + 0x200 + qpEngine q, reqId := psn % 65536, gen := x.gen },
   shtCtl sop flags status x.peerQp q psn len key addr ++ zeros 8 ++ data⟩

/-- R326: a NOTIFY of an engine. -/
def shtNotify (n ep op idx status detail : Nat) (s : State) : State :=
  emit (.region n) ⟨{ type := tNOTIFY, sint := true, tc := 5, dst := ep, src := ownId s * 4096 + 0x200 + n, op := op },
    leBytes 4 idx ++ leBytes 1 status ++ zeros 3 ++ leBytes 8 detail⟩ s

/-! Fields of a shuttle segment that arrived. -/
def smSop (m : Msg) : Nat := leAt m.pay 0 1
def smFirst (m : Msg) : Bool := bit (leAt m.pay 1 1) 0
def smLast (m : Msg) : Bool := bit (leAt m.pay 1 1) 1
def smEcho (m : Msg) : Bool := bit (leAt m.pay 1 1) 2
def smStatus (m : Msg) : Nat := leAt m.pay 2 1
def smDst (m : Msg) : Nat := leAt m.pay 4 4 % 2 ^ 24
def smPsn (m : Msg) : Nat := leAt m.pay 12 4 % 2 ^ 24
def smLen (m : Msg) : Nat := leAt m.pay 16 4
def smKey (m : Msg) : Nat := leAt m.pay 20 4
def smAddr (m : Msg) : Nat := leAt m.pay 24 8
def smMark (m : Msg) : Bool := bit (leAt m.pay 32 1) 0
def smData (m : Msg) : Bytes := bslice m.pay 40 (smLen m)

/-! ### Completions (R310) -/

/-- R310: the completions that wait are written in order, each with an acknowledged write, and CQ_TAIL advances with each. One whose write
is not acknowledged yet waits on; one whose write ended with an error is lost, and those after it go on (log entry 129). The answer is the
error that a write met, or CQ_OVERFLOW where the ring is full. -/
def drainCqes : Nat → Nat → State → Nat × State
  | 0, _, s => (stOK, s)
  | n + 1, q, s =>
    let x := qpOf s q
    match x.cqes with
    | [] => (stOK, s)
    | (wrId, bytes, op, status) :: r =>
      if 2 ^ x.cqLog ≤ rsub x.cqTail x.cqHead then (shCQ_OVERFLOW, setQp s q { x with cqes := [] }) else
      let phase := 1 - x.cqTail / 2 ^ x.cqLog % 2
      let ent := leBytes 8 wrId ++ leBytes 4 bytes ++ leBytes 1 op ++ leBytes 1 status ++ leBytes 2 (q % 2048) ++ zeros 15 ++ leBytes 1 phase
      let (st, c) := (shtCtx s q jbCQ).writeSt (x.cqBase + 32 * (x.cqTail % 2 ^ x.cqLog)) ent
      if c.stuck then (stOK, c.askAll s)
      else if st ≠ stOK then (st, (drainCqes n q (setQp (farUsed c.used c.s) q { x with cqes := r })).2)
      else
        let s := setQp (farUsed c.used c.s) q { x with cqes := r, cqTail := (x.cqTail + 1) % 2 ^ 32 }
        drainCqes n q (if bit x.flags 0 then shtNotify (qpEngine q) x.owner 0x20 (q % 2048) 0 (qpOf s q).cqTail s else s)

/-- R310: a completion follows those that wait. -/
def writeCqe (q wrId bytes op status : Nat) (s : State) : Nat × State :=
  let s := modQp s q fun x => { x with cqes := x.cqes ++ [(wrId, bytes, op, status)] }
  drainCqes ((qpOf s q).cqes.length) q s

/-- Table SHT-6: a queue pair takes ERROR with a status: a completion for the failing request, FLUSHED for the others. -/
def qpFail (q status : Nat) (failing : Option Nat) (s : State) : State :=
  let x := qpOf s q
  let due := x.wqes.map fun w =>
    (w.wrId, if w.op = 3 then w.placed else w.acked, w.op, if failing = some w.id then status else shFLUSHED)
  let s := setQp s q { x with state := qsERROR, err := status, wqes := [], segs := [], resend := [], resps := [], timerDue := 0,
                              inflight := 0, cpls := [], unackd := 0, marked := [], flushes := [], cqes := x.cqes ++ due }
  let (_, s) := drainCqes ((qpOf s q).cqes.length) q (shtDrop q (fun j => !jbStays j) s)
  let s := raise srcSHT_QP_ERROR (qpEngine q) s
  shtNotify (qpEngine q) x.owner 0x21 (q % 2048) status x.unaPsn s

/-- An error of a queue pair that is in neither RESET nor ERROR. -/
def qpErr (q status : Nat) (failing : Option Nat) (s : State) : State :=
  if (qpOf s q).state = qsRESET ∨ (qpOf s q).state = qsERROR then s else qpFail q status failing s

/-- The request that a failure without a segment of its own concerns: the oldest one. -/
def oldestWqe (x : Qp) : Option Nat := x.wqes.head?.map (·.id)

/-- R310: send requests that are complete leave in ring order, with a completion if SIGNALED or in error. -/
def retireWqes : Nat → Nat → State → State
  | 0, _, s => s
  | n + 1, q, s =>
    match (qpOf s q).wqes with
    | [] => s
    | w :: r =>
      if !w.complete then s else
      let s := modQp s q fun x => { x with wqes := r }
      let status := w.answer.getD 0
      if w.signaled ∨ status ≠ 0 then
        let (st, s) := writeCqe q w.wrId w.len w.op status s
        if st = stOK then retireWqes n q s else qpErr q st none s
      else retireWqes n q s

/-- DRAINING ends once every request that was read is complete, and its completion written (log entry 118). -/
def tryDrain (q : Nat) (s : State) : State :=
  let x := qpOf s q
  if x.state = qsDRAINING ∧ x.wqes.isEmpty ∧ x.cqes.isEmpty then
    shtNotify (qpEngine q) x.owner 0x22 (q % 2048) 0 x.sendPsn (setQp s q { x with state := qsINIT })
  else s

/-- Complete what is complete. -/
def settleQp (q : Nat) (s : State) : State :=
  tryDrain q (retireWqes ((qpOf s q).wqes.length) q s)

/-- Completions that wait are tried again (R310). -/
def retryCqes (q : Nat) (s : State) : State :=
  let (st, s) := drainCqes ((qpOf s q).cqes.length) q s
  tryDrain q (if st = stOK then s else qpErr q st none s)

/-- Those of every queue pair, once a command ends. -/
def retryAllCqes (s : State) : State :=
  (s.sht.qps.filter fun e => !e.2.cqes.isEmpty).foldl (fun s e => retryCqes e.1 s) s

/-- R314, R326: what a NAK with a fatal status does to its queue pair: the request of the PSN refused fails, or the oldest one where no
segment has that PSN. -/
def nakFatal (q psn st : Nat) (s : State) : State :=
  let x := qpOf s q
  let failing := match x.segs.find? fun g => psub psn g.psn < g.span with
    | some g => some g.wqe
    | none => oldestWqe x
  let s := if st = stTARGET_DEAD ∨ st = stPORT_DOWN then shtNotify (qpEngine q) x.owner 0x25 (q % 2048) st x.peer s else s
  qpErr q st failing s

/-- A shuttle segment of the queue pair leaves; one without a route ends under R296, and the queue pair takes the NAK of R314 for its PSN,
if its state takes one. -/
def shtSend (q : Nat) (m : Msg) (s : State) : State :=
  let n := qpEngine q
  if hasRoute s (.region n) m.hdr then emit (.region n) m s
  else
    let s := deadTarget s n m.hdr
    if (qpOf s q).state = qsRTS ∨ (qpOf s q).state = qsDRAINING then nakFatal q (leAt m.pay 12 4 % 2 ^ 24) stTARGET_DEAD s else s

/-! ### Doorbells and requests (R308, R309) -/

/-- A segment reaches engine `n`: its queue pair. -/
def shtQp (m : Msg) : Nat := smDst m

/-- R311: a segment that came as WRITE_ACK, and that no later acknowledgement covers, takes its CPL at once. -/
def cplNow (n : Nat) (m : Msg) (st : Nat) (s : State) : State :=
  if m.hdr.type = tWRITE_ACK then emit (.region n) ⟨cplHdr s m.hdr st, []⟩ s else s

/-- A segment that finds no queue pair in RTS or DRAINING is discarded (Table SHT-6, R411). -/
def shtDiscard (n q : Nat) (s : State) : State :=
  let s := bump s (SHT_DISCARDS n)
  if (qpOf s q).retired then bump s SEC_RETIRE_DROPS else s

/-- Whether a queue pair belongs to the engine and takes segments. -/
def shtTakes (s : State) (n q : Nat) : Bool :=
  qpEngine q == n && ((qpOf s q).state == qsRTS || (qpOf s q).state == qsDRAINING)

/-- DOORBELL. -/
def doorbell (m : Msg) (s : State) : State :=
  let n := m.hdr.dst % 16
  let q := shtQp m
  let x := qpOf s q
  if !shtTakes s n q || m.hdr.sint || m.hdr.src != x.owner then shtDiscard n q s else
  let s := cplNow n m stOK s
  let sq := leAt m.pay 12 4
  let rq := leAt m.pay 16 4
  let cq := leAt m.pay 20 4
  let rsize := if x.rqLog = 0 then 0 else 2 ^ x.rqLog
  let bad := 2 ^ x.sqLog < rsub sq x.sqHead || 2 ^ 31 ≤ rsub sq x.sqTail || rsize < rsub rq x.rqHead || 2 ^ 31 ≤ rsub rq x.rqTail
    || rsub x.cqTail x.cqHead < rsub cq x.cqHead
  if bad then qpErr q shRING none s
  else setQp s q { x with sqTail := sq, rqTail := rq, cqHead := cq }

/-- R309: whether a request's OP and LEN are those of Table SHT-3 (a LEN outside its range: log entry 118). -/
def wqeOk (w : Wqe) : Bool :=
  if w.op = 4 then w.len == 0 else (w.op == 1 || w.op == 2 || w.op == 3) && 1 ≤ w.len && w.len ≤ 2 ^ 31

/-- Requests run in ring order: the next one to start, where it is none of Table SHT-3, puts the queue pair into ERROR. -/
def badNext (q : Nat) (s : State) : State :=
  let x := qpOf s q
  match x.wqes.find? (!·.started) with
  | some w => if !wqeOk w && (x.wqes.filter (·.started)).all (·.out) then qpErr q stUNSUPPORTED (some w.id) s else s
  | none => s

/-- SQ_READ_DONE: the read of up to 8 send entries returns. -/
def sqReadDone (q : Nat) (s : State) : State :=
  let x := qpOf s q
  let n := min 8 (rsub x.sqTail x.sqHead)
  if x.state ≠ qsRTS ∨ n = 0 then s else
  let (st, ws, c) := (List.range n).foldl (fun (a : Nat × List Wqe × Ctx) i =>
    if a.1 ≠ stOK then a else
    let k := (x.sqHead + i) % 2 ^ 32
    let (st, d, c) := a.2.2.readSt (x.sqBase + 64 * (k % 2 ^ x.sqLog)) 64
    let w : Wqe := { id := k, raw := d }
    (st, a.2.1 ++ [w], c)) (stOK, ([] : List Wqe), shtCtx s q jbSQ)
  if c.stuck then c.askAll s
  else if st ≠ stOK then qpErr q st none (farUsed c.used c.s)
  else badNext q (modQp (farUsed c.used c.s) q fun x => { x with sqHead := (x.sqHead + n) % 2 ^ 32, wqes := x.wqes ++ ws })

/-- R309: the next request of the ring starts if it has this OP, every segment of the one before it has been sent, and its FENCE
lets it. -/
def wqeStart (q op : Nat) (s : State) : State :=
  let x := qpOf s q
  if x.state ≠ qsRTS ∧ x.state ≠ qsDRAINING then s else
  match x.wqes.find? (!·.started) with
  | none => s
  | some w =>
    let before := x.wqes.filter (·.started)
    if w.op = op ∧ wqeOk w ∧ before.all (·.out) ∧ (!w.fence || before.all fun b => !(b.op == 3 || b.op == 4)) then
      setQp s q { x with wqes := x.wqes.map fun y => if y.id = w.id then { w with started := true, first := x.sendPsn } else y }
    else s

/-! ### Transmission (R311, R312, R318, R321) -/

/-- What a queue pair sends next: a segment again, a response, a data segment, a READ_REQ or a FLUSH. -/
inductive ShtItem where
  | again (g : SentSeg)
  | resp (r : Resp)
  | data (w : Wqe) (len : Nat)
  | req (w : Wqe)
  deriving DecidableEq, Repr

/-- The data bytes of the next segment of a SEND or WRITE: up to 4 KiB, not past a 4 KiB boundary of the target (R311). -/
def nextLen (w : Wqe) : Nat := min (4096 - (if w.op = 2 then w.raddr + w.sent else w.sent) % 4096) (w.len - w.sent)

/-- R318. A READ_RESP is paced by the room that the responder's own segments leave; no acknowledgement names it, so that it never counts in
INFLIGHT (log entry 128). -/
def windowAdmits (x : Qp) (n : Nat) : Bool := x.inflight == 0 || x.inflight + n ≤ x.window

/-- The item that a queue pair may send now: segments to be resent, then responses, then new work. -/
def shtNext (x : Qp) : Option ShtItem :=
  if x.state ≠ qsRTS ∧ x.state ≠ qsDRAINING then none else
  match x.resend with
  | p :: _ => (x.segs.find? (·.psn == p)).map .again
  | [] =>
    match x.resps with
    | r :: _ => if windowAdmits x r.len then some (.resp r) else none
    | [] =>
      match x.wqes.find? fun w => w.started && !w.out with
      | none => none
      | some w =>
        if w.op = 3 ∨ w.op = 4 then if windowAdmits x 64 then some (.req w) else none
        else if windowAdmits x (nextLen w) then some (.data w (nextLen w)) else none

/-- Whether the bytes of a queue pair's next segment are still being read: it blocks (R31). -/
def shtBlocked (s : State) (q : Nat) : Bool :=
  s.mem.far.any fun f => !f.dead && f.reply.isNone && (match f.who with | .qp x j => x == q && jbSends j | _ => false)

/-- R31, R312: whether a queue pair may take a turn. -/
def shtReady (s : State) (q : Nat) : Bool := (shtNext (qpOf s q)).isSome && !shtBlocked s q

/-- R31: the queue pair whose turn it is on engine `n`, and what is left of its quantum. -/
def shtTurn (s : State) (n : Nat) : Option (Nat × Nat) :=
  let ready := (s.sht.qps.filter fun e => qpEngine e.1 == n && shtReady s e.1).map (·.1)
  let quantum := max 1 (rdF s (SHT_SLICE n) SHT_SLICE_QUANTUM)
  let after := fun (c : Nat) => match ready.find? (c < ·) with
    | some q => some (q, quantum)
    | none => ready.head?.map (·, quantum)
  match sfind s.sht.turns n with
  | some (c, left) => if 0 < left ∧ ready.contains c then some (c, left) else after c
  | none => ready.head?.map (·, quantum)

/-- R31, R312: a turn ends where its queue pair has nothing that it may send, or blocks. -/
def expireShtTurns (s : State) : State :=
  { s with sht := { s.sht with turns := s.sht.turns.map fun x => if shtReady s x.2.1 then x else (x.1, (x.2.1, 0)) } }

/-- R321: the retry timeout of a queue pair, in ns. -/
def retryNs (s : State) (q : Nat) (x : Qp) : Nat := 1000 * max 1 (rdF s (SHT_RETRY (qpEngine q)) SHT_RETRY_BASE) * 2 ^ x.retries

/-- The timer restarts when the segment at UNA_PSN is sent. -/
def startTimer (q psn : Nat) (s : State) : State :=
  let x := qpOf s q
  if psn = x.unaPsn then setQp s q { x with timerDue := now s + retryNs s q x } else s

/-- R327: a segment is sent; `data`: it carries data. -/
def countTx (q : Nat) (data : Bool) (s : State) : State :=
  progress (if data then bump s (SHT_SEGS_TX (qpEngine q)) else s) grSHT (qpEngine q)

/-- The data segment of a request at an offset. -/
def dataMsg (s : State) (q : Nat) (w : Wqe) (off n psn : Nat) (d : Bytes) : Msg :=
  let flags := (if off = 0 then 1 else 0) + (if off + n = w.len then 2 else 0)
  if w.op = 1 then shtMsg s q 1 flags 0 psn n 0 off d else shtMsg s q 2 flags 0 psn n w.rkey (w.raddr + off) d

/-- The READ_REQ or FLUSH of a request. -/
def reqMsg (s : State) (q : Nat) (w : Wqe) (psn : Nat) : Msg :=
  if w.op = 3 then shtMsg s q 3 3 0 psn w.len w.rkey w.raddr [] else shtMsg s q 5 3 0 psn 0 0 0 []

/-- Replace a request. -/
def putWqe (x : Qp) (w : Wqe) : Qp := { x with wqes := x.wqes.map fun y => if y.id = w.id then w else y }

/-- The job, address and length of the source bytes of an item; none where it carries no data. -/
def itemSource (x : Qp) : ShtItem → Option (Nat × Nat × Nat)
  | .again g =>
    if g.raw.isEmpty then (x.wqes.find? (·.id == g.wqe)).map fun w => (jbSource g.psn, w.laddr + g.off, g.len) else none
  | .resp r => some (jbResp r.psn, r.addr, r.len)
  | .data w n => some (jbSource x.sendPsn, w.laddr + w.sent, n)
  | .req _ => none

/-- The request whose failure an error of an item's source read is. -/
def itemWqe (x : Qp) : ShtItem → Option Nat
  | .again g => some g.wqe
  | .resp _ => oldestWqe x
  | .data w _ => some w.id
  | .req w => some w.id

/-- The source read of an item ends with an error (R309); a response's is refused with a NAK. -/
def itemFails (q : Nat) (it : ShtItem) (st : Nat) (s : State) : State :=
  let s := match it with
    | .resp r => bump (shtSend q (shtMsg s q 7 0 st r.psn 0 0 0 []) s) (SHT_NAKS_TX (qpEngine q))
    | _ => s
  qpErr q st (itemWqe (qpOf s q) it) s

/-- One item leaves, with its source bytes. A READ_REQ or a FLUSH that is not acknowledged is sent again though its request is complete. -/
def shtItem (q : Nat) (it : ShtItem) (d : Bytes) (s : State) : State :=
  let x := qpOf s q
  match it with
  | .again g =>
    let s := startTimer q g.psn (setQp s q { x with resend := x.resend.drop 1 })
    if !g.raw.isEmpty then shtSend q (reqMsg s q { id := g.wqe, raw := g.raw } g.psn) (countTx q false s)
    else match x.wqes.find? (·.id == g.wqe) with
      | some w => shtSend q (dataMsg s q w g.off g.len g.psn d) (countTx q true s)
      | none => s
  | .resp r =>
    let s := setQp s q { x with resps := x.resps.drop 1 }
    let flags := (if r.first then 1 else 0) + (if r.last then 2 else 0)
    shtSend q (shtMsg s q 4 flags 0 r.psn r.len 0 r.off d) (countTx q true s)
  | .data w n =>
    let psn := x.sendPsn
    let x := putWqe x { w with sent := w.sent + n, out := w.sent + n == w.len, span := w.span + 1 }
    let x := { x with sendPsn := padd psn 1, inflight := x.inflight + n, segs := x.segs ++ [⟨psn, 1, w.id, w.sent, n, n, []⟩] }
    let s := startTimer q psn (setQp s q x)
    badNext q (shtSend q (dataMsg s q w w.sent n psn d) (countTx q true s))
  | .req w =>
    let psn := x.sendPsn
    let span := if w.op = 3 then cdiv w.len 4096 else 1
    let x := putWqe x { w with out := true, span := span }
    let x := { x with sendPsn := padd psn span, inflight := x.inflight + 64, segs := x.segs ++ [⟨psn, span, w.id, 0, 0, 64, w.raw⟩] }
    let s := startTimer q psn (setQp s q x)
    badNext q (shtSend q (reqMsg s q w psn) (countTx q false s))

/-- An item is sent once its source bytes are read; where they must be asked for, the queue pair waits for them. -/
def shtPut (n q left : Nat) (it : ShtItem) (s : State) : State :=
  let turn := fun (k : Nat) (s : State) => { s with sht := { s.sht with turns := sput s.sht.turns n (q, k) } }
  match itemSource (qpOf s q) it with
  | none => turn (left - 1) (shtItem q it [] s)
  | some (job, a, k) =>
    let (st, d, c) := (shtCtx s q job).readSt a k
    if c.stuck then turn left (c.askAll s)
    else
      let s := farUsed c.used c.s
      turn (left - 1) (if st = stOK then shtItem q it d s else itemFails q it st s)

/-- SHUTTLE_SEGMENT_TX on engine `n`. -/
def segmentTx (n : Nat) (s : State) : State :=
  if s.flt.safe || regionOff s true n || !unitOn s grSHT n then s else
  match shtTurn s n with
  | none => s
  | some (q, left) =>
    match shtNext (qpOf s q) with
    | none => s
    | some it => shtPut n q left it s

/-! ### The responder (R313, R314, R316, R317) -/

/-- The PSN up to which the responder may acknowledge: before the oldest FLUSH that waits. -/
def ackable (x : Qp) : Nat :=
  match x.flushes with
  | f :: _ => psub f 1
  | [] => psub x.recvPsn 1

/-- The CPLs of WRITE_ACK segments that an acknowledgement covers (R311). -/
def sendCpls (q psn status : Nat) (upTo : Bool) (s : State) : State :=
  let hit := fun (e : Nat × Hdr) => if upTo then psub psn e.1 < 2 ^ 23 else e.1 == psn
  let mine := (qpOf s q).cpls.filter hit
  let s := modQp s q fun x => { x with cpls := x.cpls.filter fun e => !hit e }
  mine.foldl (fun s e => emit (.region (qpEngine q)) ⟨cplHdr s e.2 status, []⟩ s) s

/-- Send an ACK for a PSN, with ECHO if a segment that it covers carried MARK. -/
def sendAck (q psn status : Nat) (s : State) : State :=
  let x := qpOf s q
  let hit := fun p => psub psn p < 2 ^ 23
  let s := setQp s q { x with unackd := 0, marked := x.marked.filter fun p => !hit p }
  let s := shtSend q (shtMsg s q 6 (if x.marked.any hit then 4 else 0) status psn 0 0 0 []) s
  sendCpls q psn stOK true s

/-- Send a NAK; after KEY, LENGTH or REVOKED the responder enters ERROR (R314). -/
def sendNak (q psn status : Nat) (s : State) : State :=
  let s := bump (shtSend q (shtMsg s q 7 0 status psn 0 0 0 []) s) (SHT_NAKS_TX (qpEngine q))
  let s := sendCpls q psn status false s
  if status = shKEY ∨ status = shLENGTH ∨ status = stREVOKED then qpErr q status none s else s

/-- R313: a segment is accepted, and acknowledged where the rule says so. -/
def acceptSeg (q : Nat) (m : Msg) (span : Nat) (s : State) : State :=
  let n := qpEngine q
  let x := qpOf s q
  let s := setQp s q { x with
    recvPsn := padd x.recvPsn span, unackd := x.unackd + 1, gap := false,
    marked := if smMark m then x.marked ++ [padd x.recvPsn (span - 1)] else x.marked }
  let s := progress (bump s (SHT_SEGS_RX n)) grSHT n
  let x := qpOf s q
  if x.flushes.isEmpty ∧ (max 1 (rdF s (SHT_ACK n) SHT_ACK_EVERY) ≤ x.unackd ∨ smLast m ∨ smMark m) then
    sendAck q (ackable x) stOK s
  else s

/-- R317: FLUSHes whose earlier placements have all ended are acknowledged, in order. -/
def tryFlush : Nat → Nat → State → State
  | 0, _, s => s
  | n + 1, q, s =>
    let x := qpOf s q
    match x.flushes with
    | [] => s
    | f :: r =>
      if x.places.any fun p => p.read.isNone && psub f p.psn < 2 ^ 23 then s else
      let mine := x.fails.filter fun e => psub f e.1 < 2 ^ 23
      let low := mine.foldl (fun (b : Option (Nat × Nat)) e => match b with
        | none => some e
        | some y => if psub y.1 e.1 < 2 ^ 23 then some e else b) none
      let st := (low.map (·.2)).getD stOK
      let s := setQp s q { x with
        flushes := r, fails := x.fails.filter fun e => !(psub f e.1 < 2 ^ 23),
        flushed := (x.flushed ++ [(f, st)]).filter fun e => psub f e.1 < 2 ^ 22 }
      let s := sendAck q f st s
      let y := qpOf s q
      let s := if r.isEmpty ∧ ackable y ≠ f then sendAck q (ackable y) stOK s else s
      tryFlush n q s

/-- R313: a duplicate is discarded and answered with an ACK for RECV_PSN - 1. -/
def dupSeg (q : Nat) (s : State) : State := sendAck q (ackable (qpOf s q)) stOK (bump s (SHT_DISCARDS (qpEngine q)))

/-- What every data segment meets first: the queue pair's state and its PSN. `ok` goes on with an accepted PSN; `dup` handles a
duplicate. -/
def shtRecv (m : Msg) (dup ok : Nat → State → State) (s : State) : State :=
  let n := m.hdr.dst % 16
  let q := shtQp m
  if !shtTakes s n q then shtDiscard n q s else
  let s := if m.hdr.type = tWRITE_ACK then modQp s q fun x => { x with cpls := x.cpls ++ [(smPsn m, m.hdr)] } else s
  if blockFenced s grSHT n || regionOff s true n then sendNak q (smPsn m) stFENCED s else
  let x := qpOf s q
  let d := psub (smPsn m) x.recvPsn
  if d = 0 then ok q s
  else if d < 2 ^ 23 then
    let s := setQp (bump s (SHT_DISCARDS n)) q { x with gap := true, cpls := x.cpls.filter fun e => e.1 != smPsn m }
    if x.gap then s else sendNak q x.recvPsn shSEQ s
  else dup q s

/-- R324: what a key and range meet at a registration of a partition; none where they pass. -/
def regRefuses (s : State) (part key addr len right : Nat) : Option Nat :=
  let i := key % 2 ^ 14
  let r := shtReg s i
  if r.state = 2 then some stREVOKED
  else if r.state = 1 ∧ key / 2 ^ 14 % 256 = r.keygen ∧ key / 2 ^ 22 = 0 ∧ r.part = part ∧ bit r.rights right
    ∧ r.base ≤ addr ∧ addr + len ≤ r.base + r.len then none
  else some shKEY

/-! ### Placement -/

/-- The context of a placement (R316): its acknowledged writes carry the registration's KEYGEN. -/
def placeCtx (s : State) (q : Nat) (p : Place) : Ctx :=
  let c := shtCtx s q (jbPlace p.psn p.read.isSome)
  match p.reg with
  | some i => { c with gen := (shtReg s i).keygen }
  | none => c

/-- The write of a placement, in pieces that stay within 4 KiB. -/
def placeWrite (q : Nat) (p : Place) (s : State) : Nat × Ctx := (placeCtx s q p).writeSt p.addr p.data

/-- R313, R315: a placement is issued. -/
def addPlace (q : Nat) (p : Place) (s : State) : State :=
  let s := modQp s q fun x => { x with places := x.places ++ [p] }
  let c := (placeWrite q p s).2
  if c.stuck then c.askAll s else s

/-! ### Arriving segments -/

/-- R324: the receive entry into which the next SEND segment is placed, read from the ring where its message begins: the status of that read,
the entry, and none where the ring is empty. -/
def recvEntry (s : State) (q : Nat) : Nat × Option RecvMsg × Ctx :=
  let x := qpOf s q
  let c := shtCtx s q jbRQ
  match x.recvs.find? (!·.last) with
  | some r => (stOK, some r, c)
  | none =>
    if x.rqLog = 0 ∨ x.rqHead = x.rqTail then (stOK, none, c)
    else
      let (st, d, c) := c.readSt (x.rqBase + 32 * (x.rqHead % 2 ^ x.rqLog)) 32
      (st, some ⟨x.rqHead, leAt d 0 8, leAt d 8 8, leAt d 16 4, 0, 0, false, 0⟩, c)

/-- Whether a SEND segment waits until its receive entry is read: it is the one expected, and stays where it was delivered. -/
def sendWaits (n : Nat) (m : Msg) (s : State) : Bool :=
  let q := shtQp m
  m.hdr.dint && m.hdr.dst % 4096 == 0x200 + n && shtTakes s n q && !blockFenced s grSHT n && !regionOff s true n
    && smPsn m == (qpOf s q).recvPsn && (recvEntry s q).2.2.stuck

/-- SHT_SEND: R324 and R316. -/
def shtSendIn (m : Msg) (s : State) : State :=
  shtRecv m dupSeg (fun q s =>
    let (st, ent, c) := recvEntry s q
    if c.stuck then s
    else
      let s := farUsed c.used c.s
      if st ≠ stOK then qpErr q st none s else
      match ent with
      | none => sendNak q (smPsn m) shNO_RECEIVE s
      | some r =>
        if r.len < smAddr m + smLen m then sendNak q (smPsn m) shLENGTH s else
        let r' := { r with bytes := r.bytes + smLen m, left := r.left + 1, last := smLast m }
        let x := qpOf s q
        let rs := if x.recvs.any (!·.last) then x.recvs.map fun y => if y.id = r.id then r' else y else x.recvs ++ [r']
        let s := setQp s q { x with recvs := rs, rqHead := if smLast m then (x.rqHead + 1) % 2 ^ 32 else x.rqHead }
        acceptSeg q m 1 (addPlace q ⟨smPsn m, none, some r.id, none, r.addr + smAddr m, smData m⟩ s)) s

/-- SHT_WRITE: R324, R325. -/
def shtWriteIn (m : Msg) (s : State) : State :=
  shtRecv m dupSeg (fun q s =>
    match regRefuses s (qpOf s q).part (smKey m) (smAddr m) (smLen m) 0 with
    | some st => sendNak q (smPsn m) st s
    | none => acceptSeg q m 1 (addPlace q ⟨smPsn m, none, none, some (smKey m % 2 ^ 14), smAddr m, smData m⟩ s)) s

/-- The READ_RESP segments that serve a READ_REQ: one for each 4 KiB of it. -/
def respsOf (m : Msg) : List Resp :=
  let n := cdiv (smLen m) 4096
  (List.range n).map fun i =>
    ⟨padd (smPsn m) i, smAddr m + 4096 * i, min 4096 (smLen m - 4096 * i), 4096 * i, i == 0, i + 1 == n⟩

/-- READ_REQ. A duplicate is served again (R313). -/
def readReqIn (m : Msg) (s : State) : State :=
  let serveIt := fun (q : Nat) (s : State) => modQp s q fun x => { x with resps := x.resps ++ respsOf m }
  let checked := fun (q : Nat) (k : State → State) (s : State) =>
    match regRefuses s (qpOf s q).part (smKey m) (smAddr m) (smLen m) 1 with
    | some st => sendNak q (smPsn m) st s
    | none => k s
  shtRecv m (fun q s => checked q (serveIt q) (sendAck q (ackable (qpOf s q)) stOK s))
    (fun q => checked q fun s => acceptSeg q m (cdiv (smLen m) 4096) (serveIt q s)) s

/-- R317: a duplicate FLUSH that has been acknowledged takes its status again. -/
def dupFlush (m : Msg) (q : Nat) (s : State) : State :=
  match (qpOf s q).flushed.find? (·.1 == smPsn m) with
  | none => dupSeg q s
  | some e =>
    let s := sendAck q e.1 e.2 (bump s (SHT_DISCARDS (qpEngine q)))
    if ackable (qpOf s q) = e.1 then s else sendAck q (ackable (qpOf s q)) stOK s

/-- SHT_FLUSH: accepted at once, acknowledged by `tryFlush`. -/
def flushIn (m : Msg) (s : State) : State :=
  shtRecv m (dupFlush m) (fun q s =>
    let s := modQp s q fun x => { x with flushes := x.flushes ++ [smPsn m] }
    tryFlush ((qpOf s q).flushes.length) q (acceptSeg q m 1 s)) s

/-- READ_RESP at the requester: its placement is issued once. -/
def readRespIn (m : Msg) (s : State) : State :=
  let n := m.hdr.dst % 16
  let q := shtQp m
  if !shtTakes s n q then shtDiscard n q s else
  let x := qpOf s q
  let p := smPsn m
  let s := cplNow n m stOK s
  match x.wqes.find? fun w => w.op == 3 && w.out && psub p w.first < w.span && !w.got.contains p with
  | none => bump s (SHT_DISCARDS n)
  | some w =>
    let y := putWqe x { w with got := w.got ++ [p] }
    let s := addPlace q ⟨p, some w.id, none, none, w.laddr + smAddr m, smData m⟩ (setQp s q y)
    progress (bump s (SHT_SEGS_RX n)) grSHT n

/-! ### The end of a placement -/

/-- Receive messages whose segments have all been placed complete in ring order (R310, R316). -/
def retireRecvs : Nat → Nat → State → State
  | 0, _, s => s
  | n + 1, q, s =>
    match (qpOf s q).recvs with
    | [] => s
    | r :: rest =>
      if !(r.last && r.left == 0) then s else
      let s := modQp s q fun x => { x with recvs := rest }
      let (st, s) := writeCqe q r.wrId r.bytes 0x81 r.status s
      if st = stOK then retireRecvs n q s else qpErr q st none s

/-- A placement has ended with a status. -/
def placeEnded (q : Nat) (p : Place) (st : Nat) (s : State) : State :=
  let s := modQp s q fun x => { x with places := x.places.erase p }
  match p.read with
  | some id =>
    if st ≠ stOK then qpErr q st (some id) s
    else
      let s := modQp s q fun x => { x with wqes := x.wqes.map fun w =>
        if w.id = id then { w with placed := w.placed + p.data.length } else w }
      settleQp q s
  | none =>
    let x := qpOf s q
    let s := if st ≠ stOK then
        shtNotify (qpEngine q) x.owner 0x23 (q % 2048) st p.psn (modQp s q fun x => { x with fails := x.fails ++ [(p.psn, st)] })
      else s
    let s := match p.recv with
      | some id => modQp s q fun x => { x with recvs := x.recvs.map fun r =>
          if r.id = id then { r with left := r.left - 1, status := if r.status = 0 then st else r.status } else r }
      | none => s
    let s := retireRecvs ((qpOf s q).recvs.length) q s
    tryFlush ((qpOf s q).flushes.length) q s

/-- PLACEMENT_DONE: a placement of a queue pair completes, or the late reply of one that DRAIN ended is dropped. -/
def placementDone (q psn : Nat) (s : State) : State :=
  if s.sht.late.contains (q, psn) then
    bump { s with sht := { s.sht with late := s.sht.late.erase (q, psn) } } (SHT_LATE_DROPS (qpEngine q))
  else
    match (qpOf s q).places.find? (·.psn == psn) with
    | none => s
    | some p =>
      let (st, c) := placeWrite q p s
      if c.stuck then c.askAll s else placeEnded q p st (farUsed c.used c.s)

/-! ### Acknowledgement at the requester (R319 to R322) -/

/-- R319: growth of the window by clean bytes. -/
def growWindow : Nat → Nat → Nat → Nat → Nat × Nat
  | 0, _, w, c => (w, c)
  | n + 1, hi, w, c => if w = 0 ∨ c < w then (w, c) else growWindow n hi (min hi (w + 232)) (c - w)

/-- The segments below a PSN leave; each request is credited with its bytes. The ACK's STATUS is that of the FLUSH with its PSN (R317); an
earlier FLUSH, whose own ACK was lost, takes OK (log entry 128). -/
def releaseTo (x : Qp) (una : Nat) (status : Nat) : Qp :=
  let gone := x.segs.filter fun g => psub una (padd g.psn g.span) < 2 ^ 23
  let x := { x with segs := x.segs.filter (fun g => !gone.contains g),
                    resend := x.resend.filter fun p => !gone.any (·.psn == p),
                    inflight := x.inflight - (gone.map (·.cost)).sum }
  gone.foldl (fun x g => { x with wqes := x.wqes.map fun w =>
    if w.id = g.wqe then { w with acked := w.acked + g.len, answer := if w.op ≠ 4 then w.answer else some (if padd g.psn 1 = una then status else stOK) } else w }) x

/-- ACK. -/
def ackIn (m : Msg) (s : State) : State :=
  let n := m.hdr.dst % 16
  let q := shtQp m
  if !shtTakes s n q then shtDiscard n q s else
  let s := cplNow n m stOK s
  let x := qpOf s q
  let una := padd (smPsn m) 1
  let adv := psub una x.unaPsn
  if psub x.sendPsn x.unaPsn < adv then s else
  let y := releaseTo x una (smStatus m)
  let bytes := x.inflight - y.inflight
  let y := if adv = 0 then y
    else { y with unaPsn := una, retries := 0, timerDue := if y.segs.isEmpty then 0 else now s + retryNs s q { y with retries := 0 } }
  let lo := 1024 * rdF s (SHT_WINDOW n) SHT_WINDOW_MIN
  let hi := 1024 * rdF s (SHT_WINDOW n) SHT_WINDOW_MAX
  let halve := smEcho m && psub (smPsn m) x.halvePsn < 2 ^ 23
  let y := if halve then { y with window := max lo (y.window / 2 / 64 * 64), clean := 0, halvePsn := y.sendPsn }
    else if smEcho m then y
    else
      let (w, c) := growWindow (y.clean + bytes + 1) hi y.window (y.clean + bytes)
      { y with window := w, clean := c }
  let s := shtDrop q (fun j => j % 8 == 4 && psub (smPsn m) (j / 8) < 2 ^ 23) s
  settleQp q (setQp (if halve then bump s (SHT_ECHOES n) else s) q y)

/-- R321: everything from UNA_PSN is sent again. -/
def goBack (x : Qp) : Qp := { x with resend := x.segs.map (·.psn) }

/-- An expiry (R321, R322). -/
def shtExpiry (q : Nat) (s : State) : State :=
  let n := qpEngine q
  let x := qpOf s q
  if (x.state ≠ qsRTS ∧ x.state ≠ qsDRAINING) ∨ x.segs.isEmpty then s else
  let s := bump s (SHT_RETRIES n)
  if max 1 (rdF s (SHT_RETRY n) SHT_RETRY_LIMIT) ≤ x.retries + 1 then qpErr q shRETRY_EXCEEDED (oldestWqe x) s
  else
    let x := goBack { x with retries := x.retries + 1 }
    setQp s q { x with timerDue := now s + retryNs s q x }

/-- NAK. -/
def nakIn (m : Msg) (s : State) : State :=
  let n := m.hdr.dst % 16
  let q := shtQp m
  if !shtTakes s n q then shtDiscard n q s else
  let s := cplNow n m stOK s
  let x := qpOf s q
  let st := smStatus m
  let p := smPsn m
  if st = shSEQ then
    if x.nakSeq = some p then s else setQp s q (goBack { x with nakSeq := some p })
  else if st = shNO_RECEIVE then shtExpiry q s
  else nakFatal q p st s

/-- ACK_DELAY_EXPIRE. -/
def ackDelay (q : Nat) (s : State) : State :=
  let x := qpOf s q
  if (x.state = qsRTS ∨ x.state = qsDRAINING) ∧ x.unackd ≠ 0 then sendAck q (ackable x) stOK s else s

/-! ### Registrations (R325) -/

/-- The placements of a registration that are outstanding, by queue pair. -/
def regPlaces (s : State) (i : Nat) : List (Nat × Place) :=
  s.sht.qps.flatMap fun e => (e.2.places.filter fun p => p.reg == some i).map fun p => (e.1, p)

/-- REVOKE_DONE. -/
def revokeDone (i : Nat) (s : State) : State :=
  let r := shtReg s i
  if r.state = 2 ∧ (regPlaces s i).isEmpty then
    let s := setShtReg s i { keygen := (r.keygen + 1) % 256 }
    shtNotify 0 r.notify 0x24 i 0 r.ended s
  else s

/-- REVOKE_LATE. -/
def revokeLate (i : Nat) (s : State) : State :=
  let r := shtReg s i
  let ps := regPlaces s i
  if r.state ≠ 2 ∨ ps.isEmpty then s else
  let s := ps.foldl (fun s e =>
    placeEnded e.1 e.2 stTIER_LATE (shtDrop e.1 (· == jbPlace e.2.psn false)
      { s with sht := { s.sht with late := s.sht.late ++ [(e.1, e.2.psn)] } })) s
  raise srcSHT_REVOKE_LATE 0 (setShtReg s i { r with ended := r.ended + ps.length })

/-! ### Resets and fences (Table SHT-6) -/

/-- A queue pair returns to RESET with GEN + 1. -/
def qpReset (q : Nat) (s : State) : State := setQp (shtDrop q (fun _ => true) s) q { gen := ((qpOf s q).gen + 1) % 256 }

/-- An engine reset: every queue pair but those in RESET enters ERROR, and its work in progress is discarded (R33). -/
def shtEngineReset (n : Nat) (s : State) : State :=
  (s.sht.qps.filter fun e => qpEngine e.1 == n && e.2.state != qsRESET).foldl (fun s e =>
    modQp (shtDrop e.1 (fun j => j != jbCQ) (qpFail e.1 shENGINE_RESET (oldestWqe e.2) s)) e.1 fun x => { x with places := [], recvs := [], fails := [] }) s

/-- A partition fence. -/
def shtFence (part : Nat) (s : State) : State :=
  (s.sht.qps.filter fun e => e.2.part == part && (e.2.state == qsRTS || e.2.state == qsDRAINING)).foldl
    (fun s e => qpErr e.1 stFENCED (oldestWqe e.2) s) s

/-! ### Actions (Table SHT-2) -/

def acQP_CREATE : Nat := 0x0400
def acQP_CONNECT : Nat := 0x0401
def acQP_DRAIN : Nat := 0x0402
def acQP_RESET : Nat := 0x0403
def acREG_CREATE : Nat := 0x0410
def acREG_REVOKE : Nat := 0x0411

/-- Whether an action exists on a page: SHT unit `n` page 0, or SHT unit 0 page 1. -/
def shtAction (code page : Nat) : Bool :=
  if acQP_CREATE ≤ code ∧ code ≤ acQP_RESET then csrGroup page == grSHT && csrPage page == 0 && csrUnit page < 16
  else (code == acREG_CREATE || code == acREG_REVOKE) && page == csrAddr grSHT 0 1 0

/-- The bytes of an action's descriptor; 0 where DATA is the argument itself. -/
def shtDescLen (code : Nat) : Nat :=
  if code = acQP_CREATE then 64 else if code = acQP_CONNECT then 16 else if code = acREG_CREATE then 32 else 0

/-- The queue pair that an action names. -/
def actQp (page code dat : Nat) (d : Bytes) : Nat :=
  2048 * csrUnit page + (if code = acQP_CREATE ∨ code = acQP_CONNECT then leAt d 0 2 else dat) % 2048

/-- The registration that an action names. -/
def actReg (code dat : Nat) (d : Bytes) : Nat := (if code = acREG_CREATE then leAt d 16 2 else dat) % 2 ^ 14

/-- QP_CREATE: the QP index at 0, PARTITION (context byte 0x01) at 2, context bytes 0x04 to 0x2B at their own offsets. -/
def createQp (d : Bytes) (gen : Nat) : Qp where
  state := qsINIT
  gen := gen
  part := leAt d 2 1 % 16
  owner := leAt d 4 4 % 2 ^ 24
  peer := leAt d 8 4 % 2 ^ 24
  peerQp := leAt d 12 4 % 2 ^ 24
  sqBase := leAt d 0x10 8
  rqBase := leAt d 0x18 8
  cqBase := leAt d 0x20 8
  sqLog := leAt d 0x28 1
  rqLog := leAt d 0x29 1
  cqLog := leAt d 0x2A 1
  flags := leAt d 0x2B 1 % 2

/-- Whether a ring's object is LIVE and of the partition; an object of another registrar is its own switch's to check. -/
def ringOk (s : State) (part a : Nat) : Bool :=
  a / 2 ^ 52 % 4096 != ownId s || (match objByAddr s a with
    | some i => (objOf s i).state == 1 && (objOf s i).part == part
    | none => false)

def createOk (s : State) (q : Nat) (d : Bytes) : Bool :=
  let x := createQp d 0
  (qpOf s q).state == qsRESET
    && (x.owner / 4096 == ownId s && ownerPRG s (x.owner % 4096 / 256) == some x.part && !trustedPort s (x.owner % 4096 / 16))
    && 4 ≤ x.sqLog && x.sqLog ≤ 12 && (x.rqLog == 0 || (4 ≤ x.rqLog && x.rqLog ≤ 12)) && 4 ≤ x.cqLog && x.cqLog ≤ 16
    && ringOk s x.part x.sqBase && ringOk s x.part x.cqBase && (x.rqLog == 0 || ringOk s x.part x.rqBase)

/-- Item 3 of R53: the From state of Table SHT-2 and the action's own rules. -/
def shtValue (page code dat : Nat) (d : Bytes) (s : State) : Bool :=
  let q := actQp page code dat d
  if code = acQP_CREATE then createOk s q d
  else if code = acQP_CONNECT then (qpOf s q).state == qsINIT
  else if code = acQP_DRAIN then (qpOf s q).state == qsRTS
  else if code = acREG_CREATE then (shtReg s (actReg code dat d)).state == 0
  else if code = acREG_REVOKE then (shtReg s (actReg code dat d)).state == 1
  else true

/-- The partition whose tenant may stage the entry (R307). -/
def shtPart (page code dat : Nat) (d : Bytes) (s : State) : Nat :=
  if code = acQP_CREATE then leAt d 2 1 % 16
  else if code = acREG_CREATE then leAt d 18 1 % 16
  else if code = acREG_REVOKE then (shtReg s (actReg code dat d)).part
  else (qpOf s (actQp page code dat d)).part

/-- The commit of an entry; a queue pair that left its From state is skipped (R307). `psns`: the SEND_PSN in the peers' own
QP_CONNECTs, where it differs from the one here. -/
def shtCommit (page code dat : Nat) (d : Bytes) (psns : List (Nat × Nat)) (s : State) : State :=
  let q := actQp page code dat d
  let x := qpOf s q
  let skip := bump s (SHT_ACTION_SKIPPED (qpEngine q))
  if code = acQP_CREATE then
    if x.state = qsRESET then setQp s q (createQp d x.gen) else skip
  else if code = acQP_CONNECT then
    if x.state ≠ qsINIT then skip else
    let psn := leAt d 12 4 % 2 ^ 24
    let rpsn := match psns.find? (·.1 == q) with
      | some e => e.2 % 2 ^ 24
      | none => psn
    setQp s q { x with state := qsRTS, peer := leAt d 4 4 % 2 ^ 24, peerQp := leAt d 8 4 % 2 ^ 24, sendPsn := psn, unaPsn := psn,
                       halvePsn := psn, recvPsn := rpsn, window := 1024 * rdF s (SHT_WINDOW (qpEngine q)) SHT_WINDOW_INIT }
  else if code = acQP_DRAIN then
    if x.state = qsRTS then tryDrain q (setQp (shtDrop q (· == jbSQ) s) q { x with state := qsDRAINING }) else skip
  else if code = acQP_RESET then qpReset q s
  else if code = acREG_CREATE then
    let i := actReg code dat d
    setShtReg s i { state := 1, keygen := (shtReg s i).keygen, base := leAt d 0 8, len := leAt d 8 8, part := leAt d 18 1 % 16,
                    rights := leAt d 19 1 % 4, notify := leAt d 20 4 % 2 ^ 24, ended := 0 }
  else if code = acREG_REVOKE then
    let i := actReg code dat d
    if (shtReg s i).state = 1 then setShtReg s i { shtReg s i with state := 2 } else s
  else s

end Sys2Proof.Machine
end

