-- ==== Sys2Proof/Machine/Security.lean ====
section
/-! DEFINITION. Partitions (R393 to R399), role keys and approvals (R400, R402), key slots (R403 to R408), consent (R412 to R414) and
attestation (R415, R416). What an action does beyond these tables (fences, generations) stands in Faults. -/

namespace Sys2Proof.Machine

/-! ### Units of a partition -/

/-- The region that holds a unit: whether it is a port region, and its index. -/
def unitRegion (g u : Nat) : Option (Bool × Nat) :=
  if g = grCRG then some (false, u)
  else if g = grTBK then some (false, u / 17)
  else if g = grSTN then some (false, u / 32)
  else if g = grBOB then some (false, u / 256)
  else if g = grPRG ∨ g = grSHT ∨ g = grCMB ∨ g = grGND then some (true, u)
  else if g = grPRT ∨ g = grQOS then some (true, u / 16)
  else none

/-- The partition that owns a region. -/
def ownerRegion (s : State) (r : Bool × Nat) : Option Nat := if r.1 then ownerPRG s r.2 else ownerCRG s r.2

/-- The partition that owns a unit (R393). -/
def unitOwner (s : State) (g u : Nat) : Option Nat := (unitRegion g u).bind (ownerRegion s)

/-- The compute and the port regions of a partition, as regions. -/
def partRegions (s : State) (p : Nat) : List (Bool × Nat) :=
  (maskBits (rdF s (SEC_PART_MEMBERS p) SEC_PART_MEMBERS_CRG) 16).map (fun n => (false, n))
    ++ (maskBits (rdF s (SEC_PART_MEMBERS p) SEC_PART_MEMBERS_PRG) 16).map (fun n => (true, n))

/-! ### Digests in registers -/

/-- A 32-byte digest held in four registers. -/
def digestAt (s : State) (a : Nat → Nat) : Bytes := (List.range 4).flatMap fun i => leBytes 8 (rdReg s (a i)).toNat

/-- Set four registers to a digest. -/
def putDigest (a : Nat → Nat) (d : Bytes) (s : State) : State :=
  (List.range 4).foldl (fun s i => wrReg s (a i) (BitVec.ofNat 64 (leAt d (8 * i) 8))) s

/-- R402: the custodian bank in force (the highest one burned), and its digest. -/
def custKeyBank (i : Nat) : Bytes := bslice fuses (72 + 32 * i) 32
def custBank : Nat := (List.range 4).foldl (fun b i => if (custKeyBank i).all (· == 0) then b else i) 0

/-- R400: an approval buffer verifies over a message, under a role's key digest. -/
def approvalOk (key : Bytes) (buf : Bytes) (msg : Bytes) : Bool :=
  shake256 (bslice buf 0 68) 32 == key && Xmss.verify (bslice buf 0 68) msg (bslice buf 0x80 9893)

/-! ### The partition table (R396, R397, R399) -/

/-- The descriptor of PART_CREATE, PART_GROW and PART_SHRINK: SEC_PART_MEMBERS, SEC_PART_GRANT0–7 and the tenant key digest, in that
order (DEDUCED, log entry 20). -/
def pcMembers (d : Bytes) : Nat := leAt d 0 8
def pcGrant (d : Bytes) (i : Nat) : Word := BitVec.ofNat 64 (leAt d (8 + 8 * i) 8)
def pcKey (d : Bytes) : Bytes := bslice d 72 32

/-- A grant as numbers: tier, CXL port, first GiB and size. -/
structure Grant where
  tier : Nat
  cxp : Nat
  base : Nat
  size : Nat
  deriving DecidableEq, Repr

def grantOf (w : Word) : Option Grant :=
  if SEC_PART_GRANT_VALID.get w = 1 then
    some ⟨SEC_PART_GRANT_TIER.get w, SEC_PART_GRANT_CXP.get w, SEC_PART_GRANT_BASE.get w, SEC_PART_GRANT_SIZE.get w⟩
  else none

/-- Grants of the same range kind that meet (R393). -/
def grantsMeet (a b : Grant) : Bool := a.tier == b.tier && (a.tier == 0 || a.cxp == b.cxp) && overlap a.base a.size b.base b.size

/-- R396: TIER 1 is refused, and a T0 grant lies within 1,536 GiB. -/
def grantOk (a : Grant) : Bool := a.tier != 1 && (a.tier != 0 || a.base + a.size ≤ 1536)

/-- The grants of a descriptor, with their number. -/
def pcGrants (d : Bytes) : List (Nat × Grant) := (List.range 8).filterMap fun i => (grantOf (pcGrant d i)).map fun g => (i, g)

/-- The members and the grants of the partition table, by partition. -/
structure PartTable where
  members : Nat → Nat
  grants : List (Nat × Nat × Grant)

/-- Every grant of a descriptor is well formed and meets no other grant. -/
def pcGrantsOk (d : Bytes) (t : PartTable) : Bool :=
  (pcGrants d).all fun x => grantOk x.2 && (pcGrants d).all (fun y => x.1 == y.1 || !grantsMeet x.2 y.2)
    && t.grants.all fun y => !grantsMeet x.2 y.2.2

/-- No unit of a members image belongs to another partition. -/
def membersFree (t : PartTable) (p m : Nat) : Bool := (List.range 16).all fun q => q == p || t.members q &&& m == 0

/-- R393: what a descriptor adds to a partition, no partition has. -/
def pcTableOk (p : Nat) (d : Bytes) (t : PartTable) : Bool := membersFree t p (pcMembers d % 2 ^ 40) && pcGrantsOk d t

def partCreateOk (p : Nat) (d : Bytes) (t : PartTable) (s : State) : Bool :=
  partState s p == 0 && pcTableOk p d t && !(pcKey d).all (· == 0)

/-- R399: PART_GROW adds to what the partition holds: units that no partition owns, and grants in numbers not yet VALID. -/
def partGrowOk (p : Nat) (d : Bytes) (t : PartTable) (s : State) : Bool :=
  partState s p != 0 && pcTableOk p d t && (pcGrants d).all fun x => !t.grants.any fun y => y.1 == p && y.2.1 == x.1

/-- Whether a range of a live extent of the switch lies in a grant. -/
def grantLive (s : State) (p : Nat) (g : Grant) : Bool :=
  s.mem.exts.any fun e => e.2.state != esFREE && (objOf s e.2.obj).part == p && e.2.home == ownId s && e.2.tier == g.tier
    && (g.tier == 0 || trayPort e.2.phys == g.cxp)
    && overlap (if g.tier = 0 then e.2.phys % 2 ^ 50 else e.2.phys % 2 ^ 46) e.2.len (g.base * 2 ^ 30) (g.size * 2 ^ 30)

/-- R399: what PART_SHRINK removes must be held and idle. -/
def partShrinkOk (p : Nat) (d : Bytes) (s : State) : Bool :=
  let m := pcMembers d
  let held := (rdReg s (SEC_PART_MEMBERS p)).toNat
  partState s p != 0 && m % 2 ^ 40 &&& held == m % 2 ^ 40
    && (maskBits m 16).all (fun n => (crgDom s n).isNone && (List.range 256).all fun b => bobState s (256 * n + b) == bsIDLE)
    && (maskBits (m / 2 ^ 16) 16).all (fun n =>
      s.sht.qps.all (fun e => qpEngine e.1 != n || e.2.state == 0)
        && s.ground.mcast.all fun e => (mcLocals s e.1).all (fun ep => ep / 256 != n)
            && (mcFwds s e.1).all fun f => f.1 / 16 != n)
    && (maskBits (m / 2 ^ 32) 8).all (fun c => (sfind s.mem.doms c).isNone)
    && (pcGrants d).all fun x => rdReg s (SEC_PART_GRANT p x.1) == pcGrant d x.1 && !grantLive s p x.2

/-- SEC_PART_STATE fields. -/
def setPartState (p v : Nat) (s : State) : State := wrF s (SEC_PART_STATE p) SEC_PART_STATE_STATE v
def pgenOf (s : State) (p : Nat) : Nat := rdF s (SEC_PART_STATE p) SEC_PART_STATE_PGEN

/-- R414: a consent ends. -/
def consentEnd (p : Nat) (s : State) : State :=
  let s := { s with sec := { s.sec with consents := sdel s.sec.consents p } }
  wrReg (wrF s (SEC_PART_STATE p) SEC_PART_STATE_CONSENT 0) (SEC_PART_CONSENT_END p) 0

/-- PGEN advances, which ends a consent (R414). -/
def pgenNext (p : Nat) (s : State) : State := consentEnd p (wrF s (SEC_PART_STATE p) SEC_PART_STATE_PGEN (pgenOf s p + 1))

def setKeyState (p v : Nat) (s : State) : State := wrF s (SEC_PART_STATE p) SEC_PART_STATE_KEY_STATE v

/-- R399: PART_CREATE commits. -/
def partCreate (p : Nat) (d : Bytes) (s : State) : State :=
  let s := wrReg s (SEC_PART_MEMBERS p) (BitVec.ofNat 64 (pcMembers d % 2 ^ 40))
  let s := (List.range 8).foldl (fun s i => wrReg s (SEC_PART_GRANT p i) (pcGrant d i &&& 0x803FFFFFFFFFFFFF#64)) s
  let s := putDigest (SEC_PART_TKEY p) (pcKey d) s
  setKeyState p 0 (setSlot (pgenNext p (setPartState p 1 s)) p {})

/-- R399: PART_GROW commits. -/
def partGrow (p : Nat) (d : Bytes) (s : State) : State :=
  let s := wrReg s (SEC_PART_MEMBERS p) (rdReg s (SEC_PART_MEMBERS p) ||| BitVec.ofNat 64 (pcMembers d % 2 ^ 40))
  (pcGrants d).foldl (fun s x => wrReg s (SEC_PART_GRANT p x.1) (pcGrant d x.1 &&& 0x803FFFFFFFFFFFFF#64)) s

/-- R399: PART_SHRINK takes units and grants out of the table. -/
def partShrink (p : Nat) (d : Bytes) (s : State) : State :=
  let s := wrReg s (SEC_PART_MEMBERS p) (rdReg s (SEC_PART_MEMBERS p) &&& ~~~(BitVec.ofNat 64 (pcMembers d % 2 ^ 40)))
  (pcGrants d).foldl (fun s x => wrReg s (SEC_PART_GRANT p x.1) 0) s

/-! ### Keys (R403 to R408) -/

/-- R404: the device's keys, derived from the device-unique secret. -/
def deviceKem : Kem.Key := Kem.keyGen (shake256 ((List.range 32).map Config.secret ++ ascii "HX48-KEM") 64)

/-- R404: the key-encryption key of a blob. -/
def kbKek (d : Bytes) : Bytes :=
  shake256 (Kem.decaps deviceKem (bslice d 24 1568) ++ ascii "HX48-KEK" ++ bslice d 16 8 ++ bslice d 7 1 ++ bslice d 8 1) 32
def kbKey (d : Bytes) : Option Bytes := aesUnwrap (kbKek d) (bslice d 1592 40)
def kbLegacy (d : Bytes) : Option Bytes := aesUnwrap (kbKek d) (bslice d 1632 72)
def kbHasLegacy (d : Bytes) : Bool := bit (leAt d 6 1) 0

/-- R404: the checks of a key blob; VERSION is one of them too (log entry 63). -/
def blobOk (p : Nat) (d : Bytes) (s : State) : Bool :=
  leAt d 0 4 == 0x424B5848 && leAt d 4 2 == 1 && leAt d 7 1 % 16 == p
    && leAt d 8 1 == (rdF s (SEC_PART_STATE p) SEC_PART_STATE_KEYGEN + 1) % 256
    && leAt d 16 8 == fuseDeviceId && (kbKey d).isSome && (!kbHasLegacy d || (kbLegacy d).isSome)

/-- R405, Table SEC-3: a key is loaded, or a rotation starts; the salt is the digest that the approvals signed. -/
def keyTake (p : Nat) (d salt : Bytes) (rotate : Bool) (s : State) : State :=
  let gen := (rdF s (SEC_PART_STATE p) SEC_PART_STATE_KEYGEN + 1) % 256
  let old := slotOf s p
  let k : WorkKey := { k := (kbKey d).getD [], part := p, gen := gen, salt := salt }
  let legacy := if kbHasLegacy d then kbLegacy d else old.legacy
  let s := setSlot s p { cur := some k, prev := if rotate then old.cur else none, legacy := legacy }
  setKeyState p (if rotate then 2 else 1) (wrF s (SEC_PART_STATE p) SEC_PART_STATE_KEYGEN gen)

/-- R407: a rotation ends. -/
def keyCommit (p : Nat) (s : State) : State := setKeyState p 1 (setSlot s p { slotOf s p with prev := none })

/-- R408: what partitions sealed with no key loaded verifies no more. -/
def dropKeyless (p : Nat → Bool) (s : State) : State :=
  modMem s fun m => { m with sectors := m.sectors.filter fun e => !(p e.2.key.part && e.2.key.k.isEmpty) }

/-- R408: the slot is erased, and nothing stored verifies from then on. -/
def keyZeroize (p : Nat) (s : State) : State := bump (dropKeyless (· == p) (setKeyState p 0 (setSlot s p {}))) SEC_ZEROIZES

/-- The physical ranges of a partition's stored data on this switch: live extents homed here, and hosted ones. An extent in the HX-3208
layout has no sectors (R175). -/
def keyRanges (s : State) (p : Nat) : List (Nat × Nat) :=
  (s.mem.exts.filter fun e => e.2.state != esFREE && !e.2.legacy && (objOf s e.2.obj).part == p && e.2.home == ownId s).map
      (fun e => (e.2.phys, e.2.len))
    ++ (s.mem.hosted.filter fun h => h.part == p).map fun h => (h.phys, h.len)

/-- R407: a sector of a range (base and length) that the sweep reads is rewritten under the current key where it verifies under the previous
one. -/
def resealSector (p : Nat) (cur : WorkKey) (r : Nat × Nat) (sec : Nat) (s : State) : State :=
  let a := max (256 * sec) r.1
  let (st, s) := readSector p sec (blockMask a (min (256 * sec + 256) (r.1 + r.2) - a)) (trayMoved false (256 * sec) 256 s)
  match sfind s.mem.sectors sec with
  | some t =>
    if st = stOK ∧ some t.key = (slotOf s p).prev then
      trayMoved true (256 * sec) 256 (blocksMoved (256 * sec) 4 (modMem s fun m => { m with
        errs := skeep (fun k => k / 320 != sec) m.errs
        sectors := sput m.sectors sec { t with key := cur } }))
    else s
  | none => s

/-- The sectors of a range that this model lists: sealed ones, and those with an erroneous byte. -/
def listedSectors (s : State) (p n : Nat) : List Nat :=
  ((s.mem.sectors.map (fun (e : Nat × Sector) => e.1)) ++ s.mem.errs.map (fun (e : Nat × Nat) => e.1 / 320)).eraseDups.filter fun k => overlap (256 * k) 256 p n

/-- R407, R249: the sectors of a range that are not listed were not written since their allocation: the sweep's reads of them fail, at the hub
of each. -/
def sweepUnwritten (p n : Nat) (s : State) : State :=
  let a := p / 256
  let b := cdiv (p + n) 256
  let seen := listedSectors s p n
  (List.range 4).foldl (fun s h =>
    let all := if isTray p then (if homeHub p = h then b - a else 0) else (b + 3 - h) / 4 - (a + 3 - h) / 4
    let k := all - (seen.filter fun x => homeHub (256 * x) == h).length
    if k = 0 then s else raise srcMRG_MAC_FAIL h (bump s (MRG_MAC_FAIL h) k)) s

/-- R407: the sweep of a rotation reads every sector of the partition's live extents. -/
def keySweep (p : Nat) (s : State) : State :=
  match (slotOf s p).cur with
  | none => s
  | some cur =>
    (keyRanges s p).foldl (fun s r => (listedSectors s r.1 r.2).foldl (fun s k => resealSector p cur r k s) (sweepUnwritten r.1 r.2 s)) s

/-! ### Consent and debug (R412 to R414) -/

/-- R413: a token that CONSENT_LOAD accepts; MAGIC and VERSION are checked too (log entry 63). -/
def consentOk (p : Nat) (d : Bytes) (s : State) : Bool :=
  leAt d 0 4 == 0x4E435848 && leAt d 4 2 == 1 && leAt d 8 8 == fuseDeviceId && leAt d 0x10 1 % 16 == p && leAt d 0x11 1 == pgenOf s p
    && leAt d 0x18 8 ≤ now s && now s ≤ leAt d 0x20 8
    && approvalOk (digestAt s (SEC_PART_TKEY p)) (bslice d 0x40 10021) (bslice d 0 0x40)

/-- R413: a token is loaded and replaces the previous one. -/
def consentLoad (p : Nat) (d : Bytes) (s : State) : State :=
  let c : Consent := { scope := leAt d 6 2 % 4, notAfter := leAt d 0x20 8, digest := shake256 (bslice d 0 10085) 32 }
  let s := { s with sec := { s.sec with consents := sput s.sec.consents p c } }
  wrReg (wrF s (SEC_PART_STATE p) SEC_PART_STATE_CONSENT c.scope) (SEC_PART_CONSENT_END p) (BitVec.ofNat 64 c.notAfter)

/-- R414: device time passes NOT_AFTER. -/
def consentExpire (p : Nat) (s : State) : State :=
  match sfind s.sec.consents p with
  | some c => if c.notAfter < now s then consentEnd p s else s
  | none => s

/-- The consents in force (R414). -/
def liveConsents (s : State) : SMap Consent := s.sec.consents.filter fun e => now s ≤ e.2.notAfter

/-- Whether a partition's DEBUG consent is in force. -/
def debugConsent (s : State) (p : Nat) : Bool :=
  match sfind (liveConsents s) p with
  | some c => bit c.scope 0
  | none => false

/-- R412: debug access to a unit: units of an owner need its DEBUG consent. -/
def debugAllowed (s : State) (g u : Nat) : Bool :=
  match unitOwner s g u with
  | some p => debugConsent s p
  | none => true

/-! ### Attestation (R415, R416, Table SEC-6) -/

/-- A section: TYPE, reserved, LENGTH, contents, padded to 8 bytes. -/
def section6 (type : Nat) (c : Bytes) : Bytes :=
  leBytes 2 type ++ zeros 2 ++ leBytes 4 c.length ++ c ++ zeros ((8 - c.length % 8) % 8)

/-- An entry of section 5. -/
def partEntry (s : State) (p : Nat) : Bytes :=
  let st := SEC_PART_STATE p
  let prg := rdF s (SEC_PART_MEMBERS p) SEC_PART_MEMBERS_PRG
  leBytes 1 (partState s p) ++ leBytes 1 (pgenOf s p) ++ leBytes 1 (rdF s st SEC_PART_STATE_KEYGEN) ++ leBytes 1 (keyState s p)
    ++ leBytes 1 (match sfind (liveConsents s) p with | some c => c.scope | none => 0) ++ zeros 3 ++ leBytes 8 (rdReg s (SEC_PART_MEMBERS p)).toNat
    ++ ((List.range 8).flatMap fun i => leBytes 8 (rdReg s (SEC_PART_GRANT p i)).toNat)
    ++ ((List.range 16).flatMap fun n => leBytes 2 (if bit prg n then 0xFFFF else 0))
    ++ ((List.range 16).flatMap fun n => leBytes 4 (if bit prg n then 0xFFFFFFFF else 0))
    ++ digestAt s (SEC_PART_TKEY p)

/-- The live extents in the HX-3208 layout (R175). -/
def legacyExts (s : State) : List (Nat × Ext) := s.mem.exts.filter fun e => e.2.state != esFREE && e.2.legacy

/-- The sections in order. -/
def attestSections (s : State) : Bytes :=
  section6 1 Config.certs
    ++ section6 2 (bslice Config.romDigest 0 32 ++ bslice Config.loaderDigest 0 32 ++ bslice s.boot.digest 0 32
        ++ leBytes 8 (rdReg s CHP_FW_VERSION).toNat)
    ++ section6 3 (bslice (s.boot.shadow.getD []) 0 256 ++ leBytes 1 custBank)
    ++ section6 4 (leBytes 8 (rdReg s SEC_DEBUG).toNat ++ leBytes 4 s.sec.sessions
        ++ (liveConsents s).flatMap fun e => leBytes 1 e.1 ++ leBytes 2 e.2.scope ++ leBytes 8 e.2.notAfter ++ bslice e.2.digest 0 32)
    ++ section6 5 ((List.range 16).flatMap (partEntry s))
    ++ section6 6 (leBytes 4 (legacyExts s).length ++ zeros 4 ++ (legacyExts s).flatMap fun e =>
        leBytes 1 (objOf s e.2.obj).part ++ leBytes 1 (trayPort e.2.phys) ++ zeros 6 ++ leBytes 8 (e.2.phys % 2 ^ 46) ++ leBytes 8 e.2.len
          ++ leBytes 8 (extAddr s e.1))
    ++ section6 7 deviceKem.ek

/-- The report up to its signature. -/
def attestBody (s : State) (nonce : Bytes) (index : Nat) : Bytes :=
  let sec := attestSections s
  let flags := (!(legacyExts s).isEmpty).toNat + 2 * (!(liveConsents s).isEmpty).toNat + 4 * (rdF s SEC_DEBUG SEC_DEBUG_JTAG == 2).toNat
  leBytes 4 0x54415848 ++ leBytes 2 1 ++ leBytes 2 flags ++ leBytes 4 (0x80 + sec.length) ++ zeros 4 ++ bslice nonce 0 32
    ++ leBytes 8 fuseDeviceId ++ leBytes 8 (now s) ++ leBytes 8 index ++ zeros 56 ++ sec

/-- The address of the report buffer. -/
def attestBuf (s : State) : Nat := rdF s SEC_ATTEST_SRC SEC_ATTEST_SRC_ADDR * 2 ^ 16

/-- R415: GO: the nonce is taken from the buffer. A GO while a report is in progress changes nothing. -/
def attestGo (s : State) : State :=
  if rdBit s SEC_ATTEST_CTL SEC_ATTEST_CTL_BUSY then s else
  let s := { s with sec := { s.sec with report := cdLoad s (attestBuf s) 32 } }
  wrF s SEC_ATTEST_CTL SEC_ATTEST_CTL_BUSY 1

/-- R416: the report ends: the index advances first. `stored` says whether the state-store die took the new index. -/
def attestDone (stored : Bool) (s : State) : State :=
  if !rdBit s SEC_ATTEST_CTL SEC_ATTEST_CTL_BUSY then s else
  let s := wrF s SEC_ATTEST_CTL SEC_ATTEST_CTL_BUSY 0
  let s := wrF s SEC_ATTEST_CTL SEC_ATTEST_CTL_LENGTH 0
  if 2 ^ 40 ≤ s.sec.index then wrF s SEC_ATTEST_CTL SEC_ATTEST_CTL_RESULT 3
  else if !stored then raise srcSEC_SIGN_STATE 16 (wrF s SEC_ATTEST_CTL SEC_ATTEST_CTL_RESULT 2)
  else
    let i := s.sec.index
    let body := attestBody s s.sec.report i
    let rep := body ++ bslice (Config.sign i body) 0 9893
    let s := { s with sec := { s.sec with index := i + 1, report := [] } }
    let s := wrF (cdWrite s (attestBuf s) rep) SEC_ATTEST_CTL SEC_ATTEST_CTL_RESULT 1
    bump (wrF s SEC_ATTEST_CTL SEC_ATTEST_CTL_LENGTH (rep.length % 65536)) SEC_REPORTS

end Sys2Proof.Machine
end

