-- ==== Sys2Proof/Machine/Faults.lean ====
section
/-! DEFINITION. Fences and safe state (R422, R423), generations (R430), retention (R439), the reset ladder (R425 to R429), and
retirement (R410). Clause aborts that follow are due (`Due.clause`) and are settled before the command ends. -/

namespace Sys2Proof.Machine

/-! ### Units and pages -/

/-- Every unit of a region, as (group, unit). -/
def regionUnits (r : Bool × Nat) : List (Nat × Nat) :=
  let n := r.2
  if r.1 then
    [(grPRG, n), (grSHT, n), (grCMB, n), (grGND, n)] ++ (List.range 16).map (fun i => (grPRT, 16 * n + i))
      ++ (List.range 16).map (fun i => (grQOS, 16 * n + i))
  else
    (grCRG, n) :: ((List.range 17).map (fun i => (grTBK, 17 * n + i)) ++ (List.range 32).map (fun i => (grSTN, 32 * n + i))
      ++ (List.range 256).map (fun i => (grBOB, 256 * n + i)))

/-- Every unit of the device. -/
def allUnits : List (Nat × Nat) :=
  (List.range 22).flatMap fun g => ((List.range 4096).filter (unitExists g)).map fun u => (g, u)

/-- Whether a group's units are blocks, which take engine resets (Table CTL-3). -/
def isBlock (g : Nat) : Bool :=
  g == grTBK || g == grSTN || g == grPRT || g == grHBC || g == grCXP || g == grSHT || g == grDIR || g == grCMB || g == grGND

/-! ### Generations (R430) -/

def genNext (g u p : Nat) (s : State) : State := wrF s (G_GEN g u p) G_GEN_GEN (rdF s (G_GEN g u p) G_GEN_GEN + 1)

/-- Every page of a unit. -/
def unitGen (g u : Nat) (s : State) : State := (List.range (lastPage g u + 1)).foldl (fun s p => genNext g u p s) s

/-- The contexts of a shuttle engine take a new generation; `f` makes the rest of the context. -/
def qpGens (n : Nat) (f : Qp → Qp) (s : State) : State :=
  (List.range 2048).foldl (fun s i =>
    let q := 2048 * n + i
    setQp s q { f (qpOf s q) with gen := ((qpOf s q).gen + 1) % 256 }) s

/-- A block with its contexts. -/
def blockGen (g u : Nat) (s : State) : State :=
  let s := unitGen g u s
  if g = grSHT then qpGens u id s else s

/-- Every page of a region, and its queue pairs. -/
def regionGen (r : Bool × Nat) (s : State) : State :=
  (regionUnits r).foldl (fun s x => blockGen x.1 x.2 s) s

/-- R50: GEN_BUMP on the page at address `a`. -/
def genBump (a : Nat) (s : State) : State :=
  let g := csrGroup a
  let u := csrUnit a
  if isBlock g then blockGen g u s
  else if g = grCRG then regionGen (false, u) s
  else if g = grPRG then regionGen (true, u) s
  else genNext g u (csrPage a) s

/-! ### Retention (Table CTL-5, Table FLT-8) -/

/-- What a register goes through: a reset below the chip, a chip reset, a power cycle, the exit from PARK or STANDBY. -/
inductive Wipe where
  | low
  | chip
  | power
  | exit
  deriving DecidableEq, Repr

/-- Whether a retention code is cleared. -/
def Wipe.clears (e : Wipe) (r : Ret) : Bool :=
  match r with
  | .n => true
  | .p => e != .low
  | .c => e == .power || e == .exit
  | .ck => e == .power
  | .const => false

/-- R417: PGEN returns to 0 only at a power cycle, and KEYGEN changes only as Table SEC-3 gives. -/
def genBits (a : Nat) : Word :=
  if csrGroup a = grSEC ∧ csrUnit a < 16 ∧ a = SEC_PART_STATE (csrUnit a) then 0xFFFF00#64 else 0

/-- A register after an event. -/
def wiped (e : Wipe) (a : Nat) (w : Word) : Word :=
  match regRow? a with
  | none => w
  | some r =>
    let kept := if e = .power then 0 else genBits a
    let m := (~~~kept) &&& r.flds.foldl (fun m f => if e.clears f.ret then m ||| BitVec.ofNat 64 ((2 ^ f.fld.width - 1) * 2 ^ f.fld.lo) else m) 0#64
    mergeBits w (regReset a) m

/-- R450: CHP_BOOT_STATE reads RESTARTING while a restart of the control die is in progress, whatever resets. -/
def liveReg (s : State) (a : Nat) : Bool := a == CHP_BOOT_STATE && bootState s == bsRESTARTING

/-- Registers in a scope take their values after an event; GEN is not among them (R430). The bank in force of a region of the scope shows
again as it is selected, and with it the binding of its stations (R106). -/
def wipeRegs (e : Wipe) (scope : Nat → Bool) (s : State) : State :=
  let s := { s with regs := s.regs.foldl (fun m x =>
      if scope x.1 && csrOff x.1 != 0x050 && !liveReg s x.1 then sset regReset m x.1 (wiped e x.1 x.2) else m) s.regs }
  (List.range 16).foldl (fun s n => if scope (CRG_PROG_STATE n) || (List.range 32).any (fun e => scope (STN_BIND (32 * n + e))) then
    bankTakesForce n s else s) s

/-- The registers of a unit, and of a region. -/
def onUnit (g u : Nat) (a : Nat) : Bool := csrGroup a == g && csrUnit a == u
def onRegion (r : Bool × Nat) (a : Nat) : Bool := unitRegion (csrGroup a) (csrUnit a) == some r

/-! ### Clauses that an event aborts (R59) -/

def csFREE : Nat := 0
def csOPEN : Nat := 1
def csSEALED : Nat := 2
def csVALIDATING : Nat := 3
def csPREPARED : Nat := 5
def csCOMMITTED : Nat := 6
def csABORTED : Nat := 7

/-- A clause that has not reached its commit instant. -/
def clsLive (s : State) (c : Nat) : Bool := 1 ≤ clsState s c && clsState s c ≤ 5

/-- Abort every live clause with an entry that passes `p`. -/
def abortOn (p : Entry → Bool) (reason : Nat) (s : State) : State :=
  s.cls.foldl (fun s e => if clsLive s e.1 && e.2.entries.any p then addDue (.clause e.1 reason) s else s) s

/-- The descriptor of a shuttle action: as validation read it, or as it reads now. -/
def shtEntryDesc (s : State) (e : Entry) : Bytes := if e.desc.isEmpty then cdLoad s e.data.toNat (shtDescLen e.code) else e.desc

/-- A context or engine reset of a target: clauses whose guard interval has not begun. -/
def abortTarget (p : Entry → Bool) (s : State) : State :=
  s.cls.foldl (fun s e => if clsLive s e.1 && !e.2.inGuard && e.2.entries.any p then addDue (.clause e.1 0x11) s else s) s

/-- Whether a clause in its guard interval has an entry that passes `p` (R58). -/
def guardHolds (s : State) (p : Entry → Bool) : Bool := s.cls.any fun e => clsLive s e.1 && e.2.inGuard && e.2.entries.any p

/-! ### Work that a fence or a reset discards (R33) -/

/-- The cells of a slice, answered. -/
def flushSlice (n st : Nat) (s : State) : State :=
  let mine := fun (c : GCell) => c.slice == n
  let g := s.ground
  let ended := fun (f : Flow) => f.prg == n
  let cut := fun (f : Flow) => f.kept.any mine
  let gone := g.cells.filter mine ++ g.flows.flatMap fun f =>
    if ended f then f.held ++ f.kept else f.held.filter mine ++ (if cut f then f.kept else [])
  let flows := (g.flows.filter fun f => !ended f).map fun f =>
    if cut f then { f with held := f.held.filter (!mine ·), kept := [], part := [], first := none, dropTo := true }
    else { f with held := f.held.filter (!mine ·) }
  let holds := fun (cs : List GCell) => cs.any mine
  let left := (g.delivered.map (·.cells) ++ s.tiles.map (·.cells) ++ s.waitContribs.map (·.cells)).filter holds |>.flatten
  let late := g.waiting.filter mine
  let s := { s with
    ground := { g with cells := g.cells.filter (!mine ·), waiting := g.waiting.filter (!mine ·), flows := flows,
                       delivered := g.delivered.filter fun d => !holds d.cells }
    tiles := s.tiles.filter fun t => !holds t.cells
    waitContribs := s.waitContribs.filter fun w => !holds w.cells }
  let s := answerFlushed st [] (gone ++ left) (bump s GND_MCAST_DROPPED (copiesIn (gone ++ late)).length)
  late.foldl (fun s c =>
    if c.first && c.copy == 0 then endRequest (.region c.slice) c.slice c.seg.hdr c.seg.pay st true s else s) s

/-- The operations of a conjunction unit end, with the requests that carry them; their members are answered, so that their reply-cache
entries complete (R285); and its buffers are emptied. -/
def flushCmb (n st : Nat) (s : State) : State :=
  let ops := (cmbOf s n).ops
  let s := ((heldReqs s).filter fun r => r.prg == n && r.op.isSome).foldl
    (fun s r => lateTags r (dropTxnReq r.arr (dropReq r.arr s))) s
  let s := modCmb s n fun c => { c with ops := [], bufs := [] }
  runReqs (ops.foldl (fun s o => o.members.foldl (fun s m => replyMember n m.2 st [] s) s) s)

/-- R285: a partition's reply-cache entries are cleared; its atomics that wait for one, or for room, end. -/
def flushReplies (p : Nat) (s : State) : State :=
  let s := s.mem.cmbs.foldl (fun s e => modCmb s e.1 fun c => { c with cache := c.cache.filter (·.part != p) }) s
  (s.mem.reqs.filter fun r => reqPart r.msg == p && (r.stage == .retry || r.stage == .room)).foldl
    (fun s r => finish r stFENCED none (dropReq r.arr s)) s

/-- The line transactions of a directory slice end. -/
def flushDir (u st : Nat) (s : State) : State :=
  let gone := s.mem.txns.filter fun t => lineSlice s (64 * t.line) == u
  let s := modMem s fun m => { m with txns := m.txns.filter fun t => !gone.contains t }
  let s := gone.foldl (fun s t => match t.req with
    | some r => finish r st none s
    | none => s) s
  runReqs (wake (fun r => match r.stage with
    | .line l => gone.any (·.line == l)
    | .home l => gone.any (·.line == l)
    | _ => false) s)

/-- The tray requests of a CXL port end. -/
def flushTray (c st : Nat) (s : State) : State :=
  let gone := s.mem.reqs.filter fun r => match r.stage with
    | .tray c' _ => c' == c
    | .tagWait c' => c' == c
    | _ => false
  runReqs (gone.foldl (fun s r => finish r st none (lateTags r (dropReq r.arr s))) s)

/-- The issued steps of a station end with FENCED, each through its own bobbin's error path (R33, R126; log entry 67). -/
def flushStation (u : Nat) (s : State) : State :=
  ((List.range 256).map (256 * (u / 32) + ·)).foldl (fun s b =>
    match (bobOf s b).steps.find? (·.engine == u % 32) with
    | some st => if bobState s b = bsFAULTED then s else bobFault b 0x10 st.station st.desc 0 st.tile (some st) s
    | none => s) s

/-- A block's work in progress ends with an ENGINE-class fence or an engine reset (R422, R33). A unit of a tile block runs within one
command, so none is in progress between commands. -/
def flushBlock (g u : Nat) (s : State) : State :=
  if g = grPRT then
    let b := gangBase s u
    addDue (.portGone b) (flushPort b stFENCED s)
  else if g = grCXP then flushTray u stFENCED s
  else if g = grDIR then flushDir u stFENCED s
  else if g = grCMB then flushCmb u stFENCED s
  else if g = grGND then flushSlice u stFENCED s
  else if g = grSTN then flushStation u s
  else s

/-- A port's protocol engine restarts: the link ends, and what the port held is dropped. -/
def portReset (p : Nat) (s : State) : State :=
  let st := linkState s p
  let s := if st = lsACTIVE ∨ st = lsRETRAIN then linkDown p s else if st = lsDISABLED then s else setLink s p lsDOWN
  modPort s p fun x => { fenced := x.fenced, looped := x.looped }

/-- The link starts again once the reset is over (Table LNK-4). -/
def portRestart (p : Nat) (s : State) : State :=
  if rdBit s (G_CTL grPRT p 0) G_CTL_ENABLE then setLink s p lsDETECT else setLink s p lsDISABLED

/-- An engine reset of a block begins. -/
def resetBlock (g u : Nat) (s : State) : State :=
  let s := flushBlock g u s
  if g = grPRT then portReset u s
  else if g = grCXP then cxlLeave u 0 s
  else if g = grSHT then shtEngineReset u s
  else s

/-- R428: what a partition reset or REGION_RESET does to one region: bobbins to IDLE, queue pairs to RESET, tile SRAM zeroed. -/
def resetRegion (r : Bool × Nat) (s : State) : State :=
  let n := r.2
  if r.1 then
    let s := (List.range 16).foldl (fun s i => portReset (16 * n + i) s) s
    let s := flushCmb n stFENCED (flushSlice n stFENCED s)
    let s := farDrop (fun w => match w with | .qp q _ => qpEngine q == n | _ => false) s
    let s := (List.range 2048).foldl (fun s i => setQp s (2048 * n + i) { gen := (qpOf s (2048 * n + i)).gen }) s
    { s with sht := { s.sht with turns := sdel s.sht.turns n, late := s.sht.late.filter fun x => qpEngine x.1 != n } }
  else
    let s := dropWaitTiles (·.rgn == n) s
    let s := (List.range 256).foldl (fun s i =>
      let b := 256 * n + i
      if bobState s b = bsIDLE then s else addDue (.bobGone b none) (wrReg s (BOB_STATE b) 0)) s
    let s := { s with
      bobs := s.bobs.filter fun e => bobRgn e.1 != n
      sram := s.sram.filter fun e => e.1 / sramSize != n
      sramBad := s.sramBad.filter fun a => a / 6291456 != n
      turns := s.turns.filter fun e => e.1 / 32 != n
      progLoads := s.progLoads.filter fun l => l.rgn != n }
    addDue (.regionGone n) s

/-- Table FLT-8: a region passes out of a partition or loses its program banks. -/
def emptyBanks (n : Nat) (s : State) : State :=
  let s := { s with banks := s.banks.filter fun e => e.1 / 2 != n }
  bankTakesForce n (wrReg (wrReg (wrF s (CRG_PROG_STATE n) CRG_PROG_STATE_VALID 0) (CRG_PROG_ID0 n) 0) (CRG_PROG_ID1 n) 0)

/-! ### Partition fences (R423) -/

/-- Whether an entry's target lies on a page of a partition's units (R59, R423): the units it owns under R393, and so not the SEC
page that describes it, or no fence would leave R409's second check anything to find. -/
def entryOfPart (s : State) (p : Nat) (e : Entry) : Bool := unitOwner s (csrGroup e.target) (csrUnit e.target) == some p

/-- R423: what a fence does to the ports or the bobbins of a region. -/
def fenceRegion (r : Bool × Nat) (s : State) : State :=
  if r.1 then (List.range 16).foldl (fun s i =>
    let b := gangBase s (16 * r.2 + i)
    if b = 16 * r.2 + i then addDue (.portGone b) (flushPort b stFENCED s) else s) s
  else addDue (.regionGone r.2) ((List.range 256).foldl (fun s i => bobFenced (256 * r.2 + i) s) s)

/-- R423: the effect of a partition fence. -/
def fencePart (p : Nat) (s : State) : State :=
  let s := tickStamp { s with flt := { s.flt with partFence := sset (fun _ => 0) s.flt.partFence p s.flt.stamp } }
  let s := setPartState p 2 s
  let s := (partRegions s p).foldl (fun s r => fenceRegion r s) s
  let s := shtFence p s
  let s := flushReplies p (abortOn (entryOfPart s p) 0x13 s)
  (openColls s).foldl (fun s e => if cdPart e.2.desc = p then collFail e.1 0x04 s else s) s

/-! ### Sources and the partitions they act on (R420) -/

/-- The partition of a region that a domain binds. -/
def domParts (s : State) (d : Nat) : List Nat :=
  (List.range 16).filter fun p => (partRegions s p).any fun r => (if r.1 then prgDom s r.2 else crgDom s r.2) == some d

/-- R420: the partitions that a PARTITION-class source acts on. For the sources of TIM unit 0, see R71 (log entry 102). -/
def actsOn (s : State) (f : Src) (u : Nat) : List Nat :=
  if f.g = grTIM then
    if u = 0 then ((List.range 4).flatMap (domParts s)).eraseDups else domParts s (u - 1)
  else if f.g = grDIR then (if f.bit ≤ 2 then maskBits (sget (fun _ => 0) s.flt.acts (f.key u)) 16 else [])
  else (unitOwner s f.g u).toList

/-- Every set sticky bit, as its source and unit. -/
def setSources (s : State) : List (Src × Nat) :=
  (s.regs.filter fun e => csrOff e.1 == 0x020).flatMap fun e =>
    (maskBits e.2.toNat 16).map fun k => (⟨csrGroup e.1, csrPage e.1, k⟩, csrUnit e.1)

/-- The sources that have fired, with the stamp of the latest firing. -/
def fired (s : State) : List ((Src × Nat) × Nat) :=
  s.flt.lastFire.map fun e => ((⟨csrGroup e.1, csrPage e.1, csrOff e.1⟩, csrUnit e.1), e.2)

/-- An unmasked set source of a class. -/
def setOfClass (s : State) (k : Nat) : List (Src × Nat) :=
  (setSources s).filter fun x => !srcMasked s x.1 x.2 && srcClass s x.1 x.2 == k

/-- R409, R422: whether PART_UNFENCE may lift a partition's fence. -/
def unfenceOk (s : State) (p : Nat) : Bool :=
  partFenced s p
    && (match sfind s.flt.partDone p with
      | some (began, done) => sget (fun _ => 0) s.flt.partFence p < done
          && (fired s).all fun x => srcClass s x.1.1 x.1.2 != 3 || !(actsOn s x.1.1 x.1.2).contains p || x.2 < began
      | none => false)
    && (setOfClass s 3).all fun x => !(actsOn s x.1 x.2).contains p

/-! ### Block fences and safe state (R422, R423) -/

/-- A block is fenced for a source (or by an escalation). -/
def fenceBlock (g u : Nat) (src : Option Src) (s : State) : State :=
  let s := { s with flt := { s.flt with fences := s.flt.fences.filter (fun x => !(x.g == g && x.u == u && x.src == src))
    ++ [⟨g, u, src, s.flt.stamp⟩] } }
  flushBlock g u (tickStamp s)

/-- R422: a block's fence is lifted: its source's bit is clear or masked, and an engine reset that began after the latest firing (or
after the fence, for an escalation) has completed. -/
def fenceLifts (s : State) (x : BlockFence) : Bool :=
  let done := sget (fun _ => 0) s.flt.engineDone (csrAddr x.g x.u 0 0)
  match x.src with
  | some f => (!stickySet s f x.u || srcMasked s f x.u) && sget (fun _ => 0) s.flt.lastFire (f.key x.u) < done
  | none => x.at_ < done

/-- R422: safe state ends: a chip reset that began after every CHIP-class firing has completed, and no unmasked CHIP-class bit is set. -/
def safeLifts (s : State) : Bool :=
  s.flt.safe && (setOfClass s 4).isEmpty && s.flt.safeAt < s.flt.chipDone
    && (fired s).all fun x => srcClass s x.1.1 x.1.2 != 4 || x.2 < s.flt.chipDone

/-- Fences and safe state end where their conditions now hold. -/
def relift (s : State) : State :=
  let s := { s with flt := { s.flt with fences := s.flt.fences.filter fun x => !fenceLifts s x } }
  if safeLifts s then { s with flt := { s.flt with safe := false } } else s

/-! ### Resets (R425 to R429) -/

/-- Whether a reset covers the scope of another. -/
def covers (s : State) (big j : Scope) : Bool :=
  match big.rung with
  | .chip => j.rung != .chip
  | .partition => (j.rung == .engine || j.rung == .context) && unitOwner s j.g j.u == some big.u
  | .region => (j.rung == .engine || j.rung == .context) && unitRegion j.g j.u == some (big.g == grPRG, big.u)
  | .engine => j.rung == .context && j.g == big.g && j.u == big.u
  | .context => false

/-- A reset starts: resets within its scope are absorbed (R427). -/
def startJob (sc : Scope) (askers late : List Nat) (s : State) : State :=
  let gone := s.flt.jobs.filter fun j => covers s sc j.scope || j.scope == sc
  let j : ResetJob := { scope := sc, began := s.flt.stamp, askers := gone.flatMap (·.askers) ++ askers,
                        late := gone.flatMap (·.late) ++ late }
  tickStamp { s with flt := { s.flt with jobs := s.flt.jobs.filter (fun x => !gone.contains x) ++ [j] } }

/-- Set LAST of a page's G_RESET_CTL. -/
def setLast (v : Nat) (s : State) (base : Nat) : State := wrF s (base + 0x058) G_RESET_CTL_LAST v

/-- R33, R126: a context reset begins: the context's work is discarded and its GEN advances. A bobbin shows FAULTED while it runs and leaves it
as R126 gives, one that was not FAULTED too (DESIGN CHOICE, log entry 117). -/
def beginContext (g u ctx : Nat) (askers : List Nat) (s : State) : State :=
  if g = grCRG then
    let b := 256 * u + ctx
    let s := abortTarget (fun e => csrGroup e.target == grBOB && csrUnit e.target == b) s
    let s := if bobState s b = bsIDLE then s else addDue (.bobGone b none) (setBobState b bsFAULTED s)
    startJob ⟨.context, g, u, ctx⟩ askers [] (unitGen grBOB b (setBob s b {}))
  else
    let q := 2048 * u + ctx
    let s := abortTarget (fun e => e.kind == 2 && shtAction e.code (csrBase e.target) && csrGroup e.target == grSHT && csrPage e.target == 0
      && actQp (csrBase e.target) e.code e.data.toNat (shtEntryDesc s e) == q) s
    startJob ⟨.context, g, u, ctx⟩ askers [] (qpReset q s)

/-- R430: an engine reset begins. -/
def beginEngine (g u : Nat) (askers late : List Nat) (s : State) : State :=
  let s := abortTarget (fun e => csrGroup e.target == g && csrUnit e.target == u) s
  startJob ⟨.engine, g, u, 0⟩ askers late (blockGen g u (resetBlock g u s))

/-- R428: a partition reset begins. -/
def beginPart (p : Nat) (late : List Nat) (s : State) : State :=
  let s := fencePart p s
  let rs := partRegions s p
  let s := rs.foldl (fun s r => regionGen r (resetRegion r s)) s
  let s := (openColls s).foldl (fun s e => if cdPart e.2.desc = p then collClose e.1 s else s) s
  let s := s.colls.foldl (fun s e => if e.2.state != 0 && cdPart e.2.desc == p then collClose e.1 s else s) s
  let s := flushReplies p s
  let s := (s.sht.qps.filter fun e => e.2.part == p && e.2.state != 0).foldl (fun s e => qpReset e.1 s) s
  startJob ⟨.partition, 0, p, 0⟩ [] late (bump (pgenNext p s) FLT_PART_RESETS)

/-- R428: REGION_RESET begins: the region is fenced first. -/
def beginRegion (r : Bool × Nat) (late : List Nat) (s : State) : State :=
  let s := abortOn (fun e => unitRegion (csrGroup e.target) (csrUnit e.target) == some r) 0x13 (fenceRegion r s)
  let s := if r.1 then (s.sht.qps.filter fun e => qpEngine e.1 == r.2).foldl (fun s e => qpErr e.1 stFENCED (oldestWqe e.2) s) s else s
  startJob ⟨.region, if r.1 then grPRG else grCRG, r.2, 0⟩ [] late (regionGen r (resetRegion r s))

/-- R429, Table FLT-8: what a chip reset empties. Routes and path groups, stack contents, the control die's memory and the state-store
die are kept; every clause slot is freed, and a coordinator that held a PREPARE records ABORT (R59, R64). -/
def chipClear (s : State) : State :=
  let record := fun (o : Outcome) =>
    if o.decided.isSome then some o
    else match s.cls.find? fun e => (rdReg s (CLS_GLOBAL_ID e.1)).toNat == o.gid && clsLive s e.1 with
      | some e => if e.2.preps.isEmpty then none else some { o with decided := some (false, 0), waiting := e.2.preps.map (·.1) }
      | none => none
  let qps := (List.range 32768).filterMap fun q =>
    let x : Qp := { gen := ((qpOf s q).gen + 1) % 256 }
    if x = {} then none else some (q, x)
  { s with
    doms := [], gates := [], stragglers := [], banks := [], sram := [], sramBad := [], bobs := [], turns := [], tiles := [], stale := [],
    progLoads := [], colls := [], sets := [], waitContribs := [], cls := [], mbx := [], cxl := none, dues := []
    outcomes := s.outcomes.filterMap record
    ports := []
    ground := { routes := s.ground.routes, groups := s.ground.groups }
    mem := { pool := s.mem.pool, sectors := s.mem.sectors.filter (fun e => !e.2.key.k.isEmpty), errs := s.mem.errs }
    sht := { qps := qps }
    sec := { index := s.sec.index, tap := s.sec.tap }
    pwr := { s.pwr with off := [] }
    flt := { s.flt with tests := [], ucieDown := [], causes := s.flt.causes.filter (·.src.g == grPWR) } }

/-- R429: a chip reset begins, with the cause that FLT_LAST_RESET records. -/
def beginChip (cause : Nat) (late : List Nat) (s : State) : State :=
  let s := chipClear s
  let s := { s with regs := s.regs.filter fun e => !(csrGroup e.1 == grCLS && csrUnit e.1 < 16 && csrOff e.1 != 0x050) }
  let s := allUnits.foldl (fun s x => unitGen x.1 x.2 s) s
  let s := (List.range 16).foldl (fun s p => pgenNext p s) s
  startJob ⟨.chip, 0, 0, 0⟩ [] late (bump (wrF s FLT_LAST_RESET FLT_LAST_RESET_CAUSE cause) FLT_CHIP_RESETS)

/-! ### UCIe bundles (R17, R18) -/

/-- The bundle of a link (Table FLT-4) of hub `n`, with one name for a ring bundle: link 1 is link 0 of the previous hub. -/
def bundleOf (n link : Nat) : Nat × Nat := if link = 1 then ((n + 3) % 4, 0) else (n % 4, link % 4)

/-- Installed modules. -/
def bundleSize (link : Nat) : Nat := if link = 2 then 24 else if link = 3 then 1 else 16

/-- Live modules of a bundle. -/
def bundleLive (s : State) (b : Nat × Nat) : Nat := bundleSize b.2 - s.flt.ucieDown.countP fun k => k / 32 == 4 * b.1 + b.2

/-- MRG_RING_STATE of every hub. An FD count of zero reads 0x1F. One of 1 to 7 modules has no value in its field,
and is left open. -/
def showRing (s : State) : State :=
  let up := ((List.range 4).map fun n => if bundleLive s (n, 0) = 0 then 0 else 2 ^ n).sum
  (List.range 4).foldl (fun s n =>
    let fd := bundleLive s (n, 2)
    let (x, s) := if fd = 0 then (31#64, s) else if fd < 8 then takeFree s else (BitVec.ofNat 64 (fd - 8), s)
    let v := bundleLive s (bundleOf n 0) + bundleLive s (bundleOf n 1) * 2 ^ 5 + x.toNat % 32 * 2 ^ 10 + bundleLive s (n, 3) * 2 ^ 15
    wrF (wrF s (MRG_RING_STATE n) MRG_RING_STATE_BUNDLE_UP up) (MRG_RING_STATE n) MRG_RING_STATE_LIVE_MODULES v) s

/-- Registers and links of a scope at the end of its reset (R439). -/
def endScope (sc : Scope) (s : State) : State :=
  match sc.rung with
  | .context =>
    if sc.g = grCRG then
      let b := 256 * sc.u + sc.ctx
      let keep := rdReg s (BOB_STATE b)
      let s := wrReg (wipeRegs .low (onUnit grBOB b) s) (BOB_STATE b) keep
      if bobState s b = bsIDLE then s
      else if bobSched s b then setBobState b bsARMED s
      else wrReg s (BOB_STATE b) 0
    else s
  | .engine =>
    let s := wipeRegs .low (onUnit sc.g sc.u) s
    if sc.g = grPRT then portRestart sc.u s else if sc.g = grCXP then cxlEnable sc.u s else s
  | .partition =>
    (partRegions s sc.u).foldl (fun s r =>
      let s := wipeRegs .low (onRegion r) s
      if r.1 then (List.range 16).foldl (fun s i => portRestart (16 * r.2 + i) s) s else s) s
  | .region =>
    let r := (sc.g == grPRG, sc.u)
    let s := wipeRegs .low (onRegion r) s
    if r.1 then (List.range 16).foldl (fun s i => portRestart (16 * r.2 + i) s) s else s
  | .chip =>
    let s := wipeRegs .chip (fun _ => true) s
    let s := (if s.flt.ucieDown.isEmpty then id else showRing) (timStart { s with clk := {}, tim := { ref := s.tim.ref } })
    let s := (List.range 256).foldl (fun s p => portRestart p s) s
    (List.range 16).foldl (fun s c => if cxlOn s c then setCxlState c 1 s else s) s

/-- R428, R429: a partition, region or chip reset resets every block of its scope: for R422 it counts as an engine reset of each
block that has a fence or a firing. -/
def blocksDone (s : State) (sc : Scope) (began : Nat) (f : FaultState) : FaultState :=
  let blocks := (f.fences.map fun x => (x.g, x.u)) ++ (f.lastFire.map fun e => (csrGroup e.1, csrUnit e.1))
  { f with engineDone := blocks.foldl (fun m x =>
      if covers s sc ⟨.engine, x.1, x.2, 0⟩ then sset (fun _ => 0) m (csrAddr x.1 x.2 0 0) began else m) f.engineDone }

/-- R426: a reset completes: LAST reads 1, or 2 for a request whose reset was abandoned for this one. -/
def resetDone (sc : Scope) (s : State) : State :=
  match s.flt.jobs.find? fun j => j.scope == sc && !j.deferred with
  | none => s
  | some j =>
    let s := endScope sc s
    let f := { s.flt with jobs := s.flt.jobs.erase j }
    let f := match sc.rung with
      | .engine => { f with engineDone := sset (fun _ => 0) f.engineDone (csrAddr sc.g sc.u 0 0) j.began }
      | .partition => { blocksDone s sc j.began f with partDone := sput f.partDone sc.u (j.began, f.stamp) }
      | .chip => { blocksDone s sc j.began f with chipDone := j.began }
      | .region => blocksDone s sc j.began f
      | .context => f
    let s := tickStamp { s with flt := f }
    let s := j.late.foldl (setLast 2) (j.askers.foldl (setLast 1) s)
    runReqs (relift s)

/-- The reset that an engine overrun starts for a unit of a region (Table FLT-5). -/
def aboveEngine (g u : Nat) (late : List Nat) (s : State) : State :=
  match unitRegion g u with
  | some r =>
    match ownerRegion s r with
    | some p => beginPart p late s
    | none => beginRegion r late s
  | none => beginChip 4 late s

/-- R58: a context or engine reset waits for the end of a guard interval. -/
def deferReset (sc : Scope) (askers late : List Nat) (s : State) : State :=
  let same := fun (j : ResetJob) => j.deferred && j.scope == sc
  let old := s.flt.jobs.filter same
  let j : ResetJob := { scope := sc, began := 0, askers := old.flatMap (·.askers) ++ askers,
                        late := old.flatMap (·.late) ++ late, deferred := true }
  { s with flt := { s.flt with jobs := s.flt.jobs.filter (fun j => !same j) ++ [j] } }

/-- Whether an entry's target lies in the block or context that a reset covers (R58). -/
def resetHits (sc : Scope) (e : Entry) : Bool :=
  if sc.rung = .engine then csrGroup e.target == sc.g && csrUnit e.target == sc.u
  else if sc.g = grCRG then csrGroup e.target == grBOB && csrUnit e.target == 256 * sc.u + sc.ctx
  else csrGroup e.target == grSHT && csrUnit e.target == sc.u

/-- An engine reset begins, or waits for a guard interval (R58). -/
def engineOrDefer (g u : Nat) (askers late : List Nat) (s : State) : State :=
  let sc : Scope := ⟨.engine, g, u, 0⟩
  if guardHolds s (resetHits sc) then deferReset sc askers late s else beginEngine g u askers late s

/-- R426: a rung's window ends with its reset in progress: it is abandoned and the next rung starts. -/
def resetEscalated (sc : Scope) (s : State) : State :=
  match s.flt.jobs.find? fun j => j.scope == sc && !j.deferred with
  | none => s
  | some j =>
    let s := { s with flt := { s.flt with jobs := s.flt.jobs.erase j } }
    let late := j.askers ++ j.late
    let s := late.foldl (setLast 2) (bump s FLT_ESCALATIONS)
    let s := raise srcFLT_RESET_ESCALATED 0 s
    match sc.rung with
    | .context => if sc.g = grSHT then engineOrDefer grSHT sc.u [] late s else aboveEngine sc.g sc.u late s
    | .engine => aboveEngine sc.g sc.u late (fenceBlock sc.g sc.u none s)
    | .partition => beginChip 4 late s
    | .region => beginChip 4 late s
    | .chip =>
      if rdBit s FLT_AUTO FLT_AUTO_POWER then
        ibi ibiPOWER_CYCLE_REQ { s with flt := { s.flt with powerAsked := true } }
      else s

/-- R427: a request that is refused. -/
def resetRefused (base : Nat) (s : State) : State := setLast 3 (csrRefused s) base

/-- Whether a unit lies in a parked region. -/
def unitParked (s : State) (g u : Nat) : Bool :=
  match unitRegion g u with
  | some r => regionParked s r.1 r.2
  | none => false

/-- An absorbed request reports with the reset that covers it (R427). -/
def absorbAsk (j : ResetJob) (base : Nat) (s : State) : State :=
  okReply { s with flt := { s.flt with jobs := s.flt.jobs.map fun x => if x = j then { x with askers := x.askers ++ [base] } else x } }

/-- R431: a context or engine reset would take a GEN to the value that a request still carries, whose context was reset since. -/
def genHeld (s : State) (sc : Scope) : Bool :=
  s.mem.far.any fun f => f.dead && match f.who with
    | .bob b _ => sc.rung == .context && sc.g == grCRG && 256 * sc.u + sc.ctx == b && f.gen == (genOf s grBOB b + 1) % 256
    | .qp q j => sc.g == grSHT && sc.u == qpEngine q && (sc.rung == .engine || 2048 * sc.u + sc.ctx == q) && j % 8 != 6
        && f.gen == ((qpOf s q).gen + 1) % 256
    | .host c _ => sc.rung == .engine && sc.g == grCXP && sc.u == c && f.gen == (genOf s grCXP c + 1) % 256

/-- R58, R431: a context or engine reset that is asked for waits. -/
def resetWaits (s : State) (sc : Scope) : Bool := guardHolds s (resetHits sc) || genHeld s sc

/-- R427, R58: a context or engine reset is asked for on page `base`. -/
def resetAsk (sc : Scope) (base : Nat) (s : State) : State :=
  if unitParked s sc.g sc.u then resetRefused base s
  else match s.flt.jobs.find? fun j => !j.deferred && covers s j.scope sc with
    | some j => absorbAsk j base s
    | none =>
      if s.flt.jobs.any fun j => j.scope == sc then resetRefused base s
      else if resetWaits s sc then okReply (deferReset sc [base] [] s)
      else if sc.rung = .engine then okReply (beginEngine sc.g sc.u [base] [] s)
      else okReply (beginContext sc.g sc.u sc.ctx [base] s)

/-- R427: a context reset asked for through G_RESET_CTL of page `base`. -/
def contextReset (base ctx : Nat) (s : State) : State :=
  let g := csrGroup base
  let n := if g = grCRG then 256 else if g = grSHT then 2048 else 0
  if n ≤ ctx then resetRefused base s else resetAsk ⟨.context, g, csrUnit base, ctx⟩ base s

/-- R427: an engine reset asked for. -/
def engineReset (base : Nat) (s : State) : State :=
  let g := csrGroup base
  if isBlock g then resetAsk ⟨.engine, g, csrUnit base, 0⟩ base s else resetRefused base s

/-- R58, R431: resets that waited run in full once nothing holds them. -/
def runDeferred (s : State) : State :=
  (s.flt.jobs.filter fun j => j.deferred && !resetWaits s j.scope).foldl (fun s j =>
    let s := { s with flt := { s.flt with jobs := s.flt.jobs.erase j } }
    if j.scope.rung = .engine then beginEngine j.scope.g j.scope.u j.askers j.late s
    else beginContext j.scope.g j.scope.u j.scope.ctx j.askers s) s

/-! ### Units that leave a partition (R399, R410) -/

/-- A region leaves its partition: it is reset, its SRAM zeroed and its banks emptied (Table FLT-8). -/
def releaseRegion (r : Bool × Nat) (s : State) : State :=
  let s := wipeRegs .low (onRegion r) (resetRegion r s)
  if r.1 then (List.range 16).foldl (fun s i => portRestart (16 * r.2 + i) s) s else emptyBanks r.2 s

/-- Step 5 of Table SEC-4. -/
def retireFree (p : Nat) (s : State) : State :=
  if !s.sec.retiring.contains p then s else
  let s := (s.mem.objs.filter fun e => e.2.part == p && e.2.state != 0).foldl (fun s e => dropObj e.1 s) s
  let s := (s.mem.doms.filter fun e => e.2.part == p).foldl (fun s e => cohDrop e.1 s) s
  let s := (partRegions s p).foldl (fun s r => releaseRegion r s) (flushReplies p s)
  let s := (List.range 8).foldl (fun s i => wrReg s (SEC_PART_GRANT p i) 0) (wrReg s (SEC_PART_MEMBERS p) 0)
  setPartState p 0 { s with sec := { s.sec with retiring := s.sec.retiring.erase p } }

/-- R399: PART_SHRINK commits: the units that leave take GEN_BUMP and become unowned. -/
def partShrinkCommit (p : Nat) (d : Bytes) (s : State) : State :=
  let m := pcMembers d
  let rs := (maskBits m 16).map (fun n => (false, n)) ++ (maskBits (m / 2 ^ 16) 16).map (fun n => (true, n))
  let s := rs.foldl (fun s r => releaseRegion r (regionGen r s)) s
  partShrink p d s

end Sys2Proof.Machine
end

