-- ==== Sys2Proof/Machine/Recovery.lean ====
section
/-! DEFINITION. Class actions (R422, R423), hangs (R424), UCIe bundles (R17, R18), PORT_FENCE (R432), tests and bypass (R433 to R436)
and the start of a dump (R437). -/

namespace Sys2Proof.Machine

/-! ### Firing -/

/-- A source fires. In-band THERM goes out at each setting of THERM_WARN or THERM_TRIP (R471). -/
def fireSource (f : Src) (u : Nat) (s : State) : State :=
  let was := stickySet s f u
  let s := raise f u s
  if !was && f.g == grPWR && (f.bit == 1 || f.bit == 2) then ibi ibiTHERM s else s

/-! ### The dump begins (R437) -/

/-- The CSR pages in the order of R438: FLT unit 0, the FLT region units, then every page in increasing address. -/
def dumpPages : List Nat :=
  let flt := (List.range 4096).filter (unitExists grFLT)
  flt.map (fun u => csrAddr grFLT u 0 0)
    ++ allUnits.flatMap fun x => (List.range (lastPage x.1 x.2 + 1)).map fun p => csrAddr x.1 x.2 p 0

/-- A dump starts: trigger 1 GO, 2 safe state. Without a buffer it ends at once with RESULT 3. A dump in progress goes on. -/
def dumpStart (trigger : Nat) (s : State) : State :=
  if rdBit s FLT_DUMP_CTL FLT_DUMP_CTL_BUSY then s
  else if rdF s FLT_DUMP_CTL FLT_DUMP_CTL_SIZE_MIB = 0 then wrF s FLT_DUMP_CTL FLT_DUMP_CTL_RESULT 3
  else
    let s := wrF (wrF s FLT_DUMP_CTL FLT_DUMP_CTL_BUSY 1) FLT_DUMP_CTL FLT_DUMP_CTL_RESULT 0
    let s := bump (wrReg s FLT_DUMP_STATE 0) FLT_DUMPS
    { s with flt := { s.flt with dump := some { trigger := trigger, start := now s, todo := dumpPages } } }

/-! ### Class actions (Table FLT-2) -/

/-- R423: chip-class safe state begins. -/
def safeEnter (s : State) : State :=
  if s.flt.safe then s else
  let s := tickStamp { s with flt := { s.flt with safe := true, safeAt := s.flt.stamp } }
  let s := ibi ibiSAFE_STATE (bump s FLT_SAFE_ENTRIES)
  let s := (List.range 16).foldl (fun s c => if clsLive s c then addDue (.clause c 0x12) s else s) s
  let s := if rdBit s FLT_DUMP_CTL FLT_DUMP_CTL_AUTO then dumpStart 2 s else s
  if rdBit s FLT_AUTO FLT_AUTO_CHIP_RESET then beginChip 3 [] s else s

/-- The CONTEXT action: a bobbin enters FAULTED. The page of a queue pair's engine names no queue pair, and acts only through ERR_N. -/
def contextAction (f : Src) (u : Nat) (s : State) : State :=
  if f.g = grBOB ∧ bobState s u ≠ bsIDLE ∧ bobState s u ≠ bsFAULTED then
    addDue (.bobGone u none) (setBobState u bsFAULTED s)
  else s

/-- The engine reset that FLT_AUTO.ENGINE starts. A higher reset in progress covers it, and a guard interval defers it (R58). -/
def autoEngine (g u : Nat) (s : State) : State :=
  let sc : Scope := ⟨.engine, g, u, 0⟩
  if unitParked s g u || s.flt.jobs.any (fun j => !j.deferred && covers s j.scope sc) then s
  else engineOrDefer g u [] [] s

/-- R422: the action of a source's class. A page of a block's unit that holds a table of the device is one of that block's pages too: R420
names it among none that have no block. -/
def classAction (f : Src) (u : Nat) (s : State) : State :=
  match srcClass s f u with
  | 1 => contextAction f u s
  | 2 =>
    if f.g = grBOB then contextAction f u s
    else if isBlock f.g then
      let s := fenceBlock f.g u (some f) s
      if rdBit s FLT_AUTO FLT_AUTO_ENGINE then autoEngine f.g u s else s
    else s
  | 3 => (actsOn s f u).foldl (fun s p => fencePart p s) s
  | 4 => safeEnter s
  | _ => s

/-! ### Hangs (R424) -/

/-- Whether a unit holds pending work (Table FLT-3). A step that runs ends within its command, so a tile block has a unit assigned while
the step that will use it is issued. The steps of a FAULTED bobbin wait for its context reset alone (log entry 68). -/
def pendingWork (s : State) (g u : Nat) : Bool :=
  if g = grBOB then bobState s u != bsFAULTED && !(bobOf s u).steps.isEmpty
  else if g = grSTN then (List.range 256).any fun i =>
    let b := 256 * (u / 32) + i
    bobState s b != bsFAULTED && (bobOf s b).steps.any (·.engine == u % 32)
  else if g = grTBK then
    (List.range 32).any fun e => (readySteps s (u / 17) e).any fun x =>
      (maskBits (stnOf (bobProg s x.1) x.2.station).mask 16).any fun i => tbkOf s (u / 17) i == u
  else if g = grCRG then
    (List.range 256).any fun i => bobSched s (256 * u + i) && (bobState s (256 * u + i) == bsRUNNING || bobState s (256 * u + i) == bsWAIT_MEM)
  else if g = grPRT then
    s.ground.cells.any (fun c => c.out == .port (gangBase s u) && c.hold == .none) || !(portOf s u).replay.isEmpty
  else if g = grPRG ∨ g = grGND then (allCells s).any (·.slice == u)
  else if g = grSHT then s.sht.qps.any fun e => qpEngine e.1 == u && (!e.2.segs.isEmpty || !e.2.places.isEmpty)
  else if g = grCMB then !(cmbOf s u).ops.isEmpty || s.mem.reqs.any fun r => r.prg == u && r.msg.hdr.type == tREAD
  else if g = grHBC then s.mem.reqs.any fun r => r.stage == .engine grHBC u
  else if g = grCXP then !(tagsUsed s u).isEmpty || s.mem.reqs.any fun r => r.stage == .tagWait u || r.stage == .engine grCXP u
  else if g = grDIR then (s.mem.txns.any fun t => lineSlice s (64 * t.line) == u) || s.mem.reqs.any fun r => r.stage == .engine grDIR u
  else if g = grMRG then s.mem.reqs.any fun r => entryHub r.prg == u
  else false

/-- Whether a cause still holds (R418). -/
def causeHolds (s : State) (c : Cause) : Bool :=
  c.src.bit != 15 || (rdReg s (G_PROGRESS c.src.g c.unit 0) == c.progress && pendingWork s c.src.g c.unit)

/-- R424: a window ends in which the unit held pending work and made no progress: the cause arises once. -/
def hangWindow (g u : Nat) (s : State) : State :=
  let f : Src := ⟨g, 0, 15⟩
  if !((pageSources g u 0).any (·.1 == 15)) || rdF s (G_PROGRESS_WINDOW g u 0) G_PROGRESS_WINDOW_WINDOW == 0 || !pendingWork s g u
      || s.flt.causes.any (fun c => c.src == f && c.unit == u && causeHolds s c) then s
  else fireSource f u (addCause f u (rdReg s (G_PROGRESS g u 0)) s)

/-! ### UCIe modules (R17, R18, R436) -/

/-- R17, R18: a module fails: it leaves its bundle, whose unacknowledged flits go over the others. -/
def ucieFails (n link m : Nat) (s : State) : State :=
  let b := bundleOf n link
  if bundleSize b.2 ≤ m then s else
  let k := 128 * b.1 + 32 * b.2 + m
  let new := !s.flt.ucieDown.contains k
  let s := if new then showRing { s with flt := { s.flt with ucieDown := s.flt.ucieDown ++ [k] } } else s
  let s := fireSource srcCHP_UCIE_MODULE_DOWN 0 s
  if new && bundleLive s b == 0 then
    if b.2 = 2 then fireSource srcCHP_FD_ISOLATED 0 s
    else if b.2 = 3 then fireSource srcCHP_CTL_LINK_REROUTED 0 s
    else fireSource srcCHP_RING_BROKEN 0 s
  else s

/-- R436: a module that trained again rejoins its bundle. -/
def ucieJoins (n link m : Nat) (s : State) : State :=
  let b := bundleOf n link
  showRing { s with flt := { s.flt with ucieDown := s.flt.ucieDown.erase (128 * b.1 + 32 * b.2 + m) } }

/-! ### PORT_FENCE (R432) -/

def portFence (p : Nat) (s : State) : State :=
  let b := gangBase s p
  let s := modPort s b fun x => { x with fenced := true, newLink := false }
  let s := genNext grPRT p 0 (flushPort b stFENCED s)
  addDue (.portGone b) (fireSource srcPRT_PORT_FENCED p s)

def portUnfence (p : Nat) (s : State) : State := modPort s (gangBase s p) fun x => { x with fenced := false }

def portUnfenceOk (s : State) (p : Nat) : Bool := (portOf s (gangBase s p)).fenced && (portOf s (gangBase s p)).newLink

/-! ### Tests (R433 to R436) -/

/-- A test of the collector's region is running. -/
def testRuns (s : State) (flt : Nat) : Bool := s.flt.tests.any fun t => t.flt == flt && t.kind ≤ 4

/-- The region of a collector unit 0x10 + n or 0x20 + n. -/
def fltRegion (flt : Nat) : Option (Bool × Nat) :=
  if 0x10 ≤ flt ∧ flt < 0x20 then some (false, flt - 0x10) else if 0x20 ≤ flt ∧ flt < 0x30 then some (true, flt - 0x20) else none

/-- R433: a region may be tested: no partition owns it and no domain is bound to it. A test that runs in the region does not stop it. -/
def regionTestOk (s : State) (flt : Nat) : Bool :=
  match fltRegion flt with
  | some r => (ownerRegion s r).isNone && (if r.1 then prgDom s r.2 else crgDom s r.2).isNone
  | none => false

/-- R434: the block is the spare in the map in force. -/
def isSpare (s : State) (t : Nat) : Bool := rdF s (CRG_TBK_MAP (t / 17)) CRG_TBK_MAP_SPARE_PHYS == t % 17

/-- R435: no T0 extent of the switch is live, and no lease of its memory. -/
def stkOfflineOk (s : State) : Bool :=
  s.mem.leases.isEmpty && s.mem.exts.all fun e => e.2.state == esFREE || e.2.tier != 0 || e.2.home != ownId s

/-- A test starts: kind 1 region, 2 tile block, 3 port, 4 stack; 5 is the training of a UCIe module, which no register reports. -/
def testStart (kind flt unit : Nat) (s : State) : State :=
  let s := { s with flt := { s.flt with tests := s.flt.tests ++ [⟨kind, flt, unit⟩] } }
  if kind = 5 then s else
  let w := FLT_TEST_RESULT_UNIT.set (FLT_TEST_RESULT_KIND.set (FLT_TEST_RESULT_STATE.set 0 1) kind) unit
  let s := wrReg s (FLT_TEST_RESULT flt) w
  match kind, fltRegion flt with
  | 1, some (true, n) => (List.range 16).foldl (fun s i =>
      let p := 16 * n + i
      let s := if linkState s p = lsACTIVE ∨ linkState s p = lsRETRAIN then linkDown p s else setLink s p lsDOWN
      modPort s p fun x => { x with looped := true }) s
  | _, _ => s

/-- A test ends: it reports, and a region under test is reset. -/
def testDone (kind flt : Nat) (pass : Bool) (fails : Nat) (s : State) : State :=
  match s.flt.tests.find? fun t => t.kind == kind && t.flt == flt with
  | none => s
  | some t =>
    let s := { s with flt := { s.flt with tests := s.flt.tests.erase t } }
    if kind = 5 then (if pass then ucieJoins else ucieFails) (t.flt % 16) (t.unit / 32) (t.unit % 32) s else
    let w := FLT_TEST_RESULT_STATE.set (rdReg s (FLT_TEST_RESULT flt)) (if pass then 2 else 3)
    let s := wrReg s (FLT_TEST_RESULT flt) (FLT_TEST_RESULT_FAILS.set w fails)
    match kind, fltRegion flt with
    | 1, some r =>
      let keep := rdReg s (FLT_TEST_RESULT flt)
      let s := wrReg (wipeRegs .low (onRegion r) (regionGen r (resetRegion r s))) (FLT_TEST_RESULT flt) keep
      if r.1 then (List.range 16).foldl (fun s i =>
        modPort (portRestart (16 * r.2 + i) s) (16 * r.2 + i) fun x => { x with looped := false }) s else s
    | _, _ => s

/-- R435: a stack goes offline: its channels are fenced with it (`blockFenced`), and their work ends with FENCED. -/
def stkSet (n k : Nat) (on : Bool) (s : State) : State :=
  let m := rdF s (MRG_STK_STATE n) MRG_STK_STATE_ONLINE
  wrF s (MRG_STK_STATE n) MRG_STK_STATE_ONLINE (if on then m ||| 2 ^ k else m &&& (15 - 2 ^ k))

end Sys2Proof.Machine
end

