-- ==== Sys2Proof/Machine/Power.lean ====
section
/-! DEFINITION. Supply rails and their levels (R462 to R470), junction temperature (R471), PARK (R473), STANDBY (R474), power-on and the
RESET_N pin (R465 to R467). -/

namespace Sys2Proof.Machine

def modPwr (s : State) (f : Power → Power) : State := { s with pwr := f s.pwr }

/-! ### Rails -/

/-- R463: the core rails. -/
def coreRail (r : Nat) : Bool := r < 12 || r == 40

/-- R474: the rails that STANDBY lets the board remove. -/
def gatableRail (r : Nat) : Bool := r < 20 || (32 ≤ r && r < 40)

/-- Table PWR-1: the level of a rail that is no core rail, in mV. -/
def railLevel (r : Nat) : Nat :=
  if r < 16 then 750 else if r < 20 then 1200 else if r < 24 then 1050 else if r < 28 then 700 else if r < 32 then 1800
  else if r < 36 then 750 else if r < 40 then 1200 else if r = 41 then 1050 else if r = 42 then 500 else 1800

/-- How far a voltage lies from a level. -/
def railOff (r mv : Nat) : Nat := if mv ≤ railLevel r then railLevel r - mv else mv - railLevel r

/-- R465: a rail is good within its level range or tolerance. -/
def railGood (r mv : Nat) : Bool := if coreRail r then 650 ≤ mv && mv ≤ 850 else 100 * railOff r mv ≤ 3 * railLevel r

/-- R468, R470: a voltage that raises RAIL_FAULT. -/
def railFaults (r mv : Nat) : Bool := if coreRail r then mv < 620 || 880 < mv else 5 * railLevel r < 100 * railOff r mv

/-- The voltage last reported for a rail; 0 before any report. -/
def railMv (s : State) (r : Nat) : Nat := (sfind s.pwr.mv r).getD 0
def sleepOk (s : State) : Bool := rdBit s PWR_STATE PWR_STATE_SLEEP_OK
def devState (s : State) : Nat := rdF s PWR_STATE PWR_STATE_DEV
def setDev (v : Nat) (s : State) : State := wrF s PWR_STATE PWR_STATE_DEV v
def railSel (s : State) : Nat := rdF s PWR_RAIL_SEL PWR_RAIL_SEL_RAIL

/-- A rail's voltage is measured: PWR_RAIL_MIN follows the selected rail (R482). -/
def railSet (r mv : Nat) (s : State) : State :=
  let s := modPwr s fun p => { p with mv := sput p.mv r (mv % 65536) }
  if railSel s = r then wrF s PWR_RAIL_MIN PWR_RAIL_MIN_MV (min (mv % 65536) (rdF s PWR_RAIL_MIN PWR_RAIL_MIN_MV)) else s

/-- A condition that lasts begins anew for a part (`new`), or has ended for every part (`none_`) (R418). -/
def lasting (f : Src) (new none_ : Bool) (s : State) : State :=
  if new then fireSource f 0 (addCause f 0 0 s) else if none_ then dropCause f 0 s else s

/-- R468: the core rails below WARN_MV, and SUPPLY_WARN with them. -/
def supplyCheck (s : State) : State :=
  let warn := rdF s PWR_SUPPLY_LIMITS PWR_SUPPLY_LIMITS_WARN_MV
  let below := (List.range 41).filter fun r => coreRail r && (sfind s.pwr.mv r).isSome && decide (railMv s r < warn)
  let new := below.any fun r => !s.pwr.below.contains r
  lasting srcPWR_SUPPLY_WARN new below.isEmpty (modPwr s fun p => { p with below := below })

/-- A core rail stayed below the warning level for 100 ns. -/
def supplyWarn (r mv : Nat) (s : State) : State := if coreRail r then supplyCheck (railSet r mv s) else s

/-- R470: a rail left its limits, or was removed. A gatable rail may go while SLEEP_OK is high (R474). -/
def railFault (r mv : Nat) (s : State) : State :=
  if 44 ≤ r ∨ !railFaults r mv then s else
  let new := !s.pwr.bad.contains r || !railFaults r (railMv s r)
  let s := railSet r mv s
  let s := modPwr s fun p => { p with bad := if p.bad.contains r then p.bad else p.bad ++ [r] }
  if gatableRail r && sleepOk s then s else lasting srcPWR_RAIL_FAULT new false s

/-- A rail rises: it is good again within its tolerance, and the causes that no rail holds any more end. -/
def railBack (r mv : Nat) (s : State) : State :=
  if 44 ≤ r then s else
  let s := supplyCheck (railSet r mv s)
  let s := if railGood r mv then modPwr s fun p => { p with bad := p.bad.filter (· != r) } else s
  lasting srcPWR_RAIL_FAULT false (s.pwr.bad.all fun x => !railFaults x (railMv s x) || (gatableRail x && sleepOk s)) s

/-- PWR_RAIL_VIEW.STATE: 0 off, 1 good, 2 below warning, 3 fault. -/
def railState (s : State) (r : Nat) : Nat :=
  if railMv s r = 0 then 0 else if s.pwr.bad.contains r then 3 else if s.pwr.below.contains r then 2 else 1

/-- R482: a rail is selected, or a number of 44 and above completes with an error. -/
def railSelect (w : Word) (s : State) : State :=
  let r := PWR_RAIL_SEL_RAIL.get w
  if 44 ≤ r then csrRefused s else okReply (wrF (wrF s PWR_RAIL_SEL PWR_RAIL_SEL_RAIL r) PWR_RAIL_MIN PWR_RAIL_MIN_MV 0xFFFF)

/-- R482: what PWR_RAIL_MIN reads: the lowest voltage of the selected rail since the previous read or selection, to which the voltage
that stands at the read belongs (log entry 75). -/
def railLow (s : State) : Nat := min (rdF s PWR_RAIL_MIN PWR_RAIL_MIN_MV) ((sfind s.pwr.mv (railSel s)).getD 0xFFFF)

/-- R482: a read of PWR_RAIL_MIN returns it to 0xFFFF. -/
def railMinRead (s : State) : State := okReply (wrF s PWR_RAIL_MIN PWR_RAIL_MIN_MV 0xFFFF) (BitVec.ofNat 64 (railLow s))

/-! ### Temperature (R471) -/

/-- The regions with sensors, numbered as FLT units, and the register of each. -/
def thermRegions : List Nat :=
  (List.range 16).map (0x10 + ·) ++ (List.range 16).map (0x20 + ·) ++ (List.range 4).map (0x30 + ·) ++ [0x40]
def tempReg (n : Nat) : Nat :=
  if n < 0x20 then PWR_TEMP_RGN (n - 0x10) else if n < 0x30 then PWR_TEMP_PRG (n - 0x20) else if n < 0x40 then PWR_TEMP_MRG (n - 0x30)
  else PWR_TEMP_CTLR

/-- A region's temperature, in 1/16 °C. -/
def tempOf (s : State) (n : Nat) : Int := (BitVec.ofNat 16 (rdReg s (tempReg n)).toNat).toInt

/-- A region's hottest sensor is read. -/
def tempSet (n : Nat) (t : Int) (s : State) : State :=
  let s := wrReg s (tempReg n) (BitVec.ofNat 64 (wrapInt 16 t))
  let hot := thermRegions.foldl (fun m k => if tempOf s m < tempOf s k then k else m) 0x10
  wrF (wrF s PWR_TJ_MAX PWR_TJ_MAX_TEMP (wrapInt 16 (tempOf s hot))) PWR_TJ_MAX PWR_TJ_MAX_REGION hot

/-- The regions above WARN, and THERM_WARN with them. -/
def thermCheck (s : State) : State :=
  let warn : Int := 16 * rdF s PWR_THERM PWR_THERM_WARN
  let warm := thermRegions.filter fun n => decide (warn < tempOf s n)
  let new := warm.any fun n => !s.pwr.warm.contains n
  lasting srcPWR_THERM_WARN new warm.isEmpty (modPwr s fun p => { p with warm := warm })

/-- A region rises above WARN. -/
def thermWarn (n : Nat) (t : Int) (s : State) : State := if thermRegions.contains n then thermCheck (tempSet n t s) else s

/-- A region stayed at or above 110 °C for 10 µs: THERMTRIP_N goes low. -/
def thermTrip (n : Nat) (t : Int) (s : State) : State :=
  if !thermRegions.contains n ∨ t < 1760 then s else
  let s := thermCheck (tempSet n t s)
  let new := !s.pwr.hot.contains n
  let s := modPwr s fun p => { p with hot := if new then p.hot ++ [n] else p.hot, trip := true }
  lasting srcPWR_THERM_TRIP new false s

/-- A region cools. -/
def cooled (n : Nat) (t : Int) (s : State) : State :=
  if !thermRegions.contains n then s else
  let s := thermCheck (tempSet n t s)
  if t < 1760 then
    let s := modPwr s fun p => { p with hot := p.hot.filter (· != n) }
    lasting srcPWR_THERM_TRIP false s.pwr.hot.isEmpty s
  else s

/-! ### PARK (R473) -/

/-- The region that the DATA of REGION_PARK and REGION_UNPARK names, and its key in the power state. -/
def parkRegion (d : Nat) : Option (Bool × Nat) :=
  if bits d 5 4 = 0 then some (false, d % 16) else if bits d 5 4 = 1 then some (true, d % 16) else none
def parkKey (r : Bool × Nat) : Nat := 16 * r.1.toNat + r.2

def parkOk (s : State) (d : Nat) : Bool :=
  match parkRegion d with
  | some (false, n) => (crgDom s n).isNone && (List.range 256).all (fun i => bobState s (256 * n + i) == bsIDLE)
      && (openColls s).all fun e => !(cdReducing e.2.desc && (cdRegions e.2.desc).contains n)
  | some (true, n) => (prgDom s n).isNone && (List.range 16).all (fun i => linkState s (16 * n + i) == lsDISABLED)
      && s.sht.qps.all fun e => qpEngine e.1 != n || e.2.state == qsRESET
  | none => false

def setParked (r : Bool × Nat) (on : Bool) (s : State) : State :=
  let f := if r.1 then PWR_STATE_PARKED_PRG else PWR_STATE_PARKED_RGN
  let m := rdF s PWR_STATE f
  wrF s PWR_STATE f (if on then m ||| 2 ^ r.2 else m &&& (65535 - 2 ^ r.2))

/-- The commit of REGION_PARK: the region accepts no new work. -/
def park (d : Nat) (s : State) : State :=
  match parkRegion d with
  | some r => addDueRegion r (setParked r true (bump s PWR_PARKS))
  | none => s
where addDueRegion (r : Bool × Nat) (s : State) : State := if r.1 then s else addDue (.regionGone r.2) s

/-- Requests that still stand at a region: what its slice, its conjunction unit or its bobbins' reads hold. -/
def regionBusy (s : State) (r : Bool × Nat) : Bool :=
  if r.1 then (allCells s).any (·.slice == r.2) || s.mem.reqs.any (·.prg == r.2) || !(cmbOf s r.2).ops.isEmpty
  else (List.range 256).any fun i => !(bobOf s (256 * r.2 + i)).steps.isEmpty

/-- The last outstanding request of a parked region ended: it powers off. -/
def parkOff (k : Nat) (s : State) : State :=
  let r : Bool × Nat := (decide (16 ≤ k % 32), k % 16)
  if regionParked s r.1 r.2 && !regionBusy s r && !s.pwr.off.contains (k % 32) then modPwr s fun p => { p with off := p.off ++ [k % 32] } else s

/-- The commit of REGION_UNPARK: the region powers up. -/
def unpark (d : Nat) (s : State) : State :=
  match parkRegion d with
  | some r =>
    if regionParked s r.1 r.2 && !s.pwr.up.contains (parkKey r) then modPwr s fun p => { p with up := p.up ++ [parkKey r] } else s
  | none => s

/-- The registers of a region return to their reset values, unless coded K, and every GEN to 0x01. -/
def exitRegion (r : Bool × Nat) (s : State) : State :=
  let s := wipeRegs .exit (onRegion r) (resetRegion r s)
  let s := { s with regs := s.regs.filter fun e => !(onRegion r e.1 && csrOff e.1 == 0x050) }
  if r.1 then
    let mine := fun (p : Nat) => p / 16 == r.2
    let s := { s with
      ports := s.ports.filter fun e => !mine e.1
      gates := sdel s.gates r.2
      sht := { s.sht with qps := s.sht.qps.filter fun e => qpEngine e.1 != r.2 }
      ground := { s.ground with
        stalled := s.ground.stalled.filter (fun k => !mine (k / 8)), tokenWait := s.ground.tokenWait.filter (fun k => !mine (k / 8))
        tokens := s.ground.tokens.filter fun e => !mine (e.1 / 8), wake := s.ground.wake.filter fun e => !mine (e.1 / 8)
        meters := s.ground.meters.filter fun e => !mine (e.1 / 32), inForce := s.ground.inForce.filter fun e => !onRegion r e.1 } }
    setCmb s r.2 {}
  else emptyBanks r.2 s

/-- The power-up of an unparked region is over (the PARK-exit column of Table FLT-8). -/
def parkExit (k : Nat) (s : State) : State :=
  let r : Bool × Nat := (decide (16 ≤ k % 32), k % 16)
  if !s.pwr.up.contains (k % 32) then s else
  let s := setParked r false (exitRegion r s)
  let s := modPwr s fun p => { p with up := p.up.filter (· != k % 32), off := p.off.filter (· != k % 32) }
  abortOn (fun e => unitRegion (csrGroup e.target) (csrUnit e.target) == some r) 0x13 s

/-! ### STANDBY (R474, Table PWR-5) -/

def standbyOk (s : State) : Bool := (List.range 16).all (fun p => partState s p != 1) && !anyBound s

/-- DEV_STANDBY commits, as the action of the clause in a slot. -/
def standbyEnter (slot : Nat) (s : State) : State :=
  let s := bump (setDev 1 s) PWR_STANDBYS
  let s := (List.range 16).foldl (fun s c => if c != slot && clsLive s c then addDue (.clause c 0x10) s else s) s
  let s := (List.range 256).foldl (fun s p => if linkState s p = lsDISABLED then s else linkDisable p s) s
  let s := (List.range 16).foldl (fun s c => if cxlState s c = 0 then s else cxlLeave c 0 s) s
  let s := dropContribs (fun _ => true) (wipeRegs .exit (fun a => csrGroup a == grSEC) s)
  { s with
    colls := [], sets := []
    ground := { s.ground with mcast := [], routes := [], groups := [] }
    mem := { pool := s.mem.pool, sectors := s.mem.sectors, errs := s.mem.errs }
    sec := { index := s.sec.index, tap := s.sec.tap } }

/-- Entry is complete: SLEEP_OK goes high. -/
def standbyEntered (s : State) : State :=
  if devState s = 1 then wrF (setDev 2 s) PWR_STATE PWR_STATE_SLEEP_OK 1 else s

/-- R465, R474: a gatable rail that is not good: one removed or out of its limits, or one whose last report lies outside its level range
or tolerance. -/
def gatableBad (s : State) : Bool :=
  (List.range 44).any fun r => gatableRail r && (s.pwr.bad.contains r || (sfind s.pwr.mv r).any fun mv => !railGood r mv)

/-- A write of PWR_STANDBY.EXIT. In STANDBY with every gatable rail good the device is initialised; in any other state EXIT does
nothing. The outcome record has retention C without K, so that it is empty then (R45, R65). -/
def standbyExit (s : State) : State :=
  if devState s ≠ 2 then okReply s
  else if gatableBad s then csrRefused s
  else
    let p := s.pwr
    let s := wipeRegs .exit (fun _ => true) (chipClear s)
    let s := { s with
      regs := s.regs.filter fun e => !(csrOff e.1 == 0x050) && !(csrGroup e.1 == grCLS && csrUnit e.1 < 16)
      ground := {}, sht := {}, outcomes := [], clk := {}, tim := { ref := s.tim.ref }, pwr := { p with off := [], up := [] } }
    okReply (wrReg s PWR_STATE (PWR_STATE_DEV.set 0 3))

/-- The device is initialised: link training starts, and the device is in RUN. -/
def standbyLeft (s : State) : State :=
  if devState s ≠ 3 then s else
  let s := (List.range 256).foldl (fun s p => portRestart p s) (timStart (setDev 0 s))
  (List.range 16).foldl (fun s c => if cxlOn s c then setCxlState c 1 s else s) s

/-! ### Power-on and RESET_N (R465 to R467) -/

/-- The first release of RESET_N after VDD_AUX became good, with the voltage of every rail. It takes effect once every rail is good. -/
def powerOn (rails : List Nat) (s : State) : State :=
  if s.boot.on || !((List.range 44).all fun r => railGood r (rails.getD r 0)) then s else
  let b := State.reset
  let mv := (List.range 44).foldl (fun m r => sput m r (rails.getD r 0)) []
  romStart { b with
    pending := s.pending, free := s.free
    boot := { b.boot with shadow := s.boot.shadow, on := true }
    sec := { b.sec with index := s.sec.index }
    pwr := { b.pwr with mv := mv, trip := s.pwr.trip } }

/-- VDD_AUX falls below 1.62 V: THERMTRIP_N is released, the I3C target loses its address, and the next release is a power-on. -/
def auxLoss (s : State) : State :=
  modPwr (modBoot s fun b => { b with on := false, i3c := false, ibiHeld := [] }) fun p => { p with trip := false }

/-- RESET_N asserted for at least 1 µs, after power-on. -/
def resetPin (s : State) : State := if s.boot.on then beginChip 2 [] s else s

end Sys2Proof.Machine
end

