-- ==== Sys2Proof/Machine/View.lean ====
section
/-! DEFINITION. What a register reads (R41 to R46): the value in force, where the manual computes it from the state. A read here has no
side effect: the RC registers have commands of their own, and the dump engine reads without clearing (R437). -/

namespace Sys2Proof.Machine

/-! ### Expert registers (R46, R47) -/

/-- Whether a register is an expert register (R43). -/
def expertReg (a : Nat) : Bool := 0x400 ≤ csrOff a && csrOff a < 0xC00

/-- The value that applies in place of an expert register under LEVEL = 0: the ground's allocation of credits (Table LNK-9), and the
gate list that is open in every round (R80). -/
def derived (a : Nat) : Word :=
  if csrGroup a = grPRT then 0x2004040820102010#64
  else if csrGroup a = grPRG ∧ (csrOff a = 0x400 ∨ csrOff a = 0x800) then 0x400000FF#64
  else 0

/-- G_CTL.LEVEL of the page that holds a register. -/
def levelOf (s : State) (a : Nat) : Bool := rdBit s (csrBase a + 0x010) G_CTL_LEVEL

/-- The expert registers of the page at `base`. -/
def expertRegs (base : Nat) : List Nat :=
  ((List.range 256).map fun i => base + 0x400 + 8 * i).filter fun a => (regRow? a).isSome

/-! ### Header -/

/-- Whether a reset of the unit is in progress. -/
def unitInReset (s : State) (g u : Nat) : Bool :=
  s.flt.jobs.any fun j => !j.deferred && match j.scope.rung with
    | .context => j.scope.g == grCRG && g == grBOB && u == 256 * j.scope.u + j.scope.ctx
    | .engine => j.scope.g == g && j.scope.u == u
    | .partition => unitOwner s g u == some j.scope.u
    | .region => unitRegion g u == some (j.scope.g == grPRG, j.scope.u)
    | .chip => true

/-- Whether a unit is fenced: as a block, with its partition, or by PORT_FENCE. -/
def unitFenced (s : State) (g u : Nat) : Bool :=
  blockFenced s g u || (g == grPRT && (portOf s (gangBase s u)).fenced)
    || (match unitOwner s g u with
      | some p => partFenced s p
      | none => false)

/-- The set bits of a page whose source is not masked. -/
def liveSources (s : State) (base : Nat) : Nat :=
  (rdReg s (base + 0x020)).toNat &&& (0xFFFF - (rdReg s (base + 0x028)).toNat % 65536)

/-- Whether a clause in ARMED or PREPARED has an entry on the page at `base`. -/
def pageArmed (s : State) (base : Nat) : Bool :=
  s.cls.any fun e => (clsState s e.1 == csARMED || clsState s e.1 == csPREPARED) && e.2.entries.any fun x => csrBase x.target == base

def viewStatus (s : State) (base : Nat) : Word :=
  let g := csrGroup base
  let u := csrUnit base
  let rst := unitInReset s g u
  BitVec.ofNat 64 ((rdBit s (base + 0x010) G_CTL_ENABLE && !rst).toNat + 2 * rst.toNat + 4 * (liveSources s base != 0).toNat
    + 8 * (unitFenced s g u).toNat + 16 * (unitParked s g u).toNat + 32 * (pageArmed s base).toNat)

def viewCap (base : Nat) : Word :=
  let g := csrGroup base
  let u := csrUnit base
  let p := csrPage base
  let rows := pageRows g u p
  let expert := rows.any fun r => 0x400 ≤ r.off && r.off < 0xC00
  let staged := rows.any fun r => r.flds.any fun f => f.acc == .st
  BitVec.ofNat 64 ((pageSources g u p).length + lastPage g u * 2 ^ 8 + expert.toNat * 2 ^ 12 + staged.toNat * 2 ^ 13)

def viewHeader (s : State) (a : Nat) : Word :=
  let base := csrBase a
  match csrOff a with
  | 0x000 => BitVec.ofNat 64 (csrGroup a + csrUnit a * 2 ^ 8 + csrPage a * 2 ^ 20 + 2 ^ 24)
  | 0x008 => viewCap base
  | 0x018 => viewStatus s base
  | 0x038 => 0
  | 0x058 =>
    G_RESET_CTL_BUSY.set (G_RESET_CTL_LAST.set 0 (rdF s a G_RESET_CTL_LAST)) (s.flt.jobs.any fun j => j.askers.contains base).toNat
  | _ => rdReg s a

/-! ### Registers that show other state -/

/-- The classes (a bit each) of the unmasked sources that are set, among those of some collectors. -/
def classSet (s : State) (p : Nat → Bool) : Nat :=
  ((List.range 5).map fun k => if (setOfClass s k).any fun x => p (collectorOf x.1.g x.2) then 2 ^ k else 0).sum

/-- Whether ERR_N is driven low (R421). -/
def errN (s : State) : Bool := (setSources s).any fun x => !srcMasked s x.1 x.2 && srcClass s x.1 x.2 != 0

/-- FLT_REGION_SUM: the regions that hold an unmasked bit whose class is not NOTICE. -/
def regionSum (s : State) : Nat :=
  let hot := ((setSources s).filter fun x => !srcMasked s x.1 x.2 && srcClass s x.1 x.2 != 0).map fun x => collectorOf x.1.g x.2
  ((List.range 37).map fun i => if hot.contains (if i < 36 then 0x10 + i else 0x40) then 2 ^ i else 0).sum

def viewFlt (s : State) (a : Nat) : Word :=
  if a = FLT_CHIP_STATUS then
    BitVec.ofNat 64 (classSet s (fun _ => true) + s.flt.safe.toNat * 2 ^ 8 + (errN s).toNat * 2 ^ 9)
  else if a = FLT_REGION_SUM then BitVec.ofNat 64 (regionSum s)
  else if a = FLT_PART_SUM then
    BitVec.ofNat 64 ((List.range 16).map fun p => (partFenced s p).toNat * 2 ^ p
      + (s.flt.jobs.any fun j => j.scope.rung == .partition && j.scope.u == p).toNat * 2 ^ (16 + p)).sum
  else if csrUnit a ≠ 0 ∧ a = FLT_RGN_STATUS (csrUnit a) then BitVec.ofNat 64 (classSet s (· == csrUnit a))
  else rdReg s a

def viewColl (s : State) : Word :=
  let id := rdF s GND_COLL_SEL GND_COLL_SEL_ID
  let c := collOf s id
  BitVec.ofNat 64 (c.state + c.reason % 256 * 2 ^ 8 + (s.sets.countP (·.coll == id)) * 2 ^ 16 + cdTag c.desc * 2 ^ 32)

def viewGround (s : State) (a : Nat) : Word :=
  let n := csrUnit a
  if a = GND_COLL_VIEW then viewColl s
  else if a = GND_BUF_STATE n then BitVec.ofNat 64 (reservedUsed s n + sharedUsed s n * 2 ^ 17)
  else if a = GND_RESEQ_STATE n then
    BitVec.ofNat 64 (reseqEntries s n + s.ground.flows.countP (·.prg == n) * 2 ^ 16)
  else if a = GND_ROUTE_STATE then
    GND_ROUTE_STATE_HOLDING.set (rdReg s a) (s.ground.cells.any (·.hold == .route)).toNat
  else rdReg s a

def viewCmb (s : State) (a : Nat) : Word :=
  let c := cmbOf s (csrUnit a)
  if a = CMB_BUF_STATE (csrUnit a) then BitVec.ofNat 64 (c.bufs.map (·.len)).sum
  else if a = CMB_REPLY_STATE (csrUnit a) then
    BitVec.ofNat 64 (c.cache.countP (·.reply.isNone) + c.cache.countP (·.reply.isSome) * 2 ^ 16)
  else rdReg s a

def viewSht (s : State) (a : Nat) : Word :=
  let n := csrUnit a
  if csrPage a = 0 then
    if SHT_QP_CTX n 0 ≤ a ∧ a ≤ SHT_QP_CTX n 15 then
      BitVec.ofNat 64 (leAt (qpOf s (2048 * n + rdF s (SHT_QP_SEL n) SHT_QP_SEL_QP)).bytes (a - SHT_QP_CTX n 0) 8)
    else rdReg s a
  else if a = SHT_REG_VIEW then
    let i := rdF s SHT_REG_SEL SHT_REG_SEL_INDEX
    let r := shtReg s i
    BitVec.ofNat 64 (r.state + r.keygen * 2 ^ 8 + (regPlaces s i).length * 2 ^ 16)
  else rdReg s a

def viewBob (s : State) (a : Nat) : Word :=
  let b := csrUnit a
  if a = BOB_STATE b then BOB_STATE_DEPTH.set (rdReg s a) (bobOf s b).stack.length
  else if a = BOB_POS b then
    BOB_POS_ISSUED.set (BOB_POS_READS.set (rdReg s a) (readsOut (bobOf s b))) (bobOf s b).steps.length
  else rdReg s a

/-- R178: the EXPAND counters of a station bound to COMPRESS read zero. -/
def viewStn (s : State) (a : Nat) : Word :=
  let u := csrUnit a
  if STN_EXP_TILES u ≤ a ∧ a ≤ STN_EXP_SLOT_BYTES u ∧ rdF s (STN_BIND u) STN_BIND_TYPE = 0x0F then 0 else rdReg s a

def viewSec (s : State) (a : Nat) : Word :=
  if csrUnit a ≠ 16 then rdReg s a
  else if SEC_CUST_KEY 0 ≤ a ∧ a ≤ SEC_CUST_KEY 3 then BitVec.ofNat 64 (leAt (custKeyBank custBank) (a - SEC_CUST_KEY 0) 8)
  else if a = SEC_CUST_BANK then BitVec.ofNat 64 custBank
  else if a = SEC_SIGN_INDEX then BitVec.ofNat 64 s.sec.index
  else rdReg s a

def viewPwr (s : State) (a : Nat) : Word :=
  if a = PWR_RAIL_VIEW then BitVec.ofNat 64 (railMv s (railSel s) + railState s (railSel s) * 2 ^ 16)
  else if a = PWR_RAIL_MIN then BitVec.ofNat 64 (railLow s)
  else match thermRegions.find? fun n => tempReg n == a with
    | some n =>
      if n < 0x30 ∧ regionParked s (decide (0x20 ≤ n)) (n % 16) then 0 else rdReg s a
    | none => rdReg s a

/-- The digest that CLS_DIGEST shows: that of R52, or a coordinator's global digest (R64). -/
def clsDigest (s : State) (c : Nat) : Bytes :=
  let x := sget (fun _ => {}) s.cls c
  if rdBit s (CLS_STATE c) CLS_STATE_GLOBAL then x.glob else x.dig

/-- The clause registers that show other state. A FREE slot's CLS_GLOBAL_ID names its coordinator, with no serial yet (log entry 23). -/
def viewCls (s : State) (a : Nat) : Word :=
  let c := csrUnit a
  if c = 16 then if a = CLS_OUTCOME_USE then BitVec.ofNat 64 s.outcomes.length else rdReg s a
  else if a = CLS_GLOBAL_ID c ∧ rdF s (CLS_STATE c) CLS_STATE_STATE = 0 then
    CLS_GLOBAL_ID_COORD_SLOT.set (CLS_GLOBAL_ID_COORD_SWITCH.set 0 (ownId s)) c
  else if CLS_DIGEST c 0 ≤ a ∧ a ≤ CLS_DIGEST c 3 then BitVec.ofNat 64 (leAt (clsDigest s c) (a - CLS_DIGEST c 0) 8)
  else rdReg s a

/-- What a register reads. A register that does not exist reads zero, and so does a page of a parked region beyond its header (R473). -/
def csrView (s : State) (a : Nat) : Word :=
  if (regRow? a).isNone then 0
  else if csrOff a < 0x100 then viewHeader s a
  else if unitParked s (csrGroup a) (csrUnit a) then 0
  else if expertReg a && !levelOf s a then derived a
  else
    let g := csrGroup a
    if g = grFLT then viewFlt s a
    else if g = grGND then viewGround s a
    else if g = grCMB then viewCmb s a
    else if g = grSHT then viewSht s a
    else if g = grBOB then viewBob s a
    else if g = grSTN then viewStn s a
    else if g = grSEC then viewSec s a
    else if a = DIR_ENTRIES (csrUnit a) then BitVec.ofNat 64 (s.mem.dir.countP fun e => lineSlice s (64 * e.1) == csrUnit a)
    else if g = grPWR then viewPwr s a
    else if g = grCLS then viewCls s a
    else if a = TIM_NOW then BitVec.ofNat 64 (now s)
    else if a = CHP_DEVICE_ID then BitVec.ofNat 64 fuseDeviceId
    else if a = CRG_TBK_STATE (csrUnit a) then
      BitVec.ofNat 64 (0x1FFFF - 2 ^ rdF s (CRG_TBK_MAP (csrUnit a)) CRG_TBK_MAP_SPARE_PHYS)
    else rdReg s a

end Sys2Proof.Machine
end

