-- ==== Sys2Proof/Machine/Clause.lean ====
section
/-! DEFINITION. Clauses up to validation (chapter 2): slots, staging and sealing (R48 to R52), what each action and each register asks
for (items 1 to 6 of R53, R62, R63, R483 and the chapters of the targets), claims (R484), and the abort (R59, R61, R64). -/

namespace Sys2Proof.Machine

/-! ### A clause's fields -/

def setCls (s : State) (c : Nat) (x : Clause) : State := { s with cls := sset (fun _ => {}) s.cls c x }
def modCls (c : Nat) (f : Clause → Clause) (s : State) : State := setCls s c (f (clsOf s c))

def setClsState (c st : Nat) (s : State) : State := wrF s (CLS_STATE c) CLS_STATE_STATE st
def clsPeers (s : State) (c : Nat) : Nat := rdF s (CLS_COND c) CLS_COND_PEERS
def clsTime (s : State) (c : Nat) : Nat := (rdReg s (CLS_TIME c)).toNat
def clsGid (s : State) (c : Nat) : Nat := (rdReg s (CLS_GLOBAL_ID c)).toNat
def clsReq (s : State) (c : Nat) : Nat := rdF s (CLS_REQUESTER c) CLS_REQUESTER_KIND
def clsReqPart (s : State) (c : Nat) : Nat := rdF s (CLS_REQUESTER c) CLS_REQUESTER_PARTITION


/-- What an entry's validation takes from its clause. -/
def vctx (s : State) (c : Nat) : VCtx where
  slot := c
  req := clsReq s c
  part := clsReqPart s c
  cond := clsKind s c
  role := clsRole s c
  dom := clsDom s c
  leases := (clsOf s c).leases

/-! ### Messages between coordinator and participants (R64, R65) -/

/-- A CTRL message on TC6 to another switch's registrar. -/
def toSwitch (sw op : Nat) (pay : Bytes) (s : State) : State := emit (.hub 0) (ctrlMsg s (sw * 4096) op 6 pay) s

/-- The coordinator's switch of a clause. -/
def coordSwitch (s : State) (c : Nat) : Nat := rdF s (CLS_GLOBAL_ID c) CLS_GLOBAL_ID_COORD_SWITCH

def sendVote (c : Nat) (yes : Bool) (s : State) : State :=
  toSwitch (coordSwitch s c) cVOTE (leBytes 8 (clsGid s c) ++ leBytes 1 yes.toNat) s

def sendDecision (sw gid : Nat) (commit : Bool) (at_ : Nat) (s : State) : State :=
  toSwitch sw cDECISION (leBytes 8 gid ++ leBytes 1 commit.toNat ++ zeros 7 ++ leBytes 8 at_) s

/-- An entry of the outcome record. -/
def outcomeOf (s : State) (gid : Nat) : Option Outcome := s.outcomes.find? (·.gid == gid)
def putOutcome (o : Outcome) (s : State) : State := { s with outcomes := s.outcomes.filter (·.gid != o.gid) ++ [o] }
def dropOutcome (gid : Nat) (s : State) : State := { s with outcomes := s.outcomes.filter (·.gid != gid) }

/-- The coordinator of a clause records its decision and sends it to every participant whose PREPARE it holds (R64). Without a free
entry the decision is not recorded. -/
def recordDecision (c : Nat) (commit : Bool) (at_ : Nat) (s : State) : State :=
  let gid := clsGid s c
  let held := (clsOf s c).preps.map (·.1)
  let room := (outcomeOf s gid).isSome || s.outcomes.length < 256
  let s := if held.isEmpty then dropOutcome gid s else if room then putOutcome ⟨gid, some (commit, at_), held⟩ s else s
  held.foldl (fun s sw => sendDecision sw gid commit at_ s) s

/-! ### The abort (R59, R61, R64) -/

/-- What the passed entries took is given back, last first; `doubt`: the clause ends IN_DOUBT. -/
def undoEntries (c : Nat) (doubt : Bool) (s : State) : State :=
  let x := clsOf s c
  let s := (x.entries.take x.passed).reverse.foldl (fun s e =>
    if e.isAction && homeAction e.code e.page then homeUndo c e.code e.desc doubt s else s) s
  pubLapse c (releaseHeld c s)

/-- Direct writes that the guard interval held are applied. -/
def releaseWrites (c : Nat) (s : State) : State :=
  let ws := (clsOf s c).delayed
  ws.foldl (fun s w => addDue (.write w.1 w.2) s) (modCls c (fun x => { x with delayed := [], inGuard := false }) s)

/-- A clause aborts with a reason of Table CTL-7. -/
def clauseAbort (c reason : Nat) (s : State) : State :=
  if !clsLive s c then s else
  let st := clsState s c
  let s := undoEntries c (reason == 0x16) s
  let s := modCls c (fun x => { x with passed := 0, checked := false }) (releaseWrites c s)
  let s := bump (wrF (setClsState c csABORTED s) (CLS_STATE c) CLS_STATE_REASON reason) CLS_ABORTS
  let s := if reason = 0x18 then bump s MRG_PUB_CONFLICTS else s
  if clsRole s c = 1 then
    match outcomeOf s (clsGid s c) with
    | some o => if o.decided.isSome then s else recordDecision c false 0 s
    | none => recordDecision c false 0 s
  else if clsRole s c = 2 ∧ st = csVALIDATING ∧ reason ≠ 0x15 then sendVote c false s
  else s

/-- An entry fails an item of R53. -/
def failEntry (c i reason : Nat) (s : State) : State :=
  clauseAbort c reason (wrF s (CLS_STATE c) CLS_STATE_FAILED_ENTRY i)

/-! ### Slots (R48 to R52) -/

/-- R49: a read of CLS_ALLOC. -/
def clsAlloc (s : State) : State :=
  match (List.range 16).find? fun c => clsState s c == csFREE && unitOn s grCLS c with
  | none => okReply s (CLS_ALLOC_SLOT.set 0 0x1F)
  | some c =>
    let serial := s.serial
    let gid := CLS_GLOBAL_ID_SERIAL.set (CLS_GLOBAL_ID_COORD_SLOT.set (CLS_GLOBAL_ID_COORD_SWITCH.set 0 (ownId s)) c) serial
    let s := setCls s c { opened := now s }
    let s := wrReg (wrReg s (CLS_STATE c) (CLS_STATE_STATE.set 0 csOPEN)) (CLS_GLOBAL_ID c) gid
    okReply { s with serial := (serial + 1) % 2 ^ 32 } (CLS_ALLOC_SERIAL.set (CLS_ALLOC_SLOT.set 0 c) serial)

/-- R50, R48: a write of CLS_STAGE_DATA. That of entry 4,097 aborts the clause, and the write itself completes (DESIGN CHOICE, log entry 132). -/
def stageData (c : Nat) (w : Word) (s : State) : State :=
  if clsState s c ≠ csOPEN then csrRefused s else
  let x := clsOf s c
  if 4096 ≤ x.entries.length then okReply (clauseAbort c 0x03 s) else
  let e : Entry := { addr := rdReg s (CLS_STAGE_ADDR c), mask := rdReg s (CLS_STAGE_MASK c), data := w }
  let s := setCls s c { x with entries := x.entries ++ [e] }
  let s := wrF s (CLS_STATE c) CLS_STATE_ENTRIES (x.entries.length + 1)
  okReply (wrReg s (CLS_STAGE_MASK c) (BitVec.allOnes 64))

/-- R52: the text that the digest covers. -/
def clauseText (s : State) (c : Nat) : Bytes :=
  let x := clsOf s c
  leBytes 8 fuseDeviceId ++ leBytes 8 (clsGid s c) ++ leBytes 8 x.opened ++ leBytes 8 (rdReg s (CLS_COND c)).toNat
    ++ leBytes 8 (clsTime s c) ++ leBytes 8 (rdReg s (CLS_REQUESTER c)).toNat
    ++ x.entries.flatMap fun e => leBytes 8 e.addr.toNat ++ leBytes 8 e.mask.toNat ++ leBytes 8 e.data.toNat

/-- R64: the global digest over the devices' local digests, in increasing switch ID. -/
def globalDigest (gid : Nat) (ds : List (Nat × Bytes)) : Bytes :=
  let m : SMap Bytes := ds.foldl (fun m d => sput m (d.1 % 4096) (bslice d.2 0 32)) []
  shake256 (leBytes 8 gid ++ leBytes 2 m.length ++ m.flatMap fun d => leBytes 2 d.1 ++ d.2) 32

/-- R64, step 3: a sealed coordinator that holds PEERS PREPAREs forms the global digest. -/
def tryGlobal (c : Nat) (s : State) : State :=
  let x := clsOf s c
  if clsRole s c = 1 ∧ (clsState s c = csSEALED ∨ clsState s c = csVALIDATING) ∧ x.glob = [] ∧ clsPeers s c ≠ 0
      ∧ x.preps.length = clsPeers s c then
    let g := globalDigest (clsGid s c) ((ownId s, x.dig) :: x.preps)
    wrF (setCls s c { x with glob := g }) (CLS_STATE c) CLS_STATE_GLOBAL 1
  else s

/-- R52, R64: CMD = SEAL. In a state for which Table CTL-6 has no row for a command, its write completes with an error (DESIGN CHOICE, log
entry 133). -/
def clsSeal (c : Nat) (s : State) : State :=
  if clsState s c ≠ csOPEN then csrRefused s else
  let d := shake256 (clauseText s c) 32
  let s := setClsState c csSEALED (modCls c (fun x => { x with dig := d }) s)
  let s := if clsRole s c = 2 ∧ idAssigned s then
      toSwitch (coordSwitch s c) cPREPARE (leBytes 8 (clsGid s c) ++ leBytes 2 (ownId s) ++ zeros 6 ++ d) s
    else s
  okReply (tryGlobal c s)

/-- Table CTL-6: CMD = RELEASE, which completes with an error in any other state (DESIGN CHOICE, log entry 133). -/
def clsRelease (c : Nat) (s : State) : State :=
  if clsState s c = csCOMMITTED ∨ clsState s c = csABORTED then
    okReply { s with
      cls := sdel s.cls c
      regs := s.regs.filter fun e => !(csrGroup e.1 == grCLS && csrUnit e.1 == c && 0x100 ≤ csrOff e.1) }
  else csrRefused s

/-! ### Staged values -/

/-- The bits of a register that a clause or a direct write of an RW register may change. -/
def writable (a : Nat) (p : FieldDef → Bool) : Word :=
  match regRow? a with
  | some r => (r.flds.filter p).foldl (fun m f => m ||| BitVec.ofNat 64 ((2 ^ f.fld.width - 1) * 2 ^ f.fld.lo)) 0
  | none => 0

def stageable (f : FieldDef) : Bool := f.acc == .rw || f.acc == .st

/-- The value that a register has once some entries have committed after one another. An expert register of a basic page starts from its
derived value (R47). -/
def stagedVal (s : State) (es : List Entry) (a : Nat) : Word :=
  es.foldl (fun w e => if e.kind == 0 && e.target == a then mergeBits w e.data e.mask else w)
    (if expertReg a && !levelOf s a then derived a else rdReg s a)

/-- LEVEL of the page that holds a register, once a clause's entries have committed (R47). -/
def stagedLevel (s : State) (es : List Entry) (a : Nat) : Bool := G_CTL_LEVEL.get (stagedVal s es (csrBase a + 0x010)) == 1

/-- Whether some entries write a register. -/
def stages (es : List Entry) (a : Nat) : Bool := es.any fun e => e.kind == 0 && e.target == a

/-! ### Values (item 3): registers -/

/-- The credits that a value of PRT_CREDIT_ADV reserves, in cells. -/
def advCells (w : Word) : Nat := ((List.range 8).map fun c => 4 * (PRT_CREDIT_ADV_TC c).get w).sum

/-- R347: the flits of credit that count for one port's value: the width of its gang on a base port, none on another member. -/
def gangShare (width : Nat → Nat) (q : Nat) : Nat :=
  if width (q / 4 * 4) = 2 then (if q % 4 = 0 then 4 else 0)
  else if width (q / 2 * 2) = 1 then (if q % 2 = 0 then 2 else 0)
  else 1

/-- The cells that a slice would reserve with a new value for one of its ports, and for the others what a clause's entries leave. -/
def sliceCells (s : State) (es : List Entry) (p : Nat) (w : Word) : Nat :=
  ((List.range 16).map fun i =>
    let q := p / 16 * 16 + i
    let a := PRT_CREDIT_ADV q
    gangShare (fun b => PRT_GANG_WIDTH.get (stagedVal s es (PRT_GANG b))) q
      * advCells (if q = p then w else if stagedLevel s es a then stagedVal s es a else derived a)).sum

/-- The values that a register's chapter allows, whoever writes it. `es`: the entries of the clause that does. -/
def valueOk (s : State) (es : List Entry) (a : Nat) (w : Word) : Bool :=
  let u := csrUnit a
  if csrOff a = 0x030 then (List.range 16).all fun k => (G_CLASS k).get w ≤ 4
  else if a = CRG_TBK_MAP u then CRG_TBK_MAP_SPARE_PHYS.get w ≤ 16
  else if a = TIM_SOURCE then TIM_SOURCE_KIND.get w ≤ 4
  else if a = TIM_DOM_ROUND u ∧ u ≠ 0 then
    8 ≤ TIM_DOM_ROUND_LEN.get w && TIM_DOM_ROUND_LEN.get w ≤ 16000 && TIM_DOM_ROUND_EPOCH_ROUNDS.get w != 0
  else if a = TIM_DOM_SLIP u ∧ u ≠ 0 then 1000 ≤ TIM_DOM_SLIP_LEAD.get w && TIM_DOM_SLIP_MAX_RUN.get w != 0
  else if a = PRT_GANG u then PRT_GANG_WIDTH.get w != 3 && u % 2 ^ PRT_GANG_WIDTH.get w == 0
  else if a = PRT_CREDIT_ADV u then (List.range 8).all (fun c => (PRT_CREDIT_ADV_TC c).get w != 0) && sliceCells s es u w ≤ 32768
  else if a = CXP_TRAY_T2 u then CXP_TRAY_T2_SIZE.get w ≤ 16384
  else if a = CXP_TRAY_T3 u then CXP_TRAY_T3_SIZE.get w ≤ 262144
  else if a = CXP_HOST_CFG u then 30 ≤ CXP_HOST_CFG_SLOT_LOG2.get w && CXP_HOST_CFG_SLOT_LOG2.get w ≤ 40
  else if (List.range 8).any (fun i => a == SEC_PART_GRANT u i) then SEC_PART_GRANT_TIER.get w != 1
  else if a = SEC_DEBUG then SEC_DEBUG_JTAG.get w != 3
  else if a = PWR_SUPPLY_LIMITS then 660 ≤ PWR_SUPPLY_LIMITS_WARN_MV.get w && PWR_SUPPLY_LIMITS_WARN_MV.get w ≤ 720
  else if a = PWR_THERM then 60 ≤ PWR_THERM_WARN.get w && PWR_THERM_WARN.get w ≤ 105
  else if a = PWR_RAIL_SEL then PWR_RAIL_SEL_RAIL.get w < 44
  else if a = QOS_VT u then
    max 1 (bits w.toNat 7 0) + max 1 (bits w.toNat 15 8) + max 1 (bits w.toNat 23 16) ≤ 256
  else true

/-- R93: the lead of a domain is at most a quarter of its round, with the clause's entries in place. -/
def leadOk (s : State) (es : List Entry) (u : Nat) : Bool :=
  4 * TIM_DOM_SLIP_LEAD.get (stagedVal s es (TIM_DOM_SLIP u)) ≤ 1000 * TIM_DOM_ROUND_LEN.get (stagedVal s es (TIM_DOM_ROUND u))

/-- What an entry makes of the members of a partition: a WRITE of them, PART_CREATE, PART_GROW or PART_SHRINK. -/
def entryMembers (p : Nat) (w : Word) (e : Entry) : Word :=
  if !e.isAction then (if e.kind == 0 && e.target == SEC_PART_MEMBERS p then mergeBits w e.data e.mask else w)
  else if csrGroup e.page ≠ grSEC ∨ csrUnit e.page ≠ p then w
  else
    let m := BitVec.ofNat 64 (pcMembers e.desc % 2 ^ 40)
    if e.code = 0x0500 then m else if e.code = 0x0501 then w ||| m else if e.code = 0x0502 then w &&& ~~~m else w

/-- What an entry makes of a grant. -/
def entryGrant (p i : Nat) (w : Word) (e : Entry) : Word :=
  if !e.isAction then (if e.kind == 0 && e.target == SEC_PART_GRANT p i then mergeBits w e.data e.mask else w)
  else if csrGroup e.page ≠ grSEC ∨ csrUnit e.page ≠ p then w
  else
    let g := pcGrant e.desc i
    if e.code = 0x0500 then g
    else if (grantOf g).isNone then w
    else if e.code = 0x0501 then g else if e.code = 0x0502 then 0 else w

/-- The partition table once some entries have committed after one another. -/
def tableAfter (s : State) (es : List Entry) : PartTable where
  members p := (es.foldl (entryMembers p) (rdReg s (SEC_PART_MEMBERS p))).toNat
  grants := (List.range 16).flatMap fun p => (List.range 8).filterMap fun i =>
    (grantOf (es.foldl (entryGrant p i) (rdReg s (SEC_PART_GRANT p i)))).map fun g => (p, i, g)

/-- R393, R396: a WRITE of a partition's members or of a grant leaves each unit with one partition, and no two grants that meet, with the
clause's entries in place (DEDUCED, log entry 63). -/
def tableOk (t : PartTable) (a : Nat) (new : Word) : Bool :=
  let u := csrUnit a
  if a = SEC_PART_MEMBERS u then membersFree t u new.toNat
  else match grantOf new with
    | none => true
    | some g => grantOk g && t.grants.all fun y => SEC_PART_GRANT y.1 y.2.1 == a || !grantsMeet g y.2.2

/-- What a WRITE entry asks of the state and of its clause: R73, R76, R93, R274, R351, R393, R452. `es` are the clause's entries. A domain that
another condition than AT_TIME starts has no instant that R76 could compare with ORIGIN: it passes (DESIGN CHOICE, log entry 113). -/
def writeValueOk (s : State) (c : Nat) (es : List Entry) (a : Nat) (new : Word) : Bool :=
  let u := csrUnit a
  let old := rdReg s a
  valueOk s es a new &&
    (if csrGroup a = grTIM ∧ u ≠ 0 ∧ a = TIM_DOM_ID u ∧ TIM_DOM_ID_BOUND.get old = 0 ∧ TIM_DOM_ID_BOUND.get new = 1 then
      timState s == tsLOCKED && (clsKind s c != 3 || clsTime s c + 100000 ≤ (stagedVal s es (TIM_DOM_ORIGIN u)).toNat)
    else if csrGroup a = grTIM ∧ u ≠ 0 ∧ (a = TIM_DOM_SLIP u ∨ a = TIM_DOM_ROUND u) then leadOk s es u
    else if (a = CRG_SCHED u ∨ a = PRG_SCHED u) ∧ CRG_SCHED_BOUND.get new = 1 then
      let id := TIM_DOM_ID (CRG_SCHED_DOM.get new + 1)
      TIM_DOM_ID_BOUND.get (stagedVal s es id) == 1
    else if csrGroup a = grSEC ∧ u < 16 then
      !(a == SEC_PART_MEMBERS u || (SEC_PART_GRANT u 0 ≤ a && a ≤ SEC_PART_GRANT u 7)) || tableOk (tableAfter s es) a new
    else if a = CHP_SWITCH_ID then
      (List.range 16).all (fun p => partState s p == 0) && !anyBound s && CHP_SWITCH_ID_ID.get new != 0xFFF
        && s.mem.objs.all (·.2.state == 0) && s.mem.hosted.isEmpty && s.mem.pubs.all (·.2.state == 0)
    else if a = CXP_ROLE u ∧ old ≠ new then
      s.mem.exts.all (fun e => e.2.state == esFREE || !(2 ≤ e.2.tier && e.2.home == ownId s && trayPort e.2.phys == u))
        && s.mem.pubs.all fun e => e.2.state == 0 || !bit e.2.cxp u
    else if a = MBX_BIND u ∧ u < 64 ∧ old ≠ new then (mbxOf s u).inq.isEmpty && (mbxOf s u).outq.isEmpty
    else true)

/-! ### Actions: pages, descriptors, values -/

def acGEN_BUMP : Nat := 0x0001
def acCOLL_OPEN : Nat := 0x0100
def acCOLL_CLOSE : Nat := 0x0101
def acCOLL_ABORT : Nat := 0x0102
def acMCAST_SET : Nat := 0x0110
def acMCAST_CLEAR : Nat := 0x0111
def acROUTE_LOAD : Nat := 0x0120

def isColl (code : Nat) : Bool := acCOLL_OPEN ≤ code && code ≤ acCOLL_ABORT
def isMcast (code : Nat) : Bool := code == acMCAST_SET || code == acMCAST_CLEAR
/-- The actions of Table SEC-1 on a partition's SEC page. -/
def isPartAction (code : Nat) : Bool :=
  (0x0500 ≤ code && code ≤ 0x0506) || (0x0510 ≤ code && code ≤ 0x0513) || code == 0x0520 || code == 0x0521

/-- The collective and the group that an action names. -/
def actColl (e : Entry) : Nat := e.data.toNat % 1024
def actGroup (e : Entry) : Nat := e.data.toNat % 4096

/-- Item 2 for an ACTION: whether it exists for its target page. -/
def actionExists (e : Entry) : Bool :=
  let k := e.code
  let a := e.page
  let g := csrGroup a
  let u := csrUnit a
  let p := csrPage a
  if k = acGEN_BUMP then true
  else if isColl k || isMcast k then a == csrAddr grGND 0 2 0
  else if k = acROUTE_LOAD then a == csrAddr grGND 0 1 0
  else if isPartAction k then g == grSEC && u < 16
  else if k = 0x0530 then g == grSEC && u == 16
  else if 0x0600 ≤ k ∧ k ≤ 0x0602 then g == grFLT && u == 0
  else if k = 0x0603 ∨ k = 0x0640 then g == grFLT && (fltRegion u).isSome
  else if k = acEPOCH_RESTART then g == grTIM && u != 0
  else if k = 0x0620 ∨ (0x0650 ≤ k ∧ k ≤ 0x0652) then g == grMRG && p == 0
  else if 0x0630 ≤ k ∧ k ≤ 0x0632 then g == grPRT
  else if k = 0x0641 then g == grTBK
  else if 0x0700 ≤ k ∧ k ≤ 0x0702 then g == grPWR
  else homeAction k a || shtAction k a

/-- The descriptor that an action reads at validation: where it stands and how long it is (log entry 20). -/
def descPlace (s : State) (e : Entry) : Option (Nat × Nat) :=
  let k := e.code
  let d := e.data.toNat
  if k = acCOLL_OPEN then some (rdF s GND_COLL_SRC GND_COLL_SRC_ADDR * 64 + 64 * actColl e, 64)
  else if k = acMCAST_SET then some (rdF s GND_MCAST_SRC GND_MCAST_SRC_ADDR * 64 + 64 * actGroup e, 64)
  else if k = acROUTE_LOAD then some (rdF s GND_ROUTE_SRC GND_ROUTE_SRC_ADDR * 64, 24576)
  else if k = 0x0500 ∨ k = 0x0501 ∨ k = 0x0502 then some (d, 104)
  else if k = 0x0503 ∨ k = 0x0512 ∨ k = 0x0513 then some (d, 8)
  else if k = 0x0506 ∨ k = 0x0530 then some (d, 32)
  else if k = 0x0510 ∨ k = 0x0511 then some (d, 1704)
  else if k = 0x0520 then some (d, 10085)
  else if shtAction k e.page ∧ shtDescLen k ≠ 0 then some (d, shtDescLen k)
  else none

/-- The entry with its descriptor as it reads now. -/
def readDesc (s : State) (e : Entry) : Entry :=
  if !e.isAction then e
  else if homeAction e.code e.page then { e with desc := homeDesc s e.code e.data.toNat }
  else match descPlace s e with
    | some (a, n) => { e with desc := cdLoad s a n }
    | none => e

/-! ### Retirement (R410, R411) -/

/-- The partition that an action entry acts for, where it acts on extents, queue pairs, registrations or collectives. The descriptor of one
that has not been validated is the one that stands in memory. -/
def entryPart (s : State) (e : Entry) : Option Nat :=
  let e := if e.desc.isEmpty then readDesc s e else e
  if e.kind ≠ 2 then none
  else if homeAction e.code (csrBase e.target) then homePart e.code e.desc s
  else if shtAction e.code (csrBase e.target) then some (shtPart (csrBase e.target) e.code e.data.toNat e.desc s)
  else if e.code = 0x0100 then some (cdPart e.desc)
  else if e.code = 0x0101 ∨ e.code = 0x0102 then some (cdPart (collOf s e.data.toNat).desc)
  else none

/-- Steps 1 to 4 of Table SEC-4. -/
def retirePart (p : Nat) (s : State) : State :=
  let s := abortOn (fun e => entryPart s e == some p) 0x13 (fencePart p s)
  let s := (s.mem.pubs.filter fun e => e.2.owner == p && e.2.state == 1).foldl (fun s e => retirePub e.1 e.2 s) s
  let drains := s.mem.moves.filter fun v => v.part == p && v.phase == 1
  let s := modMem s fun m => { m with
    moves := m.moves.filter fun v => !drains.contains v
    hosted := m.hosted.filter fun h => !(h.part == p && h.state != hsHOSTED) }
  let s := (s.sht.qps.filter fun e => e.2.part == p && e.2.state != 0).foldl
    (fun s e => modQp (shtDrop e.1 (fun _ => true) s) e.1 fun x => { x with retired := true, places := [], resps := [] }) s
  let s := (partRegions s p).foldl (fun s r => regionGen r s) (pgenNext p s)
  let s := (s.sht.regs.filter fun e => e.2.part == p && e.2.state != 0).foldl
    (fun s e => setShtReg s e.1 { keygen := (e.2.keygen + 1) % 256 }) s
  let s := keyZeroize p (drains.foldl (fun s v => (v.ext.map fun e => wakeExt e s).getD s) s)
  { s with sec := { s.sec with retiring := s.sec.retiring ++ [p] } }

/-- Table RGF-2: the formats of contributions and of results. -/
def collFmtIn (f : Nat) : Bool := [0x0F, 0x0D, 0x0E, 0x07, 0x08, 0x10].contains f
def collFmtOut (f : Nat) : Bool := 1 ≤ f && f ≤ 0x10 && f != 0x0C

/-- R210: whether a COLL_OPEN passes. -/
def collOpenOk (s : State) (id : Nat) (d : Bytes) : Bool :=
  let os := openColls s
  let reserved := fun (r : Nat) => ((os.filter fun e => cdReducing e.2.desc && (cdRegions e.2.desc).contains r).map fun e => cdReserve e.2.desc).sum
  (collOf s id).state == 0
    && bits (leAt d 0 1) 7 6 == 0 && bits (leAt d 1 1) 7 6 == 0 && leAt d 8 4 < 2 ^ 20 && leAt d 0x0C 4 < 2 ^ 20
    && leAt d 0x16 2 < 4096 && leAt d 0x20 4 < 2 ^ 24 && leAt d 0x24 4 < 2 ^ 20 && leAt d 0x2C 4 == 0 && leAt d 0x38 8 == 0
    && leAt d 0x30 8 < 8 && (outMode (leAt d 0x30 8)).isSome
    && cdKind d ≤ 3
    && (if cdReducing d then
          collFmtIn (cdFmtIn d) && collFmtOut (cdFmtOut d) && leAt d 0x14 2 != 0 && 1 ≤ cdReserve d && cdReserve d ≤ 32
            && (cdRegions d).all fun r => cdReserve d + reserved r ≤ 32
        else 1 ≤ cdFmtIn d && cdFmtIn d ≤ 0x10 && cdFmtOut d == cdFmtIn d)
    && (!fmtMx (cdFmtOut d) || cdCols d % 32 == 0)
    && !(mcOf s (cdGroup d)).isEmpty && leAt (mcOf s (cdGroup d)) 0x22 1 % 16 == cdPart d
    && (os.all fun e => cdContrib e.2.desc != cdContrib d && cdTag e.2.desc != cdTag d)
    && 1 ≤ cdTiles d && cdTiles d ≤ 2 ^ 24
    && (!cdStage d || cdParent d != 0)
    && (cdKind d != 1 || (!cdStage d && (mcFwds s (cdGroup d)).isEmpty && !(mcLocals s (cdGroup d)).isEmpty && 1 ≤ cdBlock d))
    && (if cdSched d then cdTimeout d == 0 && domBound s (cdDom d) else 1 ≤ cdTimeout d && cdTimeout d ≤ 1000000)

/-- R218, R371: whether an MCAST_SET or MCAST_CLEAR passes: every open collective on the group is closed by an earlier entry. -/
def mcastOk (s : State) (es : List Entry) (e : Entry) : Bool :=
  let d := e.desc
  ((openColls s).all fun c => cdGroup c.2.desc != actGroup e
      || es.any fun x => x.isAction && x.code == acCOLL_CLOSE && x.page == e.page && actColl x == c.1)
    && (e.code == acMCAST_CLEAR
      || (leAt d 0x21 1 ≤ 8 && (List.range (leAt d 0x21 1)).all fun i => !uplinkPort s (leAt d (0x28 + 3 * i) 1)))

/-- Table GND-1: the route table and the path groups of a ROUTE_LOAD image. -/
def imgRoute (d : Bytes) (i : Nat) : Nat := leAt d (4 * i) 4
def imgGroup (d : Bytes) (g : Nat) : List Nat :=
  let b := bslice (d.drop (16384 + 32 * g)) 0 32
  (List.range (leAt b 0 1)).map fun i => leAt b (1 + i) 1

/-- R371, R367: no member of a DOWN_GROUP climbs, but for the ignored entry of the switch's own ID, and no group has more than 16 members. -/
def routesOk (s : State) (d : Bytes) : Bool :=
  let downs := (((List.range 4096).filter (· != ownId s)).map fun i => bits (imgRoute d i) 15 8).eraseDups
  (List.range 256).all (fun g => leAt d (16384 + 32 * g) 1 ≤ 16)
    && downs.all fun g => (imgGroup d g).all fun p => !uplinkPort s p

/-- R398: an approved action that reads a descriptor carries its digest in the bind entries staged before it. -/
def bound (s : State) (es : List Entry) (e : Entry) : Bool :=
  (List.range 4).all (fun i => stages es (SEC_BIND i))
    && (List.range 4).flatMap (fun i => leBytes 8 (stagedVal s es (SEC_BIND i)).toNat) == shake256 e.desc 32

/-- Whether the approvals of Table SEC-1 cover an action's descriptor. -/
def needsBind (k : Nat) : Bool := (0x0500 ≤ k && k ≤ 0x0503) || k == 0x0506 || (0x0510 ≤ k && k ≤ 0x0513) || k == 0x0530

/-- R434: a tile block is named spare by a staged CRG_TBK_MAP. -/
def spareStaged (s : State) (t : Nat) : Bool :=
  s.cls.any fun x => clsLive s x.1 && x.2.entries.any fun e => e.kind == 0 && e.target == CRG_TBK_MAP (t / 17)
    && CRG_TBK_MAP_SPARE_PHYS.get (mergeBits (rdReg s e.target) e.data e.mask) == t % 17

/-- Item 3 for an ACTION. `es` are the entries staged before it. -/
def actionValueOk (s : State) (c : Nat) (es : List Entry) (e : Entry) : Bool :=
  let k := e.code
  let u := csrUnit e.page
  let d := e.desc
  (!needsBind k || bound s es e) &&
    (if k = acCOLL_OPEN then collOpenOk s (actColl e) d
    else if isMcast k then mcastOk s es e
    else if k = acROUTE_LOAD then routesOk s d
    else if k = 0x0500 then partCreateOk u d (tableAfter s es) s
    else if k = 0x0501 then partGrowOk u d (tableAfter s es) s
    else if k = 0x0502 then partShrinkOk u d s
    else if k = 0x0504 then partState s u != 0
    else if k = 0x0505 then unfenceOk s u
    else if k = 0x0506 then !d.all (· == 0)
    else if k = 0x0510 then keyState s u == 0 && blobOk u d s
    else if k = 0x0511 then keyState s u == 1 && blobOk u d s
    else if k = 0x0512 then keyState s u == 2
    else if k = 0x0520 then consentOk u d s
    else if k = 0x0603 then (match fltRegion u with
      | some r => (ownerRegion s r).isNone
      | none => false)
    else if k = 0x0620 then bits e.data.toNat 12 8 < bundleSize (e.data.toNat % 4)
    else if k = 0x0631 then portUnfenceOk s u
    else if k = 0x0632 then !testRuns s (0x20 + u / 16)
    else if k = 0x0640 then regionTestOk s u
    else if k = 0x0641 then !testRuns s (0x10 + u / 17) && isSpare s u && !spareStaged s u
    else if k = 0x0650 then stkOfflineOk s
    else if k = 0x0652 then !testRuns s (0x30 + u)
    else if k = 0x0700 then parkOk s e.data.toNat
    else if k = 0x0701 then (parkRegion e.data.toNat).isSome
    else if k = 0x0702 then standbyOk s
    else if homeAction k e.page then homeValue (vctx s c) k d s
    else if shtAction k e.page then shtValue e.page k e.data.toNat d s
    else true)

/-- Item 3 of R53. A write of an expert register whose page is basic at the commit is discarded whatever its value (R46, R47). -/
def entryValueOk (s : State) (c : Nat) (es : List Entry) (e : Entry) : Bool :=
  if e.isAction then actionValueOk s c es e
  else if e.kind = 0 then
    expertReg e.target && !stagedLevel s (clsOf s c).entries e.target ||
    writeValueOk s c (clsOf s c).entries e.target (mergeBits (stagedVal s es e.target) e.data e.mask)
  else true

/-! ### Conditions (item 4) -/

/-- The domains (0 to 3) whose epoch boundary an entry must use (R25, R56, R70, R73). -/
def tiedDoms (s : State) (es : List Entry) (e : Entry) : List Nat :=
  let a := e.target
  let u := csrUnit a
  if e.isAction then
    if e.code = acCOLL_OPEN then (if cdSched e.desc then [cdDom e.desc] else [])
    else if e.code = acCOLL_CLOSE then
      let d := (collOf s (actColl e)).desc
      if cdSched d then [cdDom d] else []
    else []
  else if e.kind ≠ 0 then []
  else if a = CRG_TBK_MAP u then (crgDom s u).toList
  else if csrGroup a = grTIM ∧ u ≠ 0 ∧ 0x100 ≤ csrOff a then (if domBound s (u - 1) then [u - 1] else [])
  else if a = TIM_SOURCE then ((List.range 4).filter (domBound s)).take 1
  else if a = CRG_SCHED u ∨ a = PRG_SCHED u then
    let new := mergeBits (stagedVal s es a) e.data e.mask
    let d := CRG_SCHED_DOM.get new
    (boundDom s a).toList ++ (if CRG_SCHED_BOUND.get new = 1 ∧ domBound s d then [d] else [])
  else []

/-- Whether a clause holds an EPOCH_RESTART, whose boundary begins an epoch (R441). -/
def restartsIn (es : List Entry) : Bool := es.any fun e => e.isAction && e.code == acEPOCH_RESTART

/-- Item 4 of R53: the clause's own condition (R55, R56, R64), and what the target ties it to. -/
def condOk (s : State) (c : Nat) (es : List Entry) (e : Option Entry) : Bool :=
  let kind := clsKind s c
  let role := clsRole s c
  let dom := clsDom s c
  let epoch := kind == 2 || (kind == 1 && restartsIn (clsOf s c).entries)
  !(role != 0 && kind == 0)
    && !(kind == 3 && (clsOf s c).closed + 60000000000 < clsTime s c)
    && !((kind == 1 || kind == 2) && role != 2 && !domBound s dom)
    && (match e with
      | none => true
      | some e =>
        ((tiedDoms s es e).all fun d => epoch && (role == 2 || dom == d))
          && (!e.isAction || (
            if e.code = acEPOCH_RESTART then kind == 1 && (role == 2 || csrUnit e.page == dom + 1)
            else if e.code = 0x0702 then kind == 0 || kind == 3
            else !homeAction e.code e.page || homeCond (vctx s c) e.code e.desc s)))

/-! ### Rights (item 5: R483, R397) -/

/-- Table SEC-1: a WRITE that only the fabric manager may stage, with the custodian's approval. -/
def guardedWrite (s : State) (es : List Entry) (e : Entry) : Bool :=
  let a := e.target
  let u := csrUnit a
  let role := fun (w : Word) => MBX_BIND_ROLE.get w == 1 || MBX_BIND_ROLE.get w == 3
  e.kind == 0 && ((SEC_TRUST 0 ≤ a && a ≤ SEC_TRUST 3) || a == SEC_DEBUG || a == CHP_SWITCH_ID
    || (csrGroup a == grMBX && u < 64 && a == MBX_BIND u && (role (rdReg s a) || role (mergeBits (stagedVal s es a) e.data e.mask))))

/-- R483: a register that a tenant may name on its own pages. -/
def tenantReg (s : State) (p a : Nat) : Bool :=
  let g := csrGroup a
  let u := csrUnit a
  let o := csrOff a
  (g == grCRG || g == grTBK || g == grSTN || g == grBOB || g == grPRG || g == grSHT || g == grCMB)
    && unitOwner s g u == some p
    && o != 0x010 && o != 0x028 && o != 0x030
    && !(g == grCRG && ((0x100 ≤ o && o ≤ 0x118) || (0xC00 ≤ o && o ≤ 0xC18)))
    && !(g == grSHT && csrPage a == 0 && o == 0x100)
    && !(g == grPRG && (if csrPage a = 0 then o == 0x100 || o == 0xC00 || o == 0xC08 else 0x100 ≤ o))

/-- The partition that an action names, for a tenant's right to it. -/
def actionPart (s : State) (e : Entry) : Option Nat :=
  let k := e.code
  if k = acGEN_BUMP then unitOwner s (csrGroup e.page) (csrUnit e.page)
  else if k = acCOLL_OPEN then some (cdPart e.desc)
  else if isColl k then some (cdPart (collOf s (actColl e)).desc)
  else if isPartAction k then some (csrUnit e.page)
  else if homeAction k e.page then homePart k e.desc s
  else if shtAction k e.page then some (shtPart e.page k e.data.toNat e.desc s)
  else none

/-- Whether a requester (0 firmware, 1 fabric manager, 2 tenant, 3 custodian) may stage an action, apart from its partition. -/
def actionWho (k req : Nat) : Bool :=
  if (0x0500 ≤ k ∧ k ≤ 0x0503) ∨ k = 0x0505 ∨ k = 0x0702 then req == 1
  else if k = 0x0530 then req == 1 || req == 3
  else if k = 0x0506 ∨ (0x0510 ≤ k ∧ k ≤ 0x0513) ∨ k = 0x0520 then req == 1 || req == 2
  else if isMcast k ∨ k = acROUTE_LOAD ∨ k = 0x0504 ∨ 0x0600 ≤ k then req ≤ 1
  else req ≤ 2

/-- Item 5 of R53 (log entry 37). -/
def rightsOk (s : State) (c : Nat) (es : List Entry) (e : Entry) : Bool :=
  let req := clsReq s c
  let p := clsReqPart s c
  if e.isAction then actionWho e.code req && (req != 2 || actionPart s e == some p)
  else if guardedWrite s es e then req == 1
  else req ≤ 1 || (req == 2 && tenantReg s p e.target)

/-! ### Approvals (item 6: R62, R63, R400, R402) -/

/-- The second role whose approval an entry needs: 0 to 15 the tenant of a partition, 16 the custodian. -/
def secondRole (s : State) (es : List Entry) (e : Entry) : Option Nat :=
  if e.isAction then
    if e.code = 0x0530 then some 16
    else if isPartAction e.code ∧ e.code ≠ 0x0504 ∧ e.code ≠ 0x0505 ∧ e.code ≠ 0x0520 ∧ e.code ≠ 0x0521 then some (csrUnit e.page)
    else none
  else if guardedWrite s es e then some 16
  else none

/-- The buffer of the slot that names a role: 1 fabric manager, 2 tenant of `p`, 3 custodian. -/
def approvalBuf (s : State) (c role p : Nat) : Option Nat :=
  let at_ := fun (a : Nat) =>
    if rdF s a CLS_APPROVAL_A_ROLE = role ∧ (role ≠ 2 ∨ rdF s a CLS_APPROVAL_A_PARTITION = p) then
      some (rdF s a CLS_APPROVAL_A_BUF * 4096) else none
  (at_ (CLS_APPROVAL_A c)).orElse fun _ => at_ (CLS_APPROVAL_B c)

/-- The digest that a clause's approvals sign: the local one, or the global one of a change across devices. -/
def signedDigest (s : State) (c : Nat) : Bytes := if clsRole s c = 0 then (clsOf s c).dig else (clsOf s c).glob

/-- The key digest of the fabric manager and of the second role. -/
def fmKeyFor (s : State) (e : Entry) : Bytes :=
  let k := digestAt s SEC_FM_KEY
  if e.isAction && e.code == 0x0530 && k.all (· == 0) then bslice e.desc 0 32 else k
def roleKeyFor (s : State) (e : Entry) (r : Nat) : Bytes :=
  if r = 16 then custKeyBank custBank
  else if e.isAction && e.code == 0x0500 then pcKey e.desc else digestAt s (SEC_PART_TKEY r)

/-- One verification, counted. -/
def verify (key : Bytes) (buf : Nat) (msg : Bytes) (s : State) : Bool × State :=
  let ok := !msg.isEmpty && approvalOk key (cdLoad s buf 10021) msg
  (ok, bump s (if ok then SEC_APPROVALS_OK else SEC_APPROVALS_BAD))

/-- Item 6 of R53: 0, or the reason of the failure. The approvals are verified once, for the first entry that needs them. -/
def approvals (c : Nat) (es : List Entry) (e : Entry) (s : State) : Nat × State :=
  match secondRole s es e with
  | none => (0, s)
  | some r =>
    match (clsOf s c).appr with
    | some r' => if r = r' then (0, s) else (0x0C, s)
    | none =>
      match approvalBuf s c 1 0, (if r = 16 then approvalBuf s c 3 0 else approvalBuf s c 2 r) with
      | some bf, some br =>
        let msg := signedDigest s c
        let kf := fmKeyFor s e
        let kr := roleKeyFor s e r
        let (ok1, s) := verify kf bf msg s
        let (ok2, s) := verify kr br msg s
        if ok1 && ok2 then (0, modCls c (fun x => { x with appr := some r }) s) else (0x0B, s)
      | _, _ => (0x09, s)

/-! ### Checks and claims (items 7 and 8) -/

/-- Item 7: a CHECK matches. -/
def checkOk (s : State) (e : Entry) : Bool :=
  e.kind != 1 || (csrView s e.target &&& e.mask) == (e.data &&& e.mask)

/-- The registers of its target page that an action changes at commit. Registers that show how many entries the tables in memory hold
claim no more than the entries do (R484). -/
def actionRegs (k page : Nat) : List Nat :=
  let u := csrUnit page
  if k = acGEN_BUMP then [page + 0x050]
  else if k = 0x0630 then [page + 0x050, page + 0x020]
  else if k = acCOLL_ABORT then [GND_COLL_ABORTS]
  else if k = acROUTE_LOAD then [GND_ROUTE_STATE]
  else if k = 0x0500 then
    [SEC_PART_STATE u, SEC_PART_MEMBERS u] ++ (List.range 8).map (SEC_PART_GRANT u) ++ (List.range 4).map (SEC_PART_TKEY u)
  else if k = 0x0501 ∨ k = 0x0502 then SEC_PART_MEMBERS u :: (List.range 8).map (SEC_PART_GRANT u)
  else if k = 0x0506 then (List.range 4).map (SEC_PART_TKEY u)
  else if k = 0x0503 ∨ k = 0x0520 ∨ k = 0x0521 then [SEC_PART_STATE u, SEC_PART_CONSENT_END u]
  else if isPartAction k then [SEC_PART_STATE u]
  else if k = 0x0530 then (List.range 4).map SEC_FM_KEY
  else if k = 0x0600 then [FLT_PART_SUM, FLT_PART_RESETS]
  else if k = 0x0601 then [FLT_LAST_RESET, FLT_CHIP_RESETS]
  else if k = 0x0640 then [FLT_TEST_RESULT u]
  else if k = acEPOCH_RESTART then [TIM_DOM_SCHED u, TIM_DOM_EPOCH u, TIM_DOM_RESTARTS u]
  else if k = acCOH_SET ∨ k = acCOH_CLEAR then [DIR_COH_STATE]
  else if k = 0x0620 then [MRG_RING_STATE u]
  else if k = 0x0650 ∨ k = 0x0651 then [MRG_STK_STATE u]
  else if k = 0x0700 then [PWR_STATE, PWR_PARKS]
  else if k = 0x0702 then [PWR_STATE, PWR_STANDBYS]
  else if k = 0x0701 then [PWR_STATE]
  else []

/-- R484: what an entry claims: registers as (address, 0, 0), and the triple of an action as (code + 1, page, DATA). -/
def claims (e : Entry) : List (Nat × Nat × Nat) :=
  if e.isAction then (e.code + 1, e.page, e.data.toNat) :: (actionRegs e.code e.page).map fun a => (0, a, 0)
  else [(0, e.target, 0)]

/-- The claims that other clauses hold. -/
def othersClaims (s : State) (c : Nat) : List (Nat × Nat × Nat) :=
  s.cls.flatMap fun x =>
    if x.1 != c && csVALIDATING ≤ clsState s x.1 && clsState s x.1 ≤ csPREPARED then (x.2.entries.take x.2.passed).flatMap claims else []

/-! ### The items in order (R53) -/

/-- Item 1. -/
def addressOk (e : Entry) : Bool :=
  e.target % 8 == 0 && csrGroup e.target != grCLS
    && (if e.isAction then pageExists e.target && csrOff e.target == 0 else (regRow? e.target).isSome)

/-- Item 2. Bits that no field covers are reserved, and take no part; but Table CTL-3 lists those of the header as RO (log entry 31). -/
def accessOk (e : Entry) : Bool :=
  if e.isAction then actionExists e
  else if e.kind = 1 then true
  else e.kind == 0 && (e.mask &&& writable e.target fun f => !stageable f) == 0
    && (0x100 ≤ csrOff e.target || e.mask &&& ~~~writable e.target stageable == 0)

/-- Items 1 to 8 for an entry whose descriptor is read, after the entries `es`: 0, or the reason. -/
def checkEntry (c : Nat) (es : List Entry) (e : Entry) (s : State) : Nat × State :=
  if !addressOk e then (0x04, s)
  else if !accessOk e then (0x05, s)
  else if !entryValueOk s c es e then (0x06, s)
  else if !condOk s c es (some e) then (0x07, s)
  else if !rightsOk s c es e then (0x08, s)
  else
    let (r, s) := approvals c es e s
    if r ≠ 0 then (r, s)
    else if !checkOk s e then (0x0D, s)
    else
      let held := othersClaims s c
      if (claims e).any held.contains then (0x0E, s) else (0, s)

/-- What the data work of an entry leaves (R53, R61, R407); none while it lasts. -/
def workOf (c : Nat) (e : Entry) (s : State) : Option State :=
  if !e.isAction then some s
  else if homeAction e.code e.page then homeWork c e.code e.desc s
  else some (if e.code = 0x0512 then keySweep (csrUnit e.page) s else s)

/-- Whether the data work of an entry, if it has any, is one piece: the fill of local ranges, or the sweep of a key. -/
def onePiece (e : Entry) : Bool :=
  !(e.isAction && homeAction e.code e.page
    && (e.code == acEXT_MOVE || e.code == acMOVE_SEND || e.code == acMOVE_RECV || e.code == acCOH_CLEAR
      || (e.code == acOBJ_ALLOC && flagTier (odObj e.desc).flags == 1)))

/-- The data work of the entry whose turn it is begins. -/
def beginWork (c k : Nat) (s : State) : State :=
  match (clsOf s c).entries[k]? with
  | some e => if e.isAction && homeAction e.code e.page then homeStart e.code e.desc s else s
  | none => s

/-- R53: the data work of a clause goes on, entry after entry in staging order, as far as it is done. Pieces that nothing comes after take
place when validation ends (`workOver`). -/
def runWork : Nat → Nat → State → State
  | 0, _, s => s
  | n + 1, c, s =>
    let x := clsOf s c
    if clsState s c ≠ csVALIDATING ∨ !x.checked ∨ (x.entries.drop x.work).all onePiece then s else
    match x.entries[x.work]?.bind fun e => workOf c e s with
    | none => s
    | some s => runWork n c (beginWork c (x.work + 1) (modCls c (fun y => { y with work := x.work + 1 }) s))

/-- Work that starts once every entry has passed (R53, R61). -/
def startWork (c : Nat) (s : State) : State :=
  let n := (clsOf s c).entries.length
  runWork n c (beginWork c 0 (modCls c (fun x => { x with checked := true, work := 0 }) s))

/-- The walk over the entries; `done` are those that passed. -/
def walkEntries (c : Nat) : List Entry → List Entry → State → State
  | _, [], s => startWork c s
  | done, e :: rest, s =>
    let e := if addressOk e && accessOk e then readDesc s e else e
    let (r, s) := checkEntry c done e s
    if r ≠ 0 then failEntry c done.length r s
    else
      let done := done ++ [e]
      let s := modCls c (fun x => { x with entries := done ++ rest, passed := done.length }) s
      let s := if e.isAction && homeAction e.code e.page then homeTake c e.code e.desc s else s
      walkEntries c done rest s

/-- R53: validation of a clause. -/
def validate (c : Nat) (s : State) : State :=
  if (clsRole s c = 1 ∧ clsPeers s c = 0) ∨ (clsRole s c ≠ 0 ∧ !idAssigned s) then failEntry c 0 0x06 s
  else if (clsOf s c).entries.isEmpty ∧ !condOk s c [] none then failEntry c 0 0x07 s
  else walkEntries c [] (clsOf s c).entries s

/-- R53, R64, R65: CMD = CLOSE. `stores`: what the firmware stored in control-die memory; `leases`, `psns`: what it knows of other
devices; `digests`: on a participant, the local digests by switch that the global digest covers. -/
def clsClose (c : Nat) (stores : List (Nat × Byte)) (leases : List (Nat × Lease)) (psns : List (Nat × Nat))
    (digests : List (Nat × Bytes)) (s : State) : State :=
  let s := fwStores s stores
  if clsState s c ≠ csSEALED then csrRefused s else
  let x := clsOf s c
  let role := clsRole s c
  let glob := if role = 2 ∧ digests.any (fun d => d.1 == ownId s && d.2 == x.dig) then globalDigest (clsGid s c) digests else x.glob
  let s := setClsState c csVALIDATING (setCls s c { x with closed := now s, leases := leases, psns := psns, glob := glob })
  if role = 1 ∧ 256 ≤ s.outcomes.length then okReply (clauseAbort c 0x17 s)
  else
    let s := if role = 1 then putOutcome ⟨clsGid s c, none, []⟩ s else s
    let s := tryGlobal c s
    okReply (if role = 1 ∧ clsPeers s c ≠ 0 ∧ (clsOf s c).glob = [] then s else validate c s)

/-- CMD = ABORT (Table CTL-6). -/
def clsAbortCmd (c : Nat) (s : State) : State :=
  let st := clsState s c
  if st = csOPEN ∨ st = csSEALED ∨ st = csVALIDATING ∨ (st = csARMED ∧ !(clsOf s c).inGuard) then okReply (clauseAbort c 0x01 s)
  else csrRefused s

/-- A write of CLS_CTL that is none of the four commands. -/
def clsCmdBad (s : State) : State := csrRefused s

end Sys2Proof.Machine
end

