-- ==== Sys2Proof/Machine/Commit.lean ====
section
/-! DEFINITION. Clauses from arming to commit (R54 to R58), what each action does at commit, the round boundary (R74, R55), and clauses
across devices (R64 to R66). -/

namespace Sys2Proof.Machine

/-! ### Arming (R54, R18) -/

/-- The hubs that the control die reaches over its own links and the ring. -/
def hubsReached (s : State) : List Nat :=
  let grow := fun (hs : List Nat) => (List.range 4).filter fun n =>
    hs.contains n || (hs.contains ((n + 1) % 4) && bundleLive s (n, 0) != 0) || (hs.contains ((n + 3) % 4) && bundleLive s ((n + 3) % 4, 0) != 0)
  grow (grow (grow ((List.range 4).filter fun n => bundleLive s (n, 3) != 0)))

/-- Whether the die that holds a unit can be reached over a path that R18 allows. -/
def dieReached (s : State) (g u : Nat) : Bool :=
  match unitRegion g u with
  | some (false, n) => (hubsReached s).contains (n / 4)
  | some (true, n) => (hubsReached s).contains (n / 4) && bundleLive s (n / 4, 2) != 0
  | none =>
    if g = grMRG then (hubsReached s).contains u
    else if g = grHBC then (hubsReached s).contains (u / 128)
    else if g = grCXP ∨ g = grDIR then (hubsReached s).contains (u / 4)
    else true

/-- Whether an entry's target block can take a shadow. -/
def targetOpen (s : State) (e : Entry) : Bool :=
  let g := csrGroup e.target
  let u := csrUnit e.target
  !unitInReset s g u && dieReached s g u

/-- The state once the data work of every entry is done (R53, R55, R61); none while some of it lasts. -/
def workOver (s : State) (c : Nat) : Option State :=
  let x := clsOf s c
  let rest := x.entries.drop x.work
  if rest.all onePiece && x.entries.all fun e => !(e.isAction && homeAction e.code e.page) || homeReady c e.code e.desc s then
    rest.foldl (fun o e => o.bind (workOf c e)) (some s)
  else none

/-! ### The guard interval (R58) -/

/-- The first entry that fails when its conditions are evaluated again: a CHECK, or PART_UNFENCE (R409). -/
def guardFails (s : State) (c : Nat) : Option Nat :=
  (clsOf s c).entries.findIdx? fun e => !checkOk s e || (e.isAction && e.code == 0x0505 && !unfenceOk s (csrUnit e.page))

/-- Reserve what the entries need at the commit instant; none: a publication conflicts (R300). -/
def guardTake (c : Nat) (s : State) : Option State :=
  (clsOf s c).entries.foldl (fun o e =>
    if e.isAction && homeAction e.code e.page then o.bind (homeGuard c e.code e.desc) else o) (some s)

/-- R393: the first entry that would give a unit two partitions, or let two grants meet, with the clauses in their guard interval in place (log
entry 63). -/
def tableFails (s : State) (c : Nat) : Option Nat :=
  let es := (clsOf s c).entries
  let others := s.cls.flatMap fun x => if x.1 != c && clsLive s x.1 && x.2.inGuard then x.2.entries else []
  (List.range es.length).find? fun i =>
    match es[i]? with
    | none => false
    | some e =>
      let u := csrUnit e.target
      if e.isAction then (e.code == 0x0500 || e.code == 0x0501) && !pcTableOk u e.desc (tableAfter s (others ++ es.take i))
      else
        e.kind == 0 && csrGroup e.target == grSEC && decide (u < 16)
          && (e.target == SEC_PART_MEMBERS u || (decide (SEC_PART_GRANT u 0 ≤ e.target) && decide (e.target ≤ SEC_PART_GRANT u 7)))
          && !tableOk (tableAfter s (others ++ es)) e.target
            (mergeBits (stagedVal s (es.take i) e.target) e.data e.mask)

/-- The guard interval of an ARMED clause begins. -/
def guardBegin (c : Nat) (s : State) : State :=
  if clsState s c ≠ csARMED ∨ (clsOf s c).inGuard then s
  else match guardFails s c with
    | some i => failEntry c i 0x0D s
    | none =>
      match tableFails s c with
      | some i => failEntry c i 0x06 s
      | none =>
        match guardTake c s with
        | some s => modCls c (fun x => { x with inGuard := true }) s
        | none => clauseAbort c 0x18 s

/-! ### Writes at commit (R46, R47, R57) -/

/-- A register takes a value; the unit takes the consequences once the running command settles. -/
def putReg (a : Nat) (w : Word) (s : State) : State :=
  let old := rdReg s a
  if old = w then s else addDue (.changed a old) (wrReg s a w)

/-- The expert registers of a page take their derived values, or lose what overrode them (R47). -/
def setLevel (base : Nat) (expert : Bool) (s : State) : State :=
  let s := wrF s (base + 0x010) G_CTL_LEVEL expert.toNat
  (expertRegs base).foldl (fun s a =>
    let w := if expert then derived a else regReset a
    let s := wrReg s a w
    if csrGroup a = grPRT then { s with ground := { s.ground with inForce := sset regReset s.ground.inForce a w } } else s) s

/-- The LEVEL that an entry writes comes before every other entry of its page (R47). -/
def commitLevel (e : Entry) (s : State) : State :=
  if e.kind = 0 ∧ csrOff e.target = 0x010 ∧ bit e.mask.toNat 1 then
    let new := bit e.data.toNat 1
    if new == levelOf s e.target then s else setLevel e.page new s
  else s

/-- A WRITE entry commits. A write of PRT_GANG retrains its members even where it changes no bit: a member rejoins by it (R349). -/
def commitWrite (e : Entry) (s : State) : State :=
  let a := e.target
  if expertReg a && !levelOf s a then s
  else
    let m := e.mask &&& writable a stageable
    let m := if csrOff a = 0x010 then m &&& ~~~2#64 else m
    let w := mergeBits (rdReg s a) e.data m
    if w = rdReg s a ∧ csrGroup a = grPRT ∧ a = PRT_GANG (csrUnit a) then addDue (.changed a w) s else putReg a w s

/-! ### Actions at commit -/

/-- R367: a route image takes force: 4,096 entries and 256 path groups. -/
def routeLoad (d : Bytes) (s : State) : State :=
  let routes := (List.range 4096).foldl (fun m i => sset (fun _ => 0) m i (imgRoute d i % 65536)) []
  let groups := (List.range 256).foldl (fun m g => sset (fun _ => []) m g (imgGroup d g)) []
  let s := { s with ground := { s.ground with routes := routes, groups := groups } }
  wrF s GND_ROUTE_STATE GND_ROUTE_STATE_LOADS (rdF s GND_ROUTE_STATE GND_ROUTE_STATE_LOADS + 1)

/-- Table FLT-4, Table PWR-4: resets, tests, recovery and power. -/
def commitFlt (c : Nat) (e : Entry) (s : State) : State :=
  let k := e.code
  let u := csrUnit e.page
  let n := e.data.toNat
  if k = 0x0600 then (if partState s (n % 16) = 0 then s else beginPart (n % 16) [] s)
  else if k = 0x0601 then beginChip 1 [] s
  else if k = 0x0602 then ibi ibiPOWER_CYCLE_REQ { s with flt := { s.flt with powerAsked := true } }
  else if k = 0x0603 then (match fltRegion u with
    | some r => beginRegion r [] s
    | none => s)
  else if k = acEPOCH_RESTART then bump s (TIM_DOM_RESTARTS u)
  else if k = 0x0620 then testStart 5 (0x30 + u) (32 * (n % 4) + bits n 12 8) s
  else if k = 0x0630 then portFence u s
  else if k = 0x0631 then portUnfence u s
  else if k = 0x0632 then testStart 3 (0x20 + u / 16) u s
  else if k = 0x0640 then testStart 1 u (u % 16) s
  else if k = 0x0641 then testStart 2 (0x10 + u / 17) u s
  else if k = 0x0650 then stkSet u (n % 4) false s
  else if k = 0x0651 then stkSet u (n % 4) true s
  else if k = 0x0652 then testStart 4 (0x30 + u) (4 * u + n % 4) s
  else if k = 0x0700 then park n s
  else if k = 0x0701 then unpark n s
  else if k = 0x0702 then standbyEnter c s
  else s

/-- Table SEC-1 on a SEC page. `salt`: the digest that the approvals signed (R405). -/
def commitSec (e : Entry) (salt : Bytes) (s : State) : State :=
  let k := e.code
  let u := csrUnit e.page
  let d := e.desc
  if k = 0x0500 then partCreate u d s
  else if k = 0x0501 then partGrow u d s
  else if k = 0x0502 then partShrinkCommit u d s
  else if k = 0x0503 then retirePart u s
  else if k = 0x0504 then fencePart u s
  else if k = 0x0505 then (if unfenceOk s u then setPartState u 1 s else s)
  else if k = 0x0506 then putDigest (SEC_PART_TKEY u) d s
  else if k = 0x0510 then keyTake u d salt false s
  else if k = 0x0511 then keyTake u d salt true s
  else if k = 0x0512 then keyCommit u s
  else if k = 0x0513 then keyZeroize u s
  else if k = 0x0520 then consentLoad u d s
  else if k = 0x0521 then consentEnd u s
  else if k = 0x0530 then putDigest SEC_FM_KEY d s
  else s

/-- Table SHT-2: SEND_PSN of the peer of each queue pair that a clause connects, as the peer's own QP_CONNECT in the same clause gives it. -/
def clausePsns (s : State) (es : List Entry) : List (Nat × Nat) :=
  let here := fun (e f : Entry) => leAt e.desc 4 4 % 2 ^ 24 == ownId s * 4096 + 0x200 + csrUnit f.page
    && leAt e.desc 8 4 % 2 ^ 24 == actQp f.page f.code 0 f.desc
  let cs := es.filter fun e => e.isAction && e.code == acQP_CONNECT && shtAction e.code e.page
  cs.flatMap fun e => (cs.filter fun f => here e f && here f e).map fun f => (actQp e.page e.code 0 e.desc, leAt f.desc 12 4)

/-- An ACTION entry commits. -/
def commitAction (c : Nat) (psns : List (Nat × Nat)) (salt : Bytes) (e : Entry) (s : State) : State :=
  let k := e.code
  if k = acGEN_BUMP then genBump e.page s
  else if k = acCOLL_OPEN then collOpen (actColl e) e.desc s
  else if k = acCOLL_CLOSE then collClose (actColl e) s
  else if k = acCOLL_ABORT then collFail (actColl e) 0x01 s
  else if k = acMCAST_SET then mcastSet (actGroup e) e.desc s
  else if k = acMCAST_CLEAR then mcastClear (actGroup e) s
  else if k = acROUTE_LOAD then routeLoad e.desc s
  else if 0x0500 ≤ k ∧ k ≤ 0x0530 then commitSec e salt s
  else if 0x0600 ≤ k then commitFlt c e s
  else if homeAction k e.page then homeCommit c k e.desc s
  else if shtAction k e.page then shtCommit e.page k e.data.toNat e.desc psns s
  else s

/-- R57: the commit instant of an ARMED clause in its guard interval. -/
def commitNow (c : Nat) (s : State) : State :=
  if clsState s c ≠ csARMED ∨ !(clsOf s c).inGuard then s else
  let x := clsOf s c
  let salt := signedDigest s c
  let s := bump (setClsState c csCOMMITTED s) CLS_COMMITS
  let s := x.entries.foldl (fun s e => commitLevel e s) s
  let s := x.entries.foldl (fun s e =>
    if e.isAction then commitAction c (x.psns ++ clausePsns s x.entries) salt e s else if e.kind = 0 then commitWrite e s else s) s
  if clsState s c = csCOMMITTED then modCls c (fun y => { y with passed := 0 }) (releaseWrites c (releaseHeld c s)) else s

/-- A clause commits at once: its guard interval begins with the change. -/
def commitAtOnce (c : Nat) (s : State) : State := commitNow c (guardBegin c s)

/-- CLAUSE_COMMIT: the commit instant of a clause that no boundary of its own domain carries (R55, R64, R66). -/
def clauseCommit (c : Nat) (s : State) : State :=
  let x := clsOf s c
  let own := clsKind s c == 0 || byTime s c || !domBound s (clsDom s c)
  if clsState s c = csARMED ∧ x.commitAt.isSome ∧ own then commitAtOnce c s else s

/-! ### Round boundaries (R74, R55, R441) -/

/-- ROUND_START: the next round of a bound domain begins, and the clauses of its boundary commit with it. The guard intervals that are
still to begin do so in the order of their slots (R300). -/
def roundStarts (d : Nat) (s : State) : State :=
  if !domBound s d then s else
  let first := !(domOf s d).started
  let cs := (List.range 16).filter (waitsRound s d)
  let likely := !first && cs.any fun c => restarts s d c && (guardFails s c).isNone
  let s := (boundaryClauses s d (epochBegins s d likely)).foldl (fun s c => guardBegin c s) s
  let restart := !first && cs.any (restarts s d)
  let epoch := epochBegins s d restart
  let mine := boundaryClauses s d epoch
  let s := mine.foldl (fun s c => commitNow c s) (roundAdvance d restart s)
  roundBegin d (epoch && !first) s

/-- The first boundary of a kind of domain unit `d` at or after device time `t`, as the rounds held now lay it out (R74, R90). -/
def boundaryAfter (s : State) (d kind t : Nat) : Nat :=
  let x := domOf s d
  let len := max 1 (roundLen s d)
  let n := roundOf s d
  let base := if x.started then x.epochStart else (rdReg s (TIM_DOM_ORIGIN (d + 1))).toNat
  let at_ := fun (k : Nat) => base + k * len
  let from_ := x.epochRound
  let least := cdiv (t - base) len
  if kind = 1 then at_ (max least (if x.started then n + 1 - from_ else 0))
  else
    let per := rdF s (TIM_DOM_ROUND (d + 1)) TIM_DOM_ROUND_EPOCH_ROUNDS
    let k1 := if x.started then
        n - from_ + (per - rdF s (TIM_DOM_EPOCH (d + 1)) TIM_DOM_EPOCH_SCHED_IN_EPOCH) + x.held.countP (n ≤ ·)
      else 0
    at_ (if least ≤ k1 then k1 else k1 + cdiv (least - k1) (max 1 per) * max 1 per)

/-! ### Across devices -/

/-- A coordinator that has validated and holds a yes vote from every participant decides (R64, step 5). -/
def tryDecide (c : Nat) (s : State) : State :=
  let x := clsOf s c
  let yes := x.preps.all fun p => x.votes.any fun v => v.1 == p.1 && v.2
  if clsRole s c ≠ 1 ∨ clsState s c ≠ csARMED ∨ x.commitAt.isSome ∨ x.preps.length ≠ clsPeers s c ∨ !yes then s
  else if clsKind s c = 3 then
    if now s + 20000 ≤ clsTime s c then
      recordDecision c true (clsTime s c) (setCls s c { x with commitAt := some (clsTime s c) })
    else clauseAbort c 0x0F s
  else if !domBound s (clsDom s c) then clauseAbort c 0x07 s
  else
    let t := boundaryAfter s (clsDom s c) (clsKind s c) (now s + 20000)
    recordDecision c true t (setCls s c { x with commitAt := some t })

/-- CLAUSE_ARMED: validation and its work are over: the clause arms, or a participant is PREPARED and votes. -/
def clauseArmed (c : Nat) (s : State) : State :=
  if clsState s c ≠ csVALIDATING ∨ !(clsOf s c).checked then s else
  match workOver s c with
  | none => s
  | some s =>
    if (clsOf s c).entries.any fun e => !targetOpen s e then clauseAbort c 0x10 s else
    let k := clsKind s c
    let role := clsRole s c
    if k = 3 ∧ clsTime s c < now s then clauseAbort c 0x0F s else
    if role = 2 then sendVote c true (setClsState c csPREPARED s)
    else
      let s := setClsState c csARMED s
      if role = 1 then tryDecide c s
      else
        let t := if k = 3 then clsTime s c else if k = 0 then now s else now s + 1000
        let s := modCls c (fun x => { x with commitAt := some t }) s
        if k = 0 ∨ (k = 3 ∧ t ≤ now s + 1000) then guardBegin c s else s

/-- GUARD_INTERVAL: 1 µs before a commit instant that is fixed. -/
def guardInterval (c : Nat) (s : State) : State := if (clsOf s c).commitAt.isSome then guardBegin c s else s

/-- The live clause of a role that carries a global ID. -/
def clauseByGid (s : State) (role gid : Nat) : Option Nat :=
  (List.range 16).find? fun c => clsLive s c && clsRole s c == role && clsGid s c == gid

/-- PREPARE (R64, step 3). -/
def prepareIn (m : Msg) (s : State) : State :=
  let gid := leAt m.pay 0 8
  let sw := leAt m.pay 8 2 % 4096
  let refuse := sendDecision sw gid false 0 s
  match clauseByGid s 1 gid with
  | none => refuse
  | some c =>
    let x := clsOf s c
    if x.commitAt.isSome then refuse
    else if x.preps.any (·.1 == sw) then s
    else if clsPeers s c ≤ x.preps.length then refuse
    else
      let s := tryGlobal c (setCls s c { x with preps := x.preps ++ [(sw, bslice (m.pay.drop 16) 0 32)] })
      if clsState s c = csVALIDATING ∧ x.glob = [] ∧ (clsOf s c).glob ≠ [] then validate c s else s

/-- VOTE (R64, step 5). -/
def voteIn (m : Msg) (s : State) : State :=
  let sw := m.hdr.src / 4096
  match clauseByGid s 1 (leAt m.pay 0 8) with
  | none => s
  | some c =>
    let x := clsOf s c
    if x.commitAt.isSome ∨ !x.preps.any (·.1 == sw) ∨ x.votes.any (·.1 == sw) then s
    else
      let yes := bit (leAt m.pay 8 1) 0
      let s := setCls s c { x with votes := x.votes ++ [(sw, yes)] }
      if yes then tryDecide c s else clauseAbort c 0x15 s

/-- A participant learns the decision, with the commit instant (R64, R66). -/
def learnDecision (c : Nat) (commit : Bool) (t : Nat) (s : State) : State :=
  if !commit then clauseAbort c 0x15 s
  else if clsState s c ≠ csPREPARED then s
  else
    let late := decide (t < now s)
    let k := clsKind s c
    let s := setClsState c csARMED (modCls c (fun x => { x with commitAt := some (if late then 0 else t), late := late }) s)
    let s := if late then raise srcCLS_CLAUSE_LATE_COMMIT 16 (bump s CLS_LATE_COMMITS) else s
    if late then
      if (k = 1 ∨ k = 2) ∧ domBound s (clsDom s c) then guardBegin c s else commitAtOnce c s
    else if t ≤ now s + 1000 then guardBegin c s
    else s

/-- A participant's answer to a DECISION that it takes from its coordinator. -/
def takeDecision (gid : Nat) (commit : Bool) (t : Nat) (s : State) : State :=
  let s := match clauseByGid s 2 gid with
    | some c => learnDecision c commit t s
    | none => s
  toSwitch (gid % 4096) cDECISION_ACK (leBytes 8 gid) s

/-- DECISION. -/
def decisionIn (m : Msg) (s : State) : State :=
  let gid := leAt m.pay 0 8
  if m.hdr.src / 4096 ≠ gid % 4096 then s else takeDecision gid (bit (leAt m.pay 8 1) 0) (leAt m.pay 16 8) s

/-- DECISION_ACK (R65). -/
def decisionAckIn (m : Msg) (s : State) : State :=
  let gid := leAt m.pay 0 8
  match outcomeOf s gid with
  | some o =>
    if o.decided.isNone then s else
    let w := o.waiting.filter (· != m.hdr.src / 4096)
    if w.isEmpty then dropOutcome gid s
    else { s with outcomes := s.outcomes.map fun x => if x.gid == gid then { x with waiting := w } else x }
  | none => s

/-- OUTCOME_QUERY_TIMER (R65). -/
def outcomeTimer (c : Nat) (s : State) : State :=
  if clsState s c = csPREPARED then toSwitch (coordSwitch s c) cOUTCOME_QUERY (leBytes 8 (clsGid s c)) s else s

/-- OUTCOME_QUERY (R65). -/
def outcomeQueryIn (m : Msg) (s : State) : State :=
  let gid := leAt m.pay 0 8
  let answer := fun (a t : Nat) =>
    emit (.hub 0) (ctrlAnswer s m cOUTCOME_ANSWER (leBytes 8 gid ++ leBytes 1 a ++ zeros 7 ++ leBytes 8 t)) s
  match outcomeOf s gid with
  | some o =>
    match o.decided with
    | some (commit, t) => answer commit.toNat t
    | none => s
  | none => answer 2 0

/-- R66: a participant has no decision, or learns that there is none. -/
def inDoubt (c : Nat) (s : State) : State :=
  if clsState s c = csPREPARED then raise srcCLS_CLAUSE_IN_DOUBT 16 (clauseAbort c 0x16 s) else s

/-- OUTCOME_ANSWER (R65, R66). -/
def outcomeAnswerIn (m : Msg) (s : State) : State :=
  let gid := leAt m.pay 0 8
  let a := leAt m.pay 8 1
  if m.hdr.src / 4096 ≠ gid % 4096 then s
  else if a ≤ 1 then takeDecision gid (a == 1) (leAt m.pay 16 8) s
  else match clauseByGid s 2 gid with
    | some c => inDoubt c s
    | none => s

/-- CLAUSE_TIMEOUT (R60). -/
def clauseTimeout (c : Nat) (s : State) : State :=
  if clsState s c = csOPEN ∨ clsState s c = csSEALED then clauseAbort c 0x02 s else s

/-- COORD_VOTE_TIMEOUT (R64): a PREPARE or a vote is missing. -/
def coordTimeout (c : Nat) (s : State) : State :=
  let x := clsOf s c
  let missing := decide (x.preps.length < clsPeers s c) || x.preps.any fun p => !x.votes.any (·.1 == p.1)
  if clsRole s c = 1 ∧ clsLive s c ∧ x.commitAt.isNone ∧ missing then clauseAbort c 0x02 s else s

/-- A schedule domain unit leaves BOUND (R59). -/
def domUnbound (d : Nat) (s : State) : State :=
  (List.range 16).foldl (fun s c =>
    let hit := clsLive s c && (clsKind s c == 1 || clsKind s c == 2) && clsDom s c == d
      && (clsRole s c == 0 || (clsRole s c == 1 && (clsOf s c).commitAt.isNone))
    if hit then clauseAbort c 0x07 s else s) s

end Sys2Proof.Machine
end

