-- ==== Sys2Proof/Machine/Csr.lean ====
section
/-! DEFINITION. Direct CSR writes (R41, R44, R46, R58), the reads that have an effect, access over the TAP (R412), and the contents of a
crash dump (R437, R438). -/

namespace Sys2Proof.Machine

/-! ### Header registers -/

/-- R418: a write of G_ERR_STICKY. A source whose cause persists fires again at once. -/
def errClear (base : Nat) (w : Word) (s : State) : State :=
  let a := base + 0x020
  let gone := rdReg s a &&& w
  let s := okReply (wrReg s a (rdReg s a &&& ~~~w))
  let s := { s with flt := { s.flt with causes := s.flt.causes.filter (causeHolds s) } }
  s.flt.causes.foldl (fun s c =>
    if G_ERR_STICKY c.src.g c.unit c.src.p = a ∧ bit gone.toNat c.src.bit then fireSource c.src c.unit s else s) s

/-- R43, R412: a write of G_ERR_INJECT. Bits of no source of the page have nothing to fire. -/
def errInject (base : Nat) (w : Word) (s : State) : State :=
  let g := csrGroup base
  let u := csrUnit base
  if rdBit s SEC_DEBUG SEC_DEBUG_INJECT && debugAllowed s g u then
    (pageSources g u (csrPage base)).foldl (fun s x =>
      if bit w.toNat x.1 then fireSource ⟨g, csrPage base, x.1⟩ u s else s) (okReply s)
  else csrRefused s

/-- R427: a write of G_RESET_CTL. -/
def resetCtl (base : Nat) (w : Word) (s : State) : State :=
  let q := G_RESET_CTL_REQ.get w
  if q = 1 then contextReset base (G_RESET_CTL_CONTEXT.get w) s
  else if q = 2 then engineReset base s
  else resetRefused base s

/-! ### Registers with an action of their own -/

/-- R70: a write of TIM_SET steps device time. -/
def timSet (w : Word) (s : State) : State :=
  if anyBound s then csrRefused s else okReply { s with clk := ⟨w.toNat, 0⟩, tim := { s.tim with slew := 0 } }

/-- R68: a read of TIM_NOW latches the fraction of the same moment. -/
def timNowRead (s : State) : State := okReply (wrF s TIM_FRAC TIM_FRAC_FRAC s.clk.frac) (BitVec.ofNat 64 (now s))

/-- A write of CLS_CTL. CLOSE carries here no knowledge of the firmware: CLS_CLOSE is the row that does. -/
def clsCtl (c : Nat) (w : Word) (s : State) : State :=
  match CLS_CTL_CMD.get w with
  | 1 => clsSeal c s
  | 2 => clsClose c [] [] [] [] s
  | 3 => clsAbortCmd c s
  | 4 => clsRelease c s
  | _ => clsCmdBad s

/-- The fields of a register that a direct write changes. -/
def rwMask (a : Nat) : Word := writable a fun f => f.acc == .rw

/-- The RW fields of a register take their bits of `w`. -/
def rwMerge (s : State) (a : Nat) (w : Word) : Word := mergeBits (rdReg s a) w (rwMask a)

/-- R437: a write of FLT_DUMP_CTL. -/
def dumpCtl (w : Word) (s : State) : State :=
  let s := okReply (wrReg s FLT_DUMP_CTL (rwMerge s FLT_DUMP_CTL w))
  if FLT_DUMP_CTL_GO.get w = 1 then dumpStart 1 s else s

/-- R449: a write of CHP_WDOG. -/
def wdogCtl (w : Word) (s : State) : State :=
  let s := okReply (wrReg s CHP_WDOG (rwMerge s CHP_WDOG w))
  if CHP_WDOG_KICK.get w = 1 then wdogKick s else s

/-- R416: a write of SEC_ATTEST_CTL. -/
def attestCtl (w : Word) (s : State) : State := if SEC_ATTEST_CTL_GO.get w = 1 then attestGo (okReply s) else okReply s

/-- R264: a write of MRG_HQ_CTL. -/
def hqCtl (w : Word) (s : State) : State := if MRG_HQ_CTL_GO.get w = 1 then hqGo (okReply s) else okReply s

/-- R449: a write of CHP_RESTART. -/
def restartCtl (w : Word) (s : State) : State := if CHP_RESTART_GO.get w = 1 then ctlRestart (okReply s) else okReply s

/-- R474: a write of PWR_STANDBY. -/
def standbyCtl (w : Word) (s : State) : State := if PWR_STANDBY_EXIT.get w = 1 then standbyExit (okReply s) else okReply s

/-- Table CTL-8: whether an RW register of a slot page may be written now. -/
def slotOpen (s : State) (a : Nat) : Bool :=
  let c := csrUnit a
  clsState s c == csOPEN || (clsState s c == csSEALED && (a == CLS_APPROVAL_A c || a == CLS_APPROVAL_B c))

/-- R81: a gate word of the bank in force. -/
def gateInForce (s : State) (a : Nat) : Bool :=
  csrGroup a == grPRG && csrPage a == 1 && expertReg a
    && match prgDom s (csrUnit a) with
      | some d => if bankInForce s d = 0 then csrOff a < 0x800 else 0x800 ≤ csrOff a
      | none => false

/-- A direct write of a register whose RW fields take the value and nothing else happens but what `Due.changed` settles. -/
def plainWrite (a : Nat) (w : Word) (s : State) : State :=
  if expertReg a && !levelOf s a then okReply s
  else if gateInForce s a then csrRefused s
  else
    let new := rwMerge s a w
    if valueOk s [] a new then okReply (putReg a new s) else csrRefused s

/-- The clause in its guard interval that writes or checks a register. -/
def guardOf (s : State) (a : Nat) : Option Nat :=
  (s.cls.find? fun e => clsLive s e.1 && e.2.inGuard && e.2.entries.any fun x => !x.isAction && x.target == a).map (·.1)

/-- A direct write that no guard interval holds. -/
def csrWriteNow (a : Nat) (w : Word) (s : State) : State :=
  let g := csrGroup a
  let u := csrUnit a
  let base := csrBase a
  match regRow? a with
  | none => csrError s
  | some r =>
    if csrOff a = 0x058 then resetCtl base w s
    else if r.flds.all (·.acc == .ro) then csrError s
    else if unitParked s g u then csrRefused s
    else if r.flds.any (·.acc == .st) then csrRefused s
    else if csrOff a = 0x020 then errClear base w s
    else if csrOff a = 0x038 then errInject base w s
    else if csrOff a < 0x100 then plainWrite a w s
    else if g = grCLS ∧ u < 16 then
      if a = CLS_CTL u then clsCtl u w s
      else if a = CLS_STAGE_DATA u then stageData u w s
      else if slotOpen s a then plainWrite a w s
      else csrRefused s
    else if a = TIM_SET then timSet w s
    else if g = grCRG ∧ a = CRG_PROG_LOAD u then progLoad u w s
    else if g = grBOB ∧ a = BOB_CTL u then bobCmd u (BOB_CTL_CMD.get w) s
    else if a = MRG_HQ_CTL then hqCtl w s
    else if a = SEC_ATTEST_CTL then attestCtl w s
    else if a = FLT_DUMP_CTL then dumpCtl w s
    else if a = CHP_RESTART then restartCtl w s
    else if a = CHP_WDOG then wdogCtl w s
    else if g = grMBX ∧ a = MBX_OUT_PUSH u then mbxOutPush u w s
    else if a = MBX_DOORBELL then mbxClear false w 0 s
    else if a = MBX_FULL_PEND then mbxClear true w 0 s
    else if a = PWR_STANDBY then standbyCtl w s
    else if a = PWR_RAIL_SEL then railSelect w s
    else plainWrite a w s

/-- Whether a direct write can reach a register at all: it exists, its region has power, and it is neither RO nor staged (R41, R44). -/
def takesWrite (s : State) (a : Nat) : Bool :=
  (match regRow? a with
    | some r => r.flds.any (·.acc != .ro) && r.flds.all (·.acc != .st)
    | none => false) && !unitParked s (csrGroup a) (csrUnit a)

/-- The clause in its guard interval that holds a direct write of a register (R58). -/
def heldBy (s : State) (a : Nat) : Option Nat := if takesWrite s a then guardOf s a else none

/-- R41, R58: a direct write. One to a register that a clause in its guard interval writes or checks is held until the change is over. -/
def csrWrite (a size : Nat) (w : Word) (s : State) : State :=
  if size ≠ 8 then csrError s
  else match heldBy s a with
    | some c => okReply (modCls c (fun x => { x with delayed := x.delayed ++ [(a, w)] }) s)
    | none => csrWriteNow a w s

/-- R455, R58: a write that clears doorbell bits, with the bits that are set at the same time. -/
def doorbellClear (full : Bool) (w sets : Word) (s : State) : State :=
  let a := if full then MBX_FULL_PEND else MBX_DOORBELL
  if (heldBy s a).isSome then csrWrite a 8 w (mbxClear full 0 sets s) else mbxClear full w sets s

/-- A direct read, with its effect. -/
def csrRead (a size : Nat) (s : State) : State :=
  if size ≠ 8 ∨ (regRow? a).isNone then csrError s
  else if a = CLS_ALLOC then clsAlloc s
  else if a = TIM_NOW then timNowRead s
  else if a = PWR_RAIL_MIN then railMinRead s
  else if csrGroup a = grMBX ∧ a = MBX_IN_POP (csrUnit a) then mbxInPop (csrUnit a) s
  else okReply s (csrView s a)

/-! ### The TAP (R412) -/

/-- An access that the policy or a consent does not admit. -/
def tapDenied (s : State) : State :=
  let s := raise srcSEC_TAP_DENIED 16 (bump s SEC_TAP_DENIED)
  { s with reply := ⟨true, 0⟩, sec := { s.sec with tap := 0 } }

/-- TAP_ACCESS: 0 IDCODE or BYPASS, 1 boundary scan, 2 a CSR read, 3 a CSR write. What the first two shift out is a free value: no
rule gives it. -/
def tapAccess (op a size : Nat) (w : Word) (s : State) : State :=
  let jtag := rdF s SEC_DEBUG SEC_DEBUG_JTAG
  let answer := fun (s : State) => { s with sec := { s.sec with tap := s.reply.val } }
  if op ≤ 1 then
    if jtag < op then tapDenied s
    else
      let (v, s) := takeFree s
      answer (okReply s v)
  else if jtag ≠ 2 ∨ !debugAllowed s (csrGroup a) (csrUnit a) then tapDenied s
  else
    let s := { s with sec := { s.sec with sessions := s.sec.sessions + 1 } }
    answer (if op = 2 then csrRead a size s else csrWrite a size w s)

/-! ### Crash dump (R437, R438) -/

/-- The bytes of registers of a page from word `i` on. -/
def dumpWords (s : State) (base i n : Nat) : Bytes :=
  (List.range n).flatMap fun k => leBytes 8 (csrView s (base + 8 * (i + k))).toNat

/-- Table FLT-7. -/
def dumpRecord (kind status addr : Nat) (d : Bytes) : Bytes :=
  leBytes 1 kind ++ leBytes 1 status ++ zeros 2 ++ leBytes 4 d.length ++ leBytes 8 addr ++ d ++ zeros ((8 - d.length % 8) % 8)

/-- Add a record. -/
def dumpAdd (kind status addr : Nat) (d : Bytes) (x : Dump) : Dump :=
  { x with bytes := x.bytes ++ dumpRecord kind status addr d, records := x.records + 1,
           placeholders := x.placeholders + (decide (status ≠ 0)).toNat }

/-- The bytes of the buffer. -/
def dumpRoom (s : State) : Nat := rdF s FLT_DUMP_CTL FLT_DUMP_CTL_SIZE_MIB * 2 ^ 20

/-- Whether a record of `n` data bytes still fits (it begins after the 64-byte header). -/
def dumpFits (s : State) (x : Dump) (n : Nat) : Bool := 64 + x.bytes.length + 16 + n ≤ dumpRoom s

/-- The pages in front are read, up to and without the page `stop`; a page of an owned unit without consent is denied. The second
component says that the buffer is full. -/
def dumpRead (s : State) (stop : Option Nat) : List Nat → Dump → Dump × Bool
  | [], x => ({ x with todo := [] }, false)
  | p :: r, x =>
    if stop == some p then ({ x with todo := p :: r }, false)
    else if debugAllowed s (csrGroup p) (csrUnit p) then
      if dumpFits s x 4096 then dumpRead s stop r (dumpAdd 1 0 p (dumpWords s p 0 512) x) else ({ x with todo := p :: r }, true)
    else if dumpFits s x 0 then dumpRead s stop r (dumpAdd 1 3 p [] x)
    else ({ x with todo := p :: r }, true)

/-- Tile SRAM of the compute regions (R438, item 4): a record for each. An owned region's is read with its partition's DEBUG consent, and
denied without it (R412). -/
def dumpSram (s : State) : List Nat → Dump → Dump × Bool
  | [], x => (x, false)
  | n :: r, x =>
    if debugAllowed s grCRG n then
      let size := 50331648
      if dumpFits s x size then
        dumpSram s r (dumpAdd 2 0 n ((List.range size).map fun i => sget (fun _ => 0) s.sram (size * n + i)) x)
      else (x, true)
    else if dumpFits s x 0 then dumpSram s r (dumpAdd 2 3 n [] x)
    else (x, true)

/-- The counts that FLT_DUMP_STATE shows. -/
def dumpShow (s : State) (x : Dump) : State :=
  let n := if x.records = 0 then 0 else 64 + x.bytes.length
  wrReg { s with flt := { s.flt with dump := some x } } FLT_DUMP_STATE
    (FLT_DUMP_STATE_PLACEHOLDERS.set (FLT_DUMP_STATE_LENGTH.set 0 n) x.placeholders)

/-- DUMP_READ_TIMEOUT: of the page `base`, `words` were read and the next read times out. -/
def dumpTimeout (base words : Nat) (s : State) : State :=
  match s.flt.dump with
  | none => s
  | some x =>
    if !x.todo.contains base then s else
    let (x, full) := dumpRead s (some base) x.todo x
    if full then dumpShow s x else
    let n := min words 511
    let x := { x with todo := x.todo.drop 1 }
    let x := if n ≠ 0 ∧ dumpFits s x (8 * n) then dumpAdd 1 0 base (dumpWords s base 0 n) x else x
    let x := if dumpFits s x 0 then dumpAdd 1 1 (base + 8 * n) [] x else x
    let later := x.todo.takeWhile fun p => csrGroup p == csrGroup base && csrUnit p == csrUnit base
    let x := later.foldl (fun x p => if dumpFits s x 0 then dumpAdd 1 2 p [] x else x) { x with todo := x.todo.drop later.length }
    raise srcFLT_DUMP_PLACEHOLDER 0 (dumpShow s x)

/-- Table FLT-6. -/
def dumpHeader (s : State) (x : Dump) : Bytes :=
  leBytes 4 0x50445848 ++ leBytes 2 1 ++ leBytes 1 x.trigger ++ zeros 1 ++ leBytes 8 fuseDeviceId ++ leBytes 8 x.start
    ++ leBytes 8 (now s) ++ leBytes 4 x.records ++ leBytes 4 x.placeholders ++ leBytes 8 (64 + x.bytes.length) ++ zeros 16

/-- DUMP_DONE: the reads that remain, the header and the result: 1 complete, 2 the buffer is full. -/
def dumpDone (s : State) : State :=
  match s.flt.dump with
  | none => s
  | some x =>
    let (x, full) := dumpRead s none x.todo x
    let (x, full) := if !full && rdBit s SEC_DEBUG SEC_DEBUG_DUMP_DATA then dumpSram s (List.range 16) x else (x, full)
    let s := cdWrite (dumpShow s x) (rdF s FLT_DUMP_DST FLT_DUMP_DST_ADDR * 2 ^ 16) (dumpHeader s x ++ x.bytes)
    let s := { s with flt := { s.flt with dump := none } }
    wrF (wrF s FLT_DUMP_CTL FLT_DUMP_CTL_BUSY 0) FLT_DUMP_CTL FLT_DUMP_CTL_RESULT (if full then 2 else 1)

end Sys2Proof.Machine
end

