-- ==== Sys2Proof/Machine/Attend.lean ====
section
/-! DEFINITION. ATTEND (chapter 7): pools and length tables (R179 to R184), placement and appends (R192 to R195), the forward and
backward computations (R196 to R203) and their errors (R204, R205). The first unit of a step also checks, places and appends, and reads
the lists; the last one writes the codes (log entry 18). -/

namespace Sys2Proof.Machine

/-! ### Parameters, pools and tables -/

/-- The ATTEND parameter block and the descriptor's PARAM (R185). -/
structure AttPar where
  oc : Nat
  mode : Nat
  stats : Bool
  append : Bool
  gacc : Bool
  dh128 : Bool
  hq : Nat
  maxRt : Nat
  scale : Val
  base : Nat
  stride : Nat
  layer : Nat
  head : Nat
  deriving Inhabited

/-- R189: whether the operands that a mode uses are there, and no others. -/
def attOperands (st : Step) (p : AttPar) : Bool :=
  st.in0.isSome && (st.in1.isSome || p.mode < 3) && (st.in1.isNone || 3 ≤ p.mode || p.append) && st.in2.isSome == (3 ≤ p.mode || p.stats)
    && st.out.isSome == (p.mode != 4)

/-- R185: the parameters of a step; none where a rule of the block, the descriptor or R189 is broken. -/
def attPar (st : Step) (x : Stn) (pitch : Nat) : Option AttPar :=
  let fl := leAt x.param 9 1
  let p : AttPar := ⟨leAt x.param 0 8, leAt x.param 8 1, bit fl 0, bit fl 1, bit fl 2, bit fl 3, leAt x.param 10 1, leAt x.param 11 1,
    f32Val (leAt x.param 12 4), leAt x.param 16 8, leAt x.param 24 8, st.param % 256, st.param / 256 % 256⟩
  let fin := match p.scale with
    | .fin _ n _ => n != 0
    | _ => false
  if x.param.length ≠ 32 ∨ (outMode p.oc).isNone ∨ 4 < p.mode ∨ 15 < fl ∨ (p.dh128 ∧ p.mode ≠ 1)
      ∨ p.hq = 0 ∨ 128 < p.hq ∨ p.maxRt = 0
      ∨ 64 < p.maxRt ∨ !fin ∨ (p.base ≠ 0 ∧ p.mode ≠ 1 ∧ p.mode ≠ 4)
      ∨ (p.stride ≠ 0 ∧ p.mode ≠ 1) ∨ pitch ≠ 0 ∨ st.rows ≠ 128
      ∨ st.cols ≠ 128 ∨ !attOperands st p then none
  else some p

/-- A KV pool (Table ATT-1). -/
structure Pool where
  addr : Nat
  kind : Nat
  layers : Nat
  pages : Nat
  fmt : Nat
  hkv : Nat
  wa : Nat
  wb : Nat
  sb : Nat
  rc : Nat
  page : Nat
  total : Nat
  deriving Inhabited

/-- The element size of a KV format. -/
def kvBytes (f : Nat) : Nat := fmtBits f / 8

/-- Bytes of section A of a slice (R180). -/
def Pool.secA (p : Pool) : Nat := cdiv (64 * p.wa * kvBytes p.fmt) 64 * 64
def Pool.secB (p : Pool) : Nat := cdiv (64 * p.wb * kvBytes p.fmt) 64 * 64

/-- The pool of a header at an address. -/
def Pool.of (addr : Nat) (h : Bytes) : Pool :=
  let n := leAt h 8 4 % 2 ^ 24
  ⟨addr, leAt h 6 1, leAt h 7 1, if n = 0 then 2 ^ 24 else n, leAt h 0x0C 1, leAt h 0x0D 1, leAt h 0x0E 2, leAt h 0x10 2,
    leAt h 0x14 4, leAt h 0x18 8, leAt h 0x20 8, leAt h 0x28 8⟩

/-- The checks of ATT_POOL on a header. -/
def poolOk (h : Bytes) : Bool :=
  let p := Pool.of 0 h
  let width := if p.kind = 0 then 1 ≤ p.hkv && p.hkv ≤ 16 && (p.wa == 64 * p.hkv || p.wa == 128 * p.hkv) && p.wb == p.wa
    else p.hkv == 0 && 32 ≤ p.wa && p.wa ≤ 1024 && p.wa % 32 == 0 && p.wb ≤ 128 && p.wb % 32 == 0
  leAt h 0 4 == 0x50564B48 && leAt h 4 2 == 1 && crc32c (h.take 0x3C) == leAt h 0x3C 4 && p.kind ≤ 1 && p.layers != 0
    && (p.fmt == 7 || p.fmt == 8 || p.fmt == 0x0D || p.fmt == 0x0E) && width && p.sb == p.secA + p.secB && p.rc % 64 == 0
    && p.page % 64 == 0 && p.rc + 4 * p.pages ≤ p.total && p.page + p.pages * p.layers * p.sb ≤ p.total && p.total % 64 == 0

/-- The address of the slice of page `k`, layer `l` (R180). -/
def Pool.slice (p : Pool) (k l : Nat) : Nat := p.addr + p.page + (k * p.layers + l) * p.sb

/-- A length table entry (Table ATT-3), with its index in the table. -/
structure AttEnt where
  idx : Nat
  list : Nat
  n0 : Nat
  q : Nat
  app : Nat
  causal : Bool
  spare0 : Nat
  spare1 : Nat
  deriving Inhabited

def AttEnt.of (idx : Nat) (b : Bytes) : AttEnt :=
  ⟨idx, leAt b 0 8, leAt b 8 4 % 2 ^ 24, leAt b 0x0C 4, leAt b 0x10 1, bit (leAt b 0x11 1) 0, leAt b 0x14 4, leAt b 0x18 4⟩

/-- The length of the sequence for the step. -/
def AttEnt.n (e : AttEnt) : Nat := e.n0 + e.app

/-- R191: whether token t is visible to query q. -/
def AttEnt.sees (e : AttEnt) (q t : Nat) : Bool := t < e.n && (!e.causal || t + e.q ≤ e.n + q)

/-- R191: whether some token of list position `j` is visible to query `q`: its first one, if any. -/
def AttEnt.seesPage (e : AttEnt) (q j : Nat) : Bool := e.sees q (64 * j)

/-- The positions that some query of an entry sees (R191): those of its last query. -/
def AttEnt.positions (e : AttEnt) : List Nat :=
  if e.q = 0 then [] else (List.range (cdiv e.n 64)).filter fun j => e.seesPage (e.q - 1) j

/-- Head width, key width and value width of a mode (R187). -/
def attDh (p : AttPar) (k : Pool) : Nat := if p.mode = 1 then (if p.dh128 then 128 else 64) else if k.kind = 0 then k.wa / k.hkv else 0
def attWk (p : AttPar) (k : Pool) : Nat :=
  if k.kind = 0 then attDh p k else if p.mode = 1 then attDh p k + k.wb else k.wa + k.wb
def attWv (p : AttPar) (k : Pool) : Nat := if k.kind = 0 ∨ p.mode = 1 then attDh p k else k.wa

/-! ### An entry's own outcomes (R205) -/

/-- The outcome of an entry's access: a code of 0x07 to 0x0C ends the entry; any other error faults the step. -/
def entryCode (st : Nat) (c : Ctx) : Nat × Ctx :=
  if st = stOK then (0, c)
  else
    let k := statusFault st
    if 0x07 ≤ k ∧ k ≤ 0x0C then (k, c) else (0, c.fail k 0)

def entRead (a n : Nat) (c : Ctx) : Nat × Bytes × Ctx :=
  let (st, d, c) := c.readSt a n
  let (k, c) := entryCode st c
  (k, bslice d 0 n, c)

def entWrite (a : Nat) (d : Bytes) (c : Ctx) : Nat × Ctx :=
  let (st, c) := c.writeSt a d
  entryCode st c

/-- R121: an entry's data whose content no plan needs. -/
def entBulk (a n : Nat) (c : Ctx) : Nat × Bytes × Ctx :=
  if c.dry then (0, [], if c.ok then { c with reads := c.reads + readsFor a n } else c) else entRead a n c

/-- List word `j` of an entry: the page, or a code. -/
def listWord (k : Pool) (e : AttEnt) (j : Nat) (c : Ctx) : Nat × Nat × Ctx :=
  let (code, d, c) := entRead (e.list + 4 * j) 4 c
  let p := leNat d % 2 ^ 24
  if code ≠ 0 then (code, 0, c) else if k.pages ≤ p then (0x21, 0, c) else (0, p, c)

/-- An atomic operation at the home of a word of the pool (R181): the code, and the old value. -/
def entAtomic (op a arg new : Nat) (c : Ctx) : Nat × Nat × Ctx :=
  let (st, d, c) := c.atomic1 op a (leBytes 4 arg) (leBytes 4 new)
  let (k, c) := entryCode st c
  (k, leNat d, c)

/-! ### Placement (R193) -/

/-- Placement in progress: the code that ended the entry, its status word and the word's address, and the unit. -/
structure Plc where
  code : Nat
  word : Nat
  addr : Nat
  c : Ctx

def Plc.go (x : Plc) : Bool := x.code == 0 && x.c.ok

/-- An access that gave a code. -/
def Plc.took (x : Plc) (r : Nat × Ctx) : Plc := { x with code := r.1, c := r.2 }

/-- R193: an action has completed: its bits are set in the status word. -/
def Plc.mark (bits : Nat) (x : Plc) : Plc :=
  if !x.go then x else
  let w := x.word ||| bits
  { x with word := w, c := x.c.write x.addr (leBytes 8 w) }

/-- A count of Table ATT-7. -/
def Plc.count (a : Nat) (x : Plc) : Plc := if x.go then { x with c := x.c.on fun s => bump s a } else x

def PLACED : Nat := 2 ^ 8
def COPIED : Nat := 2 ^ 9
def USED0 : Nat := 2 ^ 10
def USED1 : Nat := 2 ^ 11
def FREED : Nat := 2 ^ 12

/-- The address of a page's refcount word. -/
def Pool.rcAddr (k : Pool) (p : Nat) : Nat := k.addr + k.rc + 4 * p

/-- take(s): reserve a spare page by a CAS of its count. -/
def Plc.take (k : Pool) (spare : Nat) (x : Plc) : Plc :=
  if !x.go then x
  else if spare = 2 ^ 32 - 1 then { x with code := 0x23 }
  else if k.pages ≤ spare then { x with code := 0x21 } else
  let (code, old, c) := entAtomic 0x20 (k.rcAddr spare) 0 1 x.c
  x.took (if code = 0 ∧ old ≠ 0 then 0x23 else code, c)

/-- Write a list word. -/
def Plc.list (e : AttEnt) (pos page : Nat) (x : Plc) : Plc := if !x.go then x else x.took (entWrite (e.list + 4 * pos) (leBytes 4 page) x.c)

/-- Copy rows 0 to r − 1 of every layer of a page to another. -/
def Plc.copy (k : Pool) (old new r : Nat) (x : Plc) : Plc :=
  (List.range k.layers).foldl (fun x l =>
    [(0, r * k.wa * kvBytes k.fmt), (k.secA, r * k.wb * kvBytes k.fmt)].foldl (fun x s =>
      if !x.go then x else
      let (e, d, c) := entBulk (k.slice old l + s.1) s.2 x.c
      if e ≠ 0 then x.took (e, c) else x.took (entWrite (k.slice new l + s.1) d c)) x) x

/-- The atomic decrement of a copied page's count; FREED where it was 1. -/
def Plc.release (k : Pool) (old : Nat) (x : Plc) : Plc :=
  if !x.go then x else
  let (code, v, c) := entAtomic 0x01 (k.rcAddr old) (2 ^ 32 - 1) 0 x.c
  let x := x.took (code, c)
  if v = 1 then x.mark FREED else x

/-- R193: place(entry), of status word `w` at `sa`. -/
def place (k : Pool) (e : AttEnt) (sa w u : Nat) (c : Ctx) : Plc :=
  let r := e.n0 % 64
  let pos := e.n0 / 64
  let x : Plc := ⟨0, w, sa, c⟩
  if r = 0 then ((((x.take k e.spare0).list e pos e.spare0).mark USED0).count (STN_ATT_PLACED u)).mark PLACED
  else
    let (code, old, c) := listWord k e pos x.c
    if code ≠ 0 then x.took (code, c) else
    let (code, d, c) := entRead (k.rcAddr old) 4 c
    let n := leNat d % 65536
    let x := x.took (if code = 0 ∧ n = 0 then 0x22 else code, c)
    let x := if 1 < n then
        let x := ((x.take k e.spare0).copy k old e.spare0 r).list e pos e.spare0
        let x := ({ x with word := x.word % 2 ^ 32 + x.word / 2 ^ 56 * 2 ^ 56 }.mark (COPIED + USED0 + old * 2 ^ 32)).count (STN_ATT_COW u)
        x.release k old
      else x
    let x := if 64 < r + e.app then
        let (s, f) := if 1 < n then (e.spare1, USED1) else (e.spare0, USED0)
        (((x.take k s).list e (pos + 1) s).mark f).count (STN_ATT_PLACED u)
      else x
    x.mark PLACED

/-! ### Row tiles (R188) -/

/-- A row of a row tile: the entry (position in the block), its query and its head. -/
structure AttRow where
  ent : Nat
  q : Nat
  head : Nat
  deriving DecidableEq, Inhabited

/-- The rows of an entry in order (R187). -/
def entRows (p : AttPar) (i : Nat) (e : AttEnt) : List AttRow :=
  (List.range (e.q * p.hq)).map fun k =>
    if p.mode = 1 then ⟨i, k % e.q, k / e.q⟩ else ⟨i, k / p.hq, k % p.hq⟩

/-- Cut rows into pieces of 128. -/
def cut128 : Nat → List AttRow → List (List AttRow)
  | 0, _ => []
  | f + 1, l => if l.isEmpty then [] else l.take 128 :: cut128 f (l.drop 128)

/-- R188: pack the rows of a block into row tiles: the closed tiles, and the current one. -/
def packRows (rs : List (List AttRow)) : List (List AttRow) :=
  let (ts, cur) := rs.foldl (fun (a : List (List AttRow) × List AttRow) r =>
    if r.isEmpty then a
    else if 128 < r.length then (a.1 ++ (if a.2.isEmpty then [] else [a.2]) ++ cut128 (r.length / 128 + 1) r, [])
    else if a.2.length + r.length ≤ 128 then (a.1, a.2 ++ r)
    else (a.1 ++ [a.2], r)) ([], [])
  ts ++ (if cur.isEmpty then [] else [cur])

/-! ### Arithmetic -/

/-- Pad a list of operand pairs to whole rank tiles of 128. -/
def rankTiles : Nat → List (Val × Val) → List (List (Val × Val))
  | 0, _ => []
  | f + 1, l =>
    if l.isEmpty then [] else
    let h := l.take 128
    (h ++ List.replicate (128 - h.length) (.zero, .zero)) :: rankTiles f (l.drop 128)

/-- A chain value over operand pairs (R144 or R146, by class). -/
def chainOf (narrow : Bool) (xs : List (Val × Val)) : Val :=
  if narrow then accVal 32 (xs.foldl (fun a p => accTerm 32 a (p.1.mul p.2)) {})
  else match (rankTiles (xs.length / 128 + 1) xs).map fun t => tree16 (t.map fun p => mulF32 p.1 p.2) with
    | [] => .zero
    | t :: r => r.foldl addF32 t

/-- roundPF: round to the probability format under RNE with saturation (R186). -/
def roundPF (narrow : Bool) (v : Val) : Val :=
  let e := fmtEnc (if narrow then 7 else 0x0D)
  e.val (e.out .rne true 0 v).code

/-- The exact sum of values, rounded once. -/
def exactSum (vs : List Val) : Val := rne32 (accOut (vs.foldl accAdd {}))

/-- The exact sum of products of two 8-bit or 16-bit values, rounded once: no such product has a bit below 2^-300. -/
def exactDot (vs : List (Val × Val)) : Val := rne32 (accVal 300 (vs.foldl (fun a v => accTerm 300 a (v.1.mul v.2)) {}))

/-! ### The views of a page (R187, R200) -/

/-- Everything a computation reads of one page: keys and values of a token, by head. -/
structure PageView where
  key : Nat → Nat → Nat → Val
  val : Nat → Nat → Nat → Val

/-- An element of a slice: section, row, column. -/
def sliceVal (k : Pool) (d : Bytes) (b : Bool) (t col : Nat) : Val :=
  let e := kvBytes k.fmt
  let o := if b then k.secA + (t * k.wb + col) * e else (t * k.wa + col) * e
  (fmtEnc k.fmt).val (leAt d o e)

/-- The page's views: head, token, column. `ups` holds the up-projection tiles of the heads present: UK tiles, then UV tiles. -/
def pageView (p : AttPar) (k : Pool) (narrow : Bool) (d : Bytes) (ups : List (Nat × List Bytes)) : PageView :=
  let a := sliceVal k d false
  let b := sliceVal k d true
  if k.kind = 0 then
    let dh := attDh p k
    ⟨fun _ t c => a t (p.head * dh + c), fun _ t c => b t (p.head * dh + c)⟩
  else if p.mode = 1 then
    let dh := attDh p k
    let w := cdiv k.wa 128
    let e := fmtEnc k.fmt
    let proj := fun (off h t c : Nat) =>
      let v := chainOf narrow ((List.range k.wa).map fun m =>
        (a t m, tileRaw k.fmt 128 (nth (((ups.find? (·.1 == h)).map (·.2)).getD []) (off + m / 128)) c (m % 128)))
      e.val (e.out .rne false 0 v).code
    ⟨fun h t c => if c < dh then proj 0 h t c else b t (c - dh), fun h t c => proj w h t c⟩
  else ⟨fun _ t c => if c < k.wa then a t c else b t (c - k.wa), fun _ t c => a t c⟩

/-! ### The forward row (R196) -/

/-- The running state of one row. -/
structure Soft where
  m : Val
  l : Val
  o : List Val

/-- One page of a row: the tokens' scores, the new maximum, and the sums. `vis` says which of its tokens are visible. -/
def softPage (p : AttPar) (narrow : Bool) (wk head : Nat) (query : Nat → Val) (v : PageView) (vis : Nat → Bool) (x : Soft) : Soft :=
  let toks := List.range 64
  if !toks.any vis then x else
  let score := fun t => chainOf narrow ((List.range wk).map fun c => (query c, v.key head t c))
  let s := toks.map fun t => if vis t then mulF32 p.scale (score t) else .inf true
  let mn := s.foldl Val.max x.m
  let a := exp32 (x.m.sub mn |> rne32)
  let ps := s.map fun y => match y with
    | .inf true => Val.zero
    | y => roundPF narrow (exp32 (rne32 (y.sub mn)))
  let pOf := fun t => (ps[t]?).getD .zero
  ⟨mn, addF32 (mulF32 a x.l) (exactSum ps),
   (x.o.zipIdx).map fun (o, c) =>
     addF32 (mulF32 a o) (chainOf narrow (toks.map fun t => if vis t then (pOf t, v.val head t c) else (.zero, .zero)))⟩

/-! ### The step -/

/-- The distinct numbers of a list, in order of first appearance. -/
def uniq (l : List Nat) : List Nat := l.foldl (fun a x => if a.contains x then a else a ++ [x]) []

/-- What a step knows of its block: its parameters, formats, pool and table, the entries and their row tiles. -/
structure Att where
  p : AttPar
  k : Pool
  f0 : Nat
  f1 : Nat
  fo : Nat
  table : Nat
  first : Nat
  stOff : Nat
  es : List AttEnt
  tiles : List (List AttRow)

def Att.narrow (a : Att) : Bool := kvBytes a.k.fmt == 1
def Att.wk (a : Att) : Nat := attWk a.p a.k
def Att.wv (a : Att) : Nat := attWv a.p a.k
def Att.ctk (a : Att) : Nat := cdiv a.wk 128
def Att.ctv (a : Att) : Nat := cdiv a.wv 128
def Att.cta (a : Att) : Nat := cdiv (a.k.wa + a.k.wb) 128
def Att.ent (a : Att) (i : Nat) : AttEnt := (a.es[i]?).getD default
def Att.tile (a : Att) (r : Nat) : List AttRow := (a.tiles[r]?).getD []
/-- The address of an entry's status word. -/
def Att.status (a : Att) (i : Nat) : Nat := a.table + a.stOff + 8 * (a.first + i)
/-- The rows appended before entry `i` of the block. -/
def Att.apps (a : Att) (i : Nat) : Nat := ((a.es.take i).map (·.app)).sum

/-- The block of a step, from what the step has kept: the table header, the pool header and the entries. -/
def Att.of (st : Step) (x : Stn) (p : AttPar) (kept : List Bytes) : Att :=
  let th := nth kept 0
  let eb := nth kept 2
  let first := st.tile * leAt th 6 2
  let es := (List.range (eb.length / 32)).map fun i => AttEnt.of (first + i) (bslice (eb.drop (32 * i)) 0 32)
  ⟨p, Pool.of (leAt th 0x10 8) (nth kept 1), x.in0, x.in1, x.out, st.arg0, first, leAt th 0x20 8, es,
    packRows ((es.zipIdx).map fun (e, i) => entRows p i e)⟩

/-! ### Entries in progress: the code that ended each (0: it goes on), and its pages in list order -/

/-- The runs of a step's entries. -/
abbrev EntRuns := List (Nat × List Nat)

def runOfEnt (rs : EntRuns) (i : Nat) : Nat × List Nat := (rs[i]?).getD (0, [])

/-- Whether an entry has ended (R205). -/
def ended (rs : EntRuns) (i : Nat) : Bool := (runOfEnt rs i).1 != 0

/-- A page's failure ends the given entries that name it (R205). -/
def endNaming (code pg : Nat) (ents : List Nat) (rs : EntRuns) : EntRuns :=
  (rs.zipIdx).map fun (r, i) => if r.1 = 0 ∧ ents.contains i ∧ r.2.contains pg then (code, r.2) else r

/-- The (position, page) pairs that a row sees: none where its entry ended. -/
def Att.places (a : Att) (rs : EntRuns) (w : AttRow) : List (Nat × Nat) :=
  if ended rs w.ent then [] else
  ((a.ent w.ent).positions.zip (runOfEnt rs w.ent).2).filter fun jp => (a.ent w.ent).seesPage w.q jp.1

/-- Insert a number in a rising list that holds each number once. -/
def insertNat (n : Nat) : List Nat → List Nat
  | [] => [n]
  | m :: r => if n < m then n :: m :: r else if n = m then m :: r else m :: insertNat n r

/-- R191: the pages that a row tile computes, as (position, page): by position, then by entry. -/
def Att.walk (a : Att) (rs : EntRuns) (t : List AttRow) : List (Nat × Nat) :=
  let all := (uniq (t.map (·.ent))).flatMap fun i =>
    ((a.ent i).positions.zip (runOfEnt rs i).2).filter fun jp =>
      !ended rs i && t.any fun w => w.ent == i && (a.ent i).seesPage w.q jp.1
  (all.foldr (fun jp l => insertNat jp.1 l) []).flatMap fun j => all.filter (·.1 == j)

/-! ### Preparation -/

/-- The list positions that a step reads of an entry: those that its rows see, and those that its appended tokens (`app`) take. They follow one
another. -/
def AttEnt.span (e : AttEnt) (app : Bool) : Nat × Nat :=
  if 0 < e.q then (0, cdiv e.n 64) else if app && 0 < e.app then (e.n0 / 64, cdiv e.n 64 - e.n0 / 64) else (0, 0)

/-- R121, R190: the list words of an entry's span, in the fewest reads: a code, and the words with the first one's position. -/
def readList (e : AttEnt) (app : Bool) (c : Ctx) : Nat × Nat × Bytes × Ctx :=
  let (lo, n) := e.span app
  let (code, d, c) := entRead (e.list + 4 * lo) (4 * n) c
  (code, lo, d, c)

/-- The page that word `j` of a list names, or a code. -/
def pageAt (k : Pool) (lo : Nat) (d : Bytes) (j : Nat) : Nat × Nat :=
  let p := leAt d (4 * (j - lo)) 4 % 2 ^ 24
  if k.pages ≤ p then (0x21, 0) else (0, p)

/-- The pages that an entry's rows see, in order, up to the first word that names none. -/
def pagesOf (k : Pool) (e : AttEnt) (lo : Nat) (d : Bytes) : Nat × List Nat :=
  e.positions.foldl (fun (a : Nat × List Nat) j =>
    if a.1 ≠ 0 then a else
    let (code, p) := pageAt k lo d j
    (code, a.2 ++ [p])) (0, [])

/-- R192: the appended rows of an entry, written to its layer, on the pages that its list `d` names: token `a` of the entry is row `row0 + a` of
IN1. -/
def appendRows (p : AttPar) (k : Pool) (e : AttEnt) (lo : Nat) (d : Bytes) (row : Nat → Nat → Nat) (c : Ctx) : Nat × Ctx :=
  if c.dry then (0, c) else
  let w := kvBytes k.fmt
  let cols : List (Nat × Nat × Nat) := if k.kind = 0 then
      let dh := attDh p k
      [(p.head * dh, dh, 0), (p.head * dh, dh, k.wa)]
    else [(0, k.wa, 0), (0, k.wb, k.wa)]
  (List.range e.app).foldl (fun (x : Nat × Ctx) a =>
    if x.1 ≠ 0 then x else
    let t := e.n0 + a
    let (code, pg) := pageAt k lo d (t / 64)
    let c := x.2
    if code ≠ 0 then (code, c) else
    (cols.zipIdx).foldl (fun (x : Nat × Ctx) s =>
      if x.1 ≠ 0 then x else
      let (c0, n, off) := s.1
      let sec := if s.2 = 0 then (t % 64 * k.wa + c0) * w else k.secA + (t % 64 * k.wb + c0) * w
      let r := (List.range n).flatMap fun i => leBytes w (row a (off + c0 + i))
      if n = 0 then x else entWrite (k.slice pg p.layer + sec) r x.2) (0, c)) (0, c)

/-- The code of element (row, col) of a run of tiles laid out as rows of `ct` tiles. -/
def runCode (f ct : Nat) (ds : List Bytes) (row col : Nat) : Nat :=
  tileCode f (nth ds (row / 128 * ct + col / 128)) (row % 128) (col % 128)

/-- R192: steps of different layers on one length table must not overlap in time: another started step, of a bobbin that still runs it, has
not run all its units. The rule says that the breach is detected where PLACED is already set for an entry whose list the step did not
place; PLACED alone is what every later layer meets, so the overlap is looked for there (DEDUCED, log entry 107). -/
def Att.overlaps (a : Att) (s : State) : Bool :=
  s.bobs.any fun x => (bobState s x.1 == bsRUNNING || bobState s x.1 == bsWAIT_MEM) && x.2.steps.any fun y =>
    y.type == tyATTEND && y.arg0 == a.table && !y.kept.isEmpty && y.unit < y.units && y.param % 256 != a.p.layer

/-- R192, R193: the placement of entry `i`, of status word `w`: the code that ends it. -/
def Att.placed (a : Att) (u w i : Nat) (c : Ctx) : Nat × Ctx :=
  let e := a.ent i
  if !a.p.append ∨ e.app = 0 then (0, c)
  else if bit w 8 then (0, if a.overlaps c.s then c.fail 0x0F 0x14 else c)
  else
    let x := place a.k e (a.status i) w u c
    (x.code, x.c)

/-- One entry of the preparation (R205): its shape, its placement, its list words, its appends. -/
def Att.enter (a : Att) (rows : List Bytes) (u w i : Nat) (c : Ctx) : (Nat × List Nat) × Ctx :=
  let e := a.ent i
  if 64 < e.app ∨ (e.causal ∧ e.n < e.q) then ((0x24, []), c) else
  let (code, c) := a.placed u w i c
  if code ≠ 0 ∨ !c.ok then ((code, []), c) else
  let (code, lo, d, c) := readList e a.p.append c
  if code ≠ 0 ∨ !c.ok then ((code, []), c) else
  let (code, c) := if a.p.append then appendRows a.p a.k e lo d (fun t col => runCode a.k.fmt a.cta rows (a.apps i + t) col) c else (0, c)
  if code ≠ 0 ∨ !c.ok then ((code, []), c) else (pagesOf a.k e lo d, c)

/-- R189: the granules of a step's runs, sized for MAX_RT row tiles. -/
def Att.grans (a : Att) : Nat × Nat × Nat × Nat :=
  let g := fun f k => k * tileGran f 128
  let m := a.p.maxRt
  if 3 ≤ a.p.mode then
    (g a.f0 (m * a.ctk), g a.f1 (2 * m * a.ctv), g 0x0F m, if a.p.mode = 3 then g a.fo (m * a.ctk) else 0)
  else (g a.f0 (m * a.ctk), g a.f1 (cdiv (a.apps a.es.length) 128 * a.cta), g 0x0F m, g a.fo (m * a.ctv))

/-- R190: the pages that are the units of mode 4: the distinct pages of the block, in order of first appearance. -/
def Att.blockPages (a : Att) (rs : EntRuns) : List Nat :=
  uniq ((List.range a.es.length).flatMap fun i => if ended rs i then [] else (runOfEnt rs i).2)

/-- The preparation: the headers and their checks (R204), the entries (R184), the runs (R189), placement and appends entry by entry (R193),
and the lists. It leaves the step with its units. -/
def attPrep (st : Step) (x : Stn) (p : AttPar) (c : Ctx) : Ctx :=
  let u := stnUnit c st
  let (th, c) := c.read st.arg0 64
  if !c.ok then c else
  let block := leAt th 6 2
  let entries := leAt th 8 4 % 2 ^ 24
  let entOff := leAt th 0x18 8
  let stOff := leAt th 0x20 8
  if leAt th 0 4 ≠ 0x544C4B48 ∨ leAt th 4 2 ≠ 1 ∨ block = 0 ∨ 256 < block ∨ entOff % 64 ≠ 0
      ∨ stOff % 64 ≠ 0 then c.fail 0x0F 0x12 else
  let (ph, c) := c.read (leAt th 0x10 8) 64
  if !c.ok then c else
  let k := Pool.of (leAt th 0x10 8) ph
  if !poolOk ph then c.fail 0x0F 0x11
  else if k.fmt ≠ x.in1 then c.fail 0x0F 0x13
  else if (if k.kind = 0 then p.mode = 1 ∨ p.mode = 2 else p.mode = 0) ∨ k.layers ≤ p.layer ∨ (k.kind = 0 ∧ k.hkv ≤ p.head)
      ∨ (3 ≤ p.mode ∧ p.append) then c.fail 0x0F 0x14
  else if k.kind = 1 ∧ p.head ≠ 0 then c.fail 0x05 0
  else if entries ≤ st.tile * block then { c with step := { c.step with kept := [th, ph, []], units := 0 } } else
  let first := st.tile * block
  let n := min entries (first + block) - first
  let (eb, c) := c.read (st.arg0 + entOff + 32 * first) (32 * n)
  let (sb, c) := c.read (st.arg0 + stOff + 8 * first) (8 * n)
  if !c.ok then c else
  let a := Att.of st x p [th, ph, eb]
  if p.maxRt < a.tiles.length then c.fail 0x0F 0x15 else
  let c := c.spans st a.grans
  let (rows, c) := if p.append then c.tiles st.in1 x.in1 128 (cdiv (a.apps n) 128 * a.cta) u else ([], c)
  let (rs, c) := (List.range n).foldl (fun (r : EntRuns × Ctx) i =>
    if !r.2.ok then r else
    let (e, c) := a.enter rows u (leAt sb (8 * i) 8) i r.2
    (r.1 ++ [e], c)) ([], c)
  let pages := if p.mode = 4 then a.blockPages rs else []
  { c with step := { c.step with
      kept := [th, ph, eb], runs := rs, notes := pages, units := if p.mode = 4 then pages.length else a.tiles.length } }

/-! ### Operands of a row tile -/

/-- The operand tiles of one row tile: queries, dO, O and statistics. -/
structure AttOps where
  qs : List Bytes := []
  ds : List Bytes := []
  os : List Bytes := []
  ss : Bytes := []

/-- Read `n` tiles of a run from tile `q`. -/
def Ctx.tilesFrom (o : Option (Nat × Nat)) (f q n u : Nat) (c : Ctx) : List Bytes × Ctx :=
  (List.range n).foldl (fun (a : List Bytes × Ctx) i => let (d, c) := a.2.tile o f 128 (q + i) u; (a.1 ++ [d], c)) ([], c)

/-- R189: the operand tiles of row tile `r`. -/
def Att.ops (a : Att) (st : Step) (u r : Nat) (c : Ctx) : AttOps × Ctx :=
  let (qs, c) := c.tilesFrom st.in0 a.f0 (r * a.ctk) a.ctk u
  if a.p.mode < 3 then ({ qs := qs }, c) else
  let (ds, c) := c.tilesFrom st.in1 a.f1 (r * a.ctv) a.ctv u
  let (os, c) := c.tilesFrom st.in1 a.f1 ((a.p.maxRt + r) * a.ctv) a.ctv u
  let (ss, c) := c.tile st.in2 0x0F 128 r u
  (⟨qs, ds, os, ss⟩, c)

/-- Element (i, col) of tiles of format `f` side by side. -/
def wideVal (f : Nat) (ds : List Bytes) (i col : Nat) : Val := (fmtEnc f).val (tileCode f (nth ds (col / 128)) i (col % 128))

def Att.query (a : Att) (o : AttOps) (i col : Nat) : Val := wideVal a.f0 o.qs i col
def Att.dO (a : Att) (o : AttOps) (i col : Nat) : Val := wideVal a.f1 o.ds i col
def Att.oF (a : Att) (o : AttOps) (i col : Nat) : Val := wideVal a.f1 o.os i col
def AttOps.m (o : AttOps) (i : Nat) : Val := tileRaw 0x0F 128 o.ss i 0
def AttOps.l (o : AttOps) (i : Nat) : Val := tileRaw 0x0F 128 o.ss i 1

/-- Table ATT-6: array steps for one row tile and page. -/
def attSteps (p : AttPar) (k : Pool) (heads : Nat) : Nat :=
  let c := if kvBytes k.fmt = 1 then 2 else 4
  let ctk := cdiv (attWk p k) 128
  let ctv := cdiv (attWv p k) 128
  if p.mode = 1 then heads * 64 * c * (2 * cdiv k.wa 128 * cdiv (attDh p k) 128 + ctk + ctv)
  else if p.mode = 3 then 64 * c * (2 * ctk + ctv)
  else if p.mode = 4 then 64 * c * (2 * ctk + 2 * ctv)
  else 64 * c * (ctk + ctv)

/-! ### The forward modes (R196 to R200) -/

/-- The view of a page. -/
abbrev Views := List (Nat × PageView)

/-- One row of the forward modes: its m, l and outputs. -/
def Att.forwardRow (a : Att) (rs : EntRuns) (views : Views) (w : AttRow) (query : Nat → Val) : Soft :=
  (a.places rs w).foldl (fun x jp =>
    match views.find? (·.1 == jp.2) with
    | some v => softPage a.p a.narrow a.wk w.head query v.2 (fun t => (a.ent w.ent).sees w.q (64 * jp.1 + t)) x
    | none => x) ⟨.inf true, .zero, List.replicate a.wv .zero⟩

/-- Modes 0 to 2: the outputs and statistics of row tile `r`; NaN for the rows of an entry that ended (R205). -/
def Att.forward (a : Att) (st : Step) (u r : Nat) (rs : EntRuns) (views : Views) (o : AttOps) (c : Ctx) : Ctx :=
  let rows : List Soft := ((a.tile r).zipIdx).map fun (w, i) =>
    if ended rs w.ent then ⟨.nan, .nan, List.replicate a.wv .nan⟩ else a.forwardRow rs views w (a.query o i)
  let fin := rows.map fun y => y.o.map fun v => if y.l.isZero then Val.zero else divF32 v y.l
  let c := c.each a.ctv fun k c =>
    c.putTile st.out a.fo 128 (r * a.ctv + k) u
      (outTile a.fo a.p.oc (stepSeed c st (r * a.ctv + k)) 128 128 fun i col => at2 fin i (128 * k + col))
  if a.p.stats ∧ c.ok then
    c.putTile st.in2 0x0F 128 r u (outTile 0x0F 0 0 128 2 fun i col =>
      match rows[i]? with
      | some y => if col = 0 then y.m else y.l
      | none => .zero)
  else c

/-! ### The backward modes (R201 to R203) -/

/-- The recomputed gradients of one row and page (R201): for each token, PP and dS. -/
def backTok (p : AttPar) (narrow : Bool) (wk wv head : Nat) (query dO : Nat → Val) (d m l : Val) (v : PageView) (t : Nat) : Val × Val :=
  let s := mulF32 p.scale (chainOf narrow ((List.range wk).map fun c => (query c, v.key head t c)))
  let pr := if l.isZero then .zero else divF32 (roundPF narrow (exp32 (rne32 (s.sub m)))) l
  let dP := chainOf narrow ((List.range wv).map fun c => (dO c, v.val head t c))
  (roundPF narrow pr, roundPF narrow (mulF32 pr (subF32 dP d)))

/-- D of R201. -/
def Att.backD (a : Att) (o : AttOps) (i : Nat) : Val := exactDot ((List.range a.wv).map fun c => (a.dO o i c, a.oF o i c))

/-- R201 for row `i` of a row tile and one page: PP and dS of each token, none where the row does not see it. -/
def Att.backRow (a : Att) (o : AttOps) (i : Nat) (w : AttRow) (j : Nat) (v : PageView) : List (Option (Val × Val)) :=
  let d := a.backD o i
  (List.range 64).map fun t =>
    if (a.ent w.ent).sees w.q (64 * j + t) then
      some (backTok a.p a.narrow a.wk a.wv w.head (a.query o i) (a.dO o i) d (o.m i) (o.l i) v t)
    else none

/-- R202: one row of dQ. -/
def Att.dqRow (a : Att) (rs : EntRuns) (views : Views) (o : AttOps) (i : Nat) (w : AttRow) : List Val :=
  if ended rs w.ent then List.replicate a.wk .nan else
  let acc := (a.places rs w).foldl (fun (acc : List Val) jp =>
    match views.find? (·.1 == jp.2) with
    | none => acc
    | some v =>
      let gs := a.backRow o i w jp.1 v.2
      (acc.zipIdx).map fun (y, col) => addF32 y (chainOf a.narrow ((gs.zipIdx).map fun (g, t) =>
        match g with
        | some g => (g.2, v.2.key w.head t col)
        | none => (.zero, .zero)))) (List.replicate a.wk .zero)
  acc.map (mulF32 a.p.scale)

/-- Mode 3: dQ of row tile `r`. -/
def Att.backQ (a : Att) (st : Step) (u r : Nat) (rs : EntRuns) (views : Views) (o : AttOps) (c : Ctx) : Ctx :=
  let rows := ((a.tile r).zipIdx).map fun (w, i) => a.dqRow rs views o i w
  c.each a.ctk fun k c =>
    c.putTile st.out a.fo 128 (r * a.ctk + k) u
      (outTile a.fo a.p.oc (stepSeed c st (r * a.ctk + k)) 128 128 fun i col => at2 rows i (128 * k + col))

/-- A row tile's part of a page's gradients (R203): its operands, and for each row what it gives each token. -/
abbrev KvPart := AttOps × List (List (Option (Val × Val)))

/-- R203: what the rows of row tile `t` give each token of page `pg`. -/
def Att.kvPart (a : Att) (rs : EntRuns) (pg : Nat) (v : PageView) (o : AttOps) (t : List AttRow) : KvPart :=
  (o, (t.zipIdx).map fun (w, i) =>
    match (a.places rs w).find? (·.2 == pg) with
    | none => List.replicate 64 none
    | some jp => a.backRow o i w jp.1 v)

/-- R203: a sum over the rows of each row tile as a chain, added across row tiles in FP32. -/
def Att.kvSum (a : Att) (parts : List KvPart) (sel : Val × Val → Val) (op : AttOps → Nat → Nat → Val) (t col : Nat) : Val :=
  (parts.map fun p => chainOf a.narrow ((p.2.zipIdx).map fun (w, i) =>
    match (w[t]?).getD none with
    | some g => (sel g, op p.1 i col)
    | none => (.zero, .zero))).foldl addF32 .zero

/-- R121, R203: what the gradient slice of a page holds in the columns `cols` (first one and number), where it is added to: one read for each 4 KiB
range that holds any of them, as a map of the slice. -/
def Att.kvOld (a : Att) (pg : Nat) (cols : List (Nat × Nat)) (c : Ctx) : Bytes × Ctx :=
  let w := a.k.wa + a.k.wb
  let g0 := a.p.base + (pg * a.k.layers + a.p.layer) * 256 * w
  if !a.p.gacc then ([], c) else
  let spans := (List.range 64).flatMap fun t => cols.map fun s => (g0 + 4 * (t * w + s.1), 4 * s.2)
  (cuts (256 * w / 4096 + 2) g0 (256 * w)).foldl (fun (x : Bytes × Ctx) r =>
    let mine := spans.filter fun s => overlap s.1 s.2 r.1 r.2
    if mine.isEmpty then (x.1 ++ zeros r.2, x.2) else
    let lo := mine.foldl (fun m s => min m (max s.1 r.1)) (r.1 + r.2)
    let hi := mine.foldl (fun m s => max m (min (s.1 + s.2) (r.1 + r.2))) r.1
    let (d, c) := x.2.bulk lo (hi - lo)
    (x.1 ++ (if c.dry then zeros r.2 else zeros (lo - r.1) ++ d ++ zeros (r.1 + r.2 - hi)), c)) ([], c)

/-- Mode 4: the gradient slice of one page. -/
def Att.backKV (a : Att) (pg : Nat) (parts : List KvPart) (c : Ctx) : Ctx :=
  let dV := a.kvSum parts (·.1) a.dO
  let dK := fun t col => mulF32 a.p.scale (a.kvSum parts (·.2) a.query t col)
  let k := a.k
  let w := k.wa + k.wb
  let g0 := a.p.base + (pg * k.layers + a.p.layer) * 256 * w
  let dh := attDh a.p k
  let segs : List (Nat × Nat × (Nat → Nat → Val)) := if k.kind = 0 then
      [(a.p.head * dh, dh, fun t col => dK t col), (k.wa + a.p.head * dh, dh, fun t col => dV t col)]
    else [(0, k.wa, fun t col => addF32 (dK t col) (dV t col)), (k.wa, k.wb, fun t col => dK t (k.wa + col))]
  let used := segs.filter (·.2.1 ≠ 0)
  let (old, c) := a.kvOld pg (used.map fun sg => (sg.1, sg.2.1)) c
  if c.dry then c else
  -- whole rows of the slice are one range, parts of rows are ranges of their own
  let val := fun (t col : Nat) (v : Val) => leBytes 4 (f32Code (if a.p.gacc then addF32 (f32Val (leAt old (4 * (t * w + col)) 4)) v else v))
  if k.kind = 0 then
    c.each 64 fun t c => used.foldl (fun (c : Ctx) sg =>
      if !c.ok then c else c.write (g0 + 4 * (t * w + sg.1)) ((List.range sg.2.1).flatMap fun i => val t (sg.1 + i) (sg.2.2 t i))) c
  else if !c.ok then c
  else c.write g0 ((List.range 64).flatMap fun t => used.flatMap fun sg => (List.range sg.2.1).flatMap fun i => val t (sg.1 + i) (sg.2.2 t i))

/-! ### Units (R190) -/

/-- R191, R205: the pages of row tile `t`, each read once; a page that fails ends the entries of the tile that name it, and their later
pages are not read. -/
def Att.readPages (a : Att) (t : List AttRow) (c : Ctx) : List (Nat × Bytes) × Ctx :=
  (a.walk c.step.runs t).foldl (fun (x : List (Nat × Bytes) × Ctx) jp =>
    let c := x.2
    let live := t.any fun w => (a.places c.step.runs w).contains jp
    if !c.ok ∨ !live ∨ x.1.any (·.1 == jp.2) then x else
    let (code, d, c) := entBulk (a.k.slice jp.2 a.p.layer) a.k.sb c
    if code = 0 then (x.1 ++ [(jp.2, d)], c)
    else (x.1, { c with step := { c.step with runs := endNaming code jp.2 (t.map (·.ent)) c.step.runs } })) ([], c)

/-- R200: the up-projections of the heads present in a row tile. -/
def Att.readUps (a : Att) (u : Nat) (t : List AttRow) (c : Ctx) : List (Nat × List Bytes) × Ctx :=
  if a.p.mode ≠ 1 then ([], c) else
  let ft := tileBytes a.k.fmt 128
  let n := 2 * cdiv a.k.wa 128
  (uniq (t.map (·.head))).foldl (fun (x : List (Nat × List Bytes) × Ctx) h =>
    let (ts, c) := (List.range n).foldl (fun (y : List Bytes × Ctx) j =>
      let (d, c) := y.2.bulk (a.p.base + a.p.layer * a.p.stride + (h * n + j) * ft) ft
      (y.1 ++ [d], c.tally fun s => bump s (STN_BYTES_IN u) ft)) ([], x.2)
    (x.1 ++ [(h, ts)], c)) ([], c)

/-- Tables ATT-6 and ATT-7: a unit has read `slices` slices and computed `pairs` pairs of a row tile with `heads` heads and a page. -/
def Att.counted (a : Att) (x : Stn) (u slices pairs heads : Nat) (c : Ctx) : Ctx :=
  (c.tally fun s => bump (bump (bump s (STN_BYTES_IN u) (slices * a.k.sb)) (STN_ATT_SLICES u) slices) (STN_ATT_PRODUCTS u) pairs).array x
    (pairs * attSteps a.p a.k heads)

/-- Write a row tile's results. -/
def Att.put (a : Att) (st : Step) (u r : Nat) (views : Views) (o : AttOps) (c : Ctx) : Ctx :=
  if a.p.mode = 3 then a.backQ st u r c.step.runs views o c else a.forward st u r c.step.runs views o c

/-- Modes 0 to 3: row tile `r`. An entry that ends here has its earlier row tiles, which hold no other entry (R188), written as NaN. -/
def Att.tileUnit (a : Att) (st : Step) (x : Stn) (u : Nat) (c : Ctx) : Ctx :=
  let r := st.unit
  let t := a.tile r
  let before := c.step.runs
  let (ds, c) := a.readPages t c
  let (ups, c) := a.readUps u t c
  let (o, c) := a.ops st u r c
  if c.dry || !c.ok then c else
  let c := a.counted x u ds.length ds.length (uniq (t.map (·.head))).length c
  let views := ds.map fun d => (d.1, pageView a.p a.k a.narrow d.2 ups)
  let c := c.each r fun q c =>
    if (a.tile q).any fun w => ended c.step.runs w.ent && !ended before w.ent then a.put st u q [] {} c else c
  if c.ok then a.put st u r views o c else c

/-- Mode 4: a page, with the row tiles that see it. -/
def Att.pageUnit (a : Att) (st : Step) (x : Stn) (u : Nat) (c : Ctx) : Ctx :=
  let pg := (c.step.notes[st.unit]?).getD 0
  let live := fun (c : Ctx) => (a.tiles.zipIdx).filter fun tr => tr.1.any fun w => (a.places c.step.runs w).any (·.2 == pg)
  let ts := live c
  if ts.isEmpty then c else
  let (code, d, c) := entBulk (a.k.slice pg a.p.layer) a.k.sb c
  if !c.ok then c
  else if code ≠ 0 then { c with step := { c.step with runs := endNaming code pg (List.range a.es.length) c.step.runs } }
  else
    let v := pageView a.p a.k a.narrow d []
    let (parts, c) := ts.foldl (fun (y : List KvPart × Ctx) tr =>
      let (o, c) := a.ops st u tr.2 y.2
      (if c.dry then [] else y.1 ++ [a.kvPart c.step.runs pg v o tr.1], c)) ([], c)
    let c := if c.dry then c else a.counted x u 1 ts.length 1 c
    if c.ok then a.backKV pg parts c else c

/-- R205, Table ATT-7: the entries' codes. -/
def Att.finish (a : Att) (u : Nat) (c : Ctx) : Ctx :=
  if c.dry then c else
  c.each a.es.length fun i c =>
    let code := (runOfEnt c.step.runs i).1
    (c.write (a.status i) (leBytes 1 code)).tally fun s => bump s (if code = 0 then STN_ATT_ENTRIES u else STN_ATT_ENTRY_ERR u)

/-- The next unit of an ATTEND step. -/
def attendUnit (st : Step) (x : Stn) (c : Ctx) : Ctx :=
  let u := stnUnit c st
  match attPar st x (bits (descAt (bobProg c.s c.b) st.desc) 255 224) with
  | none => c.fail 0x05 0
  | some p =>
    let c := if c.step.kept.isEmpty then attPrep st x p c else c
    if !c.ok then c else
    let a := Att.of st x p c.step.kept
    let c := if c.step.units ≤ st.unit then c else if p.mode = 4 then a.pageUnit st x u c else a.tileUnit st x u c
    if c.ok ∧ c.step.units ≤ st.unit + 1 then a.finish u c else c

def attend (b i : Nat) (s : State) : State := runUnit tyATTEND b i (fun _ _ => 1) attendUnit s

end Sys2Proof.Machine
end

