-- ==== Sys2Proof/Machine/Issue.lean ====
section
/-! DEFINITION. How bobbins issue steps (R121 to R123): the plan of a step's reads, read credit, hazards, and the completion of steps. -/

namespace Sys2Proof.Machine

/-- Issue as many of a step's waiting reads as the bobbin's credit allows (R122). -/
def issueReads (b maxReads : Nat) (s : State) : State :=
  let y := bobOf s b
  let free := maxReads - readsOut y
  let (steps, used) := y.steps.foldl (fun (a : List Step × Nat) st =>
    let k := min st.toRead (free - a.2)
    (a.1 ++ [{ st with toRead := st.toRead - k, reading := st.reading + k }], a.2 + k)) ([], 0)
  let s := setBob s b { y with steps := steps }
  if used = 0 then s else bump (bump s (BOB_READS b) used) (CRG_READS (bobRgn b)) used

/-- The units of the station types whose reads depend on what memory holds: they are planned by a dry run. -/
def planned (ty : Nat) : Option (Step → Stn → Ctx → Ctx) :=
  if ty = tyEXPAND then some expandUnit
  else if ty = tyATTEND then some attendUnit
  else if ty = tyGATHER then some gatherUnit
  else if ty = tyCOMPRESS then some compressUnit
  else none

/-- Run at most `n` units of a planned step, one after another. -/
def dryRun (body : Step → Stn → Ctx → Ctx) (x : Stn) : Nat → Ctx → Ctx
  | 0, c => c
  | n + 1, c =>
    let c := body c.step x c
    if c.ok ∧ c.step.unit + 1 < c.step.units then dryRun body x n { c with step := { c.step with unit := c.step.unit + 1 } } else c

/-- The plan of a step of a planned type: what its units would do now. -/
def planCtx (s : State) (b : Nat) (st : Step) (body : Step → Stn → Ctx → Ctx) : Ctx :=
  dryRun body (stnOf (bobProg s b) st.station) 65537 { stepCtx s b st with dry := true }

/-- R109, R121: the runs and the reads of a step of a planned type, as its units would make them now; a run outside its area is the fault
SLOT_RANGE. The state that the plan leaves is dropped. Any other fault is met by the unit (DESIGN CHOICE, log entry 12). A plan that lacks the
outcome of a read leaves the step vague (log entry 127). -/
def planStep (s : State) (b : Nat) (st : Step) : Nat ⊕ Step :=
  match planned st.type with
  | none => .inr st
  | some body =>
    let c := planCtx s b st body
    if !c.stuck ∧ c.fault.map (·.1) = some 0x03 then .inl 0x03
    else .inr { st with
      grans := if c.step.grans = (0, 0, 0, 0) then st.grans else c.step.grans, toRead := c.reads, planned := c.reads, vague := c.stuck }

/-- A vague step asks for what its plan lacks, or learns its runs and its further reads, for which its bobbin's credit is then used. -/
def replanStep (b order : Nat) (s : State) : State :=
  match (bobOf s b).steps.find? (·.order == order), bobEnt (bobProg s b) (bobIdx b) with
  | some st, some e =>
    match planned st.type with
    | some body =>
      let c := planCtx s b st body
      if c.stuck then c.askAll s
      else if c.fault.map (·.1) = some 0x03 then bobFault b 0x03 st.station st.desc 0 st.tile (some st) s
      else
        let st := { st with
          grans := if c.step.grans = (0, 0, 0, 0) then st.grans else c.step.grans, vague := false,
          toRead := st.toRead + (c.reads - st.planned), planned := max st.planned c.reads }
        issueReads b e.maxReads (putStep b st s)
    | none => s
  | _, _ => s

/-- A STEP at a bobbin's cursor, with its plan. -/
def nextStep (s : State) (b : Nat) (e : BobEnt) : Nat ⊕ Step :=
  match buildStep s b e with
  | .inl code => .inl code
  | .inr st => planStep s b st

/-- R122, R123: a STEP at the cursor is issued, or blocks. Blocked only by read credit or by a hazard on a reading step, a RUNNING
bobbin enters WAIT_MEM; blocked otherwise it stays. -/
def tryIssue (b : Nat) (s : State) : State :=
  if s.flt.safe then s else
  let p := bobProg s b
  match bobEnt p (bobIdx b) with
  | none => s
  | some e =>
    let d := descAt p (bobCursor s b)
    match nextStep s b e with
    | .inl code => bobFault b code (bits d 12 8) (bobCursor s b) 0 (stepTile s b e d) none s
    | .inr st =>
      let y := bobOf s b
      let full := 8 ≤ y.steps.length
      let credit := (0 < st.toRead || st.vague) && e.maxReads ≤ readsOut y
      let hz := y.steps.filter fun o => hazard p o st
      let memHz := hz.all fun o => readsMem o.type
      if !full ∧ !credit ∧ hz.isEmpty then
        let s := modBob b (fun y => { y with steps := y.steps ++ [st], pos := y.pos + 1 }) s
        let s := wrF s (BOB_POS b) BOB_POS_TILE st.tile
        let s := setBobState b bsRUNNING (setCursor b (bobCursor s b + 1) (issueReads b e.maxReads s))
        if st.vague then replanStep b st.order s else s
      else if !full ∧ (credit ∨ !hz.isEmpty) ∧ memHz ∧ bobState s b = bsRUNNING then
        bump (setBobState b bsWAIT_MEM s) (BOB_WAIT_MEM b)
      else s

/-- Whether a bobbin works on its steps. -/
def bobWorks (s : State) (b : Nat) : Bool := bobState s b == bsRUNNING || bobState s b == bsWAIT_MEM

/-- R123: the blocking read data of a bobbin in WAIT_MEM has arrived: it tries its step. -/
def retryIssue (b : Nat) (s : State) : State := if bobState s b = bsWAIT_MEM then tryIssue b s else s

/-- The vague steps of a bobbin take what came for them. -/
def replan (b : Nat) (s : State) : State :=
  if !bobWorks s b then s else
  let vs := (bobOf s b).steps.filter (·.vague)
  if vs.isEmpty then s else retryIssue b (vs.foldl (fun s st => replanStep b st.order s) s)

/-- An access belongs to a step that goes on. -/
def stepLives (s : State) (b order : Nat) : Bool := bobWorks s b && (bobOf s b).steps.any (·.order == order)

/-- R123: read data arrives: credit returns, waiting reads issue, and a bobbin in WAIT_MEM tries its blocked step. -/
def readArrives (b : Nat) (s : State) : State :=
  let y := bobOf s b
  match y.steps.find? fun st => 0 < st.reading with
  | none => s
  | some st =>
    let s := setBob s b { y with steps := y.steps.map fun x =>
      if x.desc = st.desc ∧ x.pos = st.pos then { x with reading := x.reading - 1 } else x }
    match bobEnt (bobProg s b) (bobIdx b) with
    | none => s
    | some e =>
      retryIssue b (issueReads b e.maxReads s)

/-- The last unit of a step has completed: the step completes and frees its slot (R117). It is a work unit of its bobbin and of its region
(R424); a COMPRESS station counts no steps (R178). -/
def stepComplete (b i : Nat) (s : State) : State :=
  match (bobOf s b).steps[i]? with
  | none => s
  | some st =>
    if st.unit < st.units ∨ !(bobState s b = bsRUNNING ∨ bobState s b = bsWAIT_MEM) then s else
    let n := bobRgn b
    let u := 32 * n + st.engine
    let s := modBob b (fun y => { y with steps := y.steps.filter fun x => !(x.desc == st.desc && x.pos == st.pos) }) s
    let s := progress (progress (bump s (BOB_STEPS b)) grBOB b) grCRG n
    let s := bump s (if st.sched then CRG_STEPS_SCHED n else CRG_STEPS_UNSCHED n)
    let s := if st.type = tyCOMPRESS then s else bump s (if st.sched then STN_STEPS_SCHED u else STN_STEPS_UNSCHED u)
    retryIssue b s

end Sys2Proof.Machine
end

