-- ==== Sys2Proof/Machine/Settle.lean ====
section
/-! DEFINITION. What a command brings with it before it ends: class actions of the sources that fired (R422), and the consequences that
its effect has elsewhere in the device. -/

namespace Sys2Proof.Machine

/-! ### A register changed at a commit -/

/-- R422: sources of a page that are set and now unmasked or of a higher class take their action. `sel` picks the bits. -/
def refire (base : Nat) (sel : Nat → Bool) (s : State) : State :=
  let g := csrGroup base
  let u := csrUnit base
  let hits := (pageSources g u (csrPage base)).filter fun x =>
    sel x.1 && bit (rdReg s (base + 0x020)).toNat x.1 && !bit (rdReg s (base + 0x028)).toNat x.1
  { s with fires := s.fires ++ hits.map fun x => ⟨⟨g, csrPage base, x.1⟩, u⟩ }

/-- The scheduled bobbins of a region that its domain leaves return to IDLE, and CRG_PROG_SEL selects its bank (R73, R106). -/
def bindEnd (n : Nat) (s : State) : State :=
  bankTakesForce n ((List.range 256).foldl (fun s i =>
    let b := 256 * n + i
    if bobState s b ≠ bsIDLE ∧ bobSched s b then setBobState b bsIDLE (setBob s b {}) else s) s)

/-- Table STR-8: a region's binding commits: the bank of the domain takes force, and the scheduled bobbins that it names run, unless their
partition is fenced (R423). -/
def bindStart (n : Nat) (s : State) : State :=
  let s := wrF (bankTakesForce n s) (CRG_PROG_STATE n) CRG_PROG_STATE_EPOCHS 0
  let bank := bankNow s n
  if !bankValid s n bank then raise srcCRG_PROG_INVALID n s
  else (List.range 256).foldl (fun s i =>
    let b := 256 * n + i
    match bobEnt (progOf s n bank) i with
    | some x => if x.mode = 1 ∧ bobState s b = bsIDLE ∧ !ownerFenced s n then setBobState b bsRUNNING (bobRestart b x bank s) else s
    | none => s) s

/-- A region's binding changes from the domain unit `old`. -/
def rebind (n : Nat) (old : Option Nat) (s : State) : State :=
  if old == crgDom s n then s
  else
    let s := if old.isSome then bindEnd n s else s
    if (crgDom s n).isSome then bindStart n s else s

/-- R73, R76, R59: a schedule domain unit `d` takes or leaves BOUND. -/
def domChanged (d : Nat) (old : Word) (s : State) : State :=
  let was := TIM_DOM_ID_BOUND.get old == 1
  if was == domBound s d then s
  else
    let names := fun (s : State) (n : Nat) => rdBit s (CRG_SCHED n) CRG_SCHED_BOUND && rdF s (CRG_SCHED n) CRG_SCHED_DOM == d
    let s := setDom s d {}
    let s := if was then domUnbound d s else s
    (List.range 16).foldl (fun s n => if names s n then rebind n (if was then some d else none) s else s) s

/-- The domain that a value of CRG_SCHED binds. -/
def schedDom (s : State) (w : Word) : Option Nat :=
  if CRG_SCHED_BOUND.get w = 1 ∧ domBound s (CRG_SCHED_DOM.get w) then some (CRG_SCHED_DOM.get w) else none

/-- R347: a PRT_GANG clause retrains every member that has found its lanes, and the result is a new link. -/
def gangChanged (p : Nat) (old : Word) (s : State) : State :=
  let w := max (PRT_GANG_WIDTH.get old) (rdF s (PRT_GANG p) PRT_GANG_WIDTH)
  (List.range (2 ^ (w % 3))).foldl (fun s i =>
    let m := p + i
    let s := modPort (flushPort m stPORT_DOWN s) m fun x =>
      { x with prev := none, cut := [], rxq := [], redeal := [], txTurn := 0, rxTurn := 0 }
    if linkState s m = lsALIGN ∨ linkState s m = lsPARAM ∨ linkState s m = lsACTIVE ∨ linkState s m = lsRETRAIN then
      raise srcPRT_LINK_RETRAIN m (modPort (bump (setLink s m lsRETRAIN) (PRT_RETRAINS m)) m fun x =>
        { x with peer := none, ownAcked := false, locked := false, replays := 0, faultRun := 0 })
    else s) s

/-- G_CTL.ENABLE of a link page (R340, R360). -/
def enableChanged (a : Nat) (old : Word) (s : State) : State :=
  let u := csrUnit a
  let on := rdBit s a G_CTL_ENABLE
  if on == (G_CTL_ENABLE.get old == 1) then s
  else if csrGroup a = grPRT then
    if on then (if linkState s u = lsDISABLED then setLink s u lsDETECT else s) else linkDisable u s
  else if csrGroup a = grCXP then cxlEnable u s
  else s

/-- What a changed register brings. -/
def changedReg (a : Nat) (old : Word) (s : State) : State :=
  let g := csrGroup a
  let u := csrUnit a
  let base := csrBase a
  if csrOff a = 0x010 then (if csrPage a = 0 then enableChanged a old s else s)
  else if csrOff a = 0x028 then refire base (fun k => bit old.toNat k) s
  else if csrOff a = 0x030 then refire base (fun k => (G_CLASS k).get old < rdF s a (G_CLASS k)) s
  else if a = TIM_SOURCE then timSourceChanged old s
  else if g = grTIM ∧ 1 ≤ u ∧ u ≤ 4 ∧ a = TIM_DOM_ID u then domChanged (u - 1) old s
  else if g = grCRG ∧ a = CRG_SCHED u then rebind u (schedDom s old) s
  else if g = grCRG ∧ a = CRG_PROG_SEL u then
    (if (crgDom s u).isSome then s else
      let s := bankTakesForce u s
      raiseIf (!bankValid s u (bankNow s u)) srcCRG_PROG_INVALID u s)
  else if g = grPRT ∧ a = PRT_GANG u then gangChanged u old s
  else if g = grCXP ∧ (a = CXP_ROLE u ∨ a = CXP_TRAY_T2 u ∨ a = CXP_TRAY_T3 u ∨ a = CXP_HOST_CFG u ∨ a = CXP_LD_PART u) then
    cxlRetrain u s
  else if a = PWR_THERM then thermCheck s
  else if a = PWR_SUPPLY_LIMITS then supplyCheck s
  else s

/-! ### Settling -/

/-- One consequence. -/
def settleDue (d : Due) (s : State) : State :=
  match d with
  | .coll id reason => collFail id reason s
  | .portGone p => collPortGone p s
  | .bobGone b st => collBobGone b st s
  | .regionGone n => collRegionGone n s
  | .changed a old => changedReg a old s
  | .clause c reason => clauseAbort c reason s
  | .deadEnd prg h pay => endRequest (.region prg) prg h pay stTARGET_DEAD true s
  | .qpError q st => qpErr q st (oldestWqe (qpOf s q)) s
  | .write a w => csrWriteNow a w s

/-- Sources take their class action before other consequences follow, each list in order; `fuel` bounds their number. -/
def settleAll : Nat → State → State
  | 0, s => s
  | k + 1, s =>
    match s.fires, s.dues with
    | f :: r, _ => settleAll k (classAction f.src f.unit { s with fires := r })
    | [], d :: r => settleAll k (settleDue d { s with dues := r })
    | [], [] => s

/-- The bound on the consequences of one command. -/
def settleFuel : Nat := 1000000

/-- Accesses of steps that have gone, and whose replies are dropped (R431). -/
def dropGone (s : State) : State :=
  if s.mem.far.isEmpty then s else farDrop (fun w => match w with | .bob b order => !stepLives s b order | _ => false) s

/-- What waited and can go on: segments and requests at units that work again, host reads, plans of steps, the data work of clauses, and
completions of queue pairs (R310). -/
def goOnAll (s : State) : State :=
  let s := groundOn s.ground.cells.length (dropGone s)
  let s := if s.ground.waiting.isEmpty && !s.ground.cells.any (·.hold == .reply) then s else drainWaiting s
  let s := if s.mem.reqs.isEmpty then s else runReqs s
  let s := s.bobs.foldl (fun s e => replan e.1 s) (runHosts s)
  retryAllCqes (s.cls.foldl (fun s e => runWork (e.2.entries.length + 1) e.1 s) s)

/-- A command ends: its consequences, a boot request whose port became ACTIVE, resets that were held, fences and safe state whose
conditions ended, what waited, and turns whose work ran out or blocks (R31). -/
def settle (s : State) : State :=
  let s := settleAll settleFuel s
  let s := settleAll settleFuel (relift (runDeferred (bootAsk s)))
  expireShtTurns (expireTurns (settleAll settleFuel (goOnAll s)))

end Sys2Proof.Machine
end

