-- ==== Sys2Proof/Machine/Arrive.lean ====
section
/-! DEFINITION. How a command begins and ends: a message for a unit of the switch (R273), the names of a reset's scope, and the outcome. -/

namespace Sys2Proof.Machine

/-- A command ends in the state that its consequences leave. -/
def done (s : State) : Host.Outcome State Fault Refusal := .next (settle s)

/-- The transaction type and OP that a row names. -/
def Msg.as (m : Msg) (t : Nat) : Msg := { m with hdr := { m.hdr with type := t } }
def Msg.asOp (m : Msg) (t op : Nat) : Msg := { m with hdr := { m.hdr with type := t, op := op } }

/-- A READ or a WRITE: a reserved TYPE stays, for R272 ends the request (log entry 26). -/
def Msg.asReq (m : Msg) (t : Nat) : Msg := if 13 < m.hdr.type then m else m.as t

/-- An ATOMIC row with several operations: an OP that another row names stands for the first, and a reserved OP stays, for R272
ends the request (log entry 26). -/
def Msg.asOps (m : Msg) (t : Nat) (ops : List Nat) : Msg :=
  m.asOp t (if ops.contains m.hdr.op || atomWidth m.hdr.op == 0 then m.hdr.op else ops.headD 0)

/-- Table LSA-2: whether the TC of a message without a reply is one of its type's: CTRL has TC6, a NOTIFY TC5, or the TC of the write
that failed, and a TILE TC7 or TC0. Another ends the message (R272). -/
def Msg.tcOk (m : Msg) : Bool :=
  if m.hdr.type == tCTRL then m.hdr.tc == 6
  else if m.hdr.type == tNOTIFY then m.hdr.tc == (if m.hdr.op == 2 then 3 else 5)
  else m.hdr.type != tTILE || m.hdr.tc == 7 || m.hdr.tc == 0

/-- R273: a message that was delivered for internal endpoint 0x000: `k` takes it; for another endpoint, or with a TC that its type does
not have, it ends. -/
def atSwitch (prg : Nat) (m : Msg) (k : State → State) (s : State) : State :=
  let from_ := entryPrg s prg m
  let s := takeDelivered s (unitOut prg m.hdr) m
  if m.hdr.dint && m.hdr.dst % 4096 == 0 && m.tcOk then k s else unsupported from_ m s

/-- R89, R272: a SLIP that has come in on a port, whatever its DST names. -/
def slipAt (port : Nat) (m : Msg) (s : State) : State :=
  let s := takeDelivered s (.hub (port / 64)) m
  if m.tcOk then slipIn port m s else unsupported (port / 16) m s

/-- R272, R273, R454: a message for a mailbox: by a NOTIFY (kind 1) for internal endpoint 0x300, which is routed here, or from the board. -/
def mbxAt (kind port : Nat) (m : Msg) (s : State) : State :=
  let s := takeDelivered s (.hub (port / 64)) m
  if kind = 1 ∧ !(m.asOp tNOTIFY 0x10).tcOk then unsupported (port / 16) (m.as tNOTIFY) s else mbxPush kind port m s

/-- R273, R311: a shuttle segment that was delivered for engine `n`. -/
def atEngine (n : Nat) (m : Msg) (k : State → State) (s : State) : State :=
  if m.hdr.dint && m.hdr.dst % 4096 == 0x200 + n && decide (n < 16) && m.hdr.isShuttle then k (takeDelivered s (.sht n) m)
  else unsupported (entryPrg s n m) m (takeDelivered s (unitOut n m.hdr) m)

/-- A CPL or CPL_DATA for this switch (R254, R273), whose requests name internal endpoint 0x000. -/
def replyIn (prg : Nat) (m : Msg) (s : State) : State :=
  if m.hdr.dint && m.hdr.dst % 4096 == 0 then cplIn prg m s
  else unsupported (entryPrg s prg m) m (takeDelivered s (unitOut prg m.hdr) m)

/-- R448: an unscheduled TILE of a boot image. -/
def bootImageTile (prg : Nat) (m : Msg) (s : State) : State :=
  if s.boot.fetching && m.hdr.tc == 0 && tmStream m == 0xFFFFF then bootChunk (16384 * tmTile m) (tmData m) s else unsupported prg m s

/-- Whether a unit of this device sent a message that was delivered to a unit. -/
def sentHere (s : State) (o : Out) (m : Msg) : Bool :=
  match deliveredMsg s o m with
  | some d => d.port.isNone
  | none => m.hdr.sint && m.hdr.src / 4096 == ownId s

/-- R212: a TILE for internal endpoint 0x000. -/
def contribIn (prg : Nat) (m : Msg) (s : State) : State :=
  let (cs, s) := detachDelivered s (.hub (prg / 4)) m
  collTile prg m cs s

/-- R212, R273: a TILE that names internal endpoint 0x000, or ends. -/
def contribAt (prg : Nat) (m : Msg) (s : State) : State :=
  if m.hdr.dint && m.hdr.dst % 4096 == 0 && m.tcOk then contribIn prg m s
  else unsupported (entryPrg s prg m) m (takeDelivered s (unitOut prg m.hdr) m)

/-- R82, R273: a TILE for a unit of the switch: a compute region, a collective, or the loader. -/
def tileIn (prg : Nat) (m : Msg) (s : State) : State :=
  let e := m.hdr.dst % 4096
  let from_ := entryPrg s prg m
  if !m.tcOk then unsupported from_ m (takeDelivered s (unitOut prg m.hdr) m)
  else if groupCopy s m.hdr then groupTile prg e m (takeDelivered s (.hub (prg / 4)) m)
  else if m.hdr.dint ∧ 0x100 ≤ e ∧ e < 0x110 then
    let o := Out.rgn (e - 0x100)
    let (cs, t) := detachDelivered s o m
    regionTile (e - 0x100) m (sentHere s o m) cs t
  else if m.hdr.dint ∧ e = 0 then contribIn prg m s
  else
    let s := takeDelivered s (unitOut prg m.hdr) m
    if m.hdr.dint ∧ e = 0x300 then bootImageTile from_ m s else unsupported from_ m s

/-- The scope that the operands of a row name. -/
def scopeOf (rung g u ctx : Nat) : Scope :=
  match rung with
  | 0 => ⟨.context, g, u, ctx⟩
  | 1 => ⟨.engine, g, u, 0⟩
  | 2 => ⟨.partition, 0, u, 0⟩
  | 3 => ⟨.region, g, u, 0⟩
  | _ => ⟨.chip, 0, 0, 0⟩

/-- What the firmware knows of a lease: the lender, and the lease. -/
def leaseOf (x : Nat × Nat × Nat × Nat × Nat × Nat) : Nat × Lease :=
  (x.1, { id := x.2.1, base := x.2.2.1, gib := x.2.2.2.1, borrower := x.2.2.2.2.1, part := x.2.2.2.2.2, recallEnd := none })

/-- Words of a region's tile SRAM, behind which this model numbers those of its accumulator array: 32 sets of 16,384 accumulators of 320
bits (R213; log entry 101). -/
def sramWords : Nat := sramSize / 8
def accSetWords : Nat := 16384 * 5

/-- R223: an uncorrectable error in the accumulators: the collective whose set has it aborts. -/
def accUpset (n k : Nat) (s : State) : State :=
  match (s.sets.filter (·.rgn == n))[k]? with
  | some x => raise srcCRG_ACC_UE n (collFail x.coll 0x04 s)
  | none => s

/-- R128: a double-bit error leaves an SRAM word bad until it is written. -/
def sramBreak (n word : Nat) (s : State) : State :=
  let k := sramWords * n + word
  if sramWords ≤ word then accUpset n ((word - sramWords) / accSetWords) s
  else if s.sramBad.contains k then s
  else { s with sramBad := s.sramBad ++ [k] }

/-- R128: errors in an SRAM word: a single-bit error is corrected, written back and counted; where the region finds a double-bit error while
no step reads the word, it raises SRAM_UE_IDLE. -/
def sramUpset (n : Nat) (e : SramError) (s : State) : State :=
  match e with
  | .single word => if sramWords ≤ word || s.sramBad.contains (sramWords * n + word) then s else bump s (CRG_SRAM_CE n)
  | .double word => if sramWords ≤ word then sramBreak n word s else raise srcCRG_SRAM_UE_IDLE n (sramBreak n word s)
  | .hidden word => sramBreak n word s

end Sys2Proof.Machine
end

