-- ==== Sys2Proof/Machine/Clauses.lean ====
section
/-! DEFINITION. Clauses (chapter 2). -/

namespace Sys2Proof.Machine

/-- CLS_ALLOC (R49): a read of CLS_ALLOC. -/
def execClsAlloc (s : State) : Host.Outcome State Fault Refusal := done (clsAlloc s)

/-- CLS_STAGE_DATA (R50): a write of CLS_STAGE_DATA of slot `c`. -/
def execClsStageData (c : Nat) (w : Word) (s : State) : Host.Outcome State Fault Refusal := done (stageData c w s)

/-- CLS_SEAL (R52): CMD = SEAL. -/
def execClsSeal (c : Nat) (s : State) : Host.Outcome State Fault Refusal := done (clsSeal c s)

/-- CLS_CLOSE (R53): CMD = CLOSE, with what the firmware knows of other devices: leases (lender, ID, base, GiB, borrower,
partition), first PSNs by queue pair, and local digests by switch. -/
def execClsClose (c : Nat) (stores : List (Nat × Byte)) (leases : List (Nat × Nat × Nat × Nat × Nat × Nat)) (psns : List (Nat × Nat))
    (digests : List (Nat × Bytes)) (s : State) : Host.Outcome State Fault Refusal :=
  done (clsClose c stores (leases.map leaseOf) psns digests s)

/-- CLS_ABORT (R61): CMD = ABORT. -/
def execClsAbort (c : Nat) (s : State) : Host.Outcome State Fault Refusal := done (clsAbortCmd c s)

/-- CLS_RELEASE (R48): CMD = RELEASE. -/
def execClsRelease (c : Nat) (s : State) : Host.Outcome State Fault Refusal := done (clsRelease c s)

/-- CLAUSE_ARMED (R54): validation and its data work are over. -/
def execClauseArmed (c : Nat) (s : State) : Host.Outcome State Fault Refusal := done (clauseArmed c s)

/-- GUARD_INTERVAL (R58): 1 µs before the commit instant. -/
def execGuardInterval (c : Nat) (s : State) : Host.Outcome State Fault Refusal := done (guardInterval c s)

/-- CLAUSE_COMMIT (R57): the commit instant. -/
def execClauseCommit (c : Nat) (s : State) : Host.Outcome State Fault Refusal := done (clauseCommit c s)

/-- CLAUSE_TIMEOUT (R60): 10 s after the open time. -/
def execClauseTimeout (c : Nat) (s : State) : Host.Outcome State Fault Refusal := done (clauseTimeout c s)

/-- CLAUSE_IN_DOUBT (R66): 10 s after the open time of a PREPARED participant. -/
def execClauseInDoubt (c : Nat) (s : State) : Host.Outcome State Fault Refusal := done (inDoubt c s)

/-- COORD_VOTE_TIMEOUT (R64): 10 s after the open time of a coordinator. -/
def execCoordVoteTimeout (c : Nat) (s : State) : Host.Outcome State Fault Refusal := done (coordTimeout c s)

/-- PREPARE (R64): a PREPARE arrives, having entered by port region `prg`. -/
def execPrepare (prg : Nat) (m : Msg) (s : State) : Host.Outcome State Fault Refusal :=
  done (atSwitch prg (m.as tCTRL) (prepareIn m) s)

/-- VOTE (R64): a VOTE arrives. -/
def execVote (prg : Nat) (m : Msg) (s : State) : Host.Outcome State Fault Refusal :=
  done (atSwitch prg (m.as tCTRL) (voteIn m) s)

/-- DECISION (R66): a DECISION arrives. -/
def execDecision (prg : Nat) (m : Msg) (s : State) : Host.Outcome State Fault Refusal :=
  done (atSwitch prg (m.as tCTRL) (decisionIn m) s)

/-- DECISION_ACK (R65): a DECISION_ACK arrives. -/
def execDecisionAck (prg : Nat) (m : Msg) (s : State) : Host.Outcome State Fault Refusal :=
  done (atSwitch prg (m.as tCTRL) (decisionAckIn m) s)

/-- OUTCOME_QUERY_TIMER (R65): 100 µs after the vote or the last query. -/
def execOutcomeQueryTimer (c : Nat) (s : State) : Host.Outcome State Fault Refusal := done (outcomeTimer c s)

/-- OUTCOME_QUERY (R65): an OUTCOME_QUERY arrives. -/
def execOutcomeQuery (prg : Nat) (m : Msg) (s : State) : Host.Outcome State Fault Refusal :=
  done (atSwitch prg (m.as tCTRL) (outcomeQueryIn m) s)

/-- OUTCOME_ANSWER (R65): an OUTCOME_ANSWER arrives. -/
def execOutcomeAnswer (prg : Nat) (m : Msg) (s : State) : Host.Outcome State Fault Refusal :=
  done (atSwitch prg (m.as tCTRL) (outcomeAnswerIn m) s)

end Sys2Proof.Machine
end

