-- ==== Sys2Proof/Machine/Collectives.lean ====
section
/-! DEFINITION. Collectives and the windows of the conjunction units (chapter 8). -/

namespace Sys2Proof.Machine

/-- COLL_CONTRIBUTION (R213): a contribution or partial arrives. -/
def execCollContribution (prg : Nat) (m : Msg) (s : State) : Host.Outcome State Fault Refusal :=
  done (contribAt prg (m.as tTILE) s)

/-- COLL_SET_OPEN (R213): waiting contribution `i` tries again. -/
def execCollSetOpen (i : Nat) (s : State) : Host.Outcome State Fault Refusal := done (collSetOpen i s)

/-- COLL_TIMEOUT (R217): TIMEOUT_US has passed for the set of tile `t`. -/
def execCollTimeout (id : Nat) (t : Nat) (s : State) : Host.Outcome State Fault Refusal := done (collTimeout id t s)

/-- ABORT (R224): an ABORT arrives. -/
def execAbort (prg : Nat) (m : Msg) (s : State) : Host.Outcome State Fault Refusal :=
  done (atSwitch prg (m.as tCTRL) (abortIn m) s)

/-- CMB_BUF_EXPIRE (R233): READ_WINDOW has passed for a buffer of unit `n`. -/
def execCmbBufExpire (n : Nat) (addr : Nat) (len : Nat) (s : State) : Host.Outcome State Fault Refusal :=
  done (bufExpire n addr len s)

/-- REPLY_CACHE_EXPIRE (R285): HOLD has passed for a completed entry. -/
def execReplyCacheExpire (n : Nat) (src : Nat) (sint : Bool) (gen : Nat) (id : Nat)
    (s : State) : Host.Outcome State Fault Refusal :=
  done (replyExpire n src sint gen id s)

end Sys2Proof.Machine
end

