-- ==== Sys2Proof/Machine/Control.lean ====
section
/-! DEFINITION. Partitions, attestation, debug, faults, boot and mailboxes (chapters 14 to 16). -/

namespace Sys2Proof.Machine

/-- PART_RETIRE_FREE (R410): the retirement of partition `p` ends. -/
def execPartRetireFree (p : Nat) (s : State) : Host.Outcome State Fault Refusal := done (retireFree p s)

/-- CONSENT_EXPIRE (R414): device time passes NOT_AFTER. -/
def execConsentExpire (p : Nat) (s : State) : Host.Outcome State Fault Refusal := done (consentExpire p s)

/-- ATTEST_GO (R415): SEC_ATTEST_CTL.GO = 1. -/
def execAttestGo (stores : List (Nat × Byte)) (s : State) : Host.Outcome State Fault Refusal :=
  done (csrWrite SEC_ATTEST_CTL 8 (SEC_ATTEST_CTL_GO.set 0 1) (fwStores s stores))

/-- ATTEST_DONE (R416): the report ends; `stored`: the state-store die took the index. -/
def execAttestDone (stored : Bool) (s : State) : Host.Outcome State Fault Refusal := done (attestDone stored s)

/-- TAP_ACCESS (R412): 0 IDCODE or BYPASS, 1 boundary scan, 2 a CSR read, 3 a CSR write. -/
def execTapAccess (op : Nat) (a : Nat) (size : Nat) (w : Word) (s : State) : Host.Outcome State Fault Refusal :=
  done (tapAccess op a size w s)

/-- HANG_WINDOW (R424): a window ends in which G_PROGRESS did not change. -/
def execHangWindow (g : Nat) (u : Nat) (s : State) : Host.Outcome State Fault Refusal := done (hangWindow g u s)

/-- UCIE_MODULE_DOWN (R17): module `m` of a link of a hub fails. -/
def execUcieModuleDown (hub : Nat) (link : Nat) (m : Nat) (s : State) : Host.Outcome State Fault Refusal :=
  done (ucieFails hub link m s)

/-- TEST_DONE (R433): a test ends. -/
def execTestDone (kind : Nat) (flt : Nat) (pass : Bool) (fails : Nat) (s : State) : Host.Outcome State Fault Refusal :=
  done (testDone kind flt pass fails s)

/-- DUMP_GO (R437): a write of FLT_DUMP_CTL with GO = 1. -/
def execDumpGo (w : Word) (s : State) : Host.Outcome State Fault Refusal :=
  done (csrWrite FLT_DUMP_CTL 8 (FLT_DUMP_CTL_GO.set w 1) s)

/-- DUMP_READ_TIMEOUT (R437): a read of the page at `base` takes 1 ms, after `words` words. -/
def execDumpReadTimeout (base : Nat) (words : Nat) (s : State) : Host.Outcome State Fault Refusal :=
  done (dumpTimeout base words s)

/-- DUMP_DONE (R438): the dump ends. -/
def execDumpDone (s : State) : Host.Outcome State Fault Refusal := done (dumpDone s)

/-- POWER_ON (R467): the first release of RESET_N, with the rail voltages. -/
def execPowerOn (rails : List Nat) (s : State) : Host.Outcome State Fault Refusal := done (powerOn rails s)

/-- RESET_N_ASSERT (R467): RESET_N is asserted for `ns` ns. -/
def execResetNAssert (ns : Nat) (s : State) : Host.Outcome State Fault Refusal :=
  if ns < 100 then done s
  else if ns < 1000 then .fault .resetPulseUnspecified
  else done (resetPin s)

/-- BOOT_SOURCE_TIMEOUT (R448): 500 ms without a chunk. -/
def execBootSourceTimeout (s : State) : Host.Outcome State Fault Refusal := done (bootTimeout s)

/-- BOOT_CHUNK (R448): image bytes from byte `off` arrive. -/
def execBootChunk (off : Nat) (d : Bytes) (s : State) : Host.Outcome State Fault Refusal := done (bootChunk off d s)

/-- BOOT_NONE (R448): BOOT_NONE from a source. -/
def execBootNone (hlk : Bool) (s : State) : Host.Outcome State Fault Refusal := done (bootNone hlk s)

/-- IMAGE_VERIFIED (R447): the checks of the image end; `ready`: the firmware reports READY. -/
def execImageVerified (ready : Bool) (s : State) : Host.Outcome State Fault Refusal := done (imageVerified ready s)

/-- CHP_RESTART (R449): CHP_RESTART.GO = 1. -/
def execChpRestart (s : State) : Host.Outcome State Fault Refusal := done (csrWrite CHP_RESTART 8 (CHP_RESTART_GO.set 0 1) s)

/-- WDOG_KICK (R449): a write of CHP_WDOG with KICK = 1. -/
def execWdogKick (w : Word) (s : State) : Host.Outcome State Fault Refusal :=
  done (csrWrite CHP_WDOG 8 (CHP_WDOG_KICK.set w 1) s)

/-- FW_WATCHDOG (R449): the watchdog period has passed. -/
def execFwWatchdog (s : State) : Host.Outcome State Fault Refusal := done (fwWatchdog s)

/-- MBX_PUSH (R454): a message for a mailbox: kind 1 HLK, 3 the management port, 4 the board controller. -/
def execMbxPush (kind : Nat) (port : Nat) (m : Msg) (s : State) : Host.Outcome State Fault Refusal :=
  done (mbxAt kind port m s)

/-- MBX_IN_POP (R454): a read of MBX_IN_POP of mailbox `m`. -/
def execMbxInPop (m : Nat) (s : State) : Host.Outcome State Fault Refusal := done (csrRead (MBX_IN_POP m) 8 s)

/-- MBX_OUT_PUSH (R456): a write of MBX_OUT_PUSH. -/
def execMbxOutPush (m : Nat) (w : Word) (s : State) : Host.Outcome State Fault Refusal := done (csrWrite (MBX_OUT_PUSH m) 8 w s)

/-- MBX_DOORBELL_CLEAR (R455): a W1C write, with the bits that are set at the same time. -/
def execMbxDoorbellClear (full : Bool) (w : Word) (sets : Word) (s : State) : Host.Outcome State Fault Refusal :=
  done (doorbellClear full w sets s)

/-- I3C_ENTDAA (R460): the dynamic address is assigned. -/
def execI3cEntdaa (s : State) : Host.Outcome State Fault Refusal := done (i3cAddress s)

end Sys2Proof.Machine
end

