-- ==== Sys2Proof/Machine/Hosts.lean ====
section
/-! DEFINITION. CXL ports (chapter 12). -/

namespace Sys2Proof.Machine

/-- TRAY_LINK_UP (R352): the link of CXL port `c` comes up, with the tray capacity in units of 256 MiB. -/
def execTrayLinkUp (c : Nat) (capacity : Nat) (width : Nat) (speed : Nat) (s : State) : Host.Outcome State Fault Refusal :=
  done (trayLinkUp c capacity width speed s)

/-- TRAY_RESPONSE (R353): a response: `kind` 0 data or completion, 1 poison or a media error. -/
def execTrayResponse (c : Nat) (tag : Nat) (kind : Nat) (raw : Bytes) (s : State) : Host.Outcome State Fault Refusal :=
  done (trayResponse c tag kind raw s)

/-- CXP_LINK_DOWN (R354): 0 the link goes down, 1 an uncorrectable and 2 a correctable error. -/
def execCxpLinkDown (c : Nat) (kind : Nat) (s : State) : Host.Outcome State Fault Refusal := done (cxpLinkDown c kind s)

/-- HOST_MEMRD (R357): a MemRd of logical device `ld`. -/
def execHostMemrd (c : Nat) (ld : Nat) (dpa : Nat) (_ext : Unit)
    (s : State) : Host.Outcome State Fault Refusal :=
  done (hostRead c ld dpa s)

/-- HOST_WRITE (R358): a MemWr. -/
def execHostWrite (c : Nat) (s : State) : Host.Outcome State Fault Refusal := done (hostWrite c s)

/-- IDENTIFY_MEMORY_DEVICE (R359): the mailbox command of logical device `ld`. -/
def execIdentifyMemoryDevice (c : Nat) (ld : Nat) (s : State) : Host.Outcome State Fault Refusal :=
  done (ldAnswer c ld 0 [ldCapacity s c / 2 ^ 28] s)

/-- GET_PARTITION_INFO (R359): the mailbox command. -/
def execGetPartitionInfo (c : Nat) (ld : Nat) (s : State) : Host.Outcome State Fault Refusal :=
  done (ldAnswer c ld 0 [ldCapacity s c / 2 ^ 28, 0] s)

/-- GET_HEALTH_INFO (R359): the mailbox command. -/
def execGetHealthInfo (c : Nat) (ld : Nat) (s : State) : Host.Outcome State Fault Refusal :=
  done (ldAnswer c ld 0 [s.flt.safe.toNat] s)

/-- GET_SUPPORTED_LOGS (R359): the mailbox command. -/
def execGetSupportedLogs (c : Nat) (ld : Nat) (s : State) : Host.Outcome State Fault Refusal :=
  done (ldAnswer c ld 0 [1, 4 * ldOpcodes.length] s)

/-- GET_LOG (R359): the mailbox command. -/
def execGetLog (c : Nat) (ld : Nat) (s : State) : Host.Outcome State Fault Refusal := done (ldAnswer c ld 0 ldOpcodes s)

/-- GET_EVENT_RECORDS (R359): the mailbox command. -/
def execGetEventRecords (c : Nat) (ld : Nat) (s : State) : Host.Outcome State Fault Refusal := done (ldAnswer c ld 0 [0] s)

/-- CLEAR_EVENT_RECORDS (R359): the mailbox command. -/
def execClearEventRecords (c : Nat) (ld : Nat) (s : State) : Host.Outcome State Fault Refusal := done (ldAnswer c ld 0 [] s)

/-- CXL_MBX_UNSUPPORTED (R359): any other mailbox command. -/
def execCxlMbxUnsupported (c : Nat) (ld : Nat) (s : State) : Host.Outcome State Fault Refusal := done (ldAnswer c ld 0x15 [] s)

/-- IN_PUSH (R457): a host writes IN_PUSH. -/
def execInPush (c : Nat) (ld : Nat) (len : Nat) (tag : Nat) (ws : List Word) (s : State) : Host.Outcome State Fault Refusal :=
  done (inPush c ld len tag ws s)

/-- OUT_POP (R457): a host writes OUT_POP. -/
def execOutPop (c : Nat) (ld : Nat) (s : State) : Host.Outcome State Fault Refusal := done (cxlOutPop c ld s)

end Sys2Proof.Machine
end

