-- ==== Sys2Proof/Machine/Ports.lean ====
section
/-! DEFINITION. HLK links (chapter 12). -/

namespace Sys2Proof.Machine

/-- FLIT_SLOT_TX (R332): a flit slot of a port. -/
def execFlitSlotTx (port : Nat) (s : State) : Host.Outcome State Fault Refusal := done (flitSlot port s)

/-- FLIT_DATA (R334): a DATA flit arrives. -/
def execFlitData (port : Nat) (f : Bytes) (corr : Nat) (uncorr : Option Nat) (s : State) : Host.Outcome State Fault Refusal :=
  done (rxFlit port corr uncorr (rxData port f) s)

/-- IDLE (R333): an IDLE flit arrives. -/
def execIdle (port : Nat) (f : Bytes) (corr : Nat) (uncorr : Option Nat) (s : State) : Host.Outcome State Fault Refusal :=
  done (rxFlit port corr uncorr (rxOther port kIDLE f fun _ s => s) s)

/-- RETRY_REQ (R335): a RETRY_REQ flit arrives. -/
def execRetryReq (port : Nat) (f : Bytes) (corr : Nat) (uncorr : Option Nat) (s : State) : Host.Outcome State Fault Refusal :=
  done (rxFlit port corr uncorr (rxOther port kRETRY_REQ f fun t s => rxRetryReq port t.lack s) s)

/-- TRAIN (R342): a TRAIN flit arrives. -/
def execTrain (port : Nat) (f : Bytes) (corr : Nat) (uncorr : Option Nat) (s : State) : Host.Outcome State Fault Refusal :=
  done (rxFlit port corr uncorr (rxTrain port f) s)

/-- TRAIN_TX (R340): 1 µs has passed in a training state. -/
def execTrainTx (port : Nat) (s : State) : Host.Outcome State Fault Refusal := done (trainTx port s)

/-- GANG_CUT (R349): a CONTROL flit with OP 1 arrives. -/
def execGangCut (port : Nat) (f : Bytes) (corr : Nat) (uncorr : Option Nat) (s : State) : Host.Outcome State Fault Refusal :=
  done (rxFlit port corr uncorr (rxControl port 1 f) s)

/-- RETRAIN_REQ (R340): a CONTROL flit with OP 2 arrives. -/
def execRetrainReq (port : Nat) (f : Bytes) (corr : Nat) (uncorr : Option Nat) (s : State) : Host.Outcome State Fault Refusal :=
  done (rxFlit port corr uncorr (rxControl port 2 f) s)

/-- FAULT_IDLE (R340): a FAULT_IDLE flit arrives. -/
def execFaultIdle (port : Nat) (f : Bytes) (corr : Nat) (uncorr : Option Nat) (s : State) : Host.Outcome State Fault Refusal :=
  done (rxFlit port corr uncorr (rxFault port f) s)

/-- FLIT_RESERVED_KIND (R330): a flit of KIND 7 arrives. -/
def execFlitReservedKind (port : Nat) (corr : Nat) (uncorr : Option Nat) (s : State) : Host.Outcome State Fault Refusal :=
  done (rxFlit port corr uncorr (fun s => bump s (PRT_CRC_FAIL port)) s)

/-- REPLAY_TIMEOUT (R335): REPLAY_TIMEOUT has passed. -/
def execReplayTimeout (port : Nat) (s : State) : Host.Outcome State Fault Refusal := done (replayTimeout port s)

/-- LINK_DETECT (R340): signal on all four lanes. -/
def execLinkDetect (port : Nat) (s : State) : Host.Outcome State Fault Refusal := done (linkDetect port s)

/-- EQUALIZE_DONE (R340): equalisation is complete. -/
def execEqualizeDone (port : Nat) (s : State) : Host.Outcome State Fault Refusal := done (equalizeDone port s)

/-- ALIGN_LOCK (R340): alignment-marker and codeword lock. -/
def execAlignLock (port : Nat) (s : State) : Host.Outcome State Fault Refusal := done (alignLock port s)

/-- LINK_TRAIN_TIMEOUT (R340): the limit of a training state. -/
def execLinkTrainTimeout (port : Nat) (s : State) : Host.Outcome State Fault Refusal := done (trainTimeout port s)

/-- LOCK_LOST (R340): codeword lock is lost. -/
def execLockLost (port : Nat) (s : State) : Host.Outcome State Fault Refusal := done (lockLost port s)

/-- AUTO_RETRY (R340): AUTO_RETRY ms have passed in DOWN. -/
def execAutoRetry (port : Nat) (s : State) : Host.Outcome State Fault Refusal := done (autoRetry port s)

end Sys2Proof.Machine
end

