-- ==== Sys2Proof/Machine/Programs.lean ====
section
/-! DEFINITION. Stream programs and bobbins (chapter 4). -/

namespace Sys2Proof.Machine

/-- PROG_LOAD (R107): a write of CRG_PROG_LOAD. -/
def execProgLoad (stores : List (Nat × Byte)) (n : Nat) (w : Word) (s : State) : Host.Outcome State Fault Refusal :=
  done (csrWrite (CRG_PROG_LOAD n) 8 w (fwStores s stores))

/-- PROG_LOAD_DONE (R107): the copy ends; `bad`: a read error was met. -/
def execProgLoadDone (n : Nat) (bad : Bool) (s : State) : Host.Outcome State Fault Refusal := done (progLoaded n bad s)

/-- NOP (R108): bobbin `b` (its global index) meets a NOP descriptor. -/
def execNopDesc (b : Nat) (s : State) : Host.Outcome State Fault Refusal :=
  done (bobExec b 0x00 (fun s => setCursor b (bobCursor s b + 1) s) s)

/-- STEP (R122): a STEP descriptor. -/
def execStepDesc (b : Nat) (s : State) : Host.Outcome State Fault Refusal := done (bobExec b 0x01 (tryIssue b) s)

/-- LOOP (R111): a LOOP descriptor. -/
def execLoopDesc (b : Nat) (s : State) : Host.Outcome State Fault Refusal := done (bobExec b 0x02 (bobLoop b) s)

/-- NEXT (R111): a NEXT descriptor. -/
def execNextDesc (b : Nat) (s : State) : Host.Outcome State Fault Refusal := done (bobExec b 0x03 (bobNext b) s)

/-- WAIT_ROUND (R123): a WAIT_ROUND descriptor. -/
def execWaitRoundDesc (b : Nat) (s : State) : Host.Outcome State Fault Refusal := done (bobExec b 0x04 (bobWait b) s)

/-- END (R123): an END descriptor. -/
def execEndDesc (b : Nat) (s : State) : Host.Outcome State Fault Refusal := done (bobExec b 0x05 (bobEnd b) s)

/-- READ_DATA_ARRIVE (R123): read data for a bobbin arrives. -/
def execReadDataArrive (b : Nat) (s : State) : Host.Outcome State Fault Refusal := done (readArrives b s)

/-- BOB_ARM (R123): BOB_CTL.CMD = ARM. -/
def execBobArm (b : Nat) (s : State) : Host.Outcome State Fault Refusal := done (csrWrite (BOB_CTL b) 8 1 s)

/-- BOB_START (R123): BOB_CTL.CMD = START. -/
def execBobStart (b : Nat) (s : State) : Host.Outcome State Fault Refusal := done (csrWrite (BOB_CTL b) 8 2 s)

/-- BOB_STOP (R123): BOB_CTL.CMD = STOP. -/
def execBobStop (b : Nat) (s : State) : Host.Outcome State Fault Refusal := done (csrWrite (BOB_CTL b) 8 3 s)

/-- BOB_RELEASE (R123): BOB_CTL.CMD = RELEASE. -/
def execBobRelease (b : Nat) (s : State) : Host.Outcome State Fault Refusal := done (csrWrite (BOB_CTL b) 8 4 s)

end Sys2Proof.Machine
end

