-- ==== Sys2Proof/Machine/Queues.lean ====
section
/-! DEFINITION. Shuttle queue pairs (chapter 11). -/

namespace Sys2Proof.Machine

/-- DOORBELL (R308): a DOORBELL segment arrives at engine `n`. -/
def execDoorbell (n : Nat) (m : Msg) (_ext : Unit) (s : State) : Host.Outcome State Fault Refusal :=
  done (atEngine n m (doorbell m) s)

/-- SQ_READ_DONE (R309): the read of send entries of queue pair `q` returns. -/
def execSqReadDone (q : Nat) (_ext : Unit) (s : State) : Host.Outcome State Fault Refusal :=
  done (sqReadDone q s)

/-- WQE_SEND (R309): the next request of queue pair `q`, a SEND, starts. -/
def execWqeSend (q : Nat) (s : State) : Host.Outcome State Fault Refusal := done (wqeStart q 1 s)

/-- WQE_WRITE (R309): the next request of queue pair `q`, a WRITE, starts. -/
def execWqeWrite (q : Nat) (s : State) : Host.Outcome State Fault Refusal := done (wqeStart q 2 s)

/-- WQE_READ (R309): the next request of queue pair `q`, a READ, starts. -/
def execWqeRead (q : Nat) (s : State) : Host.Outcome State Fault Refusal := done (wqeStart q 3 s)

/-- WQE_FLUSH (R317): the next request of queue pair `q`, a FLUSH, starts. -/
def execWqeFlush (q : Nat) (s : State) : Host.Outcome State Fault Refusal := done (wqeStart q 4 s)

/-- SHUTTLE_SEGMENT_TX (R312): engine `n` sends a segment. -/
def execShuttleSegmentTx (n : Nat) (_ext : Unit) (s : State) : Host.Outcome State Fault Refusal :=
  done (segmentTx n s)

/-- SHT_SEND (R324): the segment arrives at engine `n`. -/
def execShtSend (n : Nat) (m : Msg) (_ext : Unit) (s : State) : Host.Outcome State Fault Refusal :=
  done (if sendWaits n m s then (recvEntry s (shtQp m)).2.2.askAll s else atEngine n m (shtSendIn m) s)

/-- SHT_WRITE (R324): the segment arrives at engine `n`. -/
def execShtWrite (n : Nat) (m : Msg) (_ext : Unit) (s : State) : Host.Outcome State Fault Refusal :=
  done (atEngine n m (shtWriteIn m) s)

/-- READ_REQ (R313): the segment arrives at engine `n`. -/
def execReadReq (n : Nat) (m : Msg) (_ext : Unit) (s : State) : Host.Outcome State Fault Refusal :=
  done (atEngine n m (readReqIn m) s)

/-- READ_RESP (R315): the segment arrives at engine `n`. -/
def execReadResp (n : Nat) (m : Msg) (s : State) : Host.Outcome State Fault Refusal := done (atEngine n m (readRespIn m) s)

/-- SHT_FLUSH (R317): the segment arrives at engine `n`. -/
def execShtFlush (n : Nat) (m : Msg) (_ext : Unit) (s : State) : Host.Outcome State Fault Refusal :=
  done (atEngine n m (flushIn m) s)

/-- ACK (R319): the segment arrives at engine `n`. -/
def execAck (n : Nat) (m : Msg) (_ext : Unit) (s : State) : Host.Outcome State Fault Refusal :=
  done (atEngine n m (ackIn m) s)

/-- NAK (R321): the segment arrives at engine `n`. -/
def execNak (n : Nat) (m : Msg) (_ext : Unit) (s : State) : Host.Outcome State Fault Refusal :=
  done (atEngine n m (nakIn m) s)

/-- ACK_DELAY_EXPIRE (R313): ACK_DELAY has passed. -/
def execAckDelayExpire (q : Nat) (s : State) : Host.Outcome State Fault Refusal := done (ackDelay q s)

/-- SHT_RETRY_TIMER (R321): the retry timer of queue pair `q` expires. -/
def execShtRetryTimer (q : Nat) (_ext : Unit) (s : State) : Host.Outcome State Fault Refusal :=
  done (shtExpiry q s)

/-- PLACEMENT_DONE (R316): the placement of a segment ends. -/
def execPlacementDone (q : Nat) (psn : Nat) (_ext : Unit) (s : State) : Host.Outcome State Fault Refusal :=
  done (placementDone q psn s)

/-- REVOKE_DONE (R325): the placements of registration `i` have drained. -/
def execRevokeDone (i : Nat) (s : State) : Host.Outcome State Fault Refusal := done (revokeDone i s)

/-- REVOKE_LATE (R325): DRAIN has passed since the revoke. -/
def execRevokeLate (i : Nat) (_ext : Unit) (s : State) : Host.Outcome State Fault Refusal :=
  done (revokeLate i s)

end Sys2Proof.Machine
end

