-- ==== Sys2Proof/Machine/Registers.lean ====
section
/-! DEFINITION. Direct accesses to registers, and the reset ladder (chapters 2, 3 and 15). -/

namespace Sys2Proof.Machine

/-- CSR_WRITE (R44): a direct write of `size` bytes at CSR address `a`. -/
def execCsrWrite (stores : List (Nat × Byte)) (a : Nat) (size : Nat) (w : Word) (s : State) : Host.Outcome State Fault Refusal :=
  done (csrWrite a size w (fwStores s stores))

/-- TIM_NOW_READ (R68): a read of TIM_NOW. -/
def execTimNowRead (s : State) : Host.Outcome State Fault Refusal := done (timNowRead s)

/-- TIM_SET (R70): a write of TIM_SET. -/
def execTimSet (w : Word) (s : State) : Host.Outcome State Fault Refusal := done (csrWrite TIM_SET 8 w s)

/-- ERR_STICKY_CLEAR (R418): a write of G_ERR_STICKY on page `p` of unit `u` of group `g`. -/
def execErrStickyClear (g : Nat) (u : Nat) (p : Nat) (w : Word) (s : State) : Host.Outcome State Fault Refusal :=
  done (csrWrite (G_ERR_STICKY g u p) 8 w s)

/-- ERR_INJECT (R43): a write of G_ERR_INJECT. -/
def execErrInject (g : Nat) (u : Nat) (p : Nat) (w : Word) (s : State) : Host.Outcome State Fault Refusal :=
  done (csrWrite (G_ERR_INJECT g u p) 8 w s)

/-- CONTEXT_RESET (R126): a write of G_RESET_CTL with REQ = 1. -/
def execContextReset (g : Nat) (u : Nat) (p : Nat) (ctx : Nat) (s : State) : Host.Outcome State Fault Refusal :=
  done (csrWrite (G_RESET_CTL g u p) 8 (G_RESET_CTL_CONTEXT.set (G_RESET_CTL_REQ.set 0 1) ctx) s)

/-- ENGINE_RESET (R430): a write of G_RESET_CTL with REQ = 2. -/
def execEngineReset (g : Nat) (u : Nat) (p : Nat) (s : State) : Host.Outcome State Fault Refusal :=
  done (csrWrite (G_RESET_CTL g u p) 8 (G_RESET_CTL_REQ.set 0 2) s)

/-- RESET_DONE (R426): the reset of a scope completes: rung 0 context, 1 engine, 2 partition, 3 region, 4 chip. -/
def execResetDone (rung : Nat) (g : Nat) (u : Nat) (ctx : Nat) (s : State) : Host.Outcome State Fault Refusal :=
  done (resetDone (scopeOf rung g u ctx) s)

/-- RESET_ESCALATED (R426): the window of a reset ends. -/
def execResetEscalated (rung : Nat) (g : Nat) (u : Nat) (ctx : Nat) (s : State) : Host.Outcome State Fault Refusal :=
  done (resetEscalated (scopeOf rung g u ctx) s)

end Sys2Proof.Machine
end

