-- ==== Sys2Proof/Machine/Requests.lean ====
section
/-! DEFINITION. Loads, stores, atomics and coherence (chapter 10). -/

namespace Sys2Proof.Machine

/-- READ (R277): an uncached READ arrives through port region `prg`. -/
def execRead (prg : Nat) (m : Msg) (s : State) : Host.Outcome State Fault Refusal := done (fabricReq prg (m.asReq tREAD) s)

/-- RD_SHARED (R290): a READ with OP 1 arrives. -/
def execRdShared (prg : Nat) (m : Msg) (s : State) : Host.Outcome State Fault Refusal := done (fabricReq prg (m.asOp tREAD 1) s)

/-- RD_UNIQUE (R290): a READ with OP 2 arrives. -/
def execRdUnique (prg : Nat) (m : Msg) (s : State) : Host.Outcome State Fault Refusal := done (fabricReq prg (m.asOp tREAD 2) s)

/-- UPGRADE (R290): a READ with OP 3 arrives. -/
def execUpgrade (prg : Nat) (m : Msg) (s : State) : Host.Outcome State Fault Refusal := done (fabricReq prg (m.asOp tREAD 3) s)

/-- WRITE (R279): a posted WRITE arrives. -/
def execWrite (prg : Nat) (m : Msg) (s : State) : Host.Outcome State Fault Refusal := done (fabricReq prg (m.asReq tWRITE) s)

/-- WRITE_ACK (R277): an acknowledged write arrives. -/
def execWriteAck (prg : Nat) (m : Msg) (s : State) : Host.Outcome State Fault Refusal :=
  done (fabricReq prg (m.as tWRITE_ACK) s)

/-- FENCE (R280): a FENCE arrives. -/
def execFence (prg : Nat) (m : Msg) (s : State) : Host.Outcome State Fault Refusal := done (fenceIn prg (m.as tFENCE) s)

/-- ATOMIC_ADD (R283): an ADD arrives. -/
def execAtomicAdd (prg : Nat) (m : Msg) (s : State) : Host.Outcome State Fault Refusal :=
  done (fabricReq prg (m.asOps tATOMIC [0x01, 0x02]) s)

/-- EXACT_ADD (R284): an EXACT_ADD arrives. -/
def execExactAdd (prg : Nat) (m : Msg) (s : State) : Host.Outcome State Fault Refusal :=
  done (fabricReq prg (m.asOp tATOMIC 0x03) s)

/-- ATOMIC_MIN (R283): a MIN arrives. -/
def execAtomicMin (prg : Nat) (m : Msg) (s : State) : Host.Outcome State Fault Refusal :=
  done (fabricReq prg (m.asOps tATOMIC [0x10, 0x11, 0x12, 0x13, 0x14]) s)

/-- ATOMIC_MAX (R283): a MAX arrives. -/
def execAtomicMax (prg : Nat) (m : Msg) (s : State) : Host.Outcome State Fault Refusal :=
  done (fabricReq prg (m.asOps tATOMIC [0x18, 0x19, 0x1A, 0x1B, 0x1C]) s)

/-- ATOMIC_CAS (R283): a CAS arrives. -/
def execAtomicCas (prg : Nat) (m : Msg) (s : State) : Host.Outcome State Fault Refusal :=
  done (fabricReq prg (m.asOps tATOMIC [0x20, 0x21, 0x22]) s)

/-- ATOMIC_BATCH_PASS (R234): the operation on an address returns at unit `n`. -/
def execAtomicBatchPass (n : Nat) (addr : Nat) (s : State) : Host.Outcome State Fault Refusal :=
  done (runReqs (returnOp n addr s))

/-- SNP_RSP (R292): a snoop response arrives. -/
def execSnpRsp (prg : Nat) (m : Msg) (s : State) : Host.Outcome State Fault Refusal := done (dirIn prg (m.as tSNP_RSP) s)

/-- WB (R290): a WB arrives. -/
def execWb (prg : Nat) (m : Msg) (s : State) : Host.Outcome State Fault Refusal := done (dirIn prg (m.as tWB) s)

/-- EVICT_CLEAN (R290): an EVICT_CLEAN arrives. -/
def execEvictClean (prg : Nat) (m : Msg) (s : State) : Host.Outcome State Fault Refusal :=
  done (dirIn prg (m.as tEVICT_CLEAN) s)

/-- COH_SNP_TIMEOUT (R291): SNP_LIMIT has passed for an agent asked about line `l`. -/
def execCohSnpTimeout (l : Nat) (agent : Nat) (s : State) : Host.Outcome State Fault Refusal := done (snpTimeout l agent s)

/-- COH_WB_TIMEOUT (R292): 4 µs have passed for an announced WB. -/
def execCohWbTimeout (l : Nat) (agent : Nat) (s : State) : Host.Outcome State Fault Refusal := done (wbTimeout l agent s)

/-- CPL (R254): a CPL arrives. -/
def execCpl (prg : Nat) (m : Msg) (s : State) : Host.Outcome State Fault Refusal := done (replyIn prg (m.as tCPL) s)

/-- CPL_DATA (R254): a CPL_DATA arrives. -/
def execCplData (prg : Nat) (m : Msg) (s : State) : Host.Outcome State Fault Refusal := done (replyIn prg (m.as tCPL_DATA) s)

/-- WRITE_FAILED (R279): a NOTIFY WRITE_FAILED arrives. -/
def execWriteFailed (prg : Nat) (m : Msg) (s : State) : Host.Outcome State Fault Refusal :=
  done (atSwitch prg (m.asOp tNOTIFY 2) (writeFailedIn prg m) s)

end Sys2Proof.Machine
end

