-- ==== Sys2Proof/Machine/Schedule.lean ====
section
/-! DEFINITION. Network time, rounds and tiles (chapters 3 and 4). -/

namespace Sys2Proof.Machine

/-- TIME_MARK_TX (R69): MARK_INTERVAL has passed on a port. -/
def execTimeMarkTx (port : Nat) (s : State) : Host.Outcome State Fault Refusal := done (markDue port s)

/-- TIME_MARK (R345): a TIME_MARK flit arrives, with the corrected symbols and the uncorrectable codewords. -/
def execTimeMark (port : Nat) (f : Bytes) (corr : Nat) (uncorr : Option Nat) (s : State) : Host.Outcome State Fault Refusal :=
  done (rxFlit port corr uncorr (rxOther port kTIME_MARK f fun _ => rxMark port (bodyOf f)) s)

/-- PTP_SYNC (R69): a PTP message yields an offset in ps. -/
def execPtpSync (off : Int) (s : State) : Host.Outcome State Fault Refusal := done (ptpSync off s)

/-- PPS_IN_EDGE (R69): a rising edge on PPS_IN. -/
def execPpsInEdge (s : State) : Host.Outcome State Fault Refusal := done (ppsEdge s)

/-- PPS_OUT (R480): device time reaches a whole second. -/
def execPpsOut (s : State) : Host.Outcome State Fault Refusal := done (ppsOut s)

/-- TIME_HOLDOVER (R69): the source of time is lost. -/
def execTimeHoldover (s : State) : Host.Outcome State Fault Refusal := done (timHoldover s)

/-- TIME_UNLOCKED (R72): HOLDOVER_LIMIT has passed. -/
def execTimeUnlocked (s : State) : Host.Outcome State Fault Refusal := done (timUnlocked s)

/-- ROUND_START (R74): the next round of domain unit `d` + 1 starts. -/
def execRoundStart (d : Nat) (s : State) : Host.Outcome State Fault Refusal := done (roundStarts d s)

/-- GATE_ENTRY_NEXT (R78): the DURATION of the gate entry of port region `n` expires. -/
def execGateEntryNext (n : Nat) (s : State) : Host.Outcome State Fault Refusal := done (gateNext s n)

/-- DECISION_INSTANT (R88): round end minus LEAD. -/
def execDecisionInstant (d : Nat) (s : State) : Host.Outcome State Fault Refusal := done (decisionInstant d s)

/-- SLIP (R90): a SLIP arrives on a port. -/
def execSlip (port : Nat) (m : Msg) (s : State) : Host.Outcome State Fault Refusal :=
  done (slipAt port (m.asOp tCTRL 1) s)

/-- TILE (R82): a TILE message completes for a unit of this switch. -/
def execTile (prg : Nat) (m : Msg) (s : State) : Host.Outcome State Fault Refusal := done (tileIn prg (m.as tTILE) s)

end Sys2Proof.Machine
end

