-- ==== Sys2Proof/Machine/Steps.lean ====
section
/-! DEFINITION. The steps of stations (chapters 4 to 8). -/

namespace Sys2Proof.Machine

/-- INGRESS (R120): the next unit of an INGRESS step, the one in place `i` of bobbin `b`. -/
def execIngress (b : Nat) (i : Nat) (s : State) : Host.Outcome State Fault Refusal := done (ingress b i s)

/-- EGRESS (R120): the next unit of an EGRESS step, the one in place `i` of bobbin `b`. -/
def execEgress (b : Nat) (i : Nat) (s : State) : Host.Outcome State Fault Refusal := done (egress b i s)

/-- LOAD (R121): the next unit of a LOAD step, the one in place `i` of bobbin `b`. -/
def execLoad (b : Nat) (i : Nat) (_ext : Unit) (s : State) : Host.Outcome State Fault Refusal :=
  done (load b i s)

/-- STORE (R121): the next unit of a STORE step, the one in place `i` of bobbin `b`. -/
def execStore (b : Nat) (i : Nat) (_ext : Unit) (s : State) : Host.Outcome State Fault Refusal :=
  done (store b i s)

/-- EXPAND (R167): the next unit of an EXPAND step, the one in place `i` of bobbin `b`. -/
def execExpand (b : Nat) (i : Nat) (_ext : Unit) (s : State) : Host.Outcome State Fault Refusal :=
  done (expand b i s)

/-- MATMUL (R143): the next unit of a MATMUL step, the one in place `i` of bobbin `b`. -/
def execMatmul (b : Nat) (i : Nat) (s : State) : Host.Outcome State Fault Refusal := done (matmul b i s)

/-- ELEMWISE (R149): the next unit of an ELEMWISE step, the one in place `i` of bobbin `b`. -/
def execElemwise (b : Nat) (i : Nat) (s : State) : Host.Outcome State Fault Refusal := done (elemwise b i s)

/-- NORM (R151): the next unit of a NORM step, the one in place `i` of bobbin `b`. -/
def execNorm (b : Nat) (i : Nat) (s : State) : Host.Outcome State Fault Refusal := done (norm b i s)

/-- ATTEND (R196): the next unit of an ATTEND step, the one in place `i` of bobbin `b`. -/
def execAttend (b : Nat) (i : Nat) (_ext : Unit) (s : State) : Host.Outcome State Fault Refusal :=
  done (attend b i s)

/-- REDUCE (R214): the next unit of a REDUCE step, the one in place `i` of bobbin `b`. -/
def execReduce (b : Nat) (i : Nat) (s : State) : Host.Outcome State Fault Refusal := done (reduce b i s)

/-- GATHER (R229): the next unit of a GATHER step, the one in place `i` of bobbin `b`. -/
def execGather (b : Nat) (i : Nat) (_ext : Unit) (s : State) : Host.Outcome State Fault Refusal :=
  done (gather b i s)

/-- SCATTER (R230): the next unit of a SCATTER step, the one in place `i` of bobbin `b`. -/
def execScatter (b : Nat) (i : Nat) (_ext : Unit) (s : State) : Host.Outcome State Fault Refusal :=
  done (scatter b i s)

/-- FILTER (R232): the next unit of a FILTER step, the one in place `i` of bobbin `b`. -/
def execFilter (b : Nat) (i : Nat) (s : State) : Host.Outcome State Fault Refusal := done (filter b i s)

/-- CONVERT (R142): the next unit of a CONVERT step, the one in place `i` of bobbin `b`. -/
def execConvert (b : Nat) (i : Nat) (s : State) : Host.Outcome State Fault Refusal := done (convert b i s)

/-- COMPRESS (R171): the next unit of a COMPRESS step, the one in place `i` of bobbin `b`. -/
def execCompress (b : Nat) (i : Nat) (_ext : Unit) (s : State) : Host.Outcome State Fault Refusal :=
  done (compress b i s)

/-- STEP_COMPLETE (R117): the last unit of a step completes. -/
def execStepComplete (b : Nat) (i : Nat) (s : State) : Host.Outcome State Fault Refusal := done (stepComplete b i s)

end Sys2Proof.Machine
end

