-- ==== Sys2Proof/Machine/Supply.lean ====
section
/-! DEFINITION. Power, cooling and the states of the package (chapter 17). -/

namespace Sys2Proof.Machine

/-- PWR_RAIL_SEL (R482): a write of PWR_RAIL_SEL. -/
def execPwrRailSel (w : Word) (s : State) : Host.Outcome State Fault Refusal := done (csrWrite PWR_RAIL_SEL 8 w s)

/-- PWR_RAIL_MIN (R482): a read of PWR_RAIL_MIN. -/
def execPwrRailMin (s : State) : Host.Outcome State Fault Refusal := done (railMinRead s)

/-- SUPPLY_WARN (R469): a core rail is below WARN_MV. -/
def execSupplyWarn (rail : Nat) (mv : Nat) (s : State) : Host.Outcome State Fault Refusal := done (supplyWarn rail mv s)

/-- RAIL_FAULT (R470): a rail leaves its limits or is removed. -/
def execRailFault (rail : Nat) (mv : Nat) (s : State) : Host.Outcome State Fault Refusal := done (railFault rail mv s)

/-- THERM_WARN (R471): a region is above WARN (in 1/16 °C). -/
def execThermWarn (n : Nat) (t : Int) (s : State) : Host.Outcome State Fault Refusal := done (thermWarn n t s)

/-- THERM_TRIP (R471): a region is at or above the trip (in 1/16 °C). -/
def execThermTrip (n : Nat) (t : Int) (s : State) : Host.Outcome State Fault Refusal := done (thermTrip n t s)

/-- AUX_LOSS (R467): VDD_AUX falls. -/
def execAuxLoss (s : State) : Host.Outcome State Fault Refusal := done (auxLoss s)

/-- PARK_POWER_OFF (R473): the last request of region `k` (16·kind + index) has ended. -/
def execParkPowerOff (k : Nat) (s : State) : Host.Outcome State Fault Refusal := done (parkOff k s)

/-- STANDBY_ENTRY_DONE (R474): entry is complete. -/
def execStandbyEntryDone (s : State) : Host.Outcome State Fault Refusal := done (standbyEntered s)

/-- PWR_STANDBY_EXIT (R474): PWR_STANDBY.EXIT = 1. -/
def execPwrStandbyExit (s : State) : Host.Outcome State Fault Refusal := done (csrWrite PWR_STANDBY 8 (PWR_STANDBY_EXIT.set 0 1) s)

/-- STANDBY_EXIT_DONE (R474): the device is initialised. -/
def execStandbyExitDone (s : State) : Host.Outcome State Fault Refusal := done (standbyLeft s)

/-- RAIL_GOOD (R469): a rail returns. -/
def execRailGood (rail : Nat) (mv : Nat) (s : State) : Host.Outcome State Fault Refusal := done (railBack rail mv s)

/-- JUNCTION_COOLED (R471): a region cools. -/
def execJunctionCooled (n : Nat) (t : Int) (s : State) : Host.Outcome State Fault Refusal := done (cooled n t s)

/-- BOOT_RETRY (R448): one second has passed. -/
def execBootRetry (s : State) : Host.Outcome State Fault Refusal := done (bootRetry s)

/-- PARK_EXIT (R473): the power-up of region `k` is over. -/
def execParkExit (k : Nat) (s : State) : Host.Outcome State Fault Refusal := done (parkExit k s)

/-- HBC_PHY (R419): a channel loses PHY lock or fails training. -/
def execHbcPhy (u : Nat) (s : State) : Host.Outcome State Fault Refusal := done (fireSource srcHBC_HBC_PHY u s)

/-- SRAM_UE_IDLE (R128): bits of a word of the SRAM of region `n` turn. -/
def execSramUeIdle (n : Nat) (word : SramError) (s : State) : Host.Outcome State Fault Refusal := done (sramUpset n word s)

end Sys2Proof.Machine
end

