-- ==== Sys2Proof/Machine/Tiers.lean ====
section
/-! DEFINITION. Memory tiers, homes, leases and publications (chapters 9 and 10). -/

namespace Sys2Proof.Machine

/-- HOME_ENTRY_FETCH (R253): the fetch of extent entry `e` by a hub completes. -/
def execHomeEntryFetch (hub : Nat) (e : Nat) (s : State) : Host.Outcome State Fault Refusal := done (entryFetched hub e s)

/-- TIER_LATE (R252): the tier deadline of request `arr` passes. -/
def execTierLate (arr : Nat) (s : State) : Host.Outcome State Fault Refusal := done (tierLate arr s)

/-- REMOTE_LIMIT_EXPIRE (R296): MRG_REMOTE_LIMIT has passed for request `id` of the device. -/
def execRemoteLimitExpire (id : Nat) (s : State) : Host.Outcome State Fault Refusal := done (remoteLimit id s)

/-- SCRUB (R249): a scrub pass of HBC unit `u`; `ups` are the errors that have arisen: block, byte and wrong bits. -/
def execScrub (u : Nat) (ups : List (Nat × Nat × Nat)) (s : State) : Host.Outcome State Fault Refusal :=
  done (scrub u (ups.foldl (fun s x => upset x.1 x.2.1 x.2.2 s) s))

/-- MOVE_SECTOR_COPY (R259): the next sector of the move of an extent address, with the 80-byte units that the tray of a source in the
HX-3208 layout returned. -/
def execMoveSectorCopy (addr : Nat × Bytes) (s : State) : Host.Outcome State Fault Refusal := done (sectorCopy addr.1 addr.2 s)

/-- MOVE_DRAIN_DONE (R261): the source reports. -/
def execMoveDrainDone (addr : Nat) (s : State) : Host.Outcome State Fault Refusal := done (drainDone addr s)

/-- MOVE_DRAIN (R261): DRAIN_LIMIT has passed. -/
def execMoveDrain (addr : Nat) (s : State) : Host.Outcome State Fault Refusal := done (drainLate addr s)

/-- OBJ_FREE_COMPLETE (R257): the last request on object `i` has ended. -/
def execObjFreeComplete (i : Nat) (s : State) : Host.Outcome State Fault Refusal := done (freeComplete i s)

/-- WITHDRAW_RANGE_RELEASE (R266): the last request at the home of extent `e` has ended. -/
def execWithdrawRangeRelease (e : Nat) (s : State) : Host.Outcome State Fault Refusal := done (rangeRelease e s)

/-- LEASE_GRACE_EXPIRE (R268): the grace of a recalled lease ends. -/
def execLeaseGraceExpire (id : Nat) (s : State) : Host.Outcome State Fault Refusal := done (graceExpire id s)

/-- LEASE_RECALL (R268): a LEASE_RECALL arrives. -/
def execLeaseRecall (prg : Nat) (m : Msg) (s : State) : Host.Outcome State Fault Refusal :=
  done (atSwitch prg (m.as tCTRL) (raise srcMRG_LEASE_RECALLED 0) s)

/-- LEASE_END (R268): a LEASE_END arrives. -/
def execLeaseEnd (prg : Nat) (m : Msg) (s : State) : Host.Outcome State Fault Refusal :=
  done (atSwitch prg (m.as tCTRL) (leaseEnd m) s)

/-- HQ_GO (R264): MRG_HQ_CTL.GO = 1. -/
def execHqGo (s : State) : Host.Outcome State Fault Refusal := done (csrWrite MRG_HQ_CTL 8 (MRG_HQ_CTL_GO.set 0 1) s)

/-- HOME_QUERY_TIMER (R263): 1 ms has passed for an entry in DOUBT. -/
def execHomeQueryTimer (addr : Nat) (s : State) : Host.Outcome State Fault Refusal := done (queryTimer addr s)

/-- HOME_DECLARED_LOST (R263): HQ_TIMEOUT has passed. -/
def execHomeDeclaredLost (addr : Nat) (s : State) : Host.Outcome State Fault Refusal := done (declaredLost addr s)

/-- HOME_QUERY (R264): a HOME_QUERY arrives. -/
def execHomeQuery (prg : Nat) (m : Msg) (s : State) : Host.Outcome State Fault Refusal :=
  done (atSwitch prg (m.as tCTRL) (homeQuery m) s)

/-- HOME_ANSWER (R263): a HOME_ANSWER arrives. -/
def execHomeAnswer (prg : Nat) (m : Msg) (s : State) : Host.Outcome State Fault Refusal :=
  done (atSwitch prg (m.as tCTRL) (homeAnswer prg m) s)

/-- PUB_QUERY (R302): a PUB_QUERY arrives. -/
def execPubQuery (prg : Nat) (m : Msg) (s : State) : Host.Outcome State Fault Refusal :=
  done (atSwitch prg (m.as tCTRL) (pubQuery m) s)

/-- PUB_ANSWER (R302): a PUB_ANSWER arrives. -/
def execPubAnswer (prg : Nat) (m : Msg) (s : State) : Host.Outcome State Fault Refusal :=
  done (atSwitch prg (m.as tCTRL) (pubAnswerIn prg m) s)

end Sys2Proof.Machine
end

