-- ==== Sys2Proof/Machine/Traffic.lean ====
section
/-! DEFINITION. Token buckets, resequencers and route changes (chapter 13). -/

namespace Sys2Proof.Machine

/-- TOKEN_REFILL (R383): a refill event of a port. -/
def execTokenRefill (port : Nat) (sel : Nat) (s : State) : Host.Outcome State Fault Refusal := done (refill port sel s)

/-- RESEQ_OPEN_HOLD (R376): OPEN_HOLD has passed for a flow of the resequencer of port region `prg`. What waits for a cell takes those that are freed. -/
def execReseqOpenHold (prg : Nat) (src : Nat) (dst : Nat) (tc : Nat) (sint : Bool) (dint : Bool)
    (s : State) : Host.Outcome State Fault Refusal :=
  done (drainWaiting (reseqOpened prg ⟨src, dst, tc, sint, dint⟩ s))

/-- RESEQ_FLOW_IDLE (R376): FLOW_IDLE has passed for a flow of the resequencer of port region `prg`. -/
def execReseqFlowIdle (prg : Nat) (src : Nat) (dst : Nat) (tc : Nat) (sint : Bool) (dint : Bool)
    (s : State) : Host.Outcome State Fault Refusal :=
  done (reseqIdle prg ⟨src, dst, tc, sint, dint⟩ s)

/-- RESEQ_TIMEOUT (R379): TIMEOUT has passed for a flow of the resequencer of port region `prg`. -/
def execReseqTimeout (prg : Nat) (src : Nat) (dst : Nat) (tc : Nat) (sint : Bool) (dint : Bool)
    (s : State) : Host.Outcome State Fault Refusal :=
  done (drainWaiting (reseqTimeout prg ⟨src, dst, tc, sint, dint⟩ s))

/-- RESEQ_FORCED (R380): every entry is in use and nothing can be delivered. -/
def execReseqForced (prg : Nat) (s : State) : Host.Outcome State Fault Refusal := done (drainWaiting (reseqForced prg s))

/-- ROUTE_HOLD_EXPIRE (R373): HOLD has passed for a path that moved. -/
def execRouteHoldExpire (path : Nat) (s : State) : Host.Outcome State Fault Refusal := done (routeHoldOver path s)

end Sys2Proof.Machine
end

