-- ==== Sys2Proof/Machine/Dispatch.lean ====
section
/-! DEFINITION. Which meaning each command has. -/

namespace Sys2Proof.Machine

def exec (i : Instr) (s : State) : Host.Outcome State Fault Refusal :=
  match i with
  | .csrWrite stores a size w => Sys2Proof.Machine.execCsrWrite stores a size w s
  | .timNowRead => Sys2Proof.Machine.execTimNowRead s
  | .timSet w => Sys2Proof.Machine.execTimSet w s
  | .errStickyClear g u p w => Sys2Proof.Machine.execErrStickyClear g u p w s
  | .errInject g u p w => Sys2Proof.Machine.execErrInject g u p w s
  | .contextReset g u p ctx => Sys2Proof.Machine.execContextReset g u p ctx s
  | .engineReset g u p => Sys2Proof.Machine.execEngineReset g u p s
  | .resetDone rung g u ctx => Sys2Proof.Machine.execResetDone rung g u ctx s
  | .resetEscalated rung g u ctx => Sys2Proof.Machine.execResetEscalated rung g u ctx s
  | .clsAlloc => Sys2Proof.Machine.execClsAlloc s
  | .clsStageData c w => Sys2Proof.Machine.execClsStageData c w s
  | .clsSeal c => Sys2Proof.Machine.execClsSeal c s
  | .clsClose c stores leases psns digests => Sys2Proof.Machine.execClsClose c stores leases psns digests s
  | .clsAbort c => Sys2Proof.Machine.execClsAbort c s
  | .clsRelease c => Sys2Proof.Machine.execClsRelease c s
  | .clauseArmed c => Sys2Proof.Machine.execClauseArmed c s
  | .guardInterval c => Sys2Proof.Machine.execGuardInterval c s
  | .clauseCommit c => Sys2Proof.Machine.execClauseCommit c s
  | .clauseTimeout c => Sys2Proof.Machine.execClauseTimeout c s
  | .clauseInDoubt c => Sys2Proof.Machine.execClauseInDoubt c s
  | .coordVoteTimeout c => Sys2Proof.Machine.execCoordVoteTimeout c s
  | .prepare prg m => Sys2Proof.Machine.execPrepare prg m s
  | .vote prg m => Sys2Proof.Machine.execVote prg m s
  | .decision prg m => Sys2Proof.Machine.execDecision prg m s
  | .decisionAck prg m => Sys2Proof.Machine.execDecisionAck prg m s
  | .outcomeQueryTimer c => Sys2Proof.Machine.execOutcomeQueryTimer c s
  | .outcomeQuery prg m => Sys2Proof.Machine.execOutcomeQuery prg m s
  | .outcomeAnswer prg m => Sys2Proof.Machine.execOutcomeAnswer prg m s
  | .timeMarkTx port => Sys2Proof.Machine.execTimeMarkTx port s
  | .timeMark port f corr uncorr => Sys2Proof.Machine.execTimeMark port f corr uncorr s
  | .ptpSync off => Sys2Proof.Machine.execPtpSync off s
  | .ppsInEdge => Sys2Proof.Machine.execPpsInEdge s
  | .ppsOut => Sys2Proof.Machine.execPpsOut s
  | .timeHoldover => Sys2Proof.Machine.execTimeHoldover s
  | .timeUnlocked => Sys2Proof.Machine.execTimeUnlocked s
  | .roundStart d => Sys2Proof.Machine.execRoundStart d s
  | .gateEntryNext n => Sys2Proof.Machine.execGateEntryNext n s
  | .decisionInstant d => Sys2Proof.Machine.execDecisionInstant d s
  | .slip port m => Sys2Proof.Machine.execSlip port m s
  | .tile prg m => Sys2Proof.Machine.execTile prg m s
  | .progLoad stores n w => Sys2Proof.Machine.execProgLoad stores n w s
  | .progLoadDone n bad => Sys2Proof.Machine.execProgLoadDone n bad s
  | .nopDesc b => Sys2Proof.Machine.execNopDesc b s
  | .stepDesc b => Sys2Proof.Machine.execStepDesc b s
  | .loopDesc b => Sys2Proof.Machine.execLoopDesc b s
  | .nextDesc b => Sys2Proof.Machine.execNextDesc b s
  | .waitRoundDesc b => Sys2Proof.Machine.execWaitRoundDesc b s
  | .endDesc b => Sys2Proof.Machine.execEndDesc b s
  | .readDataArrive b => Sys2Proof.Machine.execReadDataArrive b s
  | .bobArm b => Sys2Proof.Machine.execBobArm b s
  | .bobStart b => Sys2Proof.Machine.execBobStart b s
  | .bobStop b => Sys2Proof.Machine.execBobStop b s
  | .bobRelease b => Sys2Proof.Machine.execBobRelease b s
  | .ingress b idx => Sys2Proof.Machine.execIngress b idx s
  | .egress b idx => Sys2Proof.Machine.execEgress b idx s
  | .load b idx ext => Sys2Proof.Machine.execLoad b idx ext s
  | .store b idx ext => Sys2Proof.Machine.execStore b idx ext s
  | .expand b idx ext => Sys2Proof.Machine.execExpand b idx ext s
  | .matmul b idx => Sys2Proof.Machine.execMatmul b idx s
  | .elemwise b idx => Sys2Proof.Machine.execElemwise b idx s
  | .norm b idx => Sys2Proof.Machine.execNorm b idx s
  | .attend b idx ext => Sys2Proof.Machine.execAttend b idx ext s
  | .reduce b idx => Sys2Proof.Machine.execReduce b idx s
  | .gather b idx ext => Sys2Proof.Machine.execGather b idx ext s
  | .scatter b idx ext => Sys2Proof.Machine.execScatter b idx ext s
  | .filter b idx => Sys2Proof.Machine.execFilter b idx s
  | .convert b idx => Sys2Proof.Machine.execConvert b idx s
  | .compress b idx ext => Sys2Proof.Machine.execCompress b idx ext s
  | .stepComplete b idx => Sys2Proof.Machine.execStepComplete b idx s
  | .collContribution prg m => Sys2Proof.Machine.execCollContribution prg m s
  | .collSetOpen idx => Sys2Proof.Machine.execCollSetOpen idx s
  | .collTimeout id t => Sys2Proof.Machine.execCollTimeout id t s
  | .abort prg m => Sys2Proof.Machine.execAbort prg m s
  | .cmbBufExpire n addr len => Sys2Proof.Machine.execCmbBufExpire n addr len s
  | .replyCacheExpire n src sint gen id => Sys2Proof.Machine.execReplyCacheExpire n src sint gen id s
  | .read prg m => Sys2Proof.Machine.execRead prg m s
  | .rdShared prg m => Sys2Proof.Machine.execRdShared prg m s
  | .rdUnique prg m => Sys2Proof.Machine.execRdUnique prg m s
  | .upgrade prg m => Sys2Proof.Machine.execUpgrade prg m s
  | .write prg m => Sys2Proof.Machine.execWrite prg m s
  | .writeAck prg m => Sys2Proof.Machine.execWriteAck prg m s
  | .fence prg m => Sys2Proof.Machine.execFence prg m s
  | .atomicAdd prg m => Sys2Proof.Machine.execAtomicAdd prg m s
  | .exactAdd prg m => Sys2Proof.Machine.execExactAdd prg m s
  | .atomicMin prg m => Sys2Proof.Machine.execAtomicMin prg m s
  | .atomicMax prg m => Sys2Proof.Machine.execAtomicMax prg m s
  | .atomicCas prg m => Sys2Proof.Machine.execAtomicCas prg m s
  | .atomicBatchPass n addr => Sys2Proof.Machine.execAtomicBatchPass n addr s
  | .snpRsp prg m => Sys2Proof.Machine.execSnpRsp prg m s
  | .wb prg m => Sys2Proof.Machine.execWb prg m s
  | .evictClean prg m => Sys2Proof.Machine.execEvictClean prg m s
  | .cohSnpTimeout l agent => Sys2Proof.Machine.execCohSnpTimeout l agent s
  | .cohWbTimeout l agent => Sys2Proof.Machine.execCohWbTimeout l agent s
  | .cpl prg m => Sys2Proof.Machine.execCpl prg m s
  | .cplData prg m => Sys2Proof.Machine.execCplData prg m s
  | .writeFailed prg m => Sys2Proof.Machine.execWriteFailed prg m s
  | .homeEntryFetch hub e => Sys2Proof.Machine.execHomeEntryFetch hub e s
  | .tierLate arr => Sys2Proof.Machine.execTierLate arr s
  | .remoteLimitExpire id => Sys2Proof.Machine.execRemoteLimitExpire id s
  | .scrub u ups => Sys2Proof.Machine.execScrub u ups s
  | .moveSectorCopy addr => Sys2Proof.Machine.execMoveSectorCopy addr s
  | .moveDrainDone addr => Sys2Proof.Machine.execMoveDrainDone addr s
  | .moveDrain addr => Sys2Proof.Machine.execMoveDrain addr s
  | .objFreeComplete idx => Sys2Proof.Machine.execObjFreeComplete idx s
  | .withdrawRangeRelease e => Sys2Proof.Machine.execWithdrawRangeRelease e s
  | .leaseGraceExpire id => Sys2Proof.Machine.execLeaseGraceExpire id s
  | .leaseRecall prg m => Sys2Proof.Machine.execLeaseRecall prg m s
  | .leaseEnd prg m => Sys2Proof.Machine.execLeaseEnd prg m s
  | .hqGo => Sys2Proof.Machine.execHqGo s
  | .homeQueryTimer addr => Sys2Proof.Machine.execHomeQueryTimer addr s
  | .homeDeclaredLost addr => Sys2Proof.Machine.execHomeDeclaredLost addr s
  | .homeQuery prg m => Sys2Proof.Machine.execHomeQuery prg m s
  | .homeAnswer prg m => Sys2Proof.Machine.execHomeAnswer prg m s
  | .pubQuery prg m => Sys2Proof.Machine.execPubQuery prg m s
  | .pubAnswer prg m => Sys2Proof.Machine.execPubAnswer prg m s
  | .doorbell n m ext => Sys2Proof.Machine.execDoorbell n m ext s
  | .sqReadDone q ext => Sys2Proof.Machine.execSqReadDone q ext s
  | .wqeSend q => Sys2Proof.Machine.execWqeSend q s
  | .wqeWrite q => Sys2Proof.Machine.execWqeWrite q s
  | .wqeRead q => Sys2Proof.Machine.execWqeRead q s
  | .wqeFlush q => Sys2Proof.Machine.execWqeFlush q s
  | .shuttleSegmentTx n ext => Sys2Proof.Machine.execShuttleSegmentTx n ext s
  | .shtSend n m ext => Sys2Proof.Machine.execShtSend n m ext s
  | .shtWrite n m ext => Sys2Proof.Machine.execShtWrite n m ext s
  | .readReq n m ext => Sys2Proof.Machine.execReadReq n m ext s
  | .readResp n m => Sys2Proof.Machine.execReadResp n m s
  | .shtFlush n m ext => Sys2Proof.Machine.execShtFlush n m ext s
  | .ack n m ext => Sys2Proof.Machine.execAck n m ext s
  | .nak n m ext => Sys2Proof.Machine.execNak n m ext s
  | .ackDelayExpire q => Sys2Proof.Machine.execAckDelayExpire q s
  | .shtRetryTimer q ext => Sys2Proof.Machine.execShtRetryTimer q ext s
  | .placementDone q psn ext => Sys2Proof.Machine.execPlacementDone q psn ext s
  | .revokeDone idx => Sys2Proof.Machine.execRevokeDone idx s
  | .revokeLate idx ext => Sys2Proof.Machine.execRevokeLate idx ext s
  | .flitSlotTx port => Sys2Proof.Machine.execFlitSlotTx port s
  | .flitData port f corr uncorr => Sys2Proof.Machine.execFlitData port f corr uncorr s
  | .idle port f corr uncorr => Sys2Proof.Machine.execIdle port f corr uncorr s
  | .retryReq port f corr uncorr => Sys2Proof.Machine.execRetryReq port f corr uncorr s
  | .train port f corr uncorr => Sys2Proof.Machine.execTrain port f corr uncorr s
  | .trainTx port => Sys2Proof.Machine.execTrainTx port s
  | .gangCut port f corr uncorr => Sys2Proof.Machine.execGangCut port f corr uncorr s
  | .retrainReq port f corr uncorr => Sys2Proof.Machine.execRetrainReq port f corr uncorr s
  | .faultIdle port f corr uncorr => Sys2Proof.Machine.execFaultIdle port f corr uncorr s
  | .flitReservedKind port corr uncorr => Sys2Proof.Machine.execFlitReservedKind port corr uncorr s
  | .replayTimeout port => Sys2Proof.Machine.execReplayTimeout port s
  | .linkDetect port => Sys2Proof.Machine.execLinkDetect port s
  | .equalizeDone port => Sys2Proof.Machine.execEqualizeDone port s
  | .alignLock port => Sys2Proof.Machine.execAlignLock port s
  | .linkTrainTimeout port => Sys2Proof.Machine.execLinkTrainTimeout port s
  | .lockLost port => Sys2Proof.Machine.execLockLost port s
  | .autoRetry port => Sys2Proof.Machine.execAutoRetry port s
  | .trayLinkUp c capacity width speed => Sys2Proof.Machine.execTrayLinkUp c capacity width speed s
  | .trayResponse c tag kind raw => Sys2Proof.Machine.execTrayResponse c tag kind raw s
  | .cxpLinkDown c kind => Sys2Proof.Machine.execCxpLinkDown c kind s
  | .hostMemrd c ld dpa ext => Sys2Proof.Machine.execHostMemrd c ld dpa ext s
  | .hostWrite c => Sys2Proof.Machine.execHostWrite c s
  | .identifyMemoryDevice c ld => Sys2Proof.Machine.execIdentifyMemoryDevice c ld s
  | .getPartitionInfo c ld => Sys2Proof.Machine.execGetPartitionInfo c ld s
  | .getHealthInfo c ld => Sys2Proof.Machine.execGetHealthInfo c ld s
  | .getSupportedLogs c ld => Sys2Proof.Machine.execGetSupportedLogs c ld s
  | .getLog c ld => Sys2Proof.Machine.execGetLog c ld s
  | .getEventRecords c ld => Sys2Proof.Machine.execGetEventRecords c ld s
  | .clearEventRecords c ld => Sys2Proof.Machine.execClearEventRecords c ld s
  | .cxlMbxUnsupported c ld => Sys2Proof.Machine.execCxlMbxUnsupported c ld s
  | .inPush c ld len tag ws => Sys2Proof.Machine.execInPush c ld len tag ws s
  | .outPop c ld => Sys2Proof.Machine.execOutPop c ld s
  | .tokenRefill port sel => Sys2Proof.Machine.execTokenRefill port sel s
  | .reseqOpenHold prg src dst tc sint dint => Sys2Proof.Machine.execReseqOpenHold prg src dst tc sint dint s
  | .reseqFlowIdle prg src dst tc sint dint => Sys2Proof.Machine.execReseqFlowIdle prg src dst tc sint dint s
  | .reseqTimeout prg src dst tc sint dint => Sys2Proof.Machine.execReseqTimeout prg src dst tc sint dint s
  | .reseqForced prg => Sys2Proof.Machine.execReseqForced prg s
  | .routeHoldExpire path => Sys2Proof.Machine.execRouteHoldExpire path s
  | .partRetireFree p => Sys2Proof.Machine.execPartRetireFree p s
  | .consentExpire p => Sys2Proof.Machine.execConsentExpire p s
  | .attestGo stores => Sys2Proof.Machine.execAttestGo stores s
  | .attestDone stored => Sys2Proof.Machine.execAttestDone stored s
  | .tapAccess op a size w => Sys2Proof.Machine.execTapAccess op a size w s
  | .hangWindow g u => Sys2Proof.Machine.execHangWindow g u s
  | .ucieModuleDown hub link m => Sys2Proof.Machine.execUcieModuleDown hub link m s
  | .testDone kind flt pass fails => Sys2Proof.Machine.execTestDone kind flt pass fails s
  | .dumpGo w => Sys2Proof.Machine.execDumpGo w s
  | .dumpReadTimeout base words => Sys2Proof.Machine.execDumpReadTimeout base words s
  | .dumpDone => Sys2Proof.Machine.execDumpDone s
  | .powerOn rails => Sys2Proof.Machine.execPowerOn rails s
  | .resetNAssert ns => Sys2Proof.Machine.execResetNAssert ns s
  | .bootSourceTimeout => Sys2Proof.Machine.execBootSourceTimeout s
  | .bootChunk off d => Sys2Proof.Machine.execBootChunk off d s
  | .bootNone hlk => Sys2Proof.Machine.execBootNone hlk s
  | .imageVerified ready => Sys2Proof.Machine.execImageVerified ready s
  | .chpRestart => Sys2Proof.Machine.execChpRestart s
  | .wdogKick w => Sys2Proof.Machine.execWdogKick w s
  | .fwWatchdog => Sys2Proof.Machine.execFwWatchdog s
  | .mbxPush kind port m => Sys2Proof.Machine.execMbxPush kind port m s
  | .mbxInPop m => Sys2Proof.Machine.execMbxInPop m s
  | .mbxOutPush m w => Sys2Proof.Machine.execMbxOutPush m w s
  | .mbxDoorbellClear full w sets => Sys2Proof.Machine.execMbxDoorbellClear full w sets s
  | .i3cEntdaa => Sys2Proof.Machine.execI3cEntdaa s
  | .pwrRailSel w => Sys2Proof.Machine.execPwrRailSel w s
  | .pwrRailMin => Sys2Proof.Machine.execPwrRailMin s
  | .supplyWarn rail mv => Sys2Proof.Machine.execSupplyWarn rail mv s
  | .railFault rail mv => Sys2Proof.Machine.execRailFault rail mv s
  | .thermWarn n t => Sys2Proof.Machine.execThermWarn n t s
  | .thermTrip n t => Sys2Proof.Machine.execThermTrip n t s
  | .auxLoss => Sys2Proof.Machine.execAuxLoss s
  | .parkPowerOff k => Sys2Proof.Machine.execParkPowerOff k s
  | .standbyEntryDone => Sys2Proof.Machine.execStandbyEntryDone s
  | .pwrStandbyExit => Sys2Proof.Machine.execPwrStandbyExit s
  | .standbyExitDone => Sys2Proof.Machine.execStandbyExitDone s
  | .railGood rail mv => Sys2Proof.Machine.execRailGood rail mv s
  | .junctionCooled n t => Sys2Proof.Machine.execJunctionCooled n t s
  | .bootRetry => Sys2Proof.Machine.execBootRetry s
  | .parkExit k => Sys2Proof.Machine.execParkExit k s
  | .hbcPhy u => Sys2Proof.Machine.execHbcPhy u s
  | .sramUeIdle n word => Sys2Proof.Machine.execSramUeIdle n word s

end Sys2Proof.Machine
end

