-- ==== Sys2Proof/Machine/Step.lean ====
section
/-! DEFINITION. The step of the block: it takes the command at the front of its queue; with an empty queue one nanosecond of the
reference clock passes (R68; log entry 1). -/

namespace Sys2Proof.Machine

/-- One step. -/
def step (s : State) : Host.Outcome State Fault Refusal :=
  match s.pending with
  | [] => .next (tick s)
  | c :: r => exec c { s with pending := r }

/-- The state with the command that a word of the opcode table spells in front of its queue. No row of the table gives bits, so no
word spells one. -/
def State.withFetchWord (s : State) (nbits w : Nat) : State :=
  match decodeTableWord nbits w with
  | some c => { s with pending := c :: s.pending }
  | none => s

end Sys2Proof.Machine
end

