-- ==== Sys2Proof/Safety.lean ====
section
/-! DEFINITION. What a safe run is, and the vocabulary of the claims: quiet and canonical states, what a command leaves unchanged, and
the conditions under which a command finds what it needs. -/

namespace Sys2Proof.Machine

/-- A step that neither faults nor is refused. -/
def Runs (s : State) : Prop := ∃ s', step s = .next s'

/-- The state after `k` steps, if none of them stops. -/
def after : Nat → State → Option State
  | 0, s => some s
  | k + 1, s =>
    match step s with
    | .next s' => after k s'
    | .fault _ => none
    | .refused _ => none

/-! ### States -/

/-- Every turn that has work left goes on: its bobbin or queue pair still has work of the unit that is ready (R31). -/
abbrev TurnsLive (s : State) : Prop :=
  (∀ x ∈ s.turns, 0 < x.2.2 →
    ((bobOf s x.2.1).steps.any fun st => !st.sched && st.engine == x.1 % 32 && stepReady s x.2.1 st) = true)
    ∧ ∀ x ∈ s.sht.turns, 0 < x.2.2 → shtReady s x.2.1 = true

/-- Nothing waits in the ground for a unit that is disabled or for a cell, and no request, access of a unit or host access is outstanding. -/
abbrev NothingWaits (s : State) : Prop :=
  s.ground.waiting = [] ∧ (∀ c ∈ s.ground.cells, c.hold ≠ .off ∧ c.hold ≠ .reply) ∧ s.mem.reqs = [] ∧ s.mem.far = [] ∧ s.mem.hosts = []

/-- No plan of a step and no data work of a clause goes on (R53, R122). -/
abbrev PlansDone (s : State) : Prop :=
  (∀ e ∈ s.bobs, ∀ st ∈ (bobOf s e.1).steps, st.vague = false)
    ∧ ∀ e ∈ s.cls, clsState s e.1 = csVALIDATING → (clsOf s e.1).checked = false

/-- Nothing has a consequence that is still to come: no source waits for its class action (R422), nothing is due, no reset is in
progress (R426), no block is fenced, the device is not in safe state (R423), no boot request waits for its port (R448), no completion
waits for memory (R310), nothing waits in the ground or at the homes, no plan or data work goes on, and every turn with work left goes on. -/
abbrev Quiet (s : State) : Prop :=
  s.fires = [] ∧ s.dues = [] ∧ s.flt.jobs = [] ∧ s.flt.fences = [] ∧ s.flt.safe = false ∧ s.boot.ask = false
    ∧ (s.sht.qps.all fun e => e.2.cqes.isEmpty) = true ∧ NothingWaits s ∧ PlansDone s ∧ TurnsLive s

/-- The canonical form of a memory: addresses strictly rising, and no entry equal to the 0 that an unlisted byte reads as. -/
def Memory.wf (m : List Host.Cell) : Prop := SMap.Wf (fun _ => (0 : Byte)) m

/-- Registers, control-die memory, tile SRAM and pool memory are in canonical form. -/
def Canon (s : State) : Prop :=
  SMap.Wf regReset s.regs ∧ Memory.wf s.cdmem ∧ Memory.wf s.sram ∧ Memory.wf s.mem.pool

/-! ### Frames -/

/-- Only registers differ, and of them at most those at the listed addresses. -/
def OnlyRegs (as : List Nat) (s t : State) : Prop :=
  t = { s with regs := t.regs } ∧ ∀ a, a ∉ as → rdReg t a = rdReg s a

/-- Only the state of port `p` beyond its registers differs. -/
def OnlyPort (p : Nat) (s t : State) : Prop :=
  t = { s with ports := t.ports } ∧ ∀ q, q ≠ p → portOf t q = portOf s q

/-- The pool holds the bytes `d` from `p` on, and every other byte is as it was. -/
def Stored (s t : State) (p : Nat) (d : Bytes) : Prop :=
  poolBytes t p d.length = d ∧ ∀ b, b < p ∨ p + d.length ≤ b → poolByte t b = poolByte s b

/-! ### Clauses -/

/-- Clause `c` holds no work of a home: no entry of it is an action of the homes, and no range is reserved for it (R59). -/
abbrev NoHomeWork (s : State) (c : Nat) : Prop :=
  ((clsOf s c).entries.any fun e => e.isAction && homeAction e.code e.page) = false ∧ ∀ x ∈ s.mem.reserved, x.1 ≠ c

/-- Clause `c` ends ABORTED with `reason` and counts in CLS_ABORTS, with its entries as they were; a local clause changes no other
register and no state beyond the clauses, the homes, the consequences due and the answer (R58, R60). -/
def Aborted (s t : State) (c reason : Nat) : Prop :=
  clsState t c = csABORTED ∧ rdF t (CLS_STATE c) CLS_STATE_REASON = reason ∧ rdReg t CLS_ABORTS = rdReg s CLS_ABORTS + 1
    ∧ (clsOf t c).entries = (clsOf s c).entries
    ∧ (clsRole s c = 0 → OnlyRegs [CLS_STATE c, CLS_ABORTS] { s with cls := t.cls, mem := t.mem, dues := t.dues, reply := t.reply } t)

/-! ### Bobbins and stations -/

/-- Bobbin `b` is RUNNING, with a scheduled round behind it where it is scheduled, its region and page are on, and the descriptor at
its cursor has opcode `op` (R83, R108). -/
abbrev BobRuns (s : State) (b op : Nat) : Prop :=
  bobState s b = bsRUNNING ∧ beforeRounds s b = false ∧ regionOff s false (bobRgn b) = false ∧ unitOn s grCRG (bobRgn b) = true
    ∧ unitOn s grBOB b = true ∧ opAt s b = op

/-- The step in place `i` of bobbin `b` is `st`, of station type `ty`, and its engine may start it (R118, R119). -/
abbrev StepMayRun (s : State) (b i : Nat) (st : Step) (ty : Nat) : Prop :=
  (bobOf s b).steps[i]? = some st ∧ st.type = ty ∧ mayStart s b st = true

/-- What the computation of a station makes of the next unit of step `st` of bobbin `b`. -/
def unitCtx (s : State) (b : Nat) (st : Step) (body : Step → Stn → Ctx → Ctx) : Ctx :=
  body st (stnOf (bobProg s b) st.station) (stepCtx s b st)

/-- The state that the computation of a unit leaves, with the reads it made counted and the outcomes it used gone. -/
def unitState (b : Nat) (st : Step) (c : Ctx) : State :=
  farUsed c.used (countReads b st (if readsMem st.type then st.made + c.reads else 0) c.s)

/-- The reads that the step has made once the computation has ended (R121). -/
def unitReads (st : Step) (c : Ctx) : Nat := if readsMem st.type then st.made + c.reads else 0

/-- The state after a unit: the computation's, with the reads it made counted, the step one unit on, the unit's tiles counted in STN_UNITS,
the work unit in G_PROGRESS, and the tiles taken from the bobbin's turn (R31, R117). -/
def unitDone (b k : Nat) (st : Step) (c : Ctx) : State :=
  let u := 32 * bobRgn b + st.engine
  let y := { c.step with made := unitReads st c }
  serveTurn b y k (bump (progress (putStep b { y with unit := y.unit + 1 } (unitState b st c)) grSTN u) (STN_UNITS u) k)

/-- What a unit that may start leaves, by how its computation ends: one that lacks the outcome of an access asks for it and changes
nothing else; a step fault stops the bobbin and records the step (R126); a step whose units turn out to be done is
only noted; otherwise the unit is done. -/
def unitEnds (s : State) (b k : Nat) (st : Step) (c : Ctx) : State :=
  if c.stuck then c.askAll s else
  match c.fault with
  | some (code, det) => bobFault b code st.station st.desc det st.tile (some st) (unitState b st c)
  | none =>
    if c.step.unit < c.step.units then unitDone b k st c
    else putStep b { c.step with made := unitReads st c } (unitState b st c)

/-- Collective `id` is open (state 1), without stage, local or forward targets, and nothing of the device works for it. -/
abbrev CollAlone (s : State) (id : Nat) : Prop :=
  (collOf s id).state = 1 ∧ cdStage (collOf s id).desc = false ∧ mcLocals s (cdGroup (collOf s id).desc) = []
    ∧ mcFwds s (cdGroup (collOf s id).desc) = [] ∧ s.bobs = [] ∧ s.ground.cells = [] ∧ s.ground.flows = [] ∧ s.ground.waiting = []

/-! ### Requests -/

/-- No message waits at a unit of the device, for a cell of the ground or for a cell for its reply. -/
abbrev GroundIdle (s : State) : Prop :=
  s.ground.delivered = [] ∧ s.ground.waiting = [] ∧ (s.ground.cells.any (·.hold == .reply)) = false

/-- No request, operation, reservation, move, guard, line transaction or engine reset is in progress at the homes of this device, no message
waits, and the device is not in safe state. -/
abbrev MemIdle (s : State) : Prop :=
  s.mem.reqs = [] ∧ s.mem.cmbs = [] ∧ s.mem.reserved = [] ∧ s.mem.moves = [] ∧ s.mem.guarded = [] ∧ s.mem.txns = []
    ∧ s.flt.jobs = [] ∧ GroundIdle s ∧ s.flt.safe = false

/-- The state once a request has arrived: it has taken the next arrival number. -/
def arrived (s : State) : State := (nextArr s).2

/-- The state once a request that entered at hub block `prg` has been looked up: its extent's entry was in the hub's cache, and the hub's
registrar unit has made progress (R270, R424). -/
def found (s : State) (prg : Nat) : State :=
  progress (bump (arrived s) (MRG_HOME_HITS (entryHub prg))) grMRG (entryHub prg)

/-- A request passes its form checks, is addressed to this device, and has the rights that its use needs; its extent's entry is in the
hub's cache, and its home is own T0 memory that is not fenced: object `i`, extent `e`, physical address `p` (R252, R253, R277). -/
def AtHome (s : State) (prg : Nat) (m : Msg) (u : Use) (i e p : Nat) : Prop :=
  MemIdle s ∧ formError m = none ∧ m.hdr.dint = true ∧ m.hdr.dst % 4096 = 0 ∧ msgAddr m / 2 ^ 52 % 4096 = ownId s
    ∧ msgAddr m % 2 ^ 52 < 2 ^ 50 ∧ partFenced s (reqPart m) = false
    ∧ blockFenced s grMRG (entryHub prg) = false ∧ unitHeld s grMRG (entryHub prg) = false
    ∧ lookRights s (reqPart m) u (msgAddr m % 2 ^ 52) (msgSpan m) = .ok i e p
    ∧ s.mem.hcache.contains (entryHub prg, e) = true ∧ lookState s u e = none ∧ (extOf s e).tier = 0
    ∧ channelFenced s p (msgSpan m) = false ∧ channelReset s p (msgSpan m) = none ∧ (objOf s i).sharedRo = false

/-- A coherent READ of a member of a domain that covers the line, on a line without a record (R287 to R290). -/
def LineFree (s : State) (m : Msg) : Prop :=
  ∃ d x, coverDom s (msgAddr m % 2 ^ 52) = some d ∧ sfind s.mem.doms d = some x ∧ x.members.contains m.hdr.src = true
    ∧ m.hdr.sint = false ∧ x.sweeping = false ∧ blockFenced s grDIR (lineSlice s (msgAddr m % 2 ^ 52)) = false
    ∧ unitHeld s grDIR (lineSlice s (msgAddr m % 2 ^ 52)) = false ∧ s.mem.dir = []

/-- A message for the directory of a line of this device, which takes it now: it is well formed, the hub's registrar unit and the line's
directory slice and channel take messages, no request waits at the homes, and the device is not in safe state (R35, R272, R423). -/
abbrev AtDir (s : State) (prg : Nat) (m : Msg) : Prop :=
  GroundIdle s ∧ s.mem.reqs = [] ∧ s.flt.safe = false ∧ toDirOk m = true ∧ unitHeld s grMRG (entryHub prg) = false
    ∧ unitHeld s grDIR (lineSlice s (64 * msgLine s m)) = false
    ∧ ((lineT0 s (msgLine s m)).bind fun p => channelReset s p 64) = none

/-- The state once a message for the directory has been taken: it counts as progress of the hub's registrar unit (R424). -/
def heard (s : State) (prg : Nat) : State := progress (arrived s) grMRG (entryHub prg)

/-- What an atomic leaves: the new operand bytes, every other byte as it was, and one operation at the unit whose member's result is
`old`, until it returns. -/
def AtomicDone (s t : State) (prg p : Nat) (old new : Bytes) : Prop :=
  Stored s t p new ∧ (cmbOf t prg).ops.map (·.results) = [some [(stOK, old)]]

/-- An atomic of member bytes `old` whose home serves it, on a line that no domain covers, with no entry in the reply cache. -/
def AtomicAt (s : State) (prg : Nat) (m : Msg) (i e p : Nat) : Prop :=
  AtHome s prg m .atomic i e p ∧ prg < 16 ∧ m.hdr.type = tATOMIC ∧ m.hdr.retry = false ∧ coverDom s (msgAddr m % 2 ^ 52) = none
    ∧ blockFenced s grCMB prg = false ∧ unitHeld s grCMB prg = false ∧ (memRead (objOf s i).part p (msgSpan m) s).1 = stOK

/-! ### Traffic control -/

/-- A policer at a refill by its two registers: both buckets gain their increments and keep to their bursts; with a token kind other than
2 what overflows the committed bucket goes to the excess bucket (R386). -/
def refilled (a b : Word) (m : Meter) : Meter :=
  let cir := QOS_POL_VEP_A_CIR.get a
  let cbs := 256 * QOS_POL_VEP_A_CBS.get a
  let ebs := 256 * QOS_POL_VEP_B_EBS_PBS.get b
  if QOS_POL_VEP_A_KIND.get a = 2 then ⟨min cbs (m.c + cir), min ebs (m.e + QOS_POL_VEP_B_PIR.get b)⟩
  else
    let c := min cbs (min cbs m.c + cir)
    ⟨c, min ebs (m.e + (min cbs m.c + cir - c))⟩

/-! ### Messages for a unit -/

/-- A message addressed to internal endpoint 0x000 of the switch (R273); no other waits. -/
abbrev ToSwitch (s : State) (m : Msg) : Prop := m.hdr.dint = true ∧ m.hdr.dst % 4096 = 0 ∧ GroundIdle s

/-- A CTRL message for the switch, in the traffic class that its type requires (R272). -/
abbrev CtrlMsg (s : State) (m : Msg) : Prop := ToSwitch s m ∧ m.hdr.type = tCTRL ∧ m.hdr.tc = 6

/-- A shuttle segment of engine `n` for queue pair `q`, which takes segments (R311, Table SHT-6). -/
abbrev ToQp (s : State) (n q : Nat) (m : Msg) : Prop :=
  n < 16 ∧ m.hdr.dint = true ∧ m.hdr.dst % 4096 = 0x200 + n ∧ m.hdr.isShuttle = true ∧ GroundIdle s
    ∧ shtQp m = q ∧ shtTakes s n q = true ∧ m.hdr.type ≠ tWRITE_ACK

/-- The segment is the next one that the queue pair expects, and asks for no acknowledgement now (R313). -/
abbrev NextSeg (s : State) (n q : Nat) (m : Msg) : Prop :=
  ToQp s n q m ∧ blockFenced s grSHT n = false ∧ regionOff s true n = false ∧ smPsn m = (qpOf s q).recvPsn
    ∧ (qpOf s q).recvPsn < 2 ^ 24 ∧ smLast m = false ∧ smMark m = false ∧ (qpOf s q).flushes = []
    ∧ (qpOf s q).unackd + 1 < rdF s (SHT_ACK n) SHT_ACK_EVERY

/-- A CXL port in host role with a valid logical device (R355). -/
abbrev LdServed (s : State) (c ld : Nat) : Prop := cxlOn s c = true ∧ cxlHost s c = true ∧ ldValid s c ld = true

end Sys2Proof.Machine
end

