-- ==== Sys2Proof/Certificates/Slice0/Obligations.lean ====
section
/-! DEFINITION. The statements of this model. A statement of what a command does gives the state `t` that its own effect leaves; the
command ends in `settle t`, the state after the consequences that follow within it (Obligations.SettleQuiet: none in a quiet state). -/

open Sys2Proof Sys2Proof.Machine

/-- With a command at the front of its queue, one step is exec of that command on the state with the queue's rest; with an empty
queue one nanosecond of the reference clock passes (the model's choice, log entry 1). (R41, 95_what_each_step_holds.md) -/
def Obligations.StepTakesFront : Prop :=
  (∀ (c : Instr) (r : List Instr) (s : State), step { s with pending := c :: r } = exec c { s with pending := r })
    ∧ ∀ s : State, s.pending = [] → step s = .next (tick s)

/-- On an empty queue (the model's choice, log entry 1) the reference time advances by 1 ns, device time by 1 ns plus at most one
unit of 2^-16 ns toward an outstanding correction, of which as much is gone; while no correction is outstanding device time
advances by exactly 1 ns; and no register, memory, port or queue changes. (R68, R70) -/
def Obligations.TickAdvancesTime : Prop :=
  ∀ s : State, s.pending = [] → s.clk.ns < 2 ^ 62 → s.clk.frac < 2 ^ 16 → ∃ t, step s = .next t
    ∧ t.tim.ref = s.tim.ref + 1
    ∧ t.clk.fine - s.clk.fine + t.tim.slew = 65536 + s.tim.slew
    ∧ s.clk.fine + 65535 ≤ t.clk.fine ∧ t.clk.fine ≤ s.clk.fine + 65537
    ∧ t.tim.slew.natAbs ≤ s.tim.slew.natAbs
    ∧ (s.tim.slew = 0 → t.clk = ⟨s.clk.ns + 1, s.clk.frac⟩ ∧ t.tim.slew = 0)
    ∧ t = { s with clk := t.clk, tim := t.tim }

/-- Where no source waits for its class action, nothing is due, no reset is in progress, no block is fenced, the device is not in
safe state, no boot request and no completion waits, nothing waits in the ground for a unit or a cell, no request or access is
outstanding, no plan of a step and no data work of a clause goes on, and every turn with work left still has ready work,
settling changes nothing (that consequences are settled within the command is the model's choice, log entry 28). (R422, R426,
R31, R53, 95_what_each_step_holds.md) -/
def Obligations.SettleQuiet : Prop :=
  ∀ s : State, Quiet s → settle s = s

/-- State.reset is quiet and canonical and its queue is empty; every port is DISABLED, every partition FREE, every GEN of a unit's
page 0 is 1, the time unit is FREE, CMB_CTL.READ_WINDOW is 2,000 and CLS_ALLOC shows 0x1F. (That device time starts at 0 is the
model's choice, log entry 24, and is not part of this statement.) (R45, R68, R340, R393, R430) -/
def Obligations.ResetLeavesQuiet : Prop :=
  Quiet State.reset ∧ Canon State.reset ∧ State.reset.pending = []
    ∧ linkState State.reset 7 = lsDISABLED ∧ partState State.reset 3 = 0 ∧ genOf State.reset grSHT 15 = 1
    ∧ timState State.reset = tsFREE ∧ rdF State.reset (CMB_CTL 2) CMB_CTL_READ_WINDOW = 2000
    ∧ rdF State.reset CLS_ALLOC CLS_ALLOC_SLOT = 0x1F

/-- From every state whose registers, control-die memory, tile SRAM and pool memory are in canonical form (keys strictly rising, no
entry equal to what an unlisted address reads as) a step leads only to states in that form. Canonical form is the model's own
way to hold these memories, so that equal memories are equal data. (R38, R45, R50, R127, R239) -/
def Obligations.StepKeepsCanon : Prop :=
  ∀ s t : State, Canon s → step s = .next t → Canon t

/-- Whatever a command does, the commands that wait behind it stay, in their order: a step's next state holds the queue without its
first command (one queue for all senders is the model's choice, log entry 78). (95_what_each_step_holds.md, R41) -/
def Obligations.CommandsLeaveTheQueue : Prop :=
  ∀ s t : State, step s = .next t → t.pending = s.pending.tail

/-- For every header whose fields fit their widths, the 128-bit number of Table LSA-1 fits 16 bytes, and decoding it, also from the
16 bytes in which it travels, gives the header again, field by field. (R271) -/
def Obligations.HeaderRoundTrip : Prop :=
  ∀ h : Hdr, h.fits = true → h.enc < 2 ^ 128 ∧ Hdr.dec h.enc = h ∧ Hdr.dec (leNat (leBytes 16 h.enc)) = h

/-- For every segment with a header that fits and 232 payload bytes, and every trailer whose fields fit (Table LNK-2), the flit has
256 bytes, its LCRC holds, its trailer reads back, and its body gives the segment again. (R272, R330, R331) -/
def Obligations.FlitRoundTrip : Prop :=
  ∀ (g : Seg) (t : Trailer), g.hdr.fits = true → g.pay.length = 232 →
    t.lseq < 256 → t.lack < 256 → t.ccount < 256 → t.ctc < 8 → t.kind < 8 →
    (mkFlit g.body t).length = 256 ∧ flitOk (mkFlit g.body t) = true
      ∧ trailerOf (mkFlit g.body t) = t ∧ Seg.ofBody (bodyOf (mkFlit g.body t)) = g

/-- The segments of a message carry 232 payload bytes each, number their SEQ upward from the given one, exactly the last has LAST,
the payloads in order hold the message's payload, and every HCRC is the one of R276. (R271, R272, R276) -/
def Obligations.MessageSegments : Prop :=
  ∀ (m : Msg) (q : Nat), m.pay ≠ [] →
    (m.segs q).length = (m.pay.length + 231) / 232
    ∧ (∀ g ∈ m.segs q, g.pay.length = 232)
    ∧ ((m.segs q).flatMap (·.pay)).take m.pay.length = m.pay
    ∧ (∀ i g, (m.segs q)[i]? = some g → g.hdr.seq = (q + i) % 65536
        ∧ g.hdr.last = decide (i + 1 = (m.segs q).length) ∧ g.hdr.hcrc = g.hcrcOf (i == 0))

/-- Setting a field of a register to a value that fits gives that value at the next read of the field, leaves every field that does
not overlap it and every other register as they were, and changes nothing else. (R38, R44) -/
def Obligations.RegisterFieldLaw : Prop :=
  ∀ (s : State) (a : Nat) (f : Fld) (v : Nat), f.lo + f.width ≤ 64 → v < 2 ^ f.width →
    rdF (wrF s a f v) a f = v
    ∧ (∀ g : Fld, g.lo + g.width ≤ 64 → (g.lo + g.width ≤ f.lo ∨ f.lo + f.width ≤ g.lo) → rdF (wrF s a f v) a g = rdF s a g)
    ∧ OnlyRegs [a] s (wrF s a f v)

/-- After bytes are stored at an address of control-die memory, reading there gives them, every byte outside them reads as before,
and nothing but that memory changes. (R50, R445) -/
def Obligations.ControlMemoryLaw : Prop :=
  ∀ (s : State) (a : Nat) (d : Bytes),
    cdRead (cdWrite s a d) a d.length = d
    ∧ (∀ b, b < a ∨ a + d.length ≤ b → cdByte (cdWrite s a d) b = cdByte s b)
    ∧ cdWrite s a d = { s with cdmem := (cdWrite s a d).cdmem }

/-- A write of another size than 8 bytes, or to an address that no register has (and that no clause in its guard interval names),
completes with an error: the answer is the error flag and zero, CSR_ACCESS in the CHP page of unit 0 is set, and every register
but that sticky register, and all memory, is as before. A write of SHT_SLICE of an engine whose region is not parked, and that
no guard interval holds, takes QUANTUM from the value, keeps the reserved bits, answers without an error, and changes no other
register. (R41, R418, R44, R31, R34) -/
def Obligations.CsrWrites : Prop :=
  (∀ (s : State) (a size : Nat) (w : Word), size ≠ 8 ∨ (regRow? a = none ∧ guardOf s a = none) →
      ∃ t, exec (.csrWrite [] a size w) s = .next (settle t) ∧ t.reply = ⟨true, 0⟩ ∧ stickySet t srcCHP_CSR_ACCESS 0 = true
        ∧ (∀ b, b ≠ G_ERR_STICKY grCHP 0 0 → rdReg t b = rdReg s b)
        ∧ t.cdmem = s.cdmem ∧ t.sram = s.sram ∧ t.mem = s.mem ∧ t.ground = s.ground ∧ t.ports = s.ports ∧ t.clk = s.clk)
  ∧ (∀ (s : State) (n : Nat) (w : Word), n < 16 → guardOf s (SHT_SLICE n) = none → unitParked s grSHT n = false →
      ∃ t, exec (.csrWrite [] (SHT_SLICE n) 8 w) s = .next (settle t) ∧ t.reply = ⟨false, 0⟩
        ∧ rdF t (SHT_SLICE n) SHT_SLICE_QUANTUM = SHT_SLICE_QUANTUM.get w
        ∧ rdReg t (SHT_SLICE n) &&& ~~~0xFF#64 = rdReg s (SHT_SLICE n) &&& ~~~0xFF#64
        ∧ (∀ b, b ≠ SHT_SLICE n → rdReg t b = rdReg s b) ∧ t.cdmem = s.cdmem ∧ t.mem = s.mem)

/-- On a page that exists, of a unit that is not parked, and with no guard interval on the register: ERR_STICKY_CLEAR while no cause
persists clears exactly the bits that are 1 in the value, is answered without an error and leaves every other register and all
other state as it was; while one cause other than a hang persists, the bit of its source stays as it was; ERR_INJECT with INJECT
of SEC_DEBUG set and debug of the unit allowed is answered without an error and leaves set the sticky bit of every source of the
page that the value names. (R418, R44, R43, R412) -/
def Obligations.StickyBitsClear : Prop :=
  (∀ (s : State) (g u p : Nat) (w : Word), g < 22 → u < 4096 → p < 16 → pageExists (G_ERR_STICKY g u p) = true →
    guardOf s (G_ERR_STICKY g u p) = none → unitParked s g u = false → s.flt.causes = [] →
    ∃ t, exec (.errStickyClear g u p w) s = .next (settle t) ∧ t.reply = ⟨false, 0⟩
      ∧ rdReg t (G_ERR_STICKY g u p) = rdReg s (G_ERR_STICKY g u p) &&& ~~~w
      ∧ OnlyRegs [G_ERR_STICKY g u p] s { t with reply := s.reply })
  ∧ (∀ (s : State) (g u p : Nat) (w : Word) (c : Cause), g < 22 → u < 4096 → p < 16 → pageExists (G_ERR_STICKY g u p) = true →
    guardOf s (G_ERR_STICKY g u p) = none → unitParked s g u = false → s.flt.causes = [c] → c.src.bit ≠ 15 →
    ∃ t, exec (.errStickyClear g u p w) s = .next (settle t) ∧ t.reply = ⟨false, 0⟩
      ∧ stickySet t c.src c.unit = stickySet s c.src c.unit)
  ∧ ∀ (s : State) (g u p : Nat) (w : Word), g < 22 → u < 4096 → p < 16 → pageExists (G_ERR_INJECT g u p) = true →
    guardOf s (G_ERR_INJECT g u p) = none → unitParked s g u = false →
    rdBit s SEC_DEBUG SEC_DEBUG_INJECT = true → debugAllowed s g u = true →
    ∃ t, exec (.errInject g u p w) s = .next (settle t) ∧ t.reply = ⟨false, 0⟩
      ∧ ∀ x ∈ pageSources g u p, bit w.toNat x.1 = true → stickySet t ⟨g, p, x.1⟩ u = true

/-- Asked of a unit that is not parked, with no reset in progress, no clause that names it and no request that would carry the new
generation (R431), CONTEXT_RESET of a bobbin of a compute region advances the bobbin's GEN and discards its work, ENGINE_RESET
of a tile block advances the block's GEN, and the reset is in progress for the page that asked. RESET_DONE of the engine reset
of a tile block in progress, with no request at the homes, takes it from the resets in progress and sets LAST of the page that
asked to 1; RESET_ESCALATED of a chip reset in progress abandons it, counts in FLT_ESCALATIONS, raises RESET_ESCALATED, and asks
for a power cycle where FLT_AUTO.POWER is set. (R126, R426, R427, R430, R422) -/
def Obligations.Resets : Prop :=
  ((∀ (s : State) (n c : Nat), n < 16 → c < 256 → unitParked s grCRG n = false →
      s.flt.jobs = [] → s.cls = [] → genHeld s ⟨.context, grCRG, n, c⟩ = false →
      ∃ t, exec (.contextReset grCRG n 0 c) s = .next (settle t) ∧ t.reply = ⟨false, 0⟩
        ∧ genOf t grBOB (256 * n + c) = (genOf s grBOB (256 * n + c) + 1) % 256 ∧ bobOf t (256 * n + c) = {}
        ∧ t.flt.jobs = [{ scope := ⟨.context, grCRG, n, c⟩, began := s.flt.stamp, askers := [csrAddr grCRG n 0 0] }])
    ∧ ∀ (s : State) (u : Nat), u < 272 → unitParked s grTBK u = false →
      s.flt.jobs = [] → s.cls = [] →
      ∃ t, exec (.engineReset grTBK u 0) s = .next (settle t) ∧ t.reply = ⟨false, 0⟩
        ∧ genOf t grTBK u = (genOf s grTBK u + 1) % 256
        ∧ t.flt.jobs = [{ scope := ⟨.engine, grTBK, u, 0⟩, began := s.flt.stamp, askers := [csrAddr grTBK u 0 0] }])
  ∧ ((∀ (s : State) (u : Nat), u < 272 → s.mem.reqs = [] → s.mem.txns = [] → s.flt.jobs = [{ scope := ⟨.engine, grTBK, u, 0⟩, began := s.flt.stamp - 1, askers := [csrAddr grTBK u 0 0] }] →
      ∃ t, exec (.resetDone 1 grTBK u 0) s = .next (settle t) ∧ t.flt.jobs = []
        ∧ rdF t (G_RESET_CTL grTBK u 0) G_RESET_CTL_LAST = 1)
    ∧ ∀ s : State, s.flt.jobs = [{ scope := ⟨.chip, 0, 0, 0⟩, began := s.flt.stamp - 1, askers := [] }] →
      ∃ t, exec (.resetEscalated 4 0 0 0) s = .next (settle t) ∧ t.flt.jobs = []
        ∧ stickySet t srcFLT_RESET_ESCALATED 0 = true ∧ rdReg t FLT_ESCALATIONS = rdReg s FLT_ESCALATIONS + 1
        ∧ t.flt.powerAsked = (s.flt.powerAsked || rdBit s FLT_AUTO FLT_AUTO_POWER))

/-- TIM_NOW_READ answers device time in nanoseconds and puts the fraction of the same instant into TIM_FRAC, and no other register,
memory or port changes. While no schedule domain is bound, TIM_SET makes device time the value written and ends an outstanding
slew, and nothing else but the answer changes; while one is bound the write is answered with an error and changes nothing. (That
the fraction becomes 0 is the model's reading, log entry 40, and is stated as such.) With the PTP source selected, PTP_SYNC
shows the offset in TIM_OFFSET, and while no domain is bound takes it from device time at once; while one is bound it leaves
device time and slews it instead. With the PPS source selected, an edge at a whole second shows the offset 0 and leaves device
time where it is. (R68, R41, R70, R69) -/
def Obligations.DeviceTime : Prop :=
  (∀ s : State, s.clk.frac < 2 ^ 16 →
      ∃ t, exec .timNowRead s = .next (settle t) ∧ t.reply = ⟨false, BitVec.ofNat 64 s.clk.ns⟩
        ∧ rdF t TIM_FRAC TIM_FRAC_FRAC = s.clk.frac ∧ OnlyRegs [TIM_FRAC] s { t with reply := s.reply })
  ∧ (∀ (s : State) (w : Word), guardOf s TIM_SET = none →
      (anyBound s = false → exec (.timSet w) s
        = .next (settle { s with clk := ⟨w.toNat, 0⟩, tim := { s.tim with slew := 0 }, reply := ⟨false, 0⟩ }))
      ∧ (anyBound s = true → exec (.timSet w) s = .next (settle { s with reply := ⟨true, 0⟩ })))
  ∧ ((∀ (s : State) (off : Int), rdF s TIM_SOURCE TIM_SOURCE_KIND = 1 →
      ∃ t, exec (.ptpSync off) s = .next (settle t) ∧ rdF t TIM_OFFSET TIM_OFFSET_OFFSET = clampPs off
        ∧ (anyBound s = false → t.clk = stampOf (s.clk.fine - off * 65536 / 1000))
        ∧ (anyBound s = true → t.clk = s.clk ∧ t.tim.slew = -(off * 65536 / 1000)))
    ∧ ∀ s : State, rdF s TIM_SOURCE TIM_SOURCE_KIND = 2 → s.clk.ns < 2 ^ 64 → s.clk.ns % 1000000000 = 0 → s.clk.frac = 0 →
      ∃ t, exec .ppsInEdge s = .next (settle t) ∧ rdF t TIM_OFFSET TIM_OFFSET_OFFSET = 0 ∧ t.clk = s.clk)

/-- A LOCKED unit with a source that can be lost enters HOLDOVER and raises TIME_HOLDOVER; a unit in HOLDOVER whose limit passes
enters FREE and raises TIME_UNLOCKED; PPS_OUT goes high for 1 ms of reference time and changes nothing else; a mark that is due
on an ACTIVE port waits for its slot. (R69, R71, R72, R480) -/
def Obligations.TimeStates : Prop :=
  (∀ s : State, timState s = tsLOCKED → 1 ≤ rdF s TIM_SOURCE TIM_SOURCE_KIND → rdF s TIM_SOURCE TIM_SOURCE_KIND ≤ 3 →
    ∃ t, exec .timeHoldover s = .next (settle t) ∧ timState t = tsHOLDOVER ∧ stickySet t srcTIM_TIME_HOLDOVER 0 = true ∧ t.clk = s.clk)
  ∧ (∀ s : State, timState s = tsHOLDOVER →
    ∃ t, exec .timeUnlocked s = .next (settle t) ∧ timState t = tsFREE ∧ stickySet t srcTIM_TIME_UNLOCKED 0 = true ∧ t.clk = s.clk)
  ∧ (∀ s : State, exec .ppsOut s = .next (settle { s with tim := { s.tim with ppsUntil := s.tim.ref + 1000000 } }))
  ∧ ∀ (s : State) (p : Nat), linkState s p = lsACTIVE →
    ∃ t, exec (.timeMarkTx p) s = .next (settle t) ∧ (portOf t p).markDue = true ∧ OnlyPort p s t

/-- At ROUND_START of a bound, started domain for which no clause waits, TIM_DOM_POS reads the next round index; if a SLIP for the
round that ends is held, the new round is a slip round and TIM_DOM_SCHED stays; if none is held it is a scheduled round and
TIM_DOM_SCHED advances by one. (R74, R75, R90) -/
def Obligations.RoundsAdvance : Prop :=
  ∀ (s : State) (d : Nat), d < 4 → domBound s d = true → (domOf s d).started = true → s.cls = [] →
    roundOf s d + 1 < 2 ^ 64 → schedOf s d + 1 < 2 ^ 64 → s.bobs = [] → s.colls = [] → s.sets = [] → s.waitContribs = [] →
    domCRGs s d = [] → domPRGs s d = [] →
    ∃ t, exec (.roundStart d) s = .next (settle t) ∧ roundOf t d = roundOf s d + 1
      ∧ ((domOf s d).held.contains (roundOf s d) = true → inSlip t d = true ∧ schedOf t d = schedOf s d)
      ∧ ((domOf s d).held.contains (roundOf s d) = false → inSlip t d = false ∧ schedOf t d = schedOf s d + 1)

/-- In a scheduled round a gate entry that is neither the last of the list nor marked LAST hands over to the next one at
GATE_ENTRY_NEXT, and nothing else changes; a decision instant of a domain unit without regions, with no tile waiting, only notes
that the round is decided; a SLIP that arrives on a port of the domain for a round not yet over, and which was not sent before,
is held and noted as sent, counted as forwarded where the domain has another port, and goes out of those ports with HOPS one
higher. A TILE for a region that no domain binds, which is no forward copy for a multicast group, waits behind the tiles that
wait already, marked by whether an EGRESS of this device sent it; nothing else changes. (R78, R88, R89, R90, R82, R120, R273) -/
def Obligations.RoundEvents : Prop :=
  ((∀ (s : State) (n d : Nat), prgDom s n = some d → inSlip s d = false → bit (gateEntry s n (bankInForce s d) (gatePos s n).entry) 30 = false →
      (gatePos s n).entry < 255 →
      ∃ t, exec (.gateEntryNext n) s = .next (settle t) ∧ gatePos t n = ⟨(gatePos s n).entry + 1, s.tim.ref⟩ ∧ t = { s with gates := t.gates })
    ∧ (∀ (s : State) (d : Nat), domBound s d = true → (domOf s d).started = true → (domOf s d).decided = false →
      domCRGs s d = [] → domPRGs s d = [] → s.tiles = [] → GroundIdle s →
      ∃ t, exec (.decisionInstant d) s = .next (settle t) ∧ domOf t d = { domOf s d with decided := true } ∧ t = { s with doms := t.doms })
    ∧ ∀ (s : State) (p d : Nat) (m : Msg), GroundIdle s → m.hdr.type = tCTRL → m.hdr.tc = 6 → domById s (leAt m.pay 0 2) = some d →
      (domPorts s d).contains (gangBase s p) = true →
      (domOf s d).cutRound ≤ leAt m.pay 8 8 → roundOf s d ≤ leAt m.pay 8 8 → (domOf s d).sent.contains (leAt m.pay 8 8) = false →
      let x := domOf s d
      let held := setDom s d { x with sent := x.sent ++ [leAt m.pay 8 8], held := x.held ++ [leAt m.pay 8 8] }
      exec (.slip p m) s = .next (settle (sendSlip
        (if (domPorts s d).any (fun q => q != gangBase s p) then bump held (TIM_DOM_SLIPS_FWD (d + 1)) else held) d (some (gangBase s p))
        (bslice m.pay 0 5 ++ leBytes 1 ((leAt m.pay 5 1 + 1) % 256) ++ bslice (m.pay.drop 6) 0 18))))
  ∧ (∀ (s : State) (prg n : Nat) (m : Msg), n < 16 → crgDom s n = none → m.hdr.dint = true → m.hdr.dst % 4096 = 0x100 + n →
      groupCopy s m.hdr = false → GroundIdle s → m.hdr.type = tTILE → (m.hdr.tc = 7 ∨ m.hdr.tc = 0) →
      exec (.tile prg m) s
        = .next (settle { s with tiles := s.tiles ++ [⟨n, m, m.hdr.tc == 7, m.hdr.sint && m.hdr.src / 4096 == ownId s, []⟩] }))

/-- Signal takes a port from DETECT to EQUALIZE, completion of equalisation to ALIGN, lock to PARAM, and AUTO_RETRY of its gang's
base port takes a port that is not under test from DOWN to DETECT, each changing PRT_LINK_STATE alone; lock in RETRAIN is noted
in the port; in ALIGN, PARAM and RETRAIN the port sends a TRAIN flit with its own block and stays in its state. (R340) -/
def Obligations.LinkTrains : Prop :=
  (∀ (s : State) (p : Nat), linkState s p = lsDETECT →
    ∃ t, exec (.linkDetect p) s = .next (settle t) ∧ linkState t p = lsEQUALIZE ∧ OnlyRegs [PRT_LINK_STATE p] s t)
  ∧ (∀ (s : State) (p : Nat), linkState s p = lsEQUALIZE →
    ∃ t, exec (.equalizeDone p) s = .next (settle t) ∧ linkState t p = lsALIGN ∧ OnlyRegs [PRT_LINK_STATE p] s t)
  ∧ (∀ (s : State) (p : Nat), linkState s p = lsALIGN →
    ∃ t, exec (.alignLock p) s = .next (settle t) ∧ linkState t p = lsPARAM ∧ OnlyRegs [PRT_LINK_STATE p] s t)
  ∧ (∀ (s : State) (p : Nat), linkState s p = lsRETRAIN →
    ∃ t, exec (.alignLock p) s = .next (settle t) ∧ (portOf t p).locked = true ∧ OnlyPort p s t)
  ∧ (∀ (s : State) (p : Nat), linkState s p = lsDOWN → linkCfg s p PRT_LINK_CFG_AUTO_RETRY ≠ 0 → (portOf s p).looped = false →
    ∃ t, exec (.autoRetry p) s = .next (settle t) ∧ linkState t p = lsDETECT ∧ OnlyRegs [PRT_LINK_STATE p] s t)
  ∧ ∀ (s : State) (p : Nat), s.flt.safe = false → training (linkState s p) = true →
    ∃ t, exec (.trainTx p) s = .next (settle t)
      ∧ (portOf t p).out = mkFlit (trainBody s p) ⟨(portOf s p).nextSeq, 0, 0, 0, kTRAIN, false⟩
      ∧ rdReg t (PRT_FLITS_TX p) = rdReg s (PRT_FLITS_TX p) + 1 ∧ linkState t p = linkState s p

/-- On a port that is no gang, with no flit in the ground where it goes DOWN: ACTIVE and lock lost or RETRAIN_REQ gives RETRAIN with
LINK_RETRAIN, counted in PRT_RETRAINS; a training limit in EQUALIZE, ALIGN or RETRAIN gives DOWN with LINK_DOWN, in PARAM DOWN
with LINK_PARAM; the fourth FAULT_IDLE in a row in ACTIVE or RETRAIN gives DOWN with PEER_FAULT_IDLE and LINK_DOWN. (R340, R349) -/
def Obligations.LinkFalls : Prop :=
  (∀ (s : State) (p : Nat), p < 256 → gangBase s p = p → gangWidth s p = 1 → linkState s p = lsACTIVE →
    ∃ t, exec (.lockLost p) s = .next (settle t) ∧ linkState t p = lsRETRAIN ∧ stickySet t srcPRT_LINK_RETRAIN p = true
      ∧ rdReg t (PRT_RETRAINS p) = rdReg s (PRT_RETRAINS p) + 1)
  ∧ (∀ (s : State) (p : Nat) (f : Bytes), p < 256 → gangBase s p = p → gangWidth s p = 1 → linkState s p = lsACTIVE → s.flt.safe = false →
    flitOk f = true → (trailerOf f).kind = kCONTROL → (trailerOf f).ackValid = false → leAt f 0 1 = 2 →
    ∃ t, exec (.retrainReq p f 0 none) s = .next (settle t) ∧ linkState t p = lsRETRAIN ∧ stickySet t srcPRT_LINK_RETRAIN p = true
      ∧ rdReg t (PRT_RETRAINS p) = rdReg s (PRT_RETRAINS p) + 1)
  ∧ (∀ (s : State) (p : Nat), p < 256 → gangBase s p = p → gangWidth s p = 1 → s.ground.cells = [] → s.ground.waiting = [] →
    (linkState s p = lsEQUALIZE ∨ linkState s p = lsALIGN ∨ linkState s p = lsRETRAIN) →
    ∃ t, exec (.linkTrainTimeout p) s = .next (settle t) ∧ linkState t p = lsDOWN ∧ stickySet t srcPRT_LINK_DOWN p = true)
  ∧ (∀ (s : State) (p : Nat), p < 256 → gangBase s p = p → gangWidth s p = 1 → s.ground.cells = [] → s.ground.waiting = [] →
    linkState s p = lsPARAM →
    ∃ t, exec (.linkTrainTimeout p) s = .next (settle t) ∧ linkState t p = lsDOWN ∧ stickySet t srcPRT_LINK_PARAM p = true)
  ∧ ∀ (s : State) (p : Nat) (f : Bytes), p < 256 → gangBase s p = p → gangWidth s p = 1 →
    (linkState s p = lsACTIVE ∨ linkState s p = lsRETRAIN) → s.flt.safe = false →
    s.ground.cells = [] → s.ground.waiting = [] → flitOk f = true → (trailerOf f).kind = kFAULT_IDLE → (portOf s p).faultRun = 3 →
    ∃ t, exec (.faultIdle p f 0 none) s = .next (settle t) ∧ linkState t p = lsDOWN ∧ stickySet t srcPRT_PEER_FAULT_IDLE p = true
      ∧ stickySet t srcPRT_LINK_DOWN p = true

/-- In PARAM, a good TRAIN flit with a valid block that does not yet acknowledge this port's block is kept as the peer's, and the
port stays in PARAM; with one that acknowledges it, or where the port's block was acknowledged before, the port (with no flit
queued) is ACTIVE and shows the peer's switch; one whose VERSION, credits or GANG are not valid raises LINK_PARAM and leaves the
port in PARAM. (R339, R342) -/
def Obligations.LinkActiveByParameters : Prop :=
  (∀ (s : State) (p : Nat) (f : Bytes), s.flt.safe = false → linkState s p = lsPARAM → flitOk f = true → (trailerOf f).kind = kTRAIN →
    leAt f 0 1 = 1 → (Peer.ofBody f).credits.any (· == 0) = false → (Peer.ofBody f).gang = ownGang s p → (portOf s p).ownAcked = false →
    leAt f 25 1 ≠ 1 →
    ∃ t, exec (.train p f 0 none) s = .next (settle t) ∧ (portOf t p).peer = some (Peer.ofBody f) ∧ linkState t p = lsPARAM)
  ∧ (∀ (s : State) (p : Nat) (f : Bytes), s.flt.safe = false → linkState s p = lsPARAM → s.ground.cells = [] → s.ground.waiting = [] →
    flitOk f = true → (trailerOf f).kind = kTRAIN → leAt f 0 1 = 1 → (Peer.ofBody f).credits.any (· == 0) = false →
    (Peer.ofBody f).gang = ownGang s p → ((portOf s p).ownAcked = true ∨ leAt f 25 1 = 1) →
    ∃ t, exec (.train p f 0 none) s = .next (settle t) ∧ (portOf t p).peer = some (Peer.ofBody f) ∧ linkState t p = lsACTIVE
      ∧ rdF t (PRT_LINK_STATE p) PRT_LINK_STATE_PEER_SWITCH = (Peer.ofBody f).switch)
  ∧ ∀ (s : State) (p : Nat) (f : Bytes), s.flt.safe = false → linkState s p = lsPARAM → flitOk f = true → (trailerOf f).kind = kTRAIN →
    (leAt f 0 1 ≠ 1 ∨ (Peer.ofBody f).credits.any (· == 0) = true ∨ (Peer.ofBody f).gang ≠ ownGang s p) →
    ∃ t, exec (.train p f 0 none) s = .next (settle t) ∧ stickySet t srcPRT_LINK_PARAM p = true ∧ linkState t p = lsPARAM

/-- On an ACTIVE port that is no gang, a good DATA flit with LSEQ = LACK + 1 advances LACK to it and its segment enters the ground;
one with another LSEQ, or one that fails its LCRC, leaves LACK, makes one RETRY_REQ due and discards until the missing flit
comes. (R329, R331, R334) -/
def Obligations.DataFlitsInOrder : Prop :=
  (∀ (s : State) (p : Nat) (f : Bytes), s.flt.safe = false → linkState s p = lsACTIVE → gangBase s p = p → gangWidth s p = 1 →
    flitOk f = true → (trailerOf f).kind = kDATA → (trailerOf f).ackValid = false → (trailerOf f).lseq = ((portOf s p).lack + 1) % 256 →
    ∃ t, exec (.flitData p f 0 none) s = .next (settle (groundIn p (Seg.ofBody (bodyOf f)) t))
      ∧ (portOf t p).lack = (trailerOf f).lseq ∧ (portOf t p).discarding = false ∧ rdReg t (PRT_FLITS_RX p) = rdReg s (PRT_FLITS_RX p) + 1)
  ∧ (∀ (s : State) (p : Nat) (f : Bytes), s.flt.safe = false → linkState s p = lsACTIVE → (portOf s p).discarding = false →
    flitOk f = true → (trailerOf f).kind = kDATA → (trailerOf f).ackValid = false → (trailerOf f).lseq ≠ ((portOf s p).lack + 1) % 256 →
    ∃ t, exec (.flitData p f 0 none) s = .next (settle t) ∧ (portOf t p).lack = (portOf s p).lack
      ∧ (portOf t p).retryDue = true ∧ (portOf t p).discarding = true ∧ t.ground = s.ground)
  ∧ ∀ (s : State) (p : Nat) (f : Bytes), linkState s p = lsACTIVE → (portOf s p).discarding = false → flitOk f = false →
    ∃ t, exec (.flitData p f 0 none) s = .next (settle t) ∧ (portOf t p).lack = (portOf s p).lack
      ∧ (portOf t p).retryDue = true ∧ (portOf t p).discarding = true ∧ rdReg t (PRT_CRC_FAIL p) = rdReg s (PRT_CRC_FAIL p) + 1
      ∧ t.ground = s.ground

/-- On an ACTIVE port, a good IDLE flit whose LACK names a buffered flit leaves in the replay buffer exactly the flits after that
one; a good RETRY_REQ for the flit before the oldest buffered one makes the whole buffer due again in order and counts in
PRT_REPLAYS; REPLAY_TIMEOUT with flits buffered does the same. (R333, R335) -/
def Obligations.AcknowledgementsAndReplays : Prop :=
  (∀ (s : State) (p : Nat) (f : Bytes) (pre post : List (Nat × Bytes)) (b : Bytes), s.flt.safe = false → linkState s p = lsACTIVE →
    gangBase s p = p → flitOk f = true → (trailerOf f).kind = kIDLE → (trailerOf f).ackValid = true →
    (portOf s p).buf = pre ++ ((trailerOf f).lack, b) :: post → (∀ x ∈ pre, x.1 ≠ (trailerOf f).lack) →
    ∃ t, exec (.idle p f 0 none) s = .next (settle t) ∧ (portOf t p).buf = post ∧ (portOf t p).replays = 0 ∧ linkState t p = lsACTIVE)
  ∧ (∀ (s : State) (p : Nat) (f : Bytes) (q : Nat) (b : Bytes) (r : List (Nat × Bytes)), s.flt.safe = false → linkState s p = lsACTIVE →
    flitOk f = true → (trailerOf f).kind = kRETRY_REQ → (trailerOf f).ackValid = false → (portOf s p).buf = (q, b) :: r →
    q = ((trailerOf f).lack + 1) % 256 → ((portOf s p).buf.any fun x => x.1 == (trailerOf f).lack) = false →
    (portOf s p).replays < max 1 (linkCfg s p PRT_LINK_CFG_RETRY_LIMIT) →
    ∃ t, exec (.retryReq p f 0 none) s = .next (settle t) ∧ (portOf t p).replay = (portOf s p).buf.map (·.1)
      ∧ (portOf t p).buf = (portOf s p).buf ∧ rdReg t (PRT_REPLAYS p) = rdReg s (PRT_REPLAYS p) + 1)
  ∧ ∀ (s : State) (p : Nat), linkState s p = lsACTIVE → (portOf s p).buf ≠ [] →
    (portOf s p).replays < max 1 (linkCfg s p PRT_LINK_CFG_RETRY_LIMIT) →
    ∃ t, exec (.replayTimeout p) s = .next (settle t) ∧ (portOf t p).replay = (portOf s p).buf.map (·.1)
      ∧ (portOf t p).buf = (portOf s p).buf ∧ rdReg t (PRT_REPLAYS p) = rdReg s (PRT_REPLAYS p) + 1

/-- A slot of an ACTIVE port with a RETRY_REQ due sends it before anything else, one in ALIGN, PARAM or RETRAIN sends IDLE, and one
of a device in safe state sends FAULT_IDLE with the LSEQ of the next new DATA flit; each is counted; a good TIME_MARK is kept
for the echo with the time of its arrival; GANG_CUT deals the lost member's unacknowledged flits again and raises GANG_DEGRADED
on the base port; a flit of reserved kind counts in PRT_CRC_FAIL and is not read. (R330, R332, R344, R349) -/
def Obligations.OtherFlits : Prop :=
  (∀ (s : State) (p : Nat), s.flt.safe = false → linkState s p = lsACTIVE → gangBase s p = p → (portOf s p).retryDue = true →
    ∃ t, exec (.flitSlotTx p) s = .next (settle t) ∧ (portOf t p).retryDue = false
      ∧ (trailerOf (portOf t p).out).kind = kRETRY_REQ ∧ rdReg t (PRT_FLITS_TX p) = rdReg s (PRT_FLITS_TX p) + 1)
  ∧ (∀ (s : State) (p : Nat), s.flt.safe = false → training (linkState s p) = true →
    ∃ t, exec (.flitSlotTx p) s = .next (settle t) ∧ (trailerOf (portOf t p).out).kind = kIDLE
      ∧ rdReg t (PRT_FLITS_TX p) = rdReg s (PRT_FLITS_TX p) + 1 ∧ linkState t p = linkState s p)
  ∧ (∀ (s : State) (p : Nat), s.flt.safe = true → linkState s p ≠ lsDISABLED → (portOf s p).nextSeq < 256 →
    ∃ t, exec (.flitSlotTx p) s = .next (settle t) ∧ (trailerOf (portOf t p).out).kind = kFAULT_IDLE
      ∧ (trailerOf (portOf t p).out).lseq = (portOf s p).nextSeq ∧ rdReg t (PRT_FLITS_TX p) = rdReg s (PRT_FLITS_TX p) + 1)
  ∧ (∀ (s : State) (p : Nat) (f : Bytes), s.flt.safe = false → linkState s p = lsACTIVE → flitOk f = true →
    (trailerOf f).kind = kTIME_MARK → (trailerOf f).ackValid = false → bit (leAt (bodyOf f) 34 1) 2 = false →
    rdF s TIM_SOURCE TIM_SOURCE_KIND ≠ 3 →
    ∃ t, exec (.timeMark p f 0 none) s = .next (settle t)
      ∧ (portOf t p).lastMark = some ⟨stampAt (bodyOf f) 0, s.clk, leAt (bodyOf f) 10 2⟩ ∧ t.clk = s.clk)
  ∧ (∀ (s : State) (p : Nat) (f : Bytes), p < 256 → s.flt.safe = false → linkState s p = lsACTIVE → gangBase s p = p → flitOk f = true →
    (trailerOf f).kind = kCONTROL → (trailerOf f).ackValid = false → leAt f 0 1 = 1 → leAt f 1 1 = 1 → gangWidth s p = 2 →
    ((portOf s (p + 1)).buf.any fun x => x.1 == leAt f 2 1) = false →
    ∃ t, exec (.gangCut p f 0 none) s = .next (settle t) ∧ (portOf t (p + 1)).buf = []
      ∧ (portOf t p).redeal = (portOf s p).redeal ++ (portOf s (p + 1)).buf.map (·.2) ∧ stickySet t srcPRT_GANG_DEGRADED p = true)
  ∧ ∀ (s : State) (p c : Nat), exec (.flitReservedKind p c none) s
      = .next (settle (bump (bump s (PRT_FEC_CORR p) c) (PRT_CRC_FAIL p)))

/-- A refill of a token bucket adds RATE up to 256 × BURST and takes the written setting into force; one of a policer, with no flit
in the ground, refills its two buckets as R386 gives and takes its written setting into force; an idle flow that holds nothing
and is in the middle of no message is freed; OPEN_HOLD starts an OPENING flow at its lowest held SEQ; TIMEOUT and a full
resequencer (here of one flow) release a flow with their own count and source; what they free goes to the segments that wait;
ROUTE_HOLD_EXPIRE marks the change as timed, and while the old path holds a flit nothing is released. (R373, R376, R379, R380,
R383, R386) -/
def Obligations.TrafficControl : Prop :=
  (∀ (s : State) (p c : Nat), c < 5 →
    ∃ t, exec (.tokenRefill p c) s = .next (settle t)
      ∧ tokensOf t p c = min (256 * QOS_TB_TC_BURST.get (rdReg s (QOS_TB_TC p c))) (tokensOf s p c + QOS_TB_TC_RATE.get (rdReg s (QOS_TB_TC p c)))
      ∧ inForce t (QOS_TB_TC p c) = rdReg s (QOS_TB_TC p c) ∧ t.regs = s.regs)
  ∧ (∀ (s : State) (p v : Nat), v < 16 → s.ground.cells = [] →
    ∃ t, exec (.tokenRefill p (8 + v)) s = .next (settle t) ∧ inForce t (QOS_POL_VEP_A p v) = rdReg s (QOS_POL_VEP_A p v)
      ∧ inForce t (QOS_POL_VEP_B p v) = rdReg s (QOS_POL_VEP_B p v) ∧ t.regs = s.regs
      ∧ sget (fun _ => {}) t.ground.meters (meterKey p 0 v)
        = refilled (rdReg s (QOS_POL_VEP_A p v)) (rdReg s (QOS_POL_VEP_B p v)) (sget (fun _ => {}) s.ground.meters (meterKey p 0 v)))
  ∧ (∀ (s : State) (p c : Nat), c < 6 → s.ground.cells = [] →
    ∃ t, exec (.tokenRefill p (32 + c)) s = .next (settle t) ∧ inForce t (QOS_POL_TC_A p c) = rdReg s (QOS_POL_TC_A p c)
      ∧ inForce t (QOS_POL_TC_B p c) = rdReg s (QOS_POL_TC_B p c) ∧ t.regs = s.regs
      ∧ sget (fun _ => {}) t.ground.meters (meterKey p 1 c)
        = refilled (rdReg s (QOS_POL_TC_A p c)) (rdReg s (QOS_POL_TC_B p c)) (sget (fun _ => {}) s.ground.meters (meterKey p 1 c)))
  ∧ (∀ (s : State) (n src dst tc : Nat) (a b : Bool) (f : Flow), findFlow s n ⟨src, dst, tc, a, b⟩ = some f → f.held = [] → f.first = none → s.ground.cells = [] →
    ∃ t, exec (.reseqFlowIdle n src dst tc a b) s = .next (settle t) ∧ findFlow t n ⟨src, dst, tc, a, b⟩ = none ∧ t.regs = s.regs)
  ∧ (∀ (s : State) (n src dst tc : Nat) (a b : Bool) (f : Flow) (c : GCell), findFlow s n ⟨src, dst, tc, a, b⟩ = some f → f.e = none →
    lowestHeld (openBase f) f.held = some c →
    let x := runFlow (f.held.length + 1) s { f with e := some c.seg.hdr.seq }
    exec (.reseqOpenHold n src dst tc a b) s = .next (settle (drainWaiting (reseqRetry (putFlow x.1 x.2) n))))
  ∧ (∀ (s : State) (n src dst tc : Nat) (a b : Bool) (f : Flow), findFlow s n ⟨src, dst, tc, a, b⟩ = some f → f.held ≠ [] → f.e ≠ none →
    exec (.reseqTimeout n src dst tc a b) s
      = .next (settle (drainWaiting (reseqRetry (raise srcGND_RESEQ_TIMEOUT n (bump (reseqRelease s f) (GND_RESEQ_TIMEOUTS n))) n))))
  ∧ (∀ (s : State) (n : Nat) (f : Flow), s.ground.flows = [f] → f.prg = n → 4096 ≤ f.held.length →
    exec (.reseqForced n) s
      = .next (settle (drainWaiting (reseqRetry (raise srcGND_RESEQ_FORCED n (bump (reseqRelease s f) (GND_RESEQ_FORCED n))) n))))
  ∧ ∀ (s : State) (path : Nat) (h : RouteHold) (c : GCell), s.ground.routeHolds = [h] → h.path = path → c ∈ s.ground.cells →
    c.out = .port h.oldPort → c.hold = .none → c.seg.hdr.spray = false → c.stamp < h.at_ →
    exec (.routeHoldExpire path) s
      = .next (settle { s with ground := { s.ground with routeHolds := [{ h with timed := true }] } })

/-- A command that carries stores of the control-die cores acts as the same command without them on the state in which they were
made (that they come as operands is the model's choice, log entry 5). (R50, R107, R415) -/
def Obligations.StoresComeFirst : Prop :=
  ∀ (s : State) (st : List (Nat × Byte)),
    (∀ a n w, exec (.csrWrite st a n w) s = exec (.csrWrite [] a n w) (fwStores s st))
    ∧ (∀ n w, exec (.progLoad st n w) s = exec (.progLoad [] n w) (fwStores s st))
    ∧ (∀ c l p d, c < 16 → exec (.clsClose c st l p d) s = exec (.clsClose c [] l p d) (fwStores s st))
    ∧ exec (.attestGo st) s = exec (.attestGo []) (fwStores s st)

/-- CRG_PROG_LOAD with GO = 1, no load in progress and a bank that is not in use sets BUSY, clears RESULT and starts a load from
CRG_PROG_SRC; at PROG_LOAD_DONE RESULT tells how the image read from control-die memory passed its checks (7 where the read met
an error), BUSY is 0, and the bank holds the image and is VALID exactly where RESULT is 1. (R106, R107) -/
def Obligations.ProgramLoads : Prop :=
  (∀ (s : State) (n : Nat) (w : Word), n < 16 → guardOf s (CRG_PROG_LOAD n) = none → unitParked s grCRG n = false →
    CRG_PROG_LOAD_GO.get w = 1 → rdBit s (CRG_PROG_LOAD n) CRG_PROG_LOAD_BUSY = false → loadRefused s n (CRG_PROG_LOAD_BANK.get w) = false →
    ∃ t, exec (.progLoad [] n w) s = .next (settle t) ∧ rdBit t (CRG_PROG_LOAD n) CRG_PROG_LOAD_BUSY = true
      ∧ rdF t (CRG_PROG_LOAD n) CRG_PROG_LOAD_RESULT = 0
      ∧ t.progLoads = s.progLoads ++ [⟨n, CRG_PROG_LOAD_BANK.get w, CRG_PROG_LOAD_BYTES.get w, rdF s (CRG_PROG_SRC n) CRG_PROG_SRC_ADDR * 8⟩]
      ∧ t.banks = s.banks)
  ∧ ∀ (s : State) (n : Nat) (l : ProgLoad) (bad : Bool), n < 16 → s.progLoads = [l] → l.rgn = n → l.bank < 2 →
    let img := cdLoad s l.src l.bytes
    let r := if bad then 7 else imageCheck img l.bytes
    ∃ t, exec (.progLoadDone n bad) s = .next (settle t) ∧ t.progLoads = []
      ∧ progOf t n l.bank = (if r = 1 then img else [])
      ∧ rdF t (CRG_PROG_LOAD n) CRG_PROG_LOAD_RESULT = r ∧ rdBit t (CRG_PROG_LOAD n) CRG_PROG_LOAD_BUSY = false
      ∧ bit (rdF t (CRG_PROG_STATE n) CRG_PROG_STATE_VALID) l.bank = decide (r = 1)

/-- NOP advances the cursor; LOOP pushes a level and advances; NEXT returns behind the LOOP while iterations remain, and pops the
level and goes on after the last one; WAIT_ROUND of a scheduled bobbin without steps enters WAIT_ROUND, and END enters DONE once
no step is left. (R108, R111, R117, R122, R123) -/
def Obligations.DescriptorsRun : Prop :=
  (∀ (s : State) (b : Nat), BobRuns s b 0 → exec (.nopDesc b) s = .next (settle (setCursor b (bobCursor s b + 1) s)))
  ∧ (∀ (s : State) (b : Nat), BobRuns s b 2 → (bobOf s b).stack.length < 4 →
    ∃ t, exec (.loopDesc b) s = .next (settle t) ∧ (bobOf t b).stack = (bobOf s b).stack ++ [⟨bobCursor s b, 0,
        bits (descAt (bobProg s b) (bobCursor s b)) 151 128, bits (descAt (bobProg s b) (bobCursor s b)) 63 32,
        bits (descAt (bobProg s b) (bobCursor s b)) 207 192⟩]
      ∧ rdReg t (BOB_STATE b) = rdReg (setCursor b (bobCursor s b + 1) s) (BOB_STATE b))
  ∧ (∀ (s : State) (b : Nat) (r : List LoopLvl) (l : LoopLvl), BobRuns s b 3 → (bobOf s b).stack = r ++ [l] → l.i + 1 < l.count →
    ∃ t, exec (.nextDesc b) s = .next (settle t) ∧ (bobOf t b).stack = r ++ [{ l with i := l.i + 1 }]
      ∧ rdReg t (BOB_STATE b) = rdReg (setCursor b (l.start + 1) s) (BOB_STATE b))
  ∧ (∀ (s : State) (b : Nat) (r : List LoopLvl) (l : LoopLvl), BobRuns s b 3 → (bobOf s b).stack = r ++ [l] → l.count ≤ l.i + 1 →
    ∃ t, exec (.nextDesc b) s = .next (settle t) ∧ (bobOf t b).stack = r
      ∧ rdReg t (BOB_STATE b) = rdReg (setCursor b (bobCursor s b + 1) s) (BOB_STATE b))
  ∧ (∀ (s : State) (b : Nat), BobRuns s b 4 → bobSched s b = true → (bobOf s b).steps = [] →
    ∃ t, exec (.waitRoundDesc b) s = .next (settle t) ∧ bobState t b = bsWAIT_ROUND ∧ OnlyRegs [BOB_STATE b] s t)
  ∧ ∀ (s : State) (b : Nat), BobRuns s b 5 → (bobOf s b).steps = [] →
    ∃ t, exec (.endDesc b) s = .next (settle t) ∧ bobState t b = bsDONE ∧ OnlyRegs [BOB_STATE b] s t

/-- A STEP descriptor of a bobbin with no issued step and with read credit issues the step that it describes: the step joins the
bobbin's steps, its position goes on by one, BOB_POS shows the step's tile, and the cursor advances (a step whose plan lacks the
outcome of a read then goes on planning, the model's choice, log entry 127); a descriptor that describes no step faults the
bobbin with its code. A descriptor whose station exists, may run for this bobbin, is neither fenced nor in reset and plans no
reads of its own, and whose operands' runs lie in their areas, does describe a step: of that station, with the descriptor's rows
and columns and no unit done. Read data of the only step lowers its outstanding reads by one; STEP_COMPLETE of a step whose
units have run frees its place and counts it. (R117, R122, R123) -/
def Obligations.StepsIssue : Prop :=
  (∀ (s : State) (b : Nat) (e : BobEnt), BobRuns s b 1 → s.flt.safe = false → bobEnt (bobProg s b) (bobIdx b) = some e →
    (bobOf s b).steps = [] → 0 < e.maxReads →
    match nextStep s b e with
    | .inl code => exec (.stepDesc b) s
        = .next (settle (bobFault b code (bits (descAt (bobProg s b) (bobCursor s b)) 12 8) (bobCursor s b) 0
            (stepTile s b e (descAt (bobProg s b) (bobCursor s b))) none s))
    | .inr st => ∃ t, exec (.stepDesc b) s = .next (settle (if st.vague then replanStep b st.order t else t)) ∧ (bobOf t b).steps.length = 1 ∧ (bobOf t b).pos = (bobOf s b).pos + 1
        ∧ rdF t (BOB_POS b) BOB_POS_TILE = stepTile s b e (descAt (bobProg s b) (bobCursor s b))
        ∧ bobCursor t b = (bobCursor s b + 1) % 2 ^ 24 ∧ bobState t b = bsRUNNING)
  ∧ (∀ (s : State) (b : Nat) (e : BobEnt),
    let p := bobProg s b
    let d := descAt p (bobCursor s b)
    let x := stnOf p (bits d 12 8)
    let g := operandGran x (bits d 207 192) (bits d 214 208 + 1)
    let pl := fun (hi lo k : Nat) => operandPlace p e (bits d hi lo) (slotStride (bobOf s b).stack) (bit d (16 + k))
    BobRuns s b 1 → s.flt.safe = false → bobEnt p (bobIdx b) = some e → (bobOf s b).steps = [] → 0 < e.maxReads →
    bits d 12 8 < phStations p → (bobSched s b = true ∨ x.unsched = true) → planned x.type = none →
    blockFenced s grSTN (32 * bobRgn b + x.engine) = false → engineResetting s grSTN (32 * bobRgn b + x.engine) = false →
    runFits (pl 79 64 0) g.1 = true → runFits (pl 95 80 1) g.2.1 = true → runFits (pl 111 96 2) g.2.2.1 = true →
    runFits (pl 127 112 3) g.2.2.2 = true →
    ∃ t st, exec (.stepDesc b) s = .next (settle t) ∧ (bobOf t b).steps = [st] ∧ st.desc = bobCursor s b ∧ st.station = bits d 12 8
      ∧ st.type = x.type ∧ st.engine = x.engine ∧ st.rows = bits d 214 208 + 1 ∧ st.cols = bits d 221 215 + 1 ∧ st.unit = 0)
  ∧ (∀ (s : State) (b : Nat) (e : BobEnt) (st : Step), (bobOf s b).steps = [st] → 0 < st.reading → st.toRead = 0 →
    bobEnt (bobProg s b) (bobIdx b) = some e → bobState s b = bsRUNNING →
    ∃ t, exec (.readDataArrive b) s = .next (settle t) ∧ (bobOf t b).steps = [{ st with reading := st.reading - 1 }] ∧ t.regs = s.regs)
  ∧ ∀ (s : State) (b : Nat) (st : Step), b < 4096 → st.engine < 32 → (bobOf s b).steps = [st] → st.units ≤ st.unit → bobState s b = bsRUNNING →
    ∃ t, exec (.stepComplete b 0) s = .next (settle t) ∧ (bobOf t b).steps = []
      ∧ rdReg t (BOB_STEPS b) = rdReg s (BOB_STEPS b) + 1

/-- On a bobbin that is not scheduled, of a region that is not parked, ARM takes IDLE to ARMED where the bank in force names the
bobbin as unscheduled, START takes ARMED to RUNNING, STOP takes RUNNING to ARMED and discards its steps, and RELEASE takes ARMED
to IDLE; each is answered without an error. (R123) -/
def Obligations.BobbinCommands : Prop :=
  (∀ (s : State) (b : Nat) (e : BobEnt), b < 4096 → guardOf s (BOB_CTL b) = none → unitParked s grBOB b = false → bobState s b = bsIDLE →
    bankValid s (bobRgn b) (bankNow s (bobRgn b)) = true → bobEnt (progOf s (bobRgn b) (bankNow s (bobRgn b))) (bobIdx b) = some e → e.mode = 2 →
    ∃ t, exec (.bobArm b) s = .next (settle t) ∧ bobState t b = bsARMED ∧ bobOf t b = {} ∧ t.reply = ⟨false, 0⟩)
  ∧ (∀ (s : State) (b : Nat), b < 4096 → guardOf s (BOB_CTL b) = none → unitParked s grBOB b = false → bobState s b = bsARMED → bobSched s b = false →
    ∃ t, exec (.bobStart b) s = .next (settle t) ∧ bobState t b = bsRUNNING ∧ t.reply = ⟨false, 0⟩
      ∧ OnlyRegs [BOB_STATE b] s { t with reply := s.reply })
  ∧ (∀ (s : State) (b : Nat), b < 4096 → guardOf s (BOB_CTL b) = none → unitParked s grBOB b = false → bobState s b = bsRUNNING → bobSched s b = false →
    ∃ t, exec (.bobStop b) s = .next (settle t) ∧ bobState t b = bsARMED ∧ (bobOf t b).steps = [] ∧ t.reply = ⟨false, 0⟩)
  ∧ ∀ (s : State) (b : Nat), b < 4096 → guardOf s (BOB_CTL b) = none → unitParked s grBOB b = false → bobState s b = bsARMED → bobSched s b = false →
    ∃ t, exec (.bobRelease b) s = .next (settle t) ∧ bobState t b = bsIDLE ∧ bobOf t b = {} ∧ t.reply = ⟨false, 0⟩

/-- For each of the fifteen station types: where the step in the named place is of that type and its engine may start it now, the
command completes, with what the station's computation makes of the state and the step. A computation without a fault, a missing
outcome or an end found early advances the step by one unit, counts the unit's tiles in STN_UNITS and the unit in G_PROGRESS of
the engine's page, counts the reads made, and takes the tiles from the bobbin's turn; a fault stops the bobbin with its code;
one that lacks the outcome of an access asks for it and changes nothing else. (R117, R118, R119, R31, R126, R293) -/
def Obligations.StationUnitsRun : Prop :=
  (∀ (s : State) (b i : Nat) (st : Step),
    (StepMayRun s b i st tyINGRESS → let c := unitCtx s b st ingressUnit
      exec (.ingress b i) s = .next (settle (unitEnds s b 1 st c)))
    ∧ (StepMayRun s b i st tyEGRESS → let c := unitCtx s b st egressUnit
      exec (.egress b i) s = .next (settle (unitEnds s b 1 st c)))
    ∧ (StepMayRun s b i st tyLOAD → let c := unitCtx s b st loadUnit
      exec (.load b i ()) s = .next (settle (unitEnds s b 1 st c)))
    ∧ (StepMayRun s b i st tySTORE → let c := unitCtx s b st storeUnit
      exec (.store b i ()) s = .next (settle (unitEnds s b 1 st c)))
    ∧ (StepMayRun s b i st tyEXPAND → let c := unitCtx s b st expandUnit
      exec (.expand b i ()) s = .next (settle (unitEnds s b 1 st c)))
    ∧ (StepMayRun s b i st tyMATMUL → let c := unitCtx s b st matmulUnit
      exec (.matmul b i) s = .next (settle (unitEnds s b (c.step.param % 16 + 1) st c)))
    ∧ (StepMayRun s b i st tyELEMWISE → let c := unitCtx s b st elemwiseUnit
      exec (.elemwise b i) s = .next (settle (unitEnds s b 1 st c)))
    ∧ (StepMayRun s b i st tyNORM → let c := unitCtx s b st normUnit
      exec (.norm b i) s = .next (settle (unitEnds s b (tilesOf c.step.param) st c)))
    ∧ (StepMayRun s b i st tyATTEND → let c := unitCtx s b st attendUnit
      exec (.attend b i ()) s = .next (settle (unitEnds s b 1 st c)))
    ∧ (StepMayRun s b i st tyREDUCE → let c := unitCtx s b st reduceUnit
      exec (.reduce b i) s = .next (settle (unitEnds s b 1 st c)))
    ∧ (StepMayRun s b i st tyGATHER → let c := unitCtx s b st gatherUnit
      exec (.gather b i ()) s = .next (settle (unitEnds s b (tilesOf c.step.param) st c)))
    ∧ (StepMayRun s b i st tySCATTER → let c := unitCtx s b st scatterUnit
      exec (.scatter b i ()) s = .next (settle (unitEnds s b (tilesOf c.step.param) st c)))
    ∧ (StepMayRun s b i st tyFILTER → let c := unitCtx s b st filterUnit
      exec (.filter b i) s = .next (settle (unitEnds s b (tilesOf c.step.param) st c)))
    ∧ (StepMayRun s b i st tyCONVERT → let c := unitCtx s b st convertUnit
      exec (.convert b i) s = .next (settle (unitEnds s b (tilesOf c.step.param) st c)))
    ∧ (StepMayRun s b i st tyCOMPRESS → let c := unitCtx s b st compressUnit
      exec (.compress b i ()) s = .next (settle (unitEnds s b (leAt (stnOf (bobProg s b) st.station).param 8 1 * cdiv (leAt (stnOf (bobProg s b) st.station).param 10 2) 128) st c))))
  ∧ (∀ (s : State) (b k : Nat) (st : Step) (c : Ctx), c.stuck = false → c.fault = none →
    (c.step.unit < c.step.units → unitEnds s b k st c = unitDone b k st c)
    ∧ (c.step.units ≤ c.step.unit → unitEnds s b k st c = putStep b { c.step with made := unitReads st c } (unitState b st c)))
  ∧ (∀ (s : State) (b k code det : Nat) (st : Step) (c : Ctx), c.stuck = false → c.fault = some (code, det) →
    unitEnds s b k st c = bobFault b code st.station st.desc det st.tile (some st) (unitState b st c))
  ∧ ∀ (s : State) (b k : Nat) (st : Step) (c : Ctx), c.stuck = true → unitEnds s b k st c = c.askAll s

/-- After bytes are stored in a region's SRAM, reading there gives them, every byte outside them and every other region reads as
before, no written word has an error any more, and nothing else changes. (R127, R128) -/
def Obligations.SramHoldsWhatIsStored : Prop :=
  ∀ (s : State) (n a : Nat) (d : Bytes), a + d.length ≤ sramSize →
    sramGet (sramPut n a d s) n a d.length = d
    ∧ (∀ m b k, b + k ≤ sramSize → (m ≠ n ∨ b + k ≤ a ∨ a + d.length ≤ b) → sramGet (sramPut n a d s) m b k = sramGet s m b k)
    ∧ (d ≠ [] → sramBadIn (sramPut n a d s) n a d.length = false)
    ∧ sramPut n a d s = { s with sram := (sramPut n a d s).sram, sramBad := (sramPut n a d s).sramBad }

/-- As long as no accumulator passes 2^32 terms, adding a list of values to an exact accumulator does not depend on their order,
adding the partial of the list as one addition gives the same as adding its values one by one, and merging two accumulators
commutes. (R152, R153, R234) -/
def Obligations.ExactAccumulationIsOrderFree : Prop :=
  (∀ (a : Acc320) (l k : List Val), a.ovr = false → a.count + l.length ≤ 2 ^ 32 → l.Perm k → l.foldl accAdd a = k.foldl accAdd a)
    ∧ (∀ (a : Acc320) (l : List Val), a.ovr = false → a.count + l.length ≤ 2 ^ 32 →
        accMerge a (l.foldl accAdd {}) = l.foldl accAdd a)
    ∧ ∀ a b : Acc320, a.ovr = false → b.ovr = false → a.count + b.count ≤ 2 ^ 32 → accMerge a b = accMerge b a

/-- The 64 bytes of an accumulator object have that length and read back every accumulator whose value fits 320 bits and whose count
is at most 2^32. (R152, R155) -/
def Obligations.AccumulatorObjectRoundTrip : Prop :=
  ∀ a : Acc320, -(2 : Int) ^ 319 ≤ a.a → a.a < 2 ^ 319 → a.count ≤ 2 ^ 32 →
    (accEnc a).length = 64 ∧ accDec (accEnc a) = a

/-- A contribution of a member of an open, unscheduled reducing collective that joins an open set not yet complete by it counts in
GND_COLL_CONTRIB and is among the members seen; a contribution that waits in the ground for such a set leaves it when it joins;
a read buffer whose window ends is dropped; a completed reply-cache entry whose HOLD passes is dropped. TIMEOUT_US of an open
set of an unscheduled collective aborts it with reason TIMEOUT, and an ABORT with its TREE_TAG aborts it with the message's
reason; here for a collective without stage and targets while the ground and the bobbins are empty: it is ABORTED, its sets and
waiting contributions are gone, GND_COLL_ABORTS counts and COLL_ABORTED is set. (That ABORTING lasts no longer than the command
is the model's reading, log entry 13.) (R213, R217, R233, R285, R223, R224) -/
def Obligations.CollectiveWork : Prop :=
  ((∀ (s : State) (prg id k : Nat) (c : Coll) (m : Msg) (x : TileSet), m.hdr.dint = true → m.hdr.dst % 4096 = 0 → m.hdr.type = tTILE →
      (m.hdr.tc = 7 ∨ m.hdr.tc = 0) → GroundIdle s → ((openColls s).find? fun e => cdContrib e.2.desc == tmStream m) = some (id, c) → collOf s id = c →
      cdSched c.desc = false → memberOf s c.desc m.hdr = some k → isChild s c.desc k = false → tmTile m < cdTiles c.desc → cdReducing c.desc = true →
      setAt s id (tmTile m) = some x → x.coll = id → k ∉ x.seen → x.contribs + 1 ≠ collMembers (bump s GND_COLL_CONTRIB) c.desc →
      ∃ t, exec (.collContribution prg m) s = .next (settle t) ∧ rdReg t GND_COLL_CONTRIB = rdReg s GND_COLL_CONTRIB + 1
        ∧ ∃ y, setAt t id (tmTile m) = some y ∧ y.seen = x.seen ++ [k] ∧ y.contribs = x.contribs + 1)
    ∧ (∀ (s : State) (w : WaitContrib) (x : TileSet), s.waitContribs = [w] → GroundIdle s → setAt s w.coll w.tile = some x → x.coll = w.coll →
      cdSched (collOf s w.coll).desc = false → w.member ∉ x.seen →
      x.contribs + 1 ≠ collMembers (bump { s with waitContribs := [] } GND_COLL_CONTRIB) (collOf s w.coll).desc →
      ∃ t, exec (.collSetOpen 0) s = .next (settle t) ∧ t.waitContribs = [] ∧ rdReg t GND_COLL_CONTRIB = rdReg s GND_COLL_CONTRIB + 1)
    ∧ (∀ (s : State) (n a l : Nat), ∃ t, exec (.cmbBufExpire n a l) s = .next (settle t)
        ∧ (cmbOf t n).bufs = (cmbOf s n).bufs.filter (fun b => !(b.addr == a && b.len == l)) ∧ (cmbOf t n).cache = (cmbOf s n).cache ∧ t.regs = s.regs)
    ∧ ∀ (s : State) (n src gen id : Nat) (i : Bool), s.mem.reqs = [] →
      ∃ t, exec (.replyCacheExpire n src i gen id) s = .next (settle t) ∧ (cmbOf t n).bufs = (cmbOf s n).bufs
        ∧ ∀ e ∈ (cmbOf t n).cache, e.reply ≠ none → ¬(e.src = src ∧ e.sint = i ∧ e.gen = gen ∧ e.reqId = id))
  ∧ ((∀ (s : State) (id tile : Nat), (setAt s id tile).isSome = true → CollAlone s id → cdSched (collOf s id).desc = false →
      ∃ t, exec (.collTimeout id tile) s = .next (settle t) ∧ (collOf t id).state = 3 ∧ (collOf t id).reason = 0x05
        ∧ (∀ x ∈ t.sets, x.coll ≠ id) ∧ (∀ w ∈ t.waitContribs, w.coll ≠ id) ∧ rdReg t GND_COLL_ABORTS = rdReg s GND_COLL_ABORTS + 1 ∧ stickySet t srcGND_COLL_ABORTED 0 = true)
    ∧ ∀ (s : State) (prg id : Nat) (c : Coll) (m : Msg), CtrlMsg s m →
      ((openColls s).find? fun e => cdTag e.2.desc == leAt m.pay 0 4) = some (id, c) → CollAlone s id →
      ∃ t, exec (.abort prg m) s = .next (settle t) ∧ (collOf t id).state = 3 ∧ (collOf t id).reason = leAt m.pay 6 1 ∧ rdReg t GND_COLL_ABORTS = rdReg s GND_COLL_ABORTS + 1
        ∧ (∀ x ∈ t.sets, x.coll ≠ id) ∧ (∀ w ∈ t.waitContribs, w.coll ≠ id) ∧ stickySet t srcGND_COLL_ABORTED 0 = true)

/-- The CSR address of offset o on page p of unit u in group g is 0x10_0000_0000 + (g << 28) + (u << 16) + (p << 12) + o, and for
every unit, page and offset within their fields of Table CTL-1 the address gives them back. (R38) -/
def Obligations.CsrAddresses : Prop :=
  ∀ g u p o : Nat, csrAddr g u p o = 0x1000000000 + (g <<< 28) + (u <<< 16) + (p <<< 12) + o
    ∧ 0x1000000000 ≤ csrAddr g u p o
    ∧ (u < 4096 → p < 16 → o < 4096 → csrGroup (csrAddr g u p o) = g ∧ csrUnit (csrAddr g u p o) = u
        ∧ csrPage (csrAddr g u p o) = p ∧ csrOff (csrAddr g u p o) = o)

/-- With the clause units enabled, CLS_ALLOC opens the lowest FREE slot and answers that slot and the serial, the serial counter
goes on by one, and the clause's open time is device time now; with no slot FREE the answer is SLOT = 0x1F and nothing else
changes. No other slot, register or memory changes. (R49) -/
def Obligations.ClauseOpens : Prop :=
  (∀ (s : State) (c : Nat), (∀ i < 16, unitOn s grCLS i = true) → c < 16 → clsState s c = csFREE → (∀ i < c, clsState s i ≠ csFREE) →
    ∃ t, exec .clsAlloc s = .next (settle t) ∧ t.reply.err = false ∧ CLS_ALLOC_SLOT.get t.reply.val = c
      ∧ CLS_ALLOC_SERIAL.get t.reply.val = s.serial % 2 ^ 32 ∧ t.serial = (s.serial + 1) % 2 ^ 32
      ∧ clsState t c = csOPEN ∧ (clsOf t c).opened = now s ∧ (clsOf t c).entries = [] ∧ (∀ i, i ≠ c → clsOf t i = clsOf s i)
      ∧ OnlyRegs [CLS_STATE c, CLS_GLOBAL_ID c] { s with cls := t.cls, serial := t.serial, reply := t.reply } t)
  ∧ ∀ s : State, (∀ i < 16, unitOn s grCLS i = true) → (∀ c < 16, clsState s c ≠ csFREE) →
    ∃ t, exec .clsAlloc s = .next (settle t) ∧ t.reply.err = false ∧ CLS_ALLOC_SLOT.get t.reply.val = 0x1F
      ∧ t = { s with reply := t.reply }

/-- In an OPEN clause CLS_STAGE_DATA adds an entry of the staged address and mask, counts it and returns CLS_STAGE_MASK to all ones;
the 4,097th entry aborts with CAPACITY, and the write itself completes without an error (the model's choice, log entry 132).
SEAL of an OPEN clause makes it SEALED and fixes the SHAKE256 digest of its text, and for a local clause changes nothing else.
ABORT of a clause that is OPEN, SEALED, VALIDATING, or ARMED before its guard interval gives ABORTED with reason 1, a timeout of
an OPEN or SEALED clause reason 2 (here for clauses without work of a home). RELEASE of an ABORTED or COMMITTED clause frees the
slot and changes no other slot and no register outside it. In a SEALED clause the staging write, and SEAL and RELEASE, for which
Table CTL-6 has no row there, are answered with an error and change nothing (for the two commands the model's choice, log entry
133). (R48, R50, R52, R60, R61) -/
def Obligations.ClauseStaging : Prop :=
  (∀ (s : State) (c : Nat) (w : Word), c < 16 → clsState s c = csOPEN → (clsOf s c).entries.length < 4096 →
    ∃ t, exec (.clsStageData c w) s = .next (settle t) ∧ t.reply = ⟨false, 0⟩
      ∧ (clsOf t c).entries = (clsOf s c).entries ++ [{ addr := rdReg s (CLS_STAGE_ADDR c), mask := rdReg s (CLS_STAGE_MASK c), data := w }]
      ∧ rdF t (CLS_STATE c) CLS_STATE_ENTRIES = (clsOf s c).entries.length + 1
      ∧ rdReg t (CLS_STAGE_MASK c) = BitVec.allOnes 64 ∧ (∀ i, i ≠ c → clsOf t i = clsOf s i)
      ∧ OnlyRegs [CLS_STATE c, CLS_STAGE_MASK c] { s with cls := t.cls, reply := t.reply } t)
  ∧ (∀ (s : State) (c : Nat) (w : Word), c < 16 → clsState s c = csOPEN → 4096 ≤ (clsOf s c).entries.length → NoHomeWork s c →
    ∃ t, exec (.clsStageData c w) s = .next (settle t) ∧ t.reply = ⟨false, 0⟩ ∧ Aborted s t c 0x03)
  ∧ (∀ (s : State) (c : Nat), c < 16 → clsState s c = csOPEN →
    ∃ t, exec (.clsSeal c) s = .next (settle t) ∧ t.reply = ⟨false, 0⟩ ∧ clsState t c = csSEALED
      ∧ (clsOf t c).dig = shake256 (clauseText s c) 32 ∧ (clsOf t c).entries = (clsOf s c).entries
      ∧ (clsRole s c = 0 → clsOf t c = { clsOf s c with dig := shake256 (clauseText s c) 32 }
          ∧ OnlyRegs [CLS_STATE c] { s with cls := t.cls, reply := t.reply } t))
  ∧ (∀ (s : State) (c : Nat), c < 16 → NoHomeWork s c →
    ((clsState s c = csOPEN ∨ clsState s c = csSEALED ∨ clsState s c = csVALIDATING ∨ (clsState s c = csARMED ∧ (clsOf s c).inGuard = false)) →
      ∃ t, exec (.clsAbort c) s = .next (settle t) ∧ t.reply = ⟨false, 0⟩ ∧ Aborted s t c 0x01)
    ∧ ((clsState s c = csOPEN ∨ clsState s c = csSEALED) →
      ∃ t, exec (.clauseTimeout c) s = .next (settle t) ∧ Aborted s t c 0x02))
  ∧ (∀ (s : State) (c : Nat), c < 16 → (clsState s c = csABORTED ∨ clsState s c = csCOMMITTED) →
    ∃ t, exec (.clsRelease c) s = .next (settle t) ∧ t.reply = ⟨false, 0⟩ ∧ clsState t c = csFREE ∧ clsOf t c = {}
      ∧ (∀ i, i ≠ c → clsOf t i = clsOf s i) ∧ (∀ a, csrGroup a ≠ grCLS ∨ csrUnit a ≠ c → rdReg t a = rdReg s a)
      ∧ t = { s with cls := t.cls, regs := t.regs, reply := t.reply })
  ∧ ∀ (s : State) (c : Nat) (w : Word), c < 16 → clsState s c = csSEALED →
    exec (.clsStageData c w) s = .next (settle (csrRefused s)) ∧ exec (.clsSeal c) s = .next (settle (csrRefused s))
      ∧ exec (.clsRelease c) s = .next (settle (csrRefused s))

/-- CLOSE of a SEALED local clause of the custodian or the fabric manager with condition IMMEDIATE, of one or more writes of
SHT_SLICE registers, while no other slot is in use, is answered without an error and leaves it VALIDATING with every entry
passed, its entries as staged and the device time of the CLOSE; a VALIDATING clause of register entries with condition AT_TIME,
whose entries have passed, whose targets can be reached and whose time is more than 1 µs away, arms with that time as its commit
instant; the guard interval of an ARMED clause of writes outside the SEC pages begins, and nothing else changes; the commit of a
clause of one write of an SHT_SLICE register in its guard interval, with no write held, gives the register the masked bits,
counts in CLS_COMMITS, and leaves the clause COMMITTED, and no other register changes. (R53, R54, R55, R57, R58) -/
def Obligations.ClauseCommits : Prop :=
  (∀ (s : State) (c : Nat), c < 16 → clsState s c = csSEALED → clsRole s c = 0 → clsReq s c ≤ 1 → clsKind s c = 0 → (clsOf s c).entries ≠ [] →
    (∀ e ∈ (clsOf s c).entries, e.kind = 0 ∧ ∃ n < 16, e.target = SHT_SLICE n) → (∀ x ∈ s.cls, x.1 ≠ c → clsState s x.1 = csFREE) →
    ∃ t, exec (.clsClose c [] [] [] []) s = .next (settle t) ∧ t.reply = ⟨false, 0⟩ ∧ clsState t c = csVALIDATING
      ∧ (clsOf t c).checked = true ∧ (clsOf t c).passed = (clsOf s c).entries.length ∧ (clsOf t c).entries = (clsOf s c).entries
      ∧ (clsOf t c).closed = now s)
  ∧ (∀ (s : State) (c : Nat), c < 16 → clsState s c = csVALIDATING → (clsOf s c).checked = true → (clsOf s c).entries.all (fun e => e.kind == 0) = true →
    (clsOf s c).entries.all (targetOpen s) = true → clsRole s c = 0 → clsKind s c = 3 → now s + 1000 < clsTime s c →
    ∃ t, exec (.clauseArmed c) s = .next (settle t) ∧ clsState t c = csARMED ∧ (clsOf t c).commitAt = some (clsTime s c)
      ∧ (clsOf t c).inGuard = (clsOf s c).inGuard ∧ OnlyRegs [CLS_STATE c] { s with cls := t.cls } t)
  ∧ (∀ (s : State) (c : Nat), c < 16 → clsState s c = csARMED → (clsOf s c).commitAt.isSome = true → (clsOf s c).inGuard = false →
    (clsOf s c).entries.all (fun e => e.kind == 0 && csrGroup e.target != grSEC) = true →
    exec (.guardInterval c) s = .next (settle (setCls s c { clsOf s c with inGuard := true })))
  ∧ ∀ (s : State) (c n : Nat) (e : Entry), c < 16 → n < 16 → clsState s c = csARMED → clsRole s c = 0 → clsKind s c = 3 →
    (clsOf s c).commitAt.isSome = true →
    (clsOf s c).inGuard = true → (clsOf s c).late = false → (clsOf s c).entries = [e] → e.kind = 0 → e.target = SHT_SLICE n →
    (clsOf s c).delayed = [] →
    ∃ t, exec (.clauseCommit c) s = .next (settle t) ∧ clsState t c = csCOMMITTED ∧ rdReg t CLS_COMMITS = rdReg s CLS_COMMITS + 1
      ∧ rdF t (SHT_SLICE n) SHT_SLICE_QUANTUM = SHT_SLICE_QUANTUM.get (mergeBits (rdReg s (SHT_SLICE n)) e.data e.mask)
      ∧ OnlyRegs [CLS_STATE c, CLS_COMMITS, SHT_SLICE n] { s with cls := t.cls, mem := t.mem, dues := t.dues } t

/-- While PREPAREs of other switches are missing a coordinator holds a PREPARE of a new switch, and it takes a yes vote of a switch
that prepared, and decides with it where it can; a PREPARE for no clause is answered with the decision to abort; a no vote
aborts the clause with PEER_ABORT; a missing PREPARE or vote after 10 s aborts it with TIMEOUT. A PREPARED participant arms with
the instant of a COMMIT more than 1 µs away and answers, aborts with PEER_ABORT on an ABORT decision and answers, asks its
coordinator after 100 µs, and after 10 s, or on the answer that there is no decision, is IN_DOUBT. An acknowledgement leaves the
participants that have not acknowledged; a query is answered with the outcome that was decided, or that there is no decision,
and an answer with a decision is taken as the decision. (The aborts here are of clauses without work of a home.) (R58, R64, R65,
R66) -/
def Obligations.ClauseAcrossDevices : Prop :=
  (∀ (s : State) (prg c : Nat) (m : Msg), CtrlMsg s m → clauseByGid s 1 (leAt m.pay 0 8) = some c →
    (clsOf s c).commitAt = none → ((clsOf s c).preps.any fun x => x.1 == leAt m.pay 8 2 % 4096) = false → (clsOf s c).preps.length + 1 < clsPeers s c →
    exec (.prepare prg m) s = .next (settle (setCls s c { clsOf s c with
      preps := (clsOf s c).preps ++ [(leAt m.pay 8 2 % 4096, bslice (m.pay.drop 16) 0 32)] })))
  ∧ (∀ (s : State) (prg : Nat) (m : Msg), CtrlMsg s m → clauseByGid s 1 (leAt m.pay 0 8) = none →
    exec (.prepare prg m) s = .next (settle (sendDecision (leAt m.pay 8 2 % 4096) (leAt m.pay 0 8) false 0 s)))
  ∧ (∀ (s : State) (prg c : Nat) (m : Msg), CtrlMsg s m → clauseByGid s 1 (leAt m.pay 0 8) = some c →
    (clsOf s c).commitAt = none → ((clsOf s c).preps.any fun x => x.1 == m.hdr.src / 4096) = true →
    ((clsOf s c).votes.any fun x => x.1 == m.hdr.src / 4096) = false → bit (leAt m.pay 8 1) 0 = true →
    ∀ t, t = setCls s c { clsOf s c with votes := (clsOf s c).votes ++ [(m.hdr.src / 4096, true)] } →
    exec (.vote prg m) s = .next (settle (tryDecide c t)) ∧ ((clsOf s c).preps.length < clsPeers s c → tryDecide c t = t))
  ∧ (∀ (s : State) (prg c : Nat) (m : Msg), CtrlMsg s m → clauseByGid s 1 (leAt m.pay 0 8) = some c → c < 16 →
    (clsOf s c).commitAt = none → ((clsOf s c).preps.any fun x => x.1 == m.hdr.src / 4096) = true →
    ((clsOf s c).votes.any fun x => x.1 == m.hdr.src / 4096) = false → bit (leAt m.pay 8 1) 0 = false → NoHomeWork s c →
    ∃ t, exec (.vote prg m) s = .next (settle t) ∧ Aborted s t c 0x15)
  ∧ (∀ (s : State) (c : Nat), c < 16 → clsLive s c = true → clsRole s c = 1 → (clsOf s c).commitAt = none →
    ((clsOf s c).preps.length < clsPeers s c ∨ ∃ x ∈ (clsOf s c).preps, ((clsOf s c).votes.any fun v => v.1 == x.1) = false) →
    NoHomeWork s c → ∃ t, exec (.coordVoteTimeout c) s = .next (settle t) ∧ Aborted s t c 0x02)
  ∧ (∀ (s : State) (prg c : Nat) (m : Msg), CtrlMsg s m → m.hdr.src / 4096 = leAt m.pay 0 8 % 4096 → c < 16 →
    clauseByGid s 2 (leAt m.pay 0 8) = some c → clsState s c = csPREPARED → bit (leAt m.pay 8 1) 0 = true → now s + 1000 < leAt m.pay 16 8 →
    exec (.decision prg m) s = .next (settle (toSwitch (leAt m.pay 0 8 % 4096) cDECISION_ACK (leBytes 8 (leAt m.pay 0 8))
      (setClsState c csARMED (setCls s c { clsOf s c with commitAt := some (leAt m.pay 16 8), late := false })))))
  ∧ (∀ (s : State) (prg c : Nat) (m : Msg), CtrlMsg s m → m.hdr.src / 4096 = leAt m.pay 0 8 % 4096 → c < 16 →
    clauseByGid s 2 (leAt m.pay 0 8) = some c → bit (leAt m.pay 8 1) 0 = false → NoHomeWork s c →
    ∃ u, Aborted s u c 0x15 ∧ exec (.decision prg m) s
      = .next (settle (toSwitch (leAt m.pay 0 8 % 4096) cDECISION_ACK (leBytes 8 (leAt m.pay 0 8)) u)))
  ∧ (∀ (s : State) (prg : Nat) (m : Msg) (o : Outcome) (x : Bool × Nat), CtrlMsg s m → s.outcomes = [o] → o.gid = leAt m.pay 0 8 →
    o.decided = some x → o.waiting.filter (fun y => y != m.hdr.src / 4096) ≠ [] →
    exec (.decisionAck prg m) s = .next (settle { s with outcomes := [{ o with waiting := o.waiting.filter (fun y => y != m.hdr.src / 4096) }] }))
  ∧ (∀ (s : State) (c : Nat), clsState s c = csPREPARED →
    exec (.outcomeQueryTimer c) s = .next (settle (toSwitch (coordSwitch s c) cOUTCOME_QUERY (leBytes 8 (clsGid s c)) s)))
  ∧ (∀ (s : State) (prg : Nat) (m : Msg), CtrlMsg s m →
    (outcomeOf s (leAt m.pay 0 8) = none →
      exec (.outcomeQuery prg m) s = .next (settle (emit (.hub 0) (ctrlAnswer s m cOUTCOME_ANSWER
        (leBytes 8 (leAt m.pay 0 8) ++ leBytes 1 2 ++ zeros 7 ++ leBytes 8 0)) s)))
    ∧ ∀ (o : Outcome) (b : Bool) (at_ : Nat), outcomeOf s (leAt m.pay 0 8) = some o → o.decided = some (b, at_) →
      exec (.outcomeQuery prg m) s = .next (settle (emit (.hub 0) (ctrlAnswer s m cOUTCOME_ANSWER
        (leBytes 8 (leAt m.pay 0 8) ++ leBytes 1 b.toNat ++ zeros 7 ++ leBytes 8 at_)) s)))
  ∧ (∀ (s : State) (prg : Nat) (m : Msg), CtrlMsg s m → m.hdr.src / 4096 = leAt m.pay 0 8 % 4096 → leAt m.pay 8 1 ≤ 1 →
    exec (.outcomeAnswer prg m) s = .next (settle (takeDecision (leAt m.pay 0 8) (leAt m.pay 8 1 == 1) (leAt m.pay 16 8) s)))
  ∧ (∀ (s : State) (prg c : Nat) (m : Msg), CtrlMsg s m → m.hdr.src / 4096 = leAt m.pay 0 8 % 4096 → c < 16 →
    clauseByGid s 2 (leAt m.pay 0 8) = some c → clsState s c = csPREPARED → 2 ≤ leAt m.pay 8 1 → NoHomeWork s c →
    ∃ t, exec (.outcomeAnswer prg m) s = .next (settle t) ∧ Aborted s t c 0x16 ∧ stickySet t srcCLS_CLAUSE_IN_DOUBT 16 = true)
  ∧ ∀ (s : State) (c : Nat), c < 16 → clsState s c = csPREPARED → clsRole s c = 2 → NoHomeWork s c →
    ∃ t, exec (.clauseInDoubt c) s = .next (settle t) ∧ Aborted s t c 0x16 ∧ stickySet t srcCLS_CLAUSE_IN_DOUBT 16 = true

/-- A READ that passes its checks, whose home is own T0 memory, is answered with the data read there as R249 gives, or, where its
sectors do not verify, with their status, which a tier outcome counts; a posted WRITE and a WRITE_ACK write their data there as
R248 gives and end with the write's status. (Rights, cache, coverage and fences are the hypotheses; Obligations.PoolMemoryLaw
says what memory then holds.) (R248, R249, R252, R277, R279) -/
def Obligations.RequestsAtHome : Prop :=
  (∀ (s : State) (prg : Nat) (m : Msg) (i e p : Nat), AtHome s prg m .read i e p → m.hdr.type = tREAD → m.hdr.op = 0 →
    coverDom s (msgAddr m % 2 ^ 52) = none →
    let x := memRead (objOf s i).part p (msgLen m) (found s prg)
    exec (.read prg m) s = .next (settle (runReqs
      (answer prg m x.1 (if x.1 = stOK then some x.2.1 else none) (countTier prg x.1 x.2.2)))))
  ∧ ∀ (s : State) (prg : Nat) (m : Msg) (i e p : Nat), AtHome s prg m .write i e p → coverDom s (msgAddr m % 2 ^ 52) = none →
    let x := memWrite (objOf s i).part (objOf s i).crypt p (msgData m) (found s prg)
    (m.hdr.type = tWRITE → exec (.write prg m) s = .next (settle (runReqs (answer prg m x.1 none (countTier prg x.1 x.2)))))
    ∧ (m.hdr.type = tWRITE_ACK → exec (.writeAck prg m) s = .next (settle (runReqs (answer prg m x.1 none (countTier prg x.1 x.2)))))

/-- A write of a partition with a key, of at most 4,096 bytes, that ends OK leaves the data at its address, every other byte as it
was, and reads back OK; a read of a sector without side bytes and without error ends with INTEGRITY, counts in MRG_MAC_FAIL and
raises MAC_FAIL. (R248, R249) -/
def Obligations.PoolMemoryLaw : Prop :=
  (∀ (s : State) (part p : Nat) (enc : Bool) (d : Bytes) (k : WorkKey), (slotOf s part).cur = some k → k.part = part → d.length ≤ 4096 →
    (memWrite part enc p d s).1 = stOK →
    Stored s (memWrite part enc p d s).2 p d
      ∧ (memRead part p d.length (memWrite part enc p d s).2).1 = stOK
      ∧ (memRead part p d.length (memWrite part enc p d s).2).2.1 = d)
  ∧ ∀ (s : State) (part sec mask : Nat), sfind s.mem.sectors sec = none → (sectorBlocks sec).any (blockBad s) = false →
    (readSector part sec mask s).1 = stINTEGRITY
      ∧ rdReg (readSector part sec mask s).2 (MRG_MAC_FAIL (homeHub (256 * sec))) = rdReg s (MRG_MAC_FAIL (homeHub (256 * sec))) + 1
      ∧ stickySet (readSector part sec mask s).2 srcMRG_MAC_FAIL (homeHub (256 * sec)) = true ∧ (readSector part sec mask s).2.mem = s.mem

/-- An ATOMIC that finds its unit idle is applied at its home: ADD wraps, MIN and MAX compare as their OP gives, CAS writes the new
value exactly where the old one equals the operand, EXACT_ADD adds its binary32 operand, or the exact partial that a conjunction
unit of another switch combined (the form of which is the model's, log entry 11), exactly; every other byte stays. When the
operation returns at the unit it leaves it, and its reply-cache entry completes. (R133, R234, R283, R284) -/
def Obligations.Atomics : Prop :=
  (∀ (s : State) (prg : Nat) (m : Msg) (i e p : Nat), AtomicAt s prg m i e p → (m.hdr.op = 0x01 ∨ m.hdr.op = 0x02) →
    ∃ t, exec (.atomicAdd prg m) s = .next (settle t) ∧ AtomicDone s t prg p (poolBytes s p (msgSpan m))
      (leBytes (msgSpan m) ((leNat (poolBytes s p (msgSpan m)) + leNat (bslice (atomArg m) 0 (msgSpan m))) % 2 ^ (8 * msgSpan m))))
  ∧ (∀ (s : State) (prg : Nat) (m : Msg) (i e p : Nat), AtomicAt s prg m i e p → m.hdr.op = 0x03 →
    ∃ t, exec (.exactAdd prg m) s = .next (settle t) ∧ AtomicDone s t prg p []
      (accEnc (accMerge (accDec (poolBytes s p 64)) (accMerge {} (exactPart m)))))
  ∧ (∀ (s : State) (prg : Nat) (m : Msg) (i e p : Nat), AtomicAt s prg m i e p → m.hdr.op ∈ [0x10, 0x11, 0x12, 0x13, 0x14] →
    ∃ t, exec (.atomicMin prg m) s = .next (settle t) ∧ AtomicDone s t prg p (poolBytes s p (msgSpan m))
      (atomNew m.hdr.op (poolBytes s p (msgSpan m)) (atomArg m) (atomArg2 m)))
  ∧ (∀ (s : State) (prg : Nat) (m : Msg) (i e p : Nat), AtomicAt s prg m i e p → m.hdr.op ∈ [0x18, 0x19, 0x1A, 0x1B, 0x1C] →
    ∃ t, exec (.atomicMax prg m) s = .next (settle t) ∧ AtomicDone s t prg p (poolBytes s p (msgSpan m))
      (atomNew m.hdr.op (poolBytes s p (msgSpan m)) (atomArg m) (atomArg2 m)))
  ∧ (∀ (s : State) (prg : Nat) (m : Msg) (i e p : Nat), AtomicAt s prg m i e p → m.hdr.op ∈ [0x20, 0x21, 0x22] →
    ∃ t, exec (.atomicCas prg m) s = .next (settle t) ∧ AtomicDone s t prg p (poolBytes s p (msgSpan m))
      (if poolBytes s p (msgSpan m) = bslice (atomArg m) 0 (msgSpan m) then bslice (atomArg2 m) 0 (msgSpan m)
       else poolBytes s p (msgSpan m)))
  ∧ ∀ (s : State) (n : Nat) (o : CmbOp) (x : Nat × Msg) (r : Nat × Bytes), s.mem.reqs = [] → s.mem.txns = [] → (cmbOf s n).ops = [o] → o.passed = true →
    o.members = [x] → o.results = some [r] →
    ∃ t, exec (.atomicBatchPass n o.addr) s = .next (settle t) ∧ (cmbOf t n).ops = []
      ∧ (∀ y ∈ (cmbOf t n).cache, rcSame x.2 y = true → y.reply.isSome = true) ∧ t.mem.pool = s.mem.pool

/-- (The directory slice, the hub's registrar unit and the line's channel take messages, and the device is not in safe state.) On a
line that no agent holds, READ with OP 1 or 2 of a member, whose line verifies, is granted E with the data and records it as the
owner; one whose line does not verify is answered with the status of the line and records nothing; UPGRADE of the only holder is
granted E without data. A WB of the owner writes the line and clears the record; EVICT_CLEAN removes the holder. A clean SNP_RSP
that is not the last takes the agent from those asked. An agent that is late raises COH_SNP_TIMEOUT; a WB that was announced and
did not come in time poisons the line's transaction and raises COH_WB_TIMEOUT. A FENCE with no earlier write or atomic of its
source in the ground, at a home or among a shuttle's placements is answered OK. (R272, R280, R290, R291, R292) -/
def Obligations.CoherentRequests : Prop :=
  (∀ (s : State) (prg : Nat) (m : Msg) (i e p : Nat), AtHome s prg m .read i e p → LineFree s m → m.hdr.type = tREAD →
    let x := memRead (objOf s (extOf s e).obj).part p 64 (found s prg)
    let t := if x.1 = stOK then answer prg m stOK_E (some x.2.1) (setDir (msgAddr m % 2 ^ 52 / 64) true [m.hdr.src] x.2.2)
      else answer prg m x.1 none (countTier prg x.1 x.2.2)
    (m.hdr.op = 1 → exec (.rdShared prg m) s = .next (settle (runReqs t)))
    ∧ (m.hdr.op = 2 → exec (.rdUnique prg m) s = .next (settle (runReqs t))))
  ∧ (∀ (s : State) (prg : Nat) (m : Msg) (i e p : Nat) (r : DirLine), AtHome s prg m .read i e p → m.hdr.type = tREAD → m.hdr.op = 3 →
    LineFree { s with mem := { s.mem with dir := [] } } m → dirOf s (msgAddr m % 2 ^ 52 / 64) = some r → r.holders = [m.hdr.src] →
    exec (.upgrade prg m) s = .next (settle (runReqs (answer prg m stOK_E none
      (setDir (msgAddr m % 2 ^ 52 / 64) true [m.hdr.src] (found s prg))))))
  ∧ (∀ (s : State) (prg : Nat) (m : Msg) (r : DirLine), AtDir s prg m → s.mem.txns = [] → m.hdr.type = tWB → dirOf s (msgLine s m) = some r →
    r.owned = true → r.holders.contains m.hdr.src = true →
    exec (.wb prg m) s = .next (settle (runReqs (answer prg m stOK none (setDir (msgLine s m) false []
      (writeLine (msgLine s m) (bslice m.pay 8 64) (bump (heard s prg) (DIR_WB (lineSlice s (64 * msgLine s m))))))))))
  ∧ (∀ (s : State) (prg : Nat) (m : Msg), AtDir s prg m → s.mem.txns = [] → m.hdr.type = tEVICT_CLEAN →
    (holders s (msgLine s m)).contains m.hdr.src = true →
    exec (.evictClean prg m) s = .next (settle (runReqs (answer prg m stOK none (setDir (msgLine s m) false
      ((holders s (msgLine s m)).filter fun x => x != m.hdr.src) (heard s prg))))))
  ∧ (∀ (s : State) (prg : Nat) (m : Msg) (t0 : LineTxn), AtDir s prg m → s.mem.txns = [t0] → m.hdr.type = tSNP_RSP →
    t0.line = msgLine s m → m.hdr.op = 0 → (t0.ask.any fun x => x.1 == m.hdr.src) = true →
    (t0.ask.filter fun x => x.1 != m.hdr.src) ≠ [] →
    exec (.snpRsp prg m) s = .next (settle (runReqs { heard s prg with mem := { (heard s prg).mem with
      txns := [{ t0 with ask := t0.ask.filter fun x => x.1 != m.hdr.src }] } })))
  ∧ (∀ (s : State) (l a : Nat) (t0 : LineTxn), txnOf s l = some t0 → (t0.ask.any fun x => x.1 == a && decide (x.2 ≤ s.tim.ref)) = true →
    exec (.cohSnpTimeout l a) s = .next (settle (cohRaise srcDIR_COH_SNP_TIMEOUT l s)))
  ∧ (∀ (s : State) (l a : Nat) (t0 : LineTxn), s.flt.safe = false → s.mem.reqs = [] → s.mem.txns = [t0] → t0.line = l →
    (t0.wbs.any fun x => x.1 == a && decide (x.2 ≤ s.tim.ref)) = true → t0.ask ≠ [] →
    ∃ t, exec (.cohWbTimeout l a) s = .next (settle t) ∧ t.mem.txns = [{ t0 with wbs := t0.wbs.filter (fun x => x.1 != a), poisoned := true }]
      ∧ stickySet t srcDIR_COH_WB_TIMEOUT (lineSlice s (64 * l)) = true)
  ∧ ∀ (s : State) (prg : Nat) (m : Msg), MemIdle s → ToSwitch s m → m.hdr.type = tFENCE → m.hdr.tc = 3 → m.hdr.op = 0 → partFenced s (reqPart m) = false →
    fenceAhead s (unitOut prg m.hdr) m = [] → placesOf s m.hdr.src = [] →
    exec (.fence prg m) s = .next (settle (answer prg m stOK none (arrived s)))

/-- A CPL for a copied sector of a move acknowledges it; a CPL or CPL_DATA that no request awaits counts in MRG_LATE_DROPS;
WRITE_FAILED ends the posted write of the device. A fetched extent entry is in the hub's cache. A request at its tray past its
tier deadline ends TIER_LATE, and its tags await their late responses; one that its lender does not answer ends HOME_LOST.
(R252, R253, R254, R259, R273, R279, R296) -/
def Obligations.RepliesAndFetches : Prop :=
  (∀ (s : State) (prg : Nat) (m : Msg) (q : DevReq), ToSwitch s m → m.hdr.type = tCPL → s.mem.devReqs = [q] → q.kind = 1 → q.id = m.hdr.reqId → q.gen = m.hdr.gen →
    m.hdr.op = stOK →
    exec (.cpl prg m) s = .next (settle { s with mem := { s.mem with
      devReqs := [], moves := s.mem.moves.map fun v => if v.addr = q.a then { v with unacked := v.unacked.filter fun x => x != q.id } else v } }))
  ∧ (∀ (s : State) (prg : Nat) (m : Msg), ToSwitch s m → s.mem.devReqs = [] → s.mem.reqs = [] → s.mem.txns = [] → s.mem.lateIds = [] →
    (m.hdr.type = tCPL → exec (.cpl prg m) s = .next (settle (bump s (MRG_LATE_DROPS (entryHub prg)))))
    ∧ (m.hdr.type = tCPL_DATA → exec (.cplData prg m) s = .next (settle (bump s (MRG_LATE_DROPS (entryHub prg))))))
  ∧ (∀ (s : State) (prg : Nat) (m : Msg) (r : Req) (id : Nat), ToSwitch s m → m.hdr.type = tCPL_DATA → m.hdr.op = stOK → s.mem.devReqs = [] → s.mem.reqs = [r] →
    s.mem.txns = [] → r.stage = .lender id → id = m.hdr.reqId → m.hdr.gen = (extOf s r.ext).gen % 256 → r.op = none → r.dev = none → r.merged = false → r.more = [] →
    exec (.cplData prg m) s = .next (settle (runReqs (answer r.prg r.msg stOK (some (bslice m.pay 0 (msgSpan r.msg)))
      (keepShared r (bslice m.pay 0 (msgSpan r.msg)) { s with mem := { s.mem with reqs := [] } })))))
  ∧ (∀ (s : State) (prg : Nat) (m : Msg) (q : DevReq), ToSwitch s m → m.hdr.type = tNOTIFY → m.hdr.op = 2 → m.hdr.tc = 3 → s.mem.devReqs = [q] → q.kind = 0 → q.id = leAt m.pay 8 2 →
    exec (.writeFailed prg m) s = .next (settle { s with mem := { s.mem with devReqs := [] } }))
  ∧ (∀ (s : State) (hub e : Nat) (r : Req), s.mem.reqs = [r] → r.stage = .fetch hub e →
    exec (.homeEntryFetch hub e) s = .next (settle (runReqs (modMem (cacheFill hub e s) fun m => { m with reqs := [{ r with stage := .ready }] })))
      ∧ (cacheFill hub e s).mem.hcache.contains (hub, e) = true)
  ∧ (∀ (s : State) (r : Req) (c : Nat) (ts : List Nat), s.mem.reqs = [r] → s.mem.txns = [] → r.stage = .tray c ts → r.due ≠ 0 → r.due ≤ s.tim.ref →
    r.op = none → r.dev = none → r.merged = false → r.more = [] →
    exec (.tierLate r.arr) s = .next (settle (runReqs (answer r.prg r.msg stTIER_LATE none (countTier r.prg stTIER_LATE
      { s with mem := { s.mem with reqs := [], lateTags := s.mem.lateTags ++ ts.map fun t => (c, t, entryHub r.prg, r.arr) } })))))
  ∧ ∀ (s : State) (r : Req) (id : Nat), s.mem.devReqs = [] → s.mem.reqs = [r] → r.stage = .lender id → r.op = none → r.dev = none → r.merged = false → r.more = [] →
    exec (.remoteLimitExpire id) s = .next (settle (runReqs (answer r.prg r.msg stHOME_LOST none
      { s with mem := { s.mem with reqs := [] } })))

/-- MOVE_SECTOR_COPY of a move in its copy, whose data work is due and whose memory takes accesses, takes the next sector to its
destination and goes on by one; the source's report ends a drain, and, with no request at the homes, a late drain makes the
extent LOST and raises MOVE_DRAIN. A freed object whose requests have ended is gone; the range of a withdrawn extent is
released. At the end of its grace a lease and its hosted entries are gone, MRG_LENT falls by its size, and the borrower is told;
a LEASE_RECALL raises LEASE_RECALLED; a LEASE_END withdraws the extent that its lease held, with GEN + 1 and a count in
MRG_WITHDRAWN (here the only extent, with no move and no request), and one that names no extent's lease changes nothing. A scrub
pass, in a device not in safe state, of a channel with an erroneous block rewrites the block with what correction leaves and
counts in MRG_ECC_CE where that differs from what is stored, or, where it is uncorrectable, writes POISON on it and raises
HBC_UE. (R249, R257, R259, R261, R266, R268) -/
def Obligations.MovesAndLeases : Prop :=
  (∀ (s : State) (v : Move) (raw : Bytes), s.mem.moves = [v] → copying v = true → s.flt.safe = false → moveDue s v = true →
    (∀ b, v.src = some b → engineMay s (b + 256 * v.next) (moveBytes v v.next) = true) →
    (v.dstSw = ownId s → engineMay s (v.dst + 256 * v.next) (moveBytes v v.next) = true) →
    exec (.moveSectorCopy (v.addr, raw)) s = .next (settle
      (moveSector { v with next := v.next + 1 } v.next raw { s with mem := { s.mem with moves := [{ v with next := v.next + 1 }] } })))
  ∧ (∀ (s : State) (v : Move) (e : Nat), s.mem.moves = [v] → v.phase = 1 → v.ext = some e → v.unacked = [] → s.mem.reqs = [] → s.mem.txns = [] →
    exec (.moveDrainDone v.addr) s = .next (settle { s with mem := { s.mem with moves := [] } })
    ∧ ∃ t, exec (.moveDrain v.addr) s = .next (settle t) ∧ t.mem.moves = [] ∧ (extOf t e).state = esLOST ∧ stickySet t srcMRG_MOVE_DRAIN 0 = true)
  ∧ (∀ (s : State) (i : Nat), (objOf s i).state = 2 → (objOf s i).freed = true → s.mem.reqs = [] → s.mem.txns = [] →
    exec (.objFreeComplete i) s = .next (settle (dropObj i s)) ∧ objOf (dropObj i s) i = {})
  ∧ (∀ (s : State) (e : Nat), (extOf s e).state = esWITHDRAWN →
    exec (.withdrawRangeRelease e) s = .next (settle (setExt s e { extOf s e with holding := false })))
  ∧ (∀ (s : State) (l : Lease), s.mem.leases = [l] → l.recallEnd.isSome = true →
    ∃ t, exec (.leaseGraceExpire l.id) s
        = .next (settle (emit (.hub 0) (ctrlMsg t (l.borrower * 4096) cLEASE_END 6 (leBytes 2 l.id)) t))
      ∧ t.mem.leases = [] ∧ (∀ h ∈ t.mem.hosted, h.lease ≠ l.id)
      ∧ rdReg t MRG_LENT = rdReg s MRG_LENT - BitVec.ofNat 64 (l.gib * 2 ^ 30) ∧ OnlyRegs [MRG_LENT] { s with mem := t.mem } t)
  ∧ (∀ (s : State) (prg : Nat) (m : Msg), CtrlMsg s m →
    exec (.leaseRecall prg m) s = .next (settle (raise srcMRG_LEASE_RECALLED 0 s)))
  ∧ (∀ (s : State) (prg e : Nat) (m : Msg) (x : Ext), CtrlMsg s m → s.mem.exts = [(e, x)] → x.tier = 1 → x.lease = leAt m.pay 0 2 →
    x.home = m.hdr.src / 4096 → x.state = esHOME → s.mem.moves = [] → s.mem.reqs = [] → s.mem.txns = [] →
    ∃ t, exec (.leaseEnd prg m) s = .next (settle t) ∧ (extOf t e).state = esWITHDRAWN ∧ (extOf t e).gen = (x.gen + 1) % 256
      ∧ rdReg t MRG_WITHDRAWN = rdReg s MRG_WITHDRAWN + 1)
  ∧ (∀ (s : State) (prg : Nat) (m : Msg), CtrlMsg s m →
    (∀ x ∈ s.mem.exts, ¬(x.2.tier = 1 ∧ x.2.lease = leAt m.pay 0 2 ∧ x.2.home = m.hdr.src / 4096)) →
    exec (.leaseEnd prg m) s = .next (settle s))
  ∧ ∀ (s : State) (u b : Nat), u < 512 → s.flt.safe = false → rdF s (MRG_SCRUB (u / 128)) MRG_SCRUB_PERIOD ≠ 0 → s.mem.errs ≠ [] →
    (∀ x ∈ s.mem.errs, x.1 / 80 = b) → isTray (64 * b) = false → channelOf (64 * b % 2 ^ 50) = u →
    (∀ e, errsAfter s b = some e → (e ≠ blockErrs s b → exec (.scrub u []) s = .next (settle (setErrs b e (bump s (MRG_ECC_CE (u / 128))))))
      ∧ (e = blockErrs s b → exec (.scrub u []) s = .next (settle s)))
    ∧ (errsAfter s b = none → ∃ t y, exec (.scrub u []) s = .next (settle t) ∧ t.mem.errs = [] ∧ sfind t.mem.sectors (b / 4) = some y
      ∧ bit y.poison (b % 4) = true ∧ stickySet t srcMRG_HBC_UE (u / 128) = true)

/-- MRG_HQ_CTL.GO for an address of this registrar is answered at once from the extent's entry, or with RESULT 3 where there is
none. A hosted entry in DOUBT asks its registrar; it becomes HOSTED again when the answer names this switch with its GEN, and is
dropped when it does not, or when the home is declared lost, which raises HOME_DECLARED_LOST. A HOME_QUERY and a PUB_QUERY are
answered; an answer to a query of the device is kept. (R263, R264, R302) -/
def Obligations.HomesInDoubtAndPublications : Prop :=
  (∀ s : State, guardOf s MRG_HQ_CTL = none → rdBit s MRG_HQ_CTL MRG_HQ_CTL_BUSY = false → (rdReg s MRG_HQ_ADDR).toNat / 2 ^ 52 % 4096 = ownId s →
    ∃ t, exec .hqGo s = .next (settle t) ∧ t.reply = ⟨false, 0⟩ ∧ rdBit t MRG_HQ_CTL MRG_HQ_CTL_BUSY = false
      ∧ (∀ e, extByAddr s (rdReg s MRG_HQ_ADDR).toNat = some e → rdF t MRG_HQ_CTL MRG_HQ_CTL_RESULT = 1
          ∧ rdReg t MRG_HQ_ANSWER0 = BitVec.ofNat 64 (leAt (extOf s e).enc 0 8) ∧ rdReg t MRG_HQ_ANSWER1 = BitVec.ofNat 64 (leAt (extOf s e).enc 8 8))
      ∧ (extByAddr s (rdReg s MRG_HQ_ADDR).toNat = none → rdF t MRG_HQ_CTL MRG_HQ_CTL_RESULT = 3)
      ∧ OnlyRegs [MRG_HQ_CTL, MRG_HQ_ANSWER0, MRG_HQ_ANSWER1] { s with reply := t.reply } t)
  ∧ (∀ (s : State) (a : Nat), (s.mem.hosted.any fun h => h.addr == a && h.state == hsDOUBT) = true →
    exec (.homeQueryTimer a) s = .next (settle (sendQuery 3 a s))
    ∧ ∃ t, exec (.homeDeclaredLost a) s = .next (settle t) ∧ (∀ h ∈ t.mem.hosted, ¬(h.addr = a ∧ h.state = hsDOUBT))
      ∧ stickySet t srcMRG_HOME_DECLARED_LOST 0 = true)
  ∧ (∀ (s : State) (prg : Nat) (m : Msg) (h : Hosted) (q : DevReq), CtrlMsg s m → s.mem.hosted = [h] → h.state = hsDOUBT → h.addr = q.a →
    s.mem.devReqs = [q] → q.kind = 3 → q.id = leAt m.pay 0 4 → bslice m.pay 8 16 ≠ List.replicate 16 0xFF →
    (entHome (bslice m.pay 8 16) = ownId s → entGen (bslice m.pay 8 16) = h.gen →
      exec (.homeAnswer prg m) s = .next (settle { s with mem := { s.mem with devReqs := [], hosted := [{ h with state := hsHOSTED }] } }))
    ∧ (entHome (bslice m.pay 8 16) ≠ ownId s →
      exec (.homeAnswer prg m) s = .next (settle { s with mem := { s.mem with devReqs := [], hosted := [] } })))
  ∧ (∀ (s : State) (prg : Nat) (m : Msg), CtrlMsg s m →
    exec (.homeQuery prg m) s = .next (settle (emit (.hub 0) (ctrlAnswer s m cHOME_ANSWER
      (bslice m.pay 8 4 ++ zeros 4 ++ homeEntry s (leAt m.pay 0 8))) s)))
  ∧ (∀ (s : State) (prg : Nat) (m : Msg), CtrlMsg s m → pubLookup s (leAt m.pay 0 8) (leAt m.pay 8 4) (srcPart s m.hdr) = none →
    exec (.pubQuery prg m) s = .next (settle (emit (.hub 0) (ctrlAnswer s m cPUB_ANSWER
      (bslice m.pay 12 4 ++ leBytes 1 1 ++ zeros 3 ++ zeros 24)) s)))
  ∧ (∀ (s : State) (prg : Nat) (m : Msg) (q : DevReq), CtrlMsg s m → s.mem.devReqs = [q] → q.kind = 2 → q.id = leAt m.pay 0 4 →
    exec (.pubAnswer prg m) s = .next (settle { s with mem := { s.mem with devReqs := [], pubAnswer := bslice m.pay 0 32 } }))
  ∧ ∀ (s : State) (n v : Nat) (q : Nat) (p : Pub), pubLookup s n v (some q) = some p →
    p.name = n ∧ p.state = 1 ∧ (p.owner = q ∨ bit p.readers q = true)

/-- A DOORBELL of the owner within the rings sets the three indices; one that runs past a ring puts a queue pair without requests
into ERROR with RING. The read of one send entry makes it the last of the requests and moves the head of the ring on; a read
whose outcome is missing asks for it and changes nothing else, and one that fails puts the queue pair into ERROR with its
status. The next request of the ring, of the OP named and with a LEN of Table SHT-3, starts with the PSN that is next, if every
segment of the one before was sent and its FENCE lets it. A READ_REQ or FLUSH that is next to leave takes its PSNs, counts 64 in
INFLIGHT, and is the last of the segments sent. (R306, R308, R309, R317, R321) -/
def Obligations.ShuttleRequests : Prop :=
  (∀ (s : State) (n q : Nat) (m : Msg), ToQp s n q m → m.hdr.sint = false → m.hdr.src = (qpOf s q).owner →
    rsub (leAt m.pay 12 4) (qpOf s q).sqHead ≤ 2 ^ (qpOf s q).sqLog → rsub (leAt m.pay 12 4) (qpOf s q).sqTail < 2 ^ 31 →
    rsub (leAt m.pay 16 4) (qpOf s q).rqHead ≤ (if (qpOf s q).rqLog = 0 then 0 else 2 ^ (qpOf s q).rqLog) → rsub (leAt m.pay 16 4) (qpOf s q).rqTail < 2 ^ 31 →
    rsub (leAt m.pay 20 4) (qpOf s q).cqHead ≤ rsub (qpOf s q).cqTail (qpOf s q).cqHead →
    exec (.doorbell n m ()) s = .next (settle (setQp s q { qpOf s q with
      sqTail := leAt m.pay 12 4, rqTail := leAt m.pay 16 4, cqHead := leAt m.pay 20 4 })))
  ∧ (∀ (s : State) (n q : Nat) (m : Msg), ToQp s n q m → m.hdr.sint = false → m.hdr.src = (qpOf s q).owner →
    2 ^ (qpOf s q).sqLog < rsub (leAt m.pay 12 4) (qpOf s q).sqHead → (qpOf s q).wqes = [] →
    ∃ t, exec (.doorbell n m ()) s = .next (settle t) ∧ (qpOf t q).state = qsERROR ∧ (qpOf t q).err = shRING
      ∧ stickySet t srcSHT_QP_ERROR n = true)
  ∧ (∀ (s : State) (q : Nat), (qpOf s q).state = qsRTS → rsub (qpOf s q).sqTail (qpOf s q).sqHead = 1 →
    (qpOf s q).sqHead < 2 ^ 32 →
    let x := (shtCtx s q jbSQ).readSt ((qpOf s q).sqBase + 64 * ((qpOf s q).sqHead % 2 ^ (qpOf s q).sqLog)) 64
    exec (.sqReadDone q ()) s = .next (settle (
      if x.2.2.stuck then x.2.2.askAll s
      else if x.1 ≠ stOK then qpErr q x.1 none (farUsed x.2.2.used x.2.2.s)
      else badNext q (modQp (farUsed x.2.2.used x.2.2.s) q fun y => { y with
        sqHead := (y.sqHead + 1) % 2 ^ 32, wqes := y.wqes ++ [{ id := (qpOf s q).sqHead, raw := x.2.1 }] }))))
  ∧ (∀ (s : State) (q op : Nat) (w : Wqe), ((qpOf s q).state = qsRTS ∨ (qpOf s q).state = qsDRAINING) →
    (qpOf s q).wqes.find? (fun y => !y.started) = some w → w.op = op → wqeOk w = true →
    ((qpOf s q).wqes.filter (·.started)).all (·.out) = true →
    (w.fence = true → ((qpOf s q).wqes.filter (·.started)).all (fun y => !(y.op == 3 || y.op == 4)) = true) →
    ∀ t, t = setQp s q { qpOf s q with wqes := (qpOf s q).wqes.map fun y =>
      if y.id = w.id then { w with started := true, first := (qpOf s q).sendPsn } else y } →
    (op = 1 → exec (.wqeSend q) s = .next (settle t)) ∧ (op = 2 → exec (.wqeWrite q) s = .next (settle t))
      ∧ (op = 3 → exec (.wqeRead q) s = .next (settle t)) ∧ (op = 4 → exec (.wqeFlush q) s = .next (settle t)))
  ∧ ∀ (s : State) (n q left : Nat) (w : Wqe), n < 16 → s.flt.safe = false → regionOff s true n = false → unitOn s grSHT n = true →
    shtTurn s n = some (q, left) → shtNext (qpOf s q) = some (.req w) → qpEngine q = n → (∀ y ∈ (qpOf s q).wqes, wqeOk y = true) →
    hasRoute s (.region n) (reqMsg s q w (qpOf s q).sendPsn).hdr = true →
    let span := if w.op = 3 then cdiv w.len 4096 else 1
    ∃ t, exec (.shuttleSegmentTx n ()) s = .next (settle t)
      ∧ (qpOf t q).sendPsn = padd (qpOf s q).sendPsn span ∧ (qpOf t q).inflight = (qpOf s q).inflight + 64
      ∧ (qpOf t q).segs = (qpOf s q).segs ++ [⟨(qpOf s q).sendPsn, span, w.id, 0, 0, 64, w.raw⟩]

/-- On a queue pair that takes segments, the segment with the expected PSN is accepted: a WRITE under a registration that admits it
and a SEND of an open receive are placed, a READ_REQ is answered by READ_RESP segments, and a FLUSH waits behind a placement
before it; each advances the expected PSN and counts. A segment ahead of it advances nothing, and the first one in a gap is
answered, where there is a route to the peer, with NAK SEQ. (A placement that is accepted changes nothing in memory, unless it
has to ask for access.) A READ_RESP of a READ in progress is placed. A placement ends with the status of its write; one whose
write's outcome is missing asks for it and changes nothing else; one of no READ and no receive, whose write ended OK, is done
and changes nothing else of a queue pair without receives and FLUSHes. (R313, R315, R316, R317, R324) -/
def Obligations.ShuttleSegments : Prop :=
  (∀ (s : State) (n q : Nat) (m : Msg), NextSeg s n q m →
    regRefuses s (qpOf s q).part (smKey m) (smAddr m) (smLen m) 0 = none →
    ∃ t, exec (.shtWrite n m ()) s = .next (settle t) ∧ (qpOf t q).recvPsn = padd (qpOf s q).recvPsn 1
      ∧ (qpOf t q).places = (qpOf s q).places ++ [⟨smPsn m, none, none, some (smKey m % 2 ^ 14), smAddr m, smData m⟩]
      ∧ rdReg t (SHT_SEGS_RX n) = rdReg s (SHT_SEGS_RX n) + 1
      ∧ ∀ p, p = (⟨smPsn m, none, none, some (smKey m % 2 ^ 14), smAddr m, smData m⟩ : Place) →
        (placeWrite q p (modQp s q fun x => { x with places := x.places ++ [p] })).2.stuck = false → t.mem = s.mem)
  ∧ (∀ (s : State) (n q : Nat) (m : Msg) (r : RecvMsg), NextSeg s n q m → (qpOf s q).recvs.find? (fun y => !y.last) = some r →
    smAddr m + smLen m ≤ r.len →
    ∃ t, exec (.shtSend n m ()) s = .next (settle t) ∧ (qpOf t q).recvPsn = padd (qpOf s q).recvPsn 1
      ∧ (qpOf t q).places = (qpOf s q).places ++ [⟨smPsn m, none, some r.id, none, r.addr + smAddr m, smData m⟩]
      ∧ rdReg t (SHT_SEGS_RX n) = rdReg s (SHT_SEGS_RX n) + 1
      ∧ ∀ p, p = (⟨smPsn m, none, some r.id, none, r.addr + smAddr m, smData m⟩ : Place) →
        (placeWrite q p (modQp (setQp s q { qpOf s q with recvs := (qpOf s q).recvs.map fun y =>
          if y.id = r.id then { r with bytes := r.bytes + smLen m, left := r.left + 1, last := false } else y }) q
          fun x => { x with places := x.places ++ [p] })).2.stuck = false → t.mem = s.mem)
  ∧ (∀ (s : State) (n q : Nat) (m : Msg), NextSeg s n q m →
    regRefuses s (qpOf s q).part (smKey m) (smAddr m) (smLen m) 1 = none →
    ∃ t, exec (.readReq n m ()) s = .next (settle t) ∧ (qpOf t q).recvPsn = padd (qpOf s q).recvPsn (cdiv (smLen m) 4096)
      ∧ (qpOf t q).resps = (qpOf s q).resps ++ respsOf m ∧ rdReg t (SHT_SEGS_RX n) = rdReg s (SHT_SEGS_RX n) + 1)
  ∧ (∀ (s : State) (n q : Nat) (m : Msg) (p : Place), NextSeg s n q m → (qpOf s q).places = [p] → p.read = none →
    psub (smPsn m) p.psn < 2 ^ 23 →
    ∃ t, exec (.shtFlush n m ()) s = .next (settle t) ∧ (qpOf t q).recvPsn = padd (qpOf s q).recvPsn 1 ∧ (qpOf t q).flushes = [smPsn m]
      ∧ rdReg t (SHT_SEGS_RX n) = rdReg s (SHT_SEGS_RX n) + 1)
  ∧ (∀ (s : State) (n q : Nat) (m : Msg), ToQp s n q m → blockFenced s grSHT n = false → regionOff s true n = false →
    0 < psub (smPsn m) (qpOf s q).recvPsn → psub (smPsn m) (qpOf s q).recvPsn < 2 ^ 23 → (qpOf s q).gap = false →
    hasRoute s (.region n) (shtMsg s q 7 0 shSEQ (qpOf s q).recvPsn 0 0 0 []).hdr = true →
    ∃ t, exec (.shtWrite n m ()) s = .next (settle t) ∧ (qpOf t q).recvPsn = (qpOf s q).recvPsn ∧ (qpOf t q).places = (qpOf s q).places
      ∧ (qpOf t q).gap = true ∧ rdReg t (SHT_NAKS_TX n) = rdReg s (SHT_NAKS_TX n) + 1 ∧ rdReg t (SHT_DISCARDS n) = rdReg s (SHT_DISCARDS n) + 1)
  ∧ (∀ (s : State) (n q : Nat) (m : Msg) (w : Wqe), ToQp s n q m →
    ((qpOf s q).wqes.find? fun w => w.op == 3 && w.out && psub (smPsn m) w.first < w.span && !w.got.contains (smPsn m)) = some w →
    ∃ t, exec (.readResp n m) s = .next (settle t)
      ∧ (qpOf t q).places = (qpOf s q).places ++ [⟨smPsn m, some w.id, none, none, w.laddr + smAddr m, smData m⟩]
      ∧ rdReg t (SHT_SEGS_RX n) = rdReg s (SHT_SEGS_RX n) + 1)
  ∧ (∀ (s : State) (q psn : Nat) (p : Place), s.sht.late.contains (q, psn) = false →
    (qpOf s q).places.find? (fun y => y.psn == psn) = some p →
    let x := placeWrite q p s
    exec (.placementDone q psn ()) s
      = .next (settle (if x.2.stuck then x.2.askAll s else placeEnded q p x.1 (farUsed x.2.used x.2.s))))
  ∧ ∀ (s : State) (q : Nat) (p : Place), p.read = none → p.recv = none → (qpOf s q).recvs = [] →
    (qpOf s q).flushes = [] → placeEnded q p stOK s = modQp s q fun y => { y with places := y.places.erase p }

/-- An ACK that reaches new segments, and completes no request at the head, releases them and advances UNA_PSN and clears the
retries; a new NAK SEQ and an expired retry timer below the limit make every segment due again, the latter counted. ACK_DELAY
sends the acknowledgement that is owed. A revoked registration without placements is free with KEYGEN + 1, one whose placements
are late raises REVOKE_LATE. (R313, R319, R321, R322, R325) -/
def Obligations.ShuttleAcknowledgement : Prop :=
  (∀ (s : State) (n q : Nat) (m : Msg), ToQp s n q m → (qpOf s q).state = qsRTS → smEcho m = false →
    0 < psub (padd (smPsn m) 1) (qpOf s q).unaPsn → psub (padd (smPsn m) 1) (qpOf s q).unaPsn ≤ psub (qpOf s q).sendPsn (qpOf s q).unaPsn →
    ((releaseTo (qpOf s q) (padd (smPsn m) 1) (smStatus m)).wqes.head?.any fun w => w.complete) = false →
    ∃ t, exec (.ack n m ()) s = .next (settle t) ∧ (qpOf t q).unaPsn = padd (smPsn m) 1 ∧ (qpOf t q).retries = 0
      ∧ (qpOf t q).segs = (releaseTo (qpOf s q) (padd (smPsn m) 1) (smStatus m)).segs
      ∧ (qpOf t q).inflight = (releaseTo (qpOf s q) (padd (smPsn m) 1) (smStatus m)).inflight ∧ t = { s with sht := t.sht, mem := t.mem } ∧ t.mem = { s.mem with far := t.mem.far })
  ∧ (∀ (s : State) (n q : Nat) (m : Msg), ToQp s n q m → smStatus m = shSEQ → (qpOf s q).nakSeq ≠ some (smPsn m) →
    exec (.nak n m ()) s = .next (settle (setQp s q { qpOf s q with
      nakSeq := some (smPsn m), resend := (qpOf s q).segs.map (·.psn) })))
  ∧ (∀ (s : State) (q : Nat), (qpOf s q).state = qsRTS → (qpOf s q).unackd ≠ 0 → (qpOf s q).flushes = [] →
    ∃ t, exec (.ackDelayExpire q) s = .next (settle t) ∧ t = sendAck q (psub (qpOf s q).recvPsn 1) stOK s ∧ (qpOf t q).unackd = 0)
  ∧ (∀ (s : State) (q : Nat), q < 32768 → (qpOf s q).state = qsRTS → (qpOf s q).segs ≠ [] →
    (qpOf s q).retries + 1 < rdF s (SHT_RETRY (qpEngine q)) SHT_RETRY_LIMIT →
    ∃ t, exec (.shtRetryTimer q ()) s = .next (settle t) ∧ (qpOf t q).resend = (qpOf s q).segs.map (·.psn)
      ∧ (qpOf t q).retries = (qpOf s q).retries + 1 ∧ rdReg t (SHT_RETRIES (qpEngine q)) = rdReg s (SHT_RETRIES (qpEngine q)) + 1)
  ∧ (∀ (s : State) (i : Nat), (shtReg s i).state = 2 → regPlaces s i = [] →
    ∃ t, exec (.revokeDone i) s = .next (settle t) ∧ (shtReg t i).state = 0 ∧ (shtReg t i).keygen = ((shtReg s i).keygen + 1) % 256)
  ∧ ∀ (s : State) (i q : Nat) (p : Place), (shtReg s i).state = 2 → regPlaces s i = [(q, p)] → p.read = none → p.recv = none →
    (qpOf s q).recvs = [] → (qpOf s q).flushes = [] →
    ∃ t, exec (.revokeLate i ()) s = .next (settle t) ∧ (shtReg t i).ended = (shtReg s i).ended + 1 ∧ stickySet t srcSHT_REVOKE_LATE 0 = true
      ∧ t.sht.late = s.sht.late ++ [(q, p.psn)]

/-- A host MemWr to a CXL port in host role completes normally; it counts in CXP_HOST_WR_DISCARD and raises HOST_WRITE, whose class
is NOTICE at reset; no other register and no memory changes. (A port that takes no work now, as in an engine reset, holds it
until it does.) (R358) -/
def Obligations.HostWriteDiscarded : Prop :=
  (∀ (s : State) (c : Nat), c < 16 → cxlOn s c = true → cxlHost s c = true → unitHeld s grCXP c = false →
    ∃ t, exec (.hostWrite c) s = .next (settle t) ∧ rdReg t (CXP_HOST_WR_DISCARD c) = rdReg s (CXP_HOST_WR_DISCARD c) + 1
      ∧ stickySet t srcCXP_HOST_WRITE c = true
      ∧ OnlyRegs [CXP_HOST_WR_DISCARD c, G_ERR_STICKY grCXP c srcCXP_HOST_WRITE.p] { s with flt := t.flt, fires := t.fires } t)
  ∧ (∀ (s : State) (c : Nat), cxlOn s c = true → cxlHost s c = true → unitHeld s grCXP c = true →
    exec (.hostWrite c) s = .next (settle { s with mem := { s.mem with
      hosts := s.mem.hosts ++ [{ port := c, ld := 0, dpa := 0, write := true }] } }))
  ∧ ∀ c, c < 16 → srcClass State.reset srcCXP_HOST_WRITE c = 0

/-- At a port that takes work, a read of the directory slot answers the entry of Table LNK-8; a read of a slot without a publication
is poison and counts. The capacity, partition, health and log commands are answered as R359 gives, and every other with
Unsupported (0x15). A push into the window of a logical device, whose mailbox is enabled and has room, is accepted, and OUT_POP
frees the oldest complete outbound message. (R355, R356, R357, R359, R457) -/
def Obligations.HostReadsAndMailbox : Prop :=
  (∀ (s : State) (c ld dpa : Nat), LdServed s c ld → unitHeld s grCXP c = false → s.flt.safe = false → dpa < 4096 * 64 → 18 ≤ slotLog s c →
    exec (.hostMemrd c ld dpa ()) s = .next (settle { bump s (CXP_HOST_RD c) with
      cxl := some { port := c, ld := ld, poison := false, data := dirEntry s c ld (dpa / 64) } }))
  ∧ (∀ (s : State) (c ld dpa : Nat), LdServed s c ld → unitHeld s grCXP c = false → s.flt.safe = false → 0 < dpa / 64 * 64 / 2 ^ slotLog s c →
    dirPub s c ld (dpa / 64 * 64 / 2 ^ slotLog s c - 1) = none →
    exec (.hostMemrd c ld dpa ()) s = .next (settle { bump (bump s (CXP_HOST_RD c)) (CXP_HOST_POISON c) with
      cxl := some { port := c, ld := ld, poison := true, data := [] } }))
  ∧ (∀ (s : State) (c ld : Nat), LdServed s c ld → ∀ f : Nat → List Nat → State,
    (∀ code vals, f code vals = { s with cxl := some { port := c, ld := ld, code := code, vals := vals } }) →
    exec (.identifyMemoryDevice c ld) s = .next (settle (f 0 [ldCapacity s c / 2 ^ 28]))
    ∧ exec (.getPartitionInfo c ld) s = .next (settle (f 0 [ldCapacity s c / 2 ^ 28, 0]))
    ∧ exec (.getHealthInfo c ld) s = .next (settle (f 0 [if s.flt.safe then 1 else 0]))
    ∧ exec (.getSupportedLogs c ld) s = .next (settle (f 0 [1, 28]))
    ∧ exec (.getLog c ld) s = .next (settle (f 0 ldOpcodes))
    ∧ exec (.getEventRecords c ld) s = .next (settle (f 0 [0]))
    ∧ exec (.clearEventRecords c ld) s = .next (settle (f 0 []))
    ∧ exec (.cxlMbxUnsupported c ld) s = .next (settle (f 0x15 [])))
  ∧ (∀ (s : State) (c ld len tag b : Nat) (ws : List Word), ldMailbox s c ld = some b → unitOn s grMBX b = true → len < 8 → (mbxOf s b).inq.length + len + 1 ≤ 16 →
    ∃ t, exec (.inPush c ld len tag ws) s = .next (settle t) ∧ ((mbxOf t b).inq.take (mbxOf s b).inq.length) = (mbxOf s b).inq
      ∧ (mbxOf t b).inq.drop ((mbxOf s b).inq.length + 1) = ws.take len ∧ (mbxOf t b).push = 1
      ∧ rdReg t (MBX_ACCEPTED b) = rdReg s (MBX_ACCEPTED b) + 1)
  ∧ ∀ (s : State) (c ld b : Nat), ldMailbox s c ld = some b → outHead (mbxOf s b) ≠ [] →
    ∃ t, exec (.outPop c ld) s = .next (settle t) ∧ (mbxOf t b).outq = (mbxOf s b).outq.drop (outHead (mbxOf s b)).length
      ∧ rdReg t (MBX_SENT b) = rdReg s (MBX_SENT b) + 1

/-- The link of an enabled port in host role, or of a tray whose ranges fit, comes up with its width and speed; ranges that do not
fit leave it in training and raise TRAY_CONFIG. A link that goes down raises CXP_LINK_DOWN, forgets the tags of late responses
and the host reads that wait there, and changes nothing else of memory where no request is outstanding; a correctable error
counts only. A poisoned response ends its request with TIER_FAILED, raises TRAY_POISON and counts, and the request's other tags
await their late responses; the response to the last line of a request serves it; a late one is dropped and counted, at the port
and in the hub of its request. (R352, R353, R354) -/
def Obligations.TrayLinks : Prop :=
  (∀ (s : State) (c cap w v : Nat), c < 16 → cxlOn s c = true → cxlState s c ≠ 2 → s.mem.reqs = [] →
    ((cxlHost s c = true ∨ trayBad s c cap = false) →
      ∃ t, exec (.trayLinkUp c cap w v) s = .next (settle t) ∧ cxlState t c = 2 ∧ rdF t (CXP_LINK_STATE c) CXP_LINK_STATE_WIDTH = w % 4
        ∧ rdF t (CXP_LINK_STATE c) CXP_LINK_STATE_SPEED = v % 2 ∧ OnlyRegs [CXP_LINK_STATE c] s t)
    ∧ (cxlHost s c = false → trayBad s c cap = true →
      ∃ t, exec (.trayLinkUp c cap w v) s = .next (settle t) ∧ cxlState t c = 1 ∧ stickySet t srcCXP_TRAY_CONFIG c = true))
  ∧ (∀ (s : State) (c : Nat), c < 16 → cxlState s c ≠ 0 → s.mem.reqs = [] →
    ∃ t, exec (.cxpLinkDown c 0) s = .next (settle t) ∧ cxlState t c = 0 ∧ stickySet t srcCXP_CXP_LINK_DOWN c = true
      ∧ t.mem.lateTags = s.mem.lateTags.filter (fun x => x.1 != c) ∧ t.mem.hosts = s.mem.hosts.filter (fun x => x.port != c)
      ∧ t.mem = { s.mem with lateTags := t.mem.lateTags, hosts := t.mem.hosts, far := t.mem.far })
  ∧ (∀ (s : State) (c : Nat), exec (.cxpLinkDown c 2) s = .next (settle (bump s (CXP_CE c))))
  ∧ (∀ (s : State) (c tag : Nat) (ts : List Nat) (r : Req) (raw : Bytes), c < 16 → s.mem.reqs = [r] → r.stage = .tray c ts →
    ts.contains tag = true → r.op = none → r.dev = none → r.merged = false → r.more = [] →
    let u := if ts.filter (fun t => t != tag) = [] then progress s grCXP c else s
    exec (.trayResponse c tag 1 raw) s = .next (settle (runReqs (answer r.prg r.msg stTIER_FAILED none (countTier r.prg stTIER_FAILED
      (raise srcCXP_TRAY_POISON c (bump { u with mem := { u.mem with
        reqs := [], lateTags := u.mem.lateTags ++ (ts.filter fun t => t != tag).map fun t => (c, t, entryHub r.prg, r.arr) } } (CXP_POISON_RX c))))))))
  ∧ (∀ (s : State) (c tag : Nat) (r : Req) (raw : Bytes), c < 16 → s.mem.reqs = [r] → r.stage = .tray c [tag] →
    exec (.trayResponse c tag 0 raw) s
      = .next (settle (runReqs (trayServe { r with stage := .tray c [] } raw { progress s grCXP c with mem := { s.mem with reqs := [] } }))))
  ∧ ∀ (s : State) (c tag hub arr : Nat) (raw : Bytes), s.mem.reqs = [] → s.mem.lateTags = [(c, tag, hub, arr)] →
    exec (.trayResponse c tag 0 raw) s
      = .next (settle (bump (bump { s with mem := { s.mem with lateTags := [] } } (CXP_LATE_DROPS c)) (MRG_LATE_DROPS hub)))

/-- While a report is being built: if the state-store die takes the new index, the report with the old index and its signature is
stored in the buffer, the index advances by one and RESULT is 1; if the write fails, no memory changes, RESULT is 2 and
SIGN_STATE is raised, whose class is ENGINE at reset; once index 2^40 - 1 has been used, no memory changes, the index stays and
RESULT is 3. So no two releases carry one index. (R416) -/
def Obligations.SigningIndex : Prop :=
  (∀ s : State, rdBit s SEC_ATTEST_CTL SEC_ATTEST_CTL_BUSY = true → s.sec.index < 2 ^ 40 →
    ∃ t, exec (.attestDone true) s = .next (settle t) ∧ t.sec.index = s.sec.index + 1 ∧ rdBit t SEC_ATTEST_CTL SEC_ATTEST_CTL_BUSY = false
      ∧ rdF t SEC_ATTEST_CTL SEC_ATTEST_CTL_RESULT = 1
      ∧ ∃ body : Bytes, (∃ u : State, body = attestBody u s.sec.report s.sec.index)
        ∧ t.cdmem = (cdWrite s (attestBuf s) (body ++ bslice (Config.sign s.sec.index body) 0 9893)).cdmem)
  ∧ (∀ s : State, rdBit s SEC_ATTEST_CTL SEC_ATTEST_CTL_BUSY = true → s.sec.index < 2 ^ 40 →
    ∃ t, exec (.attestDone false) s = .next (settle t) ∧ t.cdmem = s.cdmem ∧ t.sec.index = s.sec.index
      ∧ rdF t SEC_ATTEST_CTL SEC_ATTEST_CTL_RESULT = 2 ∧ stickySet t srcSEC_SIGN_STATE 16 = true)
  ∧ (∀ (s : State) (b : Bool), rdBit s SEC_ATTEST_CTL SEC_ATTEST_CTL_BUSY = true → 2 ^ 40 ≤ s.sec.index →
    ∃ t, exec (.attestDone b) s = .next (settle t) ∧ t.cdmem = s.cdmem ∧ t.sec.index = s.sec.index
      ∧ rdF t SEC_ATTEST_CTL SEC_ATTEST_CTL_RESULT = 3)
  ∧ srcClass State.reset srcSEC_SIGN_STATE 16 = 2

/-- When the retirement of a partition without objects, domains, regions and cached replies ends, it is FREE without members and
grants; a consent whose time has passed is gone. ATTEST_GO without a report in progress takes the nonce and sets BUSY. A TAP
access that SEC_DEBUG.JTAG does not admit is denied, counted, and raises TAP_DENIED; a CSR read that it admits is answered like
any read. (R410, R412, R414, R415) -/
def Obligations.PartitionsAndAttestation : Prop :=
  (∀ (s : State) (p : Nat), p < 16 → s.sec.retiring = [p] → s.mem.objs = [] → s.mem.doms = [] → s.mem.cmbs = [] → partRegions s p = [] →
    ∃ t, exec (.partRetireFree p) s = .next (settle t) ∧ partState t p = 0 ∧ t.sec.retiring = [] ∧ rdReg t (SEC_PART_MEMBERS p) = 0
      ∧ ∀ i < 8, rdReg t (SEC_PART_GRANT p i) = 0)
  ∧ (∀ (s : State) (p : Nat) (c : Consent), p < 16 → sfind s.sec.consents p = some c → c.notAfter < now s →
    ∃ t, exec (.consentExpire p) s = .next (settle t) ∧ t.sec.consents = sdel s.sec.consents p
      ∧ rdF t (SEC_PART_STATE p) SEC_PART_STATE_CONSENT = 0 ∧ OnlyRegs [SEC_PART_STATE p, SEC_PART_CONSENT_END p] { s with sec := t.sec } t)
  ∧ (∀ s : State, guardOf s SEC_ATTEST_CTL = none → rdBit s SEC_ATTEST_CTL SEC_ATTEST_CTL_BUSY = false →
    ∃ t, exec (.attestGo []) s = .next (settle t) ∧ t.reply = ⟨false, 0⟩ ∧ rdBit t SEC_ATTEST_CTL SEC_ATTEST_CTL_BUSY = true
      ∧ t.sec = { s.sec with report := cdLoad s (attestBuf s) 32 } ∧ t.cdmem = s.cdmem)
  ∧ (∀ (s : State) (op a size : Nat) (w : Word), 2 ≤ op → rdF s SEC_DEBUG SEC_DEBUG_JTAG ≠ 2 →
    ∃ t, exec (.tapAccess op a size w) s = .next (settle t) ∧ t.reply = ⟨true, 0⟩ ∧ rdReg t SEC_TAP_DENIED = rdReg s SEC_TAP_DENIED + 1
      ∧ stickySet t srcSEC_TAP_DENIED 16 = true ∧ t.cdmem = s.cdmem ∧ t.mem = s.mem)
  ∧ ∀ (s : State) (w : Word), rdF s SEC_DEBUG SEC_DEBUG_JTAG = 2 →
    ∃ t, exec (.tapAccess 2 CHP_FW_VERSION 8 w) s = .next (settle t) ∧ t.reply = ⟨false, rdReg s CHP_FW_VERSION⟩
      ∧ t.sec = { s.sec with sessions := s.sec.sessions + 1, tap := rdReg s CHP_FW_VERSION } ∧ t.regs = s.regs

/-- On every page with a HANG source a window without progress while work is pending sets the HANG bit and counts in FLT_HANGS; a
module failure raises UCIE_MODULE_DOWN; the end of a test of a compute region, a tile block, a port or a channel records pass or
fail and the failures, that of a module takes it back or fails it. A dump that is asked for with a buffer is BUSY and counts in
FLT_DUMPS, one without a buffer ends with RESULT 3; a dump that is done is stored behind its header, with RESULT 1, or 2 where
the buffer filled up, and a read that times out (here at the first word of the last page left) leaves a placeholder. (R17, R418,
R424, R433, R437, R438) -/
def Obligations.FaultsAndTests : Prop :=
  (∀ (s : State) (g u : Nat), u < 4096 → (pageSources g u 0).any (fun y => y.1 == 15) = true →
    rdF s (G_PROGRESS_WINDOW g u 0) G_PROGRESS_WINDOW_WINDOW ≠ 0 → pendingWork s g u = true → s.flt.causes = [] →
    stickySet s ⟨g, 0, 15⟩ u = false →
    ∃ t, exec (.hangWindow g u) s = .next (settle t) ∧ stickySet t ⟨g, 0, 15⟩ u = true
      ∧ rdReg t (FLT_HANGS (collectorOf g u)) = rdReg s (FLT_HANGS (collectorOf g u)) + 1)
  ∧ (∀ (s : State) (hub link m : Nat), hub < 4 → link < 4 → m < bundleSize link →
    ∃ t, exec (.ucieModuleDown hub link m) s = .next (settle t) ∧ stickySet t srcCHP_UCIE_MODULE_DOWN 0 = true)
  ∧ (∀ (s : State) (k n u fails : Nat) (b : Bool), k ∈ [2, 3, 4] → s.flt.tests = [⟨k, n, u⟩] → fails < 2 ^ 32 →
    ∃ t, exec (.testDone k n b fails) s = .next (settle t) ∧ t.flt.tests = [] ∧ OnlyRegs [FLT_TEST_RESULT n] { s with flt := t.flt } t
      ∧ rdF t (FLT_TEST_RESULT n) FLT_TEST_RESULT_STATE = (if b then 2 else 3) ∧ rdF t (FLT_TEST_RESULT n) FLT_TEST_RESULT_FAILS = fails)
  ∧ (∀ (s : State) (n u fails : Nat) (b : Bool), s.flt.tests = [⟨1, n, u⟩] → fails < 2 ^ 32 →
    ∃ t, exec (.testDone 1 n b fails) s = .next (settle t)
      ∧ ((fltRegion n).all (fun r => !r.1) = true →
          rdF t (FLT_TEST_RESULT n) FLT_TEST_RESULT_STATE = (if b then 2 else 3) ∧ rdF t (FLT_TEST_RESULT n) FLT_TEST_RESULT_FAILS = fails))
  ∧ (∀ (s : State) (n u fails : Nat) (b : Bool), s.flt.tests = [⟨5, n, u⟩] →
    exec (.testDone 5 n b fails) s = .next (settle ((if b then ucieJoins else ucieFails) (n % 16) (u / 32) (u % 32)
      { s with flt := { s.flt with tests := [] } })))
  ∧ (∀ (s : State) (w : Word), guardOf s FLT_DUMP_CTL = none → rdBit s FLT_DUMP_CTL FLT_DUMP_CTL_BUSY = false →
    (FLT_DUMP_CTL_SIZE_MIB.get w ≠ 0 →
      ∃ t, exec (.dumpGo w) s = .next (settle t) ∧ t.reply = ⟨false, 0⟩ ∧ rdBit t FLT_DUMP_CTL FLT_DUMP_CTL_BUSY = true
        ∧ rdReg t FLT_DUMPS = rdReg s FLT_DUMPS + 1 ∧ t.flt.dump = some { trigger := 1, start := now s, todo := dumpPages })
    ∧ (FLT_DUMP_CTL_SIZE_MIB.get w = 0 →
      ∃ t, exec (.dumpGo w) s = .next (settle t) ∧ rdF t FLT_DUMP_CTL FLT_DUMP_CTL_RESULT = 3 ∧ t.flt.dump = s.flt.dump))
  ∧ (∀ (s : State) (x : Dump), s.flt.dump = some x →
    let y := dumpRead s none x.todo x
    let z := if !y.2 && rdBit s SEC_DEBUG SEC_DEBUG_DUMP_DATA then dumpSram s (List.range 16) y.1 else y
    ∃ t, exec .dumpDone s = .next (settle t) ∧ t.flt.dump = none ∧ rdBit t FLT_DUMP_CTL FLT_DUMP_CTL_BUSY = false
      ∧ rdF t FLT_DUMP_CTL FLT_DUMP_CTL_RESULT = (if z.2 then 2 else 1)
      ∧ t.cdmem = (cdWrite s (rdF s FLT_DUMP_DST FLT_DUMP_DST_ADDR * 2 ^ 16) (dumpHeader s z.1 ++ z.1.bytes)).cdmem)
  ∧ ∀ (s : State) (x : Dump) (p : Nat), s.flt.dump = some x → x.todo = [p] → dumpFits s x 0 = true →
    ∃ t, exec (.dumpReadTimeout p 0) s = .next (settle t)
      ∧ t.flt.dump = some { dumpAdd 1 1 p [] { x with todo := [] } with todo := [] }
      ∧ stickySet t srcFLT_DUMP_PLACEHOLDER 0 = true

/-- At power-on with every rail good and a shadow equal to the fuses the device is as after reset, but for the boot state, the
supply, the waiting commands and the signing index, and fetches. A source that fails, by timeout or BOOT_NONE, tells the board
controller and hands over to the next, or after the last one to a retry, which starts at the first. What the board controller is
told is sent once it gave an address, and held before. A chunk with bytes that are not held is held; one that completes the
image puts the loader into VERIFY, unless it shows RESTARTING. When the checks of a complete image end, an accepted one is
loaded at address 0 and the firmware runs, READY or not yet; one that fails is discarded, the board controller is told, and the
loader goes on. CHP_RESTART, and a watchdog with AUTO, stops the firmware, makes the OPEN and SEALED clauses abort, and fetches
again; without AUTO the watchdog only reports, and its period and a kick start the period again. RESET_N shorter than 100 ns is
ignored; from 1 µs on it begins a chip reset with cause 2; a pulse in between faults, because R467 gives it no effect. (R445,
R447, R448, R449, R450, R467) -/
def Obligations.BootAndFirmware : Prop :=
  (∀ (s : State) (rails : List Nat), s.boot.on = false → s.boot.shadow = some fuses → ((List.range 44).all fun r => railGood r (rails.getD r 0)) = true →
    ∃ t, exec (.powerOn rails) s = .next (settle t) ∧ t.boot.on = true ∧ t.boot.fetching = true ∧ bootState t = bsFETCH
      ∧ (∀ a, a ∉ [CHP_BOOT_STATE, PRT_LINK_STATE bootPort] → rdReg t a = rdReg State.reset a)
      ∧ t = { State.reset with
          regs := t.regs, boot := t.boot, pwr := t.pwr, pending := s.pending, free := s.free, sec := { State.reset.sec with index := s.sec.index } })
  ∧ (∀ s : State, s.boot.fetching = true → s.boot.retry = false →
    let u := ibi ibiBOOT_WAIT s
    let t := if s.boot.src + 1 < bootSources.length then bootRequest { u with boot := { u.boot with src := s.boot.src + 1 } }
      else { u with boot := { u.boot with retry := true, ask := false } }
    (s.boot.chunk = false → exec .bootSourceTimeout s = .next (settle t))
    ∧ exec (.bootNone (bootSources.getD s.boot.src false)) s = .next (settle t))
  ∧ (∀ s : State, s.boot.fetching = true → s.boot.retry = true →
    ∃ t, exec .bootRetry s = .next (settle t) ∧ t.boot.src = 0 ∧ t.boot.retry = false ∧ t.boot.fetching = true)
  ∧ (∀ (s : State) (r : Nat), (s.boot.i3c = true → ibi r s = { s with boot := { s.boot with ibiSent := s.boot.ibiSent ++ [r] } })
    ∧ (s.boot.i3c = false → s.boot.ibiHeld.contains r = false → ibi r s = { s with boot := { s.boot with ibiHeld := s.boot.ibiHeld ++ [r] } }))
  ∧ (∀ (s : State) (off : Nat) (d : Bytes), s.boot.fetching = true →
    (off + d.length ≤ heldTo s.boot.pieces (s.boot.pieces.length + 1) off →
      exec (.bootChunk off d) s = .next (settle { s with boot := { s.boot with chunk := true } }))
    ∧ (heldTo s.boot.pieces (s.boot.pieces.length + 1) off < off + d.length →
      ∀ u, u = { s with boot := { s.boot with chunk := true, pieces := s.boot.pieces ++ [(off, d)] } } →
      (0x2800 ≤ imageHeld u → imageNeed u ≤ imageHeld u → bootState s ≠ bsRESTARTING →
        exec (.bootChunk off d) s = .next (settle (setBootState bsVERIFY u)))
      ∧ (imageHeld u < 0x2800 ∨ imageHeld u < imageNeed u ∨ bootState s = bsRESTARTING →
        exec (.bootChunk off d) s = .next (settle u))))
  ∧ (∀ (s : State) (b : Bool), s.boot.fetching = true → 0x2800 ≤ imageHeld s → imageNeed s ≤ imageHeld s →
    ∃ t, exec (.imageVerified b) s = .next (settle t)
      ∧ (imageOk s.boot.pieces = true → t.boot.fw = true ∧ t.boot.fetching = false ∧ bootState t = (if b then bsREADY else bsRUNS)
        ∧ cdRead t 0 (leNat (imageBytes s.boot.pieces 0x18 8)) = imageBytes s.boot.pieces 0x2800 (leNat (imageBytes s.boot.pieces 0x18 8)))
      ∧ (imageOk s.boot.pieces = false → t = bootNext (ibi ibiBOOT_BAD_IMAGE { s with boot := { s.boot with pieces := [] } })))
  ∧ (∀ s : State, guardOf s CHP_RESTART = none →
    ∃ t, exec .chpRestart s = .next (settle t) ∧ t.reply = ⟨false, 0⟩ ∧ t.boot.fw = false ∧ t.boot.fetching = true ∧ bootState t = bsRESTARTING
      ∧ t.dues = s.dues ++ ((List.range 16).filter fun c => clsState s c == csOPEN || clsState s c == csSEALED).map fun c => Due.clause c 0x14)
  ∧ (∀ (s : State) (w : Word), guardOf s CHP_WDOG = none →
    ∃ t, exec (.wdogKick w) s = .next (settle t) ∧ t.reply = ⟨false, 0⟩ ∧ t.boot = { s.boot with kicked := s.tim.ref })
  ∧ (∀ s : State, rdF s CHP_WDOG CHP_WDOG_PERIOD ≠ 0 → s.boot.fw = true →
    ∃ t, exec .fwWatchdog s = .next (settle t) ∧ stickySet t srcCHP_FW_WATCHDOG 0 = true ∧ t.boot.kicked = s.tim.ref
      ∧ (rdBit s CHP_WDOG CHP_WDOG_AUTO = false → t.boot = { s.boot with kicked := s.tim.ref })
      ∧ (rdBit s CHP_WDOG CHP_WDOG_AUTO = true → t.boot.fw = false ∧ t.boot.fetching = true ∧ bootState t = bsRESTARTING))
  ∧ ∀ (s : State) (ns : Nat),
    (ns < 100 → exec (.resetNAssert ns) s = .next (settle s))
    ∧ (100 ≤ ns → ns < 1000 → exec (.resetNAssert ns) s = .fault .resetPulseUnspecified)
    ∧ (1000 ≤ ns → s.boot.on = true → exec (.resetNAssert ns) s = .next (settle (beginChip 2 [] s)))

/-- A message pushed by the board controller into a mailbox bound to it that is enabled and has room is accepted whole behind a
header that the device writes; MBX_IN_POP answers the oldest word and takes it, 0 from an empty queue. A header word with LENGTH
n takes its place in the outbound queue with the device's sequence number. A W1C clear that no guard interval holds keeps the
bits that are set at the same time. ENTDAA assigns the address and sends what was held. (R453, R454, R455, R456, R460) -/
def Obligations.Mailboxes : Prop :=
  (∀ (s : State) (port : Nat) (m : Msg), GroundIdle s → unitOn s grMBX 63 = true → mbxKind s 63 = 4 → (mbxOf s 63).inq.length + leAt m.pay 1 1 % 8 + 1 ≤ 16 →
    ∃ t, exec (.mbxPush 4 port m) s = .next (settle t)
      ∧ (mbxOf t 63).inq = (mbxOf s 63).inq ++ mbxHeader 4 (leAt m.pay 1 1 % 8) none 0 0 (((mbxOf s 63).inSeq + 1) % 256) (leAt m.pay 2 1)
          :: wordsOf (leAt m.pay 1 1 % 8) (bslice m.pay 8 56)
      ∧ rdReg t (MBX_ACCEPTED 63) = rdReg s (MBX_ACCEPTED 63) + 1)
  ∧ (∀ (s : State) (b : Nat) (w : Word) (r : List Word), b < 64 → (mbxOf s b).inq = w :: r →
    ∃ t, exec (.mbxInPop b) s = .next (settle t) ∧ t.reply = ⟨false, w⟩ ∧ (mbxOf t b).inq = r
      ∧ rdReg t (MBX_POPPED b) = rdReg s (MBX_POPPED b) + 1)
  ∧ (∀ (s : State) (b : Nat), b < 64 → (mbxOf s b).inq = [] → exec (.mbxInPop b) s = .next (settle { s with reply := ⟨false, 0⟩ }))
  ∧ (∀ (s : State) (b : Nat) (w : Word), b < 64 → guardOf s (MBX_OUT_PUSH b) = none → (mbxOf s b).need = 0 → 0 < bits w.toNat 5 3 →
    (mbxOf s b).outq.length + bits w.toNat 5 3 + 1 ≤ 16 →
    ∃ t, exec (.mbxOutPush b w) s = .next (settle t) ∧ t.reply = ⟨false, 0⟩ ∧ (mbxOf t b).need = bits w.toNat 5 3
      ∧ (mbxOf t b).outq = (mbxOf s b).outq ++ [BitVec.ofNat 64 (bits w.toNat 5 3 * 2 ^ 3 + ((mbxOf s b).outSeq + 1) % 256 * 2 ^ 48
          + bits w.toNat 63 56 * 2 ^ 56)])
  ∧ (∀ (s : State) (full : Bool) (w sets : Word), guardOf s (if full then MBX_FULL_PEND else MBX_DOORBELL) = none →
    ∃ t, exec (.mbxDoorbellClear full w sets) s = .next (settle t) ∧ t.reply = ⟨false, 0⟩
      ∧ rdReg t (if full then MBX_FULL_PEND else MBX_DOORBELL)
        = (rdReg s (if full then MBX_FULL_PEND else MBX_DOORBELL) &&& ~~~w) ||| (if full then sets else sets &&& 0xFFFFFFFF#64)
      ∧ OnlyRegs [if full then MBX_FULL_PEND else MBX_DOORBELL] { s with reply := t.reply } t)
  ∧ ∀ s : State, ∃ t, exec .i3cEntdaa s = .next (settle t) ∧ t.boot.i3c = true ∧ t.boot.ibiHeld = [] ∧ t = { s with boot := t.boot }

/-- Selecting an existing rail starts its minimum at 0xFFFF, selecting 44 or above is an error; reading PWR_RAIL_MIN answers the
minimum, to which the voltage at the read belongs (the model's reading, log entry 75), and starts it again. A core rail newly
below WARN_MV raises SUPPLY_WARN, a rail newly out of its limits that may not be removed raises RAIL_FAULT, and a return to good
ends the fault's cause. A region newly above WARN raises THERM_WARN, one at 110 °C raises THERM_TRIP and drives THERMTRIP_N, and
when it cools it is no longer hot. A channel fault raises HBC_PHY. A single-bit error of a good word of tile SRAM counts in
CRG_SRAM_CE and changes nothing else; an uncorrectable one makes the word bad, and raises SRAM_UE_IDLE where the region finds it
while no step reads the word. (R468, R469, R470, R471, R482) -/
def Obligations.SupplyAndTemperature : Prop :=
  (∀ (s : State) (w : Word), guardOf s PWR_RAIL_SEL = none →
    (PWR_RAIL_SEL_RAIL.get w < 44 → ∃ t, exec (.pwrRailSel w) s = .next (settle t) ∧ t.reply = ⟨false, 0⟩ ∧ railSel t = PWR_RAIL_SEL_RAIL.get w
      ∧ rdF t PWR_RAIL_MIN PWR_RAIL_MIN_MV = 0xFFFF ∧ OnlyRegs [PWR_RAIL_SEL, PWR_RAIL_MIN] { s with reply := t.reply } t)
    ∧ (44 ≤ PWR_RAIL_SEL_RAIL.get w → exec (.pwrRailSel w) s = .next (settle (csrRefused s))))
  ∧ (∀ s : State, ∃ t, exec .pwrRailMin s = .next (settle t) ∧ t.reply = ⟨false, BitVec.ofNat 64 (railLow s)⟩ ∧ rdF t PWR_RAIL_MIN PWR_RAIL_MIN_MV = 0xFFFF
      ∧ OnlyRegs [PWR_RAIL_MIN] { s with reply := t.reply } t)
  ∧ (∀ (s : State) (r mv : Nat), coreRail r = true → mv < rdF s PWR_SUPPLY_LIMITS PWR_SUPPLY_LIMITS_WARN_MV → r ∉ s.pwr.below →
    ∃ t, exec (.supplyWarn r mv) s = .next (settle t) ∧ stickySet t srcPWR_SUPPLY_WARN 0 = true ∧ r ∈ t.pwr.below ∧ railMv t r = mv)
  ∧ (∀ (s : State) (r mv : Nat), r < 44 → railFaults r mv = true → r ∉ s.pwr.bad → gatableRail r = false →
    ∃ t, exec (.railFault r mv) s = .next (settle t) ∧ stickySet t srcPWR_RAIL_FAULT 0 = true ∧ t.pwr.bad = s.pwr.bad ++ [r])
  ∧ (∀ (s : State) (r mv : Nat), r < 44 → railGood r mv = true → s.pwr.bad = [r] →
    ∃ t, exec (.railGood r mv) s = .next (settle t) ∧ t.pwr.bad = [] ∧ ∀ c ∈ t.flt.causes, ¬(c.src = srcPWR_RAIL_FAULT ∧ c.unit = 0))
  ∧ (∀ (s : State) (n : Nat) (x : Int), n ∈ thermRegions → -32768 ≤ x → x < 32768 → 16 * (rdF s PWR_THERM PWR_THERM_WARN : Int) < x → n ∉ s.pwr.warm →
    ∃ t, exec (.thermWarn n x) s = .next (settle t) ∧ stickySet t srcPWR_THERM_WARN 0 = true ∧ n ∈ t.pwr.warm ∧ tempOf t n = x)
  ∧ (∀ (s : State) (n : Nat) (x : Int), n ∈ thermRegions → 1760 ≤ x → n ∉ s.pwr.hot →
    ∃ t, exec (.thermTrip n x) s = .next (settle t) ∧ stickySet t srcPWR_THERM_TRIP 0 = true ∧ t.pwr.trip = true ∧ t.pwr.hot = s.pwr.hot ++ [n])
  ∧ (∀ (s : State) (n : Nat) (x : Int), n ∈ thermRegions → x < 1760 →
    ∃ t, exec (.junctionCooled n x) s = .next (settle t) ∧ t.pwr.hot = s.pwr.hot.filter (fun y => y != n) ∧ t.pwr.trip = s.pwr.trip)
  ∧ (∀ (s : State) (u : Nat), u < 512 → ∃ t, exec (.hbcPhy u) s = .next (settle t) ∧ stickySet t srcHBC_HBC_PHY u = true)
  ∧ ∀ (s : State) (n k : Nat), n < 16 → k < sramSize / 8 → s.sramBad.contains (sramSize / 8 * n + k) = false →
    exec (.sramUeIdle n (.single k)) s = .next (settle (bump s (CRG_SRAM_CE n)))
    ∧ exec (.sramUeIdle n (.double k)) s
      = .next (settle (raise srcCRG_SRAM_UE_IDLE n { s with sramBad := s.sramBad ++ [sramSize / 8 * n + k] }))
    ∧ exec (.sramUeIdle n (.hidden k)) s = .next (settle { s with sramBad := s.sramBad ++ [sramSize / 8 * n + k] })

/-- A parked region without requests powers off; the end of an unparked region's power-up clears its parked bit. When standby entry
is complete SLEEP_OK is high; EXIT in STANDBY with its rails good begins the exit, and in RUN does nothing; when the exit is
done the device is in RUN. The loss of VDD_AUX ends power-on and releases THERMTRIP_N. (R467, R473, R474) -/
def Obligations.PowerStates : Prop :=
  (∀ (s : State) (k : Nat), k < 32 → regionParked s (decide (16 ≤ k)) (k % 16) = true → regionBusy s (decide (16 ≤ k), k % 16) = false → k ∉ s.pwr.off →
    exec (.parkPowerOff k) s = .next (settle { s with pwr := { s.pwr with off := s.pwr.off ++ [k] } }))
  ∧ (∀ (s : State) (k : Nat), k < 16 → k ∈ s.pwr.up →
    ∃ t, exec (.parkExit k) s = .next (settle t) ∧ regionParked t false k = false ∧ k ∉ t.pwr.up ∧ k ∉ t.pwr.off)
  ∧ (∀ s : State, devState s = 1 → ∃ t, exec .standbyEntryDone s = .next (settle t) ∧ devState t = 2 ∧ sleepOk t = true ∧ OnlyRegs [PWR_STATE] s t)
  ∧ (∀ s : State, guardOf s PWR_STANDBY = none → devState s = 2 → s.pwr.bad = [] →
    ∃ t, exec .pwrStandbyExit s = .next (settle t) ∧ t.reply = ⟨false, 0⟩ ∧ devState t = 3 ∧ sleepOk t = false ∧ t.ground = {} ∧ t.sht = {})
  ∧ (∀ s : State, guardOf s PWR_STANDBY = none → devState s = 0 → exec .pwrStandbyExit s = .next (settle { s with reply := ⟨false, 0⟩ }))
  ∧ (∀ s : State, devState s = 3 → ∃ t, exec .standbyExitDone s = .next (settle t) ∧ devState t = 0)
  ∧ ∀ s : State, ∃ t, exec .auxLoss s = .next (settle t) ∧ t.boot.on = false ∧ t.boot.i3c = false ∧ t.pwr.trip = false ∧ t.regs = s.regs
end

