-- ==== Sys2Proof/Laws/Address.lean ====
section
/-! SUPPORT. The laws of CSR addresses (R37, R38): a group, a unit, a page and an offset are read back from the address they make, and
two addresses are equal only where all four are. -/

namespace Sys2Proof.Machine

variable {g u p o : Nat}

theorem csrOff_csrAddr (ho : o < 4096) : csrOff (csrAddr g u p o) = o := by
  simp only [csrOff, csrAddr]; omega

theorem csrPage_csrAddr (hp : p < 16) (ho : o < 4096) : csrPage (csrAddr g u p o) = p := by
  simp only [csrPage, csrAddr]; omega

theorem csrUnit_csrAddr (hu : u < 4096) (hp : p < 16) (ho : o < 4096) : csrUnit (csrAddr g u p o) = u := by
  simp only [csrUnit, csrAddr]; omega

theorem csrGroup_csrAddr (hu : u < 4096) (hp : p < 16) (ho : o < 4096) : csrGroup (csrAddr g u p o) = g := by
  simp only [csrGroup, csrAddr]; omega

theorem csrBase_csrAddr (ho : o < 4096) : csrBase (csrAddr g u p o) = csrAddr g u p 0 := by
  simp only [csrBase, csrAddr]; omega

theorem csrAddr_add (g u p o k : Nat) : csrAddr g u p o + k = csrAddr g u p (o + k) := by
  simp only [csrAddr]; omega

/-- Registers at different offsets of a page are different registers, whatever the group and the unit. -/
theorem csrAddr_ne_of_off {g' u' p' o' : Nat} (ho : o % 4096 ≠ o' % 4096) : csrAddr g u p o ≠ csrAddr g' u' p' o' := by
  intro h
  simp only [csrAddr] at h
  omega

/-- An address has one group, unit, page and offset. -/
theorem csrAddr_inj {g' u' p' o' : Nat} (hu : u < 4096) (hp : p < 16) (ho : o < 4096) (hu' : u' < 4096) (hp' : p' < 16)
    (ho' : o' < 4096) : csrAddr g u p o = csrAddr g' u' p' o' ↔ g = g' ∧ u = u' ∧ p = p' ∧ o = o' := by
  constructor
  · intro h
    simp only [csrAddr] at h
    omega
  · rintro ⟨rfl, rfl, rfl, rfl⟩; rfl

end Sys2Proof.Machine
end

