-- ==== Sys2Proof/Laws/SMap.lean ====
section
/-! SUPPORT. The laws of sparse maps: a read after a write, and the canonical form kept by every operation. -/

namespace Sys2Proof.Machine

theorem sget_sdel_same {α : Type} (d : Nat → α) (m : SMap α) (k : Nat) : sget d (sdel m k) k = d k := by
  induction m with
  | nil => rfl
  | cons e r ih =>
    obtain ⟨k', v⟩ := e
    by_cases h : k' = k <;> simp [sdel, sget, h, ih]

theorem sget_sdel_other {α : Type} (d : Nat → α) (m : SMap α) {j k : Nat} (hjk : j ≠ k) :
    sget d (sdel m k) j = sget d m j := by
  induction m with
  | nil => rfl
  | cons e r ih =>
    obtain ⟨k', v⟩ := e
    by_cases h : k' = k
    · subst h
      simp [sdel, sget, ih, Ne.symm hjk]
    · by_cases h2 : k' = j
      · subst h2
        simp [sdel, sget, h]
      · simp [sdel, sget, h, h2, ih]

theorem sget_sins_other {α : Type} (d : Nat → α) (m : SMap α) {j k : Nat} (v : α) (hjk : j ≠ k) :
    sget d (sins m k v) j = sget d m j := by
  induction m with
  | nil => simp [sins, sget, Ne.symm hjk]
  | cons e r ih =>
    obtain ⟨k', v'⟩ := e
    by_cases h : k < k'
    · simp [sins, sget, h, Ne.symm hjk]
    · by_cases h2 : k' = j
      · subst h2
        simp [sins, sget, h]
      · simp [sins, sget, h, h2, ih]

theorem sget_sins_same {α : Type} (d : Nat → α) (m : SMap α) (k : Nat) (v : α) (hm : ∀ e ∈ m, e.1 ≠ k) :
    sget d (sins m k v) k = v := by
  induction m with
  | nil => simp [sins, sget]
  | cons e r ih =>
    obtain ⟨k', v'⟩ := e
    have hk : k' ≠ k := hm (k', v') (by simp)
    by_cases h : k < k'
    · simp [sins, sget, h]
    · simp [sins, sget, h, hk, ih (fun e he => hm e (by simp [he]))]

theorem sdel_ne {α : Type} (m : SMap α) (k : Nat) : ∀ e ∈ sdel m k, e.1 ≠ k := by
  induction m with
  | nil => simp [sdel]
  | cons e r ih =>
    obtain ⟨k', v⟩ := e
    by_cases h : k' = k
    · simpa [sdel, h] using ih
    · intro e he
      simp only [sdel, h, if_false, List.mem_cons] at he
      rcases he with rfl | he
      · exact h
      · exact ih e he

@[simp] theorem sget_sset_same {α : Type} [DecidableEq α] (d : Nat → α) (m : SMap α) (k : Nat) (v : α) :
    sget d (sset d m k v) k = v := by
  unfold sset
  split
  · next h => rw [sget_sdel_same, h]
  · exact sget_sins_same d _ k v (sdel_ne m k)

theorem sget_sset_other {α : Type} [DecidableEq α] (d : Nat → α) (m : SMap α) {j k : Nat} (v : α) (hjk : j ≠ k) :
    sget d (sset d m k v) j = sget d m j := by
  unfold sset
  split
  · exact sget_sdel_other d m hjk
  · rw [sget_sins_other d _ v hjk, sget_sdel_other d m hjk]

theorem mem_sdel {α : Type} {m : SMap α} {k : Nat} {e : Nat × α} (h : e ∈ sdel m k) : e ∈ m := by
  induction m with
  | nil => exact h
  | cons x r ih =>
    obtain ⟨k', v⟩ := x
    by_cases hk : k' = k
    · simp only [sdel, hk, if_true] at h
      exact List.mem_cons_of_mem _ (ih h)
    · simp only [sdel, hk, if_false, List.mem_cons] at h
      rcases h with rfl | h
      · exact List.mem_cons_self
      · exact List.mem_cons_of_mem _ (ih h)

theorem mem_sins {α : Type} {m : SMap α} {k : Nat} {v : α} {e : Nat × α} (h : e ∈ sins m k v) :
    e = (k, v) ∨ e ∈ m := by
  induction m with
  | nil => simpa [sins] using h
  | cons x r ih =>
    obtain ⟨k', v'⟩ := x
    by_cases hk : k < k'
    · simpa [sins, hk] using h
    · simp only [sins, hk, if_false, List.mem_cons] at h
      rcases h with rfl | h
      · exact .inr List.mem_cons_self
      · rcases ih h with h | h
        · exact .inl h
        · exact .inr (List.mem_cons_of_mem _ h)

theorem sdel_sorted {α : Type} {m : SMap α} (k : Nat) (h : m.Sorted) : (sdel m k).Sorted := by
  induction m with
  | nil => exact h
  | cons x r ih =>
    obtain ⟨k', v⟩ := x
    have h' := List.pairwise_cons.mp h
    by_cases hk : k' = k
    · simpa [sdel, hk] using ih h'.2
    · simp only [sdel, hk, if_false]
      exact List.pairwise_cons.mpr ⟨fun e he => h'.1 e (mem_sdel he), ih h'.2⟩

theorem sins_sorted {α : Type} {m : SMap α} (k : Nat) (v : α) (h : m.Sorted) (hk : ∀ e ∈ m, e.1 ≠ k) :
    (sins m k v).Sorted := by
  induction m with
  | nil => simp [sins, SMap.Sorted]
  | cons x r ih =>
    obtain ⟨k', v'⟩ := x
    have h' := List.pairwise_cons.mp h
    have hne : k' ≠ k := hk (k', v') (by simp)
    by_cases hlt : k < k'
    · simp only [sins, hlt, if_true]
      refine List.pairwise_cons.mpr ⟨fun e he => ?_, h⟩
      rcases List.mem_cons.mp he with rfl | he
      · exact hlt
      · exact Nat.lt_trans hlt (h'.1 e he)
    · simp only [sins, hlt, if_false]
      refine List.pairwise_cons.mpr ⟨fun e he => ?_, ih h'.2 (fun e he => hk e (by simp [he]))⟩
      rcases mem_sins he with rfl | he
      · exact Nat.lt_of_le_of_ne (Nat.le_of_not_lt hlt) hne
      · exact h'.1 e he

theorem sput_sorted {α : Type} {m : SMap α} (k : Nat) (v : α) (h : m.Sorted) : (sput m k v).Sorted :=
  sins_sorted k v (sdel_sorted k h) (sdel_ne m k)

theorem sset_wf {α : Type} [DecidableEq α] {d : Nat → α} {m : SMap α} (k : Nat) (v : α) (h : m.Wf d) :
    (sset d m k v).Wf d := by
  unfold sset
  split
  · exact ⟨sdel_sorted k h.1, fun e he => h.2 e (mem_sdel he)⟩
  · next hv =>
    refine ⟨sins_sorted k v (sdel_sorted k h.1) (sdel_ne m k), fun e he => ?_⟩
    rcases mem_sins he with rfl | he
    · exact hv
    · exact h.2 e (mem_sdel he)

theorem skeep_wf {α : Type} {d : Nat → α} {m : SMap α} (p : Nat → Bool) (h : m.Wf d) : (skeep p m).Wf d :=
  ⟨h.1.filter _, fun e he => h.2 e (List.mem_of_mem_filter he)⟩

theorem nil_wf {α : Type} (d : Nat → α) : SMap.Wf d ([] : SMap α) := ⟨List.Pairwise.nil, by simp⟩

theorem sfind_sput_same {α : Type} (m : SMap α) (k : Nat) (v : α) : sfind (sput m k v) k = some v := by
  unfold sput
  have h := sdel_ne m k
  revert h
  generalize sdel m k = r
  intro h
  induction r with
  | nil => simp [sins, sfind]
  | cons x r ih =>
    obtain ⟨k', v'⟩ := x
    have hk : k' ≠ k := h (k', v') (by simp)
    by_cases hlt : k < k'
    · simp [sins, sfind, hlt]
    · simp [sins, sfind, hlt, hk, ih (fun e he => h e (by simp [he]))]

end Sys2Proof.Machine
end

