-- ==== Sys2Proof/Laws/Memory.lean ====
section
/-! SUPPORT. The laws of control-die memory, tile SRAM and the pool: what a read gives after a store, what a store leaves alone, and that
every store keeps the canonical form. -/

namespace Sys2Proof.Machine

/-! ### Control-die memory -/

/-- A byte read after a byte stored. -/
theorem cdByte_cdPut (s : State) (a b : Nat) (x : Byte) : cdByte (cdPut s a x) b = if b = a then x else cdByte s b := by
  unfold cdByte cdPut
  split
  · subst b; simp
  · next h => exact sget_sset_other _ _ _ h

/-- A store of bytes changes control-die memory alone. -/
theorem cdWrite_frame (s : State) (a : Nat) (d : Bytes) : cdWrite s a d = { s with cdmem := (cdWrite s a d).cdmem } := by
  induction d generalizing s a with
  | nil => rfl
  | cons x r ih => rw [cdWrite, ih]; rfl

/-- A byte read after bytes stored. -/
theorem cdByte_cdWrite (s : State) (a : Nat) (d : Bytes) (b : Nat) :
    cdByte (cdWrite s a d) b = if h : a ≤ b ∧ b < a + d.length then d[b - a]'(by omega) else cdByte s b := by
  induction d generalizing s a with
  | nil =>
    have : ¬(a ≤ b ∧ b < a + ([] : Bytes).length) := by simp
    rw [dif_neg this, cdWrite]
  | cons x r ih =>
    rw [cdWrite, ih]
    by_cases h1 : b = a
    · subst h1
      have : ¬(b + 1 ≤ b ∧ b < b + 1 + r.length) := by omega
      rw [dif_neg this]
      simp [cdByte_cdPut]
    · by_cases h2 : a + 1 ≤ b ∧ b < a + 1 + r.length
      · have h3 : a ≤ b ∧ b < a + (x :: r).length := by simp; omega
        have e : b - a = (b - (a + 1)) + 1 := by omega
        rw [dif_pos h2, dif_pos h3]
        simp only [e, List.getElem_cons_succ]
      · have h3 : ¬(a ≤ b ∧ b < a + (x :: r).length) := by simp; omega
        rw [dif_neg h2, dif_neg h3]
        simp [cdByte_cdPut, h1]

theorem cdPut_wf {s : State} (a : Nat) (b : Byte) (h : Memory.wf s.cdmem) : Memory.wf (cdPut s a b).cdmem := sset_wf _ _ h

theorem cdWrite_wf {s : State} (a : Nat) (d : Bytes) (h : Memory.wf s.cdmem) : Memory.wf (cdWrite s a d).cdmem := by
  induction d generalizing s a with
  | nil => exact h
  | cons x r ih => exact ih _ (cdPut_wf a x h)

/-- What the control-die cores store changes control-die memory alone. -/
theorem fwStores_frame (s : State) (c : List (Nat × Byte)) : fwStores s c = { s with cdmem := (fwStores s c).cdmem } := by
  unfold fwStores
  induction c generalizing s with
  | nil => rfl
  | cons x r ih => rw [List.foldl_cons, ih]; rfl

theorem fwStores_wf {s : State} (c : List (Nat × Byte)) (h : Memory.wf s.cdmem) : Memory.wf (fwStores s c).cdmem := by
  unfold fwStores
  induction c generalizing s with
  | nil => exact h
  | cons x r ih => exact ih (cdPut_wf x.1 x.2 h)

/-! ### Tile SRAM -/

theorem sramPut_wf {s : State} (n a : Nat) (d : Bytes) (h : Memory.wf s.sram) : Memory.wf (sramPut n a d s).sram := by
  unfold sramPut
  simp only
  generalize d.zipIdx = z
  revert h
  generalize s.sram = m
  intro h
  induction z generalizing m with
  | nil => exact h
  | cons x r ih => exact ih _ (sset_wf _ _ h)

/-! ### The pool -/

theorem poolPut_wf {m : List Host.Cell} (d : Bytes) (p : Nat) (h : Memory.wf m) : Memory.wf (poolPut d p m) := by
  induction d generalizing p m with
  | nil => exact h
  | cons x r ih => exact ih _ (sset_wf _ _ h)

/-- A byte of the pool after bytes stored. -/
theorem sget_poolPut (m : List Host.Cell) (d : Bytes) (p b : Nat) :
    sget (fun _ => (0 : Byte)) (poolPut d p m) b
      = if h : p ≤ b ∧ b < p + d.length then d[b - p]'(by omega) else sget (fun _ => (0 : Byte)) m b := by
  induction d generalizing p m with
  | nil =>
    have : ¬(p ≤ b ∧ b < p + ([] : Bytes).length) := by simp
    rw [dif_neg this, poolPut]
  | cons x r ih =>
    rw [poolPut, ih]
    by_cases h1 : b = p
    · subst h1
      have : ¬(b + 1 ≤ b ∧ b < b + 1 + r.length) := by omega
      rw [dif_neg this]
      simp
    · by_cases h2 : p + 1 ≤ b ∧ b < p + 1 + r.length
      · have h3 : p ≤ b ∧ b < p + (x :: r).length := by simp; omega
        have e : b - p = (b - (p + 1)) + 1 := by omega
        rw [dif_pos h2, dif_pos h3]
        simp only [e, List.getElem_cons_succ]
      · have h3 : ¬(p ≤ b ∧ b < p + (x :: r).length) := by simp; omega
        rw [dif_neg h2, dif_neg h3]
        simp [sget_sset_other _ _ _ h1]

/-- Reset lists nothing in any memory. -/
theorem reset_wf : Memory.wf State.reset.cdmem ∧ Memory.wf State.reset.sram ∧ Memory.wf State.reset.mem.pool :=
  ⟨nil_wf _, nil_wf _, nil_wf _⟩

end Sys2Proof.Machine
end

