-- ==== Sys2Proof/Laws/Regs.lean ====
section
/-! SUPPORT. The laws of registers and their fields: what a read gives after a write, and what each register operation changes. -/

namespace Sys2Proof.Machine

theorem getLsbD_mergeBits (a b m : Word) (i : Nat) :
    (mergeBits a b m).getLsbD i = if m.getLsbD i then b.getLsbD i else a.getLsbD i := by
  unfold mergeBits
  simp only [BitVec.getLsbD_or, BitVec.getLsbD_and, BitVec.getLsbD_not]
  by_cases h : i < 64 <;> cases hm : m.getLsbD i <;> simp_all

theorem Fld.testBit_get (f : Fld) (w : Word) (i : Nat) :
    (f.get w).testBit i = (decide (i < f.width) && w.getLsbD (f.lo + i)) := by
  simp [Fld.get, Nat.testBit_mod_two_pow, Nat.testBit_div_two_pow, BitVec.getLsbD, Nat.add_comm]

theorem Fld.getLsbD_set (f : Fld) (w : Word) (v i : Nat) :
    (f.set w v).getLsbD i
      = if f.lo ≤ i ∧ i < f.lo + f.width ∧ i < 64 then v.testBit (i - f.lo) else w.getLsbD i := by
  unfold Fld.set
  rw [getLsbD_mergeBits]
  simp only [BitVec.getLsbD_ofNat, Nat.testBit_mul_two_pow, Nat.testBit_mod_two_pow, Nat.testBit_two_pow_sub_one]
  by_cases h1 : i < 64
  · by_cases h2 : f.lo ≤ i
    · by_cases h3 : i < f.lo + f.width
      · have h4 : i - f.lo < f.width := by omega
        simp [h1, h2, h3, h4]
      · have h4 : ¬ i - f.lo < f.width := by omega
        simp [h1, h2, h3, h4]
    · simp [h1, h2]
  · simp [h1]

/-- A field reads what was set in it, as far as its width holds it. -/
theorem Fld.get_set_same (f : Fld) (w : Word) (v : Nat) (hf : f.lo + f.width ≤ 64) : f.get (f.set w v) = v % 2 ^ f.width := by
  apply Nat.eq_of_testBit_eq
  intro i
  rw [Fld.testBit_get, Fld.getLsbD_set, Nat.testBit_mod_two_pow]
  by_cases h : i < f.width
  · have : f.lo ≤ f.lo + i ∧ f.lo + i < f.lo + f.width ∧ f.lo + i < 64 := by omega
    simp [h, this]
  · simp [h]

/-- A field that does not overlap the one set reads as before. -/
theorem Fld.get_set_other (f g : Fld) (w : Word) (v : Nat) (h : g.lo + g.width ≤ f.lo ∨ f.lo + f.width ≤ g.lo) :
    g.get (f.set w v) = g.get w := by
  apply Nat.eq_of_testBit_eq
  intro i
  rw [Fld.testBit_get, Fld.getLsbD_set, Fld.testBit_get]
  by_cases hi : i < g.width
  · have : ¬(f.lo ≤ g.lo + i ∧ g.lo + i < f.lo + f.width ∧ g.lo + i < 64) := by omega
    simp [this]
  · simp [hi]

theorem Fld.get_lt (f : Fld) (w : Word) : f.get w < 2 ^ f.width := Nat.mod_lt _ (Nat.two_pow_pos _)

/-- A read of a register after a write of one. -/
theorem rdReg_wrReg (s : State) (a b : Nat) (w : Word) : rdReg (wrReg s a w) b = if b = a then w else rdReg s b := by
  unfold rdReg wrReg
  split
  · subst b; simp
  · next h => exact sget_sset_other _ _ _ h

@[simp] theorem rdReg_wrReg_same (s : State) (a : Nat) (w : Word) : rdReg (wrReg s a w) a = w := by simp [rdReg_wrReg]

theorem rdReg_wrReg_other (s : State) {a b : Nat} (w : Word) (h : b ≠ a) : rdReg (wrReg s a w) b = rdReg s b := by
  simp [rdReg_wrReg, h]

theorem rdReg_wrF (s : State) (a b : Nat) (f : Fld) (v : Nat) :
    rdReg (wrF s a f v) b = if b = a then f.set (rdReg s a) v else rdReg s b := rdReg_wrReg s a b _

theorem rdReg_bump (s : State) (a b n : Nat) :
    rdReg (bump s a n) b = if b = a then rdReg s a + BitVec.ofNat 64 n else rdReg s b := rdReg_wrReg s a b _

/-- A field reads what was set in it. -/
theorem rdF_wrF_same (s : State) (a : Nat) (f : Fld) (v : Nat) (hf : f.lo + f.width ≤ 64) :
    rdF (wrF s a f v) a f = v % 2 ^ f.width := by
  simp [rdF, wrF, Fld.get_set_same, hf]

/-- Another field of the same register that does not overlap the one set. -/
theorem rdF_wrF_field (s : State) (a : Nat) (f g : Fld) (v : Nat) (h : g.lo + g.width ≤ f.lo ∨ f.lo + f.width ≤ g.lo) :
    rdF (wrF s a f v) a g = rdF s a g := by
  simp [rdF, wrF, Fld.get_set_other, h]

/-- A field of another register. -/
theorem rdF_wrF_other (s : State) {a b : Nat} (f g : Fld) (v : Nat) (h : b ≠ a) : rdF (wrF s a f v) b g = rdF s b g := by
  simp [rdF, rdReg_wrF, h]

theorem rdF_bump_other (s : State) {a b : Nat} (n : Nat) (g : Fld) (h : b ≠ a) : rdF (bump s a n) b g = rdF s b g := by
  simp [rdF, rdReg_bump, h]

/-! ### Registers depend on nothing but `regs` -/

theorem rdReg_congr {s t : State} (h : t.regs = s.regs) (a : Nat) : rdReg t a = rdReg s a := by simp [rdReg, h]
theorem rdF_congr {s t : State} (h : t.regs = s.regs) (a : Nat) (f : Fld) : rdF t a f = rdF s a f := by simp [rdF, rdReg, h]

/-! ### Fault sources -/

theorem testBit_or_pow (w : Word) (n : Nat) (h : n < 64) : bit (w ||| BitVec.ofNat 64 (2 ^ n)).toNat n = true := by
  have h2 : 2 ^ n < 2 ^ 64 := Nat.pow_lt_pow_right (by decide) h
  have : (w.toNat ||| 2 ^ n).testBit n = true := by simp [Nat.testBit_or, Nat.testBit_two_pow_self]
  rw [Nat.testBit_eq_decide_div_mod_eq] at this
  unfold bit
  rw [BitVec.toNat_or, BitVec.toNat_ofNat, Nat.mod_eq_of_lt h2]
  simpa using this

/-- The sticky registers and the HANG counters are different registers. -/
theorem sticky_ne_hangs (g u p k : Nat) : G_ERR_STICKY g u p ≠ FLT_HANGS k := by
  intro h
  have := congrArg (· % 4096) h
  simp only [G_ERR_STICKY, FLT_HANGS, csrAddr] at this
  omega

theorem rdReg_countHang (f : Src) (u : Nat) (s : State) {b : Nat} (h : f.bit = 15 → b ≠ FLT_HANGS (collectorOf f.g u)) :
    rdReg (countHang f u s) b = rdReg s b := by
  unfold countHang
  split
  · next hf => simp [rdReg_bump, h hf]
  · rfl

@[simp] theorem noteFire_regs (f : Src) (u : Nat) (s : State) : (noteFire f u s).regs = s.regs := by
  unfold noteFire; split <;> rfl

@[simp] theorem firedNow_regs (f : Src) (u : Nat) (s : State) : (firedNow f u s).regs = s.regs := rfl

/-- What a source that fires leaves in a register. -/
theorem rdReg_raise (f : Src) (u : Nat) (s : State) (b : Nat) (h : f.bit = 15 → b ≠ FLT_HANGS (collectorOf f.g u)) :
    rdReg (raise f u s) b = if b = G_ERR_STICKY f.g u f.p ∧ stickySet s f u = false
      then rdReg s b ||| BitVec.ofNat 64 (2 ^ f.bit) else rdReg s b := by
  unfold raise
  cases hs : stickySet s f u
  · simp only [Bool.false_eq_true, if_false, and_true]
    rw [rdReg_congr (noteFire_regs _ _ _), rdReg_countHang _ _ _ h, setSticky, rdReg_wrReg]
    by_cases hb : b = G_ERR_STICKY f.g u f.p
    · subst hb; simp [rdReg]
    · simp [hb, rdReg]
  · simp [rdReg]

/-- A source that fires changes its sticky register alone, and for a HANG the count of its collector. -/
theorem rdReg_raise_other (f : Src) (u : Nat) (s : State) {b : Nat} (h1 : b ≠ G_ERR_STICKY f.g u f.p)
    (h2 : f.bit = 15 → b ≠ FLT_HANGS (collectorOf f.g u)) : rdReg (raise f u s) b = rdReg s b := by
  simp [rdReg_raise f u s b h2, h1]

/-- A source that fires is set after it. -/
theorem stickySet_raise (f : Src) (u : Nat) (s : State) (h : f.bit < 64) : stickySet (raise f u s) f u = true := by
  unfold stickySet
  rw [rdReg_raise _ _ _ _ fun _ => sticky_ne_hangs _ _ _ _]
  split
  · exact testBit_or_pow _ _ h
  · next hn => simpa [stickySet] using hn

/-- What a source that fires may change at all. -/
theorem raise_frame (f : Src) (u : Nat) (s : State) :
    raise f u s = { s with regs := (raise f u s).regs, flt := (raise f u s).flt, fires := (raise f u s).fires } := by
  unfold raise
  split
  · rfl
  · unfold noteFire
    split <;> (unfold countHang; split <;> rfl)

end Sys2Proof.Machine
end

