-- ==== Sys2Proof/Laws/State.lean ====
section
/-! SUPPORT. The fields of the state after each of the named updates: one lemma for each field and update, so that no proof unfolds a
record update. A field that the update does not write is as it was. -/

namespace Sys2Proof.Machine

variable (s : State)

/-! ### wrReg -/

@[simp] theorem wrReg_pending (a : Nat) (w : Word) : (wrReg s a w).pending = s.pending := rfl
@[simp] theorem wrReg_regs (a : Nat) (w : Word) : (wrReg s a w).regs = sset regReset s.regs a w := rfl
@[simp] theorem wrReg_reply (a : Nat) (w : Word) : (wrReg s a w).reply = s.reply := rfl
@[simp] theorem wrReg_free (a : Nat) (w : Word) : (wrReg s a w).free = s.free := rfl
@[simp] theorem wrReg_clk (a : Nat) (w : Word) : (wrReg s a w).clk = s.clk := rfl
@[simp] theorem wrReg_tim (a : Nat) (w : Word) : (wrReg s a w).tim = s.tim := rfl
@[simp] theorem wrReg_doms (a : Nat) (w : Word) : (wrReg s a w).doms = s.doms := rfl
@[simp] theorem wrReg_gates (a : Nat) (w : Word) : (wrReg s a w).gates = s.gates := rfl
@[simp] theorem wrReg_stragglers (a : Nat) (w : Word) : (wrReg s a w).stragglers = s.stragglers := rfl
@[simp] theorem wrReg_cdmem (a : Nat) (w : Word) : (wrReg s a w).cdmem = s.cdmem := rfl
@[simp] theorem wrReg_fires (a : Nat) (w : Word) : (wrReg s a w).fires = s.fires := rfl
@[simp] theorem wrReg_dues (a : Nat) (w : Word) : (wrReg s a w).dues = s.dues := rfl
@[simp] theorem wrReg_flt (a : Nat) (w : Word) : (wrReg s a w).flt = s.flt := rfl
@[simp] theorem wrReg_banks (a : Nat) (w : Word) : (wrReg s a w).banks = s.banks := rfl
@[simp] theorem wrReg_sram (a : Nat) (w : Word) : (wrReg s a w).sram = s.sram := rfl
@[simp] theorem wrReg_sramBad (a : Nat) (w : Word) : (wrReg s a w).sramBad = s.sramBad := rfl
@[simp] theorem wrReg_bobs (a : Nat) (w : Word) : (wrReg s a w).bobs = s.bobs := rfl
@[simp] theorem wrReg_turns (a : Nat) (w : Word) : (wrReg s a w).turns = s.turns := rfl
@[simp] theorem wrReg_tiles (a : Nat) (w : Word) : (wrReg s a w).tiles = s.tiles := rfl
@[simp] theorem wrReg_stale (a : Nat) (w : Word) : (wrReg s a w).stale = s.stale := rfl
@[simp] theorem wrReg_progLoads (a : Nat) (w : Word) : (wrReg s a w).progLoads = s.progLoads := rfl
@[simp] theorem wrReg_colls (a : Nat) (w : Word) : (wrReg s a w).colls = s.colls := rfl
@[simp] theorem wrReg_sets (a : Nat) (w : Word) : (wrReg s a w).sets = s.sets := rfl
@[simp] theorem wrReg_waitContribs (a : Nat) (w : Word) : (wrReg s a w).waitContribs = s.waitContribs := rfl
@[simp] theorem wrReg_ports (a : Nat) (w : Word) : (wrReg s a w).ports = s.ports := rfl
@[simp] theorem wrReg_ground (a : Nat) (w : Word) : (wrReg s a w).ground = s.ground := rfl
@[simp] theorem wrReg_mem (a : Nat) (w : Word) : (wrReg s a w).mem = s.mem := rfl
@[simp] theorem wrReg_cls (a : Nat) (w : Word) : (wrReg s a w).cls = s.cls := rfl
@[simp] theorem wrReg_serial (a : Nat) (w : Word) : (wrReg s a w).serial = s.serial := rfl
@[simp] theorem wrReg_outcomes (a : Nat) (w : Word) : (wrReg s a w).outcomes = s.outcomes := rfl
@[simp] theorem wrReg_sht (a : Nat) (w : Word) : (wrReg s a w).sht = s.sht := rfl
@[simp] theorem wrReg_mbx (a : Nat) (w : Word) : (wrReg s a w).mbx = s.mbx := rfl
@[simp] theorem wrReg_boot (a : Nat) (w : Word) : (wrReg s a w).boot = s.boot := rfl
@[simp] theorem wrReg_cxl (a : Nat) (w : Word) : (wrReg s a w).cxl = s.cxl := rfl
@[simp] theorem wrReg_pwr (a : Nat) (w : Word) : (wrReg s a w).pwr = s.pwr := rfl
@[simp] theorem wrReg_sec (a : Nat) (w : Word) : (wrReg s a w).sec = s.sec := rfl

/-! ### wrF -/

@[simp] theorem wrF_pending (a : Nat) (f : Fld) (v : Nat) : (wrF s a f v).pending = s.pending := rfl
@[simp] theorem wrF_regs (a : Nat) (f : Fld) (v : Nat) : (wrF s a f v).regs = sset regReset s.regs a (f.set (rdReg s a) v) := rfl
@[simp] theorem wrF_reply (a : Nat) (f : Fld) (v : Nat) : (wrF s a f v).reply = s.reply := rfl
@[simp] theorem wrF_free (a : Nat) (f : Fld) (v : Nat) : (wrF s a f v).free = s.free := rfl
@[simp] theorem wrF_clk (a : Nat) (f : Fld) (v : Nat) : (wrF s a f v).clk = s.clk := rfl
@[simp] theorem wrF_tim (a : Nat) (f : Fld) (v : Nat) : (wrF s a f v).tim = s.tim := rfl
@[simp] theorem wrF_doms (a : Nat) (f : Fld) (v : Nat) : (wrF s a f v).doms = s.doms := rfl
@[simp] theorem wrF_gates (a : Nat) (f : Fld) (v : Nat) : (wrF s a f v).gates = s.gates := rfl
@[simp] theorem wrF_stragglers (a : Nat) (f : Fld) (v : Nat) : (wrF s a f v).stragglers = s.stragglers := rfl
@[simp] theorem wrF_cdmem (a : Nat) (f : Fld) (v : Nat) : (wrF s a f v).cdmem = s.cdmem := rfl
@[simp] theorem wrF_fires (a : Nat) (f : Fld) (v : Nat) : (wrF s a f v).fires = s.fires := rfl
@[simp] theorem wrF_dues (a : Nat) (f : Fld) (v : Nat) : (wrF s a f v).dues = s.dues := rfl
@[simp] theorem wrF_flt (a : Nat) (f : Fld) (v : Nat) : (wrF s a f v).flt = s.flt := rfl
@[simp] theorem wrF_banks (a : Nat) (f : Fld) (v : Nat) : (wrF s a f v).banks = s.banks := rfl
@[simp] theorem wrF_sram (a : Nat) (f : Fld) (v : Nat) : (wrF s a f v).sram = s.sram := rfl
@[simp] theorem wrF_sramBad (a : Nat) (f : Fld) (v : Nat) : (wrF s a f v).sramBad = s.sramBad := rfl
@[simp] theorem wrF_bobs (a : Nat) (f : Fld) (v : Nat) : (wrF s a f v).bobs = s.bobs := rfl
@[simp] theorem wrF_turns (a : Nat) (f : Fld) (v : Nat) : (wrF s a f v).turns = s.turns := rfl
@[simp] theorem wrF_tiles (a : Nat) (f : Fld) (v : Nat) : (wrF s a f v).tiles = s.tiles := rfl
@[simp] theorem wrF_stale (a : Nat) (f : Fld) (v : Nat) : (wrF s a f v).stale = s.stale := rfl
@[simp] theorem wrF_progLoads (a : Nat) (f : Fld) (v : Nat) : (wrF s a f v).progLoads = s.progLoads := rfl
@[simp] theorem wrF_colls (a : Nat) (f : Fld) (v : Nat) : (wrF s a f v).colls = s.colls := rfl
@[simp] theorem wrF_sets (a : Nat) (f : Fld) (v : Nat) : (wrF s a f v).sets = s.sets := rfl
@[simp] theorem wrF_waitContribs (a : Nat) (f : Fld) (v : Nat) : (wrF s a f v).waitContribs = s.waitContribs := rfl
@[simp] theorem wrF_ports (a : Nat) (f : Fld) (v : Nat) : (wrF s a f v).ports = s.ports := rfl
@[simp] theorem wrF_ground (a : Nat) (f : Fld) (v : Nat) : (wrF s a f v).ground = s.ground := rfl
@[simp] theorem wrF_mem (a : Nat) (f : Fld) (v : Nat) : (wrF s a f v).mem = s.mem := rfl
@[simp] theorem wrF_cls (a : Nat) (f : Fld) (v : Nat) : (wrF s a f v).cls = s.cls := rfl
@[simp] theorem wrF_serial (a : Nat) (f : Fld) (v : Nat) : (wrF s a f v).serial = s.serial := rfl
@[simp] theorem wrF_outcomes (a : Nat) (f : Fld) (v : Nat) : (wrF s a f v).outcomes = s.outcomes := rfl
@[simp] theorem wrF_sht (a : Nat) (f : Fld) (v : Nat) : (wrF s a f v).sht = s.sht := rfl
@[simp] theorem wrF_mbx (a : Nat) (f : Fld) (v : Nat) : (wrF s a f v).mbx = s.mbx := rfl
@[simp] theorem wrF_boot (a : Nat) (f : Fld) (v : Nat) : (wrF s a f v).boot = s.boot := rfl
@[simp] theorem wrF_cxl (a : Nat) (f : Fld) (v : Nat) : (wrF s a f v).cxl = s.cxl := rfl
@[simp] theorem wrF_pwr (a : Nat) (f : Fld) (v : Nat) : (wrF s a f v).pwr = s.pwr := rfl
@[simp] theorem wrF_sec (a : Nat) (f : Fld) (v : Nat) : (wrF s a f v).sec = s.sec := rfl

/-! ### bump -/

@[simp] theorem bump_pending (a n : Nat) : (bump s a n).pending = s.pending := rfl
@[simp] theorem bump_regs (a n : Nat) : (bump s a n).regs = sset regReset s.regs a (rdReg s a + BitVec.ofNat 64 n) := rfl
@[simp] theorem bump_reply (a n : Nat) : (bump s a n).reply = s.reply := rfl
@[simp] theorem bump_free (a n : Nat) : (bump s a n).free = s.free := rfl
@[simp] theorem bump_clk (a n : Nat) : (bump s a n).clk = s.clk := rfl
@[simp] theorem bump_tim (a n : Nat) : (bump s a n).tim = s.tim := rfl
@[simp] theorem bump_doms (a n : Nat) : (bump s a n).doms = s.doms := rfl
@[simp] theorem bump_gates (a n : Nat) : (bump s a n).gates = s.gates := rfl
@[simp] theorem bump_stragglers (a n : Nat) : (bump s a n).stragglers = s.stragglers := rfl
@[simp] theorem bump_cdmem (a n : Nat) : (bump s a n).cdmem = s.cdmem := rfl
@[simp] theorem bump_fires (a n : Nat) : (bump s a n).fires = s.fires := rfl
@[simp] theorem bump_dues (a n : Nat) : (bump s a n).dues = s.dues := rfl
@[simp] theorem bump_flt (a n : Nat) : (bump s a n).flt = s.flt := rfl
@[simp] theorem bump_banks (a n : Nat) : (bump s a n).banks = s.banks := rfl
@[simp] theorem bump_sram (a n : Nat) : (bump s a n).sram = s.sram := rfl
@[simp] theorem bump_sramBad (a n : Nat) : (bump s a n).sramBad = s.sramBad := rfl
@[simp] theorem bump_bobs (a n : Nat) : (bump s a n).bobs = s.bobs := rfl
@[simp] theorem bump_turns (a n : Nat) : (bump s a n).turns = s.turns := rfl
@[simp] theorem bump_tiles (a n : Nat) : (bump s a n).tiles = s.tiles := rfl
@[simp] theorem bump_stale (a n : Nat) : (bump s a n).stale = s.stale := rfl
@[simp] theorem bump_progLoads (a n : Nat) : (bump s a n).progLoads = s.progLoads := rfl
@[simp] theorem bump_colls (a n : Nat) : (bump s a n).colls = s.colls := rfl
@[simp] theorem bump_sets (a n : Nat) : (bump s a n).sets = s.sets := rfl
@[simp] theorem bump_waitContribs (a n : Nat) : (bump s a n).waitContribs = s.waitContribs := rfl
@[simp] theorem bump_ports (a n : Nat) : (bump s a n).ports = s.ports := rfl
@[simp] theorem bump_ground (a n : Nat) : (bump s a n).ground = s.ground := rfl
@[simp] theorem bump_mem (a n : Nat) : (bump s a n).mem = s.mem := rfl
@[simp] theorem bump_cls (a n : Nat) : (bump s a n).cls = s.cls := rfl
@[simp] theorem bump_serial (a n : Nat) : (bump s a n).serial = s.serial := rfl
@[simp] theorem bump_outcomes (a n : Nat) : (bump s a n).outcomes = s.outcomes := rfl
@[simp] theorem bump_sht (a n : Nat) : (bump s a n).sht = s.sht := rfl
@[simp] theorem bump_mbx (a n : Nat) : (bump s a n).mbx = s.mbx := rfl
@[simp] theorem bump_boot (a n : Nat) : (bump s a n).boot = s.boot := rfl
@[simp] theorem bump_cxl (a n : Nat) : (bump s a n).cxl = s.cxl := rfl
@[simp] theorem bump_pwr (a n : Nat) : (bump s a n).pwr = s.pwr := rfl
@[simp] theorem bump_sec (a n : Nat) : (bump s a n).sec = s.sec := rfl

/-! ### progress -/

@[simp] theorem progress_pending (g u : Nat) : (progress s g u).pending = s.pending := rfl
@[simp] theorem progress_reply (g u : Nat) : (progress s g u).reply = s.reply := rfl
@[simp] theorem progress_free (g u : Nat) : (progress s g u).free = s.free := rfl
@[simp] theorem progress_clk (g u : Nat) : (progress s g u).clk = s.clk := rfl
@[simp] theorem progress_tim (g u : Nat) : (progress s g u).tim = s.tim := rfl
@[simp] theorem progress_doms (g u : Nat) : (progress s g u).doms = s.doms := rfl
@[simp] theorem progress_gates (g u : Nat) : (progress s g u).gates = s.gates := rfl
@[simp] theorem progress_stragglers (g u : Nat) : (progress s g u).stragglers = s.stragglers := rfl
@[simp] theorem progress_cdmem (g u : Nat) : (progress s g u).cdmem = s.cdmem := rfl
@[simp] theorem progress_fires (g u : Nat) : (progress s g u).fires = s.fires := rfl
@[simp] theorem progress_dues (g u : Nat) : (progress s g u).dues = s.dues := rfl
@[simp] theorem progress_flt (g u : Nat) : (progress s g u).flt = s.flt := rfl
@[simp] theorem progress_banks (g u : Nat) : (progress s g u).banks = s.banks := rfl
@[simp] theorem progress_sram (g u : Nat) : (progress s g u).sram = s.sram := rfl
@[simp] theorem progress_sramBad (g u : Nat) : (progress s g u).sramBad = s.sramBad := rfl
@[simp] theorem progress_bobs (g u : Nat) : (progress s g u).bobs = s.bobs := rfl
@[simp] theorem progress_turns (g u : Nat) : (progress s g u).turns = s.turns := rfl
@[simp] theorem progress_tiles (g u : Nat) : (progress s g u).tiles = s.tiles := rfl
@[simp] theorem progress_stale (g u : Nat) : (progress s g u).stale = s.stale := rfl
@[simp] theorem progress_progLoads (g u : Nat) : (progress s g u).progLoads = s.progLoads := rfl
@[simp] theorem progress_colls (g u : Nat) : (progress s g u).colls = s.colls := rfl
@[simp] theorem progress_sets (g u : Nat) : (progress s g u).sets = s.sets := rfl
@[simp] theorem progress_waitContribs (g u : Nat) : (progress s g u).waitContribs = s.waitContribs := rfl
@[simp] theorem progress_ports (g u : Nat) : (progress s g u).ports = s.ports := rfl
@[simp] theorem progress_ground (g u : Nat) : (progress s g u).ground = s.ground := rfl
@[simp] theorem progress_mem (g u : Nat) : (progress s g u).mem = s.mem := rfl
@[simp] theorem progress_cls (g u : Nat) : (progress s g u).cls = s.cls := rfl
@[simp] theorem progress_serial (g u : Nat) : (progress s g u).serial = s.serial := rfl
@[simp] theorem progress_outcomes (g u : Nat) : (progress s g u).outcomes = s.outcomes := rfl
@[simp] theorem progress_sht (g u : Nat) : (progress s g u).sht = s.sht := rfl
@[simp] theorem progress_mbx (g u : Nat) : (progress s g u).mbx = s.mbx := rfl
@[simp] theorem progress_boot (g u : Nat) : (progress s g u).boot = s.boot := rfl
@[simp] theorem progress_cxl (g u : Nat) : (progress s g u).cxl = s.cxl := rfl
@[simp] theorem progress_pwr (g u : Nat) : (progress s g u).pwr = s.pwr := rfl
@[simp] theorem progress_sec (g u : Nat) : (progress s g u).sec = s.sec := rfl

/-! ### okReply -/

@[simp] theorem okReply_pending (v : Word) : (okReply s v).pending = s.pending := rfl
@[simp] theorem okReply_regs (v : Word) : (okReply s v).regs = s.regs := rfl
@[simp] theorem okReply_reply (v : Word) : (okReply s v).reply = ⟨false, v⟩ := rfl
@[simp] theorem okReply_free (v : Word) : (okReply s v).free = s.free := rfl
@[simp] theorem okReply_clk (v : Word) : (okReply s v).clk = s.clk := rfl
@[simp] theorem okReply_tim (v : Word) : (okReply s v).tim = s.tim := rfl
@[simp] theorem okReply_doms (v : Word) : (okReply s v).doms = s.doms := rfl
@[simp] theorem okReply_gates (v : Word) : (okReply s v).gates = s.gates := rfl
@[simp] theorem okReply_stragglers (v : Word) : (okReply s v).stragglers = s.stragglers := rfl
@[simp] theorem okReply_cdmem (v : Word) : (okReply s v).cdmem = s.cdmem := rfl
@[simp] theorem okReply_fires (v : Word) : (okReply s v).fires = s.fires := rfl
@[simp] theorem okReply_dues (v : Word) : (okReply s v).dues = s.dues := rfl
@[simp] theorem okReply_flt (v : Word) : (okReply s v).flt = s.flt := rfl
@[simp] theorem okReply_banks (v : Word) : (okReply s v).banks = s.banks := rfl
@[simp] theorem okReply_sram (v : Word) : (okReply s v).sram = s.sram := rfl
@[simp] theorem okReply_sramBad (v : Word) : (okReply s v).sramBad = s.sramBad := rfl
@[simp] theorem okReply_bobs (v : Word) : (okReply s v).bobs = s.bobs := rfl
@[simp] theorem okReply_turns (v : Word) : (okReply s v).turns = s.turns := rfl
@[simp] theorem okReply_tiles (v : Word) : (okReply s v).tiles = s.tiles := rfl
@[simp] theorem okReply_stale (v : Word) : (okReply s v).stale = s.stale := rfl
@[simp] theorem okReply_progLoads (v : Word) : (okReply s v).progLoads = s.progLoads := rfl
@[simp] theorem okReply_colls (v : Word) : (okReply s v).colls = s.colls := rfl
@[simp] theorem okReply_sets (v : Word) : (okReply s v).sets = s.sets := rfl
@[simp] theorem okReply_waitContribs (v : Word) : (okReply s v).waitContribs = s.waitContribs := rfl
@[simp] theorem okReply_ports (v : Word) : (okReply s v).ports = s.ports := rfl
@[simp] theorem okReply_ground (v : Word) : (okReply s v).ground = s.ground := rfl
@[simp] theorem okReply_mem (v : Word) : (okReply s v).mem = s.mem := rfl
@[simp] theorem okReply_cls (v : Word) : (okReply s v).cls = s.cls := rfl
@[simp] theorem okReply_serial (v : Word) : (okReply s v).serial = s.serial := rfl
@[simp] theorem okReply_outcomes (v : Word) : (okReply s v).outcomes = s.outcomes := rfl
@[simp] theorem okReply_sht (v : Word) : (okReply s v).sht = s.sht := rfl
@[simp] theorem okReply_mbx (v : Word) : (okReply s v).mbx = s.mbx := rfl
@[simp] theorem okReply_boot (v : Word) : (okReply s v).boot = s.boot := rfl
@[simp] theorem okReply_cxl (v : Word) : (okReply s v).cxl = s.cxl := rfl
@[simp] theorem okReply_pwr (v : Word) : (okReply s v).pwr = s.pwr := rfl
@[simp] theorem okReply_sec (v : Word) : (okReply s v).sec = s.sec := rfl

/-! ### takeFree -/

@[simp] theorem takeFree_pending : (takeFree s).2.pending = s.pending := rfl
@[simp] theorem takeFree_regs : (takeFree s).2.regs = s.regs := rfl
@[simp] theorem takeFree_reply : (takeFree s).2.reply = s.reply := rfl
@[simp] theorem takeFree_free : (takeFree s).2.free = s.free + 1 := rfl
@[simp] theorem takeFree_clk : (takeFree s).2.clk = s.clk := rfl
@[simp] theorem takeFree_tim : (takeFree s).2.tim = s.tim := rfl
@[simp] theorem takeFree_doms : (takeFree s).2.doms = s.doms := rfl
@[simp] theorem takeFree_gates : (takeFree s).2.gates = s.gates := rfl
@[simp] theorem takeFree_stragglers : (takeFree s).2.stragglers = s.stragglers := rfl
@[simp] theorem takeFree_cdmem : (takeFree s).2.cdmem = s.cdmem := rfl
@[simp] theorem takeFree_fires : (takeFree s).2.fires = s.fires := rfl
@[simp] theorem takeFree_dues : (takeFree s).2.dues = s.dues := rfl
@[simp] theorem takeFree_flt : (takeFree s).2.flt = s.flt := rfl
@[simp] theorem takeFree_banks : (takeFree s).2.banks = s.banks := rfl
@[simp] theorem takeFree_sram : (takeFree s).2.sram = s.sram := rfl
@[simp] theorem takeFree_sramBad : (takeFree s).2.sramBad = s.sramBad := rfl
@[simp] theorem takeFree_bobs : (takeFree s).2.bobs = s.bobs := rfl
@[simp] theorem takeFree_turns : (takeFree s).2.turns = s.turns := rfl
@[simp] theorem takeFree_tiles : (takeFree s).2.tiles = s.tiles := rfl
@[simp] theorem takeFree_stale : (takeFree s).2.stale = s.stale := rfl
@[simp] theorem takeFree_progLoads : (takeFree s).2.progLoads = s.progLoads := rfl
@[simp] theorem takeFree_colls : (takeFree s).2.colls = s.colls := rfl
@[simp] theorem takeFree_sets : (takeFree s).2.sets = s.sets := rfl
@[simp] theorem takeFree_waitContribs : (takeFree s).2.waitContribs = s.waitContribs := rfl
@[simp] theorem takeFree_ports : (takeFree s).2.ports = s.ports := rfl
@[simp] theorem takeFree_ground : (takeFree s).2.ground = s.ground := rfl
@[simp] theorem takeFree_mem : (takeFree s).2.mem = s.mem := rfl
@[simp] theorem takeFree_cls : (takeFree s).2.cls = s.cls := rfl
@[simp] theorem takeFree_serial : (takeFree s).2.serial = s.serial := rfl
@[simp] theorem takeFree_outcomes : (takeFree s).2.outcomes = s.outcomes := rfl
@[simp] theorem takeFree_sht : (takeFree s).2.sht = s.sht := rfl
@[simp] theorem takeFree_mbx : (takeFree s).2.mbx = s.mbx := rfl
@[simp] theorem takeFree_boot : (takeFree s).2.boot = s.boot := rfl
@[simp] theorem takeFree_cxl : (takeFree s).2.cxl = s.cxl := rfl
@[simp] theorem takeFree_pwr : (takeFree s).2.pwr = s.pwr := rfl
@[simp] theorem takeFree_sec : (takeFree s).2.sec = s.sec := rfl

/-! ### takeFreeBytes -/

@[simp] theorem takeFreeBytes_pending (n : Nat) : (takeFreeBytes n s).2.pending = s.pending := rfl
@[simp] theorem takeFreeBytes_regs (n : Nat) : (takeFreeBytes n s).2.regs = s.regs := rfl
@[simp] theorem takeFreeBytes_reply (n : Nat) : (takeFreeBytes n s).2.reply = s.reply := rfl
@[simp] theorem takeFreeBytes_free (n : Nat) : (takeFreeBytes n s).2.free = s.free + n := rfl
@[simp] theorem takeFreeBytes_clk (n : Nat) : (takeFreeBytes n s).2.clk = s.clk := rfl
@[simp] theorem takeFreeBytes_tim (n : Nat) : (takeFreeBytes n s).2.tim = s.tim := rfl
@[simp] theorem takeFreeBytes_doms (n : Nat) : (takeFreeBytes n s).2.doms = s.doms := rfl
@[simp] theorem takeFreeBytes_gates (n : Nat) : (takeFreeBytes n s).2.gates = s.gates := rfl
@[simp] theorem takeFreeBytes_stragglers (n : Nat) : (takeFreeBytes n s).2.stragglers = s.stragglers := rfl
@[simp] theorem takeFreeBytes_cdmem (n : Nat) : (takeFreeBytes n s).2.cdmem = s.cdmem := rfl
@[simp] theorem takeFreeBytes_fires (n : Nat) : (takeFreeBytes n s).2.fires = s.fires := rfl
@[simp] theorem takeFreeBytes_dues (n : Nat) : (takeFreeBytes n s).2.dues = s.dues := rfl
@[simp] theorem takeFreeBytes_flt (n : Nat) : (takeFreeBytes n s).2.flt = s.flt := rfl
@[simp] theorem takeFreeBytes_banks (n : Nat) : (takeFreeBytes n s).2.banks = s.banks := rfl
@[simp] theorem takeFreeBytes_sram (n : Nat) : (takeFreeBytes n s).2.sram = s.sram := rfl
@[simp] theorem takeFreeBytes_sramBad (n : Nat) : (takeFreeBytes n s).2.sramBad = s.sramBad := rfl
@[simp] theorem takeFreeBytes_bobs (n : Nat) : (takeFreeBytes n s).2.bobs = s.bobs := rfl
@[simp] theorem takeFreeBytes_turns (n : Nat) : (takeFreeBytes n s).2.turns = s.turns := rfl
@[simp] theorem takeFreeBytes_tiles (n : Nat) : (takeFreeBytes n s).2.tiles = s.tiles := rfl
@[simp] theorem takeFreeBytes_stale (n : Nat) : (takeFreeBytes n s).2.stale = s.stale := rfl
@[simp] theorem takeFreeBytes_progLoads (n : Nat) : (takeFreeBytes n s).2.progLoads = s.progLoads := rfl
@[simp] theorem takeFreeBytes_colls (n : Nat) : (takeFreeBytes n s).2.colls = s.colls := rfl
@[simp] theorem takeFreeBytes_sets (n : Nat) : (takeFreeBytes n s).2.sets = s.sets := rfl
@[simp] theorem takeFreeBytes_waitContribs (n : Nat) : (takeFreeBytes n s).2.waitContribs = s.waitContribs := rfl
@[simp] theorem takeFreeBytes_ports (n : Nat) : (takeFreeBytes n s).2.ports = s.ports := rfl
@[simp] theorem takeFreeBytes_ground (n : Nat) : (takeFreeBytes n s).2.ground = s.ground := rfl
@[simp] theorem takeFreeBytes_mem (n : Nat) : (takeFreeBytes n s).2.mem = s.mem := rfl
@[simp] theorem takeFreeBytes_cls (n : Nat) : (takeFreeBytes n s).2.cls = s.cls := rfl
@[simp] theorem takeFreeBytes_serial (n : Nat) : (takeFreeBytes n s).2.serial = s.serial := rfl
@[simp] theorem takeFreeBytes_outcomes (n : Nat) : (takeFreeBytes n s).2.outcomes = s.outcomes := rfl
@[simp] theorem takeFreeBytes_sht (n : Nat) : (takeFreeBytes n s).2.sht = s.sht := rfl
@[simp] theorem takeFreeBytes_mbx (n : Nat) : (takeFreeBytes n s).2.mbx = s.mbx := rfl
@[simp] theorem takeFreeBytes_boot (n : Nat) : (takeFreeBytes n s).2.boot = s.boot := rfl
@[simp] theorem takeFreeBytes_cxl (n : Nat) : (takeFreeBytes n s).2.cxl = s.cxl := rfl
@[simp] theorem takeFreeBytes_pwr (n : Nat) : (takeFreeBytes n s).2.pwr = s.pwr := rfl
@[simp] theorem takeFreeBytes_sec (n : Nat) : (takeFreeBytes n s).2.sec = s.sec := rfl

/-! ### cdPut -/

@[simp] theorem cdPut_pending (a : Nat) (b : Byte) : (cdPut s a b).pending = s.pending := rfl
@[simp] theorem cdPut_regs (a : Nat) (b : Byte) : (cdPut s a b).regs = s.regs := rfl
@[simp] theorem cdPut_reply (a : Nat) (b : Byte) : (cdPut s a b).reply = s.reply := rfl
@[simp] theorem cdPut_free (a : Nat) (b : Byte) : (cdPut s a b).free = s.free := rfl
@[simp] theorem cdPut_clk (a : Nat) (b : Byte) : (cdPut s a b).clk = s.clk := rfl
@[simp] theorem cdPut_tim (a : Nat) (b : Byte) : (cdPut s a b).tim = s.tim := rfl
@[simp] theorem cdPut_doms (a : Nat) (b : Byte) : (cdPut s a b).doms = s.doms := rfl
@[simp] theorem cdPut_gates (a : Nat) (b : Byte) : (cdPut s a b).gates = s.gates := rfl
@[simp] theorem cdPut_stragglers (a : Nat) (b : Byte) : (cdPut s a b).stragglers = s.stragglers := rfl
@[simp] theorem cdPut_cdmem (a : Nat) (b : Byte) : (cdPut s a b).cdmem = sset (fun _ => 0) s.cdmem a b := rfl
@[simp] theorem cdPut_fires (a : Nat) (b : Byte) : (cdPut s a b).fires = s.fires := rfl
@[simp] theorem cdPut_dues (a : Nat) (b : Byte) : (cdPut s a b).dues = s.dues := rfl
@[simp] theorem cdPut_flt (a : Nat) (b : Byte) : (cdPut s a b).flt = s.flt := rfl
@[simp] theorem cdPut_banks (a : Nat) (b : Byte) : (cdPut s a b).banks = s.banks := rfl
@[simp] theorem cdPut_sram (a : Nat) (b : Byte) : (cdPut s a b).sram = s.sram := rfl
@[simp] theorem cdPut_sramBad (a : Nat) (b : Byte) : (cdPut s a b).sramBad = s.sramBad := rfl
@[simp] theorem cdPut_bobs (a : Nat) (b : Byte) : (cdPut s a b).bobs = s.bobs := rfl
@[simp] theorem cdPut_turns (a : Nat) (b : Byte) : (cdPut s a b).turns = s.turns := rfl
@[simp] theorem cdPut_tiles (a : Nat) (b : Byte) : (cdPut s a b).tiles = s.tiles := rfl
@[simp] theorem cdPut_stale (a : Nat) (b : Byte) : (cdPut s a b).stale = s.stale := rfl
@[simp] theorem cdPut_progLoads (a : Nat) (b : Byte) : (cdPut s a b).progLoads = s.progLoads := rfl
@[simp] theorem cdPut_colls (a : Nat) (b : Byte) : (cdPut s a b).colls = s.colls := rfl
@[simp] theorem cdPut_sets (a : Nat) (b : Byte) : (cdPut s a b).sets = s.sets := rfl
@[simp] theorem cdPut_waitContribs (a : Nat) (b : Byte) : (cdPut s a b).waitContribs = s.waitContribs := rfl
@[simp] theorem cdPut_ports (a : Nat) (b : Byte) : (cdPut s a b).ports = s.ports := rfl
@[simp] theorem cdPut_ground (a : Nat) (b : Byte) : (cdPut s a b).ground = s.ground := rfl
@[simp] theorem cdPut_mem (a : Nat) (b : Byte) : (cdPut s a b).mem = s.mem := rfl
@[simp] theorem cdPut_cls (a : Nat) (b : Byte) : (cdPut s a b).cls = s.cls := rfl
@[simp] theorem cdPut_serial (a : Nat) (b : Byte) : (cdPut s a b).serial = s.serial := rfl
@[simp] theorem cdPut_outcomes (a : Nat) (b : Byte) : (cdPut s a b).outcomes = s.outcomes := rfl
@[simp] theorem cdPut_sht (a : Nat) (b : Byte) : (cdPut s a b).sht = s.sht := rfl
@[simp] theorem cdPut_mbx (a : Nat) (b : Byte) : (cdPut s a b).mbx = s.mbx := rfl
@[simp] theorem cdPut_boot (a : Nat) (b : Byte) : (cdPut s a b).boot = s.boot := rfl
@[simp] theorem cdPut_cxl (a : Nat) (b : Byte) : (cdPut s a b).cxl = s.cxl := rfl
@[simp] theorem cdPut_pwr (a : Nat) (b : Byte) : (cdPut s a b).pwr = s.pwr := rfl
@[simp] theorem cdPut_sec (a : Nat) (b : Byte) : (cdPut s a b).sec = s.sec := rfl

/-! ### tickStamp -/

@[simp] theorem tickStamp_pending : (tickStamp s).pending = s.pending := rfl
@[simp] theorem tickStamp_regs : (tickStamp s).regs = s.regs := rfl
@[simp] theorem tickStamp_reply : (tickStamp s).reply = s.reply := rfl
@[simp] theorem tickStamp_free : (tickStamp s).free = s.free := rfl
@[simp] theorem tickStamp_clk : (tickStamp s).clk = s.clk := rfl
@[simp] theorem tickStamp_tim : (tickStamp s).tim = s.tim := rfl
@[simp] theorem tickStamp_doms : (tickStamp s).doms = s.doms := rfl
@[simp] theorem tickStamp_gates : (tickStamp s).gates = s.gates := rfl
@[simp] theorem tickStamp_stragglers : (tickStamp s).stragglers = s.stragglers := rfl
@[simp] theorem tickStamp_cdmem : (tickStamp s).cdmem = s.cdmem := rfl
@[simp] theorem tickStamp_fires : (tickStamp s).fires = s.fires := rfl
@[simp] theorem tickStamp_dues : (tickStamp s).dues = s.dues := rfl
@[simp] theorem tickStamp_banks : (tickStamp s).banks = s.banks := rfl
@[simp] theorem tickStamp_sram : (tickStamp s).sram = s.sram := rfl
@[simp] theorem tickStamp_sramBad : (tickStamp s).sramBad = s.sramBad := rfl
@[simp] theorem tickStamp_bobs : (tickStamp s).bobs = s.bobs := rfl
@[simp] theorem tickStamp_turns : (tickStamp s).turns = s.turns := rfl
@[simp] theorem tickStamp_tiles : (tickStamp s).tiles = s.tiles := rfl
@[simp] theorem tickStamp_stale : (tickStamp s).stale = s.stale := rfl
@[simp] theorem tickStamp_progLoads : (tickStamp s).progLoads = s.progLoads := rfl
@[simp] theorem tickStamp_colls : (tickStamp s).colls = s.colls := rfl
@[simp] theorem tickStamp_sets : (tickStamp s).sets = s.sets := rfl
@[simp] theorem tickStamp_waitContribs : (tickStamp s).waitContribs = s.waitContribs := rfl
@[simp] theorem tickStamp_ports : (tickStamp s).ports = s.ports := rfl
@[simp] theorem tickStamp_ground : (tickStamp s).ground = s.ground := rfl
@[simp] theorem tickStamp_mem : (tickStamp s).mem = s.mem := rfl
@[simp] theorem tickStamp_cls : (tickStamp s).cls = s.cls := rfl
@[simp] theorem tickStamp_serial : (tickStamp s).serial = s.serial := rfl
@[simp] theorem tickStamp_outcomes : (tickStamp s).outcomes = s.outcomes := rfl
@[simp] theorem tickStamp_sht : (tickStamp s).sht = s.sht := rfl
@[simp] theorem tickStamp_mbx : (tickStamp s).mbx = s.mbx := rfl
@[simp] theorem tickStamp_boot : (tickStamp s).boot = s.boot := rfl
@[simp] theorem tickStamp_cxl : (tickStamp s).cxl = s.cxl := rfl
@[simp] theorem tickStamp_pwr : (tickStamp s).pwr = s.pwr := rfl
@[simp] theorem tickStamp_sec : (tickStamp s).sec = s.sec := rfl

/-! ### firedNow -/

@[simp] theorem firedNow_pending (f : Src) (u : Nat) : (firedNow f u s).pending = s.pending := rfl
@[simp] theorem firedNow_reply (f : Src) (u : Nat) : (firedNow f u s).reply = s.reply := rfl
@[simp] theorem firedNow_free (f : Src) (u : Nat) : (firedNow f u s).free = s.free := rfl
@[simp] theorem firedNow_clk (f : Src) (u : Nat) : (firedNow f u s).clk = s.clk := rfl
@[simp] theorem firedNow_tim (f : Src) (u : Nat) : (firedNow f u s).tim = s.tim := rfl
@[simp] theorem firedNow_doms (f : Src) (u : Nat) : (firedNow f u s).doms = s.doms := rfl
@[simp] theorem firedNow_gates (f : Src) (u : Nat) : (firedNow f u s).gates = s.gates := rfl
@[simp] theorem firedNow_stragglers (f : Src) (u : Nat) : (firedNow f u s).stragglers = s.stragglers := rfl
@[simp] theorem firedNow_cdmem (f : Src) (u : Nat) : (firedNow f u s).cdmem = s.cdmem := rfl
@[simp] theorem firedNow_fires (f : Src) (u : Nat) : (firedNow f u s).fires = s.fires := rfl
@[simp] theorem firedNow_dues (f : Src) (u : Nat) : (firedNow f u s).dues = s.dues := rfl
@[simp] theorem firedNow_banks (f : Src) (u : Nat) : (firedNow f u s).banks = s.banks := rfl
@[simp] theorem firedNow_sram (f : Src) (u : Nat) : (firedNow f u s).sram = s.sram := rfl
@[simp] theorem firedNow_sramBad (f : Src) (u : Nat) : (firedNow f u s).sramBad = s.sramBad := rfl
@[simp] theorem firedNow_bobs (f : Src) (u : Nat) : (firedNow f u s).bobs = s.bobs := rfl
@[simp] theorem firedNow_turns (f : Src) (u : Nat) : (firedNow f u s).turns = s.turns := rfl
@[simp] theorem firedNow_tiles (f : Src) (u : Nat) : (firedNow f u s).tiles = s.tiles := rfl
@[simp] theorem firedNow_stale (f : Src) (u : Nat) : (firedNow f u s).stale = s.stale := rfl
@[simp] theorem firedNow_progLoads (f : Src) (u : Nat) : (firedNow f u s).progLoads = s.progLoads := rfl
@[simp] theorem firedNow_colls (f : Src) (u : Nat) : (firedNow f u s).colls = s.colls := rfl
@[simp] theorem firedNow_sets (f : Src) (u : Nat) : (firedNow f u s).sets = s.sets := rfl
@[simp] theorem firedNow_waitContribs (f : Src) (u : Nat) : (firedNow f u s).waitContribs = s.waitContribs := rfl
@[simp] theorem firedNow_ports (f : Src) (u : Nat) : (firedNow f u s).ports = s.ports := rfl
@[simp] theorem firedNow_ground (f : Src) (u : Nat) : (firedNow f u s).ground = s.ground := rfl
@[simp] theorem firedNow_mem (f : Src) (u : Nat) : (firedNow f u s).mem = s.mem := rfl
@[simp] theorem firedNow_cls (f : Src) (u : Nat) : (firedNow f u s).cls = s.cls := rfl
@[simp] theorem firedNow_serial (f : Src) (u : Nat) : (firedNow f u s).serial = s.serial := rfl
@[simp] theorem firedNow_outcomes (f : Src) (u : Nat) : (firedNow f u s).outcomes = s.outcomes := rfl
@[simp] theorem firedNow_sht (f : Src) (u : Nat) : (firedNow f u s).sht = s.sht := rfl
@[simp] theorem firedNow_mbx (f : Src) (u : Nat) : (firedNow f u s).mbx = s.mbx := rfl
@[simp] theorem firedNow_boot (f : Src) (u : Nat) : (firedNow f u s).boot = s.boot := rfl
@[simp] theorem firedNow_cxl (f : Src) (u : Nat) : (firedNow f u s).cxl = s.cxl := rfl
@[simp] theorem firedNow_pwr (f : Src) (u : Nat) : (firedNow f u s).pwr = s.pwr := rfl
@[simp] theorem firedNow_sec (f : Src) (u : Nat) : (firedNow f u s).sec = s.sec := rfl

/-! ### setSticky -/

@[simp] theorem setSticky_pending (f : Src) (u : Nat) : (setSticky f u s).pending = s.pending := rfl
@[simp] theorem setSticky_reply (f : Src) (u : Nat) : (setSticky f u s).reply = s.reply := rfl
@[simp] theorem setSticky_free (f : Src) (u : Nat) : (setSticky f u s).free = s.free := rfl
@[simp] theorem setSticky_clk (f : Src) (u : Nat) : (setSticky f u s).clk = s.clk := rfl
@[simp] theorem setSticky_tim (f : Src) (u : Nat) : (setSticky f u s).tim = s.tim := rfl
@[simp] theorem setSticky_doms (f : Src) (u : Nat) : (setSticky f u s).doms = s.doms := rfl
@[simp] theorem setSticky_gates (f : Src) (u : Nat) : (setSticky f u s).gates = s.gates := rfl
@[simp] theorem setSticky_stragglers (f : Src) (u : Nat) : (setSticky f u s).stragglers = s.stragglers := rfl
@[simp] theorem setSticky_cdmem (f : Src) (u : Nat) : (setSticky f u s).cdmem = s.cdmem := rfl
@[simp] theorem setSticky_fires (f : Src) (u : Nat) : (setSticky f u s).fires = s.fires := rfl
@[simp] theorem setSticky_dues (f : Src) (u : Nat) : (setSticky f u s).dues = s.dues := rfl
@[simp] theorem setSticky_flt (f : Src) (u : Nat) : (setSticky f u s).flt = s.flt := rfl
@[simp] theorem setSticky_banks (f : Src) (u : Nat) : (setSticky f u s).banks = s.banks := rfl
@[simp] theorem setSticky_sram (f : Src) (u : Nat) : (setSticky f u s).sram = s.sram := rfl
@[simp] theorem setSticky_sramBad (f : Src) (u : Nat) : (setSticky f u s).sramBad = s.sramBad := rfl
@[simp] theorem setSticky_bobs (f : Src) (u : Nat) : (setSticky f u s).bobs = s.bobs := rfl
@[simp] theorem setSticky_turns (f : Src) (u : Nat) : (setSticky f u s).turns = s.turns := rfl
@[simp] theorem setSticky_tiles (f : Src) (u : Nat) : (setSticky f u s).tiles = s.tiles := rfl
@[simp] theorem setSticky_stale (f : Src) (u : Nat) : (setSticky f u s).stale = s.stale := rfl
@[simp] theorem setSticky_progLoads (f : Src) (u : Nat) : (setSticky f u s).progLoads = s.progLoads := rfl
@[simp] theorem setSticky_colls (f : Src) (u : Nat) : (setSticky f u s).colls = s.colls := rfl
@[simp] theorem setSticky_sets (f : Src) (u : Nat) : (setSticky f u s).sets = s.sets := rfl
@[simp] theorem setSticky_waitContribs (f : Src) (u : Nat) : (setSticky f u s).waitContribs = s.waitContribs := rfl
@[simp] theorem setSticky_ports (f : Src) (u : Nat) : (setSticky f u s).ports = s.ports := rfl
@[simp] theorem setSticky_ground (f : Src) (u : Nat) : (setSticky f u s).ground = s.ground := rfl
@[simp] theorem setSticky_mem (f : Src) (u : Nat) : (setSticky f u s).mem = s.mem := rfl
@[simp] theorem setSticky_cls (f : Src) (u : Nat) : (setSticky f u s).cls = s.cls := rfl
@[simp] theorem setSticky_serial (f : Src) (u : Nat) : (setSticky f u s).serial = s.serial := rfl
@[simp] theorem setSticky_outcomes (f : Src) (u : Nat) : (setSticky f u s).outcomes = s.outcomes := rfl
@[simp] theorem setSticky_sht (f : Src) (u : Nat) : (setSticky f u s).sht = s.sht := rfl
@[simp] theorem setSticky_mbx (f : Src) (u : Nat) : (setSticky f u s).mbx = s.mbx := rfl
@[simp] theorem setSticky_boot (f : Src) (u : Nat) : (setSticky f u s).boot = s.boot := rfl
@[simp] theorem setSticky_cxl (f : Src) (u : Nat) : (setSticky f u s).cxl = s.cxl := rfl
@[simp] theorem setSticky_pwr (f : Src) (u : Nat) : (setSticky f u s).pwr = s.pwr := rfl
@[simp] theorem setSticky_sec (f : Src) (u : Nat) : (setSticky f u s).sec = s.sec := rfl

/-! ### addCause -/

@[simp] theorem addCause_pending (f : Src) (u : Nat) (p : Word) : (addCause f u p s).pending = s.pending := rfl
@[simp] theorem addCause_regs (f : Src) (u : Nat) (p : Word) : (addCause f u p s).regs = s.regs := rfl
@[simp] theorem addCause_reply (f : Src) (u : Nat) (p : Word) : (addCause f u p s).reply = s.reply := rfl
@[simp] theorem addCause_free (f : Src) (u : Nat) (p : Word) : (addCause f u p s).free = s.free := rfl
@[simp] theorem addCause_clk (f : Src) (u : Nat) (p : Word) : (addCause f u p s).clk = s.clk := rfl
@[simp] theorem addCause_tim (f : Src) (u : Nat) (p : Word) : (addCause f u p s).tim = s.tim := rfl
@[simp] theorem addCause_doms (f : Src) (u : Nat) (p : Word) : (addCause f u p s).doms = s.doms := rfl
@[simp] theorem addCause_gates (f : Src) (u : Nat) (p : Word) : (addCause f u p s).gates = s.gates := rfl
@[simp] theorem addCause_stragglers (f : Src) (u : Nat) (p : Word) : (addCause f u p s).stragglers = s.stragglers := rfl
@[simp] theorem addCause_cdmem (f : Src) (u : Nat) (p : Word) : (addCause f u p s).cdmem = s.cdmem := rfl
@[simp] theorem addCause_fires (f : Src) (u : Nat) (p : Word) : (addCause f u p s).fires = s.fires := rfl
@[simp] theorem addCause_dues (f : Src) (u : Nat) (p : Word) : (addCause f u p s).dues = s.dues := rfl
@[simp] theorem addCause_banks (f : Src) (u : Nat) (p : Word) : (addCause f u p s).banks = s.banks := rfl
@[simp] theorem addCause_sram (f : Src) (u : Nat) (p : Word) : (addCause f u p s).sram = s.sram := rfl
@[simp] theorem addCause_sramBad (f : Src) (u : Nat) (p : Word) : (addCause f u p s).sramBad = s.sramBad := rfl
@[simp] theorem addCause_bobs (f : Src) (u : Nat) (p : Word) : (addCause f u p s).bobs = s.bobs := rfl
@[simp] theorem addCause_turns (f : Src) (u : Nat) (p : Word) : (addCause f u p s).turns = s.turns := rfl
@[simp] theorem addCause_tiles (f : Src) (u : Nat) (p : Word) : (addCause f u p s).tiles = s.tiles := rfl
@[simp] theorem addCause_stale (f : Src) (u : Nat) (p : Word) : (addCause f u p s).stale = s.stale := rfl
@[simp] theorem addCause_progLoads (f : Src) (u : Nat) (p : Word) : (addCause f u p s).progLoads = s.progLoads := rfl
@[simp] theorem addCause_colls (f : Src) (u : Nat) (p : Word) : (addCause f u p s).colls = s.colls := rfl
@[simp] theorem addCause_sets (f : Src) (u : Nat) (p : Word) : (addCause f u p s).sets = s.sets := rfl
@[simp] theorem addCause_waitContribs (f : Src) (u : Nat) (p : Word) : (addCause f u p s).waitContribs = s.waitContribs := rfl
@[simp] theorem addCause_ports (f : Src) (u : Nat) (p : Word) : (addCause f u p s).ports = s.ports := rfl
@[simp] theorem addCause_ground (f : Src) (u : Nat) (p : Word) : (addCause f u p s).ground = s.ground := rfl
@[simp] theorem addCause_mem (f : Src) (u : Nat) (p : Word) : (addCause f u p s).mem = s.mem := rfl
@[simp] theorem addCause_cls (f : Src) (u : Nat) (p : Word) : (addCause f u p s).cls = s.cls := rfl
@[simp] theorem addCause_serial (f : Src) (u : Nat) (p : Word) : (addCause f u p s).serial = s.serial := rfl
@[simp] theorem addCause_outcomes (f : Src) (u : Nat) (p : Word) : (addCause f u p s).outcomes = s.outcomes := rfl
@[simp] theorem addCause_sht (f : Src) (u : Nat) (p : Word) : (addCause f u p s).sht = s.sht := rfl
@[simp] theorem addCause_mbx (f : Src) (u : Nat) (p : Word) : (addCause f u p s).mbx = s.mbx := rfl
@[simp] theorem addCause_boot (f : Src) (u : Nat) (p : Word) : (addCause f u p s).boot = s.boot := rfl
@[simp] theorem addCause_cxl (f : Src) (u : Nat) (p : Word) : (addCause f u p s).cxl = s.cxl := rfl
@[simp] theorem addCause_pwr (f : Src) (u : Nat) (p : Word) : (addCause f u p s).pwr = s.pwr := rfl
@[simp] theorem addCause_sec (f : Src) (u : Nat) (p : Word) : (addCause f u p s).sec = s.sec := rfl

/-! ### dropCause -/

@[simp] theorem dropCause_pending (f : Src) (u : Nat) : (dropCause f u s).pending = s.pending := rfl
@[simp] theorem dropCause_regs (f : Src) (u : Nat) : (dropCause f u s).regs = s.regs := rfl
@[simp] theorem dropCause_reply (f : Src) (u : Nat) : (dropCause f u s).reply = s.reply := rfl
@[simp] theorem dropCause_free (f : Src) (u : Nat) : (dropCause f u s).free = s.free := rfl
@[simp] theorem dropCause_clk (f : Src) (u : Nat) : (dropCause f u s).clk = s.clk := rfl
@[simp] theorem dropCause_tim (f : Src) (u : Nat) : (dropCause f u s).tim = s.tim := rfl
@[simp] theorem dropCause_doms (f : Src) (u : Nat) : (dropCause f u s).doms = s.doms := rfl
@[simp] theorem dropCause_gates (f : Src) (u : Nat) : (dropCause f u s).gates = s.gates := rfl
@[simp] theorem dropCause_stragglers (f : Src) (u : Nat) : (dropCause f u s).stragglers = s.stragglers := rfl
@[simp] theorem dropCause_cdmem (f : Src) (u : Nat) : (dropCause f u s).cdmem = s.cdmem := rfl
@[simp] theorem dropCause_fires (f : Src) (u : Nat) : (dropCause f u s).fires = s.fires := rfl
@[simp] theorem dropCause_dues (f : Src) (u : Nat) : (dropCause f u s).dues = s.dues := rfl
@[simp] theorem dropCause_banks (f : Src) (u : Nat) : (dropCause f u s).banks = s.banks := rfl
@[simp] theorem dropCause_sram (f : Src) (u : Nat) : (dropCause f u s).sram = s.sram := rfl
@[simp] theorem dropCause_sramBad (f : Src) (u : Nat) : (dropCause f u s).sramBad = s.sramBad := rfl
@[simp] theorem dropCause_bobs (f : Src) (u : Nat) : (dropCause f u s).bobs = s.bobs := rfl
@[simp] theorem dropCause_turns (f : Src) (u : Nat) : (dropCause f u s).turns = s.turns := rfl
@[simp] theorem dropCause_tiles (f : Src) (u : Nat) : (dropCause f u s).tiles = s.tiles := rfl
@[simp] theorem dropCause_stale (f : Src) (u : Nat) : (dropCause f u s).stale = s.stale := rfl
@[simp] theorem dropCause_progLoads (f : Src) (u : Nat) : (dropCause f u s).progLoads = s.progLoads := rfl
@[simp] theorem dropCause_colls (f : Src) (u : Nat) : (dropCause f u s).colls = s.colls := rfl
@[simp] theorem dropCause_sets (f : Src) (u : Nat) : (dropCause f u s).sets = s.sets := rfl
@[simp] theorem dropCause_waitContribs (f : Src) (u : Nat) : (dropCause f u s).waitContribs = s.waitContribs := rfl
@[simp] theorem dropCause_ports (f : Src) (u : Nat) : (dropCause f u s).ports = s.ports := rfl
@[simp] theorem dropCause_ground (f : Src) (u : Nat) : (dropCause f u s).ground = s.ground := rfl
@[simp] theorem dropCause_mem (f : Src) (u : Nat) : (dropCause f u s).mem = s.mem := rfl
@[simp] theorem dropCause_cls (f : Src) (u : Nat) : (dropCause f u s).cls = s.cls := rfl
@[simp] theorem dropCause_serial (f : Src) (u : Nat) : (dropCause f u s).serial = s.serial := rfl
@[simp] theorem dropCause_outcomes (f : Src) (u : Nat) : (dropCause f u s).outcomes = s.outcomes := rfl
@[simp] theorem dropCause_sht (f : Src) (u : Nat) : (dropCause f u s).sht = s.sht := rfl
@[simp] theorem dropCause_mbx (f : Src) (u : Nat) : (dropCause f u s).mbx = s.mbx := rfl
@[simp] theorem dropCause_boot (f : Src) (u : Nat) : (dropCause f u s).boot = s.boot := rfl
@[simp] theorem dropCause_cxl (f : Src) (u : Nat) : (dropCause f u s).cxl = s.cxl := rfl
@[simp] theorem dropCause_pwr (f : Src) (u : Nat) : (dropCause f u s).pwr = s.pwr := rfl
@[simp] theorem dropCause_sec (f : Src) (u : Nat) : (dropCause f u s).sec = s.sec := rfl

/-! ### addDue -/

@[simp] theorem addDue_pending (d : Due) : (addDue d s).pending = s.pending := rfl
@[simp] theorem addDue_regs (d : Due) : (addDue d s).regs = s.regs := rfl
@[simp] theorem addDue_reply (d : Due) : (addDue d s).reply = s.reply := rfl
@[simp] theorem addDue_free (d : Due) : (addDue d s).free = s.free := rfl
@[simp] theorem addDue_clk (d : Due) : (addDue d s).clk = s.clk := rfl
@[simp] theorem addDue_tim (d : Due) : (addDue d s).tim = s.tim := rfl
@[simp] theorem addDue_doms (d : Due) : (addDue d s).doms = s.doms := rfl
@[simp] theorem addDue_gates (d : Due) : (addDue d s).gates = s.gates := rfl
@[simp] theorem addDue_stragglers (d : Due) : (addDue d s).stragglers = s.stragglers := rfl
@[simp] theorem addDue_cdmem (d : Due) : (addDue d s).cdmem = s.cdmem := rfl
@[simp] theorem addDue_fires (d : Due) : (addDue d s).fires = s.fires := rfl
@[simp] theorem addDue_dues (d : Due) : (addDue d s).dues = s.dues ++ [d] := rfl
@[simp] theorem addDue_flt (d : Due) : (addDue d s).flt = s.flt := rfl
@[simp] theorem addDue_banks (d : Due) : (addDue d s).banks = s.banks := rfl
@[simp] theorem addDue_sram (d : Due) : (addDue d s).sram = s.sram := rfl
@[simp] theorem addDue_sramBad (d : Due) : (addDue d s).sramBad = s.sramBad := rfl
@[simp] theorem addDue_bobs (d : Due) : (addDue d s).bobs = s.bobs := rfl
@[simp] theorem addDue_turns (d : Due) : (addDue d s).turns = s.turns := rfl
@[simp] theorem addDue_tiles (d : Due) : (addDue d s).tiles = s.tiles := rfl
@[simp] theorem addDue_stale (d : Due) : (addDue d s).stale = s.stale := rfl
@[simp] theorem addDue_progLoads (d : Due) : (addDue d s).progLoads = s.progLoads := rfl
@[simp] theorem addDue_colls (d : Due) : (addDue d s).colls = s.colls := rfl
@[simp] theorem addDue_sets (d : Due) : (addDue d s).sets = s.sets := rfl
@[simp] theorem addDue_waitContribs (d : Due) : (addDue d s).waitContribs = s.waitContribs := rfl
@[simp] theorem addDue_ports (d : Due) : (addDue d s).ports = s.ports := rfl
@[simp] theorem addDue_ground (d : Due) : (addDue d s).ground = s.ground := rfl
@[simp] theorem addDue_mem (d : Due) : (addDue d s).mem = s.mem := rfl
@[simp] theorem addDue_cls (d : Due) : (addDue d s).cls = s.cls := rfl
@[simp] theorem addDue_serial (d : Due) : (addDue d s).serial = s.serial := rfl
@[simp] theorem addDue_outcomes (d : Due) : (addDue d s).outcomes = s.outcomes := rfl
@[simp] theorem addDue_sht (d : Due) : (addDue d s).sht = s.sht := rfl
@[simp] theorem addDue_mbx (d : Due) : (addDue d s).mbx = s.mbx := rfl
@[simp] theorem addDue_boot (d : Due) : (addDue d s).boot = s.boot := rfl
@[simp] theorem addDue_cxl (d : Due) : (addDue d s).cxl = s.cxl := rfl
@[simp] theorem addDue_pwr (d : Due) : (addDue d s).pwr = s.pwr := rfl
@[simp] theorem addDue_sec (d : Due) : (addDue d s).sec = s.sec := rfl

/-! ### setDom -/

@[simp] theorem setDom_pending (d : Nat) (x : Domain) : (setDom s d x).pending = s.pending := rfl
@[simp] theorem setDom_regs (d : Nat) (x : Domain) : (setDom s d x).regs = s.regs := rfl
@[simp] theorem setDom_reply (d : Nat) (x : Domain) : (setDom s d x).reply = s.reply := rfl
@[simp] theorem setDom_free (d : Nat) (x : Domain) : (setDom s d x).free = s.free := rfl
@[simp] theorem setDom_clk (d : Nat) (x : Domain) : (setDom s d x).clk = s.clk := rfl
@[simp] theorem setDom_tim (d : Nat) (x : Domain) : (setDom s d x).tim = s.tim := rfl
@[simp] theorem setDom_doms (d : Nat) (x : Domain) : (setDom s d x).doms = sset (fun _ => {}) s.doms d x := rfl
@[simp] theorem setDom_gates (d : Nat) (x : Domain) : (setDom s d x).gates = s.gates := rfl
@[simp] theorem setDom_stragglers (d : Nat) (x : Domain) : (setDom s d x).stragglers = s.stragglers := rfl
@[simp] theorem setDom_cdmem (d : Nat) (x : Domain) : (setDom s d x).cdmem = s.cdmem := rfl
@[simp] theorem setDom_fires (d : Nat) (x : Domain) : (setDom s d x).fires = s.fires := rfl
@[simp] theorem setDom_dues (d : Nat) (x : Domain) : (setDom s d x).dues = s.dues := rfl
@[simp] theorem setDom_flt (d : Nat) (x : Domain) : (setDom s d x).flt = s.flt := rfl
@[simp] theorem setDom_banks (d : Nat) (x : Domain) : (setDom s d x).banks = s.banks := rfl
@[simp] theorem setDom_sram (d : Nat) (x : Domain) : (setDom s d x).sram = s.sram := rfl
@[simp] theorem setDom_sramBad (d : Nat) (x : Domain) : (setDom s d x).sramBad = s.sramBad := rfl
@[simp] theorem setDom_bobs (d : Nat) (x : Domain) : (setDom s d x).bobs = s.bobs := rfl
@[simp] theorem setDom_turns (d : Nat) (x : Domain) : (setDom s d x).turns = s.turns := rfl
@[simp] theorem setDom_tiles (d : Nat) (x : Domain) : (setDom s d x).tiles = s.tiles := rfl
@[simp] theorem setDom_stale (d : Nat) (x : Domain) : (setDom s d x).stale = s.stale := rfl
@[simp] theorem setDom_progLoads (d : Nat) (x : Domain) : (setDom s d x).progLoads = s.progLoads := rfl
@[simp] theorem setDom_colls (d : Nat) (x : Domain) : (setDom s d x).colls = s.colls := rfl
@[simp] theorem setDom_sets (d : Nat) (x : Domain) : (setDom s d x).sets = s.sets := rfl
@[simp] theorem setDom_waitContribs (d : Nat) (x : Domain) : (setDom s d x).waitContribs = s.waitContribs := rfl
@[simp] theorem setDom_ports (d : Nat) (x : Domain) : (setDom s d x).ports = s.ports := rfl
@[simp] theorem setDom_ground (d : Nat) (x : Domain) : (setDom s d x).ground = s.ground := rfl
@[simp] theorem setDom_mem (d : Nat) (x : Domain) : (setDom s d x).mem = s.mem := rfl
@[simp] theorem setDom_cls (d : Nat) (x : Domain) : (setDom s d x).cls = s.cls := rfl
@[simp] theorem setDom_serial (d : Nat) (x : Domain) : (setDom s d x).serial = s.serial := rfl
@[simp] theorem setDom_outcomes (d : Nat) (x : Domain) : (setDom s d x).outcomes = s.outcomes := rfl
@[simp] theorem setDom_sht (d : Nat) (x : Domain) : (setDom s d x).sht = s.sht := rfl
@[simp] theorem setDom_mbx (d : Nat) (x : Domain) : (setDom s d x).mbx = s.mbx := rfl
@[simp] theorem setDom_boot (d : Nat) (x : Domain) : (setDom s d x).boot = s.boot := rfl
@[simp] theorem setDom_cxl (d : Nat) (x : Domain) : (setDom s d x).cxl = s.cxl := rfl
@[simp] theorem setDom_pwr (d : Nat) (x : Domain) : (setDom s d x).pwr = s.pwr := rfl
@[simp] theorem setDom_sec (d : Nat) (x : Domain) : (setDom s d x).sec = s.sec := rfl

/-! ### setGate -/

@[simp] theorem setGate_pending (n : Nat) (g : GatePos) : (setGate s n g).pending = s.pending := rfl
@[simp] theorem setGate_regs (n : Nat) (g : GatePos) : (setGate s n g).regs = s.regs := rfl
@[simp] theorem setGate_reply (n : Nat) (g : GatePos) : (setGate s n g).reply = s.reply := rfl
@[simp] theorem setGate_free (n : Nat) (g : GatePos) : (setGate s n g).free = s.free := rfl
@[simp] theorem setGate_clk (n : Nat) (g : GatePos) : (setGate s n g).clk = s.clk := rfl
@[simp] theorem setGate_tim (n : Nat) (g : GatePos) : (setGate s n g).tim = s.tim := rfl
@[simp] theorem setGate_doms (n : Nat) (g : GatePos) : (setGate s n g).doms = s.doms := rfl
@[simp] theorem setGate_gates (n : Nat) (g : GatePos) : (setGate s n g).gates = sset (fun _ => {}) s.gates n g := rfl
@[simp] theorem setGate_stragglers (n : Nat) (g : GatePos) : (setGate s n g).stragglers = s.stragglers := rfl
@[simp] theorem setGate_cdmem (n : Nat) (g : GatePos) : (setGate s n g).cdmem = s.cdmem := rfl
@[simp] theorem setGate_fires (n : Nat) (g : GatePos) : (setGate s n g).fires = s.fires := rfl
@[simp] theorem setGate_dues (n : Nat) (g : GatePos) : (setGate s n g).dues = s.dues := rfl
@[simp] theorem setGate_flt (n : Nat) (g : GatePos) : (setGate s n g).flt = s.flt := rfl
@[simp] theorem setGate_banks (n : Nat) (g : GatePos) : (setGate s n g).banks = s.banks := rfl
@[simp] theorem setGate_sram (n : Nat) (g : GatePos) : (setGate s n g).sram = s.sram := rfl
@[simp] theorem setGate_sramBad (n : Nat) (g : GatePos) : (setGate s n g).sramBad = s.sramBad := rfl
@[simp] theorem setGate_bobs (n : Nat) (g : GatePos) : (setGate s n g).bobs = s.bobs := rfl
@[simp] theorem setGate_turns (n : Nat) (g : GatePos) : (setGate s n g).turns = s.turns := rfl
@[simp] theorem setGate_tiles (n : Nat) (g : GatePos) : (setGate s n g).tiles = s.tiles := rfl
@[simp] theorem setGate_stale (n : Nat) (g : GatePos) : (setGate s n g).stale = s.stale := rfl
@[simp] theorem setGate_progLoads (n : Nat) (g : GatePos) : (setGate s n g).progLoads = s.progLoads := rfl
@[simp] theorem setGate_colls (n : Nat) (g : GatePos) : (setGate s n g).colls = s.colls := rfl
@[simp] theorem setGate_sets (n : Nat) (g : GatePos) : (setGate s n g).sets = s.sets := rfl
@[simp] theorem setGate_waitContribs (n : Nat) (g : GatePos) : (setGate s n g).waitContribs = s.waitContribs := rfl
@[simp] theorem setGate_ports (n : Nat) (g : GatePos) : (setGate s n g).ports = s.ports := rfl
@[simp] theorem setGate_ground (n : Nat) (g : GatePos) : (setGate s n g).ground = s.ground := rfl
@[simp] theorem setGate_mem (n : Nat) (g : GatePos) : (setGate s n g).mem = s.mem := rfl
@[simp] theorem setGate_cls (n : Nat) (g : GatePos) : (setGate s n g).cls = s.cls := rfl
@[simp] theorem setGate_serial (n : Nat) (g : GatePos) : (setGate s n g).serial = s.serial := rfl
@[simp] theorem setGate_outcomes (n : Nat) (g : GatePos) : (setGate s n g).outcomes = s.outcomes := rfl
@[simp] theorem setGate_sht (n : Nat) (g : GatePos) : (setGate s n g).sht = s.sht := rfl
@[simp] theorem setGate_mbx (n : Nat) (g : GatePos) : (setGate s n g).mbx = s.mbx := rfl
@[simp] theorem setGate_boot (n : Nat) (g : GatePos) : (setGate s n g).boot = s.boot := rfl
@[simp] theorem setGate_cxl (n : Nat) (g : GatePos) : (setGate s n g).cxl = s.cxl := rfl
@[simp] theorem setGate_pwr (n : Nat) (g : GatePos) : (setGate s n g).pwr = s.pwr := rfl
@[simp] theorem setGate_sec (n : Nat) (g : GatePos) : (setGate s n g).sec = s.sec := rfl

/-! ### setPort -/

@[simp] theorem setPort_pending (p : Nat) (x : Port) : (setPort s p x).pending = s.pending := rfl
@[simp] theorem setPort_regs (p : Nat) (x : Port) : (setPort s p x).regs = s.regs := rfl
@[simp] theorem setPort_reply (p : Nat) (x : Port) : (setPort s p x).reply = s.reply := rfl
@[simp] theorem setPort_free (p : Nat) (x : Port) : (setPort s p x).free = s.free := rfl
@[simp] theorem setPort_clk (p : Nat) (x : Port) : (setPort s p x).clk = s.clk := rfl
@[simp] theorem setPort_tim (p : Nat) (x : Port) : (setPort s p x).tim = s.tim := rfl
@[simp] theorem setPort_doms (p : Nat) (x : Port) : (setPort s p x).doms = s.doms := rfl
@[simp] theorem setPort_gates (p : Nat) (x : Port) : (setPort s p x).gates = s.gates := rfl
@[simp] theorem setPort_stragglers (p : Nat) (x : Port) : (setPort s p x).stragglers = s.stragglers := rfl
@[simp] theorem setPort_cdmem (p : Nat) (x : Port) : (setPort s p x).cdmem = s.cdmem := rfl
@[simp] theorem setPort_fires (p : Nat) (x : Port) : (setPort s p x).fires = s.fires := rfl
@[simp] theorem setPort_dues (p : Nat) (x : Port) : (setPort s p x).dues = s.dues := rfl
@[simp] theorem setPort_flt (p : Nat) (x : Port) : (setPort s p x).flt = s.flt := rfl
@[simp] theorem setPort_banks (p : Nat) (x : Port) : (setPort s p x).banks = s.banks := rfl
@[simp] theorem setPort_sram (p : Nat) (x : Port) : (setPort s p x).sram = s.sram := rfl
@[simp] theorem setPort_sramBad (p : Nat) (x : Port) : (setPort s p x).sramBad = s.sramBad := rfl
@[simp] theorem setPort_bobs (p : Nat) (x : Port) : (setPort s p x).bobs = s.bobs := rfl
@[simp] theorem setPort_turns (p : Nat) (x : Port) : (setPort s p x).turns = s.turns := rfl
@[simp] theorem setPort_tiles (p : Nat) (x : Port) : (setPort s p x).tiles = s.tiles := rfl
@[simp] theorem setPort_stale (p : Nat) (x : Port) : (setPort s p x).stale = s.stale := rfl
@[simp] theorem setPort_progLoads (p : Nat) (x : Port) : (setPort s p x).progLoads = s.progLoads := rfl
@[simp] theorem setPort_colls (p : Nat) (x : Port) : (setPort s p x).colls = s.colls := rfl
@[simp] theorem setPort_sets (p : Nat) (x : Port) : (setPort s p x).sets = s.sets := rfl
@[simp] theorem setPort_waitContribs (p : Nat) (x : Port) : (setPort s p x).waitContribs = s.waitContribs := rfl
@[simp] theorem setPort_ports (p : Nat) (x : Port) : (setPort s p x).ports = sset (fun _ => {}) s.ports p x := rfl
@[simp] theorem setPort_ground (p : Nat) (x : Port) : (setPort s p x).ground = s.ground := rfl
@[simp] theorem setPort_mem (p : Nat) (x : Port) : (setPort s p x).mem = s.mem := rfl
@[simp] theorem setPort_cls (p : Nat) (x : Port) : (setPort s p x).cls = s.cls := rfl
@[simp] theorem setPort_serial (p : Nat) (x : Port) : (setPort s p x).serial = s.serial := rfl
@[simp] theorem setPort_outcomes (p : Nat) (x : Port) : (setPort s p x).outcomes = s.outcomes := rfl
@[simp] theorem setPort_sht (p : Nat) (x : Port) : (setPort s p x).sht = s.sht := rfl
@[simp] theorem setPort_mbx (p : Nat) (x : Port) : (setPort s p x).mbx = s.mbx := rfl
@[simp] theorem setPort_boot (p : Nat) (x : Port) : (setPort s p x).boot = s.boot := rfl
@[simp] theorem setPort_cxl (p : Nat) (x : Port) : (setPort s p x).cxl = s.cxl := rfl
@[simp] theorem setPort_pwr (p : Nat) (x : Port) : (setPort s p x).pwr = s.pwr := rfl
@[simp] theorem setPort_sec (p : Nat) (x : Port) : (setPort s p x).sec = s.sec := rfl

/-! ### setColl -/

@[simp] theorem setColl_pending (i : Nat) (c : Coll) : (setColl s i c).pending = s.pending := rfl
@[simp] theorem setColl_regs (i : Nat) (c : Coll) : (setColl s i c).regs = s.regs := rfl
@[simp] theorem setColl_reply (i : Nat) (c : Coll) : (setColl s i c).reply = s.reply := rfl
@[simp] theorem setColl_free (i : Nat) (c : Coll) : (setColl s i c).free = s.free := rfl
@[simp] theorem setColl_clk (i : Nat) (c : Coll) : (setColl s i c).clk = s.clk := rfl
@[simp] theorem setColl_tim (i : Nat) (c : Coll) : (setColl s i c).tim = s.tim := rfl
@[simp] theorem setColl_doms (i : Nat) (c : Coll) : (setColl s i c).doms = s.doms := rfl
@[simp] theorem setColl_gates (i : Nat) (c : Coll) : (setColl s i c).gates = s.gates := rfl
@[simp] theorem setColl_stragglers (i : Nat) (c : Coll) : (setColl s i c).stragglers = s.stragglers := rfl
@[simp] theorem setColl_cdmem (i : Nat) (c : Coll) : (setColl s i c).cdmem = s.cdmem := rfl
@[simp] theorem setColl_fires (i : Nat) (c : Coll) : (setColl s i c).fires = s.fires := rfl
@[simp] theorem setColl_dues (i : Nat) (c : Coll) : (setColl s i c).dues = s.dues := rfl
@[simp] theorem setColl_flt (i : Nat) (c : Coll) : (setColl s i c).flt = s.flt := rfl
@[simp] theorem setColl_banks (i : Nat) (c : Coll) : (setColl s i c).banks = s.banks := rfl
@[simp] theorem setColl_sram (i : Nat) (c : Coll) : (setColl s i c).sram = s.sram := rfl
@[simp] theorem setColl_sramBad (i : Nat) (c : Coll) : (setColl s i c).sramBad = s.sramBad := rfl
@[simp] theorem setColl_bobs (i : Nat) (c : Coll) : (setColl s i c).bobs = s.bobs := rfl
@[simp] theorem setColl_turns (i : Nat) (c : Coll) : (setColl s i c).turns = s.turns := rfl
@[simp] theorem setColl_tiles (i : Nat) (c : Coll) : (setColl s i c).tiles = s.tiles := rfl
@[simp] theorem setColl_stale (i : Nat) (c : Coll) : (setColl s i c).stale = s.stale := rfl
@[simp] theorem setColl_progLoads (i : Nat) (c : Coll) : (setColl s i c).progLoads = s.progLoads := rfl
@[simp] theorem setColl_colls (i : Nat) (c : Coll) : (setColl s i c).colls = sset (fun _ => {}) s.colls i c := rfl
@[simp] theorem setColl_sets (i : Nat) (c : Coll) : (setColl s i c).sets = s.sets := rfl
@[simp] theorem setColl_waitContribs (i : Nat) (c : Coll) : (setColl s i c).waitContribs = s.waitContribs := rfl
@[simp] theorem setColl_ports (i : Nat) (c : Coll) : (setColl s i c).ports = s.ports := rfl
@[simp] theorem setColl_ground (i : Nat) (c : Coll) : (setColl s i c).ground = s.ground := rfl
@[simp] theorem setColl_mem (i : Nat) (c : Coll) : (setColl s i c).mem = s.mem := rfl
@[simp] theorem setColl_cls (i : Nat) (c : Coll) : (setColl s i c).cls = s.cls := rfl
@[simp] theorem setColl_serial (i : Nat) (c : Coll) : (setColl s i c).serial = s.serial := rfl
@[simp] theorem setColl_outcomes (i : Nat) (c : Coll) : (setColl s i c).outcomes = s.outcomes := rfl
@[simp] theorem setColl_sht (i : Nat) (c : Coll) : (setColl s i c).sht = s.sht := rfl
@[simp] theorem setColl_mbx (i : Nat) (c : Coll) : (setColl s i c).mbx = s.mbx := rfl
@[simp] theorem setColl_boot (i : Nat) (c : Coll) : (setColl s i c).boot = s.boot := rfl
@[simp] theorem setColl_cxl (i : Nat) (c : Coll) : (setColl s i c).cxl = s.cxl := rfl
@[simp] theorem setColl_pwr (i : Nat) (c : Coll) : (setColl s i c).pwr = s.pwr := rfl
@[simp] theorem setColl_sec (i : Nat) (c : Coll) : (setColl s i c).sec = s.sec := rfl

/-! ### setBob -/

@[simp] theorem setBob_pending (b : Nat) (x : Bobbin) : (setBob s b x).pending = s.pending := rfl
@[simp] theorem setBob_regs (b : Nat) (x : Bobbin) : (setBob s b x).regs = s.regs := rfl
@[simp] theorem setBob_reply (b : Nat) (x : Bobbin) : (setBob s b x).reply = s.reply := rfl
@[simp] theorem setBob_free (b : Nat) (x : Bobbin) : (setBob s b x).free = s.free := rfl
@[simp] theorem setBob_clk (b : Nat) (x : Bobbin) : (setBob s b x).clk = s.clk := rfl
@[simp] theorem setBob_tim (b : Nat) (x : Bobbin) : (setBob s b x).tim = s.tim := rfl
@[simp] theorem setBob_doms (b : Nat) (x : Bobbin) : (setBob s b x).doms = s.doms := rfl
@[simp] theorem setBob_gates (b : Nat) (x : Bobbin) : (setBob s b x).gates = s.gates := rfl
@[simp] theorem setBob_stragglers (b : Nat) (x : Bobbin) : (setBob s b x).stragglers = s.stragglers := rfl
@[simp] theorem setBob_cdmem (b : Nat) (x : Bobbin) : (setBob s b x).cdmem = s.cdmem := rfl
@[simp] theorem setBob_fires (b : Nat) (x : Bobbin) : (setBob s b x).fires = s.fires := rfl
@[simp] theorem setBob_dues (b : Nat) (x : Bobbin) : (setBob s b x).dues = s.dues := rfl
@[simp] theorem setBob_flt (b : Nat) (x : Bobbin) : (setBob s b x).flt = s.flt := rfl
@[simp] theorem setBob_banks (b : Nat) (x : Bobbin) : (setBob s b x).banks = s.banks := rfl
@[simp] theorem setBob_sram (b : Nat) (x : Bobbin) : (setBob s b x).sram = s.sram := rfl
@[simp] theorem setBob_sramBad (b : Nat) (x : Bobbin) : (setBob s b x).sramBad = s.sramBad := rfl
@[simp] theorem setBob_bobs (b : Nat) (x : Bobbin) : (setBob s b x).bobs = sset (fun _ => {}) s.bobs b x := rfl
@[simp] theorem setBob_turns (b : Nat) (x : Bobbin) : (setBob s b x).turns = s.turns := rfl
@[simp] theorem setBob_tiles (b : Nat) (x : Bobbin) : (setBob s b x).tiles = s.tiles := rfl
@[simp] theorem setBob_stale (b : Nat) (x : Bobbin) : (setBob s b x).stale = s.stale := rfl
@[simp] theorem setBob_progLoads (b : Nat) (x : Bobbin) : (setBob s b x).progLoads = s.progLoads := rfl
@[simp] theorem setBob_colls (b : Nat) (x : Bobbin) : (setBob s b x).colls = s.colls := rfl
@[simp] theorem setBob_sets (b : Nat) (x : Bobbin) : (setBob s b x).sets = s.sets := rfl
@[simp] theorem setBob_waitContribs (b : Nat) (x : Bobbin) : (setBob s b x).waitContribs = s.waitContribs := rfl
@[simp] theorem setBob_ports (b : Nat) (x : Bobbin) : (setBob s b x).ports = s.ports := rfl
@[simp] theorem setBob_ground (b : Nat) (x : Bobbin) : (setBob s b x).ground = s.ground := rfl
@[simp] theorem setBob_mem (b : Nat) (x : Bobbin) : (setBob s b x).mem = s.mem := rfl
@[simp] theorem setBob_cls (b : Nat) (x : Bobbin) : (setBob s b x).cls = s.cls := rfl
@[simp] theorem setBob_serial (b : Nat) (x : Bobbin) : (setBob s b x).serial = s.serial := rfl
@[simp] theorem setBob_outcomes (b : Nat) (x : Bobbin) : (setBob s b x).outcomes = s.outcomes := rfl
@[simp] theorem setBob_sht (b : Nat) (x : Bobbin) : (setBob s b x).sht = s.sht := rfl
@[simp] theorem setBob_mbx (b : Nat) (x : Bobbin) : (setBob s b x).mbx = s.mbx := rfl
@[simp] theorem setBob_boot (b : Nat) (x : Bobbin) : (setBob s b x).boot = s.boot := rfl
@[simp] theorem setBob_cxl (b : Nat) (x : Bobbin) : (setBob s b x).cxl = s.cxl := rfl
@[simp] theorem setBob_pwr (b : Nat) (x : Bobbin) : (setBob s b x).pwr = s.pwr := rfl
@[simp] theorem setBob_sec (b : Nat) (x : Bobbin) : (setBob s b x).sec = s.sec := rfl

/-! ### setCls -/

@[simp] theorem setCls_pending (c : Nat) (x : Clause) : (setCls s c x).pending = s.pending := rfl
@[simp] theorem setCls_regs (c : Nat) (x : Clause) : (setCls s c x).regs = s.regs := rfl
@[simp] theorem setCls_reply (c : Nat) (x : Clause) : (setCls s c x).reply = s.reply := rfl
@[simp] theorem setCls_free (c : Nat) (x : Clause) : (setCls s c x).free = s.free := rfl
@[simp] theorem setCls_clk (c : Nat) (x : Clause) : (setCls s c x).clk = s.clk := rfl
@[simp] theorem setCls_tim (c : Nat) (x : Clause) : (setCls s c x).tim = s.tim := rfl
@[simp] theorem setCls_doms (c : Nat) (x : Clause) : (setCls s c x).doms = s.doms := rfl
@[simp] theorem setCls_gates (c : Nat) (x : Clause) : (setCls s c x).gates = s.gates := rfl
@[simp] theorem setCls_stragglers (c : Nat) (x : Clause) : (setCls s c x).stragglers = s.stragglers := rfl
@[simp] theorem setCls_cdmem (c : Nat) (x : Clause) : (setCls s c x).cdmem = s.cdmem := rfl
@[simp] theorem setCls_fires (c : Nat) (x : Clause) : (setCls s c x).fires = s.fires := rfl
@[simp] theorem setCls_dues (c : Nat) (x : Clause) : (setCls s c x).dues = s.dues := rfl
@[simp] theorem setCls_flt (c : Nat) (x : Clause) : (setCls s c x).flt = s.flt := rfl
@[simp] theorem setCls_banks (c : Nat) (x : Clause) : (setCls s c x).banks = s.banks := rfl
@[simp] theorem setCls_sram (c : Nat) (x : Clause) : (setCls s c x).sram = s.sram := rfl
@[simp] theorem setCls_sramBad (c : Nat) (x : Clause) : (setCls s c x).sramBad = s.sramBad := rfl
@[simp] theorem setCls_bobs (c : Nat) (x : Clause) : (setCls s c x).bobs = s.bobs := rfl
@[simp] theorem setCls_turns (c : Nat) (x : Clause) : (setCls s c x).turns = s.turns := rfl
@[simp] theorem setCls_tiles (c : Nat) (x : Clause) : (setCls s c x).tiles = s.tiles := rfl
@[simp] theorem setCls_stale (c : Nat) (x : Clause) : (setCls s c x).stale = s.stale := rfl
@[simp] theorem setCls_progLoads (c : Nat) (x : Clause) : (setCls s c x).progLoads = s.progLoads := rfl
@[simp] theorem setCls_colls (c : Nat) (x : Clause) : (setCls s c x).colls = s.colls := rfl
@[simp] theorem setCls_sets (c : Nat) (x : Clause) : (setCls s c x).sets = s.sets := rfl
@[simp] theorem setCls_waitContribs (c : Nat) (x : Clause) : (setCls s c x).waitContribs = s.waitContribs := rfl
@[simp] theorem setCls_ports (c : Nat) (x : Clause) : (setCls s c x).ports = s.ports := rfl
@[simp] theorem setCls_ground (c : Nat) (x : Clause) : (setCls s c x).ground = s.ground := rfl
@[simp] theorem setCls_mem (c : Nat) (x : Clause) : (setCls s c x).mem = s.mem := rfl
@[simp] theorem setCls_cls (c : Nat) (x : Clause) : (setCls s c x).cls = sset (fun _ => {}) s.cls c x := rfl
@[simp] theorem setCls_serial (c : Nat) (x : Clause) : (setCls s c x).serial = s.serial := rfl
@[simp] theorem setCls_outcomes (c : Nat) (x : Clause) : (setCls s c x).outcomes = s.outcomes := rfl
@[simp] theorem setCls_sht (c : Nat) (x : Clause) : (setCls s c x).sht = s.sht := rfl
@[simp] theorem setCls_mbx (c : Nat) (x : Clause) : (setCls s c x).mbx = s.mbx := rfl
@[simp] theorem setCls_boot (c : Nat) (x : Clause) : (setCls s c x).boot = s.boot := rfl
@[simp] theorem setCls_cxl (c : Nat) (x : Clause) : (setCls s c x).cxl = s.cxl := rfl
@[simp] theorem setCls_pwr (c : Nat) (x : Clause) : (setCls s c x).pwr = s.pwr := rfl
@[simp] theorem setCls_sec (c : Nat) (x : Clause) : (setCls s c x).sec = s.sec := rfl

/-! ### putOutcome -/

@[simp] theorem putOutcome_pending (o : Outcome) : (putOutcome o s).pending = s.pending := rfl
@[simp] theorem putOutcome_regs (o : Outcome) : (putOutcome o s).regs = s.regs := rfl
@[simp] theorem putOutcome_reply (o : Outcome) : (putOutcome o s).reply = s.reply := rfl
@[simp] theorem putOutcome_free (o : Outcome) : (putOutcome o s).free = s.free := rfl
@[simp] theorem putOutcome_clk (o : Outcome) : (putOutcome o s).clk = s.clk := rfl
@[simp] theorem putOutcome_tim (o : Outcome) : (putOutcome o s).tim = s.tim := rfl
@[simp] theorem putOutcome_doms (o : Outcome) : (putOutcome o s).doms = s.doms := rfl
@[simp] theorem putOutcome_gates (o : Outcome) : (putOutcome o s).gates = s.gates := rfl
@[simp] theorem putOutcome_stragglers (o : Outcome) : (putOutcome o s).stragglers = s.stragglers := rfl
@[simp] theorem putOutcome_cdmem (o : Outcome) : (putOutcome o s).cdmem = s.cdmem := rfl
@[simp] theorem putOutcome_fires (o : Outcome) : (putOutcome o s).fires = s.fires := rfl
@[simp] theorem putOutcome_dues (o : Outcome) : (putOutcome o s).dues = s.dues := rfl
@[simp] theorem putOutcome_flt (o : Outcome) : (putOutcome o s).flt = s.flt := rfl
@[simp] theorem putOutcome_banks (o : Outcome) : (putOutcome o s).banks = s.banks := rfl
@[simp] theorem putOutcome_sram (o : Outcome) : (putOutcome o s).sram = s.sram := rfl
@[simp] theorem putOutcome_sramBad (o : Outcome) : (putOutcome o s).sramBad = s.sramBad := rfl
@[simp] theorem putOutcome_bobs (o : Outcome) : (putOutcome o s).bobs = s.bobs := rfl
@[simp] theorem putOutcome_turns (o : Outcome) : (putOutcome o s).turns = s.turns := rfl
@[simp] theorem putOutcome_tiles (o : Outcome) : (putOutcome o s).tiles = s.tiles := rfl
@[simp] theorem putOutcome_stale (o : Outcome) : (putOutcome o s).stale = s.stale := rfl
@[simp] theorem putOutcome_progLoads (o : Outcome) : (putOutcome o s).progLoads = s.progLoads := rfl
@[simp] theorem putOutcome_colls (o : Outcome) : (putOutcome o s).colls = s.colls := rfl
@[simp] theorem putOutcome_sets (o : Outcome) : (putOutcome o s).sets = s.sets := rfl
@[simp] theorem putOutcome_waitContribs (o : Outcome) : (putOutcome o s).waitContribs = s.waitContribs := rfl
@[simp] theorem putOutcome_ports (o : Outcome) : (putOutcome o s).ports = s.ports := rfl
@[simp] theorem putOutcome_ground (o : Outcome) : (putOutcome o s).ground = s.ground := rfl
@[simp] theorem putOutcome_mem (o : Outcome) : (putOutcome o s).mem = s.mem := rfl
@[simp] theorem putOutcome_cls (o : Outcome) : (putOutcome o s).cls = s.cls := rfl
@[simp] theorem putOutcome_serial (o : Outcome) : (putOutcome o s).serial = s.serial := rfl
@[simp] theorem putOutcome_sht (o : Outcome) : (putOutcome o s).sht = s.sht := rfl
@[simp] theorem putOutcome_mbx (o : Outcome) : (putOutcome o s).mbx = s.mbx := rfl
@[simp] theorem putOutcome_boot (o : Outcome) : (putOutcome o s).boot = s.boot := rfl
@[simp] theorem putOutcome_cxl (o : Outcome) : (putOutcome o s).cxl = s.cxl := rfl
@[simp] theorem putOutcome_pwr (o : Outcome) : (putOutcome o s).pwr = s.pwr := rfl
@[simp] theorem putOutcome_sec (o : Outcome) : (putOutcome o s).sec = s.sec := rfl

/-! ### dropOutcome -/

@[simp] theorem dropOutcome_pending (g : Nat) : (dropOutcome g s).pending = s.pending := rfl
@[simp] theorem dropOutcome_regs (g : Nat) : (dropOutcome g s).regs = s.regs := rfl
@[simp] theorem dropOutcome_reply (g : Nat) : (dropOutcome g s).reply = s.reply := rfl
@[simp] theorem dropOutcome_free (g : Nat) : (dropOutcome g s).free = s.free := rfl
@[simp] theorem dropOutcome_clk (g : Nat) : (dropOutcome g s).clk = s.clk := rfl
@[simp] theorem dropOutcome_tim (g : Nat) : (dropOutcome g s).tim = s.tim := rfl
@[simp] theorem dropOutcome_doms (g : Nat) : (dropOutcome g s).doms = s.doms := rfl
@[simp] theorem dropOutcome_gates (g : Nat) : (dropOutcome g s).gates = s.gates := rfl
@[simp] theorem dropOutcome_stragglers (g : Nat) : (dropOutcome g s).stragglers = s.stragglers := rfl
@[simp] theorem dropOutcome_cdmem (g : Nat) : (dropOutcome g s).cdmem = s.cdmem := rfl
@[simp] theorem dropOutcome_fires (g : Nat) : (dropOutcome g s).fires = s.fires := rfl
@[simp] theorem dropOutcome_dues (g : Nat) : (dropOutcome g s).dues = s.dues := rfl
@[simp] theorem dropOutcome_flt (g : Nat) : (dropOutcome g s).flt = s.flt := rfl
@[simp] theorem dropOutcome_banks (g : Nat) : (dropOutcome g s).banks = s.banks := rfl
@[simp] theorem dropOutcome_sram (g : Nat) : (dropOutcome g s).sram = s.sram := rfl
@[simp] theorem dropOutcome_sramBad (g : Nat) : (dropOutcome g s).sramBad = s.sramBad := rfl
@[simp] theorem dropOutcome_bobs (g : Nat) : (dropOutcome g s).bobs = s.bobs := rfl
@[simp] theorem dropOutcome_turns (g : Nat) : (dropOutcome g s).turns = s.turns := rfl
@[simp] theorem dropOutcome_tiles (g : Nat) : (dropOutcome g s).tiles = s.tiles := rfl
@[simp] theorem dropOutcome_stale (g : Nat) : (dropOutcome g s).stale = s.stale := rfl
@[simp] theorem dropOutcome_progLoads (g : Nat) : (dropOutcome g s).progLoads = s.progLoads := rfl
@[simp] theorem dropOutcome_colls (g : Nat) : (dropOutcome g s).colls = s.colls := rfl
@[simp] theorem dropOutcome_sets (g : Nat) : (dropOutcome g s).sets = s.sets := rfl
@[simp] theorem dropOutcome_waitContribs (g : Nat) : (dropOutcome g s).waitContribs = s.waitContribs := rfl
@[simp] theorem dropOutcome_ports (g : Nat) : (dropOutcome g s).ports = s.ports := rfl
@[simp] theorem dropOutcome_ground (g : Nat) : (dropOutcome g s).ground = s.ground := rfl
@[simp] theorem dropOutcome_mem (g : Nat) : (dropOutcome g s).mem = s.mem := rfl
@[simp] theorem dropOutcome_cls (g : Nat) : (dropOutcome g s).cls = s.cls := rfl
@[simp] theorem dropOutcome_serial (g : Nat) : (dropOutcome g s).serial = s.serial := rfl
@[simp] theorem dropOutcome_sht (g : Nat) : (dropOutcome g s).sht = s.sht := rfl
@[simp] theorem dropOutcome_mbx (g : Nat) : (dropOutcome g s).mbx = s.mbx := rfl
@[simp] theorem dropOutcome_boot (g : Nat) : (dropOutcome g s).boot = s.boot := rfl
@[simp] theorem dropOutcome_cxl (g : Nat) : (dropOutcome g s).cxl = s.cxl := rfl
@[simp] theorem dropOutcome_pwr (g : Nat) : (dropOutcome g s).pwr = s.pwr := rfl
@[simp] theorem dropOutcome_sec (g : Nat) : (dropOutcome g s).sec = s.sec := rfl

/-! ### setQp -/

@[simp] theorem setQp_pending (q : Nat) (x : Qp) : (setQp s q x).pending = s.pending := rfl
@[simp] theorem setQp_regs (q : Nat) (x : Qp) : (setQp s q x).regs = s.regs := rfl
@[simp] theorem setQp_reply (q : Nat) (x : Qp) : (setQp s q x).reply = s.reply := rfl
@[simp] theorem setQp_free (q : Nat) (x : Qp) : (setQp s q x).free = s.free := rfl
@[simp] theorem setQp_clk (q : Nat) (x : Qp) : (setQp s q x).clk = s.clk := rfl
@[simp] theorem setQp_tim (q : Nat) (x : Qp) : (setQp s q x).tim = s.tim := rfl
@[simp] theorem setQp_doms (q : Nat) (x : Qp) : (setQp s q x).doms = s.doms := rfl
@[simp] theorem setQp_gates (q : Nat) (x : Qp) : (setQp s q x).gates = s.gates := rfl
@[simp] theorem setQp_stragglers (q : Nat) (x : Qp) : (setQp s q x).stragglers = s.stragglers := rfl
@[simp] theorem setQp_cdmem (q : Nat) (x : Qp) : (setQp s q x).cdmem = s.cdmem := rfl
@[simp] theorem setQp_fires (q : Nat) (x : Qp) : (setQp s q x).fires = s.fires := rfl
@[simp] theorem setQp_dues (q : Nat) (x : Qp) : (setQp s q x).dues = s.dues := rfl
@[simp] theorem setQp_flt (q : Nat) (x : Qp) : (setQp s q x).flt = s.flt := rfl
@[simp] theorem setQp_banks (q : Nat) (x : Qp) : (setQp s q x).banks = s.banks := rfl
@[simp] theorem setQp_sram (q : Nat) (x : Qp) : (setQp s q x).sram = s.sram := rfl
@[simp] theorem setQp_sramBad (q : Nat) (x : Qp) : (setQp s q x).sramBad = s.sramBad := rfl
@[simp] theorem setQp_bobs (q : Nat) (x : Qp) : (setQp s q x).bobs = s.bobs := rfl
@[simp] theorem setQp_turns (q : Nat) (x : Qp) : (setQp s q x).turns = s.turns := rfl
@[simp] theorem setQp_tiles (q : Nat) (x : Qp) : (setQp s q x).tiles = s.tiles := rfl
@[simp] theorem setQp_stale (q : Nat) (x : Qp) : (setQp s q x).stale = s.stale := rfl
@[simp] theorem setQp_progLoads (q : Nat) (x : Qp) : (setQp s q x).progLoads = s.progLoads := rfl
@[simp] theorem setQp_colls (q : Nat) (x : Qp) : (setQp s q x).colls = s.colls := rfl
@[simp] theorem setQp_sets (q : Nat) (x : Qp) : (setQp s q x).sets = s.sets := rfl
@[simp] theorem setQp_waitContribs (q : Nat) (x : Qp) : (setQp s q x).waitContribs = s.waitContribs := rfl
@[simp] theorem setQp_ports (q : Nat) (x : Qp) : (setQp s q x).ports = s.ports := rfl
@[simp] theorem setQp_ground (q : Nat) (x : Qp) : (setQp s q x).ground = s.ground := rfl
@[simp] theorem setQp_mem (q : Nat) (x : Qp) : (setQp s q x).mem = s.mem := rfl
@[simp] theorem setQp_cls (q : Nat) (x : Qp) : (setQp s q x).cls = s.cls := rfl
@[simp] theorem setQp_serial (q : Nat) (x : Qp) : (setQp s q x).serial = s.serial := rfl
@[simp] theorem setQp_outcomes (q : Nat) (x : Qp) : (setQp s q x).outcomes = s.outcomes := rfl
@[simp] theorem setQp_mbx (q : Nat) (x : Qp) : (setQp s q x).mbx = s.mbx := rfl
@[simp] theorem setQp_boot (q : Nat) (x : Qp) : (setQp s q x).boot = s.boot := rfl
@[simp] theorem setQp_cxl (q : Nat) (x : Qp) : (setQp s q x).cxl = s.cxl := rfl
@[simp] theorem setQp_pwr (q : Nat) (x : Qp) : (setQp s q x).pwr = s.pwr := rfl
@[simp] theorem setQp_sec (q : Nat) (x : Qp) : (setQp s q x).sec = s.sec := rfl

/-! ### setShtReg -/

@[simp] theorem setShtReg_pending (i : Nat) (x : Reg) : (setShtReg s i x).pending = s.pending := rfl
@[simp] theorem setShtReg_regs (i : Nat) (x : Reg) : (setShtReg s i x).regs = s.regs := rfl
@[simp] theorem setShtReg_reply (i : Nat) (x : Reg) : (setShtReg s i x).reply = s.reply := rfl
@[simp] theorem setShtReg_free (i : Nat) (x : Reg) : (setShtReg s i x).free = s.free := rfl
@[simp] theorem setShtReg_clk (i : Nat) (x : Reg) : (setShtReg s i x).clk = s.clk := rfl
@[simp] theorem setShtReg_tim (i : Nat) (x : Reg) : (setShtReg s i x).tim = s.tim := rfl
@[simp] theorem setShtReg_doms (i : Nat) (x : Reg) : (setShtReg s i x).doms = s.doms := rfl
@[simp] theorem setShtReg_gates (i : Nat) (x : Reg) : (setShtReg s i x).gates = s.gates := rfl
@[simp] theorem setShtReg_stragglers (i : Nat) (x : Reg) : (setShtReg s i x).stragglers = s.stragglers := rfl
@[simp] theorem setShtReg_cdmem (i : Nat) (x : Reg) : (setShtReg s i x).cdmem = s.cdmem := rfl
@[simp] theorem setShtReg_fires (i : Nat) (x : Reg) : (setShtReg s i x).fires = s.fires := rfl
@[simp] theorem setShtReg_dues (i : Nat) (x : Reg) : (setShtReg s i x).dues = s.dues := rfl
@[simp] theorem setShtReg_flt (i : Nat) (x : Reg) : (setShtReg s i x).flt = s.flt := rfl
@[simp] theorem setShtReg_banks (i : Nat) (x : Reg) : (setShtReg s i x).banks = s.banks := rfl
@[simp] theorem setShtReg_sram (i : Nat) (x : Reg) : (setShtReg s i x).sram = s.sram := rfl
@[simp] theorem setShtReg_sramBad (i : Nat) (x : Reg) : (setShtReg s i x).sramBad = s.sramBad := rfl
@[simp] theorem setShtReg_bobs (i : Nat) (x : Reg) : (setShtReg s i x).bobs = s.bobs := rfl
@[simp] theorem setShtReg_turns (i : Nat) (x : Reg) : (setShtReg s i x).turns = s.turns := rfl
@[simp] theorem setShtReg_tiles (i : Nat) (x : Reg) : (setShtReg s i x).tiles = s.tiles := rfl
@[simp] theorem setShtReg_stale (i : Nat) (x : Reg) : (setShtReg s i x).stale = s.stale := rfl
@[simp] theorem setShtReg_progLoads (i : Nat) (x : Reg) : (setShtReg s i x).progLoads = s.progLoads := rfl
@[simp] theorem setShtReg_colls (i : Nat) (x : Reg) : (setShtReg s i x).colls = s.colls := rfl
@[simp] theorem setShtReg_sets (i : Nat) (x : Reg) : (setShtReg s i x).sets = s.sets := rfl
@[simp] theorem setShtReg_waitContribs (i : Nat) (x : Reg) : (setShtReg s i x).waitContribs = s.waitContribs := rfl
@[simp] theorem setShtReg_ports (i : Nat) (x : Reg) : (setShtReg s i x).ports = s.ports := rfl
@[simp] theorem setShtReg_ground (i : Nat) (x : Reg) : (setShtReg s i x).ground = s.ground := rfl
@[simp] theorem setShtReg_mem (i : Nat) (x : Reg) : (setShtReg s i x).mem = s.mem := rfl
@[simp] theorem setShtReg_cls (i : Nat) (x : Reg) : (setShtReg s i x).cls = s.cls := rfl
@[simp] theorem setShtReg_serial (i : Nat) (x : Reg) : (setShtReg s i x).serial = s.serial := rfl
@[simp] theorem setShtReg_outcomes (i : Nat) (x : Reg) : (setShtReg s i x).outcomes = s.outcomes := rfl
@[simp] theorem setShtReg_mbx (i : Nat) (x : Reg) : (setShtReg s i x).mbx = s.mbx := rfl
@[simp] theorem setShtReg_boot (i : Nat) (x : Reg) : (setShtReg s i x).boot = s.boot := rfl
@[simp] theorem setShtReg_cxl (i : Nat) (x : Reg) : (setShtReg s i x).cxl = s.cxl := rfl
@[simp] theorem setShtReg_pwr (i : Nat) (x : Reg) : (setShtReg s i x).pwr = s.pwr := rfl
@[simp] theorem setShtReg_sec (i : Nat) (x : Reg) : (setShtReg s i x).sec = s.sec := rfl

/-! ### modMem -/

@[simp] theorem modMem_pending (f : Mem → Mem) : (modMem s f).pending = s.pending := rfl
@[simp] theorem modMem_regs (f : Mem → Mem) : (modMem s f).regs = s.regs := rfl
@[simp] theorem modMem_reply (f : Mem → Mem) : (modMem s f).reply = s.reply := rfl
@[simp] theorem modMem_free (f : Mem → Mem) : (modMem s f).free = s.free := rfl
@[simp] theorem modMem_clk (f : Mem → Mem) : (modMem s f).clk = s.clk := rfl
@[simp] theorem modMem_tim (f : Mem → Mem) : (modMem s f).tim = s.tim := rfl
@[simp] theorem modMem_doms (f : Mem → Mem) : (modMem s f).doms = s.doms := rfl
@[simp] theorem modMem_gates (f : Mem → Mem) : (modMem s f).gates = s.gates := rfl
@[simp] theorem modMem_stragglers (f : Mem → Mem) : (modMem s f).stragglers = s.stragglers := rfl
@[simp] theorem modMem_cdmem (f : Mem → Mem) : (modMem s f).cdmem = s.cdmem := rfl
@[simp] theorem modMem_fires (f : Mem → Mem) : (modMem s f).fires = s.fires := rfl
@[simp] theorem modMem_dues (f : Mem → Mem) : (modMem s f).dues = s.dues := rfl
@[simp] theorem modMem_flt (f : Mem → Mem) : (modMem s f).flt = s.flt := rfl
@[simp] theorem modMem_banks (f : Mem → Mem) : (modMem s f).banks = s.banks := rfl
@[simp] theorem modMem_sram (f : Mem → Mem) : (modMem s f).sram = s.sram := rfl
@[simp] theorem modMem_sramBad (f : Mem → Mem) : (modMem s f).sramBad = s.sramBad := rfl
@[simp] theorem modMem_bobs (f : Mem → Mem) : (modMem s f).bobs = s.bobs := rfl
@[simp] theorem modMem_turns (f : Mem → Mem) : (modMem s f).turns = s.turns := rfl
@[simp] theorem modMem_tiles (f : Mem → Mem) : (modMem s f).tiles = s.tiles := rfl
@[simp] theorem modMem_stale (f : Mem → Mem) : (modMem s f).stale = s.stale := rfl
@[simp] theorem modMem_progLoads (f : Mem → Mem) : (modMem s f).progLoads = s.progLoads := rfl
@[simp] theorem modMem_colls (f : Mem → Mem) : (modMem s f).colls = s.colls := rfl
@[simp] theorem modMem_sets (f : Mem → Mem) : (modMem s f).sets = s.sets := rfl
@[simp] theorem modMem_waitContribs (f : Mem → Mem) : (modMem s f).waitContribs = s.waitContribs := rfl
@[simp] theorem modMem_ports (f : Mem → Mem) : (modMem s f).ports = s.ports := rfl
@[simp] theorem modMem_ground (f : Mem → Mem) : (modMem s f).ground = s.ground := rfl
@[simp] theorem modMem_mem (f : Mem → Mem) : (modMem s f).mem = f s.mem := rfl
@[simp] theorem modMem_cls (f : Mem → Mem) : (modMem s f).cls = s.cls := rfl
@[simp] theorem modMem_serial (f : Mem → Mem) : (modMem s f).serial = s.serial := rfl
@[simp] theorem modMem_outcomes (f : Mem → Mem) : (modMem s f).outcomes = s.outcomes := rfl
@[simp] theorem modMem_sht (f : Mem → Mem) : (modMem s f).sht = s.sht := rfl
@[simp] theorem modMem_mbx (f : Mem → Mem) : (modMem s f).mbx = s.mbx := rfl
@[simp] theorem modMem_boot (f : Mem → Mem) : (modMem s f).boot = s.boot := rfl
@[simp] theorem modMem_cxl (f : Mem → Mem) : (modMem s f).cxl = s.cxl := rfl
@[simp] theorem modMem_pwr (f : Mem → Mem) : (modMem s f).pwr = s.pwr := rfl
@[simp] theorem modMem_sec (f : Mem → Mem) : (modMem s f).sec = s.sec := rfl

/-! ### modBoot -/

@[simp] theorem modBoot_pending (f : Boot → Boot) : (modBoot s f).pending = s.pending := rfl
@[simp] theorem modBoot_regs (f : Boot → Boot) : (modBoot s f).regs = s.regs := rfl
@[simp] theorem modBoot_reply (f : Boot → Boot) : (modBoot s f).reply = s.reply := rfl
@[simp] theorem modBoot_free (f : Boot → Boot) : (modBoot s f).free = s.free := rfl
@[simp] theorem modBoot_clk (f : Boot → Boot) : (modBoot s f).clk = s.clk := rfl
@[simp] theorem modBoot_tim (f : Boot → Boot) : (modBoot s f).tim = s.tim := rfl
@[simp] theorem modBoot_doms (f : Boot → Boot) : (modBoot s f).doms = s.doms := rfl
@[simp] theorem modBoot_gates (f : Boot → Boot) : (modBoot s f).gates = s.gates := rfl
@[simp] theorem modBoot_stragglers (f : Boot → Boot) : (modBoot s f).stragglers = s.stragglers := rfl
@[simp] theorem modBoot_cdmem (f : Boot → Boot) : (modBoot s f).cdmem = s.cdmem := rfl
@[simp] theorem modBoot_fires (f : Boot → Boot) : (modBoot s f).fires = s.fires := rfl
@[simp] theorem modBoot_dues (f : Boot → Boot) : (modBoot s f).dues = s.dues := rfl
@[simp] theorem modBoot_flt (f : Boot → Boot) : (modBoot s f).flt = s.flt := rfl
@[simp] theorem modBoot_banks (f : Boot → Boot) : (modBoot s f).banks = s.banks := rfl
@[simp] theorem modBoot_sram (f : Boot → Boot) : (modBoot s f).sram = s.sram := rfl
@[simp] theorem modBoot_sramBad (f : Boot → Boot) : (modBoot s f).sramBad = s.sramBad := rfl
@[simp] theorem modBoot_bobs (f : Boot → Boot) : (modBoot s f).bobs = s.bobs := rfl
@[simp] theorem modBoot_turns (f : Boot → Boot) : (modBoot s f).turns = s.turns := rfl
@[simp] theorem modBoot_tiles (f : Boot → Boot) : (modBoot s f).tiles = s.tiles := rfl
@[simp] theorem modBoot_stale (f : Boot → Boot) : (modBoot s f).stale = s.stale := rfl
@[simp] theorem modBoot_progLoads (f : Boot → Boot) : (modBoot s f).progLoads = s.progLoads := rfl
@[simp] theorem modBoot_colls (f : Boot → Boot) : (modBoot s f).colls = s.colls := rfl
@[simp] theorem modBoot_sets (f : Boot → Boot) : (modBoot s f).sets = s.sets := rfl
@[simp] theorem modBoot_waitContribs (f : Boot → Boot) : (modBoot s f).waitContribs = s.waitContribs := rfl
@[simp] theorem modBoot_ports (f : Boot → Boot) : (modBoot s f).ports = s.ports := rfl
@[simp] theorem modBoot_ground (f : Boot → Boot) : (modBoot s f).ground = s.ground := rfl
@[simp] theorem modBoot_mem (f : Boot → Boot) : (modBoot s f).mem = s.mem := rfl
@[simp] theorem modBoot_cls (f : Boot → Boot) : (modBoot s f).cls = s.cls := rfl
@[simp] theorem modBoot_serial (f : Boot → Boot) : (modBoot s f).serial = s.serial := rfl
@[simp] theorem modBoot_outcomes (f : Boot → Boot) : (modBoot s f).outcomes = s.outcomes := rfl
@[simp] theorem modBoot_sht (f : Boot → Boot) : (modBoot s f).sht = s.sht := rfl
@[simp] theorem modBoot_mbx (f : Boot → Boot) : (modBoot s f).mbx = s.mbx := rfl
@[simp] theorem modBoot_boot (f : Boot → Boot) : (modBoot s f).boot = f s.boot := rfl
@[simp] theorem modBoot_cxl (f : Boot → Boot) : (modBoot s f).cxl = s.cxl := rfl
@[simp] theorem modBoot_pwr (f : Boot → Boot) : (modBoot s f).pwr = s.pwr := rfl
@[simp] theorem modBoot_sec (f : Boot → Boot) : (modBoot s f).sec = s.sec := rfl

/-! ### modPwr -/

@[simp] theorem modPwr_pending (f : Power → Power) : (modPwr s f).pending = s.pending := rfl
@[simp] theorem modPwr_regs (f : Power → Power) : (modPwr s f).regs = s.regs := rfl
@[simp] theorem modPwr_reply (f : Power → Power) : (modPwr s f).reply = s.reply := rfl
@[simp] theorem modPwr_free (f : Power → Power) : (modPwr s f).free = s.free := rfl
@[simp] theorem modPwr_clk (f : Power → Power) : (modPwr s f).clk = s.clk := rfl
@[simp] theorem modPwr_tim (f : Power → Power) : (modPwr s f).tim = s.tim := rfl
@[simp] theorem modPwr_doms (f : Power → Power) : (modPwr s f).doms = s.doms := rfl
@[simp] theorem modPwr_gates (f : Power → Power) : (modPwr s f).gates = s.gates := rfl
@[simp] theorem modPwr_stragglers (f : Power → Power) : (modPwr s f).stragglers = s.stragglers := rfl
@[simp] theorem modPwr_cdmem (f : Power → Power) : (modPwr s f).cdmem = s.cdmem := rfl
@[simp] theorem modPwr_fires (f : Power → Power) : (modPwr s f).fires = s.fires := rfl
@[simp] theorem modPwr_dues (f : Power → Power) : (modPwr s f).dues = s.dues := rfl
@[simp] theorem modPwr_flt (f : Power → Power) : (modPwr s f).flt = s.flt := rfl
@[simp] theorem modPwr_banks (f : Power → Power) : (modPwr s f).banks = s.banks := rfl
@[simp] theorem modPwr_sram (f : Power → Power) : (modPwr s f).sram = s.sram := rfl
@[simp] theorem modPwr_sramBad (f : Power → Power) : (modPwr s f).sramBad = s.sramBad := rfl
@[simp] theorem modPwr_bobs (f : Power → Power) : (modPwr s f).bobs = s.bobs := rfl
@[simp] theorem modPwr_turns (f : Power → Power) : (modPwr s f).turns = s.turns := rfl
@[simp] theorem modPwr_tiles (f : Power → Power) : (modPwr s f).tiles = s.tiles := rfl
@[simp] theorem modPwr_stale (f : Power → Power) : (modPwr s f).stale = s.stale := rfl
@[simp] theorem modPwr_progLoads (f : Power → Power) : (modPwr s f).progLoads = s.progLoads := rfl
@[simp] theorem modPwr_colls (f : Power → Power) : (modPwr s f).colls = s.colls := rfl
@[simp] theorem modPwr_sets (f : Power → Power) : (modPwr s f).sets = s.sets := rfl
@[simp] theorem modPwr_waitContribs (f : Power → Power) : (modPwr s f).waitContribs = s.waitContribs := rfl
@[simp] theorem modPwr_ports (f : Power → Power) : (modPwr s f).ports = s.ports := rfl
@[simp] theorem modPwr_ground (f : Power → Power) : (modPwr s f).ground = s.ground := rfl
@[simp] theorem modPwr_mem (f : Power → Power) : (modPwr s f).mem = s.mem := rfl
@[simp] theorem modPwr_cls (f : Power → Power) : (modPwr s f).cls = s.cls := rfl
@[simp] theorem modPwr_serial (f : Power → Power) : (modPwr s f).serial = s.serial := rfl
@[simp] theorem modPwr_outcomes (f : Power → Power) : (modPwr s f).outcomes = s.outcomes := rfl
@[simp] theorem modPwr_sht (f : Power → Power) : (modPwr s f).sht = s.sht := rfl
@[simp] theorem modPwr_mbx (f : Power → Power) : (modPwr s f).mbx = s.mbx := rfl
@[simp] theorem modPwr_boot (f : Power → Power) : (modPwr s f).boot = s.boot := rfl
@[simp] theorem modPwr_cxl (f : Power → Power) : (modPwr s f).cxl = s.cxl := rfl
@[simp] theorem modPwr_pwr (f : Power → Power) : (modPwr s f).pwr = f s.pwr := rfl
@[simp] theorem modPwr_sec (f : Power → Power) : (modPwr s f).sec = s.sec := rfl

/-! ### sramPut -/

@[simp] theorem sramPut_pending (n a : Nat) (d : Bytes) : (sramPut n a d s).pending = s.pending := rfl
@[simp] theorem sramPut_regs (n a : Nat) (d : Bytes) : (sramPut n a d s).regs = s.regs := rfl
@[simp] theorem sramPut_reply (n a : Nat) (d : Bytes) : (sramPut n a d s).reply = s.reply := rfl
@[simp] theorem sramPut_free (n a : Nat) (d : Bytes) : (sramPut n a d s).free = s.free := rfl
@[simp] theorem sramPut_clk (n a : Nat) (d : Bytes) : (sramPut n a d s).clk = s.clk := rfl
@[simp] theorem sramPut_tim (n a : Nat) (d : Bytes) : (sramPut n a d s).tim = s.tim := rfl
@[simp] theorem sramPut_doms (n a : Nat) (d : Bytes) : (sramPut n a d s).doms = s.doms := rfl
@[simp] theorem sramPut_gates (n a : Nat) (d : Bytes) : (sramPut n a d s).gates = s.gates := rfl
@[simp] theorem sramPut_stragglers (n a : Nat) (d : Bytes) : (sramPut n a d s).stragglers = s.stragglers := rfl
@[simp] theorem sramPut_cdmem (n a : Nat) (d : Bytes) : (sramPut n a d s).cdmem = s.cdmem := rfl
@[simp] theorem sramPut_fires (n a : Nat) (d : Bytes) : (sramPut n a d s).fires = s.fires := rfl
@[simp] theorem sramPut_dues (n a : Nat) (d : Bytes) : (sramPut n a d s).dues = s.dues := rfl
@[simp] theorem sramPut_flt (n a : Nat) (d : Bytes) : (sramPut n a d s).flt = s.flt := rfl
@[simp] theorem sramPut_banks (n a : Nat) (d : Bytes) : (sramPut n a d s).banks = s.banks := rfl
@[simp] theorem sramPut_bobs (n a : Nat) (d : Bytes) : (sramPut n a d s).bobs = s.bobs := rfl
@[simp] theorem sramPut_turns (n a : Nat) (d : Bytes) : (sramPut n a d s).turns = s.turns := rfl
@[simp] theorem sramPut_tiles (n a : Nat) (d : Bytes) : (sramPut n a d s).tiles = s.tiles := rfl
@[simp] theorem sramPut_stale (n a : Nat) (d : Bytes) : (sramPut n a d s).stale = s.stale := rfl
@[simp] theorem sramPut_progLoads (n a : Nat) (d : Bytes) : (sramPut n a d s).progLoads = s.progLoads := rfl
@[simp] theorem sramPut_colls (n a : Nat) (d : Bytes) : (sramPut n a d s).colls = s.colls := rfl
@[simp] theorem sramPut_sets (n a : Nat) (d : Bytes) : (sramPut n a d s).sets = s.sets := rfl
@[simp] theorem sramPut_waitContribs (n a : Nat) (d : Bytes) : (sramPut n a d s).waitContribs = s.waitContribs := rfl
@[simp] theorem sramPut_ports (n a : Nat) (d : Bytes) : (sramPut n a d s).ports = s.ports := rfl
@[simp] theorem sramPut_ground (n a : Nat) (d : Bytes) : (sramPut n a d s).ground = s.ground := rfl
@[simp] theorem sramPut_mem (n a : Nat) (d : Bytes) : (sramPut n a d s).mem = s.mem := rfl
@[simp] theorem sramPut_cls (n a : Nat) (d : Bytes) : (sramPut n a d s).cls = s.cls := rfl
@[simp] theorem sramPut_serial (n a : Nat) (d : Bytes) : (sramPut n a d s).serial = s.serial := rfl
@[simp] theorem sramPut_outcomes (n a : Nat) (d : Bytes) : (sramPut n a d s).outcomes = s.outcomes := rfl
@[simp] theorem sramPut_sht (n a : Nat) (d : Bytes) : (sramPut n a d s).sht = s.sht := rfl
@[simp] theorem sramPut_mbx (n a : Nat) (d : Bytes) : (sramPut n a d s).mbx = s.mbx := rfl
@[simp] theorem sramPut_boot (n a : Nat) (d : Bytes) : (sramPut n a d s).boot = s.boot := rfl
@[simp] theorem sramPut_cxl (n a : Nat) (d : Bytes) : (sramPut n a d s).cxl = s.cxl := rfl
@[simp] theorem sramPut_pwr (n a : Nat) (d : Bytes) : (sramPut n a d s).pwr = s.pwr := rfl
@[simp] theorem sramPut_sec (n a : Nat) (d : Bytes) : (sramPut n a d s).sec = s.sec := rfl

end Sys2Proof.Machine
end

