-- ==== Sys2Proof/WellFormed.lean ====
section
/-! DEFINITION. Which commands are well formed: their operands name units, ports and places that exist (R22), and a flit has 256 bytes. -/

namespace Sys2Proof

open Machine

/-- The regions with temperature sensors, numbered as FLT units. -/
def thermUnit (n : Nat) : Bool := (0x10 ≤ n && n < 0x34) || n == 0x40

/-- The word that an error is in. -/
def SramError.word : SramError → Nat
  | .single w => w
  | .double w => w
  | .hidden w => w

/-- Whether a command's operands exist. -/
def Instr.wf (i : Instr) : Bool :=
  match i with
  | .csrWrite _ _ size _ => [1, 2, 4, 8].contains size
  | .timNowRead => true
  | .timSet _ => true
  | .errStickyClear g u p _ => g < 22 && u < 4096 && p < 16
  | .errInject g u p _ => g < 22 && u < 4096 && p < 16
  | .contextReset g u p ctx => g < 22 && u < 4096 && p < 16 && ctx < 2048
  | .engineReset g u p => g < 22 && u < 4096 && p < 16
  | .resetDone rung g u ctx => rung < 5 && g < 22 && u < 4096 && ctx < 2048
  | .resetEscalated rung g u ctx => rung < 5 && g < 22 && u < 4096 && ctx < 2048
  | .clsAlloc => true
  | .clsStageData c _ => c < 16
  | .clsSeal c => c < 16
  | .clsClose c _ _ _ _ => c < 16
  | .clsAbort c => c < 16
  | .clsRelease c => c < 16
  | .clauseArmed c => c < 16
  | .guardInterval c => c < 16
  | .clauseCommit c => c < 16
  | .clauseTimeout c => c < 16
  | .clauseInDoubt c => c < 16
  | .coordVoteTimeout c => c < 16
  | .prepare prg m => prg < 16 && m.hdr.fits
  | .vote prg m => prg < 16 && m.hdr.fits
  | .decision prg m => prg < 16 && m.hdr.fits
  | .decisionAck prg m => prg < 16 && m.hdr.fits
  | .outcomeQueryTimer c => c < 16
  | .outcomeQuery prg m => prg < 16 && m.hdr.fits
  | .outcomeAnswer prg m => prg < 16 && m.hdr.fits
  | .timeMarkTx port => port < 256
  | .timeMark port f _ _ => port < 256 && f.length == 256
  | .ptpSync _ => true
  | .ppsInEdge => true
  | .ppsOut => true
  | .timeHoldover => true
  | .timeUnlocked => true
  | .roundStart d => d < 4
  | .gateEntryNext n => n < 16
  | .decisionInstant d => d < 4
  | .slip port m => port < 256 && m.hdr.fits
  | .tile prg m => prg < 16 && m.hdr.fits
  | .progLoad _ n _ => n < 16
  | .progLoadDone n _ => n < 16
  | .nopDesc b => b < 4096
  | .stepDesc b => b < 4096
  | .loopDesc b => b < 4096
  | .nextDesc b => b < 4096
  | .waitRoundDesc b => b < 4096
  | .endDesc b => b < 4096
  | .readDataArrive b => b < 4096
  | .bobArm b => b < 4096
  | .bobStart b => b < 4096
  | .bobStop b => b < 4096
  | .bobRelease b => b < 4096
  | .ingress b _ => b < 4096
  | .egress b _ => b < 4096
  | .load b _ _ => b < 4096
  | .store b _ _ => b < 4096
  | .expand b _ _ => b < 4096
  | .matmul b _ => b < 4096
  | .elemwise b _ => b < 4096
  | .norm b _ => b < 4096
  | .attend b _ _ => b < 4096
  | .reduce b _ => b < 4096
  | .gather b _ _ => b < 4096
  | .scatter b _ _ => b < 4096
  | .filter b _ => b < 4096
  | .convert b _ => b < 4096
  | .compress b _ _ => b < 4096
  | .stepComplete b _ => b < 4096
  | .collContribution prg m => prg < 16 && m.hdr.fits
  | .collSetOpen _ => true
  | .collTimeout id _ => id < 1024
  | .abort prg m => prg < 16 && m.hdr.fits
  | .cmbBufExpire n _ _ => n < 16
  | .replyCacheExpire n src _ _ _ => n < 16 && src < 2 ^ 24
  | .read prg m => prg < 16 && m.hdr.fits
  | .rdShared prg m => prg < 16 && m.hdr.fits
  | .rdUnique prg m => prg < 16 && m.hdr.fits
  | .upgrade prg m => prg < 16 && m.hdr.fits
  | .write prg m => prg < 16 && m.hdr.fits
  | .writeAck prg m => prg < 16 && m.hdr.fits
  | .fence prg m => prg < 16 && m.hdr.fits
  | .atomicAdd prg m => prg < 16 && m.hdr.fits
  | .exactAdd prg m => prg < 16 && m.hdr.fits
  | .atomicMin prg m => prg < 16 && m.hdr.fits
  | .atomicMax prg m => prg < 16 && m.hdr.fits
  | .atomicCas prg m => prg < 16 && m.hdr.fits
  | .atomicBatchPass n _ => n < 16
  | .snpRsp prg m => prg < 16 && m.hdr.fits
  | .wb prg m => prg < 16 && m.hdr.fits
  | .evictClean prg m => prg < 16 && m.hdr.fits
  | .cohSnpTimeout _ _ => true
  | .cohWbTimeout _ _ => true
  | .cpl prg m => prg < 16 && m.hdr.fits
  | .cplData prg m => prg < 16 && m.hdr.fits
  | .writeFailed prg m => prg < 16 && m.hdr.fits
  | .homeEntryFetch hub _ => hub < 4
  | .tierLate _ => true
  | .remoteLimitExpire _ => true
  | .scrub u _ => u < 512
  | .moveSectorCopy _ => true
  | .moveDrainDone _ => true
  | .moveDrain _ => true
  | .objFreeComplete _ => true
  | .withdrawRangeRelease _ => true
  | .leaseGraceExpire _ => true
  | .leaseRecall prg m => prg < 16 && m.hdr.fits
  | .leaseEnd prg m => prg < 16 && m.hdr.fits
  | .hqGo => true
  | .homeQueryTimer _ => true
  | .homeDeclaredLost _ => true
  | .homeQuery prg m => prg < 16 && m.hdr.fits
  | .homeAnswer prg m => prg < 16 && m.hdr.fits
  | .pubQuery prg m => prg < 16 && m.hdr.fits
  | .pubAnswer prg m => prg < 16 && m.hdr.fits
  | .doorbell n m _ => n < 16 && m.hdr.fits
  | .sqReadDone q _ => q < 32768
  | .wqeSend q => q < 32768
  | .wqeWrite q => q < 32768
  | .wqeRead q => q < 32768
  | .wqeFlush q => q < 32768
  | .shuttleSegmentTx n _ => n < 16
  | .shtSend n m _ => n < 16 && m.hdr.fits
  | .shtWrite n m _ => n < 16 && m.hdr.fits
  | .readReq n m _ => n < 16 && m.hdr.fits
  | .readResp n m => n < 16 && m.hdr.fits
  | .shtFlush n m _ => n < 16 && m.hdr.fits
  | .ack n m _ => n < 16 && m.hdr.fits
  | .nak n m _ => n < 16 && m.hdr.fits
  | .ackDelayExpire q => q < 32768
  | .shtRetryTimer q _ => q < 32768
  | .placementDone q psn _ => q < 32768 && psn < 2 ^ 24
  | .revokeDone i => i < 16384
  | .revokeLate i _ => i < 16384
  | .flitSlotTx port => port < 256
  | .flitData port f _ _ => port < 256 && f.length == 256
  | .idle port f _ _ => port < 256 && f.length == 256
  | .retryReq port f _ _ => port < 256 && f.length == 256
  | .train port f _ _ => port < 256 && f.length == 256
  | .trainTx port => port < 256
  | .gangCut port f _ _ => port < 256 && f.length == 256
  | .retrainReq port f _ _ => port < 256 && f.length == 256
  | .faultIdle port f _ _ => port < 256 && f.length == 256
  | .flitReservedKind port _ _ => port < 256
  | .replayTimeout port => port < 256
  | .linkDetect port => port < 256
  | .equalizeDone port => port < 256
  | .alignLock port => port < 256
  | .linkTrainTimeout port => port < 256
  | .lockLost port => port < 256
  | .autoRetry port => port < 256
  | .trayLinkUp c _ _ _ => c < 16
  | .trayResponse c tag kind _ => c < 16 && tag < 1024 && kind < 2
  | .cxpLinkDown c kind => c < 16 && kind < 3
  | .hostMemrd c ld _ _ => c < 16 && ld < 16
  | .hostWrite c => c < 16
  | .identifyMemoryDevice c ld => c < 16 && ld < 16
  | .getPartitionInfo c ld => c < 16 && ld < 16
  | .getHealthInfo c ld => c < 16 && ld < 16
  | .getSupportedLogs c ld => c < 16 && ld < 16
  | .getLog c ld => c < 16 && ld < 16
  | .getEventRecords c ld => c < 16 && ld < 16
  | .clearEventRecords c ld => c < 16 && ld < 16
  | .cxlMbxUnsupported c ld => c < 16 && ld < 16
  | .inPush c ld len tag _ => c < 16 && ld < 16 && len < 8 && tag < 256
  | .outPop c ld => c < 16 && ld < 16
  | .tokenRefill port sel => port < 256 && (sel < 5 || (8 ≤ sel && sel < 24) || (32 ≤ sel && sel < 38))
  | .reseqOpenHold prg src dst tc _ _ => prg < 16 && src < 2 ^ 24 && dst < 2 ^ 24 && tc < 8
  | .reseqFlowIdle prg src dst tc _ _ => prg < 16 && src < 2 ^ 24 && dst < 2 ^ 24 && tc < 8
  | .reseqTimeout prg src dst tc _ _ => prg < 16 && src < 2 ^ 24 && dst < 2 ^ 24 && tc < 8
  | .reseqForced prg => prg < 16
  | .routeHoldExpire _ => true
  | .partRetireFree p => p < 16
  | .consentExpire p => p < 16
  | .attestGo _ => true
  | .attestDone _ => true
  | .tapAccess op _ size _ => op < 4 && [1, 2, 4, 8].contains size
  | .hangWindow g u => g < 22 && u < 4096
  | .ucieModuleDown hub link m => hub < 4 && link < 4 && m < 32
  | .testDone kind _ _ _ => 1 ≤ kind && kind ≤ 5
  | .dumpGo _ => true
  | .dumpReadTimeout _ words => words < 512
  | .dumpDone => true
  | .powerOn rails => rails.length == 44
  | .resetNAssert _ => true
  | .bootSourceTimeout => true
  | .bootChunk _ d => d.length != 0
  | .bootNone _ => true
  | .imageVerified _ => true
  | .chpRestart => true
  | .wdogKick _ => true
  | .fwWatchdog => true
  | .mbxPush kind port m => (kind == 1 || kind == 3 || kind == 4) && port < 256 && m.hdr.fits
  | .mbxInPop m => m < 64
  | .mbxOutPush m _ => m < 64
  | .mbxDoorbellClear _ _ _ => true
  | .i3cEntdaa => true
  | .pwrRailSel _ => true
  | .pwrRailMin => true
  | .supplyWarn rail mv => rail < 44 && mv < 65536
  | .railFault rail mv => rail < 44 && mv < 65536
  | .thermWarn n _ => thermUnit n
  | .thermTrip n _ => thermUnit n
  | .auxLoss => true
  | .parkPowerOff k => k < 32
  | .standbyEntryDone => true
  | .pwrStandbyExit => true
  | .standbyExitDone => true
  | .railGood rail mv => rail < 44 && mv < 65536
  | .junctionCooled n _ => thermUnit n
  | .bootRetry => true
  | .parkExit k => k < 32
  | .hbcPhy u => u < 512
  | .sramUeIdle n word => n < 16 && word.word < 8912896

end Sys2Proof
end

