-- ==== Sys2Proof/Tests/Slice0.lean ====
section
/-! SUPPORT. Tests: ill-formed terms that the well-formedness check refuses, single steps, and for every clause of every obligation with
hypotheses one state and operands that meet all of them (`witness_<obligation>_<clause>`). -/

open Sys2Proof Sys2Proof.Machine

namespace Sys2Proof.Tests

set_option Elab.async false
set_option linter.unusedVariables false

/-! ### CRC-32C, evaluated step by step -/

/-- `k c`, with `c` evaluated first: the kernel then carries a numeral. -/
def force (c : Nat) (k : Nat → Nat) : Nat := Nat.rec (k 0) (fun n _ => k (n + 1)) c
theorem force_eq (c : Nat) (k : Nat → Nat) : force c k = k c := by cases c <;> rfl
def crcBits : Nat → Nat → Nat
  | 0, c => c
  | n + 1, c => force (crc32cBit c) (crcBits n)
def crcRun : Bytes → Nat → Nat
  | [], c => c
  | b :: l, c => force (c ^^^ b.toNat) fun c => force (crcBits 8 c) (crcRun l)
theorem crc32cByte_eq (c : Nat) (b : Byte) : crc32cByte c b = crcBits 8 (c ^^^ b.toNat) := by
  simp [crcBits, force_eq, crc32cByte]
/-- CRC-32C, with the running value evaluated at each bit. -/
def crcF (bs : Bytes) : Nat := crcRun bs 0xFFFFFFFF ^^^ 0xFFFFFFFF
theorem crcRun_eq (bs : Bytes) (c : Nat) : bs.foldl crc32cByte c = crcRun bs c := by
  induction bs generalizing c with
  | nil => rfl
  | cons b l ih => simp only [List.foldl_cons, ih, crcRun, force_eq, crc32cByte_eq]
theorem crc32c_eq (bs : Bytes) : crc32c bs = crcF bs := by simp only [crc32c, crcF, crcRun_eq]
def mkFlitF (body : Bytes) (t : Trailer) : Bytes :=
  let b := bslice body 0 248 ++ leBytes 1 t.lseq ++ leBytes 1 t.lack ++ leBytes 1 t.ccount
    ++ leBytes 1 (t.ctc % 8 + t.kind % 8 * 8 + t.ackValid.toNat * 64)
  b ++ leBytes 4 (crcF b)
/-! ### States to test on -/

/-- A register set whole, and a field of a register set. -/
def reg (a v : Nat) (s : State) : State := wrReg s a (BitVec.ofNat 64 v)
def fld (a : Nat) (f : Fld) (v : Nat) (s : State) : State := wrF s a f v

/-- Port `p` in a link state. -/
def linked (p st : Nat) (x : Port) : State := setPort (setLink State.reset p st) p x

/-- A flit with a body, LACK, kind and ACK_VALID. -/
def flit (body : Bytes) (lack kind : Nat) (av : Bool) : Bytes := mkFlitF body ⟨0, lack, 0, 0, kind, av⟩

/-- A message for internal endpoint `e` of switch 5, from endpoint 0x10 of switch 7. -/
def message (type e : Nat) (pay : Bytes) : Msg := ⟨{ type := type, tc := if type = tCTRL then 6 else 0, dint := true, dst := 5 * 4096 + e, src := 7 * 4096 + 16 }, pay⟩

/-- The working key of partition 2. -/
def key2 : WorkKey := ⟨[1], 2, 0, []⟩

/-- Switch 5 with an object of partition 2 at local address 0: one T0 extent, keyed, in the cache of hub 0, and its first two sectors
written. -/
def home : State :=
  fld CHP_SWITCH_ID CHP_SWITCH_ID_ID 5
    { State.reset with mem := {
        keys := [(2, { cur := some key2 })]
        objs := [(1, { size := 4096, extBase := 3, part := 2, state := 1 })]
        exts := [(3, { state := esHOME, home := 5, obj := 1, len := 2 ^ 21 })]
        hcache := [(0, 3)], sectors := [(0, ⟨key2, 0, 0, 0⟩), (1, ⟨key2, 0, 0, 0⟩)], pool := [(0x40, 5)] } }

/-- A request of partition 2 for `n` bytes at object address `a` of switch 5. -/
def request (type tc op a n : Nat) (data : Bytes) : Msg :=
  ⟨{ type := type, tc := tc, op := op, vep := 2, dint := true, dst := 5 * 4096, src := 5 * 4096 + 16 },
    leBytes 8 (5 * 2 ^ 52 + a) ++ leBytes 4 n ++ zeros 4 ++ data⟩

/-- An atomic of partition 2 at object address 0x40. -/
def atomic (op : Nat) (arg arg2 : Nat) : Msg := request tATOMIC 4 op 0x40 0 (leBytes 16 arg ++ leBytes 16 arg2)

/-- A 32-byte descriptor (R108) as a number. -/
def image (stn : Bytes) (bob descs : List Nat) (param : Bytes) : Bytes :=
  let bo := 64 + stn.length
  let d := bo + 32 * bob.length
  let p := d + 32 * descs.length
  let n := (p + param.length + 31) / 32 * 32
  let head := fun (c : Nat) => leBytes 4 0x50535848 ++ leBytes 2 1 ++ zeros 10 ++ leBytes 4 n ++ leBytes 4 c ++ leBytes 1 (stn.length / 32)
    ++ zeros 1 ++ leBytes 2 bob.length ++ leBytes 4 descs.length ++ leBytes 4 64 ++ leBytes 4 bo ++ leBytes 4 d ++ leBytes 4 p
    ++ leBytes 4 param.length ++ zeros 12
  let rest := stn ++ (bob.flatMap (leBytes 32)) ++ (descs.flatMap (leBytes 32)) ++ param ++ zeros (n - p - param.length)
  head (crcF (head 0 ++ rest)) ++ rest

/-- A station entry: type, engine, formats, unscheduled use allowed, and its parameter block's place. -/
def station (type engine in0 in1 out pOff pLen : Nat) : Bytes :=
  zeros 16 ++ leBytes 1 type ++ leBytes 1 engine ++ leBytes 2 0 ++ leBytes 1 in0 ++ leBytes 1 in1 ++ leBytes 1 out ++ leBytes 1 1
    ++ leBytes 4 pOff ++ leBytes 4 pLen

/-- A bobbin entry: unscheduled use of bobbin `b`, 512 granules from 0, 16 reads. -/
def bobEntry (b mode : Nat) : Nat := mode * 2 ^ 20 + b * 2 ^ 24 + 512 * 2 ^ 49 + 16 * 2 ^ 88

/-- Bobbin 5 of region 0, RUNNING unscheduled on `p` in bank 0, its unit pages enabled. -/
def running (mode : Nat) (p : Bytes) (x : Bobbin) : State :=
  setBob (fld (BOB_STATE 5) BOB_STATE_STATE bsRUNNING (fld (BOB_STATE 5) BOB_STATE_MODE mode
    (fld (CRG_PROG_STATE 0) CRG_PROG_STATE_VALID 1
      (fld (G_CTL grBOB 5 0) G_CTL_ENABLE 1 (fld (G_CTL grCRG 0 0) G_CTL_ENABLE 1 { State.reset with banks := [(0, p)] }))))) 5 x

/-- Queue pair `q` alone, on switch 5. -/
def onlyQp (q : Nat) (x : Qp) : State := fld CHP_SWITCH_ID CHP_SWITCH_ID_ID 5 { State.reset with sht := { qps := [(q, x)] } }

/-- A shuttle segment for queue pair `q` of engine `n` from switch 5's endpoint 0x10: status, PSN, length, key, address and data. -/
def segment (n q status psn len key a : Nat) (d : Bytes) : Msg :=
  ⟨{ type := tWRITE, tc := 1, spray := true, dint := true, dst := 5 * 4096 + 0x200 + n, src := 5 * 4096 + 16 },
    [0, 0, BitVec.ofNat 8 status, 0] ++ leBytes 4 q ++ leBytes 4 1 ++ leBytes 4 psn ++ leBytes 4 len ++ leBytes 4 key ++ leBytes 8 a
      ++ zeros 8 ++ d⟩

/-- A step of a station type on engine 14 with its four operands in areas of 128 granules, unscheduled, at an address of switch 7. -/
def aStep (ty rows : Nat) (cols : Nat := 128) : Step where
  desc := 0
  station := 0
  type := ty
  engine := 14
  pos := 0
  tile := 0
  addr := 7 * 2 ^ 52
  in0 := some (0, 128)
  in1 := some (128, 256)
  in2 := none
  out := some (384, 512)
  arg0 := 7 * 2 ^ 52
  param := 0
  rows := rows
  cols := cols
  sched := false
  label := 0
  unit := 0
  units := 1
  toRead := 0
  reading := 0
  notes := []

/-- Bobbin 5, RUNNING with one step of a station (formats 7 in and out) with a parameter block, in a region of partition 2. -/
def atStation (st : Step) (param : Bytes) : State :=
  fld (SEC_PART_MEMBERS 2) SEC_PART_MEMBERS_CRG 1 (fld (G_CTL grSTN 14 0) G_CTL_ENABLE 1
    (running 2 (image (station st.type 14 7 7 7 0 param.length) [bobEntry 5 2] [1] param) { steps := [st] }))

/-! ### Well-formedness: an ill-formed term for each check -/

/-- A message whose source does not fit its 24 bits. -/
def wideMsg : Msg := ⟨{ src := 2 ^ 24 }, []⟩

theorem test_wf_refuses_access_size : (Instr.csrWrite [] 0 3 0).wf = false ∧ (Instr.tapAccess 0 0 3 0).wf = false := by decide +kernel
theorem test_wf_refuses_tap_operation : (Instr.tapAccess 4 0 8 0).wf = false := by decide +kernel
theorem test_wf_refuses_group : (Instr.errStickyClear 22 0 0 0).wf = false ∧ (Instr.errInject 22 0 0 0).wf = false
    ∧ (Instr.contextReset 22 0 0 0).wf = false ∧ (Instr.engineReset 22 0 0).wf = false ∧ (Instr.hangWindow 22 0).wf = false := by decide +kernel
theorem test_wf_refuses_unit : (Instr.errStickyClear 0 4096 0 0).wf = false ∧ (Instr.hangWindow 0 4096).wf = false := by decide +kernel
theorem test_wf_refuses_page : (Instr.errStickyClear 0 0 16 0).wf = false ∧ (Instr.engineReset 0 0 16).wf = false := by decide +kernel
theorem test_wf_refuses_context : (Instr.contextReset 0 0 0 2048).wf = false ∧ (Instr.resetDone 0 0 0 2048).wf = false := by decide +kernel
theorem test_wf_refuses_rung : (Instr.resetDone 5 0 0 0).wf = false ∧ (Instr.resetEscalated 5 0 0 0).wf = false := by decide +kernel
theorem test_wf_refuses_clause : (Instr.clsStageData 16 0).wf = false ∧ (Instr.clsClose 16 [] [] [] []).wf = false
    ∧ (Instr.clauseCommit 16).wf = false := by decide +kernel
theorem test_wf_refuses_gateway : (Instr.read 16 default).wf = false ∧ (Instr.prepare 16 default).wf = false := by decide +kernel
theorem test_wf_refuses_message : (Instr.read 0 wideMsg).wf = false ∧ (Instr.slip 0 wideMsg).wf = false
    ∧ (Instr.doorbell 0 wideMsg ()).wf = false := by decide +kernel
theorem test_wf_refuses_port : (Instr.idle 256 (zeros 256) 0 none).wf = false ∧ (Instr.linkDetect 256).wf = false
    ∧ (Instr.tokenRefill 256 0).wf = false := by decide +kernel
theorem test_wf_refuses_flit_length : (Instr.idle 0 (zeros 255) 0 none).wf = false ∧ (Instr.timeMark 0 [] 0 none).wf = false := by decide +kernel
theorem test_wf_refuses_domain : (Instr.roundStart 4).wf = false ∧ (Instr.decisionInstant 4).wf = false := by decide +kernel
theorem test_wf_refuses_region : (Instr.gateEntryNext 16).wf = false ∧ (Instr.progLoad [] 16 0).wf = false
    ∧ (Instr.sramUeIdle 16 (.single 0)).wf = false := by decide +kernel
theorem test_wf_refuses_sram_word : (Instr.sramUeIdle 0 (.single 8912896)).wf = false ∧ (Instr.sramUeIdle 0 (.double 8912896)).wf = false
    ∧ (Instr.sramUeIdle 0 (.hidden 8912896)).wf = false := by decide +kernel
theorem test_wf_refuses_bobbin : (Instr.bobArm 4096).wf = false ∧ (Instr.matmul 4096 0).wf = false := by decide +kernel
theorem test_wf_refuses_collective : (Instr.collTimeout 1024 0).wf = false := by decide +kernel
theorem test_wf_refuses_combiner : (Instr.cmbBufExpire 16 0 0).wf = false ∧ (Instr.replyCacheExpire 0 (2 ^ 24) false 0 0).wf = false := by decide +kernel
theorem test_wf_refuses_hub : (Instr.homeEntryFetch 4 0).wf = false ∧ (Instr.ucieModuleDown 4 0 0).wf = false := by decide +kernel
theorem test_wf_refuses_module : (Instr.ucieModuleDown 0 4 0).wf = false ∧ (Instr.ucieModuleDown 0 0 32).wf = false := by decide +kernel
theorem test_wf_refuses_channel : (Instr.scrub 512 []).wf = false ∧ (Instr.hbcPhy 512).wf = false := by decide +kernel
theorem test_wf_refuses_queue_pair : (Instr.wqeSend 32768).wf = false ∧ (Instr.placementDone 0 (2 ^ 24) ()).wf = false := by decide +kernel
theorem test_wf_refuses_key : (Instr.revokeDone 16384).wf = false := by decide +kernel
theorem test_wf_refuses_cxl_host : (Instr.hostWrite 16).wf = false ∧ (Instr.getLog 0 16).wf = false := by decide +kernel
theorem test_wf_refuses_tray_operands : (Instr.trayResponse 0 1024 0 []).wf = false ∧ (Instr.trayResponse 0 0 2 []).wf = false
    ∧ (Instr.cxpLinkDown 0 3).wf = false := by decide +kernel
theorem test_wf_refuses_push : (Instr.inPush 0 0 8 0 []).wf = false ∧ (Instr.inPush 0 0 0 256 []).wf = false := by decide +kernel
theorem test_wf_refuses_flow : (Instr.reseqTimeout 0 0 0 8 false false).wf = false ∧ (Instr.reseqOpenHold 0 0 (2 ^ 24) 0 false false).wf = false := by decide +kernel
theorem test_wf_refuses_token_row : (Instr.tokenRefill 0 5).wf = false := by decide +kernel
theorem test_wf_refuses_partition : (Instr.partRetireFree 16).wf = false ∧ (Instr.consentExpire 16).wf = false := by decide +kernel
theorem test_wf_refuses_test_kind : (Instr.testDone 0 0 true 0).wf = false ∧ (Instr.testDone 6 0 true 0).wf = false := by decide +kernel
theorem test_wf_refuses_dump_words : (Instr.dumpReadTimeout 0 512).wf = false := by decide +kernel
theorem test_wf_refuses_rails : (Instr.powerOn []).wf = false ∧ (Instr.railFault 44 0).wf = false ∧ (Instr.railGood 0 65536).wf = false := by decide +kernel
theorem test_wf_refuses_boot_chunk : (Instr.bootChunk 0 []).wf = false := by decide +kernel
theorem test_wf_refuses_mailbox : (Instr.mbxPush 2 0 default).wf = false ∧ (Instr.mbxInPop 64).wf = false ∧ (Instr.mbxOutPush 64 0).wf = false := by decide +kernel
theorem test_wf_refuses_sensor : (Instr.thermWarn 0x34 0).wf = false ∧ (Instr.junctionCooled 0xF 0).wf = false := by decide +kernel
theorem test_wf_refuses_park : (Instr.parkPowerOff 32).wf = false ∧ (Instr.parkExit 32).wf = false := by decide +kernel
theorem test_wf_accepts : (Instr.csrWrite [] 8 8 1).wf = true ∧ (Instr.matmul 4095 0).wf = true ∧ (Instr.thermWarn 0x40 0).wf = true := by decide

/-! ### The queue -/

/-- A step takes the command in front (TIM_NOW answers the time, R69); with nothing queued it is the device's own tick. -/
theorem test_step_takes_front : ∃ t, step { State.reset with pending := [.timNowRead, .hqGo] } = .next t ∧ t.pending = [.hqGo] := ⟨_, rfl, rfl⟩

/-- The check value of CRC-32C (the polynomial of R107 and R330) on the nine characters "123456789". -/
theorem test_crc32c_check : crc32c [0x31, 0x32, 0x33, 0x34, 0x35, 0x36, 0x37, 0x38, 0x39] = 0xE3069283 := by
  rw [crc32c_eq]
  decide +kernel

/-! ### Witnesses -/

def AccumulatorObjectRoundTrip_1_a : Acc320 := { a := -(2 : Int) ^ 319, count := 2 ^ 32 }
theorem witness_AccumulatorObjectRoundTrip_1 : ∃ (a : Acc320), (-2 ^ 319 ≤ a.a) ∧ (a.a < 2 ^ 319) ∧ (a.count ≤ 2 ^ 32) :=
  ⟨AccumulatorObjectRoundTrip_1_a, by decide +kernel⟩

def AcknowledgementsAndReplays_1_s : State := linked 3 lsACTIVE { buf := [(6, [1]), (7, [2]), (8, [3])] }
def AcknowledgementsAndReplays_1_f : Bytes := flit [] 7 kIDLE true
def AcknowledgementsAndReplays_1_pre : List (Nat × Bytes) := [(6, [1])]
def AcknowledgementsAndReplays_1_post : List (Nat × Bytes) := [(8, [3])]
theorem witness_AcknowledgementsAndReplays_1 : ∃ (s : State) (p : Nat) (f : Bytes) (pre : List (Nat × Bytes)) (post : List (Nat × Bytes)) (b : Bytes), (s.flt.safe = false) ∧ (linkState s p = lsACTIVE) ∧ (gangBase s p = p) ∧ (flitOk f = true) ∧ ((trailerOf f).kind = kIDLE) ∧ ((trailerOf f).ackValid = true) ∧ ((portOf s p).buf = pre ++ ((trailerOf f).lack, b) :: post) ∧ (∀ x ∈ pre, x.1 ≠ (trailerOf f).lack) :=
  ⟨AcknowledgementsAndReplays_1_s, 3, AcknowledgementsAndReplays_1_f, AcknowledgementsAndReplays_1_pre, AcknowledgementsAndReplays_1_post, [2], by simp only [flitOk, crc32c_eq]; decide +kernel⟩

def AcknowledgementsAndReplays_2_s : State := linked 3 lsACTIVE { buf := [(6, [1]), (7, [2])] }
def AcknowledgementsAndReplays_2_f : Bytes := flit [] 5 kRETRY_REQ false
def AcknowledgementsAndReplays_2_r : List (Nat × Bytes) := [(7, [2])]
theorem witness_AcknowledgementsAndReplays_2 : ∃ (s : State) (p : Nat) (f : Bytes) (q : Nat) (b : Bytes) (r : List (Nat × Bytes)), (s.flt.safe = false) ∧ (linkState s p = lsACTIVE) ∧ (flitOk f = true) ∧ ((trailerOf f).kind = kRETRY_REQ) ∧ ((trailerOf f).ackValid = false) ∧ ((portOf s p).buf = (q, b) :: r) ∧ (q = ((trailerOf f).lack + 1) % 256) ∧ (((portOf s p).buf.any fun (x : Nat × Bytes) => x.1 == (trailerOf f).lack) = false) ∧ ((portOf s p).replays < max 1 (linkCfg s p PRT_LINK_CFG_RETRY_LIMIT)) :=
  ⟨AcknowledgementsAndReplays_2_s, 3, AcknowledgementsAndReplays_2_f, 6, [1], AcknowledgementsAndReplays_2_r, by simp only [flitOk, crc32c_eq]; decide +kernel⟩

def AcknowledgementsAndReplays_3_s : State := linked 3 lsACTIVE { buf := [(6, [1]), (7, [2])] }
theorem witness_AcknowledgementsAndReplays_3 : ∃ (s : State) (p : Nat), (linkState s p = lsACTIVE) ∧ ((portOf s p).buf ≠ [])
    ∧ ((portOf s p).replays < max 1 (linkCfg s p PRT_LINK_CFG_RETRY_LIMIT)) :=
  ⟨AcknowledgementsAndReplays_3_s, 3, by decide +kernel⟩

def Atomics_1_m : Msg := atomic 1 7 0
theorem witness_Atomics_1 : ∃ (s : State) (prg : Nat) (m : Msg) (i : Nat) (e : Nat) (p : Nat), (AtomicAt s prg m i e p)
    ∧ (m.hdr.op = 1 ∨ m.hdr.op = 2) :=
  ⟨home, 1, Atomics_1_m, 1, 3, 64, by unfold AtomicAt AtHome; decide +kernel⟩

def Atomics_2_m : Msg := atomic 3 1065353216 0
theorem witness_Atomics_2 : ∃ (s : State) (prg : Nat) (m : Msg) (i : Nat) (e : Nat) (p : Nat), (AtomicAt s prg m i e p) ∧ (m.hdr.op = 3) :=
  ⟨home, 1, Atomics_2_m, 1, 3, 64, by unfold AtomicAt AtHome; decide +kernel⟩

def Atomics_3_m : Msg := atomic 16 3 0
theorem witness_Atomics_3 : ∃ (s : State) (prg : Nat) (m : Msg) (i : Nat) (e : Nat) (p : Nat), (AtomicAt s prg m i e p)
    ∧ (m.hdr.op ∈ [16, 17, 18, 19, 20]) :=
  ⟨home, 1, Atomics_3_m, 1, 3, 64, by unfold AtomicAt AtHome; decide +kernel⟩

def Atomics_4_m : Msg := atomic 25 9 0
theorem witness_Atomics_4 : ∃ (s : State) (prg : Nat) (m : Msg) (i : Nat) (e : Nat) (p : Nat), (AtomicAt s prg m i e p)
    ∧ (m.hdr.op ∈ [24, 25, 26, 27, 28]) :=
  ⟨home, 1, Atomics_4_m, 1, 3, 64, by unfold AtomicAt AtHome; decide +kernel⟩

def Atomics_5_m : Msg := atomic 32 5 77
theorem witness_Atomics_5 : ∃ (s : State) (prg : Nat) (m : Msg) (i : Nat) (e : Nat) (p : Nat), (AtomicAt s prg m i e p) ∧ (m.hdr.op ∈ [32, 33, 34]) :=
  ⟨home, 1, Atomics_5_m, 1, 3, 64, by unfold AtomicAt AtHome; decide +kernel⟩

def Atomics_6_s : State := { State.reset with mem := { cmbs := [(0, { ops := [⟨0, 64, 1, 2, [(0, atomic 1 7 0)], true, some [(0, [5])], false, 1, []⟩], cache := [⟨5 * 4096 + 16, false, 0, 0, 2, none, 0⟩] })] } }
def Atomics_6_o : CmbOp := ⟨0, 64, 1, 2, [(0, atomic 1 7 0)], true, some [(0, [5])], false, 1, []⟩
def Atomics_6_x : Nat × Msg := (0, atomic 1 7 0)
def Atomics_6_r : Nat × Bytes := (0, [5])
theorem witness_Atomics_6 : ∃ (s : State) (n : Nat) (o : CmbOp) (x : Nat × Msg) (r : Nat × Bytes), (s.mem.reqs = []) ∧ (s.mem.txns = [])
    ∧ ((cmbOf s n).ops = [o]) ∧ (o.passed = true) ∧ (o.members = [x]) ∧ (o.results = some [r]) :=
  ⟨Atomics_6_s, 0, Atomics_6_o, Atomics_6_x, Atomics_6_r, by decide +kernel⟩

def BobbinCommands_1_s : State := fld (CRG_PROG_STATE 0) CRG_PROG_STATE_VALID 1 { State.reset with banks := [(0, image (station 14 0 7 0 7 0 0) [bobEntry 5 2] [0] [])] }
def BobbinCommands_1_e : BobEnt := bobEntAt (image (station 14 0 7 0 7 0 0) [bobEntry 5 2] [0] []) 0
theorem witness_BobbinCommands_1 : ∃ (s : State) (b : Nat) (e : BobEnt), (b < 4096) ∧ (guardOf s (BOB_CTL b) = none)
    ∧ (unitParked s grBOB b = false) ∧ (bobState s b = bsIDLE) ∧ (bankValid s (bobRgn b) (bankNow s (bobRgn b)) = true)
    ∧ (bobEnt (progOf s (bobRgn b) (bankNow s (bobRgn b))) (bobIdx b) = some e) ∧ (e.mode = 2) :=
  ⟨BobbinCommands_1_s, 5, BobbinCommands_1_e, by decide +kernel⟩

def BobbinCommands_2_s : State := fld (BOB_STATE 5) BOB_STATE_STATE bsARMED State.reset
theorem witness_BobbinCommands_2 : ∃ (s : State) (b : Nat), (b < 4096) ∧ (guardOf s (BOB_CTL b) = none) ∧ (unitParked s grBOB b = false)
    ∧ (bobState s b = bsARMED) ∧ (bobSched s b = false) :=
  ⟨BobbinCommands_2_s, 5, by decide +kernel⟩

def BobbinCommands_3_s : State := fld (BOB_STATE 5) BOB_STATE_STATE bsRUNNING State.reset
theorem witness_BobbinCommands_3 : ∃ (s : State) (b : Nat), (b < 4096) ∧ (guardOf s (BOB_CTL b) = none) ∧ (unitParked s grBOB b = false)
    ∧ (bobState s b = bsRUNNING) ∧ (bobSched s b = false) :=
  ⟨BobbinCommands_3_s, 5, by decide +kernel⟩

def BobbinCommands_4_s : State := fld (BOB_STATE 4095) BOB_STATE_STATE bsARMED State.reset
theorem witness_BobbinCommands_4 : ∃ (s : State) (b : Nat), (b < 4096) ∧ (guardOf s (BOB_CTL b) = none) ∧ (unitParked s grBOB b = false)
    ∧ (bobState s b = bsARMED) ∧ (bobSched s b = false) :=
  ⟨BobbinCommands_4_s, 4095, by decide +kernel⟩

def BootAndFirmware_2_s : State := { State.reset with boot := { fetching := true } }
theorem witness_BootAndFirmware_2 : ∃ (s : State), (s.boot.fetching = true) ∧ (s.boot.retry = false) :=
  ⟨BootAndFirmware_2_s, by decide +kernel⟩

def BootAndFirmware_3_s : State := { State.reset with boot := { fetching := true, retry := true } }
theorem witness_BootAndFirmware_3 : ∃ (s : State), (s.boot.fetching = true) ∧ (s.boot.retry = true) :=
  ⟨BootAndFirmware_3_s, by decide +kernel⟩

def BootAndFirmware_4_s : State := { State.reset with boot := { i3c := true, ibiSent := [9] } }
theorem witness_BootAndFirmware_4 : ∃ (s : State) (r : Nat), s.boot.i3c = true :=
  ⟨BootAndFirmware_4_s, 3, by decide +kernel⟩

def BootAndFirmware_5_s : State := { State.reset with boot := { i3c := false, ibiHeld := [9] } }
theorem witness_BootAndFirmware_5 : ∃ (s : State) (r : Nat), (s.boot.i3c = false) ∧ (s.boot.ibiHeld.contains r = false) :=
  ⟨BootAndFirmware_5_s, 3, by decide +kernel⟩

def BootAndFirmware_6_s : State := { State.reset with boot := { fetching := true, pieces := [(0, [1, 2, 3])] } }
theorem witness_BootAndFirmware_6 : ∃ (s : State) (off : Nat) (d : Bytes), (s.boot.fetching = true)
    ∧ (off + List.length d ≤ heldTo s.boot.pieces (s.boot.pieces.length + 1) off) :=
  ⟨BootAndFirmware_6_s, 1, [1, 2], by decide +kernel⟩

def BootAndFirmware_7_s : State := setBootState bsFETCH { State.reset with boot := { fetching := true, pieces := (List.range 39).map fun k => (256 * k, zeros 256) } }
def BootAndFirmware_7_d : Bytes := zeros 256
def BootAndFirmware_7_u : State := { BootAndFirmware_7_s with boot := { BootAndFirmware_7_s.boot with chunk := true, pieces := BootAndFirmware_7_s.boot.pieces ++ [(9984, BootAndFirmware_7_d)] } }
theorem witness_BootAndFirmware_7 : ∃ (s : State) (off : Nat) (d : Bytes) (u : State), (s.boot.fetching = true)
    ∧ (heldTo s.boot.pieces (s.boot.pieces.length + 1) off < off + List.length d)
    ∧ (u = { s with boot := { s.boot with chunk := true, pieces := s.boot.pieces ++ [(off, d)] } }) ∧ (10240 ≤ imageHeld u)
    ∧ (imageNeed u ≤ imageHeld u) ∧ (bootState s ≠ bsRESTARTING) :=
  ⟨BootAndFirmware_7_s, 9984, BootAndFirmware_7_d, BootAndFirmware_7_u, by decide +kernel, by decide +kernel, rfl, by decide +kernel, by decide +kernel, by decide +kernel⟩

def BootAndFirmware_8_s : State := { State.reset with boot := { fetching := true } }
def BootAndFirmware_8_u : State := { BootAndFirmware_8_s with boot := { BootAndFirmware_8_s.boot with chunk := true, pieces := [(64, [1, 2])] } }
theorem witness_BootAndFirmware_8 : ∃ (s : State) (off : Nat) (d : Bytes) (u : State), (s.boot.fetching = true)
    ∧ (heldTo s.boot.pieces (s.boot.pieces.length + 1) off < off + List.length d)
    ∧ (u = { s with boot := { s.boot with chunk := true, pieces := s.boot.pieces ++ [(off, d)] } })
    ∧ (imageHeld u < 10240 ∨ imageHeld u < imageNeed u ∨ bootState s = bsRESTARTING) :=
  ⟨BootAndFirmware_8_s, 64, [1, 2], BootAndFirmware_8_u, by decide +kernel, by decide +kernel, rfl, by decide +kernel⟩

def BootAndFirmware_9_s : State := { State.reset with boot := { fetching := true, pieces := [(0, zeros 10240)] } }
theorem witness_BootAndFirmware_9 : ∃ (s : State) (b : Bool), (s.boot.fetching = true) ∧ (10240 ≤ imageHeld s) ∧ (imageNeed s ≤ imageHeld s) :=
  ⟨BootAndFirmware_9_s, true, by decide +kernel⟩

theorem witness_BootAndFirmware_10 : ∃ (s : State), guardOf s CHP_RESTART = none :=
  ⟨State.reset, by decide +kernel⟩

theorem witness_BootAndFirmware_11 : ∃ (s : State) (w : Word), guardOf s CHP_WDOG = none :=
  ⟨State.reset, (1 : Word), by decide +kernel⟩

def BootAndFirmware_12_s : State := fld CHP_WDOG CHP_WDOG_AUTO 1 <| fld CHP_WDOG CHP_WDOG_PERIOD 5 { State.reset with boot := { fw := true } }
theorem witness_BootAndFirmware_12 : ∃ (s : State), (rdF s CHP_WDOG CHP_WDOG_PERIOD ≠ 0) ∧ (s.boot.fw = true) :=
  ⟨BootAndFirmware_12_s, by decide +kernel⟩

theorem witness_BootAndFirmware_13 : ∃ (s : State) (ns : Nat), ns < 100 :=
  ⟨State.reset, 99, by decide +kernel⟩

theorem witness_BootAndFirmware_14 : ∃ (s : State) (ns : Nat), (100 ≤ ns) ∧ (ns < 1000) :=
  ⟨State.reset, 100, by decide +kernel⟩

def BootAndFirmware_15_s : State := { State.reset with boot := { on := true } }
theorem witness_BootAndFirmware_15 : ∃ (s : State) (ns : Nat), (1000 ≤ ns) ∧ (s.boot.on = true) :=
  ⟨BootAndFirmware_15_s, 1000, by decide +kernel⟩

def ClauseAcrossDevices_1_s : State := fld (CLS_STATE 2) CLS_STATE_STATE csSEALED (fld (CLS_COND 2) CLS_COND_ROLE 1 (fld (CLS_COND 2) CLS_COND_PEERS 3 (reg (CLS_GLOBAL_ID 2) 9 { State.reset with cls := [(2, { preps := [(4, [])] })] })))
def ClauseAcrossDevices_1_m : Msg := message tCTRL 0 (leBytes 8 9 ++ leBytes 2 7 ++ zeros 38)
theorem witness_ClauseAcrossDevices_1 : ∃ (s : State) (prg : Nat) (c : Nat) (m : Msg), (CtrlMsg s m) ∧ (clauseByGid s 1 (leAt m.pay 0 8) = some c)
    ∧ ((clsOf s c).commitAt = none) ∧ (((clsOf s c).preps.any fun (x : Nat × Bytes) => x.1 == leAt m.pay 8 2 % 4096) = false)
    ∧ ((clsOf s c).preps.length + 1 < clsPeers s c) :=
  ⟨ClauseAcrossDevices_1_s, 0, 2, ClauseAcrossDevices_1_m, by decide +kernel⟩

def ClauseAcrossDevices_2_m : Msg := message tCTRL 0 (leBytes 8 9 ++ leBytes 2 7 ++ zeros 38)
theorem witness_ClauseAcrossDevices_2 : ∃ (s : State) (prg : Nat) (m : Msg), (CtrlMsg s m) ∧ (clauseByGid s 1 (leAt m.pay 0 8) = none) :=
  ⟨State.reset, 0, ClauseAcrossDevices_2_m, by decide +kernel⟩

def ClauseAcrossDevices_3_s : State := fld (CLS_STATE 2) CLS_STATE_STATE csSEALED (fld (CLS_COND 2) CLS_COND_ROLE 1 (fld (CLS_COND 2) CLS_COND_PEERS 3 (reg (CLS_GLOBAL_ID 2) 9 { State.reset with cls := [(2, { preps := [(7, [])] })] })))
def ClauseAcrossDevices_3_m : Msg := message tCTRL 0 (leBytes 8 9 ++ leBytes 1 1)
def ClauseAcrossDevices_3_t : State := setCls ClauseAcrossDevices_3_s 2 { clsOf ClauseAcrossDevices_3_s 2 with votes := [(7, true)] }
theorem witness_ClauseAcrossDevices_3 : ∃ (s : State) (prg : Nat) (c : Nat) (m : Msg) (t : State), (CtrlMsg s m)
    ∧ (clauseByGid s 1 (leAt m.pay 0 8) = some c) ∧ ((clsOf s c).commitAt = none)
    ∧ (((clsOf s c).preps.any fun (x : Nat × Bytes) => x.1 == m.hdr.src / 4096) = true)
    ∧ (((clsOf s c).votes.any fun (x : Nat × Bool) => x.1 == m.hdr.src / 4096) = false) ∧ (bit (leAt m.pay 8 1) 0 = true)
    ∧ (t = setCls s c ({ clsOf s c with votes := (clsOf s c).votes ++ [(m.hdr.src / 4096, true)] })) :=
  ⟨ClauseAcrossDevices_3_s, 0, 2, ClauseAcrossDevices_3_m, ClauseAcrossDevices_3_t, by decide +kernel⟩

def ClauseAcrossDevices_4_s : State := fld (CLS_STATE 2) CLS_STATE_STATE csSEALED (fld (CLS_COND 2) CLS_COND_ROLE 1 (fld (CLS_COND 2) CLS_COND_PEERS 3 (reg (CLS_GLOBAL_ID 2) 9 { State.reset with cls := [(2, { preps := [(7, [])] })] })))
def ClauseAcrossDevices_4_m : Msg := message tCTRL 0 (leBytes 8 9 ++ leBytes 1 1)
def ClauseAcrossDevices_4_t : State := setCls ClauseAcrossDevices_4_s 2 { clsOf ClauseAcrossDevices_4_s 2 with votes := [(7, true)] }
theorem witness_ClauseAcrossDevices_4 : ∃ (s : State) (prg : Nat) (c : Nat) (m : Msg) (t : State), (CtrlMsg s m)
    ∧ (clauseByGid s 1 (leAt m.pay 0 8) = some c) ∧ ((clsOf s c).commitAt = none)
    ∧ (((clsOf s c).preps.any fun (x : Nat × Bytes) => x.1 == m.hdr.src / 4096) = true)
    ∧ (((clsOf s c).votes.any fun (x : Nat × Bool) => x.1 == m.hdr.src / 4096) = false) ∧ (bit (leAt m.pay 8 1) 0 = true)
    ∧ (t = setCls s c ({ clsOf s c with votes := (clsOf s c).votes ++ [(m.hdr.src / 4096, true)] })) ∧ ((clsOf s c).preps.length < clsPeers s c) :=
  ⟨ClauseAcrossDevices_4_s, 0, 2, ClauseAcrossDevices_4_m, ClauseAcrossDevices_4_t, by decide +kernel⟩

def ClauseAcrossDevices_5_s : State := fld (CLS_STATE 2) CLS_STATE_STATE csSEALED (fld (CLS_COND 2) CLS_COND_ROLE 1 (fld (CLS_COND 2) CLS_COND_PEERS 3 (reg (CLS_GLOBAL_ID 2) 9 { State.reset with cls := [(2, { preps := [(7, [])] })] })))
def ClauseAcrossDevices_5_m : Msg := message tCTRL 0 (leBytes 8 9 ++ leBytes 1 0)
theorem witness_ClauseAcrossDevices_5 : ∃ (s : State) (prg : Nat) (c : Nat) (m : Msg), (CtrlMsg s m) ∧ (clauseByGid s 1 (leAt m.pay 0 8) = some c)
    ∧ (c < 16) ∧ ((clsOf s c).commitAt = none) ∧ (((clsOf s c).preps.any fun (x : Nat × Bytes) => x.1 == m.hdr.src / 4096) = true)
    ∧ (((clsOf s c).votes.any fun (x : Nat × Bool) => x.1 == m.hdr.src / 4096) = false) ∧ (bit (leAt m.pay 8 1) 0 = false) ∧ (NoHomeWork s c) :=
  ⟨ClauseAcrossDevices_5_s, 0, 2, ClauseAcrossDevices_5_m, by decide +kernel⟩

def ClauseAcrossDevices_6_s : State := fld (CLS_STATE 15) CLS_STATE_STATE csSEALED (fld (CLS_COND 15) CLS_COND_ROLE 1 (fld (CLS_COND 15) CLS_COND_PEERS 3 (reg (CLS_GLOBAL_ID 15) 9 { State.reset with cls := [(15, { preps := [(7, [])] })] })))
theorem witness_ClauseAcrossDevices_6 : ∃ (s : State) (c : Nat), (c < 16) ∧ (clsLive s c = true) ∧ (clsRole s c = 1)
    ∧ ((clsOf s c).commitAt = none) ∧ ((clsOf s c).preps.length < clsPeers s c ∨ ∃ x ∈ (clsOf s c).preps, ((clsOf s c).votes.any fun (v : Nat × Bool) => v.1 == x.1) = false) ∧ (NoHomeWork s c) :=
  ⟨ClauseAcrossDevices_6_s, 15, by decide +kernel⟩

def ClauseAcrossDevices_7_s : State := fld (CLS_STATE 2) CLS_STATE_STATE csPREPARED (fld (CLS_COND 2) CLS_COND_ROLE 2 (fld (CLS_COND 2) CLS_COND_PEERS 3 (reg (CLS_GLOBAL_ID 2) (7 + 4096 * 9) { State.reset with cls := [(2, {})] })))
def ClauseAcrossDevices_7_m : Msg := message tCTRL 0 (leBytes 8 (7 + 4096 * 9) ++ leBytes 8 1 ++ leBytes 8 1001)
theorem witness_ClauseAcrossDevices_7 : ∃ (s : State) (prg : Nat) (c : Nat) (m : Msg), (CtrlMsg s m) ∧ (m.hdr.src / 4096 = leAt m.pay 0 8 % 4096)
    ∧ (c < 16) ∧ (clauseByGid s 2 (leAt m.pay 0 8) = some c) ∧ (clsState s c = csPREPARED) ∧ (bit (leAt m.pay 8 1) 0 = true)
    ∧ (now s + 1000 < leAt m.pay 16 8) :=
  ⟨ClauseAcrossDevices_7_s, 0, 2, ClauseAcrossDevices_7_m, by decide +kernel⟩

def ClauseAcrossDevices_8_s : State := fld (CLS_STATE 2) CLS_STATE_STATE csPREPARED (fld (CLS_COND 2) CLS_COND_ROLE 2 (fld (CLS_COND 2) CLS_COND_PEERS 3 (reg (CLS_GLOBAL_ID 2) (7 + 4096 * 9) { State.reset with cls := [(2, {})] })))
def ClauseAcrossDevices_8_m : Msg := message tCTRL 0 (leBytes 8 (7 + 4096 * 9) ++ zeros 16)
theorem witness_ClauseAcrossDevices_8 : ∃ (s : State) (prg : Nat) (c : Nat) (m : Msg), (CtrlMsg s m) ∧ (m.hdr.src / 4096 = leAt m.pay 0 8 % 4096)
    ∧ (c < 16) ∧ (clauseByGid s 2 (leAt m.pay 0 8) = some c) ∧ (bit (leAt m.pay 8 1) 0 = false) ∧ (NoHomeWork s c) :=
  ⟨ClauseAcrossDevices_8_s, 0, 2, ClauseAcrossDevices_8_m, by decide +kernel⟩

def ClauseAcrossDevices_9_s : State := { State.reset with outcomes := [⟨9, some (true, 0), [7, 8]⟩] }
def ClauseAcrossDevices_9_m : Msg := message tCTRL 0 (leBytes 8 9)
def ClauseAcrossDevices_9_o : Outcome := ⟨9, some (true, 0), [7, 8]⟩
def ClauseAcrossDevices_9_x : Bool × Nat := (true, 0)
theorem witness_ClauseAcrossDevices_9 : ∃ (s : State) (prg : Nat) (m : Msg) (o : Outcome) (x : Bool × Nat), (CtrlMsg s m) ∧ (s.outcomes = [o])
    ∧ (o.gid = leAt m.pay 0 8) ∧ (o.decided = some x) ∧ (List.filter (fun (y : Nat) => y != m.hdr.src / 4096) o.waiting ≠ []) :=
  ⟨ClauseAcrossDevices_9_s, 0, ClauseAcrossDevices_9_m, ClauseAcrossDevices_9_o, ClauseAcrossDevices_9_x, by decide +kernel⟩

def ClauseAcrossDevices_10_s : State := fld (CLS_STATE 2) CLS_STATE_STATE csPREPARED (fld (CLS_COND 2) CLS_COND_ROLE 2 (fld (CLS_COND 2) CLS_COND_PEERS 3 (reg (CLS_GLOBAL_ID 2) 9 { State.reset with cls := [(2, {})] })))
theorem witness_ClauseAcrossDevices_10 : ∃ (s : State) (c : Nat), clsState s c = csPREPARED :=
  ⟨ClauseAcrossDevices_10_s, 2, by decide +kernel⟩

def ClauseAcrossDevices_11_m : Msg := message tCTRL 0 (leBytes 8 9)
theorem witness_ClauseAcrossDevices_11 : ∃ (s : State) (prg : Nat) (m : Msg), (CtrlMsg s m) ∧ (outcomeOf s (leAt m.pay 0 8) = none) :=
  ⟨State.reset, 0, ClauseAcrossDevices_11_m, by decide +kernel⟩

def ClauseAcrossDevices_12_s : State := { State.reset with outcomes := [⟨9, some (true, 5), [7, 8]⟩] }
def ClauseAcrossDevices_12_m : Msg := message tCTRL 0 (leBytes 8 9)
def ClauseAcrossDevices_12_o : Outcome := ⟨9, some (true, 5), [7, 8]⟩
theorem witness_ClauseAcrossDevices_12 : ∃ (s : State) (prg : Nat) (m : Msg) (o : Outcome) (b : Bool) (at_ : Nat), (CtrlMsg s m)
    ∧ (outcomeOf s (leAt m.pay 0 8) = some o) ∧ (o.decided = some (b, at_)) :=
  ⟨ClauseAcrossDevices_12_s, 0, ClauseAcrossDevices_12_m, ClauseAcrossDevices_12_o, true, 5, by decide +kernel⟩

def ClauseAcrossDevices_13_s : State := fld (CLS_STATE 2) CLS_STATE_STATE csPREPARED (fld (CLS_COND 2) CLS_COND_ROLE 2 (fld (CLS_COND 2) CLS_COND_PEERS 3 (reg (CLS_GLOBAL_ID 2) (7 + 4096 * 9) { State.reset with cls := [(2, {})] })))
def ClauseAcrossDevices_13_m : Msg := message tCTRL 0 (leBytes 8 (7 + 4096 * 9) ++ leBytes 8 1 ++ leBytes 8 1001)
theorem witness_ClauseAcrossDevices_13 : ∃ (s : State) (prg : Nat) (m : Msg), (CtrlMsg s m) ∧ (m.hdr.src / 4096 = leAt m.pay 0 8 % 4096)
    ∧ (leAt m.pay 8 1 ≤ 1) :=
  ⟨ClauseAcrossDevices_13_s, 0, ClauseAcrossDevices_13_m, by decide +kernel⟩

def ClauseAcrossDevices_14_s : State := fld (CLS_STATE 2) CLS_STATE_STATE csPREPARED (fld (CLS_COND 2) CLS_COND_ROLE 2 (fld (CLS_COND 2) CLS_COND_PEERS 3 (reg (CLS_GLOBAL_ID 2) (7 + 4096 * 9) { State.reset with cls := [(2, {})] })))
def ClauseAcrossDevices_14_m : Msg := message tCTRL 0 (leBytes 8 (7 + 4096 * 9) ++ leBytes 8 2 ++ leBytes 8 0)
theorem witness_ClauseAcrossDevices_14 : ∃ (s : State) (prg : Nat) (c : Nat) (m : Msg), (CtrlMsg s m) ∧ (m.hdr.src / 4096 = leAt m.pay 0 8 % 4096)
    ∧ (c < 16) ∧ (clauseByGid s 2 (leAt m.pay 0 8) = some c) ∧ (clsState s c = csPREPARED) ∧ (2 ≤ leAt m.pay 8 1) ∧ (NoHomeWork s c) :=
  ⟨ClauseAcrossDevices_14_s, 0, 2, ClauseAcrossDevices_14_m, by decide +kernel⟩

def ClauseAcrossDevices_15_s : State := fld (CLS_STATE 2) CLS_STATE_STATE csPREPARED (fld (CLS_COND 2) CLS_COND_ROLE 2 (fld (CLS_COND 2) CLS_COND_PEERS 3 (reg (CLS_GLOBAL_ID 2) 9 { State.reset with cls := [(2, {})] })))
theorem witness_ClauseAcrossDevices_15 : ∃ (s : State) (c : Nat), (c < 16) ∧ (clsState s c = csPREPARED) ∧ (clsRole s c = 2) ∧ (NoHomeWork s c) :=
  ⟨ClauseAcrossDevices_15_s, 2, by decide +kernel⟩

def ClauseCommits_1_s : State := fld (CLS_STATE 2) CLS_STATE_STATE csSEALED (fld (CLS_COND 2) CLS_COND_ROLE 0 (fld (CLS_COND 2) CLS_COND_PEERS 3 (reg (CLS_GLOBAL_ID 2) 9 { State.reset with cls := [(2, { entries := [{ addr := BitVec.ofNat 64 (SHT_SLICE 3 - 0x1000000000), mask := 0xFF, data := 0x1234 }] })] })))
theorem witness_ClauseCommits_1 : ∃ (s : State) (c : Nat), (c < 16) ∧ (clsState s c = csSEALED) ∧ (clsRole s c = 0) ∧ (clsReq s c ≤ 1)
    ∧ (clsKind s c = 0) ∧ ((clsOf s c).entries ≠ []) ∧ (∀ e ∈ (clsOf s c).entries, e.kind = 0 ∧ ∃ n < 16, e.target = SHT_SLICE n)
    ∧ (∀ x ∈ s.cls, x.1 ≠ c → clsState s x.1 = csFREE) :=
  ⟨ClauseCommits_1_s, 2, by decide +kernel, by decide +kernel, by decide +kernel, by decide +kernel, by decide +kernel, by decide +kernel,
    by intro e h; rcases List.mem_singleton.mp h with rfl; exact ⟨by decide +kernel, 3, by decide +kernel, by decide +kernel⟩, by decide +kernel⟩

def ClauseCommits_2_s : State := fld (CLS_COND 2) CLS_COND_KIND 3 (reg (CLS_TIME 2) 1001 (fld (CLS_STATE 2) CLS_STATE_STATE csVALIDATING (fld (CLS_COND 2) CLS_COND_ROLE 0 (fld (CLS_COND 2) CLS_COND_PEERS 3 (reg (CLS_GLOBAL_ID 2) 9 { State.reset with cls := [(2, { entries := [{ addr := BitVec.ofNat 64 (SHT_SLICE 3 - 0x1000000000), mask := 0xFF, data := 0x1234 }], checked := true, passed := 1 })] })))))
theorem witness_ClauseCommits_2 : ∃ (s : State) (c : Nat), (c < 16) ∧ (clsState s c = csVALIDATING) ∧ ((clsOf s c).checked = true)
    ∧ (((clsOf s c).entries.all fun (e : Entry) => e.kind == 0) = true) ∧ ((clsOf s c).entries.all (targetOpen s) = true) ∧ (clsRole s c = 0)
    ∧ (clsKind s c = 3) ∧ (now s + 1000 < clsTime s c) :=
  ⟨ClauseCommits_2_s, 2, by decide +kernel⟩

def ClauseCommits_3_s : State := fld (CLS_COND 2) CLS_COND_KIND 3 (reg (CLS_TIME 2) 1001 (fld (CLS_STATE 2) CLS_STATE_STATE csARMED (fld (CLS_COND 2) CLS_COND_ROLE 0 (fld (CLS_COND 2) CLS_COND_PEERS 3 (reg (CLS_GLOBAL_ID 2) 9 { State.reset with cls := [(2, { entries := [{ addr := BitVec.ofNat 64 (SHT_SLICE 3 - 0x1000000000), mask := 0xFF, data := 0x1234 }], checked := true, passed := 1, commitAt := some 1001 })] })))))
theorem witness_ClauseCommits_3 : ∃ (s : State) (c : Nat), (c < 16) ∧ (clsState s c = csARMED) ∧ ((clsOf s c).commitAt.isSome = true)
    ∧ ((clsOf s c).inGuard = false) ∧ (((clsOf s c).entries.all fun (e : Entry) => e.kind == 0 && csrGroup e.target != grSEC) = true) :=
  ⟨ClauseCommits_3_s, 2, by decide +kernel⟩

def ClauseCommits_4_s : State := fld (CLS_COND 2) CLS_COND_KIND 3 (reg (CLS_TIME 2) 1001 (fld (CLS_STATE 2) CLS_STATE_STATE csARMED (fld (CLS_COND 2) CLS_COND_ROLE 0 (fld (CLS_COND 2) CLS_COND_PEERS 3 (reg (CLS_GLOBAL_ID 2) 9 { State.reset with cls := [(2, { entries := [{ addr := BitVec.ofNat 64 (SHT_SLICE 3 - 0x1000000000), mask := 0xFF, data := 0x1234 }], checked := true, passed := 1, commitAt := some 1001, inGuard := true })] })))))
def ClauseCommits_4_e : Entry := { addr := BitVec.ofNat 64 (SHT_SLICE 3 - 0x1000000000), mask := 0xFF, data := 0x1234 }
theorem witness_ClauseCommits_4 : ∃ (s : State) (c : Nat) (n : Nat) (e : Entry), (c < 16) ∧ (n < 16) ∧ (clsState s c = csARMED) ∧ (clsRole s c = 0)
    ∧ (clsKind s c = 3) ∧ ((clsOf s c).commitAt.isSome = true) ∧ ((clsOf s c).inGuard = true) ∧ ((clsOf s c).late = false)
    ∧ ((clsOf s c).entries = [e]) ∧ (e.kind = 0) ∧ (e.target = SHT_SLICE n) ∧ ((clsOf s c).delayed = []) :=
  ⟨ClauseCommits_4_s, 2, 3, ClauseCommits_4_e, by decide +kernel⟩

def ClauseOpens_1_s : State := fld (CLS_STATE 0) CLS_STATE_STATE csOPEN State.reset
theorem witness_ClauseOpens_1 : ∃ (s : State) (c : Nat), (∀ i < 16, unitOn s grCLS i = true) ∧ (c < 16) ∧ (clsState s c = csFREE)
    ∧ (∀ i < c, clsState s i ≠ csFREE) :=
  ⟨ClauseOpens_1_s, 1, by decide +kernel⟩

def ClauseOpens_2_s : State := (List.range 16).foldl (fun s c => fld (CLS_STATE c) CLS_STATE_STATE csOPEN s) State.reset
theorem witness_ClauseOpens_2 : ∃ (s : State), (∀ i < 16, unitOn s grCLS i = true) ∧ (∀ c < 16, clsState s c ≠ csFREE) :=
  ⟨ClauseOpens_2_s, by decide +kernel⟩

def ClauseStaging_1_s : State := reg (CLS_STAGE_MASK 15) 255 (reg (CLS_STAGE_ADDR 15) 64 (fld (CLS_STATE 15) CLS_STATE_STATE csOPEN (fld (CLS_COND 15) CLS_COND_ROLE 0 (fld (CLS_COND 15) CLS_COND_PEERS 3 (reg (CLS_GLOBAL_ID 15) 9 { State.reset with cls := [(15, {})] })))))
theorem witness_ClauseStaging_1 : ∃ (s : State) (c : Nat) (w : Word), (c < 16) ∧ (clsState s c = csOPEN) ∧ ((clsOf s c).entries.length < 4096) :=
  ⟨ClauseStaging_1_s, 15, (5 : Word), by decide +kernel⟩

def ClauseStaging_2_s : State := fld (CLS_STATE 15) CLS_STATE_STATE csOPEN (fld (CLS_COND 15) CLS_COND_ROLE 0 (fld (CLS_COND 15) CLS_COND_PEERS 3 (reg (CLS_GLOBAL_ID 15) 9 { State.reset with cls := [(15, { entries := List.replicate 4096 ⟨0, 0, 0, []⟩ })] })))
theorem witness_ClauseStaging_2 : ∃ (s : State) (c : Nat) (w : Word), (c < 16) ∧ (clsState s c = csOPEN) ∧ (4096 ≤ (clsOf s c).entries.length)
    ∧ (NoHomeWork s c) :=
  ⟨ClauseStaging_2_s, 15, (5 : Word), by decide +kernel⟩

def ClauseStaging_3_s : State := fld (CLS_STATE 0) CLS_STATE_STATE csOPEN (fld (CLS_COND 0) CLS_COND_ROLE 0 (fld (CLS_COND 0) CLS_COND_PEERS 3 (reg (CLS_GLOBAL_ID 0) 9 { State.reset with cls := [(0, {})] })))
theorem witness_ClauseStaging_3 : ∃ (s : State) (c : Nat), (c < 16) ∧ (clsState s c = csOPEN) :=
  ⟨ClauseStaging_3_s, 0, by decide +kernel⟩

def ClauseStaging_4_s : State := fld (CLS_STATE 0) CLS_STATE_STATE csARMED (fld (CLS_COND 0) CLS_COND_ROLE 0 (fld (CLS_COND 0) CLS_COND_PEERS 3 (reg (CLS_GLOBAL_ID 0) 9 { State.reset with cls := [(0, {})] })))
theorem witness_ClauseStaging_4 : ∃ (s : State) (c : Nat), (c < 16) ∧ (NoHomeWork s c)
    ∧ (clsState s c = csOPEN ∨ clsState s c = csSEALED ∨ clsState s c = csVALIDATING ∨ clsState s c = csARMED ∧ (clsOf s c).inGuard = false) :=
  ⟨ClauseStaging_4_s, 0, by decide +kernel⟩

def ClauseStaging_5_s : State := fld (CLS_STATE 0) CLS_STATE_STATE csSEALED (fld (CLS_COND 0) CLS_COND_ROLE 0 (fld (CLS_COND 0) CLS_COND_PEERS 3 (reg (CLS_GLOBAL_ID 0) 9 { State.reset with cls := [(0, {})] })))
theorem witness_ClauseStaging_5 : ∃ (s : State) (c : Nat), (c < 16) ∧ (NoHomeWork s c) ∧ (clsState s c = csOPEN ∨ clsState s c = csSEALED) :=
  ⟨ClauseStaging_5_s, 0, by decide +kernel⟩

def ClauseStaging_6_s : State := fld (CLS_STATE 0) CLS_STATE_STATE csCOMMITTED (fld (CLS_COND 0) CLS_COND_ROLE 0 (fld (CLS_COND 0) CLS_COND_PEERS 3 (reg (CLS_GLOBAL_ID 0) 9 { State.reset with cls := [(0, { passed := 1 })] })))
theorem witness_ClauseStaging_6 : ∃ (s : State) (c : Nat), (c < 16) ∧ (clsState s c = csABORTED ∨ clsState s c = csCOMMITTED) :=
  ⟨ClauseStaging_6_s, 0, by decide +kernel⟩

def ClauseStaging_7_s : State := fld (CLS_STATE 0) CLS_STATE_STATE csSEALED (fld (CLS_COND 0) CLS_COND_ROLE 0 (fld (CLS_COND 0) CLS_COND_PEERS 3 (reg (CLS_GLOBAL_ID 0) 9 { State.reset with cls := [(0, {})] })))
theorem witness_ClauseStaging_7 : ∃ (s : State) (c : Nat) (w : Word), (c < 16) ∧ (clsState s c = csSEALED) :=
  ⟨ClauseStaging_7_s, 0, (0 : Word), by decide +kernel⟩

def CoherentRequests_1_s : State := let h := home; { h with mem := { h.mem with doms := [(0, ⟨2, [5 * 4096 + 16, 9], [(0, 1)], false⟩)], dir := [] } }
def CoherentRequests_1_m : Msg := request tREAD 3 1 64 64 []
theorem witness_CoherentRequests_1 : ∃ (s : State) (prg : Nat) (m : Msg) (i : Nat) (e : Nat) (p : Nat), (AtHome s prg m Use.read i e p)
    ∧ (LineFree s m) ∧ (m.hdr.type = tREAD) :=
  ⟨CoherentRequests_1_s, 1, CoherentRequests_1_m, 1, 3, 64, by unfold AtHome; decide +kernel, ⟨_, _, rfl, rfl, by decide +kernel⟩, by decide +kernel⟩

def CoherentRequests_2_s : State := let h := home; { h with mem := { h.mem with doms := [(0, ⟨2, [5 * 4096 + 16, 9], [(0, 1)], false⟩)], dir := [(1, ⟨false, [5 * 4096 + 16], 0⟩)] } }
def CoherentRequests_2_m : Msg := request tREAD 3 3 64 64 []
def CoherentRequests_2_r : DirLine := ⟨false, [5 * 4096 + 16], 0⟩
theorem witness_CoherentRequests_2 : ∃ (s : State) (prg : Nat) (m : Msg) (i : Nat) (e : Nat) (p : Nat) (r : DirLine), (AtHome s prg m Use.read i e p) ∧ (m.hdr.type = tREAD) ∧ (m.hdr.op = 3) ∧ (LineFree { s with mem := { s.mem with dir := [] } } m) ∧ (dirOf s (msgAddr m % 2 ^ 52 / 64) = some r) ∧ (r.holders = [m.hdr.src]) :=
  ⟨CoherentRequests_2_s, 1, CoherentRequests_2_m, 1, 3, 64, CoherentRequests_2_r, by unfold AtHome; decide +kernel, by decide +kernel, by decide +kernel, ⟨_, _, rfl, rfl, by decide +kernel⟩, by decide +kernel⟩

def CoherentRequests_3_s : State := let h := home; { h with mem := { h.mem with doms := [(0, ⟨2, [5 * 4096 + 16, 9], [(0, 1)], false⟩)], dir := [(1, ⟨true, [5 * 4096 + 16], 0⟩)] } }
def CoherentRequests_3_m : Msg := request tWB 3 0 64 64 []
def CoherentRequests_3_r : DirLine := ⟨true, [5 * 4096 + 16], 0⟩
theorem witness_CoherentRequests_3 : ∃ (s : State) (prg : Nat) (m : Msg) (r : DirLine), (AtDir s prg m) ∧ (s.mem.txns = []) ∧ (m.hdr.type = tWB)
    ∧ (dirOf s (msgLine s m) = some r) ∧ (r.owned = true) ∧ (r.holders.contains m.hdr.src = true) :=
  ⟨CoherentRequests_3_s, 1, CoherentRequests_3_m, CoherentRequests_3_r, by decide +kernel⟩

def CoherentRequests_4_s : State := let h := home; { h with mem := { h.mem with doms := [(0, ⟨2, [5 * 4096 + 16, 9], [(0, 1)], false⟩)], dir := [(1, ⟨false, [9, 5 * 4096 + 16], 0⟩)] } }
def CoherentRequests_4_m : Msg := request tEVICT_CLEAN 3 0 64 64 []
theorem witness_CoherentRequests_4 : ∃ (s : State) (prg : Nat) (m : Msg), (AtDir s prg m) ∧ (s.mem.txns = []) ∧ (m.hdr.type = tEVICT_CLEAN)
    ∧ ((holders s (msgLine s m)).contains m.hdr.src = true) :=
  ⟨CoherentRequests_4_s, 1, CoherentRequests_4_m, by decide +kernel⟩

def CoherentRequests_5_s : State := let h := home; { h with mem := { h.mem with doms := [(0, ⟨2, [5 * 4096 + 16, 9], [(0, 1)], false⟩)], txns := [⟨1, none, 1, [(5 * 4096 + 16, 0), (9, 0)], [], none, [(8, 0)], [], false⟩] } }
def CoherentRequests_5_m : Msg := request tSNP_RSP 3 0 64 64 []
def CoherentRequests_5_t0 : LineTxn := ⟨1, none, 1, [(5 * 4096 + 16, 0), (9, 0)], [], none, [(8, 0)], [], false⟩
theorem witness_CoherentRequests_5 : ∃ (s : State) (prg : Nat) (m : Msg) (t0 : LineTxn), (AtDir s prg m) ∧ (s.mem.txns = [t0])
    ∧ (m.hdr.type = tSNP_RSP) ∧ (t0.line = msgLine s m) ∧ (m.hdr.op = 0) ∧ ((t0.ask.any fun (x : Nat × Nat) => x.1 == m.hdr.src) = true)
    ∧ (List.filter (fun (x : Nat × Nat) => x.1 != m.hdr.src) t0.ask ≠ []) :=
  ⟨CoherentRequests_5_s, 1, CoherentRequests_5_m, CoherentRequests_5_t0, by decide +kernel⟩

def CoherentRequests_6_s : State := let h := home; { h with mem := { h.mem with doms := [(0, ⟨2, [5 * 4096 + 16, 9], [(0, 1)], false⟩)], txns := [⟨1, none, 1, [(5 * 4096 + 16, 0), (9, 0)], [], none, [(8, 0)], [], false⟩] } }
def CoherentRequests_6_t0 : LineTxn := ⟨1, none, 1, [(5 * 4096 + 16, 0), (9, 0)], [], none, [(8, 0)], [], false⟩
theorem witness_CoherentRequests_6 : ∃ (s : State) (l : Nat) (a : Nat) (t0 : LineTxn), (txnOf s l = some t0)
    ∧ ((t0.ask.any fun (x : Nat × Nat) => x.1 == a && decide (x.2 ≤ s.tim.ref)) = true) :=
  ⟨CoherentRequests_6_s, 1, 9, CoherentRequests_6_t0, by decide +kernel⟩

def CoherentRequests_7_s : State := let h := home; { h with mem := { h.mem with doms := [(0, ⟨2, [5 * 4096 + 16, 9], [(0, 1)], false⟩)], txns := [⟨1, none, 1, [(5 * 4096 + 16, 0), (9, 0)], [], none, [(8, 0)], [], false⟩] } }
def CoherentRequests_7_t0 : LineTxn := ⟨1, none, 1, [(5 * 4096 + 16, 0), (9, 0)], [], none, [(8, 0)], [], false⟩
theorem witness_CoherentRequests_7 : ∃ (s : State) (l : Nat) (a : Nat) (t0 : LineTxn), (s.flt.safe = false) ∧ (s.mem.reqs = [])
    ∧ (s.mem.txns = [t0]) ∧ (t0.line = l) ∧ ((t0.wbs.any fun (x : Nat × Nat) => x.1 == a && decide (x.2 ≤ s.tim.ref)) = true) ∧ (t0.ask ≠ []) :=
  ⟨CoherentRequests_7_s, 1, 8, CoherentRequests_7_t0, by decide +kernel⟩

def CoherentRequests_8_m : Msg := request tFENCE 3 0 0 0 []
theorem witness_CoherentRequests_8 : ∃ (s : State) (prg : Nat) (m : Msg), (MemIdle s) ∧ (ToSwitch s m) ∧ (m.hdr.type = tFENCE) ∧ (m.hdr.tc = 3)
    ∧ (m.hdr.op = 0) ∧ (partFenced s (reqPart m) = false) ∧ (fenceAhead s (unitOut prg m.hdr) m = []) ∧ (placesOf s m.hdr.src = []) :=
  ⟨home, 1, CoherentRequests_8_m, by decide +kernel⟩

def CollectiveWork_1_s : State := fld CHP_SWITCH_ID CHP_SWITCH_ID_ID 5 { State.reset with colls := [(4, { state := 1, desc := (leBytes 4 (7 * 2 ^ 16) ++ leBytes 4 0 ++ leBytes 4 7 ++ leBytes 4 8 ++ leBytes 4 4 ++ leBytes 2 1 ++ leBytes 2 1 ++ leBytes 4 0 ++ leBytes 4 77 ++ zeros 32) })], sets := [⟨4, 0, 2, 0, [], [], 0, false⟩], ground := { mcast := [(1, leBytes 32 3 ++ zeros 32)] } }
def CollectiveWork_1_c : Coll := { state := 1, desc := (leBytes 4 (7 * 2 ^ 16) ++ leBytes 4 0 ++ leBytes 4 7 ++ leBytes 4 8 ++ leBytes 4 4 ++ leBytes 2 1 ++ leBytes 2 1 ++ leBytes 4 0 ++ leBytes 4 77 ++ zeros 32) }
def CollectiveWork_1_m : Msg := ⟨{ type := tTILE, sint := false, spray := true, dint := true, dst := 5 * 4096, src := 5 * 4096 + 16 }, leBytes 4 (7 + 7 * 2 ^ 24) ++ leBytes 4 2 ++ leBytes 2 0 ++ zeros 2 ++ leBytes 4 2 ++ [0, 0]⟩
def CollectiveWork_1_x : TileSet := ⟨4, 0, 2, 0, [], [], 0, false⟩
theorem witness_CollectiveWork_1 : ∃ (s : State) (prg : Nat) (id : Nat) (k : Nat) (c : Coll) (m : Msg) (x : TileSet), (m.hdr.dint = true)
    ∧ (m.hdr.dst % 4096 = 0) ∧ (m.hdr.type = tTILE) ∧ (m.hdr.tc = 7 ∨ m.hdr.tc = 0) ∧ (GroundIdle s)
    ∧ (List.find? (fun (e : Nat × Coll) => cdContrib e.2.desc == tmStream m) (openColls s) = some (id, c)) ∧ (collOf s id = c)
    ∧ (cdSched c.desc = false) ∧ (memberOf s c.desc m.hdr = some k) ∧ (isChild s c.desc k = false) ∧ (tmTile m < cdTiles c.desc)
    ∧ (cdReducing c.desc = true) ∧ (setAt s id (tmTile m) = some x) ∧ (x.coll = id) ∧ (k ∉ x.seen)
    ∧ (x.contribs + 1 ≠ collMembers (bump s GND_COLL_CONTRIB) c.desc) :=
  ⟨CollectiveWork_1_s, 0, 4, 1, CollectiveWork_1_c, CollectiveWork_1_m, CollectiveWork_1_x, by decide +kernel⟩

def CollectiveWork_2_s : State := fld CHP_SWITCH_ID CHP_SWITCH_ID_ID 5 { State.reset with colls := [(4, { state := 1, desc := (leBytes 4 (7 * 2 ^ 16) ++ leBytes 4 0 ++ leBytes 4 7 ++ leBytes 4 8 ++ leBytes 4 4 ++ leBytes 2 1 ++ leBytes 2 1 ++ leBytes 4 0 ++ leBytes 4 77 ++ zeros 32) })], sets := [⟨4, 0, 2, 0, [], [], 0, false⟩], ground := { mcast := [(1, leBytes 32 3 ++ zeros 32)] }, waitContribs := [⟨4, 2, 1, 0, 7, [0, 0], 1, 1, []⟩] }
def CollectiveWork_2_w : WaitContrib := ⟨4, 2, 1, 0, 7, [0, 0], 1, 1, []⟩
def CollectiveWork_2_x : TileSet := ⟨4, 0, 2, 0, [], [], 0, false⟩
theorem witness_CollectiveWork_2 : ∃ (s : State) (w : WaitContrib) (x : TileSet), (s.waitContribs = [w]) ∧ (GroundIdle s)
    ∧ (setAt s w.coll w.tile = some x) ∧ (x.coll = w.coll) ∧ (cdSched (collOf s w.coll).desc = false) ∧ (w.member ∉ x.seen)
    ∧ (x.contribs + 1 ≠ collMembers (bump { s with waitContribs := [] } GND_COLL_CONTRIB) (collOf s w.coll).desc) :=
  ⟨CollectiveWork_2_s, CollectiveWork_2_w, CollectiveWork_2_x, by decide +kernel⟩

def CollectiveWork_4_s : State := { State.reset with mem := { cmbs := [(2, { cache := [⟨9, false, 1, 3, 2, some (0, none), 0⟩] })] } }
theorem witness_CollectiveWork_4 : ∃ (s : State) (n : Nat) (src : Nat) (gen : Nat) (id : Nat) (i : Bool), s.mem.reqs = [] :=
  ⟨CollectiveWork_4_s, 2, 9, 1, 3, false, by decide +kernel⟩

def CollectiveWork_5_s : State := fld CHP_SWITCH_ID CHP_SWITCH_ID_ID 5 { State.reset with colls := [(4, { state := 1, desc := (leBytes 4 (7 * 2 ^ 16) ++ leBytes 4 0 ++ leBytes 4 7 ++ leBytes 4 8 ++ leBytes 4 4 ++ leBytes 2 1 ++ leBytes 2 0 ++ leBytes 4 0 ++ leBytes 4 77 ++ zeros 32) })], sets := [⟨4, 0, 2, 0, [], [], 0, false⟩], ground := { mcast := [(1, leBytes 32 3 ++ zeros 32)] } }
theorem witness_CollectiveWork_5 : ∃ (s : State) (id : Nat) (tile : Nat), ((setAt s id tile).isSome = true) ∧ (CollAlone s id)
    ∧ (cdSched (collOf s id).desc = false) :=
  ⟨CollectiveWork_5_s, 4, 2, by decide +kernel⟩

def CollectiveWork_6_s : State := fld CHP_SWITCH_ID CHP_SWITCH_ID_ID 5 { State.reset with colls := [(4, { state := 1, desc := (leBytes 4 (7 * 2 ^ 16) ++ leBytes 4 0 ++ leBytes 4 7 ++ leBytes 4 8 ++ leBytes 4 4 ++ leBytes 2 1 ++ leBytes 2 0 ++ leBytes 4 0 ++ leBytes 4 77 ++ zeros 32) })], sets := [⟨4, 0, 2, 0, [], [], 0, false⟩], ground := { mcast := [(1, leBytes 32 3 ++ zeros 32)] } }
def CollectiveWork_6_c : Coll := { state := 1, desc := (leBytes 4 (7 * 2 ^ 16) ++ leBytes 4 0 ++ leBytes 4 7 ++ leBytes 4 8 ++ leBytes 4 4 ++ leBytes 2 1 ++ leBytes 2 0 ++ leBytes 4 0 ++ leBytes 4 77 ++ zeros 32) }
def CollectiveWork_6_m : Msg := message tCTRL 0 (leBytes 4 77 ++ zeros 2 ++ leBytes 1 5)
theorem witness_CollectiveWork_6 : ∃ (s : State) (prg : Nat) (id : Nat) (c : Coll) (m : Msg), (CtrlMsg s m)
    ∧ (List.find? (fun (e : Nat × Coll) => cdTag e.2.desc == leAt m.pay 0 4) (openColls s) = some (id, c)) ∧ (CollAlone s id) :=
  ⟨CollectiveWork_6_s, 0, 4, CollectiveWork_6_c, CollectiveWork_6_m, by decide +kernel⟩

def CommandsLeaveTheQueue_1_s : State := { State.reset with pending := [.timNowRead, .hqGo] }
def CommandsLeaveTheQueue_1_t : State := match step CommandsLeaveTheQueue_1_s with | .next t => t | _ => CommandsLeaveTheQueue_1_s
theorem witness_CommandsLeaveTheQueue_1 : ∃ (s : State) (t : State), step s = Host.Outcome.next t :=
  ⟨CommandsLeaveTheQueue_1_s, CommandsLeaveTheQueue_1_t, rfl⟩

theorem witness_ControlMemoryLaw_2 : ∃ (s : State) (a : Nat) (d : Bytes) (b : Nat), b < a ∨ a + List.length d ≤ b :=
  ⟨State.reset, 5, [1, 2], 7, by decide +kernel⟩

theorem witness_CsrAddresses_3 : ∃ (g : Nat) (u : Nat) (p : Nat) (o : Nat), (u < 4096) ∧ (p < 16) ∧ (o < 4096) :=
  ⟨21, 4095, 15, 4095, by decide +kernel⟩

theorem witness_CsrWrites_1 : ∃ (s : State) (a : Nat) (size : Nat) (w : Word), size ≠ 8 ∨ regRow? a = none ∧ guardOf s a = none :=
  ⟨State.reset, 0, 8, (5 : Word), by decide +kernel⟩

theorem witness_CsrWrites_2 : ∃ (s : State) (n : Nat) (w : Word), (n < 16) ∧ (guardOf s (SHT_SLICE n) = none) ∧ (unitParked s grSHT n = false) :=
  ⟨State.reset, 15, (0x1FF : Word), by decide +kernel⟩

def DataFlitsInOrder_1_s : State := linked 3 lsACTIVE {}
def DataFlitsInOrder_1_f : Bytes := flit [1] 0 kDATA false
theorem witness_DataFlitsInOrder_1 : ∃ (s : State) (p : Nat) (f : Bytes), (s.flt.safe = false) ∧ (linkState s p = lsACTIVE) ∧ (gangBase s p = p)
    ∧ (gangWidth s p = 1) ∧ (flitOk f = true) ∧ ((trailerOf f).kind = kDATA) ∧ ((trailerOf f).ackValid = false)
    ∧ ((trailerOf f).lseq = ((portOf s p).lack + 1) % 256) :=
  ⟨DataFlitsInOrder_1_s, 3, DataFlitsInOrder_1_f, by simp only [flitOk, crc32c_eq]; decide +kernel⟩

def DataFlitsInOrder_2_s : State := linked 3 lsACTIVE { lack := 254 }
def DataFlitsInOrder_2_f : Bytes := flit [1] 0 kDATA false
theorem witness_DataFlitsInOrder_2 : ∃ (s : State) (p : Nat) (f : Bytes), (s.flt.safe = false) ∧ (linkState s p = lsACTIVE)
    ∧ ((portOf s p).discarding = false) ∧ (flitOk f = true) ∧ ((trailerOf f).kind = kDATA) ∧ ((trailerOf f).ackValid = false)
    ∧ ((trailerOf f).lseq ≠ ((portOf s p).lack + 1) % 256) :=
  ⟨DataFlitsInOrder_2_s, 3, DataFlitsInOrder_2_f, by simp only [flitOk, crc32c_eq]; decide +kernel⟩

def DataFlitsInOrder_3_s : State := linked 3 lsACTIVE {}
def DataFlitsInOrder_3_f : Bytes := zeros 256
theorem witness_DataFlitsInOrder_3 : ∃ (s : State) (p : Nat) (f : Bytes), (linkState s p = lsACTIVE) ∧ ((portOf s p).discarding = false)
    ∧ (flitOk f = false) :=
  ⟨DataFlitsInOrder_3_s, 3, DataFlitsInOrder_3_f, by simp only [flitOk, crc32c_eq]; decide +kernel⟩

def DescriptorsRun_1_s : State := running 2 (image (station 14 0 7 0 7 0 0) [bobEntry 5 2] [0] []) {}
theorem witness_DescriptorsRun_1 : ∃ (s : State) (b : Nat), BobRuns s b 0 :=
  ⟨DescriptorsRun_1_s, 5, by decide +kernel⟩

def DescriptorsRun_2_s : State := running 2 (image (station 14 0 7 0 7 0 0) [bobEntry 5 2] [2 + 3 * 2 ^ 32 + 5 * 2 ^ 128 + 7 * 2 ^ 192] []) { stack := [⟨0, 0, 2, 1, 1⟩, ⟨0, 0, 2, 1, 1⟩, ⟨0, 0, 2, 1, 1⟩] }
theorem witness_DescriptorsRun_2 : ∃ (s : State) (b : Nat), (BobRuns s b 2) ∧ ((bobOf s b).stack.length < 4) :=
  ⟨DescriptorsRun_2_s, 5, by decide +kernel⟩

def DescriptorsRun_3_s : State := running 2 (image (station 14 0 7 0 7 0 0) [bobEntry 5 2] [3] []) { stack := [⟨0, 0, 2, 1, 1⟩] }
def DescriptorsRun_3_l : LoopLvl := ⟨0, 0, 2, 1, 1⟩
theorem witness_DescriptorsRun_3 : ∃ (s : State) (b : Nat) (r : List LoopLvl) (l : LoopLvl), (BobRuns s b 3) ∧ ((bobOf s b).stack = r ++ [l])
    ∧ (l.i + 1 < l.count) :=
  ⟨DescriptorsRun_3_s, 5, [], DescriptorsRun_3_l, by decide +kernel⟩

def DescriptorsRun_4_s : State := running 2 (image (station 14 0 7 0 7 0 0) [bobEntry 5 2] [3] []) { stack := [⟨0, 1, 2, 1, 1⟩] }
def DescriptorsRun_4_l : LoopLvl := ⟨0, 1, 2, 1, 1⟩
theorem witness_DescriptorsRun_4 : ∃ (s : State) (b : Nat) (r : List LoopLvl) (l : LoopLvl), (BobRuns s b 3) ∧ ((bobOf s b).stack = r ++ [l])
    ∧ (l.count ≤ l.i + 1) :=
  ⟨DescriptorsRun_4_s, 5, [], DescriptorsRun_4_l, by decide +kernel⟩

def DescriptorsRun_5_s : State := running 1 (image (station 14 0 7 0 7 0 0) [bobEntry 5 2] [4] []) {}
theorem witness_DescriptorsRun_5 : ∃ (s : State) (b : Nat), (BobRuns s b 4) ∧ (bobSched s b = true) ∧ ((bobOf s b).steps = []) :=
  ⟨DescriptorsRun_5_s, 5, by decide +kernel⟩

def DescriptorsRun_6_s : State := running 2 (image (station 14 0 7 0 7 0 0) [bobEntry 5 2] [5] []) {}
theorem witness_DescriptorsRun_6 : ∃ (s : State) (b : Nat), (BobRuns s b 5) ∧ ((bobOf s b).steps = []) :=
  ⟨DescriptorsRun_6_s, 5, by decide +kernel⟩

def DeviceTime_1_s : State := { State.reset with clk := ⟨7, 65535⟩ }
theorem witness_DeviceTime_1 : ∃ (s : State), s.clk.frac < 2 ^ 16 :=
  ⟨DeviceTime_1_s, by decide +kernel⟩

theorem witness_DeviceTime_2 : ∃ (s : State) (w : Word), (guardOf s TIM_SET = none) ∧ (anyBound s = false) :=
  ⟨State.reset, (77 : Word), by decide +kernel⟩

def DeviceTime_3_s : State := fld (TIM_DOM_ID 4) TIM_DOM_ID_BOUND 1 State.reset
theorem witness_DeviceTime_3 : ∃ (s : State) (w : Word), (guardOf s TIM_SET = none) ∧ (anyBound s = true) :=
  ⟨DeviceTime_3_s, (77 : Word), by decide +kernel⟩

def DeviceTime_4_s : State := fld TIM_SOURCE TIM_SOURCE_KIND 1 State.reset
theorem witness_DeviceTime_4 : ∃ (s : State) (off : Int), rdF s TIM_SOURCE TIM_SOURCE_KIND = 1 :=
  ⟨DeviceTime_4_s, (-5), by decide +kernel⟩

def DeviceTime_5_s : State := fld TIM_SOURCE TIM_SOURCE_KIND 2 { State.reset with clk := ⟨3000000000, 0⟩ }
theorem witness_DeviceTime_5 : ∃ (s : State), (rdF s TIM_SOURCE TIM_SOURCE_KIND = 2) ∧ (s.clk.ns < 2 ^ 64) ∧ (s.clk.ns % 1000000000 = 0)
    ∧ (s.clk.frac = 0) :=
  ⟨DeviceTime_5_s, by decide +kernel⟩

def ExactAccumulationIsOrderFree_1_a : Acc320 := {}
def ExactAccumulationIsOrderFree_1_l : List Val := [.fin false 3 1, .nan, .fin true 1 2]
def ExactAccumulationIsOrderFree_1_k : List Val := [.nan, .fin true 1 2, .fin false 3 1]
theorem witness_ExactAccumulationIsOrderFree_1 : ∃ (a : Acc320) (l : List Val) (k : List Val), (a.ovr = false) ∧ (a.count + l.length ≤ 2 ^ 32)
    ∧ (l.Perm k) :=
  ⟨ExactAccumulationIsOrderFree_1_a, ExactAccumulationIsOrderFree_1_l, ExactAccumulationIsOrderFree_1_k, by decide +kernel⟩

def ExactAccumulationIsOrderFree_2_a : Acc320 := { a := 5, count := 2 ^ 32 - 2 }
def ExactAccumulationIsOrderFree_2_l : List Val := [.fin false 3 1, .inf true]
theorem witness_ExactAccumulationIsOrderFree_2 : ∃ (a : Acc320) (l : List Val), (a.ovr = false) ∧ (a.count + l.length ≤ 2 ^ 32) :=
  ⟨ExactAccumulationIsOrderFree_2_a, ExactAccumulationIsOrderFree_2_l, by decide +kernel⟩

def ExactAccumulationIsOrderFree_3_a : Acc320 := { a := 5, count := 2 ^ 31 }
def ExactAccumulationIsOrderFree_3_b : Acc320 := { a := 7, count := 2 ^ 31, pinf := true }
theorem witness_ExactAccumulationIsOrderFree_3 : ∃ (a : Acc320) (b : Acc320), (a.ovr = false) ∧ (b.ovr = false) ∧ (a.count + b.count ≤ 2 ^ 32) :=
  ⟨ExactAccumulationIsOrderFree_3_a, ExactAccumulationIsOrderFree_3_b, by decide +kernel⟩

def FaultsAndTests_1_s : State := fld (G_PROGRESS_WINDOW grSHT 15 0) G_PROGRESS_WINDOW_WINDOW 5 { State.reset with sht := { qps := [(32767, { places := [⟨0, none, none, none, 0, []⟩] })] } }
theorem witness_FaultsAndTests_1 : ∃ (s : State) (g : Nat) (u : Nat), (u < 4096)
    ∧ (((pageSources g u 0).any fun (y : Nat × Nat) => y.1 == 15) = true) ∧ (rdF s (G_PROGRESS_WINDOW g u 0) G_PROGRESS_WINDOW_WINDOW ≠ 0)
    ∧ (pendingWork s g u = true) ∧ (s.flt.causes = []) ∧ (stickySet s { g := g, p := 0, bit := 15 : Src } u = false) :=
  ⟨FaultsAndTests_1_s, grSHT, 15, by decide +kernel⟩

theorem witness_FaultsAndTests_2 : ∃ (s : State) (hub : Nat) (link : Nat) (m : Nat), (hub < 4) ∧ (link < 4) ∧ (m < bundleSize link) :=
  ⟨State.reset, 3, 3, 0, by decide +kernel⟩

def FaultsAndTests_3_s : State := { State.reset with flt := { State.reset.flt with tests := [⟨2, 34, 7⟩] } }
theorem witness_FaultsAndTests_3 : ∃ (s : State) (k : Nat) (n : Nat) (u : Nat) (fails : Nat) (b : Bool), (k ∈ [2, 3, 4])
    ∧ (s.flt.tests = [{ kind := k, flt := n, unit := u : TestRun }]) ∧ (fails < 2 ^ 32) :=
  ⟨FaultsAndTests_3_s, 2, 34, 7, 65535, true, by decide +kernel⟩

def FaultsAndTests_4_s : State := { State.reset with flt := { State.reset.flt with tests := [⟨1, 33, 7⟩] } }
theorem witness_FaultsAndTests_4 : ∃ (s : State) (n : Nat) (u : Nat) (fails : Nat) (b : Bool), (s.flt.tests = [{ kind := 1, flt := n, unit := u : TestRun }]) ∧ (fails < 2 ^ 32) :=
  ⟨FaultsAndTests_4_s, 33, 7, 5, false, by decide +kernel⟩

def FaultsAndTests_5_s : State := { State.reset with flt := { State.reset.flt with tests := [⟨5, 34, 7⟩] } }
theorem witness_FaultsAndTests_5 : ∃ (s : State) (n : Nat) (u : Nat) (fails : Nat) (b : Bool), s.flt.tests = [{ kind := 5, flt := n, unit := u : TestRun }] :=
  ⟨FaultsAndTests_5_s, 34, 7, 5, false, by decide +kernel⟩

def FaultsAndTests_6_w : Word := FLT_DUMP_CTL_SIZE_MIB.set 1 1
theorem witness_FaultsAndTests_6 : ∃ (s : State) (w : Word), (guardOf s FLT_DUMP_CTL = none) ∧ (rdBit s FLT_DUMP_CTL FLT_DUMP_CTL_BUSY = false)
    ∧ (FLT_DUMP_CTL_SIZE_MIB.get w ≠ 0) :=
  ⟨State.reset, FaultsAndTests_6_w, by decide +kernel⟩

theorem witness_FaultsAndTests_7 : ∃ (s : State) (w : Word), (guardOf s FLT_DUMP_CTL = none) ∧ (rdBit s FLT_DUMP_CTL FLT_DUMP_CTL_BUSY = false)
    ∧ (FLT_DUMP_CTL_SIZE_MIB.get w = 0) :=
  ⟨State.reset, (1 : Word), by decide +kernel⟩

def FaultsAndTests_8_s : State := fld FLT_DUMP_CTL FLT_DUMP_CTL_SIZE_MIB 1 (fld FLT_DUMP_CTL FLT_DUMP_CTL_BUSY 1 { State.reset with flt := { State.reset.flt with dump := some {} } })
def FaultsAndTests_8_x : Dump := {}
theorem witness_FaultsAndTests_8 : ∃ (s : State) (x : Dump), s.flt.dump = some x :=
  ⟨FaultsAndTests_8_s, FaultsAndTests_8_x, by decide +kernel⟩

def FaultsAndTests_9_s : State := fld FLT_DUMP_CTL FLT_DUMP_CTL_SIZE_MIB 1 (fld FLT_DUMP_CTL FLT_DUMP_CTL_BUSY 1 { State.reset with flt := { State.reset.flt with dump := some { todo := [csrAddr grCHP 0 0 0] } } })
def FaultsAndTests_9_x : Dump := { todo := [csrAddr grCHP 0 0 0] }
def FaultsAndTests_9_p : Nat := csrAddr grCHP 0 0 0
theorem witness_FaultsAndTests_9 : ∃ (s : State) (x : Dump) (p : Nat), (s.flt.dump = some x) ∧ (x.todo = [p]) ∧ (dumpFits s x 0 = true) :=
  ⟨FaultsAndTests_9_s, FaultsAndTests_9_x, FaultsAndTests_9_p, by decide +kernel⟩

def FlitRoundTrip_1_g : Seg := ⟨{ type := 15, dst := 2 ^ 24 - 1, hcrc := 65535 }, zeros 232⟩
def FlitRoundTrip_1_t : Trailer := ⟨255, 255, 255, 7, 7, true⟩
theorem witness_FlitRoundTrip_1 : ∃ (g : Seg) (t : Trailer), (g.hdr.fits = true) ∧ (List.length g.pay = 232) ∧ (t.lseq < 256) ∧ (t.lack < 256)
    ∧ (t.ccount < 256) ∧ (t.ctc < 8) ∧ (t.kind < 8) :=
  ⟨FlitRoundTrip_1_g, FlitRoundTrip_1_t, by decide +kernel⟩

def HeaderRoundTrip_1_h : Hdr := ⟨15, true, true, true, true, 7, 15, true, 2 ^ 24 - 1, 2 ^ 24 - 1, 65535, 255, 255, 65535, 65535⟩
theorem witness_HeaderRoundTrip_1 : ∃ (h : Hdr), h.fits = true :=
  ⟨HeaderRoundTrip_1_h, by decide +kernel⟩

def HomesInDoubtAndPublications_1_s : State := reg MRG_HQ_ADDR (5 * 2 ^ 52 + 64) home
theorem witness_HomesInDoubtAndPublications_1 : ∃ (s : State), (guardOf s MRG_HQ_CTL = none) ∧ (rdBit s MRG_HQ_CTL MRG_HQ_CTL_BUSY = false)
    ∧ (BitVec.toNat (rdReg s MRG_HQ_ADDR) / 2 ^ 52 % 4096 = ownId s) :=
  ⟨HomesInDoubtAndPublications_1_s, by decide +kernel⟩

def HomesInDoubtAndPublications_2_s : State := let h := home; { h with mem := { h.mem with hosted := [⟨7, 7 * 2 ^ 52, 4, 2 ^ 30, 4096, 0, 2, false, hsDOUBT, 0, 0, 0, 0⟩], devReqs := [⟨9, 0, 3, 7 * 2 ^ 52, 0⟩] } }
def HomesInDoubtAndPublications_2_a : Nat := 7 * 2 ^ 52
theorem witness_HomesInDoubtAndPublications_2 : ∃ (s : State) (a : Nat), (s.mem.hosted.any fun (h : Hosted) => h.addr == a && h.state == hsDOUBT) = true :=
  ⟨HomesInDoubtAndPublications_2_s, HomesInDoubtAndPublications_2_a, by decide +kernel⟩

def HomesInDoubtAndPublications_3_s : State := let h := home; { h with mem := { h.mem with hosted := [⟨7, 7 * 2 ^ 52, 4, 2 ^ 30, 4096, 0, 2, false, hsDOUBT, 0, 0, 0, 0⟩], devReqs := [⟨9, 0, 3, 7 * 2 ^ 52, 0⟩] } }
def HomesInDoubtAndPublications_3_m : Msg := message tCTRL 0 (leBytes 8 9 ++ leBytes 8 (5 * 2 ^ 16 + 4 * 2 ^ 8 + 1) ++ zeros 8)
def HomesInDoubtAndPublications_3_h : Hosted := ⟨7, 7 * 2 ^ 52, 4, 2 ^ 30, 4096, 0, 2, false, hsDOUBT, 0, 0, 0, 0⟩
def HomesInDoubtAndPublications_3_q : DevReq := ⟨9, 0, 3, 7 * 2 ^ 52, 0⟩
theorem witness_HomesInDoubtAndPublications_3 : ∃ (s : State) (prg : Nat) (m : Msg) (h : Hosted) (q : DevReq), (CtrlMsg s m) ∧ (s.mem.hosted = [h])
    ∧ (h.state = hsDOUBT) ∧ (h.addr = q.a) ∧ (s.mem.devReqs = [q]) ∧ (q.kind = 3) ∧ (q.id = leAt m.pay 0 4)
    ∧ (bslice m.pay 8 16 ≠ List.replicate 16 255) ∧ (entHome (bslice m.pay 8 16) = ownId s) ∧ (entGen (bslice m.pay 8 16) = h.gen) :=
  ⟨HomesInDoubtAndPublications_3_s, 0, HomesInDoubtAndPublications_3_m, HomesInDoubtAndPublications_3_h, HomesInDoubtAndPublications_3_q, by decide +kernel⟩

def HomesInDoubtAndPublications_4_s : State := let h := home; { h with mem := { h.mem with hosted := [⟨7, 7 * 2 ^ 52, 4, 2 ^ 30, 4096, 0, 2, false, hsDOUBT, 0, 0, 0, 0⟩], devReqs := [⟨9, 0, 3, 7 * 2 ^ 52, 0⟩] } }
def HomesInDoubtAndPublications_4_m : Msg := message tCTRL 0 (leBytes 8 9 ++ leBytes 8 (6 * 2 ^ 16 + 4 * 2 ^ 8 + 1) ++ zeros 8)
def HomesInDoubtAndPublications_4_h : Hosted := ⟨7, 7 * 2 ^ 52, 4, 2 ^ 30, 4096, 0, 2, false, hsDOUBT, 0, 0, 0, 0⟩
def HomesInDoubtAndPublications_4_q : DevReq := ⟨9, 0, 3, 7 * 2 ^ 52, 0⟩
theorem witness_HomesInDoubtAndPublications_4 : ∃ (s : State) (prg : Nat) (m : Msg) (h : Hosted) (q : DevReq), (CtrlMsg s m) ∧ (s.mem.hosted = [h])
    ∧ (h.state = hsDOUBT) ∧ (h.addr = q.a) ∧ (s.mem.devReqs = [q]) ∧ (q.kind = 3) ∧ (q.id = leAt m.pay 0 4)
    ∧ (bslice m.pay 8 16 ≠ List.replicate 16 255) ∧ (entHome (bslice m.pay 8 16) ≠ ownId s) :=
  ⟨HomesInDoubtAndPublications_4_s, 0, HomesInDoubtAndPublications_4_m, HomesInDoubtAndPublications_4_h, HomesInDoubtAndPublications_4_q, by decide +kernel⟩

def HomesInDoubtAndPublications_5_m : Msg := message tCTRL 0 (leBytes 8 (5 * 2 ^ 52) ++ leBytes 4 3)
theorem witness_HomesInDoubtAndPublications_5 : ∃ (s : State) (prg : Nat) (m : Msg), CtrlMsg s m :=
  ⟨home, 0, HomesInDoubtAndPublications_5_m, by decide +kernel⟩

def HomesInDoubtAndPublications_6_m : Msg := message tCTRL 0 (leBytes 8 11 ++ leBytes 4 0xFFFFFFFF ++ leBytes 4 3)
theorem witness_HomesInDoubtAndPublications_6 : ∃ (s : State) (prg : Nat) (m : Msg), (CtrlMsg s m)
    ∧ (pubLookup s (leAt m.pay 0 8) (leAt m.pay 8 4) (srcPart s m.hdr) = none) :=
  ⟨home, 0, HomesInDoubtAndPublications_6_m, by decide +kernel⟩

def HomesInDoubtAndPublications_7_s : State := let h := home; { h with mem := { h.mem with hosted := [⟨7, 7 * 2 ^ 52, 4, 2 ^ 30, 4096, 0, 2, false, hsDOUBT, 0, 0, 0, 0⟩], devReqs := [⟨9, 0, 2, 0, 0⟩] } }
def HomesInDoubtAndPublications_7_m : Msg := message tCTRL 0 (leBytes 8 9 ++ zeros 24)
def HomesInDoubtAndPublications_7_q : DevReq := ⟨9, 0, 2, 0, 0⟩
theorem witness_HomesInDoubtAndPublications_7 : ∃ (s : State) (prg : Nat) (m : Msg) (q : DevReq), (CtrlMsg s m) ∧ (s.mem.devReqs = [q])
    ∧ (q.kind = 2) ∧ (q.id = leAt m.pay 0 4) :=
  ⟨HomesInDoubtAndPublications_7_s, 0, HomesInDoubtAndPublications_7_m, HomesInDoubtAndPublications_7_q, by decide +kernel⟩

def HomesInDoubtAndPublications_8_s : State := { State.reset with mem := { pubs := [(0, ⟨11, 3, 1, 5 * 2 ^ 52, 4096, 2, 8, 1⟩)] } }
def HomesInDoubtAndPublications_8_p : Pub := ⟨11, 3, 1, 5 * 2 ^ 52, 4096, 2, 8, 1⟩
theorem witness_HomesInDoubtAndPublications_8 : ∃ (s : State) (n : Nat) (v : Nat) (q : Nat) (p : Pub), pubLookup s n v (some q) = some p :=
  ⟨HomesInDoubtAndPublications_8_s, 11, 0xFFFFFFFF, 3, HomesInDoubtAndPublications_8_p, by decide +kernel⟩

def HostReadsAndMailbox_1_s : State := fld (CXP_HOST_CFG 15) CXP_HOST_CFG_LD_MODE 1 (fld (CXP_HOST_CFG 15) CXP_HOST_CFG_SLOT_LOG2 20 (fld (CXP_LD_VALID 15) CXP_LD_VALID_LD 0x8001 (fld (CXP_ROLE 15) CXP_ROLE_ROLE 1 (fld (G_CTL grCXP 15 0) G_CTL_ENABLE 1 (State.reset)))))
def HostReadsAndMailbox_1_dpa : Nat := 4096 * 64 - 1
theorem witness_HostReadsAndMailbox_1 : ∃ (s : State) (c : Nat) (ld : Nat) (dpa : Nat), (LdServed s c ld) ∧ (unitHeld s grCXP c = false)
    ∧ (s.flt.safe = false) ∧ (dpa < 4096 * 64) ∧ (18 ≤ slotLog s c) :=
  ⟨HostReadsAndMailbox_1_s, 15, 15, HostReadsAndMailbox_1_dpa, by decide +kernel⟩

def HostReadsAndMailbox_2_s : State := fld (CXP_HOST_CFG 15) CXP_HOST_CFG_LD_MODE 1 (fld (CXP_HOST_CFG 15) CXP_HOST_CFG_SLOT_LOG2 20 (fld (CXP_LD_VALID 15) CXP_LD_VALID_LD 0x8001 (fld (CXP_ROLE 15) CXP_ROLE_ROLE 1 (fld (G_CTL grCXP 15 0) G_CTL_ENABLE 1 (State.reset)))))
def HostReadsAndMailbox_2_dpa : Nat := 2 ^ 20
theorem witness_HostReadsAndMailbox_2 : ∃ (s : State) (c : Nat) (ld : Nat) (dpa : Nat), (LdServed s c ld) ∧ (unitHeld s grCXP c = false)
    ∧ (s.flt.safe = false) ∧ (0 < dpa / 64 * 64 / 2 ^ slotLog s c) ∧ (dirPub s c ld (dpa / 64 * 64 / 2 ^ slotLog s c - 1) = none) :=
  ⟨HostReadsAndMailbox_2_s, 15, 0, HostReadsAndMailbox_2_dpa, by decide +kernel⟩

def HostReadsAndMailbox_3_s : State := fld (CXP_HOST_CFG 3) CXP_HOST_CFG_LD_MODE 1 (fld (CXP_HOST_CFG 3) CXP_HOST_CFG_SLOT_LOG2 20 (fld (CXP_LD_VALID 3) CXP_LD_VALID_LD 0x8001 (fld (CXP_ROLE 3) CXP_ROLE_ROLE 1 (fld (G_CTL grCXP 3 0) G_CTL_ENABLE 1 (State.reset)))))
def HostReadsAndMailbox_3_f : Nat → List Nat → State := fun code vals => { HostReadsAndMailbox_3_s with cxl := some { port := 3, ld := 0, code := code, vals := vals } }
theorem witness_HostReadsAndMailbox_3 : ∃ (s : State) (c : Nat) (ld : Nat) (f : Nat → List Nat → State), (LdServed s c ld)
    ∧ (∀ (code : Nat) (vals : List Nat), f code vals = { s with cxl := some { port := c, ld := ld, code := code, vals := vals : CxlOut } }) :=
  ⟨HostReadsAndMailbox_3_s, 3, 0, HostReadsAndMailbox_3_f, by decide +kernel, fun _ _ => rfl⟩

def HostReadsAndMailbox_4_s : State := fld (CXP_HOST_CFG 3) CXP_HOST_CFG_LD_MODE 1 (fld (CXP_HOST_CFG 3) CXP_HOST_CFG_SLOT_LOG2 20 (fld (CXP_LD_VALID 3) CXP_LD_VALID_LD 0x8001 (fld (CXP_ROLE 3) CXP_ROLE_ROLE 1 (fld (G_CTL grCXP 3 0) G_CTL_ENABLE 1 (fld (MBX_BIND 63) MBX_BIND_KIND 2 (fld (MBX_BIND 63) MBX_BIND_SOURCE (3 + 16 * 15) { State.reset with mbx := [(63, { inq := [8, 9], outq := [8, 7] })] }))))))
theorem witness_HostReadsAndMailbox_4 : ∃ (s : State) (c : Nat) (ld : Nat) (len : Nat) (tag : Nat) (b : Nat) (ws : List Word), (ldMailbox s c ld = some b) ∧ (unitOn s grMBX b = true) ∧ (len < 8) ∧ ((mbxOf s b).inq.length + len + 1 ≤ 16) :=
  ⟨HostReadsAndMailbox_4_s, 3, 15, 7, 1, 63, [1, 2, 3, 4, 5, 6, 7], by decide +kernel⟩

def HostReadsAndMailbox_5_s : State := fld (CXP_HOST_CFG 3) CXP_HOST_CFG_LD_MODE 1 (fld (CXP_HOST_CFG 3) CXP_HOST_CFG_SLOT_LOG2 20 (fld (CXP_LD_VALID 3) CXP_LD_VALID_LD 0x8001 (fld (CXP_ROLE 3) CXP_ROLE_ROLE 1 (fld (G_CTL grCXP 3 0) G_CTL_ENABLE 1 (fld (MBX_BIND 63) MBX_BIND_KIND 2 (fld (MBX_BIND 63) MBX_BIND_SOURCE (3 + 16 * 15) { State.reset with mbx := [(63, { inq := [8, 9], outq := [8, 7] })] }))))))
theorem witness_HostReadsAndMailbox_5 : ∃ (s : State) (c : Nat) (ld : Nat) (b : Nat), (ldMailbox s c ld = some b) ∧ (outHead (mbxOf s b) ≠ []) :=
  ⟨HostReadsAndMailbox_5_s, 3, 15, 63, by decide +kernel⟩

def HostWriteDiscarded_1_s : State := fld (CXP_HOST_CFG 15) CXP_HOST_CFG_LD_MODE 1 (fld (CXP_HOST_CFG 15) CXP_HOST_CFG_SLOT_LOG2 20 (fld (CXP_LD_VALID 15) CXP_LD_VALID_LD 0x8001 (fld (CXP_ROLE 15) CXP_ROLE_ROLE 1 (fld (G_CTL grCXP 15 0) G_CTL_ENABLE 1 (State.reset)))))
theorem witness_HostWriteDiscarded_1 : ∃ (s : State) (c : Nat), (c < 16) ∧ (cxlOn s c = true) ∧ (cxlHost s c = true) ∧ (unitHeld s grCXP c = false) :=
  ⟨HostWriteDiscarded_1_s, 15, by decide +kernel⟩

def HostWriteDiscarded_2_s : State := fld (G_CTL grCXP 15 0) G_CTL_LEVEL 0 <| { (fld (CXP_HOST_CFG 15) CXP_HOST_CFG_LD_MODE 1 (fld (CXP_HOST_CFG 15) CXP_HOST_CFG_SLOT_LOG2 20 (fld (CXP_LD_VALID 15) CXP_LD_VALID_LD 0x8001 (fld (CXP_ROLE 15) CXP_ROLE_ROLE 1 (fld (G_CTL grCXP 15 0) G_CTL_ENABLE 1 (State.reset)))))) with flt := { State.reset.flt with jobs := [⟨⟨.engine, grCXP, 15, 0⟩, 0, [], [], false⟩] } }
theorem witness_HostWriteDiscarded_2 : ∃ (s : State) (c : Nat), (cxlOn s c = true) ∧ (cxlHost s c = true) ∧ (unitHeld s grCXP c = true) :=
  ⟨HostWriteDiscarded_2_s, 15, by decide +kernel⟩

theorem witness_HostWriteDiscarded_3 : ∃ (c : Nat), c < 16 :=
  ⟨15, by decide +kernel⟩

def LinkActiveByParameters_1_s : State := linked 3 lsPARAM {}
def LinkActiveByParameters_1_f : Bytes := mkFlitF ((trainBody LinkActiveByParameters_1_s 3).set 25 0) ⟨0, 0, 0, 0, kTRAIN, false⟩
theorem witness_LinkActiveByParameters_1 : ∃ (s : State) (p : Nat) (f : Bytes), (s.flt.safe = false) ∧ (linkState s p = lsPARAM)
    ∧ (flitOk f = true) ∧ ((trailerOf f).kind = kTRAIN) ∧ (leAt f 0 1 = 1) ∧ (((Peer.ofBody f).credits.any fun (x : Nat) => x == 0) = false)
    ∧ ((Peer.ofBody f).gang = ownGang s p) ∧ ((portOf s p).ownAcked = false) ∧ (leAt f 25 1 ≠ 1) :=
  ⟨LinkActiveByParameters_1_s, 3, LinkActiveByParameters_1_f, by simp only [flitOk, crc32c_eq]; decide +kernel⟩

def LinkActiveByParameters_2_s : State := linked 3 lsPARAM {}
def LinkActiveByParameters_2_f : Bytes := mkFlitF ((trainBody LinkActiveByParameters_2_s 3).set 25 1) ⟨0, 0, 0, 0, kTRAIN, false⟩
theorem witness_LinkActiveByParameters_2 : ∃ (s : State) (p : Nat) (f : Bytes), (s.flt.safe = false) ∧ (linkState s p = lsPARAM)
    ∧ (s.ground.cells = []) ∧ (s.ground.waiting = []) ∧ (flitOk f = true) ∧ ((trailerOf f).kind = kTRAIN) ∧ (leAt f 0 1 = 1)
    ∧ (((Peer.ofBody f).credits.any fun (x : Nat) => x == 0) = false) ∧ ((Peer.ofBody f).gang = ownGang s p)
    ∧ ((portOf s p).ownAcked = true ∨ leAt f 25 1 = 1) :=
  ⟨LinkActiveByParameters_2_s, 3, LinkActiveByParameters_2_f, by simp only [flitOk, crc32c_eq]; decide +kernel⟩

def LinkActiveByParameters_3_s : State := linked 3 lsPARAM {}
def LinkActiveByParameters_3_f : Bytes := mkFlitF ((trainBody LinkActiveByParameters_3_s 3).set 0 2) ⟨0, 0, 0, 0, kTRAIN, false⟩
theorem witness_LinkActiveByParameters_3 : ∃ (s : State) (p : Nat) (f : Bytes), (s.flt.safe = false) ∧ (linkState s p = lsPARAM)
    ∧ (flitOk f = true) ∧ ((trailerOf f).kind = kTRAIN)
    ∧ (leAt f 0 1 ≠ 1 ∨ ((Peer.ofBody f).credits.any fun (x : Nat) => x == 0) = true ∨ (Peer.ofBody f).gang ≠ ownGang s p) :=
  ⟨LinkActiveByParameters_3_s, 3, LinkActiveByParameters_3_f, by simp only [flitOk, crc32c_eq]; decide +kernel⟩

def LinkFalls_1_s : State := linked 255 lsACTIVE {}
theorem witness_LinkFalls_1 : ∃ (s : State) (p : Nat), (p < 256) ∧ (gangBase s p = p) ∧ (gangWidth s p = 1) ∧ (linkState s p = lsACTIVE) :=
  ⟨LinkFalls_1_s, 255, by decide +kernel⟩

def LinkFalls_2_s : State := linked 3 lsACTIVE {}
def LinkFalls_2_f : Bytes := flit [2] 0 kCONTROL false
theorem witness_LinkFalls_2 : ∃ (s : State) (p : Nat) (f : Bytes), (p < 256) ∧ (gangBase s p = p) ∧ (gangWidth s p = 1)
    ∧ (linkState s p = lsACTIVE) ∧ (s.flt.safe = false) ∧ (flitOk f = true) ∧ ((trailerOf f).kind = kCONTROL) ∧ ((trailerOf f).ackValid = false)
    ∧ (leAt f 0 1 = 2) :=
  ⟨LinkFalls_2_s, 3, LinkFalls_2_f, by simp only [flitOk, crc32c_eq]; decide +kernel⟩

def LinkFalls_3_s : State := linked 3 lsALIGN {}
theorem witness_LinkFalls_3 : ∃ (s : State) (p : Nat), (p < 256) ∧ (gangBase s p = p) ∧ (gangWidth s p = 1) ∧ (s.ground.cells = [])
    ∧ (s.ground.waiting = []) ∧ (linkState s p = lsEQUALIZE ∨ linkState s p = lsALIGN ∨ linkState s p = lsRETRAIN) :=
  ⟨LinkFalls_3_s, 3, by decide +kernel⟩

def LinkFalls_4_s : State := linked 3 lsPARAM {}
theorem witness_LinkFalls_4 : ∃ (s : State) (p : Nat), (p < 256) ∧ (gangBase s p = p) ∧ (gangWidth s p = 1) ∧ (s.ground.cells = [])
    ∧ (s.ground.waiting = []) ∧ (linkState s p = lsPARAM) :=
  ⟨LinkFalls_4_s, 3, by decide +kernel⟩

def LinkFalls_5_s : State := linked 3 lsACTIVE { faultRun := 3 }
def LinkFalls_5_f : Bytes := flit [] 0 kFAULT_IDLE false
theorem witness_LinkFalls_5 : ∃ (s : State) (p : Nat) (f : Bytes), (p < 256) ∧ (gangBase s p = p) ∧ (gangWidth s p = 1)
    ∧ (linkState s p = lsACTIVE ∨ linkState s p = lsRETRAIN) ∧ (s.flt.safe = false) ∧ (s.ground.cells = []) ∧ (s.ground.waiting = [])
    ∧ (flitOk f = true) ∧ ((trailerOf f).kind = kFAULT_IDLE) ∧ ((portOf s p).faultRun = 3) :=
  ⟨LinkFalls_5_s, 3, LinkFalls_5_f, by simp only [flitOk, crc32c_eq]; decide +kernel⟩

def LinkTrains_1_s : State := linked 3 lsDETECT {}
theorem witness_LinkTrains_1 : ∃ (s : State) (p : Nat), linkState s p = lsDETECT :=
  ⟨LinkTrains_1_s, 3, by decide +kernel⟩

def LinkTrains_2_s : State := linked 3 lsEQUALIZE {}
theorem witness_LinkTrains_2 : ∃ (s : State) (p : Nat), linkState s p = lsEQUALIZE :=
  ⟨LinkTrains_2_s, 3, by decide +kernel⟩

def LinkTrains_3_s : State := linked 3 lsALIGN {}
theorem witness_LinkTrains_3 : ∃ (s : State) (p : Nat), linkState s p = lsALIGN :=
  ⟨LinkTrains_3_s, 3, by decide +kernel⟩

def LinkTrains_4_s : State := linked 3 lsRETRAIN {}
theorem witness_LinkTrains_4 : ∃ (s : State) (p : Nat), linkState s p = lsRETRAIN :=
  ⟨LinkTrains_4_s, 3, by decide +kernel⟩

def LinkTrains_5_s : State := fld (PRT_LINK_CFG 3) PRT_LINK_CFG_AUTO_RETRY 1 (linked 3 lsDOWN {})
theorem witness_LinkTrains_5 : ∃ (s : State) (p : Nat), (linkState s p = lsDOWN) ∧ (linkCfg s p PRT_LINK_CFG_AUTO_RETRY ≠ 0)
    ∧ ((portOf s p).looped = false) :=
  ⟨LinkTrains_5_s, 3, by decide +kernel⟩

def LinkTrains_6_s : State := linked 3 lsPARAM {}
theorem witness_LinkTrains_6 : ∃ (s : State) (p : Nat), (s.flt.safe = false) ∧ (training (linkState s p) = true) :=
  ⟨LinkTrains_6_s, 3, by decide +kernel⟩

def Mailboxes_1_s : State := fld (MBX_BIND 63) MBX_BIND_KIND 4 State.reset
def Mailboxes_1_m : Msg := message 0 0 (leBytes 1 1 ++ leBytes 1 7 ++ zeros 62)
theorem witness_Mailboxes_1 : ∃ (s : State) (port : Nat) (m : Msg), (GroundIdle s) ∧ (unitOn s grMBX 63 = true) ∧ (mbxKind s 63 = 4)
    ∧ ((mbxOf s 63).inq.length + leAt m.pay 1 1 % 8 + 1 ≤ 16) :=
  ⟨Mailboxes_1_s, 0, Mailboxes_1_m, by decide +kernel⟩

def Mailboxes_2_s : State := { State.reset with mbx := [(63, { inq := [8, 9] })] }
theorem witness_Mailboxes_2 : ∃ (s : State) (b : Nat) (w : Word) (r : List Word), (b < 64) ∧ ((mbxOf s b).inq = w :: r) :=
  ⟨Mailboxes_2_s, 63, (8 : Word), [9], by decide +kernel⟩

theorem witness_Mailboxes_3 : ∃ (s : State) (b : Nat), (b < 64) ∧ ((mbxOf s b).inq = []) :=
  ⟨State.reset, 0, by decide +kernel⟩

theorem witness_Mailboxes_4 : ∃ (s : State) (b : Nat) (w : Word), (b < 64) ∧ (guardOf s (MBX_OUT_PUSH b) = none) ∧ ((mbxOf s b).need = 0)
    ∧ (0 < bits (BitVec.toNat w) 5 3) ∧ ((mbxOf s b).outq.length + bits (BitVec.toNat w) 5 3 + 1 ≤ 16) :=
  ⟨State.reset, 63, (56 : Word), by decide +kernel⟩

theorem witness_Mailboxes_5 : ∃ (s : State) (full : Bool) (w : Word) (sets : Word), guardOf s (if full = true then MBX_FULL_PEND else MBX_DOORBELL) = none :=
  ⟨State.reset, true, (5 : Word), (9 : Word), by decide +kernel⟩

def MessageSegments_1_m : Msg := ⟨{}, zeros 233⟩
theorem witness_MessageSegments_1 : ∃ (m : Msg) (q : Nat), m.pay ≠ [] :=
  ⟨MessageSegments_1_m, 65535, by decide +kernel⟩

def MessageSegments_2_m : Msg := ⟨{}, zeros 233⟩
def MessageSegments_2_g : Seg := (MessageSegments_2_m.segs 65535).getLast!
theorem witness_MessageSegments_2 : ∃ (m : Msg) (q : Nat) (g : Seg), (m.pay ≠ []) ∧ (g ∈ m.segs q) :=
  ⟨MessageSegments_2_m, 65535, MessageSegments_2_g, by decide +kernel⟩

def MessageSegments_3_m : Msg := ⟨{}, zeros 233⟩
theorem witness_MessageSegments_3 : ∃ (m : Msg) (q : Nat), m.pay ≠ [] :=
  ⟨MessageSegments_3_m, 65535, by decide +kernel⟩

def MessageSegments_4_m : Msg := ⟨{}, zeros 233⟩
def MessageSegments_4_g : Seg := (MessageSegments_4_m.segs 65535).getLast!
theorem witness_MessageSegments_4 : ∃ (m : Msg) (q : Nat) (i : Nat) (g : Seg), (m.pay ≠ []) ∧ ((m.segs q)[i]? = some g) :=
  ⟨MessageSegments_4_m, 65535, 1, MessageSegments_4_g, by decide +kernel⟩

def MovesAndLeases_1_s : State := (fun h => { h with cls := [(0, { checked := true, entries := [⟨BitVec.ofNat 64 (acEXT_MOVE * 2 ^ 44), 0, 0, leBytes 8 (5 * 2 ^ 52)⟩] })], mem := { h.mem with moves := [⟨0, some 3, 5 * 2 ^ 52, 2, false, 0, some 0, 5, 2 ^ 40, 0, 0, 512, 1, [], 0, 0, false, false⟩] } }) (fld (CLS_STATE 0) CLS_STATE_STATE csVALIDATING home)
def MovesAndLeases_1_v : Move := ⟨0, some 3, 5 * 2 ^ 52, 2, false, 0, some 0, 5, 2 ^ 40, 0, 0, 512, 1, [], 0, 0, false, false⟩
theorem witness_MovesAndLeases_1 : ∃ (s : State) (v : Move) (raw : Bytes), (s.mem.moves = [v]) ∧ (copying v = true) ∧ (s.flt.safe = false)
    ∧ (moveDue s v = true) ∧ (∀ (b : Nat), v.src = some b → engineMay s (b + 256 * v.next) (moveBytes v v.next) = true)
    ∧ (v.dstSw = ownId s → engineMay s (v.dst + 256 * v.next) (moveBytes v v.next) = true) :=
  ⟨MovesAndLeases_1_s, MovesAndLeases_1_v, [], by decide +kernel⟩

def MovesAndLeases_2_s : State := let h := home; { h with mem := { h.mem with moves := [⟨0, some 3, 5 * 2 ^ 52, 2, false, 0, some 0, 5, 2 ^ 40, 0, 0, 512, 1, [], 0, 1, false, false⟩] } }
def MovesAndLeases_2_v : Move := ⟨0, some 3, 5 * 2 ^ 52, 2, false, 0, some 0, 5, 2 ^ 40, 0, 0, 512, 1, [], 0, 1, false, false⟩
theorem witness_MovesAndLeases_2 : ∃ (s : State) (v : Move) (e : Nat), (s.mem.moves = [v]) ∧ (v.phase = 1) ∧ (v.ext = some e) ∧ (v.unacked = [])
    ∧ (s.mem.reqs = []) ∧ (s.mem.txns = []) :=
  ⟨MovesAndLeases_2_s, MovesAndLeases_2_v, 3, by decide +kernel⟩

def MovesAndLeases_3_s : State := let h := home; { h with mem := { h.mem with objs := [(1, { size := 4096, extBase := 3, part := 2, state := 2, freed := true })] } }
theorem witness_MovesAndLeases_3 : ∃ (s : State) (i : Nat), ((objOf s i).state = 2) ∧ ((objOf s i).freed = true) ∧ (s.mem.reqs = [])
    ∧ (s.mem.txns = []) :=
  ⟨MovesAndLeases_3_s, 1, by decide +kernel⟩

def MovesAndLeases_4_s : State := setExt home 3 { extOf home 3 with state := esWITHDRAWN, holding := true }
theorem witness_MovesAndLeases_4 : ∃ (s : State) (e : Nat), (extOf s e).state = esWITHDRAWN :=
  ⟨MovesAndLeases_4_s, 3, by decide +kernel⟩

def MovesAndLeases_5_s : State := reg MRG_LENT (2 ^ 31) { State.reset with mem := { leases := [⟨4, 2 ^ 40, 2, 7, 2, some 5⟩] } }
def MovesAndLeases_5_l : Lease := ⟨4, 2 ^ 40, 2, 7, 2, some 5⟩
theorem witness_MovesAndLeases_5 : ∃ (s : State) (l : Lease), (s.mem.leases = [l]) ∧ (l.recallEnd.isSome = true) :=
  ⟨MovesAndLeases_5_s, MovesAndLeases_5_l, by decide +kernel⟩

def MovesAndLeases_6_m : Msg := message tCTRL 0 (zeros 16)
theorem witness_MovesAndLeases_6 : ∃ (s : State) (prg : Nat) (m : Msg), CtrlMsg s m :=
  ⟨home, 0, MovesAndLeases_6_m, by decide +kernel⟩

def MovesAndLeases_7_s : State := let h := home; { h with mem := { h.mem with exts := [(3, { state := esHOME, tier := 1, home := 7, lease := 4, obj := 1, len := 2 ^ 21 })] } }
def MovesAndLeases_7_m : Msg := message tCTRL 0 (leBytes 2 4 ++ zeros 6)
def MovesAndLeases_7_x : Machine.Ext := { state := esHOME, tier := 1, home := 7, lease := 4, obj := 1, len := 2 ^ 21 }
theorem witness_MovesAndLeases_7 : ∃ (s : State) (prg : Nat) (e : Nat) (m : Msg) (x : Machine.Ext), (CtrlMsg s m) ∧ (s.mem.exts = [(e, x)])
    ∧ (x.tier = 1) ∧ (x.lease = leAt m.pay 0 2) ∧ (x.home = m.hdr.src / 4096) ∧ (x.state = esHOME) ∧ (s.mem.moves = []) ∧ (s.mem.reqs = [])
    ∧ (s.mem.txns = []) :=
  ⟨MovesAndLeases_7_s, 0, 3, MovesAndLeases_7_m, MovesAndLeases_7_x, by decide +kernel⟩

def MovesAndLeases_8_m : Msg := message tCTRL 0 (leBytes 2 4 ++ zeros 6)
theorem witness_MovesAndLeases_8 : ∃ (s : State) (prg : Nat) (m : Msg), (CtrlMsg s m) ∧ (∀ x ∈ s.mem.exts, ¬(x.2.tier = 1
    ∧ x.2.lease = leAt m.pay 0 2 ∧ x.2.home = m.hdr.src / 4096)) :=
  ⟨home, 0, MovesAndLeases_8_m, by decide +kernel⟩

def MovesAndLeases_9_s : State := fld (MRG_SCRUB 3) MRG_SCRUB_PERIOD 5 { State.reset with mem := { errs := [(80 * 2044 + 5, 0x10)] } }
def MovesAndLeases_9_e : Bytes := zeros 80
theorem witness_MovesAndLeases_9 : ∃ (s : State) (u : Nat) (b : Nat) (e : Bytes), (u < 512) ∧ (s.flt.safe = false)
    ∧ (rdF s (MRG_SCRUB (u / 128)) MRG_SCRUB_PERIOD ≠ 0) ∧ (s.mem.errs ≠ []) ∧ (∀ x ∈ s.mem.errs, x.1 / 80 = b) ∧ (isTray (64 * b) = false)
    ∧ (channelOf (64 * b % 2 ^ 50) = u) ∧ (errsAfter s b = some e) ∧ (e ≠ blockErrs s b) :=
  ⟨MovesAndLeases_9_s, 511, 2044, MovesAndLeases_9_e, by decide +kernel⟩

def MovesAndLeases_10_s : State := fld (MRG_SCRUB 3) MRG_SCRUB_PERIOD 5 { State.reset with mem := { errs := (80 * 2044 + 63, 1) :: (List.range 10).map fun k => (80 * 2044 + 70 + k, rsGen.reverse.getD k 0) } }
def MovesAndLeases_10_e : Bytes := blockErrs MovesAndLeases_10_s 2044
theorem witness_MovesAndLeases_10 : ∃ (s : State) (u : Nat) (b : Nat) (e : Bytes), (u < 512) ∧ (s.flt.safe = false)
    ∧ (rdF s (MRG_SCRUB (u / 128)) MRG_SCRUB_PERIOD ≠ 0) ∧ (s.mem.errs ≠ []) ∧ (∀ x ∈ s.mem.errs, x.1 / 80 = b) ∧ (isTray (64 * b) = false)
    ∧ (channelOf (64 * b % 2 ^ 50) = u) ∧ (errsAfter s b = some e) ∧ (e = blockErrs s b) :=
  ⟨MovesAndLeases_10_s, 511, 2044, MovesAndLeases_10_e, by decide +kernel⟩

def MovesAndLeases_11_s : State := fld (MRG_SCRUB 3) MRG_SCRUB_PERIOD 5 { State.reset with mem := { errs := (List.range 6).map fun k => (80 * 2044 + 3 * k, k + 1) } }
theorem witness_MovesAndLeases_11 : ∃ (s : State) (u : Nat) (b : Nat), (u < 512) ∧ (s.flt.safe = false)
    ∧ (rdF s (MRG_SCRUB (u / 128)) MRG_SCRUB_PERIOD ≠ 0) ∧ (s.mem.errs ≠ []) ∧ (∀ x ∈ s.mem.errs, x.1 / 80 = b) ∧ (isTray (64 * b) = false)
    ∧ (channelOf (64 * b % 2 ^ 50) = u) ∧ (errsAfter s b = none) :=
  ⟨MovesAndLeases_11_s, 511, 2044, by decide +kernel⟩

def OtherFlits_1_s : State := linked 3 lsACTIVE { retryDue := true }
theorem witness_OtherFlits_1 : ∃ (s : State) (p : Nat), (s.flt.safe = false) ∧ (linkState s p = lsACTIVE) ∧ (gangBase s p = p)
    ∧ ((portOf s p).retryDue = true) :=
  ⟨OtherFlits_1_s, 3, by decide +kernel⟩

def OtherFlits_2_s : State := linked 3 lsRETRAIN {}
theorem witness_OtherFlits_2 : ∃ (s : State) (p : Nat), (s.flt.safe = false) ∧ (training (linkState s p) = true) :=
  ⟨OtherFlits_2_s, 3, by decide +kernel⟩

def OtherFlits_3_s : State := let x := linked 3 lsDOWN { nextSeq := 77 }; { x with flt := { x.flt with safe := true } }
theorem witness_OtherFlits_3 : ∃ (s : State) (p : Nat), (s.flt.safe = true) ∧ (linkState s p ≠ lsDISABLED) ∧ ((portOf s p).nextSeq < 256) :=
  ⟨OtherFlits_3_s, 3, by decide +kernel⟩

def OtherFlits_4_s : State := linked 3 lsACTIVE {}
def OtherFlits_4_f : Bytes := flit [] 0 kTIME_MARK false
theorem witness_OtherFlits_4 : ∃ (s : State) (p : Nat) (f : Bytes), (s.flt.safe = false) ∧ (linkState s p = lsACTIVE) ∧ (flitOk f = true)
    ∧ ((trailerOf f).kind = kTIME_MARK) ∧ ((trailerOf f).ackValid = false) ∧ (bit (leAt (bodyOf f) 34 1) 2 = false)
    ∧ (rdF s TIM_SOURCE TIM_SOURCE_KIND ≠ 3) :=
  ⟨OtherFlits_4_s, 3, OtherFlits_4_f, by simp only [flitOk, crc32c_eq]; decide +kernel⟩

def OtherFlits_5_s : State := setPort (fld (PRT_GANG 2) PRT_GANG_WIDTH 1 (linked 2 lsACTIVE {})) 3 { buf := [(4, [1])] }
def OtherFlits_5_f : Bytes := flit [1, 1, 9] 0 kCONTROL false
theorem witness_OtherFlits_5 : ∃ (s : State) (p : Nat) (f : Bytes), (p < 256) ∧ (s.flt.safe = false) ∧ (linkState s p = lsACTIVE)
    ∧ (gangBase s p = p) ∧ (flitOk f = true) ∧ ((trailerOf f).kind = kCONTROL) ∧ ((trailerOf f).ackValid = false) ∧ (leAt f 0 1 = 1)
    ∧ (leAt f 1 1 = 1) ∧ (gangWidth s p = 2) ∧ (((portOf s (p + 1)).buf.any fun (x : Nat × Bytes) => x.1 == leAt f 2 1) = false) :=
  ⟨OtherFlits_5_s, 2, OtherFlits_5_f, by simp only [flitOk, crc32c_eq]; decide +kernel⟩

def PartitionsAndAttestation_1_s : State := { State.reset with sec := { retiring := [15] } }
theorem witness_PartitionsAndAttestation_1 : ∃ (s : State) (p : Nat), (p < 16) ∧ (s.sec.retiring = [p]) ∧ (s.mem.objs = []) ∧ (s.mem.doms = [])
    ∧ (s.mem.cmbs = []) ∧ (partRegions s p = []) :=
  ⟨PartitionsAndAttestation_1_s, 15, by decide +kernel⟩

def PartitionsAndAttestation_2_s : State := { State.reset with sec := { consents := [(15, ⟨1, 5, []⟩)] }, clk := ⟨6, 0⟩ }
def PartitionsAndAttestation_2_c : Consent := ⟨1, 5, []⟩
theorem witness_PartitionsAndAttestation_2 : ∃ (s : State) (p : Nat) (c : Consent), (p < 16) ∧ (sfind s.sec.consents p = some c)
    ∧ (c.notAfter < now s) :=
  ⟨PartitionsAndAttestation_2_s, 15, PartitionsAndAttestation_2_c, by decide +kernel⟩

theorem witness_PartitionsAndAttestation_3 : ∃ (s : State), (guardOf s SEC_ATTEST_CTL = none) ∧ (rdBit s SEC_ATTEST_CTL SEC_ATTEST_CTL_BUSY = false) :=
  ⟨State.reset, by decide +kernel⟩

theorem witness_PartitionsAndAttestation_4 : ∃ (s : State) (op : Nat) (a : Nat) (size : Nat) (w : Word), (2 ≤ op)
    ∧ (rdF s SEC_DEBUG SEC_DEBUG_JTAG ≠ 2) :=
  ⟨State.reset, 2, 0, 8, (0 : Word), by decide +kernel⟩

def PartitionsAndAttestation_5_s : State := fld SEC_DEBUG SEC_DEBUG_JTAG 2 State.reset
theorem witness_PartitionsAndAttestation_5 : ∃ (s : State) (w : Word), rdF s SEC_DEBUG SEC_DEBUG_JTAG = 2 :=
  ⟨PartitionsAndAttestation_5_s, (0 : Word), by decide +kernel⟩

theorem witness_PoolMemoryLaw_1 : ∃ (s : State) (part : Nat) (p : Nat) (enc : Bool) (d : Bytes) (k : WorkKey), ((slotOf s part).cur = some k)
    ∧ (k.part = part) ∧ (List.length d ≤ 4096) ∧ ((memWrite part enc p d s).1 = stOK) :=
  ⟨home, 2, 250, true, [1, 2, 3, 4, 5, 6, 7, 8, 9, 10], key2, by decide +kernel⟩

theorem witness_PoolMemoryLaw_2 : ∃ (s : State) (part : Nat) (sec : Nat) (mask : Nat), (sfind s.mem.sectors sec = none)
    ∧ ((sectorBlocks sec).any (blockBad s) = false) :=
  ⟨home, 2, 5, 15, by decide +kernel⟩

def PowerStates_1_s : State := fld PWR_STATE PWR_STATE_PARKED_PRG 0x8000 State.reset
theorem witness_PowerStates_1 : ∃ (s : State) (k : Nat), (k < 32) ∧ (regionParked s (decide (16 ≤ k)) (k % 16) = true)
    ∧ (regionBusy s (decide (16 ≤ k), k % 16) = false) ∧ (k ∉ s.pwr.off) :=
  ⟨PowerStates_1_s, 31, by decide +kernel⟩

def PowerStates_2_s : State := fld PWR_STATE PWR_STATE_PARKED_RGN 0x8000 { State.reset with pwr := { up := [15], off := [15] } }
theorem witness_PowerStates_2 : ∃ (s : State) (k : Nat), (k < 16) ∧ (k ∈ s.pwr.up) :=
  ⟨PowerStates_2_s, 15, by decide +kernel⟩

def PowerStates_3_s : State := fld PWR_STATE PWR_STATE_DEV 1 State.reset
theorem witness_PowerStates_3 : ∃ (s : State), devState s = 1 :=
  ⟨PowerStates_3_s, by decide +kernel⟩

def PowerStates_4_s : State := fld PWR_STATE PWR_STATE_DEV 2 State.reset
theorem witness_PowerStates_4 : ∃ (s : State), (guardOf s PWR_STANDBY = none) ∧ (devState s = 2) ∧ (s.pwr.bad = []) :=
  ⟨PowerStates_4_s, by decide +kernel⟩

theorem witness_PowerStates_5 : ∃ (s : State), (guardOf s PWR_STANDBY = none) ∧ (devState s = 0) :=
  ⟨State.reset, by decide +kernel⟩

def PowerStates_6_s : State := fld PWR_STATE PWR_STATE_DEV 3 State.reset
theorem witness_PowerStates_6 : ∃ (s : State), devState s = 3 :=
  ⟨PowerStates_6_s, by decide +kernel⟩

def ProgramLoads_1_w : Word := CRG_PROG_LOAD_GO.set (CRG_PROG_LOAD_BANK.set 0 1) 1
theorem witness_ProgramLoads_1 : ∃ (s : State) (n : Nat) (w : Word), (n < 16) ∧ (guardOf s (CRG_PROG_LOAD n) = none)
    ∧ (unitParked s grCRG n = false) ∧ (CRG_PROG_LOAD_GO.get w = 1) ∧ (rdBit s (CRG_PROG_LOAD n) CRG_PROG_LOAD_BUSY = false)
    ∧ (loadRefused s n (CRG_PROG_LOAD_BANK.get w) = false) :=
  ⟨State.reset, 15, ProgramLoads_1_w, by decide +kernel⟩

def ProgramLoads_2_s : State := cdWrite { State.reset with progLoads := [⟨15, 1, 160, 256⟩] } 256 (image (station 14 0 7 0 7 0 0) [bobEntry 5 2] [0] [])
def ProgramLoads_2_l : ProgLoad := ⟨15, 1, 160, 256⟩
theorem witness_ProgramLoads_2 : ∃ (s : State) (n : Nat) (l : ProgLoad) (bad : Bool), (n < 16) ∧ (s.progLoads = [l]) ∧ (l.rgn = n) ∧ (l.bank < 2) :=
  ⟨ProgramLoads_2_s, 15, ProgramLoads_2_l, false, by decide +kernel⟩

theorem witness_RegisterFieldLaw_1 : ∃ (s : State) (a : Nat) (f : Fld) (v : Nat), (f.lo + f.width ≤ 64) ∧ (v < 2 ^ f.width) :=
  ⟨State.reset, PWR_STATE, PWR_STATE_PARKED_PRG, 65535, by decide +kernel⟩

theorem witness_RegisterFieldLaw_2 : ∃ (s : State) (a : Nat) (f : Fld) (v : Nat) (g : Fld), (f.lo + f.width ≤ 64) ∧ (v < 2 ^ f.width)
    ∧ (g.lo + g.width ≤ 64) ∧ (g.lo + g.width ≤ f.lo ∨ f.lo + f.width ≤ g.lo) :=
  ⟨State.reset, PWR_STATE, PWR_STATE_PARKED_PRG, 65535, PWR_STATE_PARKED_RGN, by decide +kernel⟩

theorem witness_RegisterFieldLaw_3 : ∃ (s : State) (a : Nat) (f : Fld) (v : Nat), (f.lo + f.width ≤ 64) ∧ (v < 2 ^ f.width) :=
  ⟨State.reset, PWR_STATE, PWR_STATE_PARKED_PRG, 65535, by decide +kernel⟩

def RepliesAndFetches_1_s : State := let h := home; { h with mem := { h.mem with devReqs := [⟨4, 1, 1, 7 * 2 ^ 52, 0⟩], moves := [⟨0, none, 7 * 2 ^ 52, 2, false, 0, some 0, 5, 2 ^ 40, 0, 0, 512, 1, [4, 5], 0, 0, false, false⟩] } }
def RepliesAndFetches_1_m : Msg := ⟨{ type := tCPL, dint := true, dst := 5 * 4096, reqId := 4, gen := 1 }, []⟩
def RepliesAndFetches_1_q : DevReq := ⟨4, 1, 1, 7 * 2 ^ 52, 0⟩
theorem witness_RepliesAndFetches_1 : ∃ (s : State) (prg : Nat) (m : Msg) (q : DevReq), (ToSwitch s m) ∧ (m.hdr.type = tCPL)
    ∧ (s.mem.devReqs = [q]) ∧ (q.kind = 1) ∧ (q.id = m.hdr.reqId) ∧ (q.gen = m.hdr.gen) ∧ (m.hdr.op = stOK) :=
  ⟨RepliesAndFetches_1_s, 0, RepliesAndFetches_1_m, RepliesAndFetches_1_q, by decide +kernel⟩

def RepliesAndFetches_2_m : Msg := ⟨{ type := tCPL, dint := true, dst := 5 * 4096, reqId := 4, gen := 1 }, []⟩
theorem witness_RepliesAndFetches_2 : ∃ (s : State) (prg : Nat) (m : Msg), (ToSwitch s m) ∧ (s.mem.devReqs = []) ∧ (s.mem.reqs = [])
    ∧ (s.mem.txns = []) ∧ (s.mem.lateIds = []) ∧ (m.hdr.type = tCPL) :=
  ⟨home, 15, RepliesAndFetches_2_m, by decide +kernel⟩

def RepliesAndFetches_3_m : Msg := ⟨{ type := tCPL_DATA, dint := true, dst := 5 * 4096, reqId := 4, gen := 1 }, []⟩
theorem witness_RepliesAndFetches_3 : ∃ (s : State) (prg : Nat) (m : Msg), (ToSwitch s m) ∧ (s.mem.devReqs = []) ∧ (s.mem.reqs = [])
    ∧ (s.mem.txns = []) ∧ (s.mem.lateIds = []) ∧ (m.hdr.type = tCPL_DATA) :=
  ⟨home, 15, RepliesAndFetches_3_m, by decide +kernel⟩

def RepliesAndFetches_4_s : State := { State.reset with mem := { reqs := [{ arr := 0, prg := 1, msg := request tREAD 3 0 64 64 [], stage := .lender 4, ext := 9, tier := 1, due := 0 }] } }
def RepliesAndFetches_4_m : Msg := ⟨{ type := tCPL_DATA, dint := true, dst := 5 * 4096, reqId := 4 }, [1, 2, 3]⟩
def RepliesAndFetches_4_r : Req := { arr := 0, prg := 1, msg := request tREAD 3 0 64 64 [], stage := .lender 4, ext := 9, tier := 1, due := 0 }
theorem witness_RepliesAndFetches_4 : ∃ (s : State) (prg : Nat) (m : Msg) (r : Req) (id : Nat), (ToSwitch s m) ∧ (m.hdr.type = tCPL_DATA)
    ∧ (m.hdr.op = stOK) ∧ (s.mem.devReqs = []) ∧ (s.mem.reqs = [r]) ∧ (s.mem.txns = []) ∧ (r.stage = Stage.lender id) ∧ (id = m.hdr.reqId)
    ∧ (m.hdr.gen = (extOf s r.ext).gen % 256) ∧ (r.op = none) ∧ (r.dev = none) ∧ (r.merged = false) ∧ (r.more = []) :=
  ⟨RepliesAndFetches_4_s, 0, RepliesAndFetches_4_m, RepliesAndFetches_4_r, 4, by decide +kernel⟩

def RepliesAndFetches_5_s : State := let h := home; { h with mem := { h.mem with devReqs := [⟨4, 1, 0, 0, 0⟩] } }
def RepliesAndFetches_5_m : Msg := ⟨{ type := tNOTIFY, tc := 3, op := 2, dint := true, dst := 5 * 4096 }, zeros 8 ++ leBytes 2 4⟩
def RepliesAndFetches_5_q : DevReq := ⟨4, 1, 0, 0, 0⟩
theorem witness_RepliesAndFetches_5 : ∃ (s : State) (prg : Nat) (m : Msg) (q : DevReq), (ToSwitch s m) ∧ (m.hdr.type = tNOTIFY) ∧ (m.hdr.op = 2)
    ∧ (m.hdr.tc = 3) ∧ (s.mem.devReqs = [q]) ∧ (q.kind = 0) ∧ (q.id = leAt m.pay 8 2) :=
  ⟨RepliesAndFetches_5_s, 0, RepliesAndFetches_5_m, RepliesAndFetches_5_q, by decide +kernel⟩

def RepliesAndFetches_6_s : State := let h := home; { h with mem := { h.mem with reqs := [{ arr := 0, prg := 1, msg := request tREAD 3 0 64 64 [], stage := .fetch 0 3, ext := 9, tier := 1, due := 0 }] } }
def RepliesAndFetches_6_r : Req := { arr := 0, prg := 1, msg := request tREAD 3 0 64 64 [], stage := .fetch 0 3, ext := 9, tier := 1, due := 0 }
theorem witness_RepliesAndFetches_6 : ∃ (s : State) (hub : Nat) (e : Nat) (r : Req), (s.mem.reqs = [r]) ∧ (r.stage = Stage.fetch hub e) :=
  ⟨RepliesAndFetches_6_s, 0, 3, RepliesAndFetches_6_r, by decide +kernel⟩

def RepliesAndFetches_7_s : State := let h := home; { h with tim := { h.tim with ref := 9 }, mem := { h.mem with reqs := [{ arr := 0, prg := 1, msg := request tREAD 3 0 64 64 [], stage := .tray 1 [2], ext := 9, tier := 1, due := 9 }], nextId := 0 } }
def RepliesAndFetches_7_r : Req := { arr := 0, prg := 1, msg := request tREAD 3 0 64 64 [], stage := .tray 1 [2], ext := 9, tier := 1, due := 9 }
theorem witness_RepliesAndFetches_7 : ∃ (s : State) (r : Req) (c : Nat) (ts : List Nat), (s.mem.reqs = [r]) ∧ (s.mem.txns = [])
    ∧ (r.stage = Stage.tray c ts) ∧ (r.due ≠ 0) ∧ (r.due ≤ s.tim.ref) ∧ (r.op = none) ∧ (r.dev = none) ∧ (r.merged = false) ∧ (r.more = []) :=
  ⟨RepliesAndFetches_7_s, RepliesAndFetches_7_r, 1, [2], by decide +kernel⟩

def RepliesAndFetches_8_s : State := let h := home; { h with mem := { h.mem with reqs := [{ arr := 0, prg := 1, msg := request tREAD 3 0 64 64 [], stage := .lender 4, ext := 9, tier := 1, due := 0 }] } }
def RepliesAndFetches_8_r : Req := { arr := 0, prg := 1, msg := request tREAD 3 0 64 64 [], stage := .lender 4, ext := 9, tier := 1, due := 0 }
theorem witness_RepliesAndFetches_8 : ∃ (s : State) (r : Req) (id : Nat), (s.mem.devReqs = []) ∧ (s.mem.reqs = [r]) ∧ (r.stage = Stage.lender id)
    ∧ (r.op = none) ∧ (r.dev = none) ∧ (r.merged = false) ∧ (r.more = []) :=
  ⟨RepliesAndFetches_8_s, RepliesAndFetches_8_r, 4, by decide +kernel⟩

def RequestsAtHome_1_m : Msg := request tREAD 3 0 64 64 []
theorem witness_RequestsAtHome_1 : ∃ (s : State) (prg : Nat) (m : Msg) (i : Nat) (e : Nat) (p : Nat), (AtHome s prg m Use.read i e p)
    ∧ (m.hdr.type = tREAD) ∧ (m.hdr.op = 0) ∧ (coverDom s (msgAddr m % 2 ^ 52) = none) :=
  ⟨home, 1, RequestsAtHome_1_m, 1, 3, 64, by unfold AtHome; decide +kernel⟩

def RequestsAtHome_2_m : Msg := request tWRITE 3 0 64 4 [1, 2, 3, 4]
theorem witness_RequestsAtHome_2 : ∃ (s : State) (prg : Nat) (m : Msg) (i : Nat) (e : Nat) (p : Nat), (AtHome s prg m Use.write i e p)
    ∧ (coverDom s (msgAddr m % 2 ^ 52) = none) :=
  ⟨home, 1, RequestsAtHome_2_m, 1, 3, 64, by unfold AtHome; decide +kernel⟩

theorem witness_Resets_1 : ∃ (s : State) (n : Nat) (c : Nat), (n < 16) ∧ (c < 256) ∧ (unitParked s grCRG n = false) ∧ (s.flt.jobs = [])
    ∧ (s.cls = []) ∧ (genHeld s { rung := Rung.context, g := grCRG, u := n, ctx := c : Scope } = false) :=
  ⟨State.reset, 15, 255, by decide +kernel⟩

theorem witness_Resets_2 : ∃ (s : State) (u : Nat), (u < 272) ∧ (unitParked s grTBK u = false) ∧ (s.flt.jobs = []) ∧ (s.cls = []) :=
  ⟨State.reset, 271, by decide +kernel⟩

def Resets_3_s : State := { State.reset with flt := { State.reset.flt with jobs := [{ scope := ⟨.engine, grTBK, 271, 0⟩, began := 0, askers := [csrAddr grTBK 271 0 0] }] } }
theorem witness_Resets_3 : ∃ (s : State) (u : Nat), (u < 272) ∧ (s.mem.reqs = []) ∧ (s.mem.txns = [])
    ∧ (s.flt.jobs = [{ scope := { rung := Rung.engine, g := grTBK, u := u : Scope }, began := s.flt.stamp - 1, askers := [csrAddr grTBK u 0 0] : ResetJob }]) :=
  ⟨Resets_3_s, 271, by decide +kernel⟩

def Resets_4_s : State := { State.reset with flt := { State.reset.flt with jobs := [{ scope := ⟨.chip, 0, 0, 0⟩, began := 0, askers := [] }] } }
theorem witness_Resets_4 : ∃ (s : State), s.flt.jobs = [{ scope := { rung := Rung.chip : Scope }, began := s.flt.stamp - 1, askers := [] : ResetJob }] :=
  ⟨Resets_4_s, by decide +kernel⟩

def RoundEvents_1_s : State := fld (PRG_SCHED 15) CRG_SCHED_DOM 3 (fld (PRG_SCHED 15) CRG_SCHED_BOUND 1 (fld (TIM_DOM_ID 4) TIM_DOM_ID_BOUND 1 (fld (TIM_DOM_ID 4) TIM_DOM_ID_ID 9 (reg (TIM_DOM_PORTS 4 3) (2 ^ 63) { State.reset with doms := [(3, { started := true })] }))))
theorem witness_RoundEvents_1 : ∃ (s : State) (n : Nat) (d : Nat), (prgDom s n = some d) ∧ (inSlip s d = false)
    ∧ (bit (gateEntry s n (bankInForce s d) (gatePos s n).entry) 30 = false) ∧ ((gatePos s n).entry < 255) :=
  ⟨RoundEvents_1_s, 15, 3, by decide +kernel⟩

def RoundEvents_2_s : State := fld (TIM_DOM_ID 4) TIM_DOM_ID_BOUND 1 (fld (TIM_DOM_ID 4) TIM_DOM_ID_ID 9 (reg (TIM_DOM_PORTS 4 3) (2 ^ 63) { State.reset with doms := [(3, { started := true })] }))
theorem witness_RoundEvents_2 : ∃ (s : State) (d : Nat), (domBound s d = true) ∧ ((domOf s d).started = true) ∧ ((domOf s d).decided = false)
    ∧ (domCRGs s d = []) ∧ (domPRGs s d = []) ∧ (s.tiles = []) ∧ (GroundIdle s) :=
  ⟨RoundEvents_2_s, 3, by decide +kernel⟩

def RoundEvents_3_s : State := fld (TIM_DOM_ID 4) TIM_DOM_ID_BOUND 1 (fld (TIM_DOM_ID 4) TIM_DOM_ID_ID 9 (reg (TIM_DOM_PORTS 4 3) (2 ^ 63) { State.reset with doms := [(3, { started := true })] }))
def RoundEvents_3_m : Msg := message tCTRL 0 (leBytes 2 9 ++ zeros 6 ++ leBytes 8 4)
theorem witness_RoundEvents_3 : ∃ (s : State) (p : Nat) (d : Nat) (m : Msg), (GroundIdle s) ∧ (m.hdr.type = tCTRL) ∧ (m.hdr.tc = 6)
    ∧ (domById s (leAt m.pay 0 2) = some d) ∧ ((domPorts s d).contains (gangBase s p) = true) ∧ ((domOf s d).cutRound ≤ leAt m.pay 8 8)
    ∧ (roundOf s d ≤ leAt m.pay 8 8) ∧ ((domOf s d).sent.contains (leAt m.pay 8 8) = false) :=
  ⟨RoundEvents_3_s, 255, 3, RoundEvents_3_m, by decide +kernel⟩

def RoundEvents_4_m : Msg := ⟨{ type := tTILE, tc := 7, dint := true, dst := 5 * 4096 + 0x100 + 15 }, zeros 16⟩
theorem witness_RoundEvents_4 : ∃ (s : State) (prg : Nat) (n : Nat) (m : Msg), (n < 16) ∧ (crgDom s n = none) ∧ (m.hdr.dint = true)
    ∧ (m.hdr.dst % 4096 = 256 + n) ∧ (groupCopy s m.hdr = false) ∧ (GroundIdle s) ∧ (m.hdr.type = tTILE) ∧ (m.hdr.tc = 7 ∨ m.hdr.tc = 0) :=
  ⟨State.reset, 0, 15, RoundEvents_4_m, by decide +kernel⟩

def RoundsAdvance_1_s : State := fld (TIM_DOM_ID 4) TIM_DOM_ID_BOUND 1 (fld (TIM_DOM_ID 4) TIM_DOM_ID_ID 9 (reg (TIM_DOM_PORTS 4 3) (2 ^ 63) { State.reset with doms := [(3, { started := true })] }))
theorem witness_RoundsAdvance_1 : ∃ (s : State) (d : Nat), (d < 4) ∧ (domBound s d = true) ∧ ((domOf s d).started = true) ∧ (s.cls = [])
    ∧ (roundOf s d + 1 < 2 ^ 64) ∧ (schedOf s d + 1 < 2 ^ 64) ∧ (s.bobs = []) ∧ (s.colls = []) ∧ (s.sets = []) ∧ (s.waitContribs = [])
    ∧ (domCRGs s d = []) ∧ (domPRGs s d = []) :=
  ⟨RoundsAdvance_1_s, 3, by decide +kernel⟩

theorem witness_SettleQuiet_1 : ∃ (s : State), Quiet s :=
  ⟨State.reset, by decide +kernel⟩

def ShuttleAcknowledgement_1_s : State := onlyQp 32767 { state := qsRTS, owner := 5 * 4096 + 16, unaPsn := 3, sendPsn := 5, inflight := 8192, segs := [⟨3, 1, 0, 0, 4096, 4096, []⟩, ⟨4, 1, 0, 4096, 4096, 4096, []⟩] }
def ShuttleAcknowledgement_1_m : Msg := segment 15 32767 0 3 0 0 0 []
theorem witness_ShuttleAcknowledgement_1 : ∃ (s : State) (n : Nat) (q : Nat) (m : Msg), (ToQp s n q m) ∧ ((qpOf s q).state = qsRTS)
    ∧ (smEcho m = false) ∧ (0 < psub (padd (smPsn m) 1) (qpOf s q).unaPsn)
    ∧ (psub (padd (smPsn m) 1) (qpOf s q).unaPsn ≤ psub (qpOf s q).sendPsn (qpOf s q).unaPsn)
    ∧ (Option.any (fun (w : Wqe) => w.complete) (releaseTo (qpOf s q) (padd (smPsn m) 1) (smStatus m)).wqes.head? = false) :=
  ⟨ShuttleAcknowledgement_1_s, 15, 32767, ShuttleAcknowledgement_1_m, by decide +kernel⟩

def ShuttleAcknowledgement_2_s : State := onlyQp 32767 { state := qsRTS, segs := [⟨3, 1, 0, 0, 4096, 4096, []⟩] }
def ShuttleAcknowledgement_2_m : Msg := segment 15 32767 shSEQ 3 0 0 0 []
theorem witness_ShuttleAcknowledgement_2 : ∃ (s : State) (n : Nat) (q : Nat) (m : Msg), (ToQp s n q m) ∧ (smStatus m = shSEQ)
    ∧ ((qpOf s q).nakSeq ≠ some (smPsn m)) :=
  ⟨ShuttleAcknowledgement_2_s, 15, 32767, ShuttleAcknowledgement_2_m, by decide +kernel⟩

def ShuttleAcknowledgement_3_s : State := onlyQp 32767 { state := qsRTS, unackd := 1, recvPsn := 0 }
theorem witness_ShuttleAcknowledgement_3 : ∃ (s : State) (q : Nat), ((qpOf s q).state = qsRTS) ∧ ((qpOf s q).unackd ≠ 0) ∧ ((qpOf s q).flushes = []) :=
  ⟨ShuttleAcknowledgement_3_s, 32767, by decide +kernel⟩

def ShuttleAcknowledgement_4_s : State := fld (SHT_RETRY 15) SHT_RETRY_LIMIT 2 (onlyQp 32767 { state := qsRTS, segs := [⟨3, 1, 0, 0, 4096, 4096, []⟩] })
theorem witness_ShuttleAcknowledgement_4 : ∃ (s : State) (q : Nat), (q < 32768) ∧ ((qpOf s q).state = qsRTS) ∧ ((qpOf s q).segs ≠ [])
    ∧ ((qpOf s q).retries + 1 < rdF s (SHT_RETRY (qpEngine q)) SHT_RETRY_LIMIT) :=
  ⟨ShuttleAcknowledgement_4_s, 32767, by decide +kernel⟩

def ShuttleAcknowledgement_5_s : State := { State.reset with sht := { regs := [(16383, { state := 2, keygen := 255 })] } }
theorem witness_ShuttleAcknowledgement_5 : ∃ (s : State) (i : Nat), ((shtReg s i).state = 2) ∧ (regPlaces s i = []) :=
  ⟨ShuttleAcknowledgement_5_s, 16383, by decide +kernel⟩

def ShuttleAcknowledgement_6_s : State := { State.reset with sht := { qps := [(9, { state := qsRTS, places := [⟨0, none, none, some 5, 0, [1]⟩] })], regs := [(5, { state := 2 })] } }
def ShuttleAcknowledgement_6_p : Place := ⟨0, none, none, some 5, 0, [1]⟩
theorem witness_ShuttleAcknowledgement_6 : ∃ (s : State) (i : Nat) (q : Nat) (p : Place), ((shtReg s i).state = 2) ∧ (regPlaces s i = [(q, p)])
    ∧ (p.read = none) ∧ (p.recv = none) ∧ ((qpOf s q).recvs = []) ∧ ((qpOf s q).flushes = []) :=
  ⟨ShuttleAcknowledgement_6_s, 5, 9, ShuttleAcknowledgement_6_p, by decide +kernel⟩

def ShuttleRequests_1_s : State := onlyQp 32767 { state := qsRTS, owner := 5 * 4096 + 16, sqLog := 4, rqLog := 4 }
def ShuttleRequests_1_m : Msg := segment 15 32767 0 16 16 0 0 []
theorem witness_ShuttleRequests_1 : ∃ (s : State) (n : Nat) (q : Nat) (m : Msg), (ToQp s n q m) ∧ (m.hdr.sint = false)
    ∧ (m.hdr.src = (qpOf s q).owner) ∧ (rsub (leAt m.pay 12 4) (qpOf s q).sqHead ≤ 2 ^ (qpOf s q).sqLog)
    ∧ (rsub (leAt m.pay 12 4) (qpOf s q).sqTail < 2 ^ 31)
    ∧ (rsub (leAt m.pay 16 4) (qpOf s q).rqHead ≤ if (qpOf s q).rqLog = 0 then 0 else 2 ^ (qpOf s q).rqLog)
    ∧ (rsub (leAt m.pay 16 4) (qpOf s q).rqTail < 2 ^ 31) ∧ (rsub (leAt m.pay 20 4) (qpOf s q).cqHead ≤ rsub (qpOf s q).cqTail (qpOf s q).cqHead) :=
  ⟨ShuttleRequests_1_s, 15, 32767, ShuttleRequests_1_m, by decide +kernel⟩

def ShuttleRequests_2_s : State := onlyQp 32767 { state := qsRTS, owner := 5 * 4096 + 16, sqLog := 4, rqLog := 4 }
def ShuttleRequests_2_m : Msg := segment 15 32767 0 17 16 0 0 []
theorem witness_ShuttleRequests_2 : ∃ (s : State) (n : Nat) (q : Nat) (m : Msg), (ToQp s n q m) ∧ (m.hdr.sint = false)
    ∧ (m.hdr.src = (qpOf s q).owner) ∧ (2 ^ (qpOf s q).sqLog < rsub (leAt m.pay 12 4) (qpOf s q).sqHead) ∧ ((qpOf s q).wqes = []) :=
  ⟨ShuttleRequests_2_s, 15, 32767, ShuttleRequests_2_m, by decide +kernel⟩

def ShuttleRequests_3_s : State := onlyQp 32767 { state := qsRTS, part := 2, sqBase := 7 * 2 ^ 52, sqLog := 4, sqTail := 1 }
theorem witness_ShuttleRequests_3 : ∃ (s : State) (q : Nat), ((qpOf s q).state = qsRTS) ∧ (rsub (qpOf s q).sqTail (qpOf s q).sqHead = 1)
    ∧ ((qpOf s q).sqHead < 2 ^ 32) :=
  ⟨ShuttleRequests_3_s, 32767, by decide +kernel⟩

def ShuttleRequests_4_s : State := onlyQp 32767 { state := qsRTS, sendPsn := 7, wqes := [{ id := 0, raw := [1, 0, 0, 0, 64, 0, 0, 0] }] }
def ShuttleRequests_4_w : Wqe := { id := 0, raw := [1, 0, 0, 0, 64, 0, 0, 0] }
def ShuttleRequests_4_t : State := setQp ShuttleRequests_4_s 32767 { qpOf ShuttleRequests_4_s 32767 with wqes := (qpOf ShuttleRequests_4_s 32767).wqes.map fun y => if y.id = ShuttleRequests_4_w.id then { ShuttleRequests_4_w with started := true, first := (qpOf ShuttleRequests_4_s 32767).sendPsn } else y }
theorem witness_ShuttleRequests_4 : ∃ (s : State) (q : Nat) (op : Nat) (w : Wqe) (t : State), ((qpOf s q).state = qsRTS ∨ (qpOf s q).state = qsDRAINING) ∧ (List.find? (fun (y : Wqe) => !y.started) (qpOf s q).wqes = some w) ∧ (w.op = op) ∧ (wqeOk w = true) ∧ (((List.filter (fun (x : Wqe) => x.started) (qpOf s q).wqes).all fun (x : Wqe) => x.out) = true) ∧ (w.fence = true → ((List.filter (fun (x : Wqe) => x.started) (qpOf s q).wqes).all fun (y : Wqe) => !(y.op == 3 || y.op == 4)) = true) ∧ (t = setQp s q ({ qpOf s q with wqes := List.map (fun (y : Wqe) => if y.id = w.id then { id := w.id, raw := w.raw, started := true, out := w.out, sent := w.sent, acked := w.acked, first := (qpOf s q).sendPsn, span := w.span, got := w.got, placed := w.placed, answer := w.answer : Wqe } else y) (qpOf s q).wqes })) ∧ (op = 1) :=
  ⟨ShuttleRequests_4_s, 32767, 1, ShuttleRequests_4_w, ShuttleRequests_4_t, by decide +kernel⟩

def ShuttleRequests_5_s : State := onlyQp 32767 { state := qsRTS, sendPsn := 7, wqes := [{ id := 0, raw := [2, 0, 0, 0, 64, 0, 0, 0] }] }
def ShuttleRequests_5_w : Wqe := { id := 0, raw := [2, 0, 0, 0, 64, 0, 0, 0] }
def ShuttleRequests_5_t : State := setQp ShuttleRequests_5_s 32767 { qpOf ShuttleRequests_5_s 32767 with wqes := (qpOf ShuttleRequests_5_s 32767).wqes.map fun y => if y.id = ShuttleRequests_5_w.id then { ShuttleRequests_5_w with started := true, first := (qpOf ShuttleRequests_5_s 32767).sendPsn } else y }
theorem witness_ShuttleRequests_5 : ∃ (s : State) (q : Nat) (op : Nat) (w : Wqe) (t : State), ((qpOf s q).state = qsRTS ∨ (qpOf s q).state = qsDRAINING) ∧ (List.find? (fun (y : Wqe) => !y.started) (qpOf s q).wqes = some w) ∧ (w.op = op) ∧ (wqeOk w = true) ∧ (((List.filter (fun (x : Wqe) => x.started) (qpOf s q).wqes).all fun (x : Wqe) => x.out) = true) ∧ (w.fence = true → ((List.filter (fun (x : Wqe) => x.started) (qpOf s q).wqes).all fun (y : Wqe) => !(y.op == 3 || y.op == 4)) = true) ∧ (t = setQp s q ({ qpOf s q with wqes := List.map (fun (y : Wqe) => if y.id = w.id then { id := w.id, raw := w.raw, started := true, out := w.out, sent := w.sent, acked := w.acked, first := (qpOf s q).sendPsn, span := w.span, got := w.got, placed := w.placed, answer := w.answer : Wqe } else y) (qpOf s q).wqes })) ∧ (op = 2) :=
  ⟨ShuttleRequests_5_s, 32767, 2, ShuttleRequests_5_w, ShuttleRequests_5_t, by decide +kernel⟩

def ShuttleRequests_6_s : State := onlyQp 32767 { state := qsRTS, sendPsn := 7, wqes := [{ id := 0, raw := [3, 0, 0, 0, 64, 0, 0, 0] }] }
def ShuttleRequests_6_w : Wqe := { id := 0, raw := [3, 0, 0, 0, 64, 0, 0, 0] }
def ShuttleRequests_6_t : State := setQp ShuttleRequests_6_s 32767 { qpOf ShuttleRequests_6_s 32767 with wqes := (qpOf ShuttleRequests_6_s 32767).wqes.map fun y => if y.id = ShuttleRequests_6_w.id then { ShuttleRequests_6_w with started := true, first := (qpOf ShuttleRequests_6_s 32767).sendPsn } else y }
theorem witness_ShuttleRequests_6 : ∃ (s : State) (q : Nat) (op : Nat) (w : Wqe) (t : State), ((qpOf s q).state = qsRTS ∨ (qpOf s q).state = qsDRAINING) ∧ (List.find? (fun (y : Wqe) => !y.started) (qpOf s q).wqes = some w) ∧ (w.op = op) ∧ (wqeOk w = true) ∧ (((List.filter (fun (x : Wqe) => x.started) (qpOf s q).wqes).all fun (x : Wqe) => x.out) = true) ∧ (w.fence = true → ((List.filter (fun (x : Wqe) => x.started) (qpOf s q).wqes).all fun (y : Wqe) => !(y.op == 3 || y.op == 4)) = true) ∧ (t = setQp s q ({ qpOf s q with wqes := List.map (fun (y : Wqe) => if y.id = w.id then { id := w.id, raw := w.raw, started := true, out := w.out, sent := w.sent, acked := w.acked, first := (qpOf s q).sendPsn, span := w.span, got := w.got, placed := w.placed, answer := w.answer : Wqe } else y) (qpOf s q).wqes })) ∧ (op = 3) :=
  ⟨ShuttleRequests_6_s, 32767, 3, ShuttleRequests_6_w, ShuttleRequests_6_t, by decide +kernel⟩

def ShuttleRequests_7_s : State := onlyQp 32767 { state := qsRTS, sendPsn := 7, wqes := [{ id := 0, raw := [4, 0, 0, 0, 0, 0, 0, 0] }] }
def ShuttleRequests_7_w : Wqe := { id := 0, raw := [4, 0, 0, 0, 0, 0, 0, 0] }
def ShuttleRequests_7_t : State := setQp ShuttleRequests_7_s 32767 { qpOf ShuttleRequests_7_s 32767 with wqes := (qpOf ShuttleRequests_7_s 32767).wqes.map fun y => if y.id = ShuttleRequests_7_w.id then { ShuttleRequests_7_w with started := true, first := (qpOf ShuttleRequests_7_s 32767).sendPsn } else y }
theorem witness_ShuttleRequests_7 : ∃ (s : State) (q : Nat) (op : Nat) (w : Wqe) (t : State), ((qpOf s q).state = qsRTS ∨ (qpOf s q).state = qsDRAINING) ∧ (List.find? (fun (y : Wqe) => !y.started) (qpOf s q).wqes = some w) ∧ (w.op = op) ∧ (wqeOk w = true) ∧ (((List.filter (fun (x : Wqe) => x.started) (qpOf s q).wqes).all fun (x : Wqe) => x.out) = true) ∧ (w.fence = true → ((List.filter (fun (x : Wqe) => x.started) (qpOf s q).wqes).all fun (y : Wqe) => !(y.op == 3 || y.op == 4)) = true) ∧ (t = setQp s q ({ qpOf s q with wqes := List.map (fun (y : Wqe) => if y.id = w.id then { id := w.id, raw := w.raw, started := true, out := w.out, sent := w.sent, acked := w.acked, first := (qpOf s q).sendPsn, span := w.span, got := w.got, placed := w.placed, answer := w.answer : Wqe } else y) (qpOf s q).wqes })) ∧ (op = 4) :=
  ⟨ShuttleRequests_7_s, 32767, 4, ShuttleRequests_7_w, ShuttleRequests_7_t, by decide +kernel⟩

def ShuttleRequests_8_s : State := fld (G_CTL grSHT 15 0) G_CTL_ENABLE 1 (onlyQp 32767 { state := qsRTS, sendPsn := 7, window := 65536, peer := 5 * 4096 + 0x201, wqes := [{ id := 0, raw := [3, 0, 0, 0, 0, 32, 0, 0], started := true }] })
def ShuttleRequests_8_left : Nat := max 1 (rdF ShuttleRequests_8_s (SHT_SLICE 15) SHT_SLICE_QUANTUM)
def ShuttleRequests_8_w : Wqe := { id := 0, raw := [3, 0, 0, 0, 0, 32, 0, 0], started := true }
theorem witness_ShuttleRequests_8 : ∃ (s : State) (n : Nat) (q : Nat) (left : Nat) (w : Wqe), (n < 16) ∧ (s.flt.safe = false)
    ∧ (regionOff s true n = false) ∧ (unitOn s grSHT n = true) ∧ (shtTurn s n = some (q, left)) ∧ (shtNext (qpOf s q) = some (ShtItem.req w))
    ∧ (qpEngine q = n) ∧ (∀ y ∈ (qpOf s q).wqes, wqeOk y = true) ∧ (hasRoute s (Origin.region n) (reqMsg s q w (qpOf s q).sendPsn).hdr = true) :=
  ⟨ShuttleRequests_8_s, 15, 32767, ShuttleRequests_8_left, ShuttleRequests_8_w, by decide +kernel⟩

def ShuttleSegments_1_s : State := fld (SHT_ACK 15) SHT_ACK_EVERY 15 (let h := onlyQp 32767 { state := qsRTS, part := 2, recvPsn := 7, window := 1 }; { h with sht := { h.sht with regs := [(5, { state := 1, part := 2, rights := 1, len := 4096 })] } })
def ShuttleSegments_1_m : Msg := segment 15 32767 0 7 2 5 4094 [1, 2]
theorem witness_ShuttleSegments_1 : ∃ (s : State) (n : Nat) (q : Nat) (m : Msg), (NextSeg s n q m)
    ∧ (regRefuses s (qpOf s q).part (smKey m) (smAddr m) (smLen m) 0 = none) :=
  ⟨ShuttleSegments_1_s, 15, 32767, ShuttleSegments_1_m, by decide +kernel⟩

def ShuttleSegments_2_s : State := fld (SHT_ACK 15) SHT_ACK_EVERY 15 (let h := onlyQp 32767 { state := qsRTS, part := 2, recvPsn := 7, recvs := [⟨0, 0, 0, 4096, 0, 0, false, 0⟩] }; { h with sht := { h.sht with turns := [] } })
def ShuttleSegments_2_m : Msg := segment 15 32767 0 7 2 0 4094 [1, 2]
def ShuttleSegments_2_r : RecvMsg := ⟨0, 0, 0, 4096, 0, 0, false, 0⟩
theorem witness_ShuttleSegments_2 : ∃ (s : State) (n : Nat) (q : Nat) (m : Msg) (r : RecvMsg), (NextSeg s n q m)
    ∧ (List.find? (fun (y : RecvMsg) => !y.last) (qpOf s q).recvs = some r) ∧ (smAddr m + smLen m ≤ r.len) :=
  ⟨ShuttleSegments_2_s, 15, 32767, ShuttleSegments_2_m, ShuttleSegments_2_r, by decide +kernel⟩

def ShuttleSegments_3_s : State := fld (SHT_ACK 15) SHT_ACK_EVERY 15 (let h := onlyQp 32767 { state := qsRTS, part := 2, recvPsn := 7, window := 1 }; { h with sht := { h.sht with regs := [(5, { state := 1, part := 2, rights := 2, len := 8192 })] } })
def ShuttleSegments_3_m : Msg := segment 15 32767 0 7 8192 5 0 []
theorem witness_ShuttleSegments_3 : ∃ (s : State) (n : Nat) (q : Nat) (m : Msg), (NextSeg s n q m)
    ∧ (regRefuses s (qpOf s q).part (smKey m) (smAddr m) (smLen m) 1 = none) :=
  ⟨ShuttleSegments_3_s, 15, 32767, ShuttleSegments_3_m, by decide +kernel⟩

def ShuttleSegments_4_s : State := fld (SHT_ACK 15) SHT_ACK_EVERY 15 (let h := onlyQp 32767 { state := qsRTS, part := 2, recvPsn := 7, places := [⟨6, none, none, some 5, 0, [1]⟩] }; { h with sht := { h.sht with turns := [] } })
def ShuttleSegments_4_m : Msg := segment 15 32767 0 7 0 0 0 []
def ShuttleSegments_4_p : Place := ⟨6, none, none, some 5, 0, [1]⟩
theorem witness_ShuttleSegments_4 : ∃ (s : State) (n : Nat) (q : Nat) (m : Msg) (p : Place), (NextSeg s n q m) ∧ ((qpOf s q).places = [p])
    ∧ (p.read = none) ∧ (psub (smPsn m) p.psn < 2 ^ 23) :=
  ⟨ShuttleSegments_4_s, 15, 32767, ShuttleSegments_4_m, ShuttleSegments_4_p, by decide +kernel⟩

def ShuttleSegments_5_s : State := fld (SHT_ACK 15) SHT_ACK_EVERY 15 (let h := onlyQp 32767 { state := qsRTS, part := 2, recvPsn := 7, peer := 5 * 4096 + 0x20F }; { h with sht := { h.sht with turns := [] } })
def ShuttleSegments_5_m : Msg := segment 15 32767 0 8 2 5 0 [1, 2]
theorem witness_ShuttleSegments_5 : ∃ (s : State) (n : Nat) (q : Nat) (m : Msg), (ToQp s n q m) ∧ (blockFenced s grSHT n = false)
    ∧ (regionOff s true n = false) ∧ (0 < psub (smPsn m) (qpOf s q).recvPsn) ∧ (psub (smPsn m) (qpOf s q).recvPsn < 2 ^ 23)
    ∧ ((qpOf s q).gap = false) ∧ (hasRoute s (Origin.region n) (shtMsg s q 7 0 shSEQ (qpOf s q).recvPsn 0 0 0 []).hdr = true) :=
  ⟨ShuttleSegments_5_s, 15, 32767, ShuttleSegments_5_m, by decide +kernel⟩

def ShuttleSegments_6_s : State := fld (SHT_ACK 15) SHT_ACK_EVERY 15 (let h := onlyQp 32767 { state := qsRTS, part := 2, recvPsn := 7, wqes := [{ id := 0, raw := [3], started := true, out := true, first := 7, span := 1 }] }; { h with sht := { h.sht with turns := [] } })
def ShuttleSegments_6_m : Msg := segment 15 32767 0 7 2 0 0 [1, 2]
def ShuttleSegments_6_w : Wqe := { id := 0, raw := [3], started := true, out := true, first := 7, span := 1 }
theorem witness_ShuttleSegments_6 : ∃ (s : State) (n : Nat) (q : Nat) (m : Msg) (w : Wqe), (ToQp s n q m)
    ∧ (List.find? (fun (w : Wqe) => w.op == 3 && w.out && decide (psub (smPsn m) w.first < w.span) && !w.got.contains (smPsn m)) (qpOf s q).wqes = some w) :=
  ⟨ShuttleSegments_6_s, 15, 32767, ShuttleSegments_6_m, ShuttleSegments_6_w, by decide +kernel⟩

def ShuttleSegments_7_s : State := fld (SHT_ACK 15) SHT_ACK_EVERY 15 (let h := onlyQp 32767 { state := qsRTS, part := 2, recvPsn := 7, places := [⟨6, none, none, some 5, 7 * 2 ^ 52, [1]⟩] }; { h with sht := { h.sht with turns := [] } })
def ShuttleSegments_7_p : Place := ⟨6, none, none, some 5, 7 * 2 ^ 52, [1]⟩
theorem witness_ShuttleSegments_7 : ∃ (s : State) (q : Nat) (psn : Nat) (p : Place), (s.sht.late.contains (q, psn) = false)
    ∧ (List.find? (fun (y : Place) => y.psn == psn) (qpOf s q).places = some p) :=
  ⟨ShuttleSegments_7_s, 32767, 6, ShuttleSegments_7_p, by decide +kernel⟩

def ShuttleSegments_8_s : State := fld (SHT_ACK 15) SHT_ACK_EVERY 15 (let h := onlyQp 32767 { state := qsRTS, part := 2, recvPsn := 7, window := 1 }; { h with sht := { h.sht with turns := [] } })
def ShuttleSegments_8_p : Place := ⟨6, none, none, some 5, 7 * 2 ^ 52, [1]⟩
theorem witness_ShuttleSegments_8 : ∃ (s : State) (q : Nat) (p : Place), (p.read = none) ∧ (p.recv = none) ∧ ((qpOf s q).recvs = [])
    ∧ ((qpOf s q).flushes = []) :=
  ⟨ShuttleSegments_8_s, 32767, ShuttleSegments_8_p, by decide +kernel⟩

def SigningIndex_1_s : State := fld SEC_ATTEST_CTL SEC_ATTEST_CTL_BUSY 1 { State.reset with sec := { index := 2 ^ 40 - 1 } }
theorem witness_SigningIndex_1 : ∃ (s : State), (rdBit s SEC_ATTEST_CTL SEC_ATTEST_CTL_BUSY = true) ∧ (s.sec.index < 2 ^ 40) :=
  ⟨SigningIndex_1_s, by decide +kernel⟩

def SigningIndex_2_s : State := fld SEC_ATTEST_CTL SEC_ATTEST_CTL_BUSY 1 { State.reset with sec := { index := 2 ^ 40 - 1 } }
theorem witness_SigningIndex_2 : ∃ (s : State), (rdBit s SEC_ATTEST_CTL SEC_ATTEST_CTL_BUSY = true) ∧ (s.sec.index < 2 ^ 40) :=
  ⟨SigningIndex_2_s, by decide +kernel⟩

def SigningIndex_3_s : State := fld SEC_ATTEST_CTL SEC_ATTEST_CTL_BUSY 1 { State.reset with sec := { index := 2 ^ 40 } }
theorem witness_SigningIndex_3 : ∃ (s : State) (b : Bool), (rdBit s SEC_ATTEST_CTL SEC_ATTEST_CTL_BUSY = true) ∧ (2 ^ 40 ≤ s.sec.index) :=
  ⟨SigningIndex_3_s, true, by decide +kernel⟩

def SramHoldsWhatIsStored_1_s : State := { State.reset with sramBad := [sramSize / 8 * 16 - 1] }
def SramHoldsWhatIsStored_1_a : Nat := sramSize - 2
theorem witness_SramHoldsWhatIsStored_1 : ∃ (s : State) (n : Nat) (a : Nat) (d : Bytes), a + List.length d ≤ sramSize :=
  ⟨SramHoldsWhatIsStored_1_s, 15, SramHoldsWhatIsStored_1_a, [1, 2], by decide +kernel⟩

def SramHoldsWhatIsStored_2_s : State := { State.reset with sramBad := [sramSize / 8 * 16 - 1] }
def SramHoldsWhatIsStored_2_a : Nat := sramSize - 2
theorem witness_SramHoldsWhatIsStored_2 : ∃ (s : State) (n : Nat) (a : Nat) (d : Bytes) (m : Nat) (b : Nat) (k : Nat), (a + List.length d ≤ sramSize) ∧ (b + k ≤ sramSize) ∧ (m ≠ n ∨ b + k ≤ a ∨ a + List.length d ≤ b) :=
  ⟨SramHoldsWhatIsStored_2_s, 14, SramHoldsWhatIsStored_2_a, [1, 2], 15, 0, 2, by decide +kernel⟩

def SramHoldsWhatIsStored_3_s : State := { State.reset with sramBad := [sramSize / 8 * 16 - 1] }
def SramHoldsWhatIsStored_3_a : Nat := sramSize - 2
theorem witness_SramHoldsWhatIsStored_3 : ∃ (s : State) (n : Nat) (a : Nat) (d : Bytes), (a + List.length d ≤ sramSize) ∧ (d ≠ []) :=
  ⟨SramHoldsWhatIsStored_3_s, 15, SramHoldsWhatIsStored_3_a, [1, 2], by decide +kernel⟩

def SramHoldsWhatIsStored_4_s : State := { State.reset with sramBad := [sramSize / 8 * 16 - 1] }
def SramHoldsWhatIsStored_4_a : Nat := sramSize - 2
theorem witness_SramHoldsWhatIsStored_4 : ∃ (s : State) (n : Nat) (a : Nat) (d : Bytes), a + List.length d ≤ sramSize :=
  ⟨SramHoldsWhatIsStored_4_s, 15, SramHoldsWhatIsStored_4_a, [1, 2], by decide +kernel⟩

def StationUnitsRun_1_s : State := { atStation ({ aStep tyINGRESS 1 with arg0 := 9 }) ([]) with tiles := [⟨0, ⟨{ type := tTILE }, leBytes 4 (9 + 7 * 2 ^ 24) ++ leBytes 4 0 ++ leBytes 2 0 ++ zeros 2 ++ leBytes 4 1 ++ [5]⟩, false, true, []⟩] }
def StationUnitsRun_1_st : Step := { aStep tyINGRESS 1 with arg0 := 9 }
theorem witness_StationUnitsRun_1 : ∃ (s : State) (b : Nat) (i : Nat) (st : Step), StepMayRun s b i st tyINGRESS :=
  ⟨StationUnitsRun_1_s, 5, 0, StationUnitsRun_1_st, by decide +kernel⟩

def StationUnitsRun_2_s : State := fld CHP_SWITCH_ID CHP_SWITCH_ID_ID 5 (setLink (atStation ({ aStep tyEGRESS 1 with arg0 := 5 * 4096 + 48 }) ([])) 3 lsACTIVE)
def StationUnitsRun_2_st : Step := { aStep tyEGRESS 1 with arg0 := 5 * 4096 + 48 }
theorem witness_StationUnitsRun_2 : ∃ (s : State) (b : Nat) (i : Nat) (st : Step), StepMayRun s b i st tyEGRESS :=
  ⟨StationUnitsRun_2_s, 5, 0, StationUnitsRun_2_st, by decide +kernel⟩

def StationUnitsRun_3_s : State := atStation (aStep tyLOAD 1) ([])
def StationUnitsRun_3_st : Step := aStep tyLOAD 1
theorem witness_StationUnitsRun_3 : ∃ (s : State) (b : Nat) (i : Nat) (st : Step), StepMayRun s b i st tyLOAD :=
  ⟨StationUnitsRun_3_s, 5, 0, StationUnitsRun_3_st, by decide +kernel⟩

def StationUnitsRun_4_s : State := atStation (aStep tySTORE 1) ([])
def StationUnitsRun_4_st : Step := aStep tySTORE 1
theorem witness_StationUnitsRun_4 : ∃ (s : State) (b : Nat) (i : Nat) (st : Step), StepMayRun s b i st tySTORE :=
  ⟨StationUnitsRun_4_s, 5, 0, StationUnitsRun_4_st, by decide +kernel⟩

def StationUnitsRun_5_s : State := atStation (aStep tyEXPAND 128) (zeros 16)
def StationUnitsRun_5_st : Step := aStep tyEXPAND 128
theorem witness_StationUnitsRun_5 : ∃ (s : State) (b : Nat) (i : Nat) (st : Step), StepMayRun s b i st tyEXPAND :=
  ⟨StationUnitsRun_5_s, 5, 0, StationUnitsRun_5_st, by decide +kernel⟩

def StationUnitsRun_6_s : State := atStation (aStep tyMATMUL 1) (zeros 8)
def StationUnitsRun_6_st : Step := aStep tyMATMUL 1
theorem witness_StationUnitsRun_6 : ∃ (s : State) (b : Nat) (i : Nat) (st : Step), StepMayRun s b i st tyMATMUL :=
  ⟨StationUnitsRun_6_s, 5, 0, StationUnitsRun_6_st, by decide +kernel⟩

def StationUnitsRun_7_s : State := atStation (aStep tyELEMWISE 1) (zeros 9 ++ [1] ++ zeros 14)
def StationUnitsRun_7_st : Step := aStep tyELEMWISE 1
theorem witness_StationUnitsRun_7 : ∃ (s : State) (b : Nat) (i : Nat) (st : Step), StepMayRun s b i st tyELEMWISE :=
  ⟨StationUnitsRun_7_s, 5, 0, StationUnitsRun_7_st, by decide +kernel⟩

def StationUnitsRun_8_s : State := atStation ({ aStep tyNORM 1 with in1 := none }) (zeros 16)
def StationUnitsRun_8_st : Step := { aStep tyNORM 1 with in1 := none }
theorem witness_StationUnitsRun_8 : ∃ (s : State) (b : Nat) (i : Nat) (st : Step), StepMayRun s b i st tyNORM :=
  ⟨StationUnitsRun_8_s, 5, 0, StationUnitsRun_8_st, by decide +kernel⟩

def StationUnitsRun_9_s : State := atStation (aStep tyATTEND 128) (zeros 10 ++ [1, 1] ++ leBytes 4 0x3F800000 ++ zeros 16)
def StationUnitsRun_9_st : Step := aStep tyATTEND 128
theorem witness_StationUnitsRun_9 : ∃ (s : State) (b : Nat) (i : Nat) (st : Step), StepMayRun s b i st tyATTEND :=
  ⟨StationUnitsRun_9_s, 5, 0, StationUnitsRun_9_st, by decide +kernel⟩

def StationUnitsRun_10_s : State := { atStation ({ aStep tyREDUCE 1 with arg0 := 4 }) ([]) with colls := [(4, { state := 1, desc := (leBytes 4 (2 * 2 ^ 8 + 7 * 2 ^ 16) ++ [1, 0, 0, 127] ++ leBytes 4 7 ++ leBytes 4 8 ++ leBytes 4 4 ++ leBytes 2 1 ++ leBytes 2 0 ++ leBytes 4 0 ++ leBytes 4 77 ++ zeros 32) })], sets := [⟨4, 0, 0, 0, List.replicate 128 {}, [], 0, false⟩] }
def StationUnitsRun_10_st : Step := { aStep tyREDUCE 1 with arg0 := 4 }
theorem witness_StationUnitsRun_10 : ∃ (s : State) (b : Nat) (i : Nat) (st : Step), StepMayRun s b i st tyREDUCE :=
  ⟨StationUnitsRun_10_s, 5, 0, StationUnitsRun_10_st, by decide +kernel⟩

def StationUnitsRun_11_s : State := atStation (aStep tyGATHER 128) ([])
def StationUnitsRun_11_st : Step := aStep tyGATHER 128
theorem witness_StationUnitsRun_11 : ∃ (s : State) (b : Nat) (i : Nat) (st : Step), StepMayRun s b i st tyGATHER :=
  ⟨StationUnitsRun_11_s, 5, 0, StationUnitsRun_11_st, by decide +kernel⟩

def StationUnitsRun_12_s : State := { atStation (aStep tySCATTER 128) ([]) with sram := (List.range 512).map fun k => (k, 0xFF) }
def StationUnitsRun_12_st : Step := aStep tySCATTER 128
theorem witness_StationUnitsRun_12 : ∃ (s : State) (b : Nat) (i : Nat) (st : Step), StepMayRun s b i st tySCATTER :=
  ⟨StationUnitsRun_12_s, 5, 0, StationUnitsRun_12_st, by decide +kernel⟩

def StationUnitsRun_13_s : State := atStation ({ aStep tyFILTER 1 with in1 := none }) (zeros 32)
def StationUnitsRun_13_st : Step := { aStep tyFILTER 1 with in1 := none }
theorem witness_StationUnitsRun_13 : ∃ (s : State) (b : Nat) (i : Nat) (st : Step), StepMayRun s b i st tyFILTER :=
  ⟨StationUnitsRun_13_s, 5, 0, StationUnitsRun_13_st, by decide +kernel⟩

def StationUnitsRun_14_s : State := atStation (aStep tyCONVERT 1) (zeros 8)
def StationUnitsRun_14_st : Step := aStep tyCONVERT 1
theorem witness_StationUnitsRun_14 : ∃ (s : State) (b : Nat) (i : Nat) (st : Step), StepMayRun s b i st tyCONVERT :=
  ⟨StationUnitsRun_14_s, 5, 0, StationUnitsRun_14_st, by decide +kernel⟩

def StationUnitsRun_15_s : State := atStation (aStep tyCOMPRESS 1) (zeros 8 ++ [1, 0, 8, 0] ++ zeros 4)
def StationUnitsRun_15_st : Step := aStep tyCOMPRESS 1
theorem witness_StationUnitsRun_15 : ∃ (s : State) (b : Nat) (i : Nat) (st : Step), StepMayRun s b i st tyCOMPRESS :=
  ⟨StationUnitsRun_15_s, 5, 0, StationUnitsRun_15_st, by decide +kernel⟩

def StationUnitsRun_16_st : Step := aStep tyLOAD 1
def StationUnitsRun_16_c : Ctx := { s := State.reset, b := 5, part := some 2, step := StationUnitsRun_16_st }
theorem witness_StationUnitsRun_16 : ∃ (s : State) (b : Nat) (k : Nat) (st : Step) (c : Ctx), (c.stuck = false) ∧ (c.fault = none)
    ∧ (c.step.unit < c.step.units) :=
  ⟨State.reset, 5, 2, StationUnitsRun_16_st, StationUnitsRun_16_c, by decide +kernel⟩

def StationUnitsRun_17_st : Step := aStep tyLOAD 1
def StationUnitsRun_17_c : Ctx := { s := State.reset, b := 5, part := some 2, step := { StationUnitsRun_17_st with unit := 1 } }
theorem witness_StationUnitsRun_17 : ∃ (s : State) (b : Nat) (k : Nat) (st : Step) (c : Ctx), (c.stuck = false) ∧ (c.fault = none)
    ∧ (c.step.units ≤ c.step.unit) :=
  ⟨State.reset, 5, 2, StationUnitsRun_17_st, StationUnitsRun_17_c, by decide +kernel⟩

def StationUnitsRun_18_st : Step := aStep tyLOAD 1
def StationUnitsRun_18_c : Ctx := { s := State.reset, b := 5, part := some 2, step := StationUnitsRun_18_st, fault := some (3, 9) }
theorem witness_StationUnitsRun_18 : ∃ (s : State) (b : Nat) (k : Nat) (code : Nat) (det : Nat) (st : Step) (c : Ctx), (c.stuck = false)
    ∧ (c.fault = some (code, det)) :=
  ⟨State.reset, 5, 2, 3, 9, StationUnitsRun_18_st, StationUnitsRun_18_c, by decide +kernel⟩

def StationUnitsRun_19_st : Step := aStep tyLOAD 1
def StationUnitsRun_19_c : Ctx := { s := State.reset, b := 5, part := some 2, step := StationUnitsRun_19_st, stuck := true }
theorem witness_StationUnitsRun_19 : ∃ (s : State) (b : Nat) (k : Nat) (st : Step) (c : Ctx), c.stuck = true :=
  ⟨State.reset, 5, 2, StationUnitsRun_19_st, StationUnitsRun_19_c, by decide +kernel⟩

def StepsIssue_1_s : State := running 2 (image (station 3 14 0 0 7 0 0) [bobEntry 5 2] [1 + 0xFFFF * 2 ^ 64 + 0xFFFF * 2 ^ 80 + 0xFFFF * 2 ^ 96 + 7 * 2 ^ 52 * 2 ^ 128] []) {}
def StepsIssue_1_e : BobEnt := bobEntAt (image (station 3 14 0 0 7 0 0) [bobEntry 5 2] [1 + 0xFFFF * 2 ^ 64 + 0xFFFF * 2 ^ 80 + 0xFFFF * 2 ^ 96 + 7 * 2 ^ 52 * 2 ^ 128] []) 0
theorem witness_StepsIssue_1 : ∃ (s : State) (b : Nat) (e : BobEnt), (BobRuns s b 1) ∧ (s.flt.safe = false)
    ∧ (bobEnt (bobProg s b) (bobIdx b) = some e) ∧ ((bobOf s b).steps = []) ∧ (0 < e.maxReads) :=
  ⟨StepsIssue_1_s, 5, StepsIssue_1_e, by decide +kernel⟩

def StepsIssue_2_s : State := running 2 (image (station 3 14 0 0 7 0 0) [bobEntry 5 2] [1 + 0xFFFF * 2 ^ 64 + 0xFFFF * 2 ^ 80 + 0xFFFF * 2 ^ 96 + 7 * 2 ^ 52 * 2 ^ 128] []) {}
def StepsIssue_2_e : BobEnt := bobEntAt (image (station 3 14 0 0 7 0 0) [bobEntry 5 2] [1 + 0xFFFF * 2 ^ 64 + 0xFFFF * 2 ^ 80 + 0xFFFF * 2 ^ 96 + 7 * 2 ^ 52 * 2 ^ 128] []) 0
theorem witness_StepsIssue_2 : ∃ (s : State) (b : Nat) (e : BobEnt), (BobRuns s b 1) ∧ (s.flt.safe = false)
    ∧ (bobEnt (bobProg s b) (bobIdx b) = some e) ∧ ((bobOf s b).steps = []) ∧ (0 < e.maxReads)
    ∧ (bits (descAt (bobProg s b) (bobCursor s b)) 12 8 < phStations (bobProg s b))
    ∧ (bobSched s b = true ∨ (stnOf (bobProg s b) (bits (descAt (bobProg s b) (bobCursor s b)) 12 8)).unsched = true)
    ∧ (planned (stnOf (bobProg s b) (bits (descAt (bobProg s b) (bobCursor s b)) 12 8)).type = none)
    ∧ (blockFenced s grSTN (32 * bobRgn b + (stnOf (bobProg s b) (bits (descAt (bobProg s b) (bobCursor s b)) 12 8)).engine) = false)
    ∧ (engineResetting s grSTN (32 * bobRgn b + (stnOf (bobProg s b) (bits (descAt (bobProg s b) (bobCursor s b)) 12 8)).engine) = false)
    ∧ (runFits ((fun (hi lo k : Nat) => operandPlace (bobProg s b) e (bits (descAt (bobProg s b) (bobCursor s b)) hi lo) (slotStride (bobOf s b).stack) (bit (descAt (bobProg s b) (bobCursor s b)) (16 + k))) 79 64 0) (operandGran (stnOf (bobProg s b) (bits (descAt (bobProg s b) (bobCursor s b)) 12 8)) (bits (descAt (bobProg s b) (bobCursor s b)) 207 192) (bits (descAt (bobProg s b) (bobCursor s b)) 214 208 + 1)).1 = true) ∧ (runFits ((fun (hi lo k : Nat) => operandPlace (bobProg s b) e (bits (descAt (bobProg s b) (bobCursor s b)) hi lo) (slotStride (bobOf s b).stack) (bit (descAt (bobProg s b) (bobCursor s b)) (16 + k))) 95 80 1) (operandGran (stnOf (bobProg s b) (bits (descAt (bobProg s b) (bobCursor s b)) 12 8)) (bits (descAt (bobProg s b) (bobCursor s b)) 207 192) (bits (descAt (bobProg s b) (bobCursor s b)) 214 208 + 1)).2.1 = true) ∧ (runFits ((fun (hi lo k : Nat) => operandPlace (bobProg s b) e (bits (descAt (bobProg s b) (bobCursor s b)) hi lo) (slotStride (bobOf s b).stack) (bit (descAt (bobProg s b) (bobCursor s b)) (16 + k))) 111 96 2) (operandGran (stnOf (bobProg s b) (bits (descAt (bobProg s b) (bobCursor s b)) 12 8)) (bits (descAt (bobProg s b) (bobCursor s b)) 207 192) (bits (descAt (bobProg s b) (bobCursor s b)) 214 208 + 1)).2.2.1 = true) ∧ (runFits ((fun (hi lo k : Nat) => operandPlace (bobProg s b) e (bits (descAt (bobProg s b) (bobCursor s b)) hi lo) (slotStride (bobOf s b).stack) (bit (descAt (bobProg s b) (bobCursor s b)) (16 + k))) 127 112 3) (operandGran (stnOf (bobProg s b) (bits (descAt (bobProg s b) (bobCursor s b)) 12 8)) (bits (descAt (bobProg s b) (bobCursor s b)) 207 192) (bits (descAt (bobProg s b) (bobCursor s b)) 214 208 + 1)).2.2.2 = true) :=
  ⟨StepsIssue_2_s, 5, StepsIssue_2_e, by decide +kernel⟩

def StepsIssue_3_s : State := running 2 (image (station 3 14 0 0 7 0 0) [bobEntry 5 2] [1 + 0xFFFF * 2 ^ 64 + 0xFFFF * 2 ^ 80 + 0xFFFF * 2 ^ 96 + 7 * 2 ^ 52 * 2 ^ 128] []) { steps := [{ aStep tyLOAD 1 with reading := 2 }] }
def StepsIssue_3_e : BobEnt := bobEntAt (image (station 3 14 0 0 7 0 0) [bobEntry 5 2] [1 + 0xFFFF * 2 ^ 64 + 0xFFFF * 2 ^ 80 + 0xFFFF * 2 ^ 96 + 7 * 2 ^ 52 * 2 ^ 128] []) 0
def StepsIssue_3_st : Step := { aStep tyLOAD 1 with reading := 2 }
theorem witness_StepsIssue_3 : ∃ (s : State) (b : Nat) (e : BobEnt) (st : Step), ((bobOf s b).steps = [st]) ∧ (0 < st.reading) ∧ (st.toRead = 0)
    ∧ (bobEnt (bobProg s b) (bobIdx b) = some e) ∧ (bobState s b = bsRUNNING) :=
  ⟨StepsIssue_3_s, 5, StepsIssue_3_e, StepsIssue_3_st, by decide +kernel⟩

def StepsIssue_4_s : State := running 2 (image (station 3 14 0 0 7 0 0) [bobEntry 5 2] [1 + 0xFFFF * 2 ^ 64 + 0xFFFF * 2 ^ 80 + 0xFFFF * 2 ^ 96 + 7 * 2 ^ 52 * 2 ^ 128] []) { steps := [{ aStep tyLOAD 1 with unit := 1 }] }
def StepsIssue_4_st : Step := { aStep tyLOAD 1 with unit := 1 }
theorem witness_StepsIssue_4 : ∃ (s : State) (b : Nat) (st : Step), (b < 4096) ∧ (st.engine < 32) ∧ ((bobOf s b).steps = [st])
    ∧ (st.units ≤ st.unit) ∧ (bobState s b = bsRUNNING) :=
  ⟨StepsIssue_4_s, 5, StepsIssue_4_st, by decide +kernel⟩

def StickyBitsClear_1_s : State := reg (G_ERR_STICKY grPRT 255 0) 7 State.reset
theorem witness_StickyBitsClear_1 : ∃ (s : State) (g : Nat) (u : Nat) (p : Nat) (w : Word), (g < 22) ∧ (u < 4096) ∧ (p < 16)
    ∧ (pageExists (G_ERR_STICKY g u p) = true) ∧ (guardOf s (G_ERR_STICKY g u p) = none) ∧ (unitParked s g u = false) ∧ (s.flt.causes = []) :=
  ⟨StickyBitsClear_1_s, grPRT, 255, 0, (5 : Word), by decide +kernel⟩

def StickyBitsClear_2_s : State := reg (G_ERR_STICKY grPRT 255 0) 7 { State.reset with flt := { State.reset.flt with causes := [⟨⟨grPRT, 0, 2⟩, 255, 7⟩] } }
def StickyBitsClear_2_c : Cause := ⟨⟨grPRT, 0, 2⟩, 255, 7⟩
theorem witness_StickyBitsClear_2 : ∃ (s : State) (g : Nat) (u : Nat) (p : Nat) (w : Word) (c : Cause), (g < 22) ∧ (u < 4096) ∧ (p < 16)
    ∧ (pageExists (G_ERR_STICKY g u p) = true) ∧ (guardOf s (G_ERR_STICKY g u p) = none) ∧ (unitParked s g u = false) ∧ (s.flt.causes = [c])
    ∧ (c.src.bit ≠ 15) :=
  ⟨StickyBitsClear_2_s, grPRT, 255, 0, (5 : Word), StickyBitsClear_2_c, by decide +kernel⟩

def StickyBitsClear_3_s : State := fld SEC_DEBUG SEC_DEBUG_INJECT 1 State.reset
theorem witness_StickyBitsClear_3 : ∃ (s : State) (g : Nat) (u : Nat) (p : Nat) (w : Word), (g < 22) ∧ (u < 4096) ∧ (p < 16)
    ∧ (pageExists (G_ERR_INJECT g u p) = true) ∧ (guardOf s (G_ERR_INJECT g u p) = none) ∧ (unitParked s g u = false)
    ∧ (rdBit s SEC_DEBUG SEC_DEBUG_INJECT = true) ∧ (debugAllowed s g u = true) :=
  ⟨StickyBitsClear_3_s, grPRT, 255, 0, (1 : Word), by decide +kernel⟩

def StoresComeFirst_3_st : List (Nat × Byte) := [(5, 1)]
theorem witness_StoresComeFirst_3 : ∃ (s : State) (st : List (Nat × Byte)) (c : Nat) (l : List (Nat × Nat × Nat × Nat × Nat × Nat)) (p : List (Nat × Nat)) (d : List (Nat × Bytes)), c < 16 :=
  ⟨State.reset, StoresComeFirst_3_st, 15, [], [], [], by decide +kernel⟩

theorem witness_SupplyAndTemperature_1 : ∃ (s : State) (w : Word), (guardOf s PWR_RAIL_SEL = none) ∧ (PWR_RAIL_SEL_RAIL.get w < 44) :=
  ⟨State.reset, (43 : Word), by decide +kernel⟩

theorem witness_SupplyAndTemperature_2 : ∃ (s : State) (w : Word), (guardOf s PWR_RAIL_SEL = none) ∧ (44 ≤ PWR_RAIL_SEL_RAIL.get w) :=
  ⟨State.reset, (44 : Word), by decide +kernel⟩

theorem witness_SupplyAndTemperature_4 : ∃ (s : State) (r : Nat) (mv : Nat), (coreRail r = true)
    ∧ (mv < rdF s PWR_SUPPLY_LIMITS PWR_SUPPLY_LIMITS_WARN_MV) ∧ (r ∉ s.pwr.below) :=
  ⟨State.reset, 40, 0, by decide +kernel⟩

theorem witness_SupplyAndTemperature_5 : ∃ (s : State) (r : Nat) (mv : Nat), (r < 44) ∧ (railFaults r mv = true) ∧ (r ∉ s.pwr.bad)
    ∧ (gatableRail r = false) :=
  ⟨State.reset, 43, 0, by decide +kernel⟩

def SupplyAndTemperature_6_s : State := { State.reset with pwr := { bad := [43] } }
theorem witness_SupplyAndTemperature_6 : ∃ (s : State) (r : Nat) (mv : Nat), (r < 44) ∧ (railGood r mv = true) ∧ (s.pwr.bad = [r]) :=
  ⟨SupplyAndTemperature_6_s, 43, 1800, by decide +kernel⟩

theorem witness_SupplyAndTemperature_7 : ∃ (s : State) (n : Nat) (x : Int), (n ∈ thermRegions) ∧ (-32768 ≤ x) ∧ (x < 32768)
    ∧ (16 * ↑(rdF s PWR_THERM PWR_THERM_WARN) < x) ∧ (n ∉ s.pwr.warm) :=
  ⟨State.reset, 64, 32767, by decide +kernel⟩

theorem witness_SupplyAndTemperature_8 : ∃ (s : State) (n : Nat) (x : Int), (n ∈ thermRegions) ∧ (1760 ≤ x) ∧ (n ∉ s.pwr.hot) :=
  ⟨State.reset, 16, 1760, by decide +kernel⟩

def SupplyAndTemperature_9_s : State := { State.reset with pwr := { hot := [51], trip := true } }
theorem witness_SupplyAndTemperature_9 : ∃ (s : State) (n : Nat) (x : Int), (n ∈ thermRegions) ∧ (x < 1760) :=
  ⟨SupplyAndTemperature_9_s, 51, 1759, by decide +kernel⟩

theorem witness_SupplyAndTemperature_10 : ∃ (s : State) (u : Nat), u < 512 :=
  ⟨State.reset, 511, by decide +kernel⟩

theorem witness_SupplyAndTemperature_11 : ∃ (s : State) (n : Nat) (k : Nat), (n < 16) ∧ (k < sramSize / 8)
    ∧ (s.sramBad.contains (sramSize / 8 * n + k) = false) :=
  ⟨State.reset, 15, 6291455, by decide +kernel⟩

def TickAdvancesTime_1_s : State := { State.reset with clk := ⟨2 ^ 62 - 1, 65535⟩, tim := { slew := -5 } }
theorem witness_TickAdvancesTime_1 : ∃ (s : State), (s.pending = []) ∧ (s.clk.ns < 2 ^ 62) ∧ (s.clk.frac < 2 ^ 16) :=
  ⟨TickAdvancesTime_1_s, by decide +kernel⟩

def TimeStates_1_s : State := fld TIM_SOURCE TIM_SOURCE_KIND 3 (fld TIM_STATE TIM_STATE_STATE tsLOCKED State.reset)
theorem witness_TimeStates_1 : ∃ (s : State), (timState s = tsLOCKED) ∧ (1 ≤ rdF s TIM_SOURCE TIM_SOURCE_KIND)
    ∧ (rdF s TIM_SOURCE TIM_SOURCE_KIND ≤ 3) :=
  ⟨TimeStates_1_s, by decide +kernel⟩

def TimeStates_2_s : State := fld TIM_STATE TIM_STATE_STATE tsHOLDOVER State.reset
theorem witness_TimeStates_2 : ∃ (s : State), timState s = tsHOLDOVER :=
  ⟨TimeStates_2_s, by decide +kernel⟩

def TimeStates_4_s : State := linked 3 lsACTIVE {}
theorem witness_TimeStates_4 : ∃ (s : State) (p : Nat), linkState s p = lsACTIVE :=
  ⟨TimeStates_4_s, 3, by decide +kernel⟩

theorem witness_TrafficControl_1 : ∃ (s : State) (p : Nat) (c : Nat), c < 5 :=
  ⟨State.reset, 255, 4, by decide +kernel⟩

def TrafficControl_2_s : State := reg (QOS_POL_VEP_A 255 15) 5 State.reset
theorem witness_TrafficControl_2 : ∃ (s : State) (p : Nat) (v : Nat), (v < 16) ∧ (s.ground.cells = []) :=
  ⟨TrafficControl_2_s, 255, 15, by decide +kernel⟩

theorem witness_TrafficControl_3 : ∃ (s : State) (p : Nat) (c : Nat), (c < 6) ∧ (s.ground.cells = []) :=
  ⟨State.reset, 255, 5, by decide +kernel⟩

def TrafficControl_4_s : State := { State.reset with ground := { flows := [⟨2, ⟨7, 9, 1, false, false⟩, some 0, [], [], none, false, []⟩] } }
def TrafficControl_4_f : Flow := ⟨2, ⟨7, 9, 1, false, false⟩, some 0, [], [], none, false, []⟩
theorem witness_TrafficControl_4 : ∃ (s : State) (n : Nat) (src : Nat) (dst : Nat) (tc : Nat) (a : Bool) (b : Bool) (f : Flow), (findFlow s n { src := src, dst := dst, tc := tc, sint := a, dint := b : FlowKey } = some f) ∧ (f.held = []) ∧ (f.first = none) ∧ (s.ground.cells = []) :=
  ⟨TrafficControl_4_s, 2, 7, 9, 1, false, false, TrafficControl_4_f, by decide +kernel⟩

def TrafficControl_5_s : State := { State.reset with ground := { flows := [⟨2, ⟨7, 9, 1, false, false⟩, none, [⟨2, .port 3, ⟨{ src := 7, dst := 9, tc := 1, spray := true, seq := 4 }, [1]⟩, some 3, none, true, .none, false, 0, 0, false⟩], [], none, false, []⟩] } }
def TrafficControl_5_f : Flow := ⟨2, ⟨7, 9, 1, false, false⟩, none, [⟨2, .port 3, ⟨{ src := 7, dst := 9, tc := 1, spray := true, seq := 4 }, [1]⟩, some 3, none, true, .none, false, 0, 0, false⟩], [], none, false, []⟩
def TrafficControl_5_c : GCell := ⟨2, .port 3, ⟨{ src := 7, dst := 9, tc := 1, spray := true, seq := 4 }, [1]⟩, some 3, none, true, .none, false, 0, 0, false⟩
theorem witness_TrafficControl_5 : ∃ (s : State) (n : Nat) (src : Nat) (dst : Nat) (tc : Nat) (a : Bool) (b : Bool) (f : Flow) (c : GCell), (findFlow s n { src := src, dst := dst, tc := tc, sint := a, dint := b : FlowKey } = some f) ∧ (f.e = none) ∧ (lowestHeld (openBase f) f.held = some c) :=
  ⟨TrafficControl_5_s, 2, 7, 9, 1, false, false, TrafficControl_5_f, TrafficControl_5_c, by decide +kernel⟩

def TrafficControl_6_s : State := { State.reset with ground := { flows := [⟨2, ⟨7, 9, 1, false, false⟩, some 0, [⟨2, .port 3, ⟨{ src := 7, dst := 9, tc := 1, spray := true, seq := 4 }, [1]⟩, some 3, none, true, .none, false, 0, 0, false⟩], [], none, false, []⟩] } }
def TrafficControl_6_f : Flow := ⟨2, ⟨7, 9, 1, false, false⟩, some 0, [⟨2, .port 3, ⟨{ src := 7, dst := 9, tc := 1, spray := true, seq := 4 }, [1]⟩, some 3, none, true, .none, false, 0, 0, false⟩], [], none, false, []⟩
theorem witness_TrafficControl_6 : ∃ (s : State) (n : Nat) (src : Nat) (dst : Nat) (tc : Nat) (a : Bool) (b : Bool) (f : Flow), (findFlow s n { src := src, dst := dst, tc := tc, sint := a, dint := b : FlowKey } = some f) ∧ (f.held ≠ []) ∧ (f.e ≠ none) :=
  ⟨TrafficControl_6_s, 2, 7, 9, 1, false, false, TrafficControl_6_f, by decide +kernel⟩

def TrafficControl_7_s : State := { State.reset with ground := { flows := [⟨2, ⟨7, 9, 1, false, false⟩, some 0, List.replicate 4096 ⟨2, .port 3, ⟨{ src := 7, dst := 9, tc := 1, spray := true, seq := 4 }, [1]⟩, some 3, none, true, .none, false, 0, 0, false⟩, [], none, false, []⟩] } }
def TrafficControl_7_f : Flow := ⟨2, ⟨7, 9, 1, false, false⟩, some 0, List.replicate 4096 ⟨2, .port 3, ⟨{ src := 7, dst := 9, tc := 1, spray := true, seq := 4 }, [1]⟩, some 3, none, true, .none, false, 0, 0, false⟩, [], none, false, []⟩
theorem witness_TrafficControl_7 : ∃ (s : State) (n : Nat) (f : Flow), (s.ground.flows = [f]) ∧ (f.prg = n) ∧ (4096 ≤ f.held.length) :=
  ⟨TrafficControl_7_s, 2, TrafficControl_7_f, rfl, rfl, by show 4096 ≤ (List.replicate 4096 _).length; rw [List.length_replicate]⟩

def TrafficControl_8_s : State := { State.reset with ground := { cells := [⟨2, .port 3, ⟨{ src := 7 * 4096, dst := 9 * 4096, tc := 1, seq := 4 }, [1]⟩, some 3, none, true, .none, false, 0, 0, false⟩], routeHolds := [⟨(7 * 4096 + 9) * 2, 3, 4, false, 1⟩] } }
def TrafficControl_8_path : Nat := (7 * 4096 + 9) * 2
def TrafficControl_8_h : RouteHold := ⟨(7 * 4096 + 9) * 2, 3, 4, false, 1⟩
def TrafficControl_8_c : GCell := ⟨2, .port 3, ⟨{ src := 7 * 4096, dst := 9 * 4096, tc := 1, seq := 4 }, [1]⟩, some 3, none, true, .none, false, 0, 0, false⟩
theorem witness_TrafficControl_8 : ∃ (s : State) (path : Nat) (h : RouteHold) (c : GCell), (s.ground.routeHolds = [h]) ∧ (h.path = path)
    ∧ (c ∈ s.ground.cells) ∧ (c.out = Out.port h.oldPort) ∧ (c.hold = Hold.none) ∧ (c.seg.hdr.spray = false) ∧ (c.stamp < h.at_) :=
  ⟨TrafficControl_8_s, TrafficControl_8_path, TrafficControl_8_h, TrafficControl_8_c, by decide +kernel⟩

def TrayLinks_1_s : State := fld (G_CTL grCXP 15 0) G_CTL_ENABLE 1 State.reset
theorem witness_TrayLinks_1 : ∃ (s : State) (c : Nat) (cap : Nat) (w : Nat) (v : Nat), (c < 16) ∧ (cxlOn s c = true) ∧ (cxlState s c ≠ 2)
    ∧ (s.mem.reqs = []) ∧ (cxlHost s c = true ∨ trayBad s c cap = false) :=
  ⟨TrayLinks_1_s, 15, 0, 3, 1, by decide +kernel⟩

def TrayLinks_2_s : State := fld (CXP_TRAY_T2 15) CXP_TRAY_T2_SIZE 5 (fld (G_CTL grCXP 15 0) G_CTL_ENABLE 1 State.reset)
theorem witness_TrayLinks_2 : ∃ (s : State) (c : Nat) (cap : Nat) (w : Nat) (v : Nat), (c < 16) ∧ (cxlOn s c = true) ∧ (cxlState s c ≠ 2)
    ∧ (s.mem.reqs = []) ∧ (cxlHost s c = false) ∧ (trayBad s c cap = true) :=
  ⟨TrayLinks_2_s, 15, 4, 3, 1, by decide +kernel⟩

def TrayLinks_3_s : State := fld (CXP_LINK_STATE 15) CXP_LINK_STATE_STATE 2 { State.reset with mem := { lateTags := [(15, 7, 0, 1), (14, 7, 0, 2)] } }
theorem witness_TrayLinks_3 : ∃ (s : State) (c : Nat), (c < 16) ∧ (cxlState s c ≠ 0) ∧ (s.mem.reqs = []) :=
  ⟨TrayLinks_3_s, 15, by decide +kernel⟩

def TrayLinks_5_s : State := let h := home; { h with mem := { h.mem with reqs := [{ arr := 0, prg := 1, msg := request tREAD 3 0 64 64 [], stage := .tray 15 [7], ext := 9, tier := 1, due := 0 }] } }
def TrayLinks_5_r : Req := { arr := 0, prg := 1, msg := request tREAD 3 0 64 64 [], stage := .tray 15 [7], ext := 9, tier := 1, due := 0 }
theorem witness_TrayLinks_5 : ∃ (s : State) (c : Nat) (tag : Nat) (ts : List Nat) (r : Req) (raw : Bytes), (c < 16) ∧ (s.mem.reqs = [r])
    ∧ (r.stage = Stage.tray c ts) ∧ (ts.contains tag = true) ∧ (r.op = none) ∧ (r.dev = none) ∧ (r.merged = false) ∧ (r.more = []) :=
  ⟨TrayLinks_5_s, 15, 7, [7], TrayLinks_5_r, [], by decide +kernel⟩

def TrayLinks_6_s : State := let h := home; { h with mem := { h.mem with reqs := [{ arr := 0, prg := 1, msg := request tREAD 3 0 64 64 [], stage := .tray 15 [7], ext := 9, tier := 1, due := 0 }] } }
def TrayLinks_6_r : Req := { arr := 0, prg := 1, msg := request tREAD 3 0 64 64 [], stage := .tray 15 [7], ext := 9, tier := 1, due := 0 }
theorem witness_TrayLinks_6 : ∃ (s : State) (c : Nat) (tag : Nat) (r : Req) (raw : Bytes), (c < 16) ∧ (s.mem.reqs = [r])
    ∧ (r.stage = Stage.tray c [tag]) :=
  ⟨TrayLinks_6_s, 15, 7, TrayLinks_6_r, [], by decide +kernel⟩

def TrayLinks_7_s : State := let h := home; { h with mem := { h.mem with lateTags := [(15, 7, 0, 1)] } }
theorem witness_TrayLinks_7 : ∃ (s : State) (c : Nat) (tag : Nat) (hub : Nat) (arr : Nat) (raw : Bytes), (s.mem.reqs = [])
    ∧ (s.mem.lateTags = [(c, tag, hub, arr)]) :=
  ⟨TrayLinks_7_s, 15, 7, 0, 1, [], by decide +kernel⟩

theorem witness_BootAndFirmware_1 : ∃ (s : State) (rails : List Nat), s.boot.on = false ∧ s.boot.shadow = some fuses
    ∧ ((List.range 44).all fun r => railGood r (rails.getD r 0)) = true :=
  ⟨{ State.reset with boot := { State.reset.boot with shadow := some fuses } }, (List.range 44).map fun r => if coreRail r then 750 else railLevel r, rfl, rfl, by decide +kernel⟩

theorem witness_StepKeepsCanon_1 : ∃ s t : State, Canon s ∧ step s = .next t := ⟨State.reset, _, ⟨nil_wf _, nil_wf _, nil_wf _, nil_wf _⟩, rfl⟩

end Sys2Proof.Tests
end

section
/-! PROOFS. Laws of shared operations, for the commands of every chapter: fields of merged words, stores, sources that fire, and direct
writes that no clause holds. -/

namespace Sys2Proof.Machine

/-! ### Fields and stores -/

/-- A field that a mask covers comes from the new word. -/
theorem Fld.get_mergeBits_in (f : Fld) (a b m : Word) (h : ∀ i < f.width, m.getLsbD (f.lo + i) = true) :
    f.get (mergeBits a b m) = f.get b := by
  apply Nat.eq_of_testBit_eq
  intro i
  rw [Fld.testBit_get, Fld.testBit_get, getLsbD_mergeBits]
  by_cases hi : i < f.width
  · simp [h i hi]
  · simp [hi]

/-- A field that a mask leaves out keeps its value. -/
theorem Fld.get_mergeBits_out (f : Fld) (a b m : Word) (h : ∀ i < f.width, m.getLsbD (f.lo + i) = false) :
    f.get (mergeBits a b m) = f.get a := by
  apply Nat.eq_of_testBit_eq
  intro i
  rw [Fld.testBit_get, Fld.testBit_get, getLsbD_mergeBits]
  by_cases hi : i < f.width
  · simp [h i hi]
  · simp [hi]

theorem rdF_wrReg_other (s : State) {a b : Nat} (w : Word) (f : Fld) (h : b ≠ a) : rdF (wrReg s a w) b f = rdF s b f := by
  simp [rdF, rdReg_wrReg_other, h]

/-- What a store leaves in control-die memory depends on that memory alone. -/
theorem cdWrite_cdmem_congr {s t : State} (h : t.cdmem = s.cdmem) (a : Nat) (d : Bytes) :
    (cdWrite t a d).cdmem = (cdWrite s a d).cdmem := by
  induction d generalizing s t a with
  | nil => exact h
  | cons b r ih => exact ih (by simp [cdPut, h]) (a + 1)

/-! ### Firing -/

theorem stickySet_congr {s t : State} (h : t.regs = s.regs) (f : Src) (u : Nat) : stickySet t f u = stickySet s f u := by
  simp [stickySet, rdReg_congr h]

/-- No in-band interrupt goes out for a source outside group PWR, nor for a HANG. -/
theorem fireSource_eq_raise (f : Src) (u : Nat) (s : State) (h : f.g ≠ grPWR ∨ f.bit = 15) : fireSource f u s = raise f u s := by
  rcases h with h | h <;> simp [fireSource, h]

theorem bit_eq_testBit (x n : Nat) : bit x n = x.testBit n := by
  simp [bit, Nat.testBit_eq_decide_div_mod_eq, beq_eq_decide]

theorem bit_or_left {x y : Word} {n : Nat} (h : bit x.toNat n = true) : bit (x ||| y).toNat n = true := by
  rw [bit_eq_testBit] at h ⊢
  simp [BitVec.toNat_or, Nat.testBit_or, h]

/-- A source that is set stays set when another fires. -/
theorem stickySet_raise_of_set (f f' : Src) (u u' : Nat) (s : State) (h : stickySet s f u = true) :
    stickySet (raise f' u' s) f u = true := by
  unfold stickySet at h ⊢
  rw [rdReg_raise _ _ _ _ fun _ => sticky_ne_hangs _ _ _ _]
  split
  · exact bit_or_left h
  · exact h

theorem stickySet_fireSource (f : Src) (u : Nat) (s : State) (hg : f.g ≠ grPWR) (hb : f.bit < 64) :
    stickySet (fireSource f u s) f u = true := by
  rw [fireSource_eq_raise f u s (.inl hg)]
  exact stickySet_raise f u s hb

theorem stickySet_fireSource_of_set (f f' : Src) (u u' : Nat) (s : State) (hg : f'.g ≠ grPWR) (h : stickySet s f u = true) :
    stickySet (fireSource f' u' s) f u = true := by
  rw [fireSource_eq_raise f' u' s (.inl hg)]
  exact stickySet_raise_of_set f f' u u' s h

theorem stickySet_ite {c : Prop} [Decidable c] {s t : State} {f : Src} {u : Nat} (hs : stickySet s f u = true)
    (ht : stickySet t f u = true) : stickySet (if c then s else t) f u = true := by
  split <;> assumption

@[simp] theorem countHang_flt (f : Src) (u : Nat) (s : State) : (countHang f u s).flt = s.flt := by
  unfold countHang; split <;> rfl

@[simp] theorem noteFire_flt (f : Src) (u : Nat) (s : State) : (noteFire f u s).flt = s.flt := by
  unfold noteFire; split <;> rfl

/-- A source that fires leaves the dump engine as it is. -/
@[simp] theorem raise_flt_dump (f : Src) (u : Nat) (s : State) : (raise f u s).flt.dump = s.flt.dump := by
  unfold raise; split <;> simp [firedNow]

/-- R424: a HANG bit that sets counts in the FLT_HANGS of its collector. -/
theorem rdReg_hangs_raise (f : Src) (u : Nat) (s : State) (hf : f.bit = 15) (hs : stickySet s f u = false) :
    rdReg (raise f u s) (FLT_HANGS (collectorOf f.g u)) = rdReg s (FLT_HANGS (collectorOf f.g u)) + 1 := by
  have hne := (sticky_ne_hangs f.g u f.p (collectorOf f.g u)).symm
  simp only [raise, hs, Bool.false_eq_true, if_false]
  rw [rdReg_congr (noteFire_regs _ _ _), countHang, if_pos hf, rdReg_bump, if_pos rfl, setSticky,
    rdReg_wrReg_other _ _ hne, rdReg_congr (firedNow_regs _ _ _)]
  rfl

/-! ### Direct writes -/

/-- R58: a write of eight bytes that no clause in its guard interval holds takes effect at once. -/
theorem csrWrite_of_guardOf_none (s : State) (a : Nat) (w : Word) (h : guardOf s a = none) :
    csrWrite a 8 w s = csrWriteNow a w s := by
  simp [csrWrite, heldBy, h]

end Sys2Proof.Machine
end

section
/-! PROOFS. O56: hangs, module failures, tests and dumps (R17, R418, R424, R433 to R438). -/

namespace Sys2Proof.Machine

/-! ### Hangs (R424) -/

/-- A window that ends on a page with a HANG source and pending work, with no cause recorded: the cause is recorded and HANG fires. -/
theorem hangWindow_fires (s : State) (g u : Nat) (hsrc : (pageSources g u 0).any (fun y => y.1 == 15) = true)
    (hwin : rdF s (G_PROGRESS_WINDOW g u 0) G_PROGRESS_WINDOW_WINDOW ≠ 0) (hwork : pendingWork s g u = true)
    (hcauses : s.flt.causes = []) :
    hangWindow g u s = raise ⟨g, 0, 15⟩ u (addCause ⟨g, 0, 15⟩ u (rdReg s (G_PROGRESS g u 0)) s) := by
  rw [← fireSource_eq_raise _ _ _ (.inr rfl)]
  simp [hangWindow, hsrc, hwin, hwork, hcauses]

/-! ### UCIe modules (R17) -/

theorem bundleSize_bundleOf (hub : Nat) {link : Nat} (h : link < 4) : bundleSize (bundleOf hub link).2 = bundleSize link := by
  unfold bundleOf
  split
  · next h1 => subst h1; rfl
  · rw [Nat.mod_eq_of_lt h]

/-- R17: the module that fails sets UCIE_MODULE_DOWN, and a bundle that loses its last module does not unset it. -/
theorem stickySet_ucieFails (s : State) (hub link m : Nat) (hl : link < 4) (hm : m < bundleSize link) :
    stickySet (ucieFails hub link m s) srcCHP_UCIE_MODULE_DOWN 0 = true := by
  have hroom : ¬ bundleSize (bundleOf hub link).2 ≤ m := by rw [bundleSize_bundleOf hub hl]; omega
  unfold ucieFails
  extract_lets b k new flt shown t
  rw [if_neg hroom]
  have ht : stickySet t srcCHP_UCIE_MODULE_DOWN 0 = true := stickySet_fireSource _ _ shown (by decide) (by decide)
  have hnext (f : Src) (hf : f.g ≠ grPWR) : stickySet (fireSource f 0 t) srcCHP_UCIE_MODULE_DOWN 0 = true :=
    stickySet_fireSource_of_set _ _ _ _ t hf ht
  exact stickySet_ite (stickySet_ite (hnext _ (by decide)) (stickySet_ite (hnext _ (by decide)) (hnext _ (by decide)))) ht

/-! ### Tests (R433 to R436) -/

/-- The word that a test of a collector leaves in FLT_TEST_RESULT. -/
def testResult (w : Word) (pass : Bool) (fails : Nat) : Word :=
  FLT_TEST_RESULT_FAILS.set (FLT_TEST_RESULT_STATE.set w (if pass then 2 else 3)) fails

theorem testResult_state (w : Word) (pass : Bool) (fails : Nat) :
    FLT_TEST_RESULT_STATE.get (testResult w pass fails) = if pass then 2 else 3 := by
  rw [testResult, Fld.get_set_other _ _ _ _ (by decide), Fld.get_set_same _ _ _ (by decide)]
  cases pass <;> rfl

theorem testResult_fails (w : Word) (pass : Bool) {fails : Nat} (h : fails < 2 ^ 32) :
    FLT_TEST_RESULT_FAILS.get (testResult w pass fails) = fails := by
  rw [testResult, Fld.get_set_same _ _ _ (by decide)]
  exact Nat.mod_eq_of_lt h

/-- The state once the only test that runs has ended. -/
def testsOver (s : State) : State := { s with flt := { s.flt with tests := [] } }

/-- R436: a module's training takes the module back or fails it. -/
theorem testDone_module (s : State) (n u fails : Nat) (b : Bool) (h : s.flt.tests = [⟨5, n, u⟩]) :
    testDone 5 n b fails s = (if b then ucieJoins else ucieFails) (n % 16) (u / 32) (u % 32) (testsOver s) := by
  simp [testDone, h, testsOver]

/-- R433: a test of a tile block, a port or a channel only reports. -/
theorem testDone_unit (s : State) {k : Nat} (n u fails : Nat) (b : Bool) (hk : k ∈ [2, 3, 4]) (h : s.flt.tests = [⟨k, n, u⟩]) :
    testDone k n b fails s
      = wrReg (testsOver s) (FLT_TEST_RESULT n) (testResult (rdReg s (FLT_TEST_RESULT n)) b fails) := by
  have h1 : k ≠ 1 := by rintro rfl; simp at hk
  have h5 : k ≠ 5 := by rintro rfl; simp at hk
  simp only [testDone, h, List.find?_cons, beq_self_eq_true, Bool.and_self, List.erase_cons_head, if_neg h5]
  split
  · exact absurd rfl h1
  · rfl

/-- R433: a compute region under test, or a collector of no region, ends with the report in FLT_TEST_RESULT, whatever the reset of the
region did to it. -/
theorem rdReg_testDone_region (s : State) (n u fails : Nat) (b : Bool) (h : s.flt.tests = [⟨1, n, u⟩])
    (hr : (fltRegion n).all (fun r => !r.1) = true) :
    rdReg (testDone 1 n b fails s) (FLT_TEST_RESULT n) = testResult (rdReg s (FLT_TEST_RESULT n)) b fails := by
  simp only [testDone, h, List.find?_cons, beq_self_eq_true, Bool.and_self, List.erase_cons_head, if_neg (show (1 : Nat) ≠ 5 by decide)]
  cases hreg : fltRegion n with
  | none => exact rdReg_wrReg_same _ _ _
  | some r =>
    have hport : ¬ r.1 = true := by simpa [hreg] using hr
    simp only [if_neg hport, rdReg_wrReg_same]
    rfl

/-! ### The dump (R437, R438) -/

/-- The fields of FLT_DUMP_CTL, as the table of the FLT page lists them. -/
def dumpCtlRow : RegRow :=
  ⟨0x128, 8, 1, [fd 0 1 .w1s 0 .const, fd 1 1 .rw 1 .c, fd 8 8 .rw 64 .c, fd 32 1 .ro 0 .n, fd 33 3 .ro 0 .n]⟩

theorem regRow?_dumpCtl : regRow? FLT_DUMP_CTL = some dumpCtlRow := by decide +kernel

theorem csrWriteNow_dumpCtl (s : State) (w : Word) : csrWriteNow FLT_DUMP_CTL w s = dumpCtl w s := by
  have hg : csrGroup FLT_DUMP_CTL = grFLT := by decide
  have hu : csrUnit FLT_DUMP_CTL = 0 := by decide
  have ho : csrOff FLT_DUMP_CTL = 0x128 := by decide
  have hpark : unitParked s grFLT 0 = false := rfl
  have hgr : grFLT ≠ grCLS ∧ grFLT ≠ grCRG ∧ grFLT ≠ grBOB := by decide
  have hne : FLT_DUMP_CTL ≠ TIM_SET ∧ FLT_DUMP_CTL ≠ MRG_HQ_CTL ∧ FLT_DUMP_CTL ≠ SEC_ATTEST_CTL := by decide
  unfold csrWriteNow
  rw [regRow?_dumpCtl]
  simp [hg, hu, ho, hpark, hgr, hne, dumpCtlRow, fd]

theorem rwMask_dumpCtl : rwMask FLT_DUMP_CTL = 0xFF02#64 := by decide +kernel

theorem rwMerge_dumpCtl_size (s : State) (w : Word) :
    FLT_DUMP_CTL_SIZE_MIB.get (rwMerge s FLT_DUMP_CTL w) = FLT_DUMP_CTL_SIZE_MIB.get w := by
  rw [rwMerge, rwMask_dumpCtl]
  exact Fld.get_mergeBits_in _ _ _ _ (by decide)

theorem rwMerge_dumpCtl_busy (s : State) (w : Word) :
    FLT_DUMP_CTL_BUSY.get (rwMerge s FLT_DUMP_CTL w) = rdF s FLT_DUMP_CTL FLT_DUMP_CTL_BUSY := by
  rw [rwMerge, rwMask_dumpCtl]
  exact Fld.get_mergeBits_out _ _ _ _ (by decide)

/-- FLT_DUMP_CTL has taken its RW fields from a write, which completes. -/
def dumpCtlTaken (s : State) (w : Word) : State := okReply (wrReg s FLT_DUMP_CTL (rwMerge s FLT_DUMP_CTL w))

theorem dumpCtlTaken_size (s : State) (w : Word) :
    rdF (dumpCtlTaken s w) FLT_DUMP_CTL FLT_DUMP_CTL_SIZE_MIB = FLT_DUMP_CTL_SIZE_MIB.get w := by
  rw [dumpCtlTaken, rdF_congr (okReply_regs _ _), rdF, rdReg_wrReg_same, rwMerge_dumpCtl_size]

theorem dumpCtlTaken_busy (s : State) (w : Word) :
    rdBit (dumpCtlTaken s w) FLT_DUMP_CTL FLT_DUMP_CTL_BUSY = rdBit s FLT_DUMP_CTL FLT_DUMP_CTL_BUSY := by
  rw [dumpCtlTaken, rdBit, rdF_congr (okReply_regs _ _), rdF, rdReg_wrReg_same, rwMerge_dumpCtl_busy, rdBit]

theorem dumpCtlTaken_dumps (s : State) (w : Word) : rdReg (dumpCtlTaken s w) FLT_DUMPS = rdReg s FLT_DUMPS := by
  rw [dumpCtlTaken, rdReg_congr (okReply_regs _ _), rdReg_wrReg_other _ _ (by decide)]

/-- R437: a write of FLT_DUMP_CTL with GO starts a dump. -/
theorem csrWrite_dumpGo (s : State) (w : Word) (h : guardOf s FLT_DUMP_CTL = none) :
    csrWrite FLT_DUMP_CTL 8 (FLT_DUMP_CTL_GO.set w 1) s = dumpStart 1 (dumpCtlTaken s (FLT_DUMP_CTL_GO.set w 1)) := by
  have hgo : FLT_DUMP_CTL_GO.get (FLT_DUMP_CTL_GO.set w 1) = 1 := Fld.get_set_same _ _ _ (by decide)
  rw [csrWrite_of_guardOf_none _ _ _ h, csrWriteNow_dumpCtl, dumpCtl, if_pos hgo, dumpCtlTaken]

/-- The registers of the dump engine as it starts. -/
def dumpArmed (s : State) : State :=
  bump (wrReg (wrF (wrF s FLT_DUMP_CTL FLT_DUMP_CTL_BUSY 1) FLT_DUMP_CTL FLT_DUMP_CTL_RESULT 0) FLT_DUMP_STATE 0) FLT_DUMPS

theorem dumpArmed_busy (s : State) : rdBit (dumpArmed s) FLT_DUMP_CTL FLT_DUMP_CTL_BUSY = true := by
  rw [dumpArmed, rdBit, rdF_bump_other _ _ _ (by decide), rdF_wrReg_other _ _ _ (by decide), rdF_wrF_field _ _ _ _ _ (by decide),
    rdF_wrF_same _ _ _ _ (by decide)]
  rfl

theorem dumpArmed_dumps (s : State) : rdReg (dumpArmed s) FLT_DUMPS = rdReg s FLT_DUMPS + 1 := by
  have hstate : FLT_DUMPS ≠ FLT_DUMP_STATE := by decide
  have hctl : FLT_DUMPS ≠ FLT_DUMP_CTL := by decide
  rw [dumpArmed, rdReg_bump, if_pos rfl, rdReg_wrReg_other _ _ hstate, rdReg_wrF, if_neg hctl, rdReg_wrF, if_neg hctl]
  rfl

/-- R437: a dump that starts with a buffer. -/
theorem dumpStart_of_buffer (s : State) (trigger : Nat) (hb : rdBit s FLT_DUMP_CTL FLT_DUMP_CTL_BUSY = false)
    (hz : rdF s FLT_DUMP_CTL FLT_DUMP_CTL_SIZE_MIB ≠ 0) :
    dumpStart trigger s
      = { dumpArmed s with flt := { s.flt with dump := some { trigger := trigger, start := now s, todo := dumpPages } } } := by
  simp only [dumpStart, hb, Bool.false_eq_true, if_false, if_neg hz]
  rfl

/-- R437: without a buffer a dump ends at once. -/
theorem dumpStart_of_no_buffer (s : State) (trigger : Nat) (hb : rdBit s FLT_DUMP_CTL FLT_DUMP_CTL_BUSY = false)
    (hz : rdF s FLT_DUMP_CTL FLT_DUMP_CTL_SIZE_MIB = 0) : dumpStart trigger s = wrF s FLT_DUMP_CTL FLT_DUMP_CTL_RESULT 3 := by
  simp [dumpStart, hb, hz]

/-- The records of a dump once every page that is left, and the tile SRAM that the policy admits, are read; and whether the buffer
filled up. -/
def dumpRest (s : State) (x : Dump) : Dump × Bool :=
  if !(dumpRead s none x.todo x).2 && rdBit s SEC_DEBUG SEC_DEBUG_DUMP_DATA then dumpSram s (List.range 16) (dumpRead s none x.todo x).1
  else dumpRead s none x.todo x

/-- The dump with its records and the header stored, before the engine stops. -/
def dumpStored (s : State) (x : Dump) : State :=
  cdWrite (dumpShow s x) (rdF s FLT_DUMP_DST FLT_DUMP_DST_ADDR * 2 ^ 16) (dumpHeader s x ++ x.bytes)

/-- The dump engine stops. -/
def dumpStop (full : Bool) (s : State) : State :=
  wrF (wrF { s with flt := { s.flt with dump := none } } FLT_DUMP_CTL FLT_DUMP_CTL_BUSY 0) FLT_DUMP_CTL FLT_DUMP_CTL_RESULT
    (if full then 2 else 1)

theorem dumpDone_eq (s : State) (x : Dump) (h : s.flt.dump = some x) :
    dumpDone s = dumpStop (dumpRest s x).2 (dumpStored s (dumpRest s x).1) := by
  unfold dumpDone dumpRest dumpStop dumpStored
  simp -zeta only [h, Prod.mk.eta]
  generalize dumpHeader s = header
  generalize dumpRead s none x.todo x = y
  generalize dumpSram s (List.range 16) = sramRead
  cases !y.2 && rdBit s SEC_DEBUG SEC_DEBUG_DUMP_DATA <;> rfl

theorem dumpStop_dump (full : Bool) (s : State) : (dumpStop full s).flt.dump = none := rfl

theorem dumpStop_cdmem (full : Bool) (s : State) : (dumpStop full s).cdmem = s.cdmem := rfl

theorem dumpStop_busy (full : Bool) (s : State) : rdBit (dumpStop full s) FLT_DUMP_CTL FLT_DUMP_CTL_BUSY = false := by
  rw [dumpStop, rdBit, rdF_wrF_field _ _ _ _ _ (by decide), rdF_wrF_same _ _ _ _ (by decide)]
  rfl

theorem dumpStop_result (full : Bool) (s : State) :
    rdF (dumpStop full s) FLT_DUMP_CTL FLT_DUMP_CTL_RESULT = if full then 2 else 1 := by
  rw [dumpStop, rdF_wrF_same _ _ _ _ (by decide)]
  cases full <;> rfl

theorem dumpStored_cdmem (s : State) (x : Dump) :
    (dumpStored s x).cdmem
      = (cdWrite s (rdF s FLT_DUMP_DST FLT_DUMP_DST_ADDR * 2 ^ 16) (dumpHeader s x ++ x.bytes)).cdmem := by
  have hshow : (dumpShow s x).cdmem = s.cdmem := rfl
  rw [dumpStored, cdWrite_cdmem_congr hshow]

/-- R437: the first read of the last page left times out: a placeholder, and no page is left. -/
theorem dumpTimeout_last (s : State) (x : Dump) (p : Nat) (h : s.flt.dump = some x) (hp : x.todo = [p])
    (hfit : dumpFits s x 0 = true) :
    dumpTimeout p 0 s
      = raise srcFLT_DUMP_PLACEHOLDER 0 (dumpShow s { dumpAdd 1 1 p [] { x with todo := [] } with todo := [] }) := by
  have hfit' : dumpFits s { x with todo := [] } 0 = true := hfit
  simp [dumpTimeout, h, hp, dumpRead, hfit', dumpAdd]

theorem dumpShow_flt_dump (s : State) (x : Dump) : (dumpShow s x).flt.dump = some x := rfl

/-! ### O56 -/

/-- Settles O56, command by command: each clause follows from the equation above for what its command does. -/
theorem faultsAndTests : Obligations.FaultsAndTests := by
  unfold Obligations.FaultsAndTests
  refine ⟨?hang, ?module, ?unit, ?region, ?training, ?go, ?done, ?timeout⟩
  case hang =>
    intro s g u _ hsrc hwin hwork hcauses hset
    refine ⟨hangWindow g u s, rfl, ?_⟩
    have hregs := addCause_regs s ⟨g, 0, 15⟩ u (rdReg s (G_PROGRESS g u 0))
    rw [hangWindow_fires s g u hsrc hwin hwork hcauses, rdReg_hangs_raise _ _ _ rfl (by rw [stickySet_congr hregs, hset]),
      rdReg_congr hregs]
    exact ⟨stickySet_raise _ _ _ (show 15 < 64 by decide), rfl⟩
  case module =>
    intro s hub link m _ hl hm
    exact ⟨ucieFails hub link m s, rfl, stickySet_ucieFails s hub link m hl hm⟩
  case unit =>
    intro s k n u fails b hk h hf
    refine ⟨testDone k n b fails s, rfl, ?_⟩
    rw [testDone_unit s n u fails b hk h]
    refine ⟨rfl, ⟨rfl, fun a ha => ?_⟩, ?_, ?_⟩
    · rw [rdReg_wrReg_other _ _ (by simpa using ha)]
      rfl
    · rw [rdF, rdReg_wrReg_same, testResult_state]
    · rw [rdF, rdReg_wrReg_same, testResult_fails _ _ hf]
  case region =>
    intro s n u fails b h hf
    refine ⟨testDone 1 n b fails s, rfl, fun hr => ?_⟩
    rw [rdF, rdF, rdReg_testDone_region s n u fails b h hr]
    exact ⟨testResult_state _ _ _, testResult_fails _ _ hf⟩
  case training =>
    intro s n u fails b h
    exact congrArg done (testDone_module s n u fails b h)
  case go =>
    intro s w hguard hbusy
    have hgo := csrWrite_dumpGo s w hguard
    have hb := (dumpCtlTaken_busy s (FLT_DUMP_CTL_GO.set w 1)).trans hbusy
    have hsize := (dumpCtlTaken_size s (FLT_DUMP_CTL_GO.set w 1)).trans
      (Fld.get_set_other FLT_DUMP_CTL_GO FLT_DUMP_CTL_SIZE_MIB w 1 (by decide))
    constructor <;> intro hz <;> refine ⟨csrWrite FLT_DUMP_CTL 8 (FLT_DUMP_CTL_GO.set w 1) s, rfl, ?_⟩
    · rw [hgo, dumpStart_of_buffer _ _ hb (hsize ▸ hz), ← dumpCtlTaken_dumps s (FLT_DUMP_CTL_GO.set w 1)]
      exact ⟨rfl, dumpArmed_busy _, dumpArmed_dumps _, rfl⟩
    · rw [hgo, dumpStart_of_no_buffer _ _ hb (hsize.trans hz)]
      exact ⟨rdF_wrF_same _ _ _ _ (by decide), rfl⟩
  case done =>
    intro s x h y z
    have hz : dumpRest s x = z := rfl
    refine ⟨dumpDone s, rfl, ?_⟩
    rw [dumpDone_eq s x h, hz]
    clear_value z
    exact ⟨dumpStop_dump _ _, dumpStop_busy _ _, dumpStop_result _ _, (dumpStop_cdmem _ _).trans (dumpStored_cdmem s _)⟩
  case timeout =>
    intro s x p h hp hfit
    refine ⟨dumpTimeout p 0 s, rfl, ?_⟩
    rw [dumpTimeout_last s x p h hp hfit, raise_flt_dump]
    exact ⟨dumpShow_flt_dump _ _, stickySet_raise _ _ _ (by decide)⟩

end Sys2Proof.Machine
end

section
/-! PROOFS. Registers, control-die memory, CSR addresses, and the front of the queue: O1, O10, O11 and O36 (R37, R38, R41, R44, R50). -/

namespace Sys2Proof.Machine

/-- Writing one register changes no other register and nothing else. -/
theorem onlyRegs_wrReg (s : State) (a : Nat) (w : Word) : OnlyRegs [a] s (wrReg s a w) :=
  ⟨rfl, fun _ hb => rdReg_wrReg_other s w (by simpa using hb)⟩

/-- Settles O10: the laws of `Fld.get` over `Fld.set`, through the read of the register that was written. -/
theorem registerFieldLaw : Obligations.RegisterFieldLaw := by
  unfold Obligations.RegisterFieldLaw
  intro s a f v hf hv
  refine ⟨?_, fun g _ hdisj => rdF_wrF_field s a f g v hdisj, onlyRegs_wrReg s a _⟩
  rw [rdF_wrF_same s a f v hf, Nat.mod_eq_of_lt hv]

/-- Settles O11, from the byte that a read gives after a store. -/
theorem controlMemoryLaw : Obligations.ControlMemoryLaw := by
  unfold Obligations.ControlMemoryLaw
  intro s a d
  refine ⟨?read, fun b hb => ?other, cdWrite_frame s a d⟩
  case read =>
    refine List.ext_getElem (by simp [cdRead]) fun i _ hi => ?_
    simp [cdRead, cdByte_cdWrite, hi]
  case other =>
    have hout : ¬(a ≤ b ∧ b < a + d.length) := by omega
    rw [cdByte_cdWrite, dif_neg hout]

/-- Settles O36: shifts are multiplications by powers of two, and each field is read back by its own law. -/
theorem csrAddresses : Obligations.CsrAddresses := by
  unfold Obligations.CsrAddresses
  intro g u p o
  refine ⟨?_, ?_, fun hu hp ho => ⟨csrGroup_csrAddr hu hp ho, csrUnit_csrAddr hu hp ho, csrPage_csrAddr hp ho, csrOff_csrAddr ho⟩⟩
  · simp only [csrAddr, Nat.shiftLeft_eq]
    omega
  · simp only [csrAddr]
    omega

/-- A step with a command in front runs it on the rest of the queue. -/
theorem step_cons {s : State} {c : Instr} {r : List Instr} (h : s.pending = c :: r) : step s = exec c { s with pending := r } := by
  simp [step, h]

/-- A step with an empty queue lets a nanosecond pass. -/
theorem step_nil {s : State} (h : s.pending = []) : step s = .next (tick s) := by simp [step, h]

/-- Settles O1, by the two cases of the queue. -/
theorem stepTakesFront : Obligations.StepTakesFront := by
  unfold Obligations.StepTakesFront
  exact ⟨fun _ _ _ => step_cons rfl, fun _ h => step_nil h⟩

end Sys2Proof.Machine
end

section
/-! PROOFS. What a step keeps (for O5 and O6): the commands that wait, and the canonical form of registers and memories. Each operation `f`
of the model has one lemma, `kept_f`: whatever is kept up to a state is kept by what `f` makes of it. Its proof follows the text of `f`:
the lemma of each operation that `f` calls, `kept_ite` or a split where `f` branches, `kept_same` where it updates other fields of the
state. This section has the relation, the control flow and the updates of the state; the sections after it go through the model in its
own order. -/

namespace Sys2Proof.Machine

-- One after another: side by side, so many short proofs take more threads than the check has memory for.
set_option Elab.async false

/-- `t` holds the commands that wait in `s`, and registers and memories in canonical form wherever `s` does. -/
def Kept (s t : State) : Prop := t.pending = s.pending ∧ (Canon s → Canon t)

variable {s t : State}

theorem kept_refl (s : State) : Kept s s := ⟨rfl, id⟩

/-- An update of any of the fields that neither the queue nor the canonical form speaks of. -/
theorem kept_same {reply free clk tim doms gates stragglers fires dues flt banks sramBad bobs turns tiles stale progLoads colls sets
    waitContribs ports ground cls serial outcomes sht mbx boot cxl pwr sec} (h : Kept s t) :
    Kept s { t with reply, free, clk, tim, doms, gates, stragglers, fires, dues, flt, banks, sramBad, bobs, turns, tiles, stale,
                    progLoads, colls, sets, waitContribs, ports, ground, cls, serial, outcomes, sht, mbx, boot, cxl, pwr, sec } := h

/-- Such an update that also changes memory, but not the bytes of the pool. -/
theorem kept_sameMem {reply free clk tim doms gates stragglers fires dues flt banks sramBad bobs turns tiles stale progLoads colls sets
    waitContribs ports ground cls serial outcomes sht mbx boot cxl pwr sec} {mem : Mem} (h : Kept s t)
    (hm : mem.pool = t.mem.pool := by rfl) :
    Kept s { t with reply, free, clk, tim, doms, gates, stragglers, fires, dues, flt, banks, sramBad, bobs, turns, tiles, stale,
                    progLoads, colls, sets, waitContribs, ports, ground, mem, cls, serial, outcomes, sht, mbx, boot, cxl, pwr, sec } :=
  ⟨h.1, fun hs => let ⟨hr, hcd, hsram, hpool⟩ := h.2 hs; ⟨hr, hcd, hsram, hm ▸ hpool⟩⟩

/-! ### Control flow -/

theorem kept_ite {c : Prop} {dec : Decidable c} {u v : State} (hu : Kept s u) (hv : Kept s v) : Kept s (if c then u else v) := by
  split <;> assumption

theorem kept_ite_fst {α : Type} {c : Prop} {dec : Decidable c} {u v : State × α} (hu : Kept s u.1) (hv : Kept s v.1) :
    Kept s (if c then u else v).1 := by
  split <;> assumption

theorem kept_ite_snd {α : Type} {c : Prop} {dec : Decidable c} {u v : α × State} (hu : Kept s u.2) (hv : Kept s v.2) :
    Kept s (if c then u else v).2 := by
  split <;> assumption

theorem kept_ite_ctx {c : Prop} {dec : Decidable c} {u v : Ctx} (hu : Kept s u.s) (hv : Kept s v.s) : Kept s (if c then u else v).s := by
  split <;> assumption

theorem kept_ite_snd_ctx {α : Type} {c : Prop} {dec : Decidable c} {u v : α × Ctx} (hu : Kept s u.2.s) (hv : Kept s v.2.s) :
    Kept s (if c then u else v).2.s := by
  split <;> assumption

theorem kept_ite_snd_snd_ctx {α β : Type} {c : Prop} {dec : Decidable c} {u v : α × β × Ctx} (hu : Kept s u.2.2.s)
    (hv : Kept s v.2.2.s) : Kept s (if c then u else v).2.2.s := by
  split <;> assumption

theorem kept_ite_plc_ctx {c : Prop} {dec : Decidable c} {u v : Plc} (hu : Kept s u.c.s) (hv : Kept s v.c.s) :
    Kept s (if c then u else v).c.s := by
  split <;> assumption

/-! A value with a state is taken apart. -/

theorem kept_fst {α : Type} {p : State × α} {u : State} {a : α} (e : p = (u, a)) (h : Kept s p.1) : Kept s u := by
  subst e; exact h

theorem kept_snd {α : Type} {p : α × State} {a : α} {u : State} (e : p = (a, u)) (h : Kept s p.2) : Kept s u := by
  subst e; exact h

theorem kept_snd_snd {α β : Type} {p : α × β × State} {a : α} {b : β} {u : State} (e : p = (a, b, u)) (h : Kept s p.2.2) : Kept s u := by
  subst e; exact h

theorem kept_snd_ctx {α : Type} {p : α × Ctx} {a : α} {u : Ctx} (e : p = (a, u)) (h : Kept s p.2.s) : Kept s u.s := by
  subst e; exact h

theorem kept_snd_snd_ctx {α β : Type} {p : α × β × Ctx} {a : α} {b : β} {u : Ctx} (e : p = (a, b, u)) (h : Kept s p.2.2.s) :
    Kept s u.s := by
  subst e; exact h

/-- A fold keeps what each of its rounds keeps; `g` reads the state that the rounds hand on. -/
theorem kept_foldl_by {α σ : Type} (g : σ → State) {f : σ → α → σ} (hf : ∀ u a, Kept s (g u) → Kept s (g (f u a))) {l : List α} {u : σ}
    (h : Kept s (g u)) : Kept s (g (l.foldl f u)) := by
  induction l generalizing u with
  | nil => exact h
  | cons a l ih => exact ih (hf u a h)

theorem kept_foldl {α : Type} {f : State → α → State} (hf : ∀ u a, Kept s u → Kept s (f u a)) {l : List α} (h : Kept s t) :
    Kept s (l.foldl f t) := kept_foldl_by id hf h

theorem kept_foldl_snd {α β : Type} {f : β × State → α → β × State} (hf : ∀ u a, Kept s u.2 → Kept s (f u a).2) {l : List α}
    {u : β × State} (h : Kept s u.2) : Kept s (l.foldl f u).2 := kept_foldl_by Prod.snd hf h

theorem kept_foldl_ctx {α : Type} {f : Ctx → α → Ctx} (hf : ∀ u a, Kept s u.s → Kept s (f u a).s) {l : List α} {u : Ctx}
    (h : Kept s u.s) : Kept s (l.foldl f u).s := kept_foldl_by (fun u : Ctx => u.s) hf h

theorem kept_foldl_snd_snd_ctx {α β γ : Type} {f : β × γ × Ctx → α → β × γ × Ctx} (hf : ∀ u a, Kept s u.2.2.s → Kept s (f u a).2.2.s)
    {l : List α} {u : β × γ × Ctx} (h : Kept s u.2.2.s) : Kept s (l.foldl f u).2.2.s :=
  kept_foldl_by (fun u : β × γ × Ctx => u.2.2.s) hf h

theorem kept_foldl_snd_ctx {α β : Type} {f : β × Ctx → α → β × Ctx} (hf : ∀ u a, Kept s u.2.s → Kept s (f u a).2.s) {l : List α}
    {u : β × Ctx} (h : Kept s u.2.s) : Kept s (l.foldl f u).2.s := kept_foldl_by (fun u : β × Ctx => u.2.s) hf h

theorem kept_foldl_plc_ctx {α : Type} {f : Plc → α → Plc} (hf : ∀ u a, Kept s u.c.s → Kept s (f u a).c.s) {l : List α} {u : Plc}
    (h : Kept s u.c.s) : Kept s (l.foldl f u).c.s := kept_foldl_by (fun u : Plc => u.c.s) hf h

theorem kept_foldl_option {α : Type} {f : Option State → α → Option State}
    (hf : ∀ o a, (∀ u, o = some u → Kept s u) → ∀ u, f o a = some u → Kept s u) {l : List α} {o : Option State}
    (h : ∀ u, o = some u → Kept s u) : ∀ u, l.foldl f o = some u → Kept s u := by
  induction l generalizing o with
  | nil => exact h
  | cons a l ih => exact ih (hf o a h)

/-! ### Registers and memories -/

theorem kept_setRegs {m : SMap Word} (h : Kept s t) (hm : SMap.Wf regReset t.regs → SMap.Wf regReset m) :
    Kept s { t with regs := m } :=
  ⟨h.1, fun hs => let ⟨hr, hmem⟩ := h.2 hs; ⟨hm hr, hmem⟩⟩

theorem kept_setCdmem {m : SMap Byte} (h : Kept s t) (hm : Memory.wf t.cdmem → Memory.wf m) : Kept s { t with cdmem := m } :=
  ⟨h.1, fun hs => let ⟨hr, hcd, hmem⟩ := h.2 hs; ⟨hr, hm hcd, hmem⟩⟩

theorem kept_setSram {m : SMap Byte} (h : Kept s t) (hm : Memory.wf t.sram → Memory.wf m) : Kept s { t with sram := m } :=
  ⟨h.1, fun hs => let ⟨hr, hcd, hsram, hpool⟩ := h.2 hs; ⟨hr, hcd, hm hsram, hpool⟩⟩

theorem kept_modMem_of {f : Mem → Mem} (h : Kept s t) (hf : Memory.wf t.mem.pool → Memory.wf (f t.mem).pool) : Kept s (modMem t f) :=
  ⟨h.1, fun hs => let ⟨hr, hcd, hsram, hpool⟩ := h.2 hs; ⟨hr, hcd, hsram, hf hpool⟩⟩

/-- A change of memory that leaves the bytes of the pool alone. -/
theorem kept_modMem {f : Mem → Mem} (h : Kept s t) (hf : (f t.mem).pool = t.mem.pool := by rfl) : Kept s (modMem t f) :=
  kept_modMem_of h fun hpool => hf ▸ hpool

theorem kept_wrReg {a : Nat} {w : Word} (h : Kept s t) : Kept s (wrReg t a w) := kept_setRegs h fun hr => sset_wf _ _ hr

theorem kept_cdPut {a : Nat} {b : Byte} (h : Kept s t) : Kept s (cdPut t a b) := kept_setCdmem h fun hm => cdPut_wf a b hm

theorem kept_sramPut {n a : Nat} {d : Bytes} (h : Kept s t) : Kept s (sramPut n a d t) := kept_setSram h fun hm => sramPut_wf n a d hm

end Sys2Proof.Machine
end

section
/-! PROOFS. What the operations of the ground, of memory and of the fabric keep. -/

namespace Sys2Proof.Machine

-- One after another: side by side, so many short proofs take more threads than the check has memory for.
set_option Elab.async false

variable {s t : State}

/-! ### Registers, values, control-die memory and sources -/

theorem kept_wrF {a v : Nat} {f : Fld} (h : Kept s t) : Kept s (wrF t a f v) := kept_wrReg h
theorem kept_bump {a n : Nat} (h : Kept s t) : Kept s (bump t a n) := kept_wrReg h
theorem kept_progress {g u : Nat} (h : Kept s t) : Kept s (progress t g u) := kept_bump h
theorem kept_okReply {v : Word} (h : Kept s t) : Kept s (okReply t v) := kept_same h
theorem kept_takeFree (h : Kept s t) : Kept s (takeFree t).2 := kept_same h
theorem kept_takeFreeBytes {n : Nat} (h : Kept s t) : Kept s (takeFreeBytes n t).2 := kept_same h

theorem kept_cdWrite {a : Nat} {d : Bytes} (h : Kept s t) : Kept s (cdWrite t a d) := by
  induction d generalizing t a with
  | nil => exact h
  | cons b r ih => exact ih (kept_cdPut h)

theorem kept_fwStores {cells : List (Nat × Byte)} (h : Kept s t) : Kept s (fwStores t cells) := kept_foldl (fun _ _ hr => kept_cdPut hr) h
theorem kept_tickStamp (h : Kept s t) : Kept s (tickStamp t) := kept_same h
theorem kept_firedNow {f : Src} {u : Nat} (h : Kept s t) : Kept s (firedNow f u t) := kept_same h
theorem kept_setSticky {f : Src} {u : Nat} (h : Kept s t) : Kept s (setSticky f u t) := kept_wrReg h
theorem kept_countHang {f : Src} {u : Nat} (h : Kept s t) : Kept s (countHang f u t) := kept_ite (kept_bump h) h
theorem kept_noteFire {f : Src} {u : Nat} (h : Kept s t) : Kept s (noteFire f u t) := kept_ite h (kept_same h)

theorem kept_raise {f : Src} {u : Nat} (h : Kept s t) : Kept s (raise f u t) :=
  kept_ite (kept_firedNow h) (kept_noteFire (kept_countHang (kept_setSticky (kept_firedNow h))))

theorem kept_csrError (h : Kept s t) : Kept s (csrError t) := kept_raise (kept_same h)
theorem kept_csrRefused (h : Kept s t) : Kept s (csrRefused t) := kept_same h
theorem kept_raiseIf {c : Bool} {f : Src} {u : Nat} (h : Kept s t) : Kept s (raiseIf c f u t) := kept_ite (kept_raise h) h

/-! ### The ground: cells, flows, routes and policers -/

theorem kept_setPort {p : Nat} {x : Port} (h : Kept s t) : Kept s (setPort t p x) := kept_same h
theorem kept_modPort {p : Nat} {f : Port → Port} (h : Kept s t) : Kept s (modPort t p f) := kept_setPort h
theorem kept_releaseCredit {b tc : Nat} (h : Kept s t) : Kept s (releaseCredit t b tc) := kept_bump (kept_modPort h)
theorem kept_deadTarget {n : Nat} {h' : Hdr} (h : Kept s t) : Kept s (deadTarget t n h') := kept_raise (kept_bump (kept_wrF (kept_wrF h)))
theorem kept_addDue {d : Due} (h : Kept s t) : Kept s (addDue d t) := kept_same h

theorem kept_cellLeaves {c : GCell} (h : Kept s t) : Kept s (cellLeaves t c) := by
  unfold cellLeaves
  extract_lets
  split
  · exact kept_releaseCredit (kept_progress (kept_bump (kept_progress h)))
  · exact kept_progress (kept_bump (kept_progress h))

theorem kept_freeCells {cs : List GCell} (h : Kept s t) : Kept s (freeCells cs t) := kept_foldl (fun _ _ hr => kept_cellLeaves hr) h

theorem kept_deliver {o : Out} {prg : Nat} {port : Option Nat} {m : Msg} {cells : List GCell}
    (h : Kept s t) : Kept s (deliver t o prg port m cells) := kept_same h

theorem kept_markIn {c : GCell} (h : Kept s t) : Kept s (markIn t c).1 := kept_ite_fst (kept_bump h) h
theorem kept_pushCell {c : GCell} (h : Kept s t) : Kept s (pushCell t c) := kept_same (kept_markIn h)

theorem kept_takePinned {parts : List GCell} {c : GCell} (h : Kept s t) : Kept s (takePinned parts c t) :=
  kept_ite (kept_deliver (kept_same h)) (kept_deliver (kept_freeCells (kept_same h)))

theorem kept_pinnedIn {c : GCell} (h : Kept s t) : Kept s (pinnedIn t c) :=
  kept_ite (kept_ite (kept_same (kept_pushCell h)) (kept_takePinned (kept_pushCell h))) (kept_pushCell h)

theorem kept_takeWaiting {n : Nat} (h : Kept s t) : Kept s (takeWaiting n t) := by
  induction n generalizing t with
  | zero => exact h
  | succ n ih =>
    unfold takeWaiting
    extract_lets
    split
    · exact ih (kept_takePinned h)
    · exact h

theorem kept_putFlow {f : Flow} (h : Kept s t) : Kept s (putFlow t f) := kept_same h

theorem kept_deliverSeg {f : Flow} {c : GCell} (h : Kept s t) : Kept s (deliverSeg t f c).1 := by
  unfold deliverSeg
  split
  · exact
      have h1 := kept_ite (kept_bump h) h
      kept_ite_fst (kept_pushCell h1)
        (kept_ite (kept_cellLeaves h1)
          (kept_ite (kept_bump (kept_cellLeaves h1)) (kept_addDue (kept_deadTarget (kept_cellLeaves h1)))))
  · exact
      have h2 := kept_ite h (kept_cellLeaves h)
      kept_ite_fst (kept_deliver (kept_bump h2)) h2

theorem kept_runFlow {n : Nat} {f : Flow} (h : Kept s t) : Kept s (runFlow n t f).1 := by
  induction n generalizing t f with
  | zero => exact h
  | succ n ih =>
    unfold runFlow
    split
    · exact h
    split
    · exact h
    extract_lets
    split
    · exact ih (kept_cellLeaves h)
    split
    next heq => exact ih (kept_fst heq (kept_deliverSeg h))

theorem kept_reseqIn {c : GCell} (h : Kept s t) : Kept s (reseqIn t c) := by
  unfold reseqIn
  dsimp only
  split
  · exact kept_ite (kept_same (kept_bump (kept_bump (kept_same h)))) (kept_same h)
  split
  · exact kept_ite (kept_putFlow (kept_runFlow (kept_same h)))
      (kept_ite (kept_bump (kept_cellLeaves (kept_same h))) (kept_ite (kept_putFlow (kept_bump (kept_same h))) (kept_same h)))
  · exact kept_ite (kept_putFlow (kept_bump (kept_same h))) (kept_same h)

theorem kept_reseqRetryN {n prg : Nat} (h : Kept s t) : Kept s (reseqRetryN n t prg) := by
  induction n generalizing t with
  | zero => exact h
  | succ n ih =>
    unfold reseqRetryN
    extract_lets wait _ u v
    have hv : Kept s v := kept_foldl (fun _ _ hr => kept_reseqIn hr) (kept_same h)
    exact kept_ite (ih hv) hv

theorem kept_reseqRetry {prg : Nat} (h : Kept s t) : Kept s (reseqRetry t prg) := kept_reseqRetryN h
theorem kept_reseqEnter {c : GCell} (h : Kept s t) : Kept s (reseqEnter t c) := kept_reseqRetry (kept_reseqIn h)

theorem kept_reseqRelease {f : Flow} (h : Kept s t) : Kept s (reseqRelease t f) := by
  unfold reseqRelease
  dsimp only
  split
  · exact kept_putFlow (kept_runFlow (kept_freeCells (kept_freeCells h)))
  · exact kept_putFlow (kept_freeCells (kept_freeCells h))

theorem kept_reseqOpened {prg : Nat} {k : FlowKey} (h : Kept s t) : Kept s (reseqOpened prg k t) := by
  unfold reseqOpened
  split
  · exact h
  split
  · exact h
  split
  · exact h
  split
  next heq =>
  have h1 := kept_fst heq (kept_runFlow h)
  exact kept_reseqRetry (kept_putFlow h1)

theorem kept_reseqIdle {prg : Nat} {k : FlowKey} (h : Kept s t) : Kept s (reseqIdle prg k t) := by
  unfold reseqIdle
  split
  · exact h
  · exact kept_ite h (kept_reseqRetry (kept_same h))

theorem kept_reseqTimeout {prg : Nat} {k : FlowKey} (h : Kept s t) : Kept s (reseqTimeout prg k t) := by
  unfold reseqTimeout
  split
  · exact h
  · exact kept_ite h (kept_reseqRetry (kept_raise (kept_bump (kept_reseqRelease h))))

theorem kept_reseqForced {prg : Nat} (h : Kept s t) : Kept s (reseqForced prg t) := by
  unfold reseqForced
  split
  · exact h
  extract_lets
  split
  · exact h
  · exact kept_reseqRetry (kept_raise (kept_bump (kept_reseqRelease h)))

theorem kept_enqueue {c : GCell} (h : Kept s t) : Kept s (enqueue t c) := by
  unfold enqueue
  split
  · split
    · exact kept_reseqEnter h
    · exact kept_reseqEnter (kept_markIn h)
    · exact kept_pushCell h
    · exact kept_pinnedIn h
  · exact kept_pushCell h

theorem kept_enterRouted {c : GCell} (h : Kept s t) : Kept s (enterRouted t c) := by
  unfold enterRouted
  split
  · exact kept_ite (kept_enqueue h) (kept_ite (kept_same h) (kept_ite (kept_same h) (kept_enqueue (kept_same h))))
  · exact kept_enqueue h

theorem kept_takeFlowSeq {k : FlowKey} {n : Nat} (h : Kept s t) : Kept s (takeFlowSeq t k n).2 := by
  unfold takeFlowSeq
  split
  · exact kept_same h
  · exact kept_same h

theorem kept_numbered {c : GCell} (h : Kept s t) : Kept s (numbered t c).1 := kept_ite_fst (kept_takeFlowSeq h) h

theorem kept_enterAs {reply : Bool} {c : GCell} (h : Kept s t) : Kept s (enterAs reply t c) :=
  kept_ite
    (kept_ite (kept_pushCell (kept_numbered (kept_ite h (kept_bump h)))) (kept_enterRouted (kept_numbered (kept_ite h (kept_bump h)))))
    (kept_same h)

theorem kept_enterShared {c : GCell} (h : Kept s t) : Kept s (enterShared t c) := kept_enterAs h

theorem kept_emitSeg {reply first : Bool} {o : Origin} {g : Seg} (h : Kept s t) : Kept s (emitSeg reply t o g first) := by
  unfold emitSeg
  dsimp only
  split
  · exact kept_deadTarget h
  · exact kept_enterAs h

theorem kept_emitAs {reply : Bool} {o : Origin} {m : Msg} (h : Kept s t) : Kept s (emitAs reply o m t) :=
  kept_ite (kept_foldl (fun _ _ hr => kept_emitSeg hr) h) (kept_deadTarget h)

theorem kept_emit {o : Origin} {m : Msg} (h : Kept s t) : Kept s (emit o m t) := kept_emitAs h
theorem kept_emitReply {m : Msg} (h : Kept s t) : Kept s (emitReply m t) := kept_emitAs h

theorem kept_emitPort {b : Nat} {m : Msg} (h : Kept s t) : Kept s (emitPort b m t) :=
  kept_ite (kept_foldl (fun _ _ hr => kept_enterShared hr) h) h

theorem kept_emitCopies {sl : Nat} {ts : List (Nat × Msg × Bool)} (h : Kept s t) : Kept s (emitCopies sl ts t) := by
  unfold emitCopies
  refine kept_foldl (fun _ _ hr => ?_) (kept_same h)
  refine kept_foldl (fun _ _ hq => ?_) hr
  split
  · exact kept_enterShared hq
  · exact hq

theorem kept_endRequest {o : Origin} {prg status : Nat} {h' : Hdr} {pay : Bytes} {nak : Bool}
    (h : Kept s t) : Kept s (endRequest o prg h' pay status nak t) :=
  kept_ite (kept_emitAs h) (kept_ite (kept_ite (kept_emit h) h) (kept_ite (kept_emit (kept_bump h)) h))

theorem kept_reenter {l : List GCell} {gone : Bool} (h : Kept s t) : Kept s (reenter l gone t) := by
  induction l generalizing t gone with
  | nil => exact h
  | cons c r ih =>
    unfold reenter
    split
    · exact ih (kept_enterShared h)
    split
    · exact ih h
    split
    · exact ih (kept_enterShared h)
    · exact kept_ite (ih (kept_endRequest (kept_deadTarget h))) (ih (kept_numbered h))

theorem kept_drainWaiting (h : Kept s t) : Kept s (drainWaiting t) := kept_takeWaiting (kept_reenter (kept_same h))

theorem kept_police {b tc : Nat} {vep : Option Nat} (h : Kept s t) : Kept s (police t b tc vep).2.2 := by
  unfold police
  split
  · exact h
  dsimp only
  split
  · refine kept_same ?_
    split
    · exact h
    · exact kept_same h
  split
  · exact h
  · exact kept_same h

theorem kept_routeIn {c : GCell} (h : Kept s t) : Kept s (routeIn t c) := by
  unfold routeIn
  split
  · extract_lets
    split
    · exact kept_ite (kept_enterRouted (kept_releaseCredit h)) (kept_enterRouted h)
    · exact kept_enterRouted h
  · exact kept_ite (kept_endRequest (kept_deadTarget (kept_cellLeaves h))) (kept_cellLeaves h)

theorem kept_meterIn {b : Nat} {c : GCell} (h : Kept s t) : Kept s (meterIn t b c) := by
  unfold meterIn
  dsimp only
  split
  · exact
      have h1 := kept_bump (kept_police h)
      kept_ite (kept_same h1) (kept_routeIn h1)
  · exact
      have h2 := kept_bump (kept_police h)
      kept_ite (kept_same h2) (kept_routeIn h2)
  · exact
      have h3 := kept_bump (kept_bump (kept_police h))
      kept_ite (kept_ite (kept_same h3) (kept_routeIn h3)) (kept_same (kept_bump (kept_bump (kept_police h))))

theorem kept_remeter {n b tc : Nat} (h : Kept s t) : Kept s (remeter n t b tc) := by
  induction n generalizing t with
  | zero => exact h
  | succ n ih =>
    unfold remeter
    split
    · exact h
    extract_lets goes
    have hgoes {u : State} {d : GCell} (hu : Kept s u) : Kept s (goes u d) := kept_routeIn (kept_same hu)
    split
    · exact ih (hgoes h)
    split
    next heq =>
    have hu := kept_snd_snd heq (kept_police h)
    split
    · exact ih (hgoes (kept_bump hu))
    · exact ih (hgoes (kept_bump hu))
    · exact h

theorem kept_bootTile {b : Nat} {h' : Hdr} (h : Kept s t) : Kept s (bootTile b h' t) := kept_ite h (kept_modPort h)

theorem kept_groundIn {p : Nat} {g : Seg} (h : Kept s t) : Kept s (groundIn p g t) := by
  unfold groundIn
  extract_lets
  split
  · exact kept_same h
  split
  · exact kept_raise (kept_releaseCredit (kept_bump (kept_bump h)))
  · exact
      have h1 := kept_releaseCredit (kept_bump h)
      have h2 := kept_releaseCredit (kept_bump h)
      have h3 := kept_releaseCredit (kept_bump h)
      have h4 := kept_ite (kept_bootTile (kept_bump h)) (kept_bump h)
      kept_ite (kept_ite (kept_endRequest h1) h1)
        (kept_ite (kept_ite (kept_endRequest h2) h2)
          (kept_ite (kept_ite (kept_endRequest h3) h3)
            (kept_ite (kept_ite (kept_endRequest (kept_releaseCredit h4)) (kept_releaseCredit h4))
              (kept_ite (kept_deliver (kept_releaseCredit h4)) (kept_meterIn h4)))))

theorem kept_groundOn {n : Nat} (h : Kept s t) : Kept s (groundOn n t) := by
  induction n generalizing t with
  | zero => exact h
  | succ n ih =>
    unfold groundOn
    split
    · exact ih (kept_groundIn (kept_same h))
    · exact h

theorem kept_answerFlushed {status : Nat} {seen l : List GCell} (h : Kept s t) : Kept s (answerFlushed status seen l t) := by
  induction l generalizing t seen with
  | nil => exact h
  | cons c r ih =>
    have hc : Kept s (cellLeaves (bump t (GND_FLUSHED c.slice)) c) := kept_cellLeaves (kept_bump h)
    unfold answerFlushed
    refine ih (kept_ite hc (kept_ite hc ?_))
    split
    next heq => exact kept_endRequest (kept_snd heq (kept_ite_snd hc (kept_takeFreeBytes hc)))

theorem kept_flushPort {b status : Nat} (h : Kept s t) : Kept s (flushPort b status t) :=
  kept_foldl (fun _ _ hr => kept_routeIn hr) (kept_answerFlushed (kept_bump (kept_same h)))

theorem kept_detachDelivered {o : Out} {m : Msg} (h : Kept s t) : Kept s (detachDelivered t o m).2 := by
  unfold detachDelivered
  split
  · exact kept_same h
  · exact h

theorem kept_takeDelivered {o : Out} {m : Msg} (h : Kept s t) : Kept s (takeDelivered t o m) :=
  kept_drainWaiting (kept_freeCells (kept_detachDelivered h))

theorem kept_unsupported {prg : Nat} {m : Msg} (h : Kept s t) : Kept s (unsupported prg m t) := kept_ite (kept_emit h) (kept_bump h)

/-! ### Pool memory, objects, extents and moves -/

theorem kept_setSlot {p : Nat} {k : KeySlot} (h : Kept s t) : Kept s (setSlot t p k) := kept_modMem h
theorem kept_setErrs {b : Nat} {e : Bytes} (h : Kept s t) : Kept s (setErrs b e t) := kept_modMem h
theorem kept_blocksMoved {p n : Nat} (h : Kept s t) : Kept s (blocksMoved p n t) := kept_ite h (kept_bump h)

theorem kept_correctSector {sec : Nat} (h : Kept s t) : Kept s (correctSector sec t) :=
  kept_ite h (kept_foldl (fun _ _ hr => kept_setErrs hr) (kept_bump h))

theorem kept_readSector {part sec mask : Nat} (h : Kept s t) : Kept s (readSector part sec mask t).2 :=
  have h1 := kept_correctSector (kept_blocksMoved h)
  kept_ite_snd (kept_raise (kept_bump h1)) (kept_ite_snd h1 (kept_ite_snd h1 (kept_raise (kept_bump h1))))

theorem kept_sealSector {part p stale : Nat} {enc : Bool} {d : Bytes} (h : Kept s t) : Kept s (sealSector part enc p d stale t) :=
  kept_blocksMoved (kept_modMem_of h fun hpool => poolPut_wf d p hpool)

theorem kept_putSector {part p : Nat} {enc : Bool} {d : Bytes} (h : Kept s t) : Kept s (putSector part enc p d t) := kept_sealSector h

theorem kept_writeSectorOver {mask part p : Nat} {enc : Bool} {d : Bytes}
    (h : Kept s t) : Kept s (writeSectorOver mask part enc p d t).2 :=
  kept_ite_snd (kept_putSector (kept_ite_snd h (kept_readSector h))) (kept_ite_snd h (kept_readSector h))

theorem kept_writeSector {part p : Nat} {enc : Bool} {d : Bytes} (h : Kept s t) : Kept s (writeSector part enc p d t).2 :=
  kept_writeSectorOver h

theorem kept_memRead {part p n : Nat} (h : Kept s t) : Kept s (memRead part p n t).2.2 := by
  unfold memRead
  split
  next heq =>
  refine kept_snd heq (kept_foldl_snd (fun _ _ hr => ?_) h)
  split
  next heq => exact kept_snd heq (kept_readSector hr)

theorem kept_memWrite {part p : Nat} {enc : Bool} {d : Bytes} (h : Kept s t) : Kept s (memWrite part enc p d t).2 := by
  unfold memWrite
  refine kept_foldl_snd (fun _ _ hr => ?_) h
  split
  next heq =>
  have h1 := kept_snd heq (kept_writeSector hr)
  exact h1

theorem kept_forgetRange {p n : Nat} (h : Kept s t) : Kept s (forgetRange p n t) := kept_modMem h
theorem kept_poisonSector {part sec mask : Nat} (h : Kept s t) : Kept s (poisonSector part sec mask t) := kept_modMem (kept_bump h)
theorem kept_setObj {i : Nat} {o : Obj} (h : Kept s t) : Kept s (setObj t i o) := kept_modMem h
theorem kept_setExt {i : Nat} {e : Ext} (h : Kept s t) : Kept s (setExt t i e) := kept_modMem h
theorem kept_putMove {v : Move} (h : Kept s t) : Kept s (putMove t v) := kept_modMem h
theorem kept_capAdd {tier planned occupied : Nat} (h : Kept s t) : Kept s (capAdd t tier planned occupied) := kept_bump (kept_bump h)
theorem kept_capSub {tier planned occupied : Nat} (h : Kept s t) : Kept s (capSub t tier planned occupied) := kept_wrReg (kept_wrReg h)
theorem kept_trayMoved {write : Bool} {p n : Nat} (h : Kept s t) : Kept s (trayMoved write p n t) := kept_ite (kept_bump h) h

theorem kept_enginePiece {part base len p : Nat} {enc : Bool} {d : Bytes} (h : Kept s t) : Kept s (enginePiece part enc base len p d t) :=
  kept_ite (kept_putSector (kept_trayMoved h)) (kept_ite (kept_writeSectorOver (kept_trayMoved h)) (kept_sealSector (kept_trayMoved h)))

theorem kept_engineWrite {part base len p : Nat} {enc : Bool} {d : Bytes} (h : Kept s t) : Kept s (engineWrite part enc base len p d t) :=
  kept_foldl (fun _ _ hr => kept_enginePiece hr) h

theorem kept_enginePoison {part p n : Nat} (h : Kept s t) : Kept s (enginePoison part p n t) :=
  kept_foldl (fun _ _ hr => kept_poisonSector hr) (kept_trayMoved h)

theorem kept_zeroFill {part p n : Nat} {enc : Bool} (h : Kept s t) : Kept s (zeroFill part enc p n t) :=
  kept_foldl (fun _ _ hr => kept_enginePiece hr) h

theorem kept_legacyBad {p : Nat} (h : Kept s t) : Kept s (legacyBad p t) := kept_raise (kept_bump h)

theorem kept_moveRead {v : Move} {b i : Nat} {raw : Bytes} (h : Kept s t) : Kept s (moveRead v b i raw t).2 := by
  unfold moveRead
  extract_lets
  split
  · split
    · exact kept_trayMoved h
    · exact kept_legacyBad (kept_trayMoved h)
  · exact kept_memRead (kept_trayMoved h)

theorem kept_movePut {v : Move} {i : Nat} {d : Option Bytes} (h : Kept s t) : Kept s (movePut v i d t) := by
  unfold movePut
  split
  · exact kept_engineWrite h
  · exact kept_enginePoison h

theorem kept_moveArrive {part base len p n : Nat} {enc : Bool} {pay : Bytes}
    (h : Kept s t) : Kept s (moveArrive part enc base len p n pay t) :=
  kept_ite (kept_enginePoison h) (kept_ite (kept_engineWrite h) (kept_forgetRange h))

/-! ### Loads, stores, atomics and coherence -/

theorem kept_answer {prg st : Nat} {m : Msg} {data : Option Bytes} (h : Kept s t) : Kept s (answer prg m st data t) := by
  unfold answer
  split
  · exact kept_ite (kept_emitReply h) h
  · exact kept_ite h (kept_endRequest h)

theorem kept_countTier {prg st : Nat} (h : Kept s t) : Kept s (countTier prg st t) := kept_ite (kept_bump h) (kept_ite (kept_bump h) h)
theorem kept_setCmb {n : Nat} {c : Cmb} (h : Kept s t) : Kept s (setCmb t n c) := kept_modMem h
theorem kept_modCmb {n : Nat} {f : Cmb → Cmb} (h : Kept s t) : Kept s (modCmb t n f) := kept_setCmb h

theorem kept_makeRoom {f n len : Nat} (h : Kept s t) : Kept s (makeRoom f n len t) := by
  induction f generalizing t with
  | zero => exact h
  | succ f ih => exact kept_ite h (ih (kept_bump (kept_setCmb h)))

theorem kept_keepRead {n addr len : Nat} {d : Bytes} (h : Kept s t) : Kept s (keepRead n addr len d t) :=
  kept_ite h (kept_modCmb (kept_makeRoom h))

theorem kept_dropReads {addr len : Nat} (h : Kept s t) : Kept s (dropReads addr len t) := kept_modMem h
theorem kept_nextArr (h : Kept s t) : Kept s (nextArr t).2 := kept_modMem h
theorem kept_holdReq {r : Req} {g : Stage} (h : Kept s t) : Kept s (holdReq r g t) := kept_modMem h
theorem kept_dropReq {arr : Nat} (h : Kept s t) : Kept s (dropReq arr t) := kept_modMem h
theorem kept_wake {p : Req → Bool} (h : Kept s t) : Kept s (wake p t) := kept_modMem h
theorem kept_freshId (h : Kept s t) : Kept s (freshId t).2 := kept_modMem h
theorem kept_putOp {n : Nat} {o : CmbOp} (h : Kept s t) : Kept s (putOp n o t) := kept_modCmb h

theorem kept_opDone {n id st : Nat} {olds : List Bytes} (h : Kept s t) : Kept s (opDone n id st olds t) := by
  unfold opDone
  split
  · exact h
  · exact kept_putOp h

theorem kept_lateReply {w : Asker} (h : Kept s t) : Kept s (lateReply w t) := by
  unfold lateReply
  split
  · exact kept_ite (kept_bump (kept_same h)) (kept_bump h)
  · exact kept_bump h

theorem kept_farDone {id st : Nat} {data : Bytes} (h : Kept s t) : Kept s (farDone id st data t) := by
  unfold farDone
  split
  · exact h
  · exact kept_ite (kept_lateReply (kept_modMem h)) (kept_modMem h)

theorem kept_farLost {id : Nat} (h : Kept s t) : Kept s (farLost id t) := kept_modMem h

theorem kept_finish {r : Req} {st : Nat} {data : Option Bytes} (h : Kept s t) : Kept s (finish r st data t) := by
  unfold finish
  split
  · exact kept_opDone (kept_countTier h)
  · exact kept_farDone (kept_countTier h)
  · exact kept_foldl (fun _ _ hr => kept_answer (kept_countTier hr))
      (kept_answer (kept_ite (kept_bump (kept_countTier h)) (kept_countTier h)))

theorem kept_moveSend {v : Move} {i : Nat} {d : Option Bytes} (h : Kept s t) : Kept s (moveSend v i d t) :=
  kept_emit (kept_modMem (kept_putMove (kept_freshId h)))

theorem kept_moveSector {v : Move} {i : Nat} {raw : Bytes} (h : Kept s t) : Kept s (moveSector v i raw t) := by
  unfold moveSector
  split
  next d u heq =>
  have hu : Kept s u := by
    split at heq
    · exact kept_snd heq (kept_moveRead h)
    · exact kept_snd heq h
  exact kept_ite (kept_movePut hu) (kept_moveSend hu)

theorem kept_mirror {p n : Nat} (h : Kept s t) : Kept s (mirror p n t) := by
  unfold mirror
  split
  · exact h
  split
  · exact h
  refine kept_foldl (fun _ _ hr => ?_) h
  split
  · exact kept_ite (kept_moveSector hr) hr
  · exact hr

theorem kept_keepShared {r : Req} {d : Bytes} (h : Kept s t) : Kept s (keepShared r d t) := by
  unfold keepShared
  split
  · exact kept_ite (kept_keepRead h) h
  · exact h

theorem kept_serveAtomic {r : Req} {part p : Nat} {enc : Bool} (h : Kept s t) : Kept s (serveAtomic r part enc p t) :=
  kept_ite (kept_finish (kept_memRead h)) (kept_finish (kept_mirror (kept_memWrite (kept_memRead h))))

theorem kept_serve {r : Req} {part p : Nat} {enc : Bool} (h : Kept s t) : Kept s (serve r part enc p t) := by
  unfold serve
  extract_lets
  split
  · exact kept_finish h
  split
  · exact kept_holdReq h
  split
  · exact kept_ite (kept_finish (kept_keepShared (kept_memRead h))) (kept_finish (kept_memRead h))
  split
  · split
    · exact kept_serveAtomic h
    split
    · exact h
    · exact kept_ite (kept_finish (kept_memRead h)) (kept_opDone (kept_mirror (kept_countTier (kept_memWrite (kept_memRead h)))))
  · exact kept_finish (kept_mirror (kept_memWrite (kept_dropReads h)))

theorem kept_cohRaise {f : Src} {l : Nat} (h : Kept s t) : Kept s (cohRaise f l t) := kept_raise (kept_ite h (kept_same h))

theorem kept_setDir {l : Nat} {owned : Bool} {hs : List Nat} (h : Kept s t) : Kept s (setDir l owned hs t) := by
  unfold setDir
  split
  · exact kept_modMem h
  · exact kept_modMem h

theorem kept_sendSnoop {l op agent : Nat} (h : Kept s t) : Kept s (sendSnoop l op agent t) := kept_emit (kept_bump h)

theorem kept_startTxn {l op : Nat} {r : Option Req} {ask stay : List Nat} (h : Kept s t) : Kept s (startTxn l r op ask stay t) :=
  kept_foldl (fun _ _ hr => kept_sendSnoop hr) (kept_modMem h)

theorem kept_putTxn {t' : LineTxn} (h : Kept s t) : Kept s (putTxn t' t) := kept_modMem h

theorem kept_writeLine {l : Nat} {d : Bytes} (h : Kept s t) : Kept s (writeLine l d t) := by
  unfold writeLine
  split
  · exact kept_mirror (kept_memWrite h)
  · exact h

theorem kept_poisonLine {l : Nat} (h : Kept s t) : Kept s (poisonLine l t) := by
  unfold poisonLine
  split
  · exact kept_poisonSector h
  · exact h

theorem kept_sweepLine {l : Nat} (h : Kept s t) : Kept s (sweepLine l t) := kept_ite (kept_startTxn h) h

theorem kept_grant {r : Req} {l st : Nat} {owned bare : Bool} {hs : List Nat} (h : Kept s t) : Kept s (grant r l st owned hs bare t) := by
  unfold grant
  split
  · exact kept_finish (kept_setDir h)
  split
  next heq =>
  have h1 := kept_snd_snd heq (kept_memRead h)
  exact kept_ite (kept_finish (kept_setDir h1)) (kept_finish h1)

theorem kept_wakeLine {l : Nat} (h : Kept s t) : Kept s (wakeLine l t) := kept_wake h

theorem kept_coherentRead {r : Req} {l : Nat} (h : Kept s t) : Kept s (coherentRead r l t) := by
  unfold coherentRead
  dsimp only
  split
  · exact
      have h1 := kept_ite (kept_setDir h) h
      have h2 := kept_ite (kept_bump h1) h1
      kept_ite (kept_holdReq h2) (kept_startTxn (kept_bump (kept_holdReq h2)))
  · exact
      have h1 := kept_ite (kept_setDir h) h
      have h2 := kept_ite (kept_bump h1) h1
      kept_ite (kept_ite (kept_wakeLine (kept_grant h2)) (kept_ite (kept_startTxn h2) (kept_wakeLine (kept_grant h2))))
        (kept_ite (kept_ite (kept_wakeLine (kept_grant h2)) (kept_startTxn h2))
          (kept_ite (kept_wakeLine (kept_grant h2)) (kept_startTxn h2)))

theorem kept_endTxn {t' : LineTxn} (h : Kept s t) : Kept s (endTxn t' t) := by
  unfold endTxn
  refine kept_sweepLine (kept_wakeLine ?_)
  split
  · exact kept_progress (kept_setDir (kept_modMem h))
  · exact kept_ite (kept_finish (kept_progress (kept_setDir (kept_modMem h))))
      (kept_ite
        (kept_ite (kept_grant (kept_progress (kept_setDir (kept_modMem h)))) (kept_grant (kept_progress (kept_setDir (kept_modMem h)))))
        (kept_holdReq (kept_progress (kept_setDir (kept_modMem h)))))

theorem kept_tryEndTxn {l : Nat} (h : Kept s t) : Kept s (tryEndTxn l t) := by
  unfold tryEndTxn
  split
  · exact kept_ite (kept_endTxn h) h
  · exact h

theorem kept_trayIssue {r : Req} {c : Nat} (h : Kept s t) : Kept s (trayIssue r c t) := by
  unfold trayIssue
  split
  · exact kept_holdReq (kept_bump h)
  · exact kept_holdReq h

theorem kept_atTray {r : Req} {c : Nat} {u : State} (h : Kept s t) (e : atTray r c t = some u) : Kept s u := by
  unfold atTray at e
  split at e
  · cases e; exact kept_finish h
  split at e
  · cases e; exact kept_holdReq h
  split at e
  · cases e; exact kept_finish h
  · cases e

theorem kept_toTray {r : Req} {c : Nat} (h : Kept s t) : Kept s (toTray r c t) := by
  unfold toTray
  split
  next heq =>
    exact kept_atTray h heq
  · exact kept_trayIssue h

theorem kept_toLender {r : Req} {x : Ext} (h : Kept s t) : Kept s (toLender r x t) :=
  kept_ite (kept_holdReq (kept_emit (kept_freshId h))) (kept_finish (kept_deadTarget (kept_freshId h)))

theorem kept_atChannel {r : Req} {p : Nat} {u : State} (h : Kept s t) (e : atChannel r p t = some u) : Kept s u := by
  unfold atChannel at e
  split at e
  · cases e; exact kept_finish h
  split at e
  · cases e; exact kept_holdReq h
  · cases e

theorem kept_atTier {r : Req} {i : Nat} (h : Kept s t) : Kept s (atTier r i t) := by
  unfold atTier
  extract_lets
  split
  · split
    next heq =>
      exact kept_atChannel h heq
    · exact kept_serve h
  · exact kept_ite (kept_toLender h) (kept_toTray h)

theorem kept_atLine {r : Req} {i : Nat} (h : Kept s t) : Kept s (atLine r i t) := by
  unfold atLine
  extract_lets
  split
  · exact kept_ite (kept_finish h) (kept_atTier h)
  extract_lets
  split
  · exact kept_finish h
  split
  · exact kept_finish h
  split
  · exact kept_holdReq h
  split
  · exact kept_holdReq h
  split
  · exact kept_holdReq h
  split
  next heq =>
    exact kept_atChannel h heq
  split
  · exact kept_coherentRead h
  split
  · exact kept_startTxn h
  · exact kept_atTier h

theorem kept_combineRead {r : Req} {i : Nat} (h : Kept s t) : Kept s (combineRead r i t) := by
  unfold combineRead
  extract_lets
  split
  · exact kept_atLine h
  split
  · exact kept_atLine (kept_ite h (kept_bump h))
  split
  · exact kept_finish (kept_bump (kept_ite h (kept_bump h)))
  split
  · exact kept_bump (kept_modMem (kept_ite h (kept_bump h)))
  · exact kept_atLine (kept_ite h (kept_bump h))

theorem kept_process {r : Req} (h : Kept s t) : Kept s (process r t) := by
  unfold process
  extract_lets
  split
  · exact kept_finish h
  split
  · exact kept_holdReq h
  split
  · exact kept_holdReq h
  split
  · exact kept_finish h
  extract_lets
  split
  · exact kept_holdReq h
  split
  · exact kept_holdReq (kept_bump h)
  split
  · exact kept_holdReq (kept_ite h (kept_bump h))
  split
  · exact kept_finish (kept_ite h (kept_bump h))
  · exact
      have h1 := kept_ite h (kept_bump h)
      have h2 := kept_ite (kept_progress h1) h1
      kept_ite (kept_holdReq h2) (kept_combineRead (kept_ite (kept_dropReads h2) h2))

theorem kept_hostedReq {r : Req} {p n : Nat} (h : Kept s t) : Kept s (hostedReq r p n t) := by
  unfold hostedReq
  extract_lets
  split
  · exact kept_ite (kept_finish (kept_modMem (kept_moveArrive h))) (kept_finish h)
  refine kept_ite (kept_finish h) ?_
  split
  · exact kept_serve h
  · exact kept_ite (kept_bump h) (kept_finish h)

theorem kept_physReq {r : Req} (h : Kept s t) : Kept s (physReq r t) := by
  unfold physReq
  extract_lets m p n from_ hub u1 u2
  refine kept_ite (kept_finish h) (kept_ite (kept_finish h) (kept_ite (kept_holdReq h) (kept_ite (kept_holdReq h)
    (kept_ite (kept_holdReq h) ?_))))
  split
  next heq =>
    split at heq
    · exact kept_atTray h heq
    · exact kept_atChannel h heq
  · have hu : Kept s u2 := kept_ite (kept_bump (kept_progress h)) (kept_progress h)
    split
    · exact kept_ite (kept_finish (kept_putMove (kept_moveArrive hu))) (kept_finish hu)
    · exact kept_hostedReq hu

theorem kept_goOn {r : Req} (h : Kept s t) : Kept s (goOn r t) := kept_ite (kept_physReq h) (kept_process h)

theorem kept_passOp {n id : Nat} (h : Kept s t) : Kept s (passOp n id t) := by
  unfold passOp
  split
  · exact h
  split
  · exact h
  · exact kept_goOn (kept_putOp (kept_ite h (kept_bump (kept_bump h))))

theorem kept_flushSource {n src : Nat} (h : Kept s t) : Kept s (flushSource n src t) := kept_foldl (fun _ _ hr => kept_passOp hr) h

theorem kept_rcCreate {n : Nat} {m : Msg} {u : State} (h : Kept s t) (e : rcCreate n m t = some u) : Kept s u := by
  unfold rcCreate at e
  extract_lets at e
  split at e
  · cases e; exact kept_setCmb h
  split at e
  · cases e; exact kept_bump (kept_setCmb h)
  · cases e

theorem kept_unitAtomic {n arr port : Nat} {m : Msg} (h : Kept s t) : Kept s (unitAtomic n arr port m t) := by
  unfold unitAtomic
  extract_lets
  split
  · exact kept_putOp (kept_foldl (fun _ _ hr => kept_passOp hr) (kept_flushSource h))
  · exact
      have h1 := kept_foldl (fun _ _ hr => kept_passOp hr) (kept_flushSource h)
      kept_ite (kept_modCmb h1) (kept_passOp (kept_modCmb h1))

theorem kept_atomicIn {n : Nat} {r : Req} (h : Kept s t) : Kept s (atomicIn n r t) := by
  unfold atomicIn
  extract_lets
  split
  · exact kept_finish h
  split
  · exact kept_holdReq h
  split
  · split
    · exact kept_finish (kept_bump h)
    split
    next heq =>
      exact kept_unitAtomic (kept_rcCreate h heq)
    · exact kept_holdReq h
  · split
    next heq =>
      exact kept_unitAtomic (kept_rcCreate h heq)
    · exact kept_holdReq h
  · split
    · exact kept_finish (kept_bump h)
    · exact kept_holdReq h
  · exact kept_finish (kept_bump h)

theorem kept_replyMember {n st : Nat} {m : Msg} {old : Bytes} (h : Kept s t) : Kept s (replyMember n m st old t) :=
  kept_foldl (fun _ _ hr => kept_answer (kept_dropReq (kept_bump hr))) (kept_answer (kept_progress (kept_modCmb h)))

theorem kept_returnOp {n a : Nat} (h : Kept s t) : Kept s (returnOp n a t) := by
  unfold returnOp
  split
  · exact h
  split
  · exact h
  extract_lets
  split
  · exact kept_passOp (kept_foldl (fun _ _ hr => kept_replyMember hr) (kept_modCmb h))
  · exact kept_foldl (fun _ _ hr => kept_replyMember hr) (kept_modCmb h)

theorem kept_snpRspAt {m : Msg} (h : Kept s t) : Kept s (snpRspAt m t) := by
  unfold snpRspAt
  extract_lets
  split
  · exact h
  · exact kept_ite h
      (kept_tryEndTxn (kept_putTxn (kept_ite (kept_writeLine (kept_ite_snd (kept_bump h) (kept_ite_snd (kept_bump h) h)))
        (kept_ite_snd (kept_bump h) (kept_ite_snd (kept_bump h) h)))))

theorem kept_wbAt {prg : Nat} {m : Msg} (h : Kept s t) : Kept s (wbAt prg m t) := by
  unfold wbAt
  extract_lets
  split
  · exact kept_ite (kept_tryEndTxn (kept_putTxn (kept_answer (kept_writeLine (kept_bump h)))))
      (kept_ite (kept_answer (kept_putTxn (kept_writeLine (kept_bump h))))
        (kept_ite (kept_answer (kept_setDir (kept_writeLine (kept_bump h)))) (kept_cohRaise (kept_answer (kept_bump h)))))
  · exact kept_ite (kept_answer (kept_setDir (kept_writeLine (kept_bump h)))) (kept_cohRaise (kept_answer (kept_bump h)))

theorem kept_evictAt {prg : Nat} {m : Msg} (h : Kept s t) : Kept s (evictAt prg m t) :=
  kept_answer (kept_ite (kept_setDir h) (kept_bump h))

theorem kept_dirMsg {r : Req} (h : Kept s t) : Kept s (dirMsg r t) := by
  unfold dirMsg
  dsimp only
  split
  · exact kept_holdReq h
  split
  · exact kept_holdReq h
  split
  · exact kept_holdReq h
  split
  · exact kept_holdReq h
  · exact kept_ite (kept_snpRspAt (kept_progress h)) (kept_ite (kept_wbAt (kept_progress h)) (kept_evictAt (kept_progress h)))

theorem kept_unblock (h : Kept s t) : Kept s (unblock t) := kept_wake h
theorem kept_takeTurn {r : Req} (h : Kept s t) : Kept s (takeTurn r t) := kept_modMem h
theorem kept_resume {r : Req} (h : Kept s t) : Kept s (resume r t) := kept_ite (kept_dirMsg h) (kept_ite (kept_atomicIn h) (kept_goOn h))

theorem kept_pump {n : Nat} (h : Kept s t) : Kept s (pump n t) := by
  induction n generalizing t with
  | zero => exact h
  | succ n ih =>
    unfold pump
    extract_lets
    split
    · exact kept_unblock h
    · exact ih (kept_resume (kept_dropReq (kept_takeTurn (kept_unblock h))))

theorem kept_runFences (h : Kept s t) : Kept s (runFences t) :=
  kept_foldl (fun _ _ hr => kept_ite hr (kept_ite (kept_answer (kept_dropReq hr)) (kept_modMem hr))) h

theorem kept_runReqs (h : Kept s t) : Kept s (runReqs t) := kept_runFences (kept_pump h)

theorem kept_fabricReq {prg : Nat} {m : Msg} (h : Kept s t) : Kept s (fabricReq prg m t) := by
  unfold fabricReq
  extract_lets
  refine kept_runReqs ?_
  split
  · exact kept_finish (kept_ite (kept_nextArr (kept_takeDelivered h)) (kept_flushSource (kept_nextArr (kept_takeDelivered h))))
  · exact kept_ite
      (kept_finish (kept_ite (kept_nextArr (kept_takeDelivered h)) (kept_flushSource (kept_nextArr (kept_takeDelivered h)))))
      (kept_ite
        (kept_atomicIn (kept_bump
          (kept_ite (kept_nextArr (kept_takeDelivered h)) (kept_flushSource (kept_nextArr (kept_takeDelivered h))))))
        (kept_goOn (kept_ite (kept_nextArr (kept_takeDelivered h)) (kept_flushSource (kept_nextArr (kept_takeDelivered h))))))

theorem kept_ask {who : Asker} {n part : Nat} {k : Ask} (h : Kept s t) : Kept s (ask who n part k t) :=
  kept_ite (kept_runReqs (kept_goOn (kept_modMem (kept_nextArr h))))
    (kept_ite (kept_emit (kept_modMem (kept_modMem (kept_freshId (kept_nextArr h)))))
      (kept_modMem (kept_deadTarget (kept_freshId (kept_nextArr h)))))

theorem kept_farDrop {p : Asker → Bool} (h : Kept s t) : Kept s (farDrop p t) := kept_modMem h

theorem kept_fenceIn {prg : Nat} {m : Msg} (h : Kept s t) : Kept s (fenceIn prg m t) :=
  have h1 := kept_flushSource (kept_nextArr (kept_takeDelivered h))
  kept_ite (kept_runReqs (kept_answer h1))
    (kept_ite (kept_runReqs (kept_answer h1)) (kept_ite (kept_runReqs (kept_answer h1)) (kept_runReqs (kept_holdReq h1))))

theorem kept_cacheFill {hub e : Nat} (h : Kept s t) : Kept s (cacheFill hub e t) := kept_modMem h

theorem kept_entryFetched {hub e : Nat} (h : Kept s t) : Kept s (entryFetched hub e t) :=
  kept_ite (kept_runReqs (kept_wake (kept_cacheFill h))) h

theorem kept_loseExt {e : Nat} (h : Kept s t) : Kept s (loseExt e t) := kept_ite h (kept_bump (kept_setExt h))

theorem kept_lenderReply {prg : Nat} {m : Msg} (h : Kept s t) : Kept s (lenderReply prg m t) := by
  unfold lenderReply
  split
  · split
    · exact kept_bump (kept_modMem h)
    · exact kept_bump h
  split
  · exact kept_bump h
  extract_lets
  split
  · split
    · exact kept_opDone (kept_countTier (kept_ite (kept_loseExt (kept_dropReq h)) (kept_dropReq h)))
    · exact kept_ite (kept_loseExt (kept_dropReq h)) (kept_dropReq h)
  · exact
      have h1 := kept_ite (kept_loseExt (kept_dropReq h)) (kept_dropReq h)
      kept_ite (kept_finish (kept_keepShared h1)) (kept_finish (kept_ite (kept_dropReads h1) h1))

theorem kept_tagFreed {c : Nat} (h : Kept s t) : Kept s (tagFreed c t) :=
  kept_foldl (fun _ _ hr => kept_ite (kept_trayIssue (kept_dropReq hr)) hr) h

theorem kept_lateTags {r : Req} (h : Kept s t) : Kept s (lateTags r t) := by
  unfold lateTags
  split
  · exact kept_modMem h
  · exact kept_modMem h
  · exact h

theorem kept_serveLegacy {r : Req} {part : Nat} {raw : Bytes} (h : Kept s t) : Kept s (serveLegacy r part raw t) := by
  unfold serveLegacy
  split
  · exact kept_finish (kept_keepShared h)
  · exact kept_finish (kept_legacyBad h)

theorem kept_trayServe {r : Req} {raw : Bytes} (h : Kept s t) : Kept s (trayServe r raw t) := kept_ite (kept_serveLegacy h) (kept_serve h)

theorem kept_trayResponse {c tag kind : Nat} {raw : Bytes} (h : Kept s t) : Kept s (trayResponse c tag kind raw t) := by
  unfold trayResponse
  split
  · split
    · exact
        have h1 := kept_bump (kept_modMem h)
        kept_tagFreed (kept_ite h1 (kept_bump h1))
    · exact h
  · exact
      have h2 := kept_ite (kept_progress h) h
      kept_ite h
        (kept_ite (kept_runReqs (kept_finish (kept_raise (kept_bump (kept_tagFreed (kept_lateTags (kept_dropReq h2)))))))
          (kept_ite (kept_runReqs (kept_trayServe (kept_tagFreed (kept_dropReq h2)))) (kept_modMem h2)))

theorem kept_dropTxnReq {arr : Nat} (h : Kept s t) : Kept s (dropTxnReq arr t) := kept_modMem h

theorem kept_endReq {r : Req} {st : Nat} (h : Kept s t) : Kept s (endReq r st t) :=
  kept_finish (kept_lateTags (kept_dropTxnReq (kept_dropReq h)))

theorem kept_tierLate {arr : Nat} (h : Kept s t) : Kept s (tierLate arr t) := by
  unfold tierLate
  split
  · exact h
  · exact kept_runReqs (kept_endReq h)

theorem kept_endReqsOn {e st : Nat} (h : Kept s t) : Kept s (endReqsOn e st t) := kept_foldl (fun _ _ hr => kept_endReq hr) h

theorem kept_trayDown {c : Nat} (h : Kept s t) : Kept s (trayDown c t) :=
  kept_runReqs (kept_foldl (fun _ _ hr => kept_finish (kept_dropReq hr)) (kept_modMem h))

theorem kept_dirIn {prg : Nat} {m : Msg} (h : Kept s t) : Kept s (dirIn prg m t) :=
  kept_ite (kept_unsupported (kept_takeDelivered h)) (kept_runReqs (kept_dirMsg (kept_nextArr (kept_takeDelivered h))))

theorem kept_wbTimeout {l agent : Nat} (h : Kept s t) : Kept s (wbTimeout l agent t) := by
  unfold wbTimeout
  split
  · exact h
  split
  · exact h
  · exact kept_ite (kept_runReqs (kept_tryEndTxn (kept_cohRaise (kept_putTxn (kept_poisonLine h))))) h

theorem kept_snpTimeout {l agent : Nat} (h : Kept s t) : Kept s (snpTimeout l agent t) := by
  unfold snpTimeout
  split
  · exact h
  · exact kept_ite (kept_cohRaise h) h

theorem kept_sweepDom {d : Nat} (h : Kept s t) : Kept s (sweepDom d t) := by
  unfold sweepDom
  split
  · exact h
  · exact kept_foldl (fun _ _ hr => kept_ite hr (kept_startTxn hr)) (kept_modMem h)

theorem kept_clearDom {d : Nat} (h : Kept s t) : Kept s (clearDom d t) := kept_runReqs (kept_wake (kept_modMem h))

end Sys2Proof.Machine
end

section
/-! PROOFS. What the operations of time, links, programs, collectives and rounds keep. -/

namespace Sys2Proof.Machine

-- One after another: side by side, so many short proofs take more threads than the check has memory for.
set_option Elab.async false

variable {s t : State}

/-! ### Device time and its sources -/

theorem kept_setTimState {v : Nat} (h : Kept s t) : Kept s (setTimState t v) := kept_wrF h
theorem kept_tick (h : Kept s t) : Kept s (tick t) := kept_same h
theorem kept_dropCause {f : Src} {u : Nat} (h : Kept s t) : Kept s (dropCause f u t) := kept_same h
theorem kept_addCause {f : Src} {u : Nat} {prog : Word} (h : Kept s t) : Kept s (addCause f u prog t) := kept_same (kept_dropCause h)

theorem kept_measure {off : ℤ} (h : Kept s t) : Kept s (measure off t) :=
  have h1 := kept_ite (kept_wrF h) (kept_bump (kept_wrF h))
  have h2 := kept_ite (kept_same h1) (kept_same h1)
  have h3 := kept_ite (kept_dropCause (kept_same h2)) (kept_same h2)
  kept_ite (kept_setTimState (kept_same h3))
    (kept_ite (kept_setTimState (kept_same h3)) (kept_ite (kept_ite (kept_raise (kept_addCause h3)) h3) h3))

theorem kept_timSourceChanged {old : Word} (h : Kept s t) : Kept s (timSourceChanged old t) :=
  kept_ite (kept_setTimState (kept_dropCause (kept_same h)))
    (kept_ite h
      (kept_ite (kept_ite (kept_dropCause (kept_same h)) (kept_setTimState (kept_dropCause (kept_same h))))
        (kept_setTimState (kept_dropCause (kept_same h)))))

theorem kept_timStart (h : Kept s t) : Kept s (timStart t) := kept_ite (kept_setTimState h) (kept_ite (kept_setTimState h) h)
theorem kept_ptpSync {off : ℤ} (h : Kept s t) : Kept s (ptpSync off t) := kept_ite (kept_measure h) h
theorem kept_ppsEdge (h : Kept s t) : Kept s (ppsEdge t) := kept_ite h (kept_measure h)
theorem kept_ppsOut (h : Kept s t) : Kept s (ppsOut t) := kept_same h
theorem kept_timHoldover (h : Kept s t) : Kept s (timHoldover t) := kept_ite (kept_raise (kept_setTimState (kept_same h))) h
theorem kept_timUnlocked (h : Kept s t) : Kept s (timUnlocked t) := kept_ite (kept_raise (kept_setTimState (kept_same h))) h
theorem kept_setDom {d : Nat} {x : Domain} (h : Kept s t) : Kept s (setDom t d x) := kept_same h
theorem kept_setGate {n : Nat} {g : GatePos} (h : Kept s t) : Kept s (setGate t n g) := kept_same h

theorem kept_gateNext {n : Nat} (h : Kept s t) : Kept s (gateNext t n) := by
  unfold gateNext
  split
  · exact h
  · exact kept_ite h (kept_setGate h)

theorem kept_sendSlip {d : Nat} {except : Option Nat} {pay : Bytes} (h : Kept s t) : Kept s (sendSlip t d except pay) :=
  kept_foldl (fun _ _ hr => kept_emitPort hr) h

/-! ### Links and ports -/

theorem kept_setLink {p st : Nat} (h : Kept s t) : Kept s (setLink t p st) := kept_wrF h
theorem kept_showLive {b : Nat} (h : Kept s t) : Kept s (showLive b t) := kept_wrF h

theorem kept_gangDeliver {n b : Nat} (h : Kept s t) : Kept s (gangDeliver n b t) := by
  induction n generalizing t with
  | zero => exact h
  | succ n ih =>
    unfold gangDeliver
    split
    · exact h
    split
    · exact h
    · exact ih (kept_groundIn (kept_modPort (kept_modPort h)))

theorem kept_gangLose {b m : Nat} (h : Kept s t) : Kept s (gangLose b m t) := by
  unfold gangLose
  extract_lets
  split
  · exact kept_modPort h
  · exact kept_raise (kept_gangDeliver (kept_modPort (kept_modPort h)))

theorem kept_portLost {p : Nat} {down : Bool} (h : Kept s t) : Kept s (portLost p down t) :=
  kept_ite (kept_gangLose (kept_showLive h)) (kept_ite (kept_addDue (kept_flushPort (kept_showLive h))) (kept_showLive h))

theorem kept_linkFall {f : Src} {p : Nat} (h : Kept s t) : Kept s (linkFall f p t) :=
  kept_portLost (kept_raise (kept_modPort (kept_setLink h)))

theorem kept_linkDown {p : Nat} (h : Kept s t) : Kept s (linkDown p t) := kept_linkFall h

theorem kept_linkRetrain {p : Nat} (h : Kept s t) : Kept s (linkRetrain p t) :=
  kept_portLost (kept_raise (kept_modPort (kept_bump (kept_setLink h))))

theorem kept_linkDisable {p : Nat} (h : Kept s t) : Kept s (linkDisable p t) :=
  have h1 := kept_modPort (kept_setLink h)
  kept_ite (kept_portLost h1) h1

theorem kept_linkDetect {p : Nat} (h : Kept s t) : Kept s (linkDetect p t) := kept_ite (kept_setLink h) h
theorem kept_equalizeDone {p : Nat} (h : Kept s t) : Kept s (equalizeDone p t) := kept_ite (kept_setLink h) h
theorem kept_alignLock {p : Nat} (h : Kept s t) : Kept s (alignLock p t) := kept_ite (kept_setLink h) (kept_ite (kept_modPort h) h)

theorem kept_trainTimeout {p : Nat} (h : Kept s t) : Kept s (trainTimeout p t) :=
  kept_ite (kept_linkDown h) (kept_ite (kept_linkFall h) (kept_ite (kept_linkDown (kept_modPort h)) h))

theorem kept_lockLost {p : Nat} (h : Kept s t) : Kept s (lockLost p t) := kept_ite (kept_linkRetrain h) h
theorem kept_autoRetry {p : Nat} (h : Kept s t) : Kept s (autoRetry p t) := kept_ite (kept_setLink h) h

theorem kept_takeAck {p lack : Nat} (h : Kept s t) : Kept s (takeAck p lack t) := by
  unfold takeAck
  dsimp only
  split
  · refine kept_setPort ?_
    split
    · exact kept_wrF h
    · exact h
  · exact h

theorem kept_takeCredit {p c ccount : Nat} (h : Kept s t) : Kept s (takeCredit p c ccount t) := kept_modPort h

theorem kept_takeTrailer {p : Nat} {t' : Trailer} (h : Kept s t) : Kept s (takeTrailer p t' t) :=
  have h1 := kept_progress (kept_bump h)
  kept_ite (kept_takeCredit (kept_takeAck (kept_modPort h1))) (kept_modPort h1)

theorem kept_rxGap {p : Nat} (h : Kept s t) : Kept s (rxGap p t) := kept_modPort h

theorem kept_rxDeliver {p : Nat} {g : Seg} (h : Kept s t) : Kept s (rxDeliver p g t) :=
  kept_ite (kept_same h) (kept_ite (kept_groundIn h) (kept_gangDeliver (kept_modPort h)))

theorem kept_rxBad {p : Nat} (h : Kept s t) : Kept s (rxBad p t) := kept_ite (kept_rxGap (kept_bump h)) (kept_bump h)

theorem kept_rxFlit {p corr : Nat} {uncorr : Option Nat} {k : State → State}
    (hf : ∀ v, Kept s v → Kept s (k v)) (h : Kept s t) : Kept s (rxFlit p corr uncorr k t) := by
  unfold rxFlit
  extract_lets
  split
  · exact kept_rxBad (kept_bump (kept_bump h))
  · exact hf _ (kept_bump h)

theorem kept_rxData {p : Nat} {f : Bytes} (h : Kept s t) : Kept s (rxData p f t) :=
  have h1 := kept_ite h (kept_takeTrailer h)
  kept_ite (kept_rxBad h) (kept_ite h (kept_ite h (kept_ite (kept_rxDeliver (kept_modPort h1)) (kept_rxGap h1))))

theorem kept_rxOther {p kind : Nat} {f : Bytes} {act : Trailer → State → State}
    (hf : ∀ i v, Kept s v → Kept s (act i v)) (h : Kept s t) : Kept s (rxOther p kind f act t) :=
  kept_ite (kept_rxBad h) (kept_ite h (kept_ite h (hf _ _ (kept_takeTrailer h))))

theorem kept_rxRetryReq {p lack : Nat} (h : Kept s t) : Kept s (rxRetryReq p lack t) :=
  kept_ite (kept_linkRetrain h) (kept_ite h (kept_ite (kept_linkRetrain h) (kept_bump (kept_setPort h))))

theorem kept_replayTimeout {p : Nat} (h : Kept s t) : Kept s (replayTimeout p t) :=
  kept_ite h (kept_ite (kept_modPort h) (kept_ite (kept_linkRetrain (kept_modPort h)) (kept_bump (kept_setPort (kept_modPort h)))))

theorem kept_rxFaultIdle {p : Nat} (h : Kept s t) : Kept s (rxFaultIdle p t) :=
  kept_ite h (kept_ite (kept_ite (kept_modPort h) (kept_linkDown (kept_raise h))) h)

theorem kept_rxGangCut {p idx lseq : Nat} (h : Kept s t) : Kept s (rxGangCut p idx lseq t) :=
  kept_ite h (kept_raise (kept_showLive (kept_modPort (kept_setPort h))))

theorem kept_newLink {p : Nat} {pe : Peer} (h : Kept s t) : Kept s (newLink p pe t) :=
  kept_ite (kept_same (kept_modPort (kept_flushPort (kept_modPort h)))) (kept_modPort h)

theorem kept_linkActive {p : Nat} {pe : Peer} (h : Kept s t) : Kept s (linkActive p pe t) :=
  kept_modPort (kept_showLive (kept_wrF (kept_wrF (kept_wrF (kept_wrF (kept_setLink (kept_ite (kept_modPort h) (kept_newLink h))))))))

theorem kept_rxTrain {p : Nat} {f : Bytes} (h : Kept s t) : Kept s (rxTrain p f t) :=
  have h1 := kept_modPort (kept_progress (kept_bump h))
  have h2 := kept_ite (kept_raise h1) h1
  kept_ite (kept_rxBad h)
    (kept_ite h
      (kept_ite h
        (kept_ite (kept_raise (kept_modPort h1)) (kept_ite (kept_linkActive (kept_modPort h2)) (kept_modPort h2)))))

theorem kept_markDue {p : Nat} (h : Kept s t) : Kept s (markDue p t) := kept_ite (kept_modPort h) h

theorem kept_delayMeasure {p : Nat} {d : ℤ} (h : Kept s t) : Kept s (delayMeasure p d t) :=
  kept_ite (kept_bump h) (kept_wrF (kept_wrF (kept_setPort h)))

theorem kept_rxMark {p : Nat} {f : Bytes} (h : Kept s t) : Kept s (rxMark p f t) :=
  have h1 := kept_ite (kept_delayMeasure h) h
  kept_ite (kept_measure (kept_bump (kept_modPort h1))) (kept_modPort h1)

theorem kept_chargeClass {b tc : Nat} (h : Kept s t) : Kept s (chargeClass t b tc) := kept_ite (kept_same h) (kept_same h)

theorem kept_releaseRoutes (h : Kept s t) : Kept s (releaseRoutes t) :=
  kept_ite h (kept_foldl (fun _ _ hr => kept_routeIn hr) (kept_same h))

theorem kept_routeHoldOver {path : Nat} (h : Kept s t) : Kept s (routeHoldOver path t) :=
  kept_ite (kept_releaseRoutes (kept_same h)) (kept_ite h (kept_same h))

theorem kept_takeCell {b tc : Nat} {c : GCell} (h : Kept s t) : Kept s (takeCell t b tc c) :=
  kept_releaseRoutes (kept_drainWaiting (kept_cellLeaves (kept_same h)))

theorem kept_sendFlit {p kind lseq : Nat} {body : Bytes} (h : Kept s t) : Kept s (sendFlit t p kind lseq body) :=
  kept_progress (kept_bump (kept_modPort (kept_setPort h)))

theorem kept_sendData {p : Nat} {body : Bytes} (h : Kept s t) : Kept s (sendData t p body) := kept_modPort (kept_sendFlit h)
theorem kept_vepSlice {b tc v : Nat} (h : Kept s t) : Kept s (vepSlice t b tc v) := kept_modPort h
theorem kept_countStalls {b : Nat} (h : Kept s t) : Kept s (countStalls t b) := kept_bump (kept_bump (kept_same h))

theorem kept_sendNew {p : Nat} {u : State} (h : Kept s t) (e : sendNew t p = some u) : Kept s u := by
  unfold sendNew at e
  extract_lets _ turn at e
  split at e
  · cases e
  split at e
  · cases e
    exact kept_modPort (kept_sendData (kept_modPort h))
  split at e
  · cases e
  split at e
  · cases e
  · cases e
    exact kept_modPort (kept_sendData (kept_bump (kept_vepSlice (kept_chargeClass (kept_modPort (kept_takeCell h))))))

theorem kept_sendBare {p : Nat} {body : Bytes} {t' : Trailer} (h : Kept s t) : Kept s (sendBare t p body t') :=
  kept_progress (kept_bump (kept_modPort h))

theorem kept_trainIdle {p : Nat} (h : Kept s t) : Kept s (trainIdle p t) := kept_sendBare h

theorem kept_flitSlot {p : Nat} (h : Kept s t) : Kept s (flitSlot p t) := by
  unfold flitSlot
  split
  · exact kept_ite h (kept_sendBare h)
  split
  · exact kept_trainIdle h
  split
  · exact h
  extract_lets
  split
  · exact kept_sendFlit (kept_setPort h)
  split
  · exact kept_sendFlit (kept_setPort h)
  split
  · exact kept_sendFlit (kept_setPort h)
  split
  · split
    · exact kept_sendFlit (kept_setPort h)
    · exact kept_sendFlit (kept_setPort h)
  split
  next heq =>
    exact kept_countStalls (kept_sendNew h heq)
  · exact kept_sendFlit (kept_countStalls h)

theorem kept_trainTx {p : Nat} (h : Kept s t) : Kept s (trainTx p t) := kept_ite (kept_modPort (kept_sendBare h)) h

theorem kept_rxControl {p op : Nat} {f : Bytes} (h : Kept s t) : Kept s (rxControl p op f t) :=
  kept_rxOther (fun _ _ hr => kept_ite hr (kept_ite (kept_rxGangCut hr) (kept_linkRetrain hr))) h

theorem kept_rxFault {p : Nat} {f : Bytes} (h : Kept s t) : Kept s (rxFault p f t) :=
  kept_ite (kept_rxBad h) (kept_ite h (kept_rxFaultIdle (kept_bump h)))

theorem kept_refill {b sel : Nat} (h : Kept s t) : Kept s (refill b sel t) :=
  kept_ite (kept_same h)
    (kept_ite (kept_foldl (fun _ _ hr => kept_remeter hr) (kept_same h))
      (kept_ite (kept_foldl (fun _ _ hr => kept_remeter hr) (kept_same h)) h))

/-! ### Stream programs and bobbins -/

theorem kept_setBobState {b v : Nat} (h : Kept s t) : Kept s (setBobState b v t) := kept_wrF h
theorem kept_setCursor {b v : Nat} (h : Kept s t) : Kept s (setCursor b v t) := kept_wrF h
theorem kept_setBob {b : Nat} {x : Bobbin} (h : Kept s t) : Kept s (setBob t b x) := kept_same h
theorem kept_modBob {b : Nat} {f : Bobbin → Bobbin} (h : Kept s t) : Kept s (modBob b f t) := kept_setBob h

theorem kept_bobFault {b code station desc detail tile : Nat} {st : Option Step}
    (h : Kept s t) : Kept s (bobFault b code station desc detail tile st t) :=
  kept_ite h (kept_addDue (kept_raise (kept_setBobState (kept_wrF (kept_wrReg h)))))

theorem kept_bobFenced {b : Nat} (h : Kept s t) : Kept s (bobFenced b t) :=
  kept_ite h (kept_addDue (kept_setBobState (kept_modBob (kept_wrReg h))))

theorem kept_dropSteps {b : Nat} (h : Kept s t) : Kept s (dropSteps b t) := kept_modBob h
theorem kept_bobRestart {b bank : Nat} {e : BobEnt} (h : Kept s t) : Kept s (bobRestart b e bank t) := kept_setBob (kept_wrReg h)

theorem kept_bindStations {n : Nat} (h : Kept s t) : Kept s (bindStations n t) := by
  unfold bindStations
  refine kept_foldl (fun _ _ hr => ?_) h
  extract_lets
  split
  · exact kept_wrReg (kept_wrReg (kept_wrReg hr))
  · exact kept_wrReg (kept_wrReg (kept_wrReg hr))

theorem kept_bankTakesForce {n : Nat} (h : Kept s t) : Kept s (bankTakesForce n t) := kept_bindStations (kept_wrF h)

theorem kept_epochRestart {n : Nat} (h : Kept s t) : Kept s (epochRestart n t) := by
  unfold epochRestart
  refine kept_foldl (fun _ _ hr => ?_)
    (kept_raiseIf (kept_raiseIf (kept_ite (kept_bindStations (kept_wrF (kept_wrF h))) (kept_wrF (kept_wrF h)))))
  extract_lets
  split
  · exact hr
  split
  · exact kept_ite (kept_setBobState (kept_bobRestart hr)) (kept_ite hr (kept_ite hr (kept_setBobState (kept_setBob hr))))
  · exact kept_ite hr (kept_setBobState (kept_setBob hr))

theorem kept_bobExec {b op : Nat} {k : State → State} (hf : ∀ v, Kept s v → Kept s (k v)) (h : Kept s t) : Kept s (bobExec b op k t) :=
  kept_ite h (kept_ite (kept_bobFault h) (kept_ite (hf _ h) h))

theorem kept_bobLoop {b : Nat} (h : Kept s t) : Kept s (bobLoop b t) := kept_ite (kept_bobFault h) (kept_setCursor (kept_setBob h))

theorem kept_bobNext {b : Nat} (h : Kept s t) : Kept s (bobNext b t) := by
  unfold bobNext
  extract_lets
  split
  · exact kept_bobFault h
  · exact kept_ite (kept_setCursor (kept_setBob h)) (kept_setCursor (kept_setBob h))

theorem kept_bobWait {b : Nat} (h : Kept s t) : Kept s (bobWait b t) := kept_ite (kept_ite (kept_setBobState h) h) (kept_setCursor h)
theorem kept_bobEnd {b : Nat} (h : Kept s t) : Kept s (bobEnd b t) := kept_ite (kept_setBobState h) h

theorem kept_bobCmd {b cmd : Nat} (h : Kept s t) : Kept s (bobCmd b cmd t) := by
  unfold bobCmd
  extract_lets
  split
  · exact kept_csrRefused h
  split
  · split
    · exact kept_ite (kept_okReply (kept_setBobState (kept_bobRestart h))) (kept_csrRefused h)
    · exact kept_csrRefused h
  split
  · exact kept_okReply (kept_setBobState h)
  split
  · split
    · exact kept_okReply (kept_setBobState (kept_bobRestart h))
    · exact kept_csrRefused h
  · exact kept_ite (kept_okReply (kept_setBobState (kept_dropSteps h)))
      (kept_ite (kept_okReply (kept_setBobState (kept_setBob h))) (kept_csrRefused h))

theorem kept_progLoad {n : Nat} {w : Word} (h : Kept s t) : Kept s (progLoad n w t) :=
  have h1 := kept_okReply (kept_wrF (kept_wrF h))
  kept_ite h1 (kept_ite (kept_wrF h1) (kept_same (kept_wrF (kept_wrF h1))))

theorem kept_progLoaded {n : Nat} {bad : Bool} (h : Kept s t) : Kept s (progLoaded n bad t) := by
  unfold progLoaded
  split
  · exact h
  · exact
      have h1 := kept_wrF (kept_wrF (kept_same h))
      kept_ite (kept_wrReg (kept_same (kept_wrF h1))) (kept_same (kept_wrF h1))

theorem kept_serveTurn {b k : Nat} {st : Step} (h : Kept s t) : Kept s (serveTurn b st k t) := by
  unfold serveTurn
  split
  · exact h
  extract_lets
  split
  · exact kept_ite (kept_same h) (kept_bump (kept_same h))
  · exact kept_bump (kept_same h)

theorem kept_putStep {b : Nat} {st : Step} (h : Kept s t) : Kept s (putStep b st t) := kept_modBob h
theorem kept_expireTurns (h : Kept s t) : Kept s (expireTurns t) := kept_same h

/-! ### Collectives and multicast -/

theorem kept_setColl {i : Nat} {c : Coll} (h : Kept s t) : Kept s (setColl t i c) := kept_same h

theorem kept_sendLocal {prg stream ep : Nat} {m : Msg} (h : Kept s t) : Kept s (sendLocal prg m stream ep t) :=
  kept_ite (kept_bump (kept_emit h)) (kept_bump h)

theorem kept_replicate {prg g stream : Nat} {m : Msg} (h : Kept s t) : Kept s (replicate prg g m stream t) :=
  kept_bump (kept_bump (kept_emitCopies h))

theorem kept_closeGap {f : FlowKey} {q k : Nat} (h : Kept s t) : Kept s (closeGap f q k t) := kept_same h

theorem kept_dropRun {run : List GCell} (h : Kept s t) : Kept s (dropRun run t) := by
  unfold dropRun
  dsimp only
  split
  · exact kept_same h
  · exact kept_ite (kept_closeGap (kept_same h)) (kept_same h)

theorem kept_dropTiles {streams : List Nat} (h : Kept s t) : Kept s (dropTiles streams t) :=
  kept_ite h (kept_drainWaiting (kept_foldl (fun _ _ hr => kept_dropRun hr) h))

theorem kept_dropContribs {p : WaitContrib → Bool} (h : Kept s t) : Kept s (dropContribs p t) := kept_freeCells (kept_same h)
theorem kept_dropWaitTiles {p : WaitTile → Bool} (h : Kept s t) : Kept s (dropWaitTiles p t) := kept_freeCells (kept_same h)

theorem kept_collAbort {id reason origin hops : Nat} {from_ : Option Nat}
    (h : Kept s t) : Kept s (collAbort id reason origin hops from_ t) := by
  unfold collAbort
  extract_lets
  split
  · exact h
  refine kept_raise (kept_bump (kept_foldl (fun _ _ hr => ?_)
    (kept_foldl (fun _ _ hr => kept_emit hr)
      (kept_foldl (fun _ _ hr => kept_ite hr (kept_emitPort hr))
        (kept_ite (kept_emit (kept_dropTiles (kept_dropContribs (kept_same (kept_setColl h)))))
          (kept_dropTiles (kept_dropContribs (kept_same (kept_setColl h)))))))))
  split
  · exact kept_bobFault hr
  · exact hr

theorem kept_collFail {id reason : Nat} (h : Kept s t) : Kept s (collFail id reason t) := kept_collAbort h

theorem kept_abortIn {m : Msg} (h : Kept s t) : Kept s (abortIn m t) := by
  unfold abortIn
  split
  · exact h
  · exact kept_collAbort h

theorem kept_collPortGone {p : Nat} (h : Kept s t) : Kept s (collPortGone p t) :=
  kept_foldl (fun _ _ hr => kept_ite (kept_collFail hr) (kept_ite (kept_collFail hr) (kept_ite (kept_collFail hr) hr))) h

theorem kept_collBobGone {b : Nat} {st : Option Step} (h : Kept s t) : Kept s (collBobGone b st t) :=
  kept_foldl (fun _ _ hr => kept_ite (kept_collFail hr) hr) h

theorem kept_collRegionGone {n : Nat} (h : Kept s t) : Kept s (collRegionGone n t) :=
  kept_foldl (fun _ _ hr => kept_ite (kept_collFail hr) hr) h

theorem kept_readOut {x : TileSet} (h : Kept s t) : Kept s (readOut x t) := by
  unfold readOut
  extract_lets
  split
  · exact
      have h1 := kept_bump (kept_same h)
      kept_ite (kept_emit h1) (kept_collFail h1)
  split
  · split
    · exact kept_sendLocal (kept_bump (kept_same h))
    · exact kept_bump (kept_same h)
  · exact kept_replicate (kept_bump (kept_same h))

theorem kept_enterSet {x : TileSet} {member label fmt rows cols : Nat} {pay : Bytes}
    (h : Kept s t) : Kept s (enterSet x member label fmt rows cols pay t) :=
  have h1 := kept_same (kept_bump h)
  kept_ite (kept_raise (kept_bump h)) (kept_ite (kept_collFail h) (kept_ite (kept_readOut h1) h1))

theorem kept_offerSet {id t' member label fmt rows cols : Nat} {pay : Bytes}
    (h : Kept s t) : Kept s (offerSet id t' member label fmt rows cols pay t).2 := by
  unfold offerSet
  split
  · exact kept_enterSet h
  · exact kept_ite_snd (kept_enterSet (kept_same (kept_setColl h))) h

theorem kept_collStray (h : Kept s t) : Kept s (collStray t) := kept_raise (kept_bump h)
theorem kept_staleTile {n : Nat} (h : Kept s t) : Kept s (staleTile n t) := kept_raise (kept_same h)

theorem kept_groupTile {prg g : Nat} {m : Msg} (h : Kept s t) : Kept s (groupTile prg g m t) := by
  unfold groupTile
  split
  · exact kept_ite (kept_collStray h) (kept_ite (kept_bump h) (kept_replicate h))
  · exact kept_ite (kept_collStray h) (kept_replicate h)

theorem kept_collTile {prg : Nat} {m : Msg} {cs : List GCell} (h : Kept s t) : Kept s (collTile prg m cs t) := by
  unfold collTile
  extract_lets
  split
  · extract_lets
    split
    · exact kept_bump (kept_drainWaiting (kept_freeCells h))
    split
    · exact kept_staleTile (kept_drainWaiting (kept_freeCells h))
    split
    · exact kept_collStray (kept_drainWaiting (kept_freeCells h))
    · exact
        have h1 := kept_drainWaiting (kept_freeCells h)
        kept_ite (kept_collStray h1)
          (kept_ite (kept_ite (kept_collFail h1) (kept_ite (kept_offerSet h1) (kept_same h)))
            (kept_ite (kept_collStray h1)
              (kept_ite (kept_ite (kept_emit (kept_bump h1)) (kept_collFail (kept_bump h1)))
                (kept_replicate (kept_bump h1)))))
  · exact kept_collStray (kept_drainWaiting (kept_freeCells h))

theorem kept_collSetOpen {i : Nat} (h : Kept s t) : Kept s (collSetOpen i t) := by
  unfold collSetOpen
  split
  · exact h
  · exact kept_ite (kept_drainWaiting (kept_freeCells (kept_offerSet (kept_same h)))) h

theorem kept_collTimeout {id t' : Nat} (h : Kept s t) : Kept s (collTimeout id t' t) := kept_ite (kept_collFail h) h

theorem kept_collOpen {id : Nat} {desc : Bytes} (h : Kept s t) : Kept s (collOpen id desc t) :=
  kept_ite (kept_collFail (kept_setColl h)) (kept_setColl h)

theorem kept_collClose {id : Nat} (h : Kept s t) : Kept s (collClose id t) := kept_dropContribs (kept_same (kept_setColl h))
theorem kept_mcastSet {g : Nat} {e : Bytes} (h : Kept s t) : Kept s (mcastSet g e t) := kept_same h
theorem kept_mcastClear {g : Nat} (h : Kept s t) : Kept s (mcastClear g t) := kept_mcastSet h
theorem kept_collRound {dom n : Nat} (h : Kept s t) : Kept s (collRound dom n t) := kept_foldl (fun _ _ hr => kept_readOut hr) h

/-! ### Rounds, epochs and decision instants -/

theorem kept_regionTile {n : Nat} {m : Msg} {here : Bool} {cs : List GCell} (h : Kept s t) : Kept s (regionTile n m here cs t) := by
  unfold regionTile
  extract_lets
  split
  · exact kept_ite (kept_bump (kept_drainWaiting (kept_freeCells h)))
      (kept_ite (kept_staleTile (kept_drainWaiting (kept_freeCells h))) (kept_same h))
  · exact kept_same h

theorem kept_clearLate {d : Nat} (h : Kept s t) : Kept s (clearLate d t) :=
  kept_same (kept_foldl (fun _ _ hr => kept_wrF hr) (kept_foldl (fun _ _ hr => kept_wrF hr) h))

theorem kept_restartDrops {d : Nat} (h : Kept s t) : Kept s (restartDrops d t) :=
  kept_bump (kept_drainWaiting (kept_dropWaitTiles (kept_dropContribs (kept_same h))))

theorem kept_roundAdvance {d : Nat} {restart : Bool} (h : Kept s t) : Kept s (roundAdvance d restart t) :=
  have h1 := kept_wrF (kept_wrReg (kept_wrReg h))
  have h2 := kept_clearLate (kept_setDom (kept_wrF (kept_wrF h1)))
  kept_ite (kept_clearLate (kept_setDom (kept_wrReg (kept_wrReg (kept_wrReg h)))))
    (kept_ite (kept_raiseIf (kept_setDom (kept_bump (kept_wrF (kept_wrReg h)))))
      (kept_ite (kept_ite (kept_restartDrops h2) h2) (kept_wrF (kept_setDom h1))))

theorem kept_roundBegin {d : Nat} {epoch : Bool} (h : Kept s t) : Kept s (roundBegin d epoch t) :=
  kept_ite h
    (kept_collRound (kept_foldl
      (fun _ _ hr => kept_ite (kept_epochRestart hr)
        (kept_foldl
          (fun _ _ hq => kept_ite (kept_ite (kept_setBobState (kept_setCursor (kept_modBob (kept_modBob hq)))) (kept_modBob hq)) hq) hr))
      (kept_foldl (fun _ _ hr => kept_setGate hr) h)))

theorem kept_countLate {sched epochReg totalReg u unit : Nat} {f : Src}
    (h : Kept s t) : Kept s (countLate sched epochReg totalReg f u unit t) :=
  have h1 := kept_bump (kept_wrF h)
  kept_ite (kept_raise (kept_same h1)) h1

theorem kept_dropUnmatched {d : Nat} (h : Kept s t) : Kept s (dropUnmatched d t) :=
  kept_foldl (fun _ _ hr => kept_raise (kept_bump hr)) (kept_drainWaiting (kept_dropWaitTiles h))

theorem kept_decisionInstant {d : Nat} (h : Kept s t) : Kept s (decisionInstant d t) := by
  unfold decisionInstant
  extract_lets x n cs ps u1 u2 u3 late _ _ u4
  have h3 : Kept s u3 := kept_foldl (fun _ _ hr => kept_countLate hr) (kept_foldl (fun _ _ hr => kept_countLate hr) (kept_setDom h))
  have h4 : Kept s u4 := by
    unfold u4
    clear_value late
    split
    · exact h3
    · exact kept_sendSlip (kept_bump (kept_setDom h3))
  exact kept_ite h (kept_ite h4 (kept_dropUnmatched h4))

theorem kept_slipIn {p : Nat} {m : Msg} (h : Kept s t) : Kept s (slipIn p m t) := by
  unfold slipIn
  split
  · exact h
  · exact
      have h1 := kept_ite (kept_raise (kept_bump (kept_setDom h))) (kept_setDom h)
      kept_ite h (kept_ite (kept_bump h) (kept_ite (kept_setDom h) (kept_sendSlip (kept_ite (kept_bump h1) h1))))

end Sys2Proof.Machine
end

section
/-! PROOFS. What the operations of the stations keep. -/

namespace Sys2Proof.Machine

-- One after another: side by side, so many short proofs take more threads than the check has memory for.
set_option Elab.async false

variable {s t : State}

/-! ### Station units: the context of a unit of work and the units themselves -/

theorem kept_ctx_on {c : Ctx} {f : State → State} (hf : ∀ v, Kept s v → Kept s (f v)) (h : Kept s c.s) : Kept s (Ctx.on c f).s := hf _ h
theorem kept_ctx_fail {c : Ctx} {code detail : Nat} (h : Kept s c.s) : Kept s (Ctx.fail c code detail).s := kept_ite_ctx h h

theorem kept_ctx_tally {f : State → State} {c : Ctx} (hf : ∀ v, Kept s v → Kept s (f v)) (h : Kept s c.s) : Kept s (Ctx.tally f c).s :=
  kept_ite_ctx (kept_ctx_on (fun _ hr => hf _ hr) h) h

theorem kept_ctx_each {c : Ctx} {n : Nat} {f : Nat → Ctx → Ctx}
    (hf : ∀ i v, Kept s v.s → Kept s (f i v).s) (h : Kept s c.s) : Kept s (Ctx.each c n f).s :=
  kept_foldl_ctx (fun _ _ hr => kept_ite_ctx (hf _ _ hr) hr) h

theorem kept_lookedAt {rgn e : Nat} (h : Kept s t) : Kept s (lookedAt rgn e t) :=
  kept_ite (kept_bump (kept_progress h)) (kept_cacheFill (kept_bump (kept_progress h)))

theorem kept_ctx_asked {k : Ask} {c : Ctx} (h : Kept s c.s) : Kept s (Ctx.asked k c).2.s := by
  unfold Ctx.asked
  split <;> exact h

theorem kept_ctx_halt {c : Ctx} (h : Kept s c.s) : Kept s (Ctx.halt c).s := h

theorem kept_ctx_read1 {a n : Nat} {c : Ctx} (h : Kept s c.s) : Kept s (c.read1 a n).2.2.s := by
  unfold Ctx.read1
  refine kept_ite_snd_snd_ctx h ?_
  extract_lets k
  split
  next heq =>
    have hc := kept_snd_ctx heq (kept_ctx_asked h)
    exact hc
  next heq => exact kept_ctx_halt (kept_snd_ctx heq (kept_ctx_asked h))
  next heq =>
    have hc := kept_snd_ctx heq (kept_ctx_asked h)
    split
    · exact kept_countTier hc
    · extract_lets
      split
      next heq => exact kept_countTier (kept_snd_snd heq (kept_memRead (kept_lookedAt hc)))
    · exact hc

theorem kept_writeDrops {e : Option Nat} {a n : Nat} (h : Kept s t) : Kept s (writeDrops e a n t) := by
  unfold writeDrops
  split
  · exact kept_ite (kept_dropReads h) h
  · exact h

theorem kept_ctx_write1 {a : Nat} {d : Bytes} {c : Ctx} (h : Kept s c.s) : Kept s (c.write1 a d).2.s := by
  have hask {k : Ask} {p : Option (Option (Nat × Bytes)) × Ctx} (e : (if c.dry then (none, c) else c.asked k) = p) : Kept s p.2.s :=
    e ▸ kept_ite_snd_ctx h (kept_ctx_asked h)
  unfold Ctx.write1
  refine kept_ite_snd_ctx h ?_
  extract_lets n k
  split
  next heq => exact hask heq
  next heq => exact kept_ctx_halt (hask heq)
  next heq =>
    have hc := hask heq
    split
    · exact kept_countTier hc
    · extract_lets
      split
      next heq => exact kept_mirror (kept_countTier (kept_snd heq (kept_memWrite (kept_writeDrops (kept_lookedAt hc)))))
    · exact kept_ite_ctx hc hc

theorem kept_ctx_atomic1 {op a : Nat} {arg new : Bytes} {c : Ctx} (h : Kept s c.s) : Kept s (c.atomic1 op a arg new).2.2.s := by
  have hask {k : Ask} {p : Option (Option (Nat × Bytes)) × Ctx} (e : (if c.dry then (none, c) else c.asked k) = p) : Kept s p.2.s :=
    e ▸ kept_ite_snd_ctx h (kept_ctx_asked h)
  unfold Ctx.atomic1
  extract_lets w k
  refine kept_ite_snd_snd_ctx h ?_
  split
  next heq => exact hask heq
  next heq => exact kept_ctx_halt (hask heq)
  next heq =>
    have hc := hask heq
    split
    · exact kept_countTier hc
    · extract_lets
      split
      next heq =>
        have hread := kept_snd_snd heq (kept_memRead (kept_lookedAt hc))
        refine kept_ite_snd_snd_ctx (kept_countTier hread) ?_
        split
        next heq => exact kept_mirror (kept_countTier (kept_snd heq (kept_memWrite hread)))
    · exact kept_ite_ctx hc hc

theorem kept_ctx_readSt {a n : Nat} {c : Ctx} (h : Kept s c.s) : Kept s (Ctx.readSt a n c).2.2.s := by
  unfold Ctx.readSt
  refine kept_foldl_snd_snd_ctx (fun _ _ hr => ?_) h
  split
  · split
    next heq =>
    have h1 := kept_snd_snd_ctx heq (kept_ctx_read1 hr)
    exact h1
  · exact hr

theorem kept_ctx_writeSt {a : Nat} {d : Bytes} {c : Ctx} (h : Kept s c.s) : Kept s (Ctx.writeSt a d c).2.s :=
  kept_foldl_snd_ctx (fun _ _ hr => kept_ite_snd_ctx (kept_ctx_write1 hr) hr) h

theorem kept_ctx_read {a n : Nat} {c : Ctx} (h : Kept s c.s) : Kept s (Ctx.read a n c).2.s :=
  kept_ite_ctx (kept_ctx_readSt h) (kept_ctx_fail (kept_ctx_readSt h))

theorem kept_ctx_bulk {a n : Nat} {c : Ctx} (h : Kept s c.s) : Kept s (Ctx.bulk a n c).2.s :=
  kept_ite_snd_ctx (kept_ite_ctx h h) (kept_ctx_read h)

theorem kept_ctx_write {a : Nat} {d : Bytes} {c : Ctx} (h : Kept s c.s) : Kept s (Ctx.write a d c).s :=
  kept_ite_ctx (kept_ctx_writeSt h) (kept_ctx_fail (kept_ctx_writeSt h))

theorem kept_ctx_spans {st : Step} {g : Nat × Nat × Nat × Nat} {c : Ctx} (h : Kept s c.s) : Kept s (Ctx.spans st g c).s :=
  kept_ite_ctx h (kept_ite_ctx h (kept_ctx_fail h))

theorem kept_ctx_slot {o : Option (Nat × Nat)} {off k : Nat} {c : Ctx} (h : Kept s c.s) : Kept s (Ctx.slot o off k c).2.s := by
  unfold Ctx.slot
  split
  · exact h
  split
  · exact kept_ctx_fail h
  · exact kept_ite_snd_ctx (kept_ctx_fail h) (kept_ite_snd_ctx (kept_ctx_fail h) h)

theorem kept_ctx_tileOf {o : Option (Nat × Nat)} {f rows q : Nat} {c : Ctx} (h : Kept s c.s) : Kept s (Ctx.tileOf o f rows q c).2.s :=
  kept_ite_snd_ctx h (kept_ctx_slot h)

theorem kept_ctx_tile {o : Option (Nat × Nat)} {f rows q u : Nat} {c : Ctx} (h : Kept s c.s) : Kept s (Ctx.tile o f rows q u c).2.s :=
  kept_ctx_tally (fun _ hr => kept_bump hr) (kept_ctx_tileOf h)

theorem kept_ctx_putSlot {o : Option (Nat × Nat)} {off : Nat} {d : Bytes} {c : Ctx} (h : Kept s c.s) : Kept s (Ctx.putSlot o off d c).s := by
  unfold Ctx.putSlot
  split
  · exact h
  split
  · exact kept_ctx_fail h
  · exact kept_ite_ctx (kept_ctx_fail h) (kept_ctx_on (fun _ hr => kept_sramPut hr) h)

theorem kept_ctx_putOut {o : Option (Nat × Nat)} {f rows q u : Nat} {t' : OutTile} {c : Ctx}
    (h : Kept s c.s) : Kept s (Ctx.putOut o f rows q u t' c).s :=
  kept_ctx_tally (fun _ hr => kept_bump (kept_bump hr)) (kept_ctx_putSlot h)

theorem kept_ctx_putTile {o : Option (Nat × Nat)} {f rows q u : Nat} {t' : OutTile} {c : Ctx}
    (h : Kept s c.s) : Kept s (Ctx.putTile o f rows q u t' c).s := kept_ctx_tally (fun _ hr => kept_bump hr) (kept_ctx_putOut h)

theorem kept_ctx_array {x : Stn} {k : Nat} {c : Ctx} (h : Kept s c.s) : Kept s (Ctx.array x k c).s := by
  unfold Ctx.array
  refine kept_ctx_tally (fun _ hr => ?_) h
  extract_lets
  split
  · exact kept_bump (kept_bump hr)
  · exact kept_bump hr

theorem kept_countReads {b made : Nat} {st : Step} (h : Kept s t) : Kept s (countReads b st made t) :=
  kept_ite h (kept_bump (kept_bump h))

theorem kept_farUsed {ids : List Nat} (h : Kept s t) : Kept s (farUsed ids t) := kept_modMem h
theorem kept_stepCtx {b : Nat} {st : Step} (h : Kept s t) : Kept s (stepCtx t b st).s := h
theorem kept_ctx_askAll {c : Ctx} (h : Kept s t) : Kept s (Ctx.askAll c t) := kept_foldl (fun _ _ hr => kept_ask hr) h

theorem kept_runUnit {ty b i : Nat} {k : Step → Stn → Nat} {body : Step → Stn → Ctx → Ctx}
    (hf : ∀ i j v, Kept s v.s → Kept s (body i j v).s) (h : Kept s t) : Kept s (runUnit ty b i k body t) := by
  unfold runUnit
  split
  · exact h
  split
  · exact h
  extract_lets
  split
  · exact kept_ctx_askAll h
  split
  · exact kept_bobFault (kept_farUsed (kept_countReads (hf _ _ _ (kept_stepCtx h))))
  · exact
      have h1 := kept_farUsed (kept_countReads (hf _ _ _ (kept_stepCtx h)))
      kept_ite (kept_serveTurn (kept_bump (kept_progress (kept_putStep h1)))) (kept_putStep h1)

theorem kept_ingressUnit {st : Step} {x : Stn} {c : Ctx} (h : Kept s c.s) : Kept s (ingressUnit st x c).s := by
  unfold ingressUnit
  refine kept_ite_ctx (kept_ctx_fail h) ?_
  split
  · exact h
  extract_lets c1 m n
  have h1 : Kept s c1.s := kept_drainWaiting (kept_freeCells (kept_same h))
  split
  next c2 heq =>
  have h2 : Kept s c2.s := by
    refine kept_snd_ctx heq (kept_ite_snd_ctx h1 ?_)
    split
    next heq => exact kept_snd heq (kept_takeFreeBytes h1)
  extract_lets c3 c4
  have h4 : Kept s c4.s := kept_ctx_putTile (kept_ctx_tally (fun _ hr => kept_bump hr) h2)
  split
  · exact kept_ite_ctx (kept_ctx_tally (fun _ hr => kept_modBob hr) h4) h4
  · exact h4

theorem kept_ingress {b i : Nat} (h : Kept s t) : Kept s (ingress b i t) := kept_runUnit (fun _ _ _ hr => kept_ingressUnit hr) h

theorem kept_egressUnit {st : Step} {x : Stn} {c : Ctx} (h : Kept s c.s) : Kept s (egressUnit st x c).s :=
  kept_ite_ctx (kept_ctx_fail h)
    (kept_ite_ctx (kept_ctx_tile h)
      (kept_ite_ctx (kept_ctx_on (fun _ hr => kept_bump (kept_emit hr)) (kept_ctx_tile h))
        (kept_ctx_fail (kept_ctx_on (fun _ hr => kept_deadTarget hr) (kept_ctx_tile h)))))

theorem kept_egress {b i : Nat} (h : Kept s t) : Kept s (egress b i t) := kept_runUnit (fun _ _ _ hr => kept_egressUnit hr) h

theorem kept_loadUnit {st : Step} {x : Stn} {c : Ctx} (h : Kept s c.s) : Kept s (loadUnit st x c).s :=
  kept_ite_ctx (kept_ctx_fail h) (kept_ctx_putTile (kept_ctx_tally (fun _ hr => kept_bump hr) (kept_ctx_read h)))

theorem kept_load {b i : Nat} (h : Kept s t) : Kept s (load b i t) := kept_runUnit (fun _ _ _ hr => kept_loadUnit hr) h

theorem kept_storeUnit {st : Step} {x : Stn} {c : Ctx} (h : Kept s c.s) : Kept s (storeUnit st x c).s :=
  kept_ite_ctx (kept_ctx_fail h) (kept_ctx_tally (fun _ hr => kept_bump hr) (kept_ctx_write (kept_ctx_tile h)))

theorem kept_store {b i : Nat} (h : Kept s t) : Kept s (store b i t) := kept_runUnit (fun _ _ _ hr => kept_storeUnit hr) h

theorem kept_matmulUnit {st : Step} {x : Stn} {c : Ctx} (h : Kept s c.s) : Kept s (matmulUnit st x c).s := by
  unfold matmulUnit
  split
  · exact kept_ctx_fail h
  refine kept_ite_ctx (kept_ctx_fail h) ?_
  extract_lets
  split
  next heq =>
  have h1 := kept_snd_ctx heq (kept_foldl_snd_ctx (fun _ _ hr => by
    split
    next heq =>
    split
    next heq' => exact kept_snd_ctx heq' (kept_ctx_tile (kept_snd_ctx heq (kept_ctx_tile hr)))) h)
  refine kept_ite_ctx h1 ?_
  split
  exact kept_ctx_array (kept_ctx_tally (fun _ hr => kept_bump hr) (kept_ctx_putTile h1))

theorem kept_matmul {b i : Nat} (h : Kept s t) : Kept s (matmul b i t) := kept_runUnit (fun _ _ _ hr => kept_matmulUnit hr) h

theorem kept_elemwiseUnit {st : Step} {x : Stn} {c : Ctx} (h : Kept s c.s) : Kept s (elemwiseUnit st x c).s :=
  kept_ite_ctx (kept_ctx_fail h)
    (kept_ite_ctx (kept_ite_snd_ctx (kept_ctx_tile (kept_ctx_tile h)) (kept_ctx_tile h))
      (kept_ctx_putTile (kept_ite_snd_ctx (kept_ctx_tile (kept_ctx_tile h)) (kept_ctx_tile h))))

theorem kept_elemwise {b i : Nat} (h : Kept s t) : Kept s (elemwise b i t) := kept_runUnit (fun _ _ _ hr => kept_elemwiseUnit hr) h

theorem kept_ctx_tiles {o : Option (Nat × Nat)} {f rows n u : Nat} {c : Ctx} (h : Kept s c.s) : Kept s (Ctx.tiles o f rows n u c).2.s := by
  unfold Ctx.tiles
  refine kept_foldl_snd_ctx (fun _ _ hr => ?_) h
  split
  next heq =>
  have h1 := kept_snd_ctx heq (kept_ctx_tile hr)
  exact h1

theorem kept_normUnit {st : Step} {x : Stn} {c : Ctx} (h : Kept s c.s) : Kept s (normUnit st x c).s := by
  unfold normUnit
  extract_lets
  split
  · exact kept_ctx_fail h
  split
  next heq =>
  have h1 := kept_snd_ctx heq (kept_ctx_tiles h)
  split
  next heq =>
  have h2 := kept_snd_ctx heq (kept_ite_snd_ctx (kept_ctx_tiles h1) h1)
  exact
    have h3 := kept_ctx_each (fun _ _ hr => kept_ctx_putTile hr) h2
    kept_ite_ctx h2 (kept_ite_ctx (kept_ctx_putTile h3) h3)

theorem kept_norm {b i : Nat} (h : Kept s t) : Kept s (norm b i t) := kept_runUnit (fun _ _ _ hr => kept_normUnit hr) h

theorem kept_convertUnit {st : Step} {x : Stn} {c : Ctx} (h : Kept s c.s) : Kept s (convertUnit st x c).s := by
  unfold convertUnit
  split
  · exact kept_ctx_fail h
  · exact kept_ite_ctx (kept_ctx_fail h) (kept_ctx_each (fun _ _ hr => kept_ctx_putTile (kept_ctx_tile hr)) h)

theorem kept_convert {b i : Nat} (h : Kept s t) : Kept s (convert b i t) := kept_runUnit (fun _ _ _ hr => kept_convertUnit hr) h
theorem kept_expMem {u k : Nat} (h : Kept s t) : Kept s (expMem u k t) := kept_bump (kept_bump h)
theorem kept_expSlot {u k : Nat} (h : Kept s t) : Kept s (expSlot u k t) := kept_bump (kept_bump h)

theorem kept_lrResidual {h' : Lr} {addr a b u : Nat} {c : Ctx} (h : Kept s c.s) : Kept s (lrResidual h' addr a b u c).2.2.s := by
  unfold lrResidual
  split
  next heq =>
  have h1 := kept_snd_ctx heq (kept_ctx_read h)
  extract_lets
  split
  · exact kept_ctx_tally (fun _ hr => kept_expMem hr) h1
  split
  · exact kept_ctx_tally (fun _ hr => kept_expMem hr) h1
  split
  next heq =>
  have h2 := kept_snd_ctx heq (kept_ctx_bulk (kept_ctx_tally (fun _ hr => kept_expMem hr) h1))
  exact
    have h3 := kept_ctx_tally (fun _ hr => kept_expMem hr) h2
    kept_ite_snd_snd_ctx h2 (kept_ite_snd_snd_ctx h3 h3)

theorem kept_expandHead {st : Step} {x : Stn} {order : Bool} {c : Ctx} (h : Kept s c.s) : Kept s (expandHead st x order c).s := by
  unfold expandHead
  dsimp only
  split
  · exact kept_ctx_tally (fun _ hr => kept_expMem hr) (kept_ctx_read h)
  split
  · exact kept_ctx_fail (kept_ctx_tally (fun _ hr => kept_expMem hr) (kept_ctx_read h))
  · exact
      have h1 := kept_ctx_tally (fun _ hr => kept_expMem hr) (kept_ctx_read h)
      kept_ite_ctx (kept_ctx_fail h1) (kept_ite_ctx (kept_ctx_fail h1) (kept_ctx_spans h1))

theorem kept_expandU {st : Step} {x : Stn} {h' : Lr} {order : Bool} {a : Nat} {c : Ctx}
    (h : Kept s c.s) : Kept s (expandU st x h' order a c).2.s := by
  unfold expandU
  extract_lets
  split
  · exact kept_ctx_tally (fun _ hr => kept_expSlot hr) (kept_ite_snd_ctx h (kept_ctx_slot h))
  split
  · exact h
  · exact kept_ctx_tally (fun _ hr => kept_expMem hr) (kept_ctx_bulk h)

theorem kept_expandV {st : Step} {x : Stn} {h' : Lr} {b : Nat} {c : Ctx} (h : Kept s c.s) : Kept s (expandV st x h' b c).2.s := by
  unfold expandV
  extract_lets
  split
  · exact kept_ctx_tally (fun _ hr => kept_expSlot hr) (kept_ite_snd_ctx h (kept_ctx_slot h))
  · exact kept_ctx_tally (fun _ hr => kept_expMem hr) (kept_ctx_bulk h)

theorem kept_expandUnit {st : Step} {x : Stn} {c : Ctx} (h : Kept s c.s) : Kept s (expandUnit st x c).s := by
  unfold expandUnit
  extract_lets
  split
  · exact kept_ctx_fail h
  · exact
      have h1 := kept_ite_ctx (kept_expandHead h) h
      kept_ite_ctx (kept_ctx_fail h)
        (kept_ite_ctx h1
          (kept_ite_ctx (kept_ite_snd_snd_ctx (kept_lrResidual h1) h1)
            (kept_ite_ctx (kept_ctx_fail (kept_ite_snd_snd_ctx (kept_lrResidual h1) h1))
              (kept_ite_ctx (kept_expandV (kept_expandU (kept_ite_snd_snd_ctx (kept_lrResidual h1) h1)))
                (kept_ctx_array (kept_ctx_tally (fun _ hr => kept_bump (kept_bump (kept_bump hr)))
                  (kept_ctx_putTile (kept_expandV (kept_expandU (kept_ite_snd_snd_ctx (kept_lrResidual h1) h1))))))))))

theorem kept_expand {b i : Nat} (h : Kept s t) : Kept s (expand b i t) := kept_runUnit (fun _ _ _ hr => kept_expandUnit hr) h

theorem kept_compressUnit {st : Step} {x : Stn} {c : Ctx} (h : Kept s c.s) : Kept s (compressUnit st x c).s := by
  unfold compressUnit
  extract_lets
  split
  · exact kept_ctx_fail h
  refine kept_ite_ctx (kept_ctx_fail h) ?_
  split
  next heq =>
  have h1 := kept_snd_ctx heq (kept_foldl_snd_ctx (fun _ _ hr => by
    split
    next heq => exact kept_snd_ctx heq (kept_ctx_tileOf hr)) (kept_ctx_spans h))
  refine kept_ctx_each (fun _ _ hr => ?_) h1
  split
  next heq =>
  have h2 := kept_snd_ctx heq (kept_foldl_snd_ctx (fun _ _ hr => by
    split
    next heq =>
      refine kept_snd_ctx heq ?_
      split
      · exact kept_ctx_tileOf hr
      · exact kept_ctx_bulk hr) hr)
  refine kept_ite_ctx h2 ?_
  split
  exact kept_ctx_array (kept_ctx_tally (fun _ hr => kept_bump hr) (kept_ctx_putOut h2))

theorem kept_compress {b i : Nat} (h : Kept s t) : Kept s (compress b i t) := kept_runUnit (fun _ _ _ hr => kept_compressUnit hr) h

theorem kept_reduceUnit {st : Step} {x : Stn} {c : Ctx} (h : Kept s c.s) : Kept s (reduceUnit st x c).s :=
  kept_ite_ctx (kept_ctx_fail h)
    (kept_ite_ctx (kept_ctx_fail h)
      (kept_ite_ctx (kept_ctx_tile h)
        (kept_ite_ctx (kept_ctx_on (fun _ hr => kept_collStray hr) (kept_ctx_tile h))
          (kept_ite_ctx (kept_ctx_on (fun _ hr => kept_collStray hr) (kept_ctx_tile h))
            (kept_ite_ctx (kept_offerSet (kept_ctx_tile h)) (kept_ctx_halt (kept_ctx_tile h)))))))

theorem kept_reduce {b i : Nat} (h : Kept s t) : Kept s (reduce b i t) := kept_runUnit (fun _ _ _ hr => kept_reduceUnit hr) h

theorem kept_gatherRow {st : Step} {x : Stn} {stride tr q i : Nat} {v : ℤ} {seen : List (ℤ × Bytes)} {c : Ctx}
    (h : Kept s c.s) : Kept s (gatherRow st x stride tr q i v seen c).2.2.s := by
  unfold gatherRow
  extract_lets
  split
  · exact h
  split
  · exact kept_ctx_fail h
  split
  · exact h
  · exact kept_ctx_tally (fun _ hr => kept_bump hr) (kept_ctx_bulk h)

theorem kept_gatherUnit {st : Step} {x : Stn} {c : Ctx} (h : Kept s c.s) : Kept s (gatherUnit st x c).s := by
  unfold gatherUnit
  extract_lets
  split
  · exact kept_ctx_fail h
  refine kept_ite_ctx (kept_ctx_fail h) ?_
  split
  next heq =>
  have h1 := kept_snd_ctx heq (kept_foldl_snd_ctx (fun _ _ hr => by
    split
    next heq => exact kept_ctx_tally (fun _ hr => kept_bump hr) (kept_snd_ctx heq (kept_ctx_slot hr))) h)
  refine kept_foldl_snd_ctx (fun _ _ hr => ?_) h1
  split
  next heq =>
  have h2 := kept_snd_snd_ctx heq (kept_foldl_snd_snd_ctx (fun _ _ hr => kept_ite_snd_snd_ctx hr (by
    split
    next heq => exact kept_snd_snd_ctx heq (kept_gatherRow hr))) hr)
  exact kept_ite_ctx h2 (kept_ctx_putTile h2)

theorem kept_gather {b i : Nat} (h : Kept s t) : Kept s (gather b i t) := kept_runUnit (fun _ _ _ hr => kept_gatherUnit hr) h

theorem kept_scatterUnit {st : Step} {x : Stn} {c : Ctx} (h : Kept s c.s) : Kept s (scatterUnit st x c).s := by
  unfold scatterUnit
  extract_lets
  split
  · exact kept_ctx_fail h
  refine kept_ite_ctx (kept_ctx_fail h) (kept_ctx_each (fun _ _ hr => ?_) h)
  split
  next heq =>
  extract_lets
  split
  next heq' =>
  refine kept_ctx_each (fun _ _ hq => ?_)
    (kept_snd_ctx heq' (kept_ctx_tile (kept_ctx_tally (fun _ hr => kept_bump hr) (kept_snd_ctx heq (kept_ctx_slot hr)))))
  extract_lets
  refine kept_ite_ctx hq (kept_ite_ctx (kept_ctx_fail hq) ?_)
  split
  next heq =>
  refine kept_ctx_tally (fun _ hr => kept_bump hr) (kept_ctx_write (kept_snd_ctx heq (kept_ite_snd_ctx ?_ hq)))
  split
  next heq => exact kept_snd_ctx heq (kept_ctx_read hq)

theorem kept_scatter {b i : Nat} (h : Kept s t) : Kept s (scatter b i t) := kept_runUnit (fun _ _ _ hr => kept_scatterUnit hr) h

theorem kept_filterUnit {st : Step} {x : Stn} {c : Ctx} (h : Kept s c.s) : Kept s (filterUnit st x c).s := by
  unfold filterUnit
  extract_lets
  split
  · exact kept_ctx_fail h
  split
  next heq =>
  have h1 := kept_snd_ctx heq (kept_ctx_tiles h)
  split
  next heq =>
  have h2 := kept_snd_ctx heq (kept_ite_snd_ctx (kept_ctx_tiles h1) h1)
  exact
    have h3 := kept_ctx_each (fun _ _ hr => kept_ctx_putTile hr) h2
    kept_ite_ctx h2
      (kept_ite_ctx (kept_ctx_each (fun _ _ hr => kept_ctx_putTile hr) h2)
        (kept_ite_ctx (kept_ite_ctx (kept_ctx_each (fun _ _ hr => kept_ctx_putTile hr) h3) h3)
          (kept_ctx_putTile (kept_ctx_putTile h2))))

theorem kept_filter {b i : Nat} (h : Kept s t) : Kept s (filter b i t) := kept_runUnit (fun _ _ _ hr => kept_filterUnit hr) h

end Sys2Proof.Machine
end

section
/-! PROOFS. What the operations of CXL ports, homes, the boot and the shuttle keep. -/

namespace Sys2Proof.Machine

-- One after another: side by side, so many short proofs take more threads than the check has memory for.
set_option Elab.async false

variable {s t : State}

/-! ### CXL ports and the requests of hosts -/

theorem kept_setCxlState {c v : Nat} (h : Kept s t) : Kept s (setCxlState c v t) := kept_wrF h

theorem kept_trayLinkUp {c capacity width speed : Nat} (h : Kept s t) : Kept s (trayLinkUp c capacity width speed t) :=
  have h1 := kept_wrF (kept_wrF h)
  kept_ite h (kept_ite (kept_raise (kept_setCxlState h1)) (kept_runReqs (kept_setCxlState h1)))

theorem kept_cxlLeave {c v : Nat} (h : Kept s t) : Kept s (cxlLeave c v t) :=
  kept_trayDown (kept_farDrop (kept_modMem (kept_setCxlState h)))

theorem kept_cxpLinkDown {c kind : Nat} (h : Kept s t) : Kept s (cxpLinkDown c kind t) :=
  kept_ite (kept_bump h) (kept_ite h (kept_raise (kept_cxlLeave (kept_ite (kept_raise h) h))))

theorem kept_cxlRetrain {c : Nat} (h : Kept s t) : Kept s (cxlRetrain c t) := kept_ite (kept_cxlLeave h) h
theorem kept_cxlEnable {c : Nat} (h : Kept s t) : Kept s (cxlEnable c t) := kept_ite (kept_setCxlState h) (kept_raiseIf (kept_cxlLeave h))

theorem kept_hostReply {c ld : Nat} {d : Option Bytes} (h : Kept s t) : Kept s (hostReply c ld d t) :=
  kept_same (kept_ite (kept_bump h) h)

theorem kept_putHost {h' : HostReq} (h : Kept s t) : Kept s (putHost h' t) := kept_modMem h

theorem kept_hostGet {h' : HostReq} {a n : Nat} (h : Kept s t) : Kept s (hostGet h' a n t) :=
  have h1 := kept_farUsed (kept_ctx_readSt h)
  kept_ite (kept_putHost (kept_ctx_askAll h)) (kept_ite (kept_hostReply (kept_takeFreeBytes h1)) (kept_hostReply h1))

theorem kept_hostLine {h' : HostReq} (h : Kept s t) : Kept s (hostLine h' t) := by
  unfold hostLine
  split
  · exact kept_hostReply h
  split
  · exact kept_hostReply h
  split
  · exact kept_hostReply h
  · exact kept_hostGet h

theorem kept_hostRun {h' : HostReq} (h : Kept s t) : Kept s (hostRun h' t) :=
  kept_ite (kept_putHost h) (kept_ite (kept_raise (kept_bump h)) (kept_hostLine h))

theorem kept_hostRead {c ld dpa : Nat} (h : Kept s t) : Kept s (hostRead c ld dpa t) := kept_ite (kept_hostRun (kept_bump h)) h
theorem kept_hostWrite {c : Nat} (h : Kept s t) : Kept s (hostWrite c t) := kept_ite (kept_hostRun h) h
theorem kept_runHosts (h : Kept s t) : Kept s (runHosts t) := kept_foldl (fun _ _ hr => kept_hostRun (kept_modMem hr)) h
theorem kept_ldAnswer {c ld code : Nat} {vals : List Nat} (h : Kept s t) : Kept s (ldAnswer c ld code vals t) := kept_ite (kept_same h) h

/-! ### Homes, hosted extents, leases and publications -/

theorem kept_releaseHeld {slot : Nat} (h : Kept s t) : Kept s (releaseHeld slot t) := kept_modMem h
theorem kept_holdRange {slot home p n : Nat} (h : Kept s t) : Kept s (holdRange slot home p n t) := kept_modMem h
theorem kept_dropHeld {slot home p : Nat} (h : Kept s t) : Kept s (dropHeld slot home p t) := kept_modMem h

theorem kept_allocTake {slot : Nat} {d : Bytes} (h : Kept s t) : Kept s (allocTake slot d t) :=
  kept_setObj (kept_foldl (fun _ _ hr => kept_holdRange hr) (kept_modMem h))

theorem kept_dropFills {slot : Nat} {d : Bytes} (h : Kept s t) : Kept s (dropFills slot d t) := kept_modMem h
theorem kept_allocFill {d : Bytes} (h : Kept s t) : Kept s (allocFill d t) := kept_ite (kept_foldl (fun _ _ hr => kept_zeroFill hr) h) h
theorem kept_baseCommit (h : Kept s t) : Kept s (baseCommit t) := kept_ite (kept_modMem h) h

theorem kept_allocCommit {slot : Nat} {d : Bytes} (h : Kept s t) : Kept s (allocCommit slot d t) := by
  unfold allocCommit
  split
  · exact h
  · exact
      have h1 := kept_foldl (fun _ _ hr => kept_setExt hr) (kept_setObj (kept_dropFills (kept_baseCommit h)))
      kept_ite (kept_capAdd h1) (kept_foldl (fun _ _ hr => kept_forgetRange hr) (kept_capAdd h1))

theorem kept_allocUndo {slot : Nat} {d : Bytes} (h : Kept s t) : Kept s (allocUndo slot d t) := by
  unfold allocUndo
  extract_lets
  split
  · exact kept_setObj (kept_dropFills h)
  · exact kept_dropFills h

theorem kept_setObjState {i st : Nat} (h : Kept s t) : Kept s (setObjState t i st) := kept_setObj h

theorem kept_dropObj {i : Nat} (h : Kept s t) : Kept s (dropObj i t) :=
  kept_setObj (kept_modMem (kept_wrF (kept_dropReads (kept_foldl (fun _ _ hr => kept_setExt (kept_capSub hr)) h))))

theorem kept_freeComplete {i : Nat} (h : Kept s t) : Kept s (freeComplete i t) := kept_ite (kept_dropObj h) h
theorem kept_freeCommit {i : Nat} (h : Kept s t) : Kept s (freeCommit i t) := kept_freeComplete (kept_setObj h)

theorem kept_moveTake {slot : Nat} {d : Bytes} (h : Kept s t) : Kept s (moveTake slot d t) := by
  unfold moveTake
  split
  · exact h
  · exact kept_modMem (kept_holdRange (kept_setExt h))

theorem kept_dropMove {v : Move} (h : Kept s t) : Kept s (dropMove v t) := kept_modMem h
theorem kept_wakeExt {e : Nat} (h : Kept s t) : Kept s (wakeExt e t) := kept_runReqs (kept_wake h)

theorem kept_drainDone {addr : Nat} (h : Kept s t) : Kept s (drainDone addr t) := by
  unfold drainDone
  split
  · exact h
  split
  · exact h
  extract_lets
  split
  · exact kept_wakeExt (kept_dropMove h)
  · exact kept_modMem (kept_dropMove h)

theorem kept_drainLate {addr : Nat} (h : Kept s t) : Kept s (drainLate addr t) := by
  unfold drainLate
  split
  · exact h
  split
  · exact h
  · exact kept_wakeExt (kept_raise (kept_loseExt (kept_dropMove h)))

theorem kept_nativeObj {i : Nat} (h : Kept s t) : Kept s (nativeObj i t) := kept_ite (kept_setObj h) h

theorem kept_moveUndo {slot : Nat} {d : Bytes} (h : Kept s t) : Kept s (moveUndo slot d t) := by
  unfold moveUndo
  split
  · exact h
  split
  · exact h
  · exact kept_wakeExt (kept_dropMove (kept_dropHeld (kept_modMem (kept_ite (kept_setExt h) h))))

theorem kept_moveCommit {slot : Nat} {d : Bytes} (h : Kept s t) : Kept s (moveCommit slot d t) := by
  unfold moveCommit
  split
  · exact h
  split
  · exact h
  · exact
      have h1 := kept_dropHeld (kept_modMem (kept_bump (kept_nativeObj (kept_setExt (kept_capAdd (kept_capSub h))))))
      kept_ite (kept_moveUndo h) (kept_ite (kept_drainDone (kept_dropReads h1)) (kept_dropReads h1))

theorem kept_sendTake {slot : Nat} {d : Bytes} (h : Kept s t) : Kept s (sendTake slot d t) := by
  unfold sendTake
  split
  · exact h
  · exact kept_modMem h

theorem kept_sendEnd {slot st : Nat} {d : Bytes} (h : Kept s t) : Kept s (sendEnd slot d st t) := by
  unfold sendEnd
  split
  · exact h
  · exact kept_modMem (kept_dropMove h)

theorem kept_sendCommit {slot : Nat} {d : Bytes} (h : Kept s t) : Kept s (sendCommit slot d t) := by
  unfold sendCommit
  split
  · exact h
  · exact kept_modMem h

theorem kept_recvTake {slot : Nat} {d : Bytes} (h : Kept s t) : Kept s (recvTake slot d t) := kept_modMem h
theorem kept_recvCommit {slot : Nat} {d : Bytes} (h : Kept s t) : Kept s (recvCommit slot d t) := kept_modMem h

theorem kept_recvUndo {slot : Nat} {d : Bytes} {doubt : Bool} (h : Kept s t) : Kept s (recvUndo slot d doubt t) :=
  kept_ite (kept_modMem h) (kept_modMem h)

theorem kept_sectorCopy {addr : Nat} {raw : Bytes} (h : Kept s t) : Kept s (sectorCopy addr raw t) := by
  unfold sectorCopy
  split
  · exact h
  · exact kept_ite h (kept_ite (kept_moveSector (kept_putMove h)) h)

theorem kept_withdrawExt {e : Nat} (h : Kept s t) : Kept s (withdrawExt e t) :=
  kept_runReqs (kept_endReqsOn (kept_dropReads (kept_bump (kept_setExt h))))

theorem kept_rangeRelease {e : Nat} (h : Kept s t) : Kept s (rangeRelease e t) := kept_ite (kept_setExt h) h

theorem kept_cutMove {e : Nat} (h : Kept s t) : Kept s (cutMove e t) := by
  unfold cutMove
  split
  · exact kept_ite (kept_addDue h) h
  · exact h

theorem kept_homeLose {d : Bytes} (h : Kept s t) : Kept s (homeLose d t) :=
  kept_foldl (fun _ _ hr => kept_runReqs (kept_endReqsOn (kept_loseExt (kept_setExt (kept_cutMove hr))))) h

theorem kept_lendCommit {d : Bytes} (h : Kept s t) : Kept s (lendCommit d t) := kept_bump (kept_modMem h)

theorem kept_recallCommit {d : Bytes} (h : Kept s t) : Kept s (recallCommit d t) := by
  unfold recallCommit
  extract_lets
  split
  · exact h
  · exact kept_emit (kept_modMem h)

theorem kept_graceExpire {id : Nat} (h : Kept s t) : Kept s (graceExpire id t) := by
  unfold graceExpire
  split
  · exact h
  · exact kept_emit (kept_wrReg (kept_modMem h))

theorem kept_leaseEnd {m : Msg} (h : Kept s t) : Kept s (leaseEnd m t) := kept_foldl (fun _ _ hr => kept_withdrawExt (kept_cutMove hr)) h
theorem kept_hqAnswer {ent : Bytes} (h : Kept s t) : Kept s (hqAnswer ent t) := kept_wrReg (kept_wrReg (kept_wrF (kept_wrF h)))
theorem kept_sendQuery {kind addr : Nat} (h : Kept s t) : Kept s (sendQuery kind addr t) := kept_emit (kept_modMem (kept_freshId h))

theorem kept_hqGo (h : Kept s t) : Kept s (hqGo t) :=
  kept_ite h (kept_ite (kept_hqAnswer h) (kept_ite (kept_wrF (kept_deadTarget h)) (kept_sendQuery (kept_wrF (kept_wrF h)))))

theorem kept_queryTimer {addr : Nat} (h : Kept s t) : Kept s (queryTimer addr t) := kept_ite (kept_sendQuery h) h
theorem kept_declaredLost {addr : Nat} (h : Kept s t) : Kept s (declaredLost addr t) := kept_ite (kept_raise (kept_modMem h)) h
theorem kept_homeQuery {m : Msg} (h : Kept s t) : Kept s (homeQuery m t) := kept_emit h

theorem kept_homeAnswer {prg : Nat} {m : Msg} (h : Kept s t) : Kept s (homeAnswer prg m t) := by
  unfold homeAnswer
  split
  · exact kept_bump h
  · exact kept_ite (kept_hqAnswer (kept_modMem h)) (kept_modMem (kept_modMem h))

theorem kept_resend {r : Req} {id : Nat} (h : Kept s t) : Kept s (resend r id t) :=
  kept_ite (kept_emit (kept_modMem h)) (kept_runReqs (kept_finish (kept_dropReq (kept_deadTarget h))))

theorem kept_remoteLimit {id : Nat} (h : Kept s t) : Kept s (remoteLimit id t) := by
  unfold remoteLimit
  split
  · exact kept_ite (kept_wrF (kept_wrF (kept_modMem h))) (kept_ite (kept_farLost (kept_modMem h)) (kept_modMem h))
  split
  · exact kept_ite (kept_resend h) (kept_runReqs (kept_finish (kept_dropReq h)))
  · exact h

theorem kept_cplIn {prg : Nat} {m : Msg} (h : Kept s t) : Kept s (cplIn prg m t) := by
  unfold cplIn
  extract_lets
  split
  · exact
      have h1 := kept_modMem (kept_takeDelivered h)
      kept_ite (kept_farDone h1) (kept_modMem h1)
  · exact kept_runReqs (kept_lenderReply (kept_takeDelivered h))

theorem kept_writeFailedIn {prg : Nat} {m : Msg} (h : Kept s t) : Kept s (writeFailedIn prg m t) := by
  unfold writeFailedIn
  split
  · exact kept_modMem h
  · exact kept_bump h

theorem kept_upset {b i x : Nat} (h : Kept s t) : Kept s (upset b i x t) := kept_modMem h

theorem kept_scrubBlock {hub b : Nat} (h : Kept s t) : Kept s (scrubBlock hub b t) := by
  unfold scrubBlock
  split
  · exact kept_ite h (kept_setErrs (kept_bump h))
  · exact kept_poisonSector (kept_raise (kept_bump h))

theorem kept_scrub {u : Nat} (h : Kept s t) : Kept s (scrub u t) := kept_ite h (kept_foldl (fun _ _ hr => kept_scrubBlock hr) h)
theorem kept_cohSetCommit {d : Bytes} (h : Kept s t) : Kept s (cohSetCommit d t) := kept_wrReg (kept_modMem h)
theorem kept_cohDrop {dom : Nat} (h : Kept s t) : Kept s (cohDrop dom t) := kept_clearDom (kept_wrReg h)

theorem kept_cohClearUndo {dom : Nat} (h : Kept s t) : Kept s (cohClearUndo dom t) := by
  unfold cohClearUndo
  split
  · exact h
  · exact kept_runReqs (kept_wake (kept_modMem h))

theorem kept_pubReserve {slot : Nat} {d : Bytes} {u : State} (h : Kept s t) (e : pubReserve slot d t = some u) : Kept s u := by
  unfold pubReserve at e
  extract_lets at e
  split at e
  · cases e
  · cases e; exact kept_modMem h

theorem kept_pubLapse {slot : Nat} (h : Kept s t) : Kept s (pubLapse slot t) :=
  kept_ite (kept_modMem h) (kept_runReqs (kept_wake (kept_modMem h)))

theorem kept_pubTake {d : Bytes} (h : Kept s t) : Kept s (pubTake d t) := kept_modMem h

theorem kept_pubUndo {d : Bytes} (h : Kept s t) : Kept s (pubUndo d t) := by
  unfold pubUndo
  split
  · exact kept_modMem h
  · exact h

theorem kept_pubBaseCommit (h : Kept s t) : Kept s (pubBaseCommit t) := kept_ite (kept_modMem h) h

theorem kept_pubCommit {slot : Nat} {d : Bytes} (h : Kept s t) : Kept s (pubCommit slot d t) := by
  unfold pubCommit
  extract_lets
  split
  · exact kept_runReqs (kept_wake
      (kept_foldl (fun _ _ hr => kept_ite (kept_bump hr) hr) (kept_wrF (kept_bump (kept_setObj (kept_modMem (kept_pubBaseCommit h)))))))
  · exact h

theorem kept_retirePub {k : Nat} {q : Pub} (h : Kept s t) : Kept s (retirePub k q t) := by
  unfold retirePub
  extract_lets
  split
  · exact kept_setObj (kept_dropReads (kept_bump (kept_modMem h)))
  · exact kept_dropReads (kept_bump (kept_modMem h))

theorem kept_pubRetire {d : Bytes} (h : Kept s t) : Kept s (pubRetire d t) := by
  unfold pubRetire
  split
  · exact kept_retirePub h
  · exact h

theorem kept_pubQuery {m : Msg} (h : Kept s t) : Kept s (pubQuery m t) := kept_emit h

theorem kept_pubAnswerIn {prg : Nat} {m : Msg} (h : Kept s t) : Kept s (pubAnswerIn prg m t) := by
  unfold pubAnswerIn
  split
  · exact kept_modMem h
  · exact kept_bump h

theorem kept_bufExpire {n addr len : Nat} (h : Kept s t) : Kept s (bufExpire n addr len t) := kept_modCmb h

theorem kept_replyExpire {n src gen id : Nat} {sint : Bool} (h : Kept s t) : Kept s (replyExpire n src sint gen id t) :=
  kept_runReqs (kept_wake (kept_modCmb h))

theorem kept_homeTake {slot code : Nat} {d : Bytes} (h : Kept s t) : Kept s (homeTake slot code d t) := by
  unfold homeTake
  split
  · exact kept_allocTake h
  split
  · split
    · exact kept_setObjState h
    · exact h
  · exact kept_ite (kept_moveTake h) (kept_ite (kept_sendTake h) (kept_ite (kept_recvTake h) (kept_ite (kept_pubTake h) h)))

theorem kept_homeStart {code : Nat} {d : Bytes} (h : Kept s t) : Kept s (homeStart code d t) := kept_ite (kept_sweepDom h) h

theorem kept_homeWork {slot code : Nat} {d : Bytes} {u : State} (h : Kept s t) (e : homeWork slot code d t = some u) : Kept s u := by
  unfold homeWork at e
  split at e
  · cases e
  split at e
  · split at e
    · cases e
    · cases e; exact kept_allocFill h
  split at e
  · split at e
    · cases e; exact h
    · cases e
  · cases e; exact h

theorem kept_homeGuard {slot code : Nat} {d : Bytes} {u : State} (h : Kept s t) (e : homeGuard slot code d t = some u) : Kept s u := by
  unfold homeGuard at e
  split at e
  · exact kept_pubReserve h e
  split at e
  · split at e
    · cases e; exact kept_modMem h
    · cases e; exact h
  · cases e; exact h

theorem kept_homeCommit {slot code : Nat} {d : Bytes} (h : Kept s t) : Kept s (homeCommit slot code d t) := by
  have hfree : Kept s (match objByAddr t (leAt d 0 8) with | some i => freeCommit i t | none => t) := by
    split
    · exact kept_freeCommit h
    · exact h
  have hwithdraw : Kept s (match extByAddr t (leAt d 0 8) with | some e => withdrawExt e t | none => t) := by
    split
    · exact kept_withdrawExt h
    · exact h
  exact kept_ite (kept_allocCommit h) (kept_ite hfree (kept_ite (kept_moveCommit h) (kept_ite hwithdraw (kept_ite (kept_homeLose h)
    (kept_ite (kept_lendCommit h) (kept_ite (kept_recallCommit h) (kept_ite (kept_sendCommit h) (kept_ite (kept_recvCommit h)
    (kept_ite (kept_cohSetCommit h) (kept_ite (kept_cohDrop h) (kept_ite (kept_pubCommit h) (kept_ite (kept_pubRetire h) h))))))))))))

theorem kept_homeUndo {slot code : Nat} {d : Bytes} {doubt : Bool} (h : Kept s t) : Kept s (homeUndo slot code d doubt t) := by
  unfold homeUndo
  split
  · exact kept_allocUndo h
  split
  · split
    · exact kept_ite (kept_setObjState h) h
    · exact h
  · exact kept_ite (kept_moveUndo h)
      (kept_ite (kept_sendEnd h)
        (kept_ite (kept_recvUndo h) (kept_ite (kept_cohClearUndo h) (kept_ite (kept_pubLapse (kept_pubUndo h)) h))))

/-! ### Boot, restarts and mailboxes -/

theorem kept_modBoot {f : Boot → Boot} (h : Kept s t) : Kept s (modBoot t f) := kept_same h
theorem kept_ibi {r : Nat} (h : Kept s t) : Kept s (ibi r t) := kept_modBoot h
theorem kept_i3cAddress (h : Kept s t) : Kept s (i3cAddress t) := kept_modBoot h
theorem kept_setBootState {v : Nat} (h : Kept s t) : Kept s (setBootState v t) := kept_wrF h
theorem kept_mgmtFrame {type : Nat} {body : Bytes} (h : Kept s t) : Kept s (mgmtFrame type body t) := kept_modBoot h

theorem kept_ctlNotify {ep op : Nat} {sint : Bool} {pay : Bytes} (h : Kept s t) : Kept s (ctlNotify ep sint op pay t) :=
  kept_ite (kept_emitPort h) (kept_emit h)

theorem kept_bootRequest (h : Kept s t) : Kept s (bootRequest t) :=
  have h1 := kept_ite (kept_modBoot h) (kept_setBootState (kept_modBoot h))
  kept_ite (kept_ite (kept_setLink (kept_wrF h1)) (kept_wrF h1)) (kept_mgmtFrame (kept_wrF h1))

theorem kept_bootAsk (h : Kept s t) : Kept s (bootAsk t) := kept_ite (kept_ctlNotify (kept_modBoot h)) h
theorem kept_bootNext (h : Kept s t) : Kept s (bootNext t) := kept_ite (kept_bootRequest (kept_modBoot h)) (kept_modBoot h)
theorem kept_bootFail (h : Kept s t) : Kept s (bootFail t) := kept_bootNext (kept_ibi h)
theorem kept_bootTimeout (h : Kept s t) : Kept s (bootTimeout t) := kept_ite (kept_bootFail h) h
theorem kept_bootNone {hlk : Bool} (h : Kept s t) : Kept s (bootNone hlk t) := kept_ite (kept_bootFail h) h
theorem kept_bootRetry (h : Kept s t) : Kept s (bootRetry t) := kept_ite (kept_bootRequest (kept_modBoot h)) h

theorem kept_bootChunk {off : Nat} {d : Bytes} (h : Kept s t) : Kept s (bootChunk off d t) :=
  have h1 := kept_modBoot (kept_modBoot h)
  kept_ite h (kept_ite (kept_modBoot h) (kept_ite (kept_setBootState h1) h1))

theorem kept_imageVerified {ready : Bool} (h : Kept s t) : Kept s (imageVerified ready t) :=
  kept_ite h
    (kept_ite (kept_ibi (kept_setBootState (kept_modBoot (kept_wrReg (kept_cdWrite h))))) (kept_bootNext (kept_ibi (kept_modBoot h))))

theorem kept_romStart (h : Kept s t) : Kept s (romStart t) := by
  unfold romStart
  split
  · exact kept_bootRequest (kept_modBoot h)
  · exact kept_ite (kept_bootRequest h) (kept_ibi (kept_raise h))

theorem kept_ctlRestart (h : Kept s t) : Kept s (ctlRestart t) :=
  kept_bootRequest (kept_ibi (kept_setBootState (kept_foldl (fun _ _ hr => kept_ite (kept_addDue hr) hr) (kept_modBoot h))))

theorem kept_fwWatchdog (h : Kept s t) : Kept s (fwWatchdog t) :=
  have h1 := kept_raise (kept_modBoot h)
  kept_ite h (kept_ite (kept_ctlRestart h1) h1)

theorem kept_wdogKick (h : Kept s t) : Kept s (wdogKick t) := kept_modBoot h
theorem kept_setMbx {m : Nat} {x : Mbx} (h : Kept s t) : Kept s (setMbx m x t) := kept_wrF (kept_wrF (kept_same h))

theorem kept_mbxAccept {m kind source len ep port tag : Nat} {part : Option Nat} {data : List Word}
    (h : Kept s t) : Kept s (mbxAccept m kind source len part ep port tag data t).2 :=
  have h1 := kept_bump (kept_setMbx h)
  kept_ite_snd h
    (kept_ite_snd (kept_bump h)
      (kept_ite_snd (kept_bump h) (kept_ite_snd (kept_bump h) (kept_ite (kept_wrReg h1) (kept_ite (kept_wrReg h1) h1)))))

theorem kept_mbxPush {kind port : Nat} {m : Msg} (h : Kept s t) : Kept s (mbxPush kind port m t) :=
  kept_ite (kept_mbxAccept h)
    (kept_ite (kept_ctlNotify (kept_mbxAccept h)) (kept_ite (kept_mgmtFrame (kept_mbxAccept h)) (kept_mbxAccept h)))

theorem kept_mbxInPop {m : Nat} (h : Kept s t) : Kept s (mbxInPop m t) := by
  unfold mbxInPop
  extract_lets
  split
  · exact kept_okReply h
  · exact kept_okReply (kept_bump (kept_setMbx h))

theorem kept_outPop {m : Nat} (h : Kept s t) : Kept s (outPop m t) := kept_ite h (kept_bump (kept_setMbx h))

theorem kept_mbxDeliver {m : Nat} {first : Bool} (h : Kept s t) : Kept s (mbxDeliver m first t) := by
  unfold mbxDeliver
  extract_lets
  split
  · exact kept_outPop (kept_ctlNotify h)
  · exact kept_ite (kept_modBoot h) h
  · exact kept_outPop (kept_mgmtFrame h)
  · exact kept_ibi h
  · exact h

theorem kept_mbxOutPush {m : Nat} {w : Word} (h : Kept s t) : Kept s (mbxOutPush m w t) :=
  have h1 := kept_okReply (kept_setMbx h)
  have h2 := kept_okReply (kept_setMbx h)
  kept_ite (kept_ite (kept_csrRefused h) (kept_ite (kept_mbxDeliver h1) h1)) (kept_ite (kept_mbxDeliver h2) h2)

theorem kept_mbxClear {full : Bool} {w sets : Word} (h : Kept s t) : Kept s (mbxClear full w sets t) := kept_okReply (kept_wrReg h)

theorem kept_inPush {c ld len tag : Nat} {ws : List Word} (h : Kept s t) : Kept s (inPush c ld len tag ws t) := by
  unfold inPush
  split
  · exact kept_same h
  · exact kept_same (kept_setMbx (kept_mbxAccept h))

theorem kept_cxlOutPop {c ld : Nat} (h : Kept s t) : Kept s (cxlOutPop c ld t) := by
  unfold cxlOutPop
  split
  · exact kept_outPop h
  · exact h

/-! ### Shuttle queue pairs -/

theorem kept_setQp {q : Nat} {x : Qp} (h : Kept s t) : Kept s (setQp t q x) := kept_same h
theorem kept_modQp {q : Nat} {f : Qp → Qp} (h : Kept s t) : Kept s (modQp t q f) := kept_setQp h
theorem kept_setShtReg {i : Nat} {x : Reg} (h : Kept s t) : Kept s (setShtReg t i x) := kept_same h
theorem kept_shtCtx {q job : Nat} (h : Kept s t) : Kept s (shtCtx t q job).s := h
theorem kept_shtDrop {q : Nat} {p : Nat → Bool} (h : Kept s t) : Kept s (shtDrop q p t) := kept_farDrop h
theorem kept_shtNotify {n ep op idx status detail : Nat} (h : Kept s t) : Kept s (shtNotify n ep op idx status detail t) := kept_emit h

theorem kept_drainCqes {n q : Nat} (h : Kept s t) : Kept s (drainCqes n q t).2 := by
  induction n generalizing t with
  | zero => exact h
  | succ n ih =>
    unfold drainCqes
    extract_lets
    split
    · exact h
    refine kept_ite_snd (kept_setQp h) ?_
    extract_lets
    split
    next heq =>
    have hc := kept_snd_ctx heq (kept_ctx_writeSt (kept_shtCtx h))
    exact kept_ite_snd (kept_ctx_askAll h) (kept_ite_snd (ih (kept_setQp (kept_farUsed hc)))
      (ih (kept_ite (kept_shtNotify (kept_setQp (kept_farUsed hc))) (kept_setQp (kept_farUsed hc)))))

theorem kept_writeCqe {q wrId bytes op status : Nat} (h : Kept s t) : Kept s (writeCqe q wrId bytes op status t).2 :=
  kept_drainCqes (kept_modQp h)

theorem kept_qpFail {q status : Nat} {failing : Option Nat} (h : Kept s t) : Kept s (qpFail q status failing t) :=
  kept_shtNotify (kept_raise (kept_drainCqes (kept_shtDrop (kept_setQp h))))

theorem kept_qpErr {q status : Nat} {failing : Option Nat} (h : Kept s t) : Kept s (qpErr q status failing t) :=
  kept_ite h (kept_qpFail h)

theorem kept_retireWqes {n q : Nat} (h : Kept s t) : Kept s (retireWqes n q t) := by
  induction n generalizing t with
  | zero => exact h
  | succ n ih =>
    unfold retireWqes
    split
    · exact h
    extract_lets
    refine kept_ite h (kept_ite ?_ (ih (kept_modQp h)))
    split
    next heq =>
    have hc := kept_snd heq (kept_writeCqe (kept_modQp h))
    exact kept_ite (ih hc) (kept_qpErr hc)

theorem kept_tryDrain {q : Nat} (h : Kept s t) : Kept s (tryDrain q t) := kept_ite (kept_shtNotify (kept_setQp h)) h
theorem kept_settleQp {q : Nat} (h : Kept s t) : Kept s (settleQp q t) := kept_tryDrain (kept_retireWqes h)

theorem kept_retryCqes {q : Nat} (h : Kept s t) : Kept s (retryCqes q t) :=
  kept_tryDrain (kept_ite (kept_drainCqes h) (kept_qpErr (kept_drainCqes h)))

theorem kept_retryAllCqes (h : Kept s t) : Kept s (retryAllCqes t) := kept_foldl (fun _ _ hr => kept_retryCqes hr) h
theorem kept_nakFatal {q psn st : Nat} (h : Kept s t) : Kept s (nakFatal q psn st t) := kept_qpErr (kept_ite (kept_shtNotify h) h)

theorem kept_shtSend {q : Nat} {m : Msg} (h : Kept s t) : Kept s (shtSend q m t) :=
  kept_ite (kept_emit h) (kept_ite (kept_nakFatal (kept_deadTarget h)) (kept_deadTarget h))

theorem kept_cplNow {n st : Nat} {m : Msg} (h : Kept s t) : Kept s (cplNow n m st t) := kept_ite (kept_emit h) h
theorem kept_shtDiscard {n q : Nat} (h : Kept s t) : Kept s (shtDiscard n q t) := kept_ite (kept_bump (kept_bump h)) (kept_bump h)

theorem kept_doorbell {m : Msg} (h : Kept s t) : Kept s (doorbell m t) :=
  kept_ite (kept_shtDiscard h) (kept_ite (kept_qpErr (kept_cplNow h)) (kept_setQp (kept_cplNow h)))

theorem kept_badNext {q : Nat} (h : Kept s t) : Kept s (badNext q t) := by
  unfold badNext
  extract_lets
  split
  · exact kept_ite (kept_qpErr h) h
  · exact h

theorem kept_sqReadDone {q : Nat} (h : Kept s t) : Kept s (sqReadDone q t) := by
  unfold sqReadDone
  extract_lets x n
  refine kept_ite h ?_
  split
  next heq =>
  have hc := kept_snd_snd_ctx heq (kept_foldl_snd_snd_ctx (fun _ _ hr => kept_ite_snd_snd_ctx hr (by
    extract_lets
    split
    next heq => exact kept_snd_snd_ctx heq (kept_ctx_readSt hr))) (kept_shtCtx h))
  exact kept_ite (kept_ctx_askAll h) (kept_ite (kept_qpErr (kept_farUsed hc)) (kept_badNext (kept_modQp (kept_farUsed hc))))

theorem kept_wqeStart {q op : Nat} (h : Kept s t) : Kept s (wqeStart q op t) := by
  unfold wqeStart
  extract_lets
  split
  · exact h
  split
  · exact h
  · exact kept_ite (kept_setQp h) h

theorem kept_expireShtTurns (h : Kept s t) : Kept s (expireShtTurns t) := kept_same h
theorem kept_startTimer {q psn : Nat} (h : Kept s t) : Kept s (startTimer q psn t) := kept_ite (kept_setQp h) h
theorem kept_countTx {q : Nat} {data : Bool} (h : Kept s t) : Kept s (countTx q data t) := kept_progress (kept_ite (kept_bump h) h)

theorem kept_itemFails {q st : Nat} {it : ShtItem} (h : Kept s t) : Kept s (itemFails q it st t) := by
  unfold itemFails
  dsimp only
  refine kept_qpErr ?_
  split
  · exact kept_bump (kept_shtSend h)
  · exact h

theorem kept_shtItem {q : Nat} {it : ShtItem} {d : Bytes} (h : Kept s t) : Kept s (shtItem q it d t) := by
  unfold shtItem
  extract_lets
  split
  · extract_lets
    split
    · exact kept_shtSend (kept_countTx (kept_startTimer (kept_setQp h)))
    split
    · exact kept_shtSend (kept_countTx (kept_startTimer (kept_setQp h)))
    · exact kept_startTimer (kept_setQp h)
  · exact kept_shtSend (kept_countTx (kept_setQp h))
  · exact kept_badNext (kept_shtSend (kept_countTx (kept_startTimer (kept_setQp h))))
  · exact kept_badNext (kept_shtSend (kept_countTx (kept_startTimer (kept_setQp h))))

theorem kept_shtPut {n q left : Nat} {it : ShtItem} (h : Kept s t) : Kept s (shtPut n q left it t) := by
  unfold shtPut
  extract_lets
  split
  · exact kept_same (kept_shtItem h)
  · exact
      have h1 := kept_farUsed (kept_ctx_readSt (kept_shtCtx h))
      kept_ite (kept_same (kept_ctx_askAll h)) (kept_same (kept_ite (kept_shtItem h1) (kept_itemFails h1)))

theorem kept_segmentTx {n : Nat} (h : Kept s t) : Kept s (segmentTx n t) := by
  unfold segmentTx
  split
  · exact h
  split
  · exact h
  split
  · exact h
  · exact kept_shtPut h

theorem kept_sendCpls {q psn status : Nat} {upTo : Bool} (h : Kept s t) : Kept s (sendCpls q psn status upTo t) :=
  kept_foldl (fun _ _ hr => kept_emit hr) (kept_modQp h)

theorem kept_sendAck {q psn status : Nat} (h : Kept s t) : Kept s (sendAck q psn status t) := kept_sendCpls (kept_shtSend (kept_setQp h))

theorem kept_sendNak {q psn status : Nat} (h : Kept s t) : Kept s (sendNak q psn status t) :=
  have h1 := kept_bump (kept_shtSend h)
  kept_ite (kept_qpErr (kept_sendCpls h1)) (kept_sendCpls h1)

theorem kept_acceptSeg {q span : Nat} {m : Msg} (h : Kept s t) : Kept s (acceptSeg q m span t) :=
  have h1 := kept_progress (kept_bump (kept_setQp h))
  kept_ite (kept_sendAck h1) h1

theorem kept_tryFlush {n q : Nat} (h : Kept s t) : Kept s (tryFlush n q t) := by
  induction n generalizing t with
  | zero => exact h
  | succ n ih =>
    unfold tryFlush
    extract_lets
    split
    · exact h
    · exact kept_ite h (ih (kept_ite (kept_sendAck (kept_sendAck (kept_setQp h))) (kept_sendAck (kept_setQp h))))

theorem kept_dupSeg {q : Nat} (h : Kept s t) : Kept s (dupSeg q t) := kept_sendAck (kept_bump h)

theorem kept_shtRecv {m : Msg} {dup ok : Nat → State → State} (hdup : ∀ q u, Kept s u → Kept s (dup q u))
    (hok : ∀ q u, Kept s u → Kept s (ok q u)) (h : Kept s t) : Kept s (shtRecv m dup ok t) := by
  unfold shtRecv
  extract_lets n q u x d v
  have hu : Kept s u := kept_ite (kept_modQp h) h
  have hv : Kept s v := kept_setQp (kept_bump hu)
  exact kept_ite (kept_shtDiscard h)
    (kept_ite (kept_sendNak hu) (kept_ite (hok _ _ hu) (kept_ite (kept_ite hv (kept_sendNak hv)) (hdup _ _ hu))))

theorem kept_placeCtx {q : Nat} {p : Place} (h : Kept s t) : Kept s (placeCtx t q p).s := by
  unfold placeCtx
  extract_lets c
  have hc : Kept s c.s := kept_shtCtx h
  split <;> exact hc

theorem kept_placeWrite {q : Nat} {p : Place} (h : Kept s t) : Kept s (placeWrite q p t).2.s := kept_ctx_writeSt (kept_placeCtx h)

theorem kept_addPlace {q : Nat} {p : Place} (h : Kept s t) : Kept s (addPlace q p t) :=
  kept_ite (kept_ctx_askAll (kept_modQp h)) (kept_modQp h)

theorem kept_recvEntry {q : Nat} (h : Kept s t) : Kept s (recvEntry t q).2.2.s := by
  unfold recvEntry
  extract_lets
  split
  · exact kept_shtCtx h
  · exact kept_ite_snd_snd_ctx (kept_shtCtx h) (kept_ctx_readSt (kept_shtCtx h))

theorem kept_shtSendIn {m : Msg} (h : Kept s t) : Kept s (shtSendIn m t) := by
  unfold shtSendIn
  refine kept_shtRecv (fun _ _ hr => kept_dupSeg hr) (fun _ _ hr => ?_) h
  split
  next heq =>
  have h1 := kept_snd_snd_ctx heq (kept_recvEntry hr)
  split
  · exact hr
  extract_lets
  split
  · exact kept_qpErr (kept_farUsed h1)
  split
  · exact kept_sendNak (kept_farUsed h1)
  · exact kept_ite (kept_sendNak (kept_farUsed h1)) (kept_acceptSeg (kept_addPlace (kept_setQp (kept_farUsed h1))))

theorem kept_shtWriteIn {m : Msg} (h : Kept s t) : Kept s (shtWriteIn m t) := by
  unfold shtWriteIn
  refine kept_shtRecv (fun _ _ hr => kept_dupSeg hr) (fun _ _ hr => ?_) h
  split
  · exact kept_sendNak hr
  · exact kept_acceptSeg (kept_addPlace hr)

theorem kept_readReqIn {m : Msg} (h : Kept s t) : Kept s (readReqIn m t) := by
  unfold readReqIn
  extract_lets serveIt checked
  have hserve (q : Nat) {u : State} (hu : Kept s u) : Kept s (serveIt q u) := kept_modQp hu
  have hchecked (q : Nat) {k : State → State} {u : State} (hk : Kept s (k u)) (hu : Kept s u) : Kept s (checked q k u) := by
    unfold checked
    split
    · exact kept_sendNak hu
    · exact hk
  refine kept_shtRecv (fun q _ hr => hchecked q (hserve q (kept_sendAck hr)) (kept_sendAck hr)) (fun q _ hr =>
    hchecked q (k := fun s => acceptSeg q m (cdiv (smLen m) 4096) (serveIt q s)) ?_ hr) h
  exact kept_acceptSeg (hserve q hr)

theorem kept_dupFlush {m : Msg} {q : Nat} (h : Kept s t) : Kept s (dupFlush m q t) := by
  unfold dupFlush
  split
  · exact kept_dupSeg h
  · exact
      have h1 := kept_sendAck (kept_bump h)
      kept_ite h1 (kept_sendAck h1)

theorem kept_flushIn {m : Msg} (h : Kept s t) : Kept s (flushIn m t) :=
  kept_shtRecv (fun _ _ hr => kept_dupFlush hr) (fun _ _ hr => kept_tryFlush (kept_acceptSeg (kept_modQp hr))) h

theorem kept_readRespIn {m : Msg} (h : Kept s t) : Kept s (readRespIn m t) := by
  unfold readRespIn
  extract_lets
  split
  · exact kept_shtDiscard h
  split
  · exact kept_bump (kept_cplNow h)
  · exact kept_progress (kept_bump (kept_addPlace (kept_setQp (kept_cplNow h))))

theorem kept_retireRecvs {n q : Nat} (h : Kept s t) : Kept s (retireRecvs n q t) := by
  induction n generalizing t with
  | zero => exact h
  | succ n ih =>
    unfold retireRecvs
    split
    · exact h
    extract_lets
    refine kept_ite h ?_
    split
    next heq =>
    have hc := kept_snd heq (kept_writeCqe (kept_modQp h))
    exact kept_ite (ih hc) (kept_qpErr hc)

theorem kept_placeEnded {q st : Nat} {p : Place} (h : Kept s t) : Kept s (placeEnded q p st t) := by
  unfold placeEnded
  dsimp only
  split
  · exact kept_ite (kept_qpErr (kept_modQp h)) (kept_settleQp (kept_modQp (kept_modQp h)))
  refine kept_tryFlush (kept_retireRecvs ?_)
  split
  · exact kept_modQp (kept_ite (kept_shtNotify (kept_modQp (kept_modQp h))) (kept_modQp h))
  · exact kept_ite (kept_shtNotify (kept_modQp (kept_modQp h))) (kept_modQp h)

theorem kept_placementDone {q psn : Nat} (h : Kept s t) : Kept s (placementDone q psn t) := by
  unfold placementDone
  split
  · exact kept_bump (kept_same h)
  split
  · exact h
  · exact kept_ite (kept_ctx_askAll h) (kept_placeEnded (kept_farUsed (kept_placeWrite h)))

theorem kept_ackIn {m : Msg} (h : Kept s t) : Kept s (ackIn m t) :=
  have h1 := kept_shtDrop (kept_cplNow h)
  kept_ite (kept_shtDiscard h) (kept_ite (kept_cplNow h) (kept_settleQp (kept_setQp (kept_ite (kept_bump h1) h1))))

theorem kept_shtExpiry {q : Nat} (h : Kept s t) : Kept s (shtExpiry q t) :=
  kept_ite h (kept_ite (kept_qpErr (kept_bump h)) (kept_setQp (kept_bump h)))

theorem kept_nakIn {m : Msg} (h : Kept s t) : Kept s (nakIn m t) :=
  kept_ite (kept_shtDiscard h)
    (kept_ite (kept_ite (kept_cplNow h) (kept_setQp (kept_cplNow h)))
      (kept_ite (kept_shtExpiry (kept_cplNow h)) (kept_nakFatal (kept_cplNow h))))

theorem kept_ackDelay {q : Nat} (h : Kept s t) : Kept s (ackDelay q t) := kept_ite (kept_sendAck h) h
theorem kept_revokeDone {i : Nat} (h : Kept s t) : Kept s (revokeDone i t) := kept_ite (kept_shtNotify (kept_setShtReg h)) h

theorem kept_revokeLate {i : Nat} (h : Kept s t) : Kept s (revokeLate i t) :=
  kept_ite h (kept_raise (kept_setShtReg (kept_foldl (fun _ _ hr => kept_placeEnded (kept_shtDrop (kept_same hr))) h)))

theorem kept_qpReset {q : Nat} (h : Kept s t) : Kept s (qpReset q t) := kept_setQp (kept_shtDrop h)

theorem kept_shtEngineReset {n : Nat} (h : Kept s t) : Kept s (shtEngineReset n t) :=
  kept_foldl (fun _ _ hr => kept_modQp (kept_shtDrop (kept_qpFail hr))) h

theorem kept_shtFence {part : Nat} (h : Kept s t) : Kept s (shtFence part t) := kept_foldl (fun _ _ hr => kept_qpErr hr) h

theorem kept_shtCommit {page code dat : Nat} {d : Bytes} {psns : List (Nat × Nat)}
    (h : Kept s t) : Kept s (shtCommit page code dat d psns t) :=
  kept_ite (kept_ite (kept_setQp h) (kept_bump h))
    (kept_ite (kept_ite (kept_bump h) (kept_setQp h))
      (kept_ite (kept_ite (kept_tryDrain (kept_setQp (kept_shtDrop h))) (kept_bump h))
        (kept_ite (kept_qpReset h) (kept_ite (kept_setShtReg h) (kept_ite (kept_ite (kept_setShtReg h) h) h)))))

end Sys2Proof.Machine
end

section
/-! PROOFS. What the operations of partitions, faults, resets and power keep. -/

namespace Sys2Proof.Machine

-- One after another: side by side, so many short proofs take more threads than the check has memory for.
set_option Elab.async false

variable {s t : State}

/-! ### Partitions, keys and attestation -/

theorem kept_putDigest {a : Nat → Nat} {d : Bytes} (h : Kept s t) : Kept s (putDigest a d t) := kept_foldl (fun _ _ hr => kept_wrReg hr) h
theorem kept_setPartState {p v : Nat} (h : Kept s t) : Kept s (setPartState p v t) := kept_wrF h
theorem kept_consentEnd {p : Nat} (h : Kept s t) : Kept s (consentEnd p t) := kept_wrReg (kept_wrF (kept_same h))
theorem kept_pgenNext {p : Nat} (h : Kept s t) : Kept s (pgenNext p t) := kept_consentEnd (kept_wrF h)
theorem kept_setKeyState {p v : Nat} (h : Kept s t) : Kept s (setKeyState p v t) := kept_wrF h

theorem kept_partCreate {p : Nat} {d : Bytes} (h : Kept s t) : Kept s (partCreate p d t) :=
  kept_setKeyState (kept_setSlot
    (kept_pgenNext (kept_setPartState (kept_putDigest (kept_foldl (fun _ _ hr => kept_wrReg hr) (kept_wrReg h))))))

theorem kept_partGrow {p : Nat} {d : Bytes} (h : Kept s t) : Kept s (partGrow p d t) :=
  kept_foldl (fun _ _ hr => kept_wrReg hr) (kept_wrReg h)

theorem kept_partShrink {p : Nat} {d : Bytes} (h : Kept s t) : Kept s (partShrink p d t) :=
  kept_foldl (fun _ _ hr => kept_wrReg hr) (kept_wrReg h)

theorem kept_keyTake {p : Nat} {d salt : Bytes} {rotate : Bool} (h : Kept s t) : Kept s (keyTake p d salt rotate t) :=
  kept_setKeyState (kept_wrF (kept_setSlot h))

theorem kept_keyCommit {p : Nat} (h : Kept s t) : Kept s (keyCommit p t) := kept_setKeyState (kept_setSlot h)
theorem kept_dropKeyless {p : Nat → Bool} (h : Kept s t) : Kept s (dropKeyless p t) := kept_modMem h

theorem kept_keyZeroize {p : Nat} (h : Kept s t) : Kept s (keyZeroize p t) :=
  kept_bump (kept_dropKeyless (kept_setKeyState (kept_setSlot h)))

theorem kept_resealSector {p sec : Nat} {cur : WorkKey} {r : Nat × Nat} (h : Kept s t) : Kept s (resealSector p cur r sec t) := by
  unfold resealSector
  dsimp only
  split
  · exact kept_ite (kept_trayMoved (kept_blocksMoved (kept_modMem (kept_readSector (kept_trayMoved h)))))
      (kept_readSector (kept_trayMoved h))
  · exact kept_readSector (kept_trayMoved h)

theorem kept_sweepUnwritten {p n : Nat} (h : Kept s t) : Kept s (sweepUnwritten p n t) :=
  kept_foldl (fun _ _ hr => kept_ite hr (kept_raise (kept_bump hr))) h

theorem kept_keySweep {p : Nat} (h : Kept s t) : Kept s (keySweep p t) := by
  unfold keySweep
  split
  · exact h
  · exact kept_foldl (fun _ _ hr => kept_foldl (fun _ _ hq => kept_resealSector hq) (kept_sweepUnwritten hr)) h

theorem kept_consentLoad {p : Nat} {d : Bytes} (h : Kept s t) : Kept s (consentLoad p d t) := kept_wrReg (kept_wrF (kept_same h))

theorem kept_consentExpire {p : Nat} (h : Kept s t) : Kept s (consentExpire p t) := by
  unfold consentExpire
  split
  · exact kept_ite (kept_consentEnd h) h
  · exact h

theorem kept_attestGo (h : Kept s t) : Kept s (attestGo t) := kept_ite h (kept_wrF (kept_same h))

theorem kept_attestDone {stored : Bool} (h : Kept s t) : Kept s (attestDone stored t) :=
  have h1 := kept_wrF (kept_wrF h)
  kept_ite h
    (kept_ite (kept_wrF h1)
      (kept_ite (kept_raise (kept_wrF h1)) (kept_bump (kept_wrF (kept_wrF (kept_cdWrite (kept_same h1)))))))

/-! ### Fences, resets and class actions -/

theorem kept_genNext {g u p : Nat} (h : Kept s t) : Kept s (genNext g u p t) := kept_wrF h
theorem kept_unitGen {g u : Nat} (h : Kept s t) : Kept s (unitGen g u t) := kept_foldl (fun _ _ hr => kept_genNext hr) h
theorem kept_qpGens {n : Nat} {f : Qp → Qp} (h : Kept s t) : Kept s (qpGens n f t) := kept_foldl (fun _ _ hr => kept_setQp hr) h
theorem kept_blockGen {g u : Nat} (h : Kept s t) : Kept s (blockGen g u t) := kept_ite (kept_qpGens (kept_unitGen h)) (kept_unitGen h)
theorem kept_regionGen {r : Bool × Nat} (h : Kept s t) : Kept s (regionGen r t) := kept_foldl (fun _ _ hr => kept_blockGen hr) h

theorem kept_genBump {a : Nat} (h : Kept s t) : Kept s (genBump a t) :=
  kept_ite (kept_blockGen h) (kept_ite (kept_regionGen h) (kept_ite (kept_regionGen h) (kept_genNext h)))

theorem kept_wipeRegs {e : Wipe} {scope : Nat → Bool} (h : Kept s t) : Kept s (wipeRegs e scope t) := by
  have hwiped {l : List (Nat × Word)} {m : SMap Word} (hm : m.Wf regReset) :
      SMap.Wf regReset (l.foldl (fun m x =>
        if scope x.1 && csrOff x.1 != 0x050 && !liveReg t x.1 then sset regReset m x.1 (wiped e x.1 x.2) else m) m) := by
    induction l generalizing m with
    | nil => exact hm
    | cons x l ih =>
      rw [List.foldl_cons]
      split
      · exact ih (sset_wf _ _ hm)
      · exact ih hm
  exact kept_foldl (fun _ _ hr => kept_ite (kept_bankTakesForce hr) hr) (kept_setRegs h hwiped)

theorem kept_abortOn {p : Entry → Bool} {reason : Nat} (h : Kept s t) : Kept s (abortOn p reason t) :=
  kept_foldl (fun _ _ hr => kept_ite (kept_addDue hr) hr) h

theorem kept_abortTarget {p : Entry → Bool} (h : Kept s t) : Kept s (abortTarget p t) :=
  kept_foldl (fun _ _ hr => kept_ite (kept_addDue hr) hr) h

theorem kept_flushSlice {n st : Nat} (h : Kept s t) : Kept s (flushSlice n st t) :=
  kept_foldl (fun _ _ hr => kept_ite (kept_endRequest hr) hr) (kept_answerFlushed (kept_bump (kept_same h)))

theorem kept_flushCmb {n st : Nat} (h : Kept s t) : Kept s (flushCmb n st t) :=
  kept_runReqs (kept_foldl (fun _ _ hr => kept_foldl (fun _ _ hq => kept_replyMember hq) hr)
    (kept_modCmb (kept_foldl (fun _ _ hr => kept_lateTags (kept_dropTxnReq (kept_dropReq hr))) h)))

theorem kept_flushReplies {p : Nat} (h : Kept s t) : Kept s (flushReplies p t) :=
  kept_foldl (fun _ _ hr => kept_finish (kept_dropReq hr)) (kept_foldl (fun _ _ hr => kept_modCmb hr) h)

theorem kept_flushDir {u st : Nat} (h : Kept s t) : Kept s (flushDir u st t) := by
  unfold flushDir
  refine kept_runReqs (kept_wake (kept_foldl (fun _ _ hr => ?_) (kept_modMem h)))
  split
  · exact kept_finish hr
  · exact hr

theorem kept_flushTray {c st : Nat} (h : Kept s t) : Kept s (flushTray c st t) :=
  kept_runReqs (kept_foldl (fun _ _ hr => kept_finish (kept_lateTags (kept_dropReq hr))) h)

theorem kept_flushStation {u : Nat} (h : Kept s t) : Kept s (flushStation u t) := by
  unfold flushStation
  refine kept_foldl (fun _ _ hr => ?_) h
  split
  · exact kept_ite hr (kept_bobFault hr)
  · exact hr

theorem kept_flushBlock {g u : Nat} (h : Kept s t) : Kept s (flushBlock g u t) :=
  kept_ite (kept_addDue (kept_flushPort h))
    (kept_ite (kept_flushTray h)
      (kept_ite (kept_flushDir h) (kept_ite (kept_flushCmb h) (kept_ite (kept_flushSlice h) (kept_ite (kept_flushStation h) h)))))

theorem kept_portReset {p : Nat} (h : Kept s t) : Kept s (portReset p t) :=
  kept_modPort (kept_ite (kept_linkDown h) (kept_ite h (kept_setLink h)))

theorem kept_portRestart {p : Nat} (h : Kept s t) : Kept s (portRestart p t) := kept_ite (kept_setLink h) (kept_setLink h)

theorem kept_resetBlock {g u : Nat} (h : Kept s t) : Kept s (resetBlock g u t) :=
  kept_ite (kept_portReset (kept_flushBlock h))
    (kept_ite (kept_cxlLeave (kept_flushBlock h)) (kept_ite (kept_shtEngineReset (kept_flushBlock h)) (kept_flushBlock h)))

theorem kept_resetRegion {r : Bool × Nat} (h : Kept s t) : Kept s (resetRegion r t) := by
  unfold resetRegion
  extract_lets n _ _ _ _ _ u v w
  refine kept_ite ?_ ?_
  · exact kept_same (kept_foldl (fun _ _ hr => kept_setQp hr) (kept_farDrop (kept_flushCmb (kept_flushSlice
      (kept_foldl (fun _ _ hr => kept_portReset hr) h)))))
  · have hv : Kept s v := kept_foldl (fun _ _ hr => kept_ite hr (kept_addDue (kept_wrReg hr))) (kept_dropWaitTiles h)
    have hw : Kept s w := kept_same (kept_setSram hv (skeep_wf fun a => a / sramSize != n))
    exact kept_addDue hw

theorem kept_emptyBanks {n : Nat} (h : Kept s t) : Kept s (emptyBanks n t) :=
  kept_bankTakesForce (kept_wrReg (kept_wrReg (kept_wrF (kept_same h))))

theorem kept_fenceRegion {r : Bool × Nat} (h : Kept s t) : Kept s (fenceRegion r t) :=
  kept_ite (kept_foldl (fun _ _ hr => kept_ite (kept_addDue (kept_flushPort hr)) hr) h)
    (kept_addDue (kept_foldl (fun _ _ hr => kept_bobFenced hr) h))

theorem kept_fencePart {p : Nat} (h : Kept s t) : Kept s (fencePart p t) :=
  kept_foldl (fun _ _ hr => kept_ite (kept_collFail hr) hr)
    (kept_flushReplies (kept_abortOn
      (kept_shtFence (kept_foldl (fun _ _ hr => kept_fenceRegion hr) (kept_setPartState (kept_tickStamp (kept_same h)))))))

theorem kept_fenceBlock {g u : Nat} {src : Option Src} (h : Kept s t) : Kept s (fenceBlock g u src t) :=
  kept_flushBlock (kept_tickStamp (kept_same h))

theorem kept_relift (h : Kept s t) : Kept s (relift t) := kept_ite (kept_same h) (kept_same h)

theorem kept_startJob {sc : Scope} {askers late : List Nat} (h : Kept s t) : Kept s (startJob sc askers late t) :=
  kept_tickStamp (kept_same h)

theorem kept_setLast {v base : Nat} (h : Kept s t) : Kept s (setLast v t base) := kept_wrF h

theorem kept_beginContext {g u ctx : Nat} {askers : List Nat} (h : Kept s t) : Kept s (beginContext g u ctx askers t) :=
  kept_ite
    (kept_startJob (kept_unitGen (kept_setBob (kept_ite (kept_abortTarget h) (kept_addDue (kept_setBobState (kept_abortTarget h)))))))
    (kept_startJob (kept_qpReset (kept_abortTarget h)))

theorem kept_beginEngine {g u : Nat} {askers late : List Nat} (h : Kept s t) : Kept s (beginEngine g u askers late t) :=
  kept_startJob (kept_blockGen (kept_resetBlock (kept_abortTarget h)))

theorem kept_beginPart {p : Nat} {late : List Nat} (h : Kept s t) : Kept s (beginPart p late t) :=
  kept_startJob (kept_bump (kept_pgenNext (kept_foldl (fun _ _ hr => kept_qpReset hr)
    (kept_flushReplies (kept_foldl (fun _ _ hr => kept_ite (kept_collClose hr) hr)
      (kept_foldl (fun _ _ hr => kept_ite (kept_collClose hr) hr)
        (kept_foldl (fun _ _ hr => kept_regionGen (kept_resetRegion hr)) (kept_fencePart h))))))))

theorem kept_beginRegion {r : Bool × Nat} {late : List Nat} (h : Kept s t) : Kept s (beginRegion r late t) :=
  have h1 := kept_abortOn (kept_fenceRegion h)
  kept_startJob (kept_regionGen (kept_resetRegion (kept_ite (kept_foldl (fun _ _ hr => kept_qpErr hr) h1) h1)))

theorem kept_chipClear (h : Kept s t) : Kept s (chipClear t) :=
  ⟨h.1, fun hs => let ⟨hr, hcd, _, hpool⟩ := h.2 hs; ⟨hr, hcd, nil_wf _, hpool⟩⟩

theorem kept_beginChip {cause : Nat} {late : List Nat} (h : Kept s t) : Kept s (beginChip cause late t) :=
  kept_startJob (kept_bump (kept_wrF (kept_foldl (fun _ _ hr => kept_pgenNext hr) (kept_foldl (fun _ _ hr => kept_unitGen hr)
    (kept_setRegs (kept_chipClear h) (skeep_wf fun a => !(csrGroup a == grCLS && csrUnit a < 16 && csrOff a != 0x050)))))))

theorem kept_showRing (h : Kept s t) : Kept s (showRing t) :=
  kept_foldl (fun _ _ hr => kept_wrF (kept_wrF (kept_ite_snd hr (kept_ite_snd (kept_takeFree hr) hr)))) h

theorem kept_endScope {sc : Scope} (h : Kept s t) : Kept s (endScope sc t) := by
  have hports (r : Bool × Nat) {u : State} (hu : Kept s u) : Kept s (let s := wipeRegs .low (onRegion r) u
      if r.1 then (List.range 16).foldl (fun s i => portRestart (16 * r.2 + i) s) s else s) :=
    kept_ite (kept_foldl (fun _ _ hr => kept_portRestart hr) (kept_wipeRegs hu)) (kept_wipeRegs hu)
  unfold endScope
  split
  · refine kept_ite ?_ h
    extract_lets b keep u
    have hu : Kept s u := kept_wrReg (kept_wipeRegs h)
    exact kept_ite hu (kept_ite (kept_setBobState hu) (kept_wrReg hu))
  · exact kept_ite (kept_portRestart (kept_wipeRegs h)) (kept_ite (kept_cxlEnable (kept_wipeRegs h)) (kept_wipeRegs h))
  · exact kept_foldl (fun _ r hr => hports r hr) h
  · exact hports _ h
  · extract_lets u v w
    have hv : Kept s v := by
      unfold v
      split
      · exact kept_timStart (kept_same (kept_wipeRegs h))
      · exact kept_showRing (kept_timStart (kept_same (kept_wipeRegs h)))
    exact kept_foldl (fun _ _ hr => kept_ite (kept_setCxlState hr) hr) (kept_foldl (fun _ _ hr => kept_portRestart hr) hv)

theorem kept_resetDone {sc : Scope} (h : Kept s t) : Kept s (resetDone sc t) := by
  unfold resetDone
  split
  · exact h
  · exact kept_runReqs (kept_relift (kept_foldl (fun _ _ hr => kept_setLast hr)
      (kept_foldl (fun _ _ hr => kept_setLast hr) (kept_tickStamp (kept_same (kept_endScope h))))))

theorem kept_aboveEngine {g u : Nat} {late : List Nat} (h : Kept s t) : Kept s (aboveEngine g u late t) := by
  unfold aboveEngine
  split
  · split
    · exact kept_beginPart h
    · exact kept_beginRegion h
  · exact kept_beginChip h

theorem kept_deferReset {sc : Scope} {askers late : List Nat} (h : Kept s t) : Kept s (deferReset sc askers late t) := kept_same h

theorem kept_engineOrDefer {g u : Nat} {askers late : List Nat} (h : Kept s t) : Kept s (engineOrDefer g u askers late t) :=
  kept_ite (kept_deferReset h) (kept_beginEngine h)

theorem kept_resetEscalated {sc : Scope} (h : Kept s t) : Kept s (resetEscalated sc t) := by
  unfold resetEscalated
  split
  · exact h
  extract_lets
  split
  · exact
      have h1 := kept_foldl (fun _ _ hr => kept_setLast hr) (kept_bump (kept_same h))
      kept_ite (kept_engineOrDefer (kept_raise h1)) (kept_aboveEngine (kept_raise h1))
  · exact kept_aboveEngine (kept_fenceBlock (kept_raise (kept_foldl (fun _ _ hr => kept_setLast hr) (kept_bump (kept_same h)))))
  · exact kept_beginChip (kept_raise (kept_foldl (fun _ _ hr => kept_setLast hr) (kept_bump (kept_same h))))
  · exact kept_beginChip (kept_raise (kept_foldl (fun _ _ hr => kept_setLast hr) (kept_bump (kept_same h))))
  · exact
      have h1 := kept_foldl (fun _ _ hr => kept_setLast hr) (kept_bump (kept_same h))
      kept_ite (kept_ibi (kept_same (kept_raise h1))) (kept_raise h1)

theorem kept_resetRefused {base : Nat} (h : Kept s t) : Kept s (resetRefused base t) := kept_setLast (kept_csrRefused h)
theorem kept_absorbAsk {j : ResetJob} {base : Nat} (h : Kept s t) : Kept s (absorbAsk j base t) := kept_okReply (kept_same h)

theorem kept_resetAsk {sc : Scope} {base : Nat} (h : Kept s t) : Kept s (resetAsk sc base t) := by
  unfold resetAsk
  split
  · exact kept_resetRefused h
  split
  · exact kept_absorbAsk h
  · exact kept_ite (kept_resetRefused h)
      (kept_ite (kept_okReply (kept_deferReset h)) (kept_ite (kept_okReply (kept_beginEngine h)) (kept_okReply (kept_beginContext h))))

theorem kept_contextReset {base ctx : Nat} (h : Kept s t) : Kept s (contextReset base ctx t) :=
  kept_ite (kept_resetRefused h) (kept_resetAsk h)

theorem kept_engineReset {base : Nat} (h : Kept s t) : Kept s (engineReset base t) := kept_ite (kept_resetAsk h) (kept_resetRefused h)

theorem kept_runDeferred (h : Kept s t) : Kept s (runDeferred t) :=
  kept_foldl (fun _ _ hr => kept_ite (kept_beginEngine (kept_same hr)) (kept_beginContext (kept_same hr))) h

theorem kept_releaseRegion {r : Bool × Nat} (h : Kept s t) : Kept s (releaseRegion r t) :=
  have h1 := kept_wipeRegs (kept_resetRegion h)
  kept_ite (kept_foldl (fun _ _ hr => kept_portRestart hr) h1) (kept_emptyBanks h1)

theorem kept_retireFree {p : Nat} (h : Kept s t) : Kept s (retireFree p t) :=
  kept_ite h
    (kept_setPartState (kept_same (kept_foldl (fun _ _ hr => kept_wrReg hr)
      (kept_wrReg (kept_foldl (fun _ _ hr => kept_releaseRegion hr)
        (kept_flushReplies (kept_foldl (fun _ _ hr => kept_cohDrop hr) (kept_foldl (fun _ _ hr => kept_dropObj hr) h))))))))

theorem kept_partShrinkCommit {p : Nat} {d : Bytes} (h : Kept s t) : Kept s (partShrinkCommit p d t) :=
  kept_partShrink (kept_foldl (fun _ _ hr => kept_releaseRegion (kept_regionGen hr)) h)

/-! ### Safe state, hangs, tests and dumps -/

theorem kept_fireSource {f : Src} {u : Nat} (h : Kept s t) : Kept s (fireSource f u t) :=
  kept_ite (kept_ibi (kept_raise h)) (kept_raise h)

theorem kept_dumpStart {trigger : Nat} (h : Kept s t) : Kept s (dumpStart trigger t) :=
  kept_ite h (kept_ite (kept_wrF h) (kept_same (kept_bump (kept_wrReg (kept_wrF (kept_wrF h))))))

theorem kept_safeEnter (h : Kept s t) : Kept s (safeEnter t) :=
  have h1 := kept_foldl (fun _ _ hr => kept_ite (kept_addDue hr) hr) (kept_ibi (kept_bump (kept_tickStamp (kept_same h))))
  have h2 := kept_ite (kept_dumpStart h1) h1
  kept_ite h (kept_ite (kept_beginChip h2) h2)

theorem kept_contextAction {f : Src} {u : Nat} (h : Kept s t) : Kept s (contextAction f u t) :=
  kept_ite (kept_addDue (kept_setBobState h)) h

theorem kept_autoEngine {g u : Nat} (h : Kept s t) : Kept s (autoEngine g u t) := kept_ite h (kept_engineOrDefer h)

theorem kept_classAction {f : Src} {u : Nat} (h : Kept s t) : Kept s (classAction f u t) := by
  unfold classAction
  split
  · exact kept_contextAction h
  · exact kept_ite (kept_contextAction h) (kept_ite (kept_ite (kept_autoEngine (kept_fenceBlock h)) (kept_fenceBlock h)) h)
  · exact kept_foldl (fun _ _ hr => kept_fencePart hr) h
  · exact kept_safeEnter h
  · exact h

theorem kept_hangWindow {g u : Nat} (h : Kept s t) : Kept s (hangWindow g u t) := kept_ite h (kept_fireSource (kept_addCause h))

theorem kept_ucieFails {n link m : Nat} (h : Kept s t) : Kept s (ucieFails n link m t) :=
  have h1 := kept_ite (kept_showRing (kept_same h)) h
  kept_ite h
    (kept_ite
      (kept_ite (kept_fireSource (kept_fireSource h1))
        (kept_ite (kept_fireSource (kept_fireSource h1)) (kept_fireSource (kept_fireSource h1))))
      (kept_fireSource h1))

theorem kept_ucieJoins {n link m : Nat} (h : Kept s t) : Kept s (ucieJoins n link m t) := by
  unfold ucieJoins
  extract_lets
  exact kept_showRing (kept_same h)

theorem kept_portFence {p : Nat} (h : Kept s t) : Kept s (portFence p t) :=
  kept_addDue (kept_fireSource (kept_genNext (kept_flushPort (kept_modPort h))))

theorem kept_portUnfence {p : Nat} (h : Kept s t) : Kept s (portUnfence p t) := kept_modPort h

theorem kept_testStart {kind flt unit : Nat} (h : Kept s t) : Kept s (testStart kind flt unit t) := by
  unfold testStart
  extract_lets
  split
  · exact kept_same h
  split
  · exact kept_foldl (fun _ _ hr => kept_modPort (kept_ite (kept_linkDown hr) (kept_setLink hr))) (kept_wrReg (kept_same h))
  · exact kept_wrReg (kept_same h)

theorem kept_testDone {kind flt : Nat} {pass : Bool} {fails : Nat} (h : Kept s t) : Kept s (testDone kind flt pass fails t) := by
  unfold testDone
  split
  · exact h
  extract_lets _ u w v keep
  have hu : Kept s u := kept_same h
  have hv : Kept s v := kept_wrReg hu
  refine kept_ite ?_ ?_
  · split
    · exact kept_ucieJoins hu
    · exact kept_ucieFails hu
  split
  · extract_lets x
    have hx : Kept s x := kept_wrReg (kept_wipeRegs (kept_regionGen (kept_resetRegion hv)))
    exact kept_ite (kept_foldl (fun _ _ hr => kept_modPort (kept_portRestart hr)) hx) hx
  · exact hv

theorem kept_stkSet {n k : Nat} {on : Bool} (h : Kept s t) : Kept s (stkSet n k on t) := kept_wrF h

/-! ### Rails, temperatures, PARK and STANDBY -/

theorem kept_modPwr {f : Power → Power} (h : Kept s t) : Kept s (modPwr t f) := kept_same h
theorem kept_setDev {v : Nat} (h : Kept s t) : Kept s (setDev v t) := kept_wrF h
theorem kept_railSet {r mv : Nat} (h : Kept s t) : Kept s (railSet r mv t) := kept_ite (kept_wrF (kept_modPwr h)) (kept_modPwr h)

theorem kept_lasting {f : Src} {new none_ : Bool} (h : Kept s t) : Kept s (lasting f new none_ t) :=
  kept_ite (kept_fireSource (kept_addCause h)) (kept_ite (kept_dropCause h) h)

theorem kept_supplyCheck (h : Kept s t) : Kept s (supplyCheck t) := kept_lasting (kept_modPwr h)
theorem kept_supplyWarn {r mv : Nat} (h : Kept s t) : Kept s (supplyWarn r mv t) := kept_ite (kept_supplyCheck (kept_railSet h)) h

theorem kept_railFault {r mv : Nat} (h : Kept s t) : Kept s (railFault r mv t) :=
  have h1 := kept_modPwr (kept_railSet h)
  kept_ite h (kept_ite h1 (kept_lasting h1))

theorem kept_railBack {r mv : Nat} (h : Kept s t) : Kept s (railBack r mv t) :=
  have h1 := kept_supplyCheck (kept_railSet h)
  kept_ite h (kept_lasting (kept_ite (kept_modPwr h1) h1))

theorem kept_railSelect {w : Word} (h : Kept s t) : Kept s (railSelect w t) :=
  kept_ite (kept_csrRefused h) (kept_okReply (kept_wrF (kept_wrF h)))

theorem kept_railMinRead (h : Kept s t) : Kept s (railMinRead t) := kept_okReply (kept_wrF h)
theorem kept_tempSet {n : Nat} {t' : ℤ} (h : Kept s t) : Kept s (tempSet n t' t) := kept_wrF (kept_wrF (kept_wrReg h))
theorem kept_thermCheck (h : Kept s t) : Kept s (thermCheck t) := kept_lasting (kept_modPwr h)
theorem kept_thermWarn {n : Nat} {t' : ℤ} (h : Kept s t) : Kept s (thermWarn n t' t) := kept_ite (kept_thermCheck (kept_tempSet h)) h

theorem kept_thermTrip {n : Nat} {t' : ℤ} (h : Kept s t) : Kept s (thermTrip n t' t) :=
  kept_ite h (kept_lasting (kept_modPwr (kept_thermCheck (kept_tempSet h))))

theorem kept_cooled {n : Nat} {t' : ℤ} (h : Kept s t) : Kept s (cooled n t' t) :=
  have h1 := kept_thermCheck (kept_tempSet h)
  kept_ite h (kept_ite (kept_lasting (kept_modPwr h1)) h1)

theorem kept_setParked {r : Bool × Nat} {on : Bool} (h : Kept s t) : Kept s (setParked r on t) := kept_wrF h
theorem kept_park_addDueRegion {r : Bool × Nat} (h : Kept s t) : Kept s (park.addDueRegion r t) := kept_ite h (kept_addDue h)

theorem kept_park {d : Nat} (h : Kept s t) : Kept s (park d t) := by
  unfold park
  split
  · exact kept_park_addDueRegion (kept_setParked (kept_bump h))
  · exact h

theorem kept_parkOff {k : Nat} (h : Kept s t) : Kept s (parkOff k t) := kept_ite (kept_modPwr h) h

theorem kept_unpark {d : Nat} (h : Kept s t) : Kept s (unpark d t) := by
  unfold unpark
  split
  · exact kept_ite (kept_modPwr h) h
  · exact h

theorem kept_exitRegion {r : Bool × Nat} (h : Kept s t) : Kept s (exitRegion r t) := by
  unfold exitRegion
  extract_lets u v mine w
  have hv : Kept s v :=
    kept_setRegs (kept_wipeRegs (kept_resetRegion h)) (skeep_wf fun a => !(onRegion r a && csrOff a == 0x050))
  exact kept_ite (kept_setCmb (kept_same hv)) (kept_emptyBanks hv)

theorem kept_parkExit {k : Nat} (h : Kept s t) : Kept s (parkExit k t) :=
  kept_ite h (kept_abortOn (kept_modPwr (kept_setParked (kept_exitRegion h))))

theorem kept_standbyEnter {slot : Nat} (h : Kept s t) : Kept s (standbyEnter slot t) :=
  kept_sameMem (kept_dropContribs (kept_wipeRegs (kept_foldl (fun _ _ hr => kept_ite hr (kept_cxlLeave hr))
    (kept_foldl (fun _ _ hr => kept_ite hr (kept_linkDisable hr))
      (kept_foldl (fun _ _ hr => kept_ite (kept_addDue hr) hr) (kept_bump (kept_setDev h)))))))

theorem kept_standbyEntered (h : Kept s t) : Kept s (standbyEntered t) := kept_ite (kept_wrF (kept_setDev h)) h

theorem kept_standbyExit (h : Kept s t) : Kept s (standbyExit t) := by
  unfold standbyExit
  refine kept_ite (kept_okReply h) (kept_ite (kept_csrRefused h) ?_)
  extract_lets p u v
  have hv : Kept s v := kept_same (kept_setRegs (kept_wipeRegs (kept_chipClear h))
    (skeep_wf fun a => !(csrOff a == 0x050) && !(csrGroup a == grCLS && csrUnit a < 16)))
  exact kept_okReply (kept_wrReg hv)

theorem kept_standbyLeft (h : Kept s t) : Kept s (standbyLeft t) :=
  kept_ite h
    (kept_foldl (fun _ _ hr => kept_ite (kept_setCxlState hr) hr)
      (kept_foldl (fun _ _ hr => kept_portRestart hr) (kept_timStart (kept_setDev h))))

theorem kept_powerOn {rails : List Nat} (h : Kept s t) : Kept s (powerOn rails t) := by
  unfold powerOn
  refine kept_ite h ?_
  extract_lets b mv
  exact kept_romStart ⟨h.1, fun _ => ⟨nil_wf _, nil_wf _, nil_wf _, nil_wf _⟩⟩

theorem kept_auxLoss (h : Kept s t) : Kept s (auxLoss t) := kept_modPwr (kept_modBoot h)
theorem kept_resetPin (h : Kept s t) : Kept s (resetPin t) := kept_ite (kept_beginChip h) h

end Sys2Proof.Machine
end

section
/-! PROOFS. What the operations of clauses and register accesses keep. -/

namespace Sys2Proof.Machine

-- One after another: side by side, so many short proofs take more threads than the check has memory for.
set_option Elab.async false

variable {s t : State}

/-! ### Clauses: staging, checks and work -/

theorem kept_setCls {c : Nat} {x : Clause} (h : Kept s t) : Kept s (setCls t c x) := kept_same h
theorem kept_modCls {c : Nat} {f : Clause → Clause} (h : Kept s t) : Kept s (modCls c f t) := kept_setCls h
theorem kept_setClsState {c st : Nat} (h : Kept s t) : Kept s (setClsState c st t) := kept_wrF h
theorem kept_toSwitch {sw op : Nat} {pay : Bytes} (h : Kept s t) : Kept s (toSwitch sw op pay t) := kept_emit h
theorem kept_sendVote {c : Nat} {yes : Bool} (h : Kept s t) : Kept s (sendVote c yes t) := kept_toSwitch h
theorem kept_sendDecision {sw gid at_ : Nat} {commit : Bool} (h : Kept s t) : Kept s (sendDecision sw gid commit at_ t) := kept_toSwitch h
theorem kept_putOutcome {o : Outcome} (h : Kept s t) : Kept s (putOutcome o t) := kept_same h
theorem kept_dropOutcome {gid : Nat} (h : Kept s t) : Kept s (dropOutcome gid t) := kept_same h

theorem kept_recordDecision {c at_ : Nat} {commit : Bool} (h : Kept s t) : Kept s (recordDecision c commit at_ t) :=
  kept_foldl (fun _ _ hr => kept_sendDecision hr) (kept_ite (kept_dropOutcome h) (kept_ite (kept_putOutcome h) h))

theorem kept_undoEntries {c : Nat} {doubt : Bool} (h : Kept s t) : Kept s (undoEntries c doubt t) :=
  kept_pubLapse (kept_releaseHeld (kept_foldl (fun _ _ hr => kept_ite (kept_homeUndo hr) hr) h))

theorem kept_releaseWrites {c : Nat} (h : Kept s t) : Kept s (releaseWrites c t) :=
  kept_foldl (fun _ _ hr => kept_addDue hr) (kept_modCls h)

theorem kept_clauseAbort {c reason : Nat} (h : Kept s t) : Kept s (clauseAbort c reason t) := by
  unfold clauseAbort
  split
  · exact h
  extract_lets
  split
  · split
    · exact
        have h1 := kept_bump (kept_wrF (kept_setClsState (kept_modCls (kept_releaseWrites (kept_undoEntries h)))))
        have h2 := kept_ite (kept_bump h1) h1
        kept_ite h2 (kept_recordDecision h2)
    · exact
        have h1 := kept_bump (kept_wrF (kept_setClsState (kept_modCls (kept_releaseWrites (kept_undoEntries h)))))
        kept_recordDecision (kept_ite (kept_bump h1) h1)
  · exact
      have h1 := kept_bump (kept_wrF (kept_setClsState (kept_modCls (kept_releaseWrites (kept_undoEntries h)))))
      have h2 := kept_ite (kept_bump h1) h1
      kept_ite (kept_sendVote h2) h2

theorem kept_failEntry {c i reason : Nat} (h : Kept s t) : Kept s (failEntry c i reason t) := kept_clauseAbort (kept_wrF h)

theorem kept_clsAlloc (h : Kept s t) : Kept s (clsAlloc t) := by
  unfold clsAlloc
  split
  · exact kept_okReply h
  · exact kept_okReply (kept_same (kept_wrReg (kept_wrReg (kept_setCls h))))

theorem kept_stageData {c : Nat} {w : Word} (h : Kept s t) : Kept s (stageData c w t) :=
  kept_ite (kept_csrRefused h) (kept_ite (kept_okReply (kept_clauseAbort h)) (kept_okReply (kept_wrReg (kept_wrF (kept_setCls h)))))

theorem kept_tryGlobal {c : Nat} (h : Kept s t) : Kept s (tryGlobal c t) := kept_ite (kept_wrF (kept_setCls h)) h

theorem kept_clsSeal {c : Nat} (h : Kept s t) : Kept s (clsSeal c t) :=
  have h1 := kept_setClsState (kept_modCls h)
  kept_ite (kept_csrRefused h) (kept_okReply (kept_tryGlobal (kept_ite (kept_toSwitch h1) h1)))

theorem kept_clsRelease {c : Nat} (h : Kept s t) : Kept s (clsRelease c t) :=
  kept_ite (kept_okReply (kept_same (kept_setRegs h (skeep_wf fun a => !(csrGroup a == grCLS && csrUnit a == c && 0x100 ≤ csrOff a)))))
    (kept_csrRefused h)

theorem kept_retirePart {p : Nat} (h : Kept s t) : Kept s (retirePart p t) := by
  unfold retirePart
  extract_lets u1 u2 drains u3 u4 u5 u6 u7
  have h2 : Kept s u2 := kept_foldl (fun _ _ hr => kept_retirePub hr) (kept_abortOn (kept_fencePart h))
  clear_value u2
  have h3 : Kept s u3 := kept_modMem h2
  have h4 : Kept s u4 := kept_foldl (fun _ _ hr => kept_modQp (kept_shtDrop hr)) h3
  have h6 : Kept s u6 := kept_foldl (fun _ _ hr => kept_setShtReg hr) (kept_foldl (fun _ _ hr => kept_regionGen hr) (kept_pgenNext h4))
  refine kept_same (kept_keyZeroize (kept_foldl (fun _ v hr => ?_) h6))
  cases v.ext with
  | none => exact hr
  | some e => exact kept_wakeExt hr

theorem kept_verify {key msg : Bytes} {buf : Nat} (h : Kept s t) : Kept s (verify key buf msg t).2 := kept_bump h

theorem kept_approvals {c : Nat} {es : List Entry} {e : Entry} (h : Kept s t) : Kept s (approvals c es e t).2 := by
  unfold approvals
  split
  · exact h
  split
  · exact kept_ite_snd h h
  split
  · exact kept_ite_snd (kept_modCls (kept_verify (kept_verify h))) (kept_verify (kept_verify h))
  · exact h

theorem kept_checkEntry {c : Nat} {es : List Entry} {e : Entry} (h : Kept s t) : Kept s (checkEntry c es e t).2 :=
  kept_ite_snd h
    (kept_ite_snd h
      (kept_ite_snd h
        (kept_ite_snd h
          (kept_ite_snd h
            (kept_ite_snd (kept_approvals h) (kept_ite_snd (kept_approvals h) (kept_ite_snd (kept_approvals h) (kept_approvals h))))))))

theorem kept_workOf {c : Nat} {e : Entry} {u : State} (h : Kept s t) (he : workOf c e t = some u) : Kept s u := by
  unfold workOf at he
  split at he
  · cases he; exact h
  split at he
  · exact kept_homeWork h he
  · cases he; exact kept_ite (kept_keySweep h) h

theorem kept_beginWork {c k : Nat} (h : Kept s t) : Kept s (beginWork c k t) := by
  unfold beginWork
  split
  · exact kept_ite (kept_homeStart h) h
  · exact h

theorem kept_runWork {n c : Nat} (h : Kept s t) : Kept s (runWork n c t) := by
  induction n generalizing t with
  | zero => exact h
  | succ n ih =>
    unfold runWork
    extract_lets x
    refine kept_ite h ?_
    split
    · exact h
    next u heq =>
      have hu : Kept s u := by
        cases he : x.entries[x.work]? with
        | none => simp [he] at heq
        | some e => exact kept_workOf h (by simpa [he] using heq)
      exact ih (kept_beginWork (kept_modCls hu))

theorem kept_startWork {c : Nat} (h : Kept s t) : Kept s (startWork c t) := kept_runWork (kept_beginWork (kept_modCls h))

theorem kept_walkEntries {c : Nat} {walked l : List Entry} (h : Kept s t) : Kept s (walkEntries c walked l t) := by
  induction l generalizing t walked with
  | nil => exact kept_startWork h
  | cons e rest ih =>
    unfold walkEntries
    extract_lets e
    split
    next heq =>
    have hu := kept_snd heq (kept_checkEntry h)
    exact kept_ite (kept_failEntry hu) (ih (kept_ite (kept_homeTake (kept_modCls hu)) (kept_modCls hu)))

theorem kept_validate {c : Nat} (h : Kept s t) : Kept s (validate c t) :=
  kept_ite (kept_failEntry h) (kept_ite (kept_failEntry h) (kept_walkEntries h))

theorem kept_clsClose {c : Nat} {stores : List (Nat × Byte)} {leases : List (Nat × Lease)} {psns : List (Nat × Nat)}
    {digests : List (Nat × Bytes)} (h : Kept s t) : Kept s (clsClose c stores leases psns digests t) :=
  have h1 := kept_setClsState (kept_setCls (kept_fwStores h))
  have h2 := kept_ite (kept_putOutcome h1) h1
  kept_ite (kept_csrRefused (kept_fwStores h))
    (kept_ite (kept_okReply (kept_clauseAbort h1))
      (kept_okReply (kept_ite (kept_tryGlobal h2) (kept_validate (kept_tryGlobal h2)))))

theorem kept_clsAbortCmd {c : Nat} (h : Kept s t) : Kept s (clsAbortCmd c t) :=
  kept_ite (kept_okReply (kept_clauseAbort h)) (kept_csrRefused h)

theorem kept_clsCmdBad (h : Kept s t) : Kept s (clsCmdBad t) := kept_csrRefused h

/-! ### Clauses: arming, commit and decisions -/

theorem kept_workOver {c : Nat} {u : State} (h : Kept s t) (e : workOver t c = some u) : Kept s u := by
  unfold workOver at e
  extract_lets x rest at e
  split at e
  · refine kept_foldl_option (fun o e ho u he => ?_) (fun u hu => by cases hu; exact h) u e
    obtain ⟨v, hv, he⟩ := Option.bind_eq_some_iff.mp he
    exact kept_workOf (ho v hv) he
  · cases e

theorem kept_guardTake {c : Nat} {u : State} (h : Kept s t) (e : guardTake c t = some u) : Kept s u := by
  refine kept_foldl_option (fun o e ho u he => ?_) (fun u hu => by cases hu; exact h) u e
  split at he
  · obtain ⟨v, hv, he⟩ := Option.bind_eq_some_iff.mp he
    exact kept_homeGuard (ho v hv) he
  · exact ho u he

theorem kept_guardBegin {c : Nat} (h : Kept s t) : Kept s (guardBegin c t) := by
  unfold guardBegin
  split
  · exact h
  split
  · exact kept_failEntry h
  split
  · exact kept_failEntry h
  split
  next heq =>
    exact kept_modCls (kept_guardTake h heq)
  · exact kept_clauseAbort h

theorem kept_putReg {a : Nat} {w : Word} (h : Kept s t) : Kept s (putReg a w t) := kept_ite h (kept_addDue (kept_wrReg h))

theorem kept_setLevel {base : Nat} {expert : Bool} (h : Kept s t) : Kept s (setLevel base expert t) :=
  kept_foldl (fun _ _ hr => kept_ite (kept_same (kept_wrReg hr)) (kept_wrReg hr)) (kept_wrF h)

theorem kept_commitLevel {e : Entry} (h : Kept s t) : Kept s (commitLevel e t) := kept_ite (kept_ite h (kept_setLevel h)) h
theorem kept_commitWrite {e : Entry} (h : Kept s t) : Kept s (commitWrite e t) := kept_ite h (kept_ite (kept_addDue h) (kept_putReg h))
theorem kept_routeLoad {d : Bytes} (h : Kept s t) : Kept s (routeLoad d t) := kept_wrF (kept_same h)

theorem kept_commitFlt {c : Nat} {e : Entry} (h : Kept s t) : Kept s (commitFlt c e t) := by
  unfold commitFlt
  extract_lets k u n
  have hregion : Kept s (match fltRegion u with | some r => beginRegion r [] t | none => t) := by
    split
    · exact kept_beginRegion h
    · exact h
  exact kept_ite (kept_ite h (kept_beginPart h)) (kept_ite (kept_beginChip h) (kept_ite (kept_ibi (kept_same h)) (kept_ite hregion
    (kept_ite (kept_bump h) (kept_ite (kept_testStart h) (kept_ite (kept_portFence h) (kept_ite (kept_portUnfence h)
    (kept_ite (kept_testStart h) (kept_ite (kept_testStart h) (kept_ite (kept_testStart h) (kept_ite (kept_stkSet h)
    (kept_ite (kept_stkSet h) (kept_ite (kept_testStart h) (kept_ite (kept_park h) (kept_ite (kept_unpark h)
    (kept_ite (kept_standbyEnter h) h))))))))))))))))

theorem kept_commitSec {e : Entry} {salt : Bytes} (h : Kept s t) : Kept s (commitSec e salt t) :=
  kept_ite (kept_partCreate h)
    (kept_ite (kept_partGrow h)
      (kept_ite (kept_partShrinkCommit h)
        (kept_ite (kept_retirePart h)
          (kept_ite (kept_fencePart h)
            (kept_ite (kept_ite (kept_setPartState h) h)
              (kept_ite (kept_putDigest h)
                (kept_ite (kept_keyTake h)
                  (kept_ite (kept_keyTake h)
                    (kept_ite (kept_keyCommit h)
                      (kept_ite (kept_keyZeroize h)
                        (kept_ite (kept_consentLoad h) (kept_ite (kept_consentEnd h) (kept_ite (kept_putDigest h) h)))))))))))))

theorem kept_commitAction {c : Nat} {psns : List (Nat × Nat)} {salt : Bytes} {e : Entry}
    (h : Kept s t) : Kept s (commitAction c psns salt e t) :=
  kept_ite (kept_genBump h)
    (kept_ite (kept_collOpen h)
      (kept_ite (kept_collClose h)
        (kept_ite (kept_collFail h)
          (kept_ite (kept_mcastSet h)
            (kept_ite (kept_mcastClear h)
              (kept_ite (kept_routeLoad h)
                (kept_ite (kept_commitSec h) (kept_ite (kept_commitFlt h) (kept_ite (kept_homeCommit h) (kept_ite (kept_shtCommit h) h))))))))))

theorem kept_commitNow {c : Nat} (h : Kept s t) : Kept s (commitNow c t) :=
  have h1 := kept_foldl (fun _ _ hr => kept_ite (kept_commitAction hr) (kept_ite (kept_commitWrite hr) hr))
    (kept_foldl (fun _ _ hr => kept_commitLevel hr) (kept_bump (kept_setClsState h)))
  kept_ite h (kept_ite (kept_modCls (kept_releaseWrites (kept_releaseHeld h1))) h1)

theorem kept_commitAtOnce {c : Nat} (h : Kept s t) : Kept s (commitAtOnce c t) := kept_commitNow (kept_guardBegin h)
theorem kept_clauseCommit {c : Nat} (h : Kept s t) : Kept s (clauseCommit c t) := kept_ite (kept_commitAtOnce h) h

theorem kept_roundStarts {d : Nat} (h : Kept s t) : Kept s (roundStarts d t) :=
  kept_ite h
    (kept_roundBegin (kept_foldl (fun _ _ hr => kept_commitNow hr) (kept_roundAdvance (kept_foldl (fun _ _ hr => kept_guardBegin hr) h))))

theorem kept_tryDecide {c : Nat} (h : Kept s t) : Kept s (tryDecide c t) :=
  kept_ite h
    (kept_ite (kept_ite (kept_recordDecision (kept_setCls h)) (kept_clauseAbort h))
      (kept_ite (kept_clauseAbort h) (kept_recordDecision (kept_setCls h))))

theorem kept_clauseArmed {c : Nat} (h : Kept s t) : Kept s (clauseArmed c t) := by
  unfold clauseArmed
  split
  · exact h
  split
  · exact h
  next heq =>
    exact
      have h1 := kept_setClsState (kept_workOver h heq)
      kept_ite (kept_clauseAbort (kept_workOver h heq))
        (kept_ite (kept_clauseAbort (kept_workOver h heq))
          (kept_ite (kept_sendVote (kept_setClsState (kept_workOver h heq)))
            (kept_ite (kept_tryDecide h1) (kept_ite (kept_guardBegin (kept_modCls h1)) (kept_modCls h1)))))

theorem kept_guardInterval {c : Nat} (h : Kept s t) : Kept s (guardInterval c t) := kept_ite (kept_guardBegin h) h

theorem kept_prepareIn {m : Msg} (h : Kept s t) : Kept s (prepareIn m t) := by
  unfold prepareIn
  extract_lets
  split
  · exact kept_sendDecision h
  · exact
      have h1 := kept_tryGlobal (kept_setCls h)
      kept_ite (kept_sendDecision h) (kept_ite h (kept_ite (kept_sendDecision h) (kept_ite (kept_validate h1) h1)))

theorem kept_voteIn {m : Msg} (h : Kept s t) : Kept s (voteIn m t) := by
  unfold voteIn
  extract_lets
  split
  · exact h
  · exact kept_ite h (kept_ite (kept_tryDecide (kept_setCls h)) (kept_clauseAbort (kept_setCls h)))

theorem kept_learnDecision {c t' : Nat} {commit : Bool} (h : Kept s t) : Kept s (learnDecision c commit t' t) :=
  have h1 := kept_setClsState (kept_modCls h)
  have h2 := kept_ite (kept_raise (kept_bump h1)) h1
  kept_ite (kept_clauseAbort h)
    (kept_ite h (kept_ite (kept_ite (kept_guardBegin h2) (kept_commitAtOnce h2)) (kept_ite (kept_guardBegin h2) h2)))

theorem kept_takeDecision {gid t' : Nat} {commit : Bool} (h : Kept s t) : Kept s (takeDecision gid commit t' t) := by
  unfold takeDecision
  dsimp only
  refine kept_toSwitch ?_
  split
  · exact kept_learnDecision h
  · exact h

theorem kept_decisionIn {m : Msg} (h : Kept s t) : Kept s (decisionIn m t) := kept_ite h (kept_takeDecision h)

theorem kept_decisionAckIn {m : Msg} (h : Kept s t) : Kept s (decisionAckIn m t) := by
  unfold decisionAckIn
  extract_lets
  split
  · exact kept_ite h (kept_ite (kept_dropOutcome h) (kept_same h))
  · exact h

theorem kept_outcomeTimer {c : Nat} (h : Kept s t) : Kept s (outcomeTimer c t) := kept_ite (kept_toSwitch h) h

theorem kept_outcomeQueryIn {m : Msg} (h : Kept s t) : Kept s (outcomeQueryIn m t) := by
  unfold outcomeQueryIn
  extract_lets
  split
  · split
    · exact kept_emit h
    · exact h
  · exact kept_emit h

theorem kept_inDoubt {c : Nat} (h : Kept s t) : Kept s (inDoubt c t) := kept_ite (kept_raise (kept_clauseAbort h)) h

theorem kept_outcomeAnswerIn {m : Msg} (h : Kept s t) : Kept s (outcomeAnswerIn m t) := by
  unfold outcomeAnswerIn
  extract_lets
  split
  · exact h
  split
  · exact kept_takeDecision h
  split
  · exact kept_inDoubt h
  · exact h

theorem kept_clauseTimeout {c : Nat} (h : Kept s t) : Kept s (clauseTimeout c t) := kept_ite (kept_clauseAbort h) h
theorem kept_coordTimeout {c : Nat} (h : Kept s t) : Kept s (coordTimeout c t) := kept_ite (kept_clauseAbort h) h

theorem kept_domUnbound {d : Nat} (h : Kept s t) : Kept s (domUnbound d t) :=
  kept_foldl (fun _ _ hr => kept_ite (kept_clauseAbort hr) hr) h

/-! ### Register accesses -/

theorem kept_errClear {base : Nat} {w : Word} (h : Kept s t) : Kept s (errClear base w t) :=
  kept_foldl (fun _ _ hr => kept_ite (kept_fireSource hr) hr) (kept_same (kept_okReply (kept_wrReg h)))

theorem kept_errInject {base : Nat} {w : Word} (h : Kept s t) : Kept s (errInject base w t) :=
  kept_ite (kept_foldl (fun _ _ hr => kept_ite (kept_fireSource hr) hr) (kept_okReply h)) (kept_csrRefused h)

theorem kept_resetCtl {base : Nat} {w : Word} (h : Kept s t) : Kept s (resetCtl base w t) :=
  kept_ite (kept_contextReset h) (kept_ite (kept_engineReset h) (kept_resetRefused h))

theorem kept_timSet {w : Word} (h : Kept s t) : Kept s (timSet w t) := kept_ite (kept_csrRefused h) (kept_okReply (kept_same h))
theorem kept_timNowRead (h : Kept s t) : Kept s (timNowRead t) := kept_okReply (kept_wrF h)

theorem kept_clsCtl {c : Nat} {w : Word} (h : Kept s t) : Kept s (clsCtl c w t) := by
  unfold clsCtl
  split
  · exact kept_clsSeal h
  · exact kept_clsClose h
  · exact kept_clsAbortCmd h
  · exact kept_clsRelease h
  · exact kept_clsCmdBad h

theorem kept_dumpCtl {w : Word} (h : Kept s t) : Kept s (dumpCtl w t) :=
  have h1 := kept_okReply (kept_wrReg h)
  kept_ite (kept_dumpStart h1) h1

theorem kept_wdogCtl {w : Word} (h : Kept s t) : Kept s (wdogCtl w t) :=
  have h1 := kept_okReply (kept_wrReg h)
  kept_ite (kept_wdogKick h1) h1

theorem kept_attestCtl {w : Word} (h : Kept s t) : Kept s (attestCtl w t) := kept_ite (kept_attestGo (kept_okReply h)) (kept_okReply h)
theorem kept_hqCtl {w : Word} (h : Kept s t) : Kept s (hqCtl w t) := kept_ite (kept_hqGo (kept_okReply h)) (kept_okReply h)

theorem kept_restartCtl {w : Word} (h : Kept s t) : Kept s (restartCtl w t) :=
  kept_ite (kept_ctlRestart (kept_okReply h)) (kept_okReply h)

theorem kept_standbyCtl {w : Word} (h : Kept s t) : Kept s (standbyCtl w t) :=
  kept_ite (kept_standbyExit (kept_okReply h)) (kept_okReply h)

theorem kept_plainWrite {a : Nat} {w : Word} (h : Kept s t) : Kept s (plainWrite a w t) :=
  kept_ite (kept_okReply h) (kept_ite (kept_csrRefused h) (kept_ite (kept_okReply (kept_putReg h)) (kept_csrRefused h)))

theorem kept_csrWriteNow {a : Nat} {w : Word} (h : Kept s t) : Kept s (csrWriteNow a w t) := by
  unfold csrWriteNow
  extract_lets
  split
  · exact kept_csrError h
  · exact kept_ite (kept_resetCtl h)
      (kept_ite (kept_csrError h)
        (kept_ite (kept_csrRefused h)
          (kept_ite (kept_csrRefused h)
            (kept_ite (kept_errClear h)
              (kept_ite (kept_errInject h)
                (kept_ite (kept_plainWrite h)
                  (kept_ite (kept_ite (kept_clsCtl h) (kept_ite (kept_stageData h) (kept_ite (kept_plainWrite h) (kept_csrRefused h))))
                    (kept_ite (kept_timSet h)
                      (kept_ite (kept_progLoad h)
                        (kept_ite (kept_bobCmd h)
                          (kept_ite (kept_hqCtl h)
                            (kept_ite (kept_attestCtl h)
                              (kept_ite (kept_dumpCtl h)
                                (kept_ite (kept_restartCtl h)
                                  (kept_ite (kept_wdogCtl h)
                                    (kept_ite (kept_mbxOutPush h)
                                      (kept_ite (kept_mbxClear h)
                                        (kept_ite (kept_mbxClear h)
                                          (kept_ite (kept_standbyCtl h) (kept_ite (kept_railSelect h) (kept_plainWrite h)))))))))))))))))))))

theorem kept_csrWrite {a size : Nat} {w : Word} (h : Kept s t) : Kept s (csrWrite a size w t) := by
  unfold csrWrite
  split
  · exact kept_csrError h
  split
  · exact kept_okReply (kept_modCls h)
  · exact kept_csrWriteNow h

theorem kept_doorbellClear {full : Bool} {w sets : Word} (h : Kept s t) : Kept s (doorbellClear full w sets t) :=
  kept_ite (kept_csrWrite (kept_mbxClear h)) (kept_mbxClear h)

theorem kept_csrRead {a size : Nat} (h : Kept s t) : Kept s (csrRead a size t) :=
  kept_ite (kept_csrError h)
    (kept_ite (kept_clsAlloc h)
      (kept_ite (kept_timNowRead h) (kept_ite (kept_railMinRead h) (kept_ite (kept_mbxInPop h) (kept_okReply h)))))

theorem kept_tapDenied (h : Kept s t) : Kept s (tapDenied t) := kept_same (kept_raise (kept_bump h))

theorem kept_tapAccess {op a size : Nat} {w : Word} (h : Kept s t) : Kept s (tapAccess op a size w t) :=
  kept_ite (kept_ite (kept_tapDenied h) (kept_same (kept_okReply (kept_takeFree h))))
    (kept_ite (kept_tapDenied h) (kept_same (kept_ite (kept_csrRead (kept_same h)) (kept_csrWrite (kept_same h)))))

theorem kept_dumpShow {x : Dump} (h : Kept s t) : Kept s (dumpShow t x) := kept_wrReg (kept_same h)

theorem kept_dumpTimeout {base words : Nat} (h : Kept s t) : Kept s (dumpTimeout base words t) := by
  unfold dumpTimeout
  split
  · exact h
  · exact kept_ite h (kept_ite (kept_dumpShow h) (kept_raise (kept_dumpShow h)))

theorem kept_dumpDone (h : Kept s t) : Kept s (dumpDone t) := by
  unfold dumpDone
  split
  · exact h
  · exact kept_wrF (kept_wrF (kept_same (kept_cdWrite (kept_dumpShow h))))

end Sys2Proof.Machine
end

section
/-! PROOFS. What the operations of attention and of the issue of steps keep. -/

namespace Sys2Proof.Machine

-- One after another: side by side, so many short proofs take more threads than the check has memory for.
set_option Elab.async false

variable {s t : State}

/-! ### The ATTEND station -/

theorem kept_entryCode {st : Nat} {c : Ctx} (h : Kept s c.s) : Kept s (entryCode st c).2.s :=
  kept_ite_snd_ctx h (kept_ite_snd_ctx h (kept_ctx_fail h))

theorem kept_entRead {a n : Nat} {c : Ctx} (h : Kept s c.s) : Kept s (entRead a n c).2.2.s := kept_entryCode (kept_ctx_readSt h)

theorem kept_entWrite {a : Nat} {d : Bytes} {c : Ctx} (h : Kept s c.s) : Kept s (entWrite a d c).2.s :=
  kept_entryCode (kept_ctx_writeSt h)

theorem kept_entBulk {a n : Nat} {c : Ctx} (h : Kept s c.s) : Kept s (entBulk a n c).2.2.s :=
  kept_ite_snd_snd_ctx (kept_ite_ctx h h) (kept_entRead h)

theorem kept_listWord {k : Pool} {e : AttEnt} {j : Nat} {c : Ctx} (h : Kept s c.s) : Kept s (listWord k e j c).2.2.s := by
  unfold listWord
  split
  next heq =>
  have h1 := kept_snd_snd_ctx heq (kept_entRead h)
  exact kept_ite_snd_snd_ctx h1 (kept_ite_snd_snd_ctx h1 h1)

theorem kept_entAtomic {op a arg new : Nat} {c : Ctx} (h : Kept s c.s) : Kept s (entAtomic op a arg new c).2.2.s :=
  kept_entryCode (kept_ctx_atomic1 h)

theorem kept_plc_took {x : Plc} {r : Nat × Ctx} (h : Kept s r.2.s) : Kept s (Plc.took x r).c.s := h
theorem kept_plc_mark {bits : Nat} {x : Plc} (h : Kept s x.c.s) : Kept s (Plc.mark bits x).c.s := kept_ite_plc_ctx h (kept_ctx_write h)

theorem kept_plc_count {a : Nat} {x : Plc} (h : Kept s x.c.s) : Kept s (Plc.count a x).c.s :=
  kept_ite_plc_ctx (kept_ctx_on (fun _ hr => kept_bump hr) h) h

theorem kept_plc_take {k : Pool} {spare : Nat} {x : Plc} (h : Kept s x.c.s) : Kept s (Plc.take k spare x).c.s :=
  kept_ite_plc_ctx h (kept_ite_plc_ctx h (kept_ite_plc_ctx h (kept_plc_took (kept_entAtomic h))))

theorem kept_plc_list {e : AttEnt} {pos page : Nat} {x : Plc} (h : Kept s x.c.s) : Kept s (Plc.list e pos page x).c.s :=
  kept_ite_plc_ctx h (kept_plc_took (kept_entWrite h))

theorem kept_plc_copy {k : Pool} {old new r : Nat} {x : Plc} (h : Kept s x.c.s) : Kept s (Plc.copy k old new r x).c.s :=
  kept_foldl_plc_ctx
    (fun _ _ hr => kept_foldl_plc_ctx
      (fun _ _ hq => kept_ite_plc_ctx hq
        (kept_ite_plc_ctx (kept_plc_took (kept_entBulk hq)) (kept_plc_took (kept_entWrite (kept_entBulk hq)))))
      hr)
    h

theorem kept_plc_release {k : Pool} {old : Nat} {x : Plc} (h : Kept s x.c.s) : Kept s (Plc.release k old x).c.s := by
  unfold Plc.release
  split
  · exact h
  split
  next heq =>
  have h1 := kept_snd_snd_ctx heq (kept_entAtomic h)
  exact kept_ite_plc_ctx (kept_plc_mark (kept_plc_took h1)) (kept_plc_took h1)

theorem kept_place {k : Pool} {e : AttEnt} {sa w u : Nat} {c : Ctx} (h : Kept s c.s) : Kept s (place k e sa w u c).c.s := by
  unfold place
  extract_lets r pos x
  have hx : Kept s x.c.s := h
  refine kept_ite_plc_ctx (kept_plc_mark (kept_plc_count (kept_plc_mark (kept_plc_list (kept_plc_take hx))))) ?_
  split
  next heq =>
  have h1 := kept_snd_snd_ctx heq (kept_listWord hx)
  refine kept_ite_plc_ctx (kept_plc_took h1) ?_
  split
  next heq =>
  have h2 := kept_snd_snd_ctx heq (kept_entRead h1)
  extract_lets n y z z1 v w
  have hy : Kept s y.c.s := kept_plc_took h2
  have hz : Kept s z.c.s := kept_plc_list (kept_plc_copy (kept_plc_take hy))
  have hv : Kept s v.c.s := kept_ite_plc_ctx (kept_plc_release (kept_plc_count (kept_plc_mark hz))) hy
  refine kept_plc_mark (kept_ite_plc_ctx ?_ hv)
  split
  exact kept_plc_count (kept_plc_mark (kept_plc_list (kept_plc_take hv)))

theorem kept_readList {e : AttEnt} {app : Bool} {c : Ctx} (h : Kept s c.s) : Kept s (readList e app c).2.2.2.s := kept_entRead h

theorem kept_appendRows {p : AttPar} {k : Pool} {e : AttEnt} {lo : Nat} {d : Bytes} {row : Nat → Nat → Nat} {c : Ctx} (h : Kept s c.s) :
    Kept s (appendRows p k e lo d row c).2.s := by
  unfold appendRows
  refine kept_ite_snd_ctx h ?_
  extract_lets
  refine kept_foldl_snd_ctx (fun _ _ hr => kept_ite_snd_ctx hr ?_) h
  extract_lets
  split
  refine kept_ite_snd_ctx hr (kept_foldl_snd_ctx (fun _ _ hq => kept_ite_snd_ctx hq ?_) hr)
  split
  exact kept_ite_snd_ctx hq (kept_entWrite hq)

theorem kept_att_placed {a : Att} {u w i : Nat} {c : Ctx} (h : Kept s c.s) : Kept s (Att.placed a u w i c).2.s :=
  kept_ite_snd_ctx h (kept_ite_snd_ctx (kept_ite_ctx (kept_ctx_fail h) h) (kept_place h))

theorem kept_att_enter {a : Att} {rows : List Bytes} {u w i : Nat} {c : Ctx} (h : Kept s c.s) : Kept s (Att.enter a rows u w i c).2.s :=
  kept_ite_snd_ctx h
    (kept_ite_snd_ctx (kept_att_placed h)
      (kept_ite_snd_ctx (kept_readList (kept_att_placed h))
        (kept_ite_snd_ctx (kept_ite_snd_ctx (kept_appendRows (kept_readList (kept_att_placed h))) (kept_readList (kept_att_placed h)))
          (kept_ite_snd_ctx (kept_appendRows (kept_readList (kept_att_placed h))) (kept_readList (kept_att_placed h))))))

theorem kept_attPrep {st : Step} {x : Stn} {p : AttPar} {c : Ctx} (h : Kept s c.s) : Kept s (attPrep st x p c).s := by
  unfold attPrep
  extract_lets u
  split
  next heq =>
  have h1 := kept_snd_ctx heq (kept_ctx_read h)
  extract_lets block entries entOff stOff
  refine kept_ite_ctx h1 (kept_ite_ctx (kept_ctx_fail h1) ?_)
  split
  next heq =>
  have h2 := kept_snd_ctx heq (kept_ctx_read h1)
  extract_lets k first
  refine kept_ite_ctx h2 (kept_ite_ctx (kept_ctx_fail h2) (kept_ite_ctx (kept_ctx_fail h2) (kept_ite_ctx (kept_ctx_fail h2)
    (kept_ite_ctx (kept_ctx_fail h2) (kept_ite_ctx h2 ?_)))))
  split
  next heq =>
  have h3 := kept_snd_ctx heq (kept_ctx_read h2)
  split
  next heq =>
  have h4 := kept_snd_ctx heq (kept_ctx_read h3)
  extract_lets a c5
  refine kept_ite_ctx h4 (kept_ite_ctx (kept_ctx_fail h4) ?_)
  have hspans : Kept s c5.s := kept_ctx_spans h4
  split
  next heq =>
  have h5 := kept_snd_ctx heq (kept_ite_snd_ctx (kept_ctx_tiles hspans) hspans)
  split
  next heq =>
  have h6 := kept_snd_ctx heq (kept_foldl_snd_ctx (fun _ _ hr => kept_ite_snd_ctx hr (by
    split
    next heq => exact kept_snd_ctx heq (kept_att_enter hr))) h5)
  exact h6

theorem kept_ctx_tilesFrom {o : Option (Nat × Nat)} {f q n u : Nat} {c : Ctx} (h : Kept s c.s) : Kept s (Ctx.tilesFrom o f q n u c).2.s := by
  unfold Ctx.tilesFrom
  refine kept_foldl_snd_ctx (fun _ _ hr => ?_) h
  split
  next heq =>
  have h1 := kept_snd_ctx heq (kept_ctx_tile hr)
  exact h1

theorem kept_att_ops {a : Att} {st : Step} {u r : Nat} {c : Ctx} (h : Kept s c.s) : Kept s (Att.ops a st u r c).2.s :=
  kept_ite_snd_ctx (kept_ctx_tilesFrom h) (kept_ctx_tile (kept_ctx_tilesFrom (kept_ctx_tilesFrom (kept_ctx_tilesFrom h))))

theorem kept_att_forward {a : Att} {st : Step} {u r : Nat} {rs : EntRuns} {views : Views} {o : AttOps} {c : Ctx}
    (h : Kept s c.s) : Kept s (Att.forward a st u r rs views o c).s :=
  have h1 := kept_ctx_each (fun _ _ hr => kept_ctx_putTile hr) h
  kept_ite_ctx (kept_ctx_putTile h1) h1

theorem kept_att_backQ {a : Att} {st : Step} {u r : Nat} {rs : EntRuns} {views : Views} {o : AttOps} {c : Ctx}
    (h : Kept s c.s) : Kept s (Att.backQ a st u r rs views o c).s := kept_ctx_each (fun _ _ hr => kept_ctx_putTile hr) h

theorem kept_att_kvOld {a : Att} {pg : Nat} {cols : List (Nat × Nat)} {c : Ctx} (h : Kept s c.s) : Kept s (a.kvOld pg cols c).2.s := by
  unfold Att.kvOld
  extract_lets
  refine kept_ite_snd_ctx h (kept_foldl_snd_ctx (fun _ _ hr => ?_) h)
  extract_lets
  refine kept_ite_snd_ctx hr ?_
  split
  next heq => exact kept_snd_ctx heq (kept_ctx_bulk hr)

theorem kept_att_backKV {a : Att} {pg : Nat} {parts : List KvPart} {c : Ctx} (h : Kept s c.s) : Kept s (Att.backKV a pg parts c).s :=
  kept_ite_ctx (kept_att_kvOld h)
    (kept_ite_ctx
      (kept_ctx_each (fun _ _ hr => kept_foldl_ctx (fun _ _ hq => kept_ite_ctx hq (kept_ctx_write hq)) hr) (kept_att_kvOld h))
      (kept_ite_ctx (kept_att_kvOld h) (kept_ctx_write (kept_att_kvOld h))))

theorem kept_att_readPages {a : Att} {t' : List AttRow} {c : Ctx} (h : Kept s c.s) : Kept s (Att.readPages a t' c).2.s := by
  unfold Att.readPages
  refine kept_foldl_snd_ctx (fun _ _ hr => ?_) h
  extract_lets
  split
  · exact hr
  split
  next heq =>
  have h1 := kept_snd_snd_ctx heq (kept_entBulk hr)
  exact kept_ite_snd_ctx h1 h1

theorem kept_att_readUps {a : Att} {u : Nat} {l : List AttRow} {c : Ctx} (h : Kept s c.s) : Kept s (a.readUps u l c).2.s := by
  unfold Att.readUps
  refine kept_ite_snd_ctx h ?_
  extract_lets
  refine kept_foldl_snd_ctx (fun _ _ hr => ?_) h
  split
  next heq =>
  refine kept_snd_ctx heq (kept_foldl_snd_ctx (fun _ _ hq => ?_) hr)
  split
  next heq => exact kept_ctx_tally (fun _ hr => kept_bump hr) (kept_snd_ctx heq (kept_ctx_bulk hq))

theorem kept_att_counted {a : Att} {x : Stn} {u slices pairs heads : Nat} {c : Ctx}
    (h : Kept s c.s) : Kept s (Att.counted a x u slices pairs heads c).s :=
  kept_ctx_array (kept_ctx_tally (fun _ hr => kept_bump (kept_bump (kept_bump hr))) h)

theorem kept_att_put {a : Att} {st : Step} {u r : Nat} {views : Views} {o : AttOps} {c : Ctx}
    (h : Kept s c.s) : Kept s (Att.put a st u r views o c).s := kept_ite_ctx (kept_att_backQ h) (kept_att_forward h)

theorem kept_att_tileUnit {a : Att} {st : Step} {x : Stn} {u : Nat} {c : Ctx} (h : Kept s c.s) : Kept s (Att.tileUnit a st x u c).s :=
  have h1 := kept_ctx_each (fun _ _ hr => kept_ite_ctx (kept_att_put hr) hr)
    (kept_att_counted (kept_att_ops (kept_att_readUps (kept_att_readPages h))))
  kept_ite_ctx (kept_att_ops (kept_att_readUps (kept_att_readPages h))) (kept_ite_ctx (kept_att_put h1) h1)

theorem kept_att_pageUnit {a : Att} {st : Step} {x : Stn} {u : Nat} {c : Ctx} (h : Kept s c.s) : Kept s (a.pageUnit st x u c).s := by
  unfold Att.pageUnit
  extract_lets
  refine kept_ite_ctx h ?_
  split
  next heq =>
  have h1 := kept_snd_snd_ctx heq (kept_entBulk h)
  refine kept_ite_ctx h1 (kept_ite_ctx h1 ?_)
  extract_lets
  split
  next heq =>
  have h2 := kept_snd_ctx heq (kept_foldl_snd_ctx (fun _ _ hr => by
    split
    next heq => exact kept_snd_ctx heq (kept_att_ops hr)) h1)
  extract_lets c3
  have h3 : Kept s c3.s := kept_ite_ctx h2 (kept_att_counted h2)
  exact kept_ite_ctx (kept_att_backKV h3) h3

theorem kept_att_finish {a : Att} {u : Nat} {c : Ctx} (h : Kept s c.s) : Kept s (Att.finish a u c).s :=
  kept_ite_ctx h (kept_ctx_each (fun _ _ hr => kept_ctx_tally (fun _ hq => kept_bump hq) (kept_ctx_write hr)) h)

theorem kept_attendUnit {st : Step} {x : Stn} {c : Ctx} (h : Kept s c.s) : Kept s (attendUnit st x c).s := by
  unfold attendUnit
  extract_lets
  split
  · exact kept_ctx_fail h
  · exact
      have h1 := kept_ite_ctx (kept_attPrep h) h
      have h2 := kept_ite_ctx h1 (kept_ite_ctx (kept_att_pageUnit h1) (kept_att_tileUnit h1))
      kept_ite_ctx h1 (kept_ite_ctx (kept_att_finish h2) h2)

theorem kept_attend {b i : Nat} (h : Kept s t) : Kept s (attend b i t) := kept_runUnit (fun _ _ _ hr => kept_attendUnit hr) h

/-! ### Steps: issue and planning -/

theorem kept_issueReads {b maxReads : Nat} (h : Kept s t) : Kept s (issueReads b maxReads t) :=
  kept_ite (kept_setBob h) (kept_bump (kept_bump (kept_setBob h)))

theorem kept_replanStep {b order : Nat} (h : Kept s t) : Kept s (replanStep b order t) := by
  unfold replanStep
  split
  · split
    · exact kept_ite (kept_ctx_askAll h) (kept_ite (kept_bobFault h) (kept_issueReads (kept_putStep h)))
    · exact h
  · exact h

theorem kept_tryIssue {b : Nat} (h : Kept s t) : Kept s (tryIssue b t) := by
  unfold tryIssue
  refine kept_ite h ?_
  extract_lets p d y full
  split
  · exact h
  split
  · exact kept_bobFault h
  extract_lets credit hz memHz u v w
  have hw : Kept s w := kept_setBobState (kept_setCursor (kept_issueReads (kept_wrF (kept_modBob h))))
  exact kept_ite (kept_ite (kept_replanStep hw) hw) (kept_ite (kept_bump (kept_setBobState h)) h)

theorem kept_retryIssue {b : Nat} (h : Kept s t) : Kept s (retryIssue b t) := kept_ite (kept_tryIssue h) h

theorem kept_replan {b : Nat} (h : Kept s t) : Kept s (replan b t) :=
  kept_ite h (kept_ite h (kept_retryIssue (kept_foldl (fun _ _ hr => kept_replanStep hr) h)))

theorem kept_readArrives {b : Nat} (h : Kept s t) : Kept s (readArrives b t) := by
  unfold readArrives
  extract_lets
  split
  · exact h
  extract_lets
  split
  · exact kept_setBob h
  · exact kept_retryIssue (kept_issueReads (kept_setBob h))

theorem kept_stepComplete {b i : Nat} (h : Kept s t) : Kept s (stepComplete b i t) := by
  unfold stepComplete
  split
  · exact h
  · exact
      have h1 := kept_progress (kept_progress (kept_bump (kept_modBob h)))
      kept_ite h (kept_retryIssue (kept_ite (kept_bump h1) (kept_bump (kept_bump h1))))

end Sys2Proof.Machine
end

section
/-! PROOFS. What commands and steps keep: O5 and O6. -/

namespace Sys2Proof.Machine

-- One after another: side by side, so many short proofs take more threads than the check has memory for.
set_option Elab.async false

variable {s t : State}

/-! ### Consequences within a command -/

theorem kept_refire {base : Nat} {sel : Nat → Bool} (h : Kept s t) : Kept s (refire base sel t) := kept_same h

theorem kept_bindEnd {n : Nat} (h : Kept s t) : Kept s (bindEnd n t) :=
  kept_bankTakesForce (kept_foldl (fun _ _ hr => kept_ite (kept_setBobState (kept_setBob hr)) hr) h)

theorem kept_bindStart {n : Nat} (h : Kept s t) : Kept s (bindStart n t) := by
  unfold bindStart
  extract_lets
  split
  · exact kept_raise (kept_wrF (kept_bankTakesForce h))
  refine kept_foldl (fun _ _ hr => ?_) (kept_wrF (kept_bankTakesForce h))
  split
  · exact kept_ite (kept_setBobState (kept_bobRestart hr)) hr
  · exact hr

theorem kept_rebind {n : Nat} {old : Option Nat} (h : Kept s t) : Kept s (rebind n old t) :=
  have h1 := kept_ite (kept_bindEnd h) h
  kept_ite h (kept_ite (kept_bindStart h1) h1)

theorem kept_domChanged {d : Nat} {old : Word} (h : Kept s t) : Kept s (domChanged d old t) :=
  kept_ite h (kept_foldl (fun _ _ hr => kept_ite (kept_rebind hr) hr) (kept_ite (kept_domUnbound (kept_setDom h)) (kept_setDom h)))

theorem kept_gangChanged {p : Nat} {old : Word} (h : Kept s t) : Kept s (gangChanged p old t) :=
  kept_foldl
    (fun _ _ hr => kept_ite (kept_raise (kept_modPort (kept_bump (kept_setLink (kept_modPort (kept_flushPort hr))))))
      (kept_modPort (kept_flushPort hr)))
    h

theorem kept_enableChanged {a : Nat} {old : Word} (h : Kept s t) : Kept s (enableChanged a old t) :=
  kept_ite h (kept_ite (kept_ite (kept_ite (kept_setLink h) h) (kept_linkDisable h)) (kept_ite (kept_cxlEnable h) h))

theorem kept_changedReg {a : Nat} {old : Word} (h : Kept s t) : Kept s (changedReg a old t) :=
  kept_ite (kept_ite (kept_enableChanged h) h)
    (kept_ite (kept_refire h)
      (kept_ite (kept_refire h)
        (kept_ite (kept_timSourceChanged h)
          (kept_ite (kept_domChanged h)
            (kept_ite (kept_rebind h)
              (kept_ite (kept_ite h (kept_raiseIf (kept_bankTakesForce h)))
                (kept_ite (kept_gangChanged h)
                  (kept_ite (kept_cxlRetrain h) (kept_ite (kept_thermCheck h) (kept_ite (kept_supplyCheck h) h))))))))))

theorem kept_settleDue {d : Due} (h : Kept s t) : Kept s (settleDue d t) := by
  unfold settleDue
  split
  · exact kept_collFail h
  · exact kept_collPortGone h
  · exact kept_collBobGone h
  · exact kept_collRegionGone h
  · exact kept_changedReg h
  · exact kept_clauseAbort h
  · exact kept_endRequest h
  · exact kept_qpErr h
  · exact kept_csrWriteNow h

theorem kept_settleAll {k : Nat} (h : Kept s t) : Kept s (settleAll k t) := by
  induction k generalizing t with
  | zero => exact h
  | succ k ih =>
    unfold settleAll
    split
    · exact ih (kept_classAction (kept_same h))
    · exact ih (kept_settleDue (kept_same h))
    · exact h

theorem kept_dropGone (h : Kept s t) : Kept s (dropGone t) := kept_ite h (kept_farDrop h)

theorem kept_goOnAll (h : Kept s t) : Kept s (goOnAll t) :=
  have h1 := kept_groundOn (kept_dropGone h)
  have h2 := kept_ite h1 (kept_drainWaiting h1)
  kept_retryAllCqes (kept_foldl (fun _ _ hr => kept_runWork hr)
    (kept_foldl (fun _ _ hr => kept_replan hr) (kept_runHosts (kept_ite h2 (kept_runReqs h2)))))

theorem kept_settle (h : Kept s t) : Kept s (settle t) :=
  kept_expireShtTurns (kept_expireTurns
    (kept_settleAll (kept_goOnAll (kept_settleAll (kept_relift (kept_runDeferred (kept_bootAsk (kept_settleAll h))))))))

/-! ### Messages for units of the switch -/

theorem kept_atSwitch {prg : Nat} {m : Msg} {k : State → State}
    (hf : ∀ v, Kept s v → Kept s (k v)) (h : Kept s t) : Kept s (atSwitch prg m k t) :=
  kept_ite (hf _ (kept_takeDelivered h)) (kept_unsupported (kept_takeDelivered h))

theorem kept_slipAt {port : Nat} {m : Msg} (h : Kept s t) : Kept s (slipAt port m t) :=
  kept_ite (kept_slipIn (kept_takeDelivered h)) (kept_unsupported (kept_takeDelivered h))

theorem kept_mbxAt {kind port : Nat} {m : Msg} (h : Kept s t) : Kept s (mbxAt kind port m t) :=
  kept_ite (kept_unsupported (kept_takeDelivered h)) (kept_mbxPush (kept_takeDelivered h))

theorem kept_atEngine {n : Nat} {m : Msg} {k : State → State}
    (hf : ∀ v, Kept s v → Kept s (k v)) (h : Kept s t) : Kept s (atEngine n m k t) :=
  kept_ite (hf _ (kept_takeDelivered h)) (kept_unsupported (kept_takeDelivered h))

theorem kept_replyIn {prg : Nat} {m : Msg} (h : Kept s t) : Kept s (replyIn prg m t) :=
  kept_ite (kept_cplIn h) (kept_unsupported (kept_takeDelivered h))

theorem kept_bootImageTile {prg : Nat} {m : Msg} (h : Kept s t) : Kept s (bootImageTile prg m t) :=
  kept_ite (kept_bootChunk h) (kept_unsupported h)

theorem kept_contribIn {prg : Nat} {m : Msg} (h : Kept s t) : Kept s (contribIn prg m t) := kept_collTile (kept_detachDelivered h)

theorem kept_contribAt {prg : Nat} {m : Msg} (h : Kept s t) : Kept s (contribAt prg m t) :=
  kept_ite (kept_contribIn h) (kept_unsupported (kept_takeDelivered h))

theorem kept_tileIn {prg : Nat} {m : Msg} (h : Kept s t) : Kept s (tileIn prg m t) :=
  kept_ite (kept_unsupported (kept_takeDelivered h))
    (kept_ite (kept_groupTile (kept_takeDelivered h))
      (kept_ite (kept_regionTile (kept_detachDelivered h))
        (kept_ite (kept_contribIn h) (kept_ite (kept_bootImageTile (kept_takeDelivered h)) (kept_unsupported (kept_takeDelivered h))))))

theorem kept_accUpset {n k : Nat} (h : Kept s t) : Kept s (accUpset n k t) := by
  unfold accUpset
  split
  · exact kept_raise (kept_collFail h)
  · exact h

theorem kept_sramBreak {n word : Nat} (h : Kept s t) : Kept s (sramBreak n word t) :=
  kept_ite (kept_accUpset h) (kept_ite h (kept_same h))

theorem kept_sramUpset {n : Nat} {e : SramError} (h : Kept s t) : Kept s (sramUpset n e t) := by
  unfold sramUpset
  split
  · exact kept_ite h (kept_bump h)
  · exact kept_ite (kept_sramBreak h) (kept_raise (kept_sramBreak h))
  · exact kept_sramBreak h

/-! ### Commands and steps -/

/-- Every state that an outcome goes on to is kept. -/
def KeptOut (s : State) (o : Host.Outcome State Fault Refusal) : Prop := ∀ u, o = .next u → Kept s u

theorem keptOut_done (h : Kept s t) : KeptOut s (done t) := by
  rintro u ⟨⟩
  exact kept_settle h

theorem keptOut_fault {f : Fault} : KeptOut s (.fault f) := by
  rintro u ⟨⟩

theorem keptOut_ite {c : Prop} {dec : Decidable c} {o p : Host.Outcome State Fault Refusal} (ho : KeptOut s o) (hp : KeptOut s p) :
    KeptOut s (if c then o else p) := by
  split <;> assumption

/-- No command touches the commands that wait, and every command keeps the canonical form. -/
theorem keptOut_exec (c : Instr) (h : Kept s t) : KeptOut s (exec c t) := by
  cases c with
  | csrWrite => exact keptOut_done (kept_csrWrite (kept_fwStores h))
  | timNowRead => exact keptOut_done (kept_timNowRead h)
  | timSet => exact keptOut_done (kept_csrWrite h)
  | errStickyClear => exact keptOut_done (kept_csrWrite h)
  | errInject => exact keptOut_done (kept_csrWrite h)
  | contextReset => exact keptOut_done (kept_csrWrite h)
  | engineReset => exact keptOut_done (kept_csrWrite h)
  | resetDone => exact keptOut_done (kept_resetDone h)
  | resetEscalated => exact keptOut_done (kept_resetEscalated h)
  | clsAlloc => exact keptOut_done (kept_clsAlloc h)
  | clsStageData => exact keptOut_done (kept_stageData h)
  | clsSeal => exact keptOut_done (kept_clsSeal h)
  | clsClose => exact keptOut_done (kept_clsClose h)
  | clsAbort => exact keptOut_done (kept_clsAbortCmd h)
  | clsRelease => exact keptOut_done (kept_clsRelease h)
  | clauseArmed => exact keptOut_done (kept_clauseArmed h)
  | guardInterval => exact keptOut_done (kept_guardInterval h)
  | clauseCommit => exact keptOut_done (kept_clauseCommit h)
  | clauseTimeout => exact keptOut_done (kept_clauseTimeout h)
  | clauseInDoubt => exact keptOut_done (kept_inDoubt h)
  | coordVoteTimeout => exact keptOut_done (kept_coordTimeout h)
  | prepare => exact keptOut_done (kept_atSwitch (fun _ hr => kept_prepareIn hr) h)
  | vote => exact keptOut_done (kept_atSwitch (fun _ hr => kept_voteIn hr) h)
  | decision => exact keptOut_done (kept_atSwitch (fun _ hr => kept_decisionIn hr) h)
  | decisionAck => exact keptOut_done (kept_atSwitch (fun _ hr => kept_decisionAckIn hr) h)
  | outcomeQueryTimer => exact keptOut_done (kept_outcomeTimer h)
  | outcomeQuery => exact keptOut_done (kept_atSwitch (fun _ hr => kept_outcomeQueryIn hr) h)
  | outcomeAnswer => exact keptOut_done (kept_atSwitch (fun _ hr => kept_outcomeAnswerIn hr) h)
  | timeMarkTx => exact keptOut_done (kept_markDue h)
  | timeMark => exact keptOut_done (kept_rxFlit (fun _ hr => kept_rxOther (fun _ _ hq => kept_rxMark hq) hr) h)
  | ptpSync => exact keptOut_done (kept_ptpSync h)
  | ppsInEdge => exact keptOut_done (kept_ppsEdge h)
  | ppsOut => exact keptOut_done (kept_ppsOut h)
  | timeHoldover => exact keptOut_done (kept_timHoldover h)
  | timeUnlocked => exact keptOut_done (kept_timUnlocked h)
  | roundStart => exact keptOut_done (kept_roundStarts h)
  | gateEntryNext => exact keptOut_done (kept_gateNext h)
  | decisionInstant => exact keptOut_done (kept_decisionInstant h)
  | slip => exact keptOut_done (kept_slipAt h)
  | tile => exact keptOut_done (kept_tileIn h)
  | progLoad => exact keptOut_done (kept_csrWrite (kept_fwStores h))
  | progLoadDone => exact keptOut_done (kept_progLoaded h)
  | nopDesc => exact keptOut_done (kept_bobExec (fun _ hr => kept_setCursor hr) h)
  | stepDesc => exact keptOut_done (kept_bobExec (fun _ hr => kept_tryIssue hr) h)
  | loopDesc => exact keptOut_done (kept_bobExec (fun _ hr => kept_bobLoop hr) h)
  | nextDesc => exact keptOut_done (kept_bobExec (fun _ hr => kept_bobNext hr) h)
  | waitRoundDesc => exact keptOut_done (kept_bobExec (fun _ hr => kept_bobWait hr) h)
  | endDesc => exact keptOut_done (kept_bobExec (fun _ hr => kept_bobEnd hr) h)
  | readDataArrive => exact keptOut_done (kept_readArrives h)
  | bobArm => exact keptOut_done (kept_csrWrite h)
  | bobStart => exact keptOut_done (kept_csrWrite h)
  | bobStop => exact keptOut_done (kept_csrWrite h)
  | bobRelease => exact keptOut_done (kept_csrWrite h)
  | ingress => exact keptOut_done (kept_ingress h)
  | egress => exact keptOut_done (kept_egress h)
  | load => exact keptOut_done (kept_load h)
  | store => exact keptOut_done (kept_store h)
  | expand => exact keptOut_done (kept_expand h)
  | matmul => exact keptOut_done (kept_matmul h)
  | elemwise => exact keptOut_done (kept_elemwise h)
  | norm => exact keptOut_done (kept_norm h)
  | attend => exact keptOut_done (kept_attend h)
  | reduce => exact keptOut_done (kept_reduce h)
  | gather => exact keptOut_done (kept_gather h)
  | scatter => exact keptOut_done (kept_scatter h)
  | filter => exact keptOut_done (kept_filter h)
  | convert => exact keptOut_done (kept_convert h)
  | compress => exact keptOut_done (kept_compress h)
  | stepComplete => exact keptOut_done (kept_stepComplete h)
  | collContribution => exact keptOut_done (kept_contribAt h)
  | collSetOpen => exact keptOut_done (kept_collSetOpen h)
  | collTimeout => exact keptOut_done (kept_collTimeout h)
  | abort => exact keptOut_done (kept_atSwitch (fun _ hr => kept_abortIn hr) h)
  | cmbBufExpire => exact keptOut_done (kept_bufExpire h)
  | replyCacheExpire => exact keptOut_done (kept_replyExpire h)
  | read => exact keptOut_done (kept_fabricReq h)
  | rdShared => exact keptOut_done (kept_fabricReq h)
  | rdUnique => exact keptOut_done (kept_fabricReq h)
  | upgrade => exact keptOut_done (kept_fabricReq h)
  | write => exact keptOut_done (kept_fabricReq h)
  | writeAck => exact keptOut_done (kept_fabricReq h)
  | fence => exact keptOut_done (kept_fenceIn h)
  | atomicAdd => exact keptOut_done (kept_fabricReq h)
  | exactAdd => exact keptOut_done (kept_fabricReq h)
  | atomicMin => exact keptOut_done (kept_fabricReq h)
  | atomicMax => exact keptOut_done (kept_fabricReq h)
  | atomicCas => exact keptOut_done (kept_fabricReq h)
  | atomicBatchPass => exact keptOut_done (kept_runReqs (kept_returnOp h))
  | snpRsp => exact keptOut_done (kept_dirIn h)
  | wb => exact keptOut_done (kept_dirIn h)
  | evictClean => exact keptOut_done (kept_dirIn h)
  | cohSnpTimeout => exact keptOut_done (kept_snpTimeout h)
  | cohWbTimeout => exact keptOut_done (kept_wbTimeout h)
  | cpl => exact keptOut_done (kept_replyIn h)
  | cplData => exact keptOut_done (kept_replyIn h)
  | writeFailed => exact keptOut_done (kept_atSwitch (fun _ hr => kept_writeFailedIn hr) h)
  | homeEntryFetch => exact keptOut_done (kept_entryFetched h)
  | tierLate => exact keptOut_done (kept_tierLate h)
  | remoteLimitExpire => exact keptOut_done (kept_remoteLimit h)
  | scrub => exact keptOut_done (kept_scrub (kept_foldl (fun _ _ hr => kept_upset hr) h))
  | moveSectorCopy => exact keptOut_done (kept_sectorCopy h)
  | moveDrainDone => exact keptOut_done (kept_drainDone h)
  | moveDrain => exact keptOut_done (kept_drainLate h)
  | objFreeComplete => exact keptOut_done (kept_freeComplete h)
  | withdrawRangeRelease => exact keptOut_done (kept_rangeRelease h)
  | leaseGraceExpire => exact keptOut_done (kept_graceExpire h)
  | leaseRecall => exact keptOut_done (kept_atSwitch (fun _ hr => kept_raise hr) h)
  | leaseEnd => exact keptOut_done (kept_atSwitch (fun _ hr => kept_leaseEnd hr) h)
  | hqGo => exact keptOut_done (kept_csrWrite h)
  | homeQueryTimer => exact keptOut_done (kept_queryTimer h)
  | homeDeclaredLost => exact keptOut_done (kept_declaredLost h)
  | homeQuery => exact keptOut_done (kept_atSwitch (fun _ hr => kept_homeQuery hr) h)
  | homeAnswer => exact keptOut_done (kept_atSwitch (fun _ hr => kept_homeAnswer hr) h)
  | pubQuery => exact keptOut_done (kept_atSwitch (fun _ hr => kept_pubQuery hr) h)
  | pubAnswer => exact keptOut_done (kept_atSwitch (fun _ hr => kept_pubAnswerIn hr) h)
  | doorbell => exact keptOut_done (kept_atEngine (fun _ hr => kept_doorbell hr) h)
  | sqReadDone => exact keptOut_done (kept_sqReadDone h)
  | wqeSend => exact keptOut_done (kept_wqeStart h)
  | wqeWrite => exact keptOut_done (kept_wqeStart h)
  | wqeRead => exact keptOut_done (kept_wqeStart h)
  | wqeFlush => exact keptOut_done (kept_wqeStart h)
  | shuttleSegmentTx => exact keptOut_done (kept_segmentTx h)
  | shtSend => exact keptOut_done (kept_ite (kept_ctx_askAll h) (kept_atEngine (fun _ hr => kept_shtSendIn hr) h))
  | shtWrite => exact keptOut_done (kept_atEngine (fun _ hr => kept_shtWriteIn hr) h)
  | readReq => exact keptOut_done (kept_atEngine (fun _ hr => kept_readReqIn hr) h)
  | readResp => exact keptOut_done (kept_atEngine (fun _ hr => kept_readRespIn hr) h)
  | shtFlush => exact keptOut_done (kept_atEngine (fun _ hr => kept_flushIn hr) h)
  | ack => exact keptOut_done (kept_atEngine (fun _ hr => kept_ackIn hr) h)
  | nak => exact keptOut_done (kept_atEngine (fun _ hr => kept_nakIn hr) h)
  | ackDelayExpire => exact keptOut_done (kept_ackDelay h)
  | shtRetryTimer => exact keptOut_done (kept_shtExpiry h)
  | placementDone => exact keptOut_done (kept_placementDone h)
  | revokeDone => exact keptOut_done (kept_revokeDone h)
  | revokeLate => exact keptOut_done (kept_revokeLate h)
  | flitSlotTx => exact keptOut_done (kept_flitSlot h)
  | flitData => exact keptOut_done (kept_rxFlit (fun _ hr => kept_rxData hr) h)
  | idle => exact keptOut_done (kept_rxFlit (fun _ hr => kept_rxOther (fun _ _ hq => hq) hr) h)
  | retryReq => exact keptOut_done (kept_rxFlit (fun _ hr => kept_rxOther (fun _ _ hq => kept_rxRetryReq hq) hr) h)
  | train => exact keptOut_done (kept_rxFlit (fun _ hr => kept_rxTrain hr) h)
  | trainTx => exact keptOut_done (kept_trainTx h)
  | gangCut => exact keptOut_done (kept_rxFlit (fun _ hr => kept_rxControl hr) h)
  | retrainReq => exact keptOut_done (kept_rxFlit (fun _ hr => kept_rxControl hr) h)
  | faultIdle => exact keptOut_done (kept_rxFlit (fun _ hr => kept_rxFault hr) h)
  | flitReservedKind => exact keptOut_done (kept_rxFlit (fun _ hr => kept_bump hr) h)
  | replayTimeout => exact keptOut_done (kept_replayTimeout h)
  | linkDetect => exact keptOut_done (kept_linkDetect h)
  | equalizeDone => exact keptOut_done (kept_equalizeDone h)
  | alignLock => exact keptOut_done (kept_alignLock h)
  | linkTrainTimeout => exact keptOut_done (kept_trainTimeout h)
  | lockLost => exact keptOut_done (kept_lockLost h)
  | autoRetry => exact keptOut_done (kept_autoRetry h)
  | trayLinkUp => exact keptOut_done (kept_trayLinkUp h)
  | trayResponse => exact keptOut_done (kept_trayResponse h)
  | cxpLinkDown => exact keptOut_done (kept_cxpLinkDown h)
  | hostMemrd => exact keptOut_done (kept_hostRead h)
  | hostWrite => exact keptOut_done (kept_hostWrite h)
  | identifyMemoryDevice => exact keptOut_done (kept_ldAnswer h)
  | getPartitionInfo => exact keptOut_done (kept_ldAnswer h)
  | getHealthInfo => exact keptOut_done (kept_ldAnswer h)
  | getSupportedLogs => exact keptOut_done (kept_ldAnswer h)
  | getLog => exact keptOut_done (kept_ldAnswer h)
  | getEventRecords => exact keptOut_done (kept_ldAnswer h)
  | clearEventRecords => exact keptOut_done (kept_ldAnswer h)
  | cxlMbxUnsupported => exact keptOut_done (kept_ldAnswer h)
  | inPush => exact keptOut_done (kept_inPush h)
  | outPop => exact keptOut_done (kept_cxlOutPop h)
  | tokenRefill => exact keptOut_done (kept_refill h)
  | reseqOpenHold => exact keptOut_done (kept_drainWaiting (kept_reseqOpened h))
  | reseqFlowIdle => exact keptOut_done (kept_reseqIdle h)
  | reseqTimeout => exact keptOut_done (kept_drainWaiting (kept_reseqTimeout h))
  | reseqForced => exact keptOut_done (kept_drainWaiting (kept_reseqForced h))
  | routeHoldExpire => exact keptOut_done (kept_routeHoldOver h)
  | partRetireFree => exact keptOut_done (kept_retireFree h)
  | consentExpire => exact keptOut_done (kept_consentExpire h)
  | attestGo => exact keptOut_done (kept_csrWrite (kept_fwStores h))
  | attestDone => exact keptOut_done (kept_attestDone h)
  | tapAccess => exact keptOut_done (kept_tapAccess h)
  | hangWindow => exact keptOut_done (kept_hangWindow h)
  | ucieModuleDown => exact keptOut_done (kept_ucieFails h)
  | testDone => exact keptOut_done (kept_testDone h)
  | dumpGo => exact keptOut_done (kept_csrWrite h)
  | dumpReadTimeout => exact keptOut_done (kept_dumpTimeout h)
  | dumpDone => exact keptOut_done (kept_dumpDone h)
  | powerOn => exact keptOut_done (kept_powerOn h)
  | resetNAssert => exact keptOut_ite (keptOut_done h) (keptOut_ite keptOut_fault (keptOut_done (kept_resetPin h)))
  | bootSourceTimeout => exact keptOut_done (kept_bootTimeout h)
  | bootChunk => exact keptOut_done (kept_bootChunk h)
  | bootNone => exact keptOut_done (kept_bootNone h)
  | imageVerified => exact keptOut_done (kept_imageVerified h)
  | chpRestart => exact keptOut_done (kept_csrWrite h)
  | wdogKick => exact keptOut_done (kept_csrWrite h)
  | fwWatchdog => exact keptOut_done (kept_fwWatchdog h)
  | mbxPush => exact keptOut_done (kept_mbxAt h)
  | mbxInPop => exact keptOut_done (kept_csrRead h)
  | mbxOutPush => exact keptOut_done (kept_csrWrite h)
  | mbxDoorbellClear => exact keptOut_done (kept_doorbellClear h)
  | i3cEntdaa => exact keptOut_done (kept_i3cAddress h)
  | pwrRailSel => exact keptOut_done (kept_csrWrite h)
  | pwrRailMin => exact keptOut_done (kept_railMinRead h)
  | supplyWarn => exact keptOut_done (kept_supplyWarn h)
  | railFault => exact keptOut_done (kept_railFault h)
  | thermWarn => exact keptOut_done (kept_thermWarn h)
  | thermTrip => exact keptOut_done (kept_thermTrip h)
  | auxLoss => exact keptOut_done (kept_auxLoss h)
  | parkPowerOff => exact keptOut_done (kept_parkOff h)
  | standbyEntryDone => exact keptOut_done (kept_standbyEntered h)
  | pwrStandbyExit => exact keptOut_done (kept_csrWrite h)
  | standbyExitDone => exact keptOut_done (kept_standbyLeft h)
  | railGood => exact keptOut_done (kept_railBack h)
  | junctionCooled => exact keptOut_done (kept_cooled h)
  | bootRetry => exact keptOut_done (kept_bootRetry h)
  | parkExit => exact keptOut_done (kept_parkExit h)
  | hbcPhy => exact keptOut_done (kept_fireSource h)
  | sramUeIdle => exact keptOut_done (kept_sramUpset h)

/-- What a step leads to holds the queue without its first command, in canonical form if the state before it is. -/
theorem kept_step {t : State} (h : step s = .next t) : Kept { s with pending := s.pending.tail } t := by
  cases hq : s.pending with
  | nil =>
    rw [step_nil hq] at h
    cases h
    exact kept_tick ⟨by simp [hq], id⟩
  | cons c r =>
    rw [step_cons hq] at h
    exact keptOut_exec c (kept_refl _) t h

/-- Settles O5: each operation keeps the canonical form, so each command does. -/
theorem stepKeepsCanon : Obligations.StepKeepsCanon := by
  unfold Obligations.StepKeepsCanon
  intro s t hs h
  exact (kept_step h).2 hs

/-- Settles O6: no operation touches the commands that wait, so no command does. -/
theorem commandsLeaveTheQueue : Obligations.CommandsLeaveTheQueue := by
  unfold Obligations.CommandsLeaveTheQueue
  intro s t h
  exact (kept_step h).1

end Sys2Proof.Machine
end

section
/-! PROOFS. O12: direct CSR writes (R31, R34, R41, R44, R418). -/

namespace Sys2Proof.Machine

/-! ### A malformed write (R41, R418) -/

/-- An access to no register, that no guard interval holds, or of another size than a register's, ends with an error. -/
theorem csrWrite_malformed {s : State} {a size : Nat} (w : Word) (h : size ≠ 8 ∨ (regRow? a = none ∧ guardOf s a = none)) :
    csrWrite a size w s = csrError s := by
  by_cases h8 : size = 8
  · subst h8
    obtain hne | ⟨hrow, hguard⟩ := h
    · exact absurd rfl hne
    · rw [csrWrite_of_guardOf_none s a w hguard, csrWriteNow, hrow]
  · exact if_pos h8

/-- The error that a malformed access reports reaches CSR_ACCESS and the answer, no other register and no memory. -/
theorem csrError_effect (s : State) :
    (csrError s).reply = ⟨true, 0⟩ ∧ stickySet (csrError s) srcCHP_CSR_ACCESS 0 = true
      ∧ (∀ b, b ≠ G_ERR_STICKY grCHP 0 0 → rdReg (csrError s) b = rdReg s b)
      ∧ (csrError s).cdmem = s.cdmem ∧ (csrError s).sram = s.sram ∧ (csrError s).mem = s.mem
      ∧ (csrError s).ground = s.ground ∧ (csrError s).ports = s.ports ∧ (csrError s).clk = s.clk := by
  have hbit : srcCHP_CSR_ACCESS.bit ≠ 15 := by decide
  rw [csrError]
  refine ⟨?reply, stickySet_raise _ _ _ (by decide), fun b hb => rdReg_raise_other _ _ _ hb fun h => absurd h hbit, ?frame⟩
  case reply => rw [raise_frame]
  case frame =>
    rw [raise_frame]
    exact ⟨rfl, rfl, rfl, rfl, rfl, rfl⟩

/-! ### A write of SHT_SLICE (R31, R34, R44) -/

/-- QUANTUM, as the table of the SHT page lists it. -/
def shtSliceRow : RegRow := ⟨0x100, 8, 1, [fd 0 8 .rw 4 .p]⟩

theorem regRow?_shtSlice : ∀ n < 16, regRow? (SHT_SLICE n) = some shtSliceRow := by decide +kernel

theorem rwMask_shtSlice : ∀ n < 16, rwMask (SHT_SLICE n) = 0xFF#64 := by decide +kernel

theorem csrOff_shtSlice (n : Nat) : csrOff (SHT_SLICE n) = 0x100 := csrOff_csrAddr (by decide)

theorem csrGroup_shtSlice {n : Nat} (h : n < 16) : csrGroup (SHT_SLICE n) = grSHT :=
  csrGroup_csrAddr (by omega) (by decide) (by decide)

theorem csrUnit_shtSlice {n : Nat} (h : n < 16) : csrUnit (SHT_SLICE n) = n :=
  csrUnit_csrAddr (by omega) (by decide) (by decide)

/-- SHT_SLICE is none of the registers whose writes have an effect of their own. -/
theorem csrWriteNow_shtSlice {s : State} {n : Nat} (w : Word) (hn : n < 16) (hpark : unitParked s grSHT n = false) :
    csrWriteNow (SHT_SLICE n) w s = plainWrite (SHT_SLICE n) w s := by
  have hgr : grSHT ≠ grCLS ∧ grSHT ≠ grCRG ∧ grSHT ≠ grBOB ∧ grSHT ≠ grMBX := by decide
  have hne : ∀ k < 16, SHT_SLICE k ≠ TIM_SET ∧ SHT_SLICE k ≠ MRG_HQ_CTL ∧ SHT_SLICE k ≠ SEC_ATTEST_CTL
      ∧ SHT_SLICE k ≠ FLT_DUMP_CTL ∧ SHT_SLICE k ≠ CHP_RESTART ∧ SHT_SLICE k ≠ CHP_WDOG ∧ SHT_SLICE k ≠ MBX_DOORBELL
      ∧ SHT_SLICE k ≠ MBX_FULL_PEND ∧ SHT_SLICE k ≠ PWR_STANDBY ∧ SHT_SLICE k ≠ PWR_RAIL_SEL := by decide
  unfold csrWriteNow
  rw [regRow?_shtSlice n hn, csrGroup_shtSlice hn, csrUnit_shtSlice hn, csrOff_shtSlice]
  simp [hpark, hgr, hne n hn, shtSliceRow, fd]

/-- Every value of SHT_SLICE is allowed. -/
theorem valueOk_shtSlice {s : State} {n : Nat} (es : List Entry) (w : Word) (hn : n < 16) :
    valueOk s es (SHT_SLICE n) w = true := by
  have hne : ∀ k < 16, SHT_SLICE k ≠ CRG_TBK_MAP k ∧ SHT_SLICE k ≠ TIM_SOURCE ∧ SHT_SLICE k ≠ TIM_DOM_ROUND k
      ∧ SHT_SLICE k ≠ TIM_DOM_SLIP k ∧ SHT_SLICE k ≠ PRT_GANG k ∧ SHT_SLICE k ≠ PRT_CREDIT_ADV k ∧ SHT_SLICE k ≠ CXP_TRAY_T2 k
      ∧ SHT_SLICE k ≠ CXP_TRAY_T3 k ∧ SHT_SLICE k ≠ CXP_HOST_CFG k ∧ (∀ i < 8, SHT_SLICE k ≠ SEC_PART_GRANT k i)
      ∧ SHT_SLICE k ≠ SEC_DEBUG ∧ SHT_SLICE k ≠ PWR_SUPPLY_LIMITS ∧ SHT_SLICE k ≠ PWR_THERM ∧ SHT_SLICE k ≠ PWR_RAIL_SEL
      ∧ SHT_SLICE k ≠ QOS_VT k := by decide
  obtain ⟨hmap, hsrc, hround, hslip, hgang, hcredit, ht2, ht3, hhost, hgrant, hdebug, hlimits, htherm, hrail, hvt⟩ := hne n hn
  have hgrants : ((List.range 8).any fun i => SHT_SLICE n == SEC_PART_GRANT n i) = false := by simpa using hgrant
  unfold valueOk
  rw [csrUnit_shtSlice hn, csrOff_shtSlice]
  simp [hmap, hsrc, hround, hslip, hgang, hcredit, ht2, ht3, hhost, hgrants, hdebug, hlimits, htherm, hrail, hvt]

theorem plainWrite_shtSlice {s : State} {n : Nat} (w : Word) (hn : n < 16) :
    plainWrite (SHT_SLICE n) w s = okReply (putReg (SHT_SLICE n) (rwMerge s (SHT_SLICE n) w) s) := by
  have hexpert : expertReg (SHT_SLICE n) = false := by simp [expertReg, csrOff_shtSlice]
  simp [plainWrite, hexpert, gateInForce, valueOk_shtSlice _ _ hn]

/-- A register that takes a value reads it, and only the consequence that falls due differs beside it. -/
theorem putReg_effect (s : State) (a : Nat) (w : Word) :
    rdReg (putReg a w s) a = w ∧ (∀ b, b ≠ a → rdReg (putReg a w s) b = rdReg s b)
      ∧ (putReg a w s).cdmem = s.cdmem ∧ (putReg a w s).mem = s.mem := by
  by_cases h : rdReg s a = w
  · rw [putReg, if_pos h]
    exact ⟨h, fun _ _ => rfl, rfl, rfl⟩
  · rw [putReg, if_neg h]
    exact ⟨rdReg_wrReg_same s a w, fun b hb => rdReg_wrReg_other s w hb, rfl, rfl⟩

theorem rwMerge_shtSlice_quantum {s : State} {n : Nat} (w : Word) (hn : n < 16) :
    SHT_SLICE_QUANTUM.get (rwMerge s (SHT_SLICE n) w) = SHT_SLICE_QUANTUM.get w := by
  rw [rwMerge, rwMask_shtSlice n hn]
  exact Fld.get_mergeBits_in _ _ _ _ (by decide)

/-- The bits outside a mask stay as they were. -/
theorem mergeBits_and_not_mask (a b m : Word) : mergeBits a b m &&& ~~~m = a &&& ~~~m := by
  ext i
  simp only [mergeBits, BitVec.getElem_and, BitVec.getElem_or, BitVec.getElem_not]
  cases m[i] <;> simp

theorem rwMerge_shtSlice_rest {s : State} {n : Nat} (w : Word) (hn : n < 16) :
    rwMerge s (SHT_SLICE n) w &&& ~~~0xFF#64 = rdReg s (SHT_SLICE n) &&& ~~~0xFF#64 := by
  rw [rwMerge, rwMask_shtSlice n hn, mergeBits_and_not_mask]

/-- Settles O12: a malformed write is `csrError`, and a write of SHT_SLICE comes down to `putReg`. -/
theorem csrWrites : Obligations.CsrWrites := by
  unfold Obligations.CsrWrites
  refine ⟨fun s a size w hbad => ?malformed, fun s n w hn hguard hpark => ?slice⟩
  case malformed => exact ⟨csrError s, congrArg done (csrWrite_malformed w hbad), csrError_effect s⟩
  case slice =>
    have hwrite : csrWrite (SHT_SLICE n) 8 w s = okReply (putReg (SHT_SLICE n) (rwMerge s (SHT_SLICE n) w) s) := by
      rw [csrWrite_of_guardOf_none _ _ _ hguard, csrWriteNow_shtSlice w hn hpark, plainWrite_shtSlice w hn]
    obtain ⟨hreg, hother, hcd, hmem⟩ := putReg_effect s (SHT_SLICE n) (rwMerge s (SHT_SLICE n) w)
    refine ⟨_, congrArg done hwrite, rfl, ?quantum, ?rest, hother, hcd, hmem⟩
    case quantum => rw [rdF_congr (okReply_regs _ _), rdF, hreg, rwMerge_shtSlice_quantum w hn]
    case rest => rw [rdReg_congr (okReply_regs _ _), hreg, rwMerge_shtSlice_rest w hn]

end Sys2Proof.Machine
end

section
/-! PROOFS. What the registers and slots of the clauses keep: how a clause is read after an update, what a message of the fabric leaves of
them, and what an abort leaves (R38, R48, R49, R59, R60, R64). -/

namespace Sys2Proof.Machine

variable {s t : State} {c reason : Nat}

/-! ### Slots -/

theorem clsOf_congr (h : t.cls = s.cls) (i : Nat) : clsOf t i = clsOf s i := by rw [clsOf, clsOf, h]

@[simp] theorem clsOf_setCls_same (s : State) (c : Nat) (x : Clause) : clsOf (setCls s c x) c = x := by
  rw [clsOf, setCls, sget_sset_same]

theorem clsOf_setCls_other (s : State) (c : Nat) (x : Clause) {i : Nat} (h : i ≠ c) : clsOf (setCls s c x) i = clsOf s i := by
  rw [clsOf, setCls, sget_sset_other _ _ _ h, clsOf]

theorem clsState_congr (h : rdReg t (CLS_STATE c) = rdReg s (CLS_STATE c)) : clsState t c = clsState s c :=
  congrArg CLS_STATE_STATE.get h

theorem clsRole_congr (h : rdReg t (CLS_COND c) = rdReg s (CLS_COND c)) : clsRole t c = clsRole s c :=
  congrArg CLS_COND_ROLE.get h

theorem clsState_setClsState (s : State) (c : Nat) {st : Nat} (h : st < 16) : clsState (setClsState c st s) c = st := by
  rw [clsState, setClsState, rdF_wrF_same _ _ _ _ (by decide)]
  exact Nat.mod_eq_of_lt h

theorem rdReg_setClsState_other (s : State) (c st : Nat) {a : Nat} (h : a ≠ CLS_STATE c) : rdReg (setClsState c st s) a = rdReg s a :=
  rdReg_wrReg_other s _ h

/-! ### Addresses: the register pages of the clauses come before those of the fabric (Table CTL-1) -/

theorem cls_cond_ne_state (c : Nat) : CLS_COND c ≠ CLS_STATE c := csrAddr_ne_of_off (by decide)
theorem cls_stageMask_ne_state (c : Nat) : CLS_STAGE_MASK c ≠ CLS_STATE c := csrAddr_ne_of_off (by decide)
theorem cls_gid_ne_state (c : Nat) : CLS_GLOBAL_ID c ≠ CLS_STATE c := csrAddr_ne_of_off (by decide)
theorem cls_aborts_ne_state (c : Nat) : CLS_ABORTS ≠ CLS_STATE c := csrAddr_ne_of_off (by decide)
theorem cls_cond_ne_aborts (c : Nat) : CLS_COND c ≠ CLS_ABORTS := csrAddr_ne_of_off (by decide)

/-- The first address behind the clauses' group. -/
def clsEnd : Nat := csrAddr (grCLS + 1) 0 0 0

theorem clsEnd_le_csrAddr {g : Nat} (u p o : Nat) (h : grCLS < g) : clsEnd ≤ csrAddr g u p o := by
  simp only [clsEnd, csrAddr, grCLS] at *
  omega

theorem cls_lt_clsEnd {u o : Nat} (hu : u < 17) (ho : o < 4096) : csrAddr grCLS u 0 o < clsEnd := by
  simp only [clsEnd, csrAddr, grCLS]
  omega

/-! ### What a message of the fabric leaves of the clauses -/

/-- The slots are as they were, and so are the registers up to those of the clauses. -/
def ClausesKept (s t : State) : Prop := t.cls = s.cls ∧ ∀ a < clsEnd, rdReg t a = rdReg s a

theorem clausesKept_refl (s : State) : ClausesKept s s := ⟨rfl, fun _ _ => rfl⟩

theorem ClausesKept.trans {u : State} (h : ClausesKept s t) (k : ClausesKept t u) : ClausesKept s u :=
  ⟨k.1.trans h.1, fun a ha => (k.2 a ha).trans (h.2 a ha)⟩

/-- An update that writes neither slots nor registers. -/
theorem ClausesKept.of_eq {u : State} (h : ClausesKept s t) (hcls : u.cls = t.cls) (hregs : u.regs = t.regs) : ClausesKept s u :=
  h.trans ⟨hcls, fun a _ => rdReg_congr hregs a⟩

theorem ClausesKept.state (h : ClausesKept s t) (hc : c < 16) : rdReg t (CLS_STATE c) = rdReg s (CLS_STATE c) :=
  h.2 _ (cls_lt_clsEnd (by omega) (by decide))

theorem ClausesKept.aborts (h : ClausesKept s t) : rdReg t CLS_ABORTS = rdReg s CLS_ABORTS :=
  h.2 _ (cls_lt_clsEnd (by decide) (by decide))

theorem clausesKept_ite {p : Prop} {dec : Decidable p} {u v : State} (hu : ClausesKept s u) (hv : ClausesKept s v) :
    ClausesKept s (if p then u else v) := by
  split <;> assumption

theorem clausesKept_foldl {α : Type} {f : State → α → State} (l : List α)
    (hf : ∀ u, ∀ a ∈ l, ClausesKept s u → ClausesKept s (f u a)) (h : ClausesKept s t) : ClausesKept s (l.foldl f t) := by
  induction l generalizing t with
  | nil => exact h
  | cons a l ih =>
    exact ih (fun u b hb => hf u b (List.mem_cons_of_mem a hb)) (hf t a List.mem_cons_self h)

theorem clausesKept_wrReg {a : Nat} {w : Word} (h : ClausesKept s t) (ha : clsEnd ≤ a) : ClausesKept s (wrReg t a w) :=
  h.trans ⟨rfl, fun b hb => rdReg_wrReg_other t w (by omega)⟩

/-- A counter of a unit of the fabric. -/
theorem clausesKept_bump {g u p o n : Nat} (h : ClausesKept s t) (hg : grCLS < g) : ClausesKept s (bump t (csrAddr g u p o) n) :=
  clausesKept_wrReg h (clsEnd_le_csrAddr u p o hg)

theorem clausesKept_progress {g u : Nat} (h : ClausesKept s t) (hg : grCLS < g) : ClausesKept s (progress t g u) :=
  clausesKept_bump h hg

theorem clausesKept_raise {f : Src} {u : Nat} (h : ClausesKept s t) (hg : grCLS < f.g) (hb : f.bit ≠ 15) :
    ClausesKept s (raise f u t) := by
  refine h.trans ⟨by rw [raise_frame], fun a ha => rdReg_raise_other f u t ?_ fun h15 => absurd h15 hb⟩
  exact Nat.ne_of_lt (Nat.lt_of_lt_of_le ha (clsEnd_le_csrAddr u f.p 0x020 hg))

theorem clausesKept_deadTarget {n : Nat} {h' : Hdr} (h : ClausesKept s t) : ClausesKept s (deadTarget t n h') := by
  have hreg : clsEnd ≤ PRG_DEAD_TARGET n := clsEnd_le_csrAddr _ _ _ (by decide)
  exact clausesKept_raise (clausesKept_bump (clausesKept_wrReg (clausesKept_wrReg h hreg) hreg) (by decide)) (by decide) (by decide)

theorem clausesKept_releaseCredit {b tc : Nat} (h : ClausesKept s t) : ClausesKept s (releaseCredit t b tc) :=
  clausesKept_bump (h.of_eq rfl rfl) (by decide)

theorem clausesKept_cellLeaves {d : GCell} (h : ClausesKept s t) : ClausesKept s (cellLeaves t d) := by
  have hleft : ClausesKept s (progress (bump (progress t grGND d.slice) (GND_FLITS_OUT d.slice)) grPRG d.slice) :=
    clausesKept_progress (clausesKept_bump (clausesKept_progress h (by decide)) (by decide)) (by decide)
  unfold cellLeaves
  dsimp only
  split
  · exact clausesKept_releaseCredit hleft
  · exact hleft

theorem clausesKept_freeCells {cs : List GCell} (h : ClausesKept s t) : ClausesKept s (freeCells cs t) :=
  clausesKept_foldl cs (fun _ _ _ => clausesKept_cellLeaves) h

theorem clausesKept_deliver {o : Out} {prg : Nat} {port : Option Nat} {m : Msg} {cells : List GCell} (h : ClausesKept s t) :
    ClausesKept s (deliver t o prg port m cells) :=
  h.of_eq rfl rfl

theorem clausesKept_markIn {d : GCell} (h : ClausesKept s t) : ClausesKept s (markIn t d).1 := by
  unfold markIn
  dsimp only
  split
  · exact clausesKept_bump h (by decide)
  · exact h

theorem clausesKept_pushCell {d : GCell} (h : ClausesKept s t) : ClausesKept s (pushCell t d) :=
  (clausesKept_markIn h).of_eq rfl rfl

theorem clausesKept_takePinned {parts : List GCell} {d : GCell} (h : ClausesKept s t) : ClausesKept s (takePinned parts d t) :=
  clausesKept_ite (clausesKept_deliver (h.of_eq rfl rfl)) (clausesKept_deliver (clausesKept_freeCells (h.of_eq rfl rfl)))

theorem clausesKept_pinnedIn {d : GCell} (h : ClausesKept s t) : ClausesKept s (pinnedIn t d) :=
  clausesKept_ite (clausesKept_ite ((clausesKept_pushCell h).of_eq rfl rfl) (clausesKept_takePinned (clausesKept_pushCell h)))
    (clausesKept_pushCell h)

/-- A segment on a pinned path passes no resequencer. -/
theorem clausesKept_enqueue {d : GCell} (h : ClausesKept s t) (hd : d.seg.hdr.spray = false) : ClausesKept s (enqueue t d) := by
  unfold enqueue
  rw [hd]
  split
  · split
    · contradiction
    · contradiction
    · exact clausesKept_pushCell h
    · exact clausesKept_pinnedIn h
  · exact clausesKept_pushCell h

theorem clausesKept_enterRouted {d : GCell} (h : ClausesKept s t) (hd : d.seg.hdr.spray = false) : ClausesKept s (enterRouted t d) := by
  unfold enterRouted
  split
  · exact clausesKept_ite (clausesKept_enqueue h hd)
      (clausesKept_ite (h.of_eq rfl rfl) (clausesKept_ite (h.of_eq rfl rfl) (clausesKept_enqueue (h.of_eq rfl rfl) hd)))
  · exact clausesKept_enqueue h hd

theorem clausesKept_enterAs {reply : Bool} {d : GCell} (h : ClausesKept s t) (hd : d.seg.hdr.spray = false) :
    ClausesKept s (enterAs reply t d) := by
  have hnum (u : State) : numbered u d = (u, d) := by simp [numbered, hd]
  have hin : ClausesKept s (if stored t d then t else bump t (GND_FLITS_IN d.slice)) := clausesKept_ite h (clausesKept_bump h (by decide))
  unfold enterAs
  simp only [hnum]
  exact clausesKept_ite (clausesKept_ite (clausesKept_pushCell hin) (clausesKept_enterRouted hin hd)) (h.of_eq rfl rfl)

theorem spray_of_mem_segs {m : Msg} {q : Nat} {g : Seg} (h : g ∈ m.segs q) : g.hdr.spray = m.hdr.spray := by
  obtain ⟨x, _, rfl⟩ := List.mem_map.mp h
  rfl

theorem clausesKept_emitSeg {reply first : Bool} {o : Origin} {g : Seg} (h : ClausesKept s t) (hg : g.hdr.spray = false) :
    ClausesKept s (emitSeg reply t o g first) := by
  unfold emitSeg
  dsimp only
  split
  · exact clausesKept_deadTarget h
  · exact clausesKept_enterAs h hg

theorem clausesKept_emit {o : Origin} {m : Msg} (h : ClausesKept s t) (hm : m.hdr.spray = false) : ClausesKept s (emit o m t) := by
  refine clausesKept_ite (clausesKept_foldl _ (fun u g hg hu => clausesKept_emitSeg hu ?_) h) (clausesKept_deadTarget h)
  rw [spray_of_mem_segs (List.fst_mem_of_mem_zipIdx hg), hm]

/-- R64, R65: a message between coordinator and participant. -/
theorem clausesKept_toSwitch {sw op : Nat} {pay : Bytes} (h : ClausesKept s t) : ClausesKept s (toSwitch sw op pay t) :=
  clausesKept_emit h rfl

theorem clausesKept_sendVote {yes : Bool} (h : ClausesKept s t) : ClausesKept s (sendVote c yes t) := clausesKept_toSwitch h

theorem clausesKept_recordDecision {commit : Bool} {at_ : Nat} (h : ClausesKept s t) :
    ClausesKept s (recordDecision c commit at_ t) :=
  clausesKept_foldl _ (fun _ _ _ => clausesKept_toSwitch)
    (clausesKept_ite (h.of_eq rfl rfl) (clausesKept_ite (h.of_eq rfl rfl) h))

end Sys2Proof.Machine
end

section
/-! PROOFS. What an abort leaves of a clause without work of a home (R58 to R60, R64). -/

namespace Sys2Proof.Machine

variable {s t : State} {c reason : Nat}

/-- Where nothing is reserved for a clause and no entry is an action of the homes, an abort only gives back what the homes hold. -/
theorem undoEntries_of_noHomeWork (doubt : Bool) (h : NoHomeWork s c) : ∃ m, undoEntries c doubt s = { s with mem := m } := by
  obtain ⟨hentries, hreserved⟩ := h
  have hmine : s.mem.reserved.filter (fun x => x.1 == c) = [] := by simpa using fun a b d e hx => hreserved _ hx
  have hnone : ∀ e ∈ ((clsOf s c).entries.take (clsOf s c).passed).reverse, (e.isAction && homeAction e.code e.page) = false :=
    fun e he => Bool.eq_false_iff.mpr (List.any_eq_false.mp hentries e (List.mem_of_mem_take (List.mem_reverse.mp he)))
  have hfold : (((clsOf s c).entries.take (clsOf s c).passed).reverse.foldl
      (fun s e => if e.isAction && homeAction e.code e.page then homeUndo c e.code e.desc doubt s else s) s) = s :=
    List.foldlRecOn (motive := fun u => u = s) _ _ rfl fun u hu e he => by rw [hnone e he]; exact hu
  refine ⟨{ s.mem with reserved := s.mem.reserved.filter (fun x => x.1 != c), held := s.mem.held.filter (fun x => x.1 != c) }, ?_⟩
  rw [undoEntries, hfold]
  simp [pubLapse, releaseHeld, modMem, hmine]

/-- The clause has left its guard interval. -/
def guardLeft (c : Nat) (s : State) : State := modCls c (fun x => { x with delayed := [], inGuard := false }) s

/-- The writes that a guard interval held fall due (R58). -/
theorem releaseWrites_eq (c : Nat) (s : State) : ∃ ds, releaseWrites c s = { guardLeft c s with dues := ds } := by
  rw [releaseWrites]
  refine List.foldlRecOn (motive := fun u : State => ∃ ds, u = { guardLeft c s with dues := ds }) _ _ ⟨s.dues, rfl⟩ ?_
  rintro u ⟨ds, rfl⟩ w -
  exact ⟨ds ++ [.write w.1 w.2], rfl⟩

/-- The clause has lost what it held, and its registers are still as they were. -/
def stripped (c reason : Nat) (s : State) : State :=
  modCls c (fun x => { x with passed := 0, checked := false }) (releaseWrites c (undoEntries c (reason == 0x16) s))

theorem stripped_eq (reason : Nat) (h : NoHomeWork s c) :
    (let u := stripped c reason s; u = { s with cls := u.cls, mem := u.mem, dues := u.dues, reply := u.reply })
      ∧ (clsOf (stripped c reason s) c).entries = (clsOf s c).entries := by
  obtain ⟨m, hm⟩ := undoEntries_of_noHomeWork (reason == 0x16) h
  obtain ⟨ds, hds⟩ := releaseWrites_eq c { s with mem := m }
  rw [stripped, hm, hds]
  refine ⟨rfl, ?_⟩
  simp [modCls, guardLeft, clsOf, setCls]

/-- The registers of an abort: the clause's state and reason, and the count (R60). -/
def abortRegs (c reason : Nat) (u : State) : State :=
  bump (wrF (setClsState c csABORTED u) (CLS_STATE c) CLS_STATE_REASON reason) CLS_ABORTS

theorem abortRegs_frame (c reason : Nat) (u : State) : abortRegs c reason u = { u with regs := (abortRegs c reason u).regs } := rfl

theorem rdReg_abortRegs_state (c reason : Nat) (u : State) : rdReg (abortRegs c reason u) (CLS_STATE c)
    = CLS_STATE_REASON.set (CLS_STATE_STATE.set (rdReg u (CLS_STATE c)) csABORTED) reason := by
  rw [abortRegs, rdReg_bump, if_neg (cls_aborts_ne_state c).symm, rdReg_wrF, if_pos rfl, setClsState, rdReg_wrF, if_pos rfl]

theorem rdReg_abortRegs_aborts (c reason : Nat) (u : State) : rdReg (abortRegs c reason u) CLS_ABORTS = rdReg u CLS_ABORTS + 1 := by
  have hne := cls_aborts_ne_state c
  rw [abortRegs, rdReg_bump, if_pos rfl, rdReg_wrF, if_neg hne, rdReg_setClsState_other _ _ _ hne]
  rfl

theorem rdReg_abortRegs_other {a : Nat} (u : State) (hstate : a ≠ CLS_STATE c) (haborts : a ≠ CLS_ABORTS) :
    rdReg (abortRegs c reason u) a = rdReg u a := by
  rw [abortRegs, rdReg_bump, if_neg haborts, rdReg_wrF, if_neg hstate, rdReg_setClsState_other _ _ _ hstate]

theorem abortRegs_aborted {u : State} (hu : u = { s with cls := u.cls, mem := u.mem, dues := u.dues, reply := u.reply })
    (hentries : (clsOf u c).entries = (clsOf s c).entries) (hreason : reason < 2 ^ 8) : Aborted s (abortRegs c reason u) c reason := by
  have hregs : u.regs = s.regs := by rw [hu]
  refine ⟨?state, ?reason, ?aborts, hentries, fun _ => ⟨?frame, fun a ha => ?regs⟩⟩
  case state =>
    rw [clsState, rdF, rdReg_abortRegs_state, Fld.get_set_other _ _ _ _ (by decide), Fld.get_set_same _ _ _ (by decide)]
    rfl
  case reason =>
    rw [rdF, rdReg_abortRegs_state, Fld.get_set_same _ _ _ (by decide)]
    exact Nat.mod_eq_of_lt hreason
  case aborts => rw [rdReg_abortRegs_aborts, rdReg_congr hregs]
  case frame => exact (abortRegs_frame c reason u).trans (congrArg (fun v : State => { v with regs := (abortRegs c reason u).regs }) hu)
  case regs =>
    obtain ⟨hstate, haborts⟩ : a ≠ CLS_STATE c ∧ a ≠ CLS_ABORTS := by simpa using ha
    rw [rdReg_abortRegs_other u hstate haborts, rdReg_congr hregs]
    rfl

/-- The clause has aborted, and its coordinator or participant has not yet spoken. -/
def abortedAlone (c reason : Nat) (s : State) : State := abortRegs c reason (stripped c reason s)

theorem abortedAlone_aborted (h : NoHomeWork s c) (hreason : reason < 2 ^ 8) : Aborted s (abortedAlone c reason s) c reason := by
  obtain ⟨hs, hentries⟩ := stripped_eq reason h
  exact abortRegs_aborted hs hentries hreason

theorem rdReg_abortedAlone_cond (reason : Nat) (h : NoHomeWork s c) :
    rdReg (abortedAlone c reason s) (CLS_COND c) = rdReg s (CLS_COND c) := by
  obtain ⟨hs, -⟩ := stripped_eq reason h
  rw [abortedAlone, rdReg_abortRegs_other _ (cls_cond_ne_state c) (cls_cond_ne_aborts c)]
  exact rdReg_congr (by rw [hs]) _

/-- R64: after its abort a coordinator sends its decision and a participant that validates its vote; a local clause sends nothing. -/
theorem clauseAbort_of_live (hlive : clsLive s c = true) (hreason : reason ≠ 0x18) :
    ClausesKept (abortedAlone c reason s) (clauseAbort c reason s)
      ∧ (clsRole (abortedAlone c reason s) c = 0 → clauseAbort c reason s = abortedAlone c reason s) := by
  have hrefl := clausesKept_refl (abortedAlone c reason s)
  have heq : clauseAbort c reason s =
      if clsRole (abortedAlone c reason s) c = 1 then
        match outcomeOf (abortedAlone c reason s) (clsGid (abortedAlone c reason s) c) with
        | some o => if o.decided.isSome then abortedAlone c reason s else recordDecision c false 0 (abortedAlone c reason s)
        | none => recordDecision c false 0 (abortedAlone c reason s)
      else if clsRole (abortedAlone c reason s) c = 2 ∧ clsState s c = csVALIDATING ∧ reason ≠ 0x15 then
        sendVote c false (abortedAlone c reason s)
      else abortedAlone c reason s := by
    simp only [clauseAbort, hlive, hreason, Bool.not_true, Bool.false_eq_true, if_false]
    rfl
  rw [heq]
  constructor
  · refine clausesKept_ite ?_ (clausesKept_ite (clausesKept_sendVote hrefl) hrefl)
    split
    · exact clausesKept_ite hrefl (clausesKept_recordDecision hrefl)
    · exact clausesKept_recordDecision hrefl
  · intro hrole
    rw [hrole]
    simp

/-- The facts of an abort that a role beyond the local one leaves open. -/
theorem Aborted.of_regs {u : State} (h : Aborted s t c reason) (hrole : clsRole s c ≠ 0) (hcls : u.cls = t.cls)
    (hstate : rdReg u (CLS_STATE c) = rdReg t (CLS_STATE c)) (haborts : rdReg u CLS_ABORTS = rdReg t CLS_ABORTS) :
    Aborted s u c reason := by
  obtain ⟨hst, hreason, hcount, hentries, _⟩ := h
  refine ⟨?_, ?_, haborts.trans hcount, ?_, fun h0 => absurd h0 hrole⟩
  · rw [clsState_congr hstate, hst]
  · rw [rdF, hstate, ← rdF, hreason]
  · rw [clsOf_congr hcls, hentries]

/-- R60: an abort of a live clause without work of a home. -/
theorem clauseAbort_aborted (hc : c < 16) (hlive : clsLive s c = true) (h : NoHomeWork s c) (hreason : reason < 0x18) :
    Aborted s (clauseAbort c reason s) c reason := by
  obtain ⟨hkept, hlocal⟩ := clauseAbort_of_live (c := c) (reason := reason) hlive (by omega)
  have halone : Aborted s (abortedAlone c reason s) c reason := abortedAlone_aborted h (by omega)
  by_cases hrole : clsRole s c = 0
  · rw [hlocal (by rw [clsRole_congr (rdReg_abortedAlone_cond reason h), hrole])]
    exact halone
  · exact halone.of_regs hrole hkept.1 (hkept.state hc) hkept.aborts

/-- The answer to a command that aborts a clause. -/
theorem Aborted.okReply (h : Aborted s t c reason) : Aborted s (okReply t) c reason := by
  obtain ⟨hst, hreason, hcount, hentries, hlocal⟩ := h
  refine ⟨hst, hreason, hcount, hentries, fun h0 => ?_⟩
  obtain ⟨hframe, hregs⟩ := hlocal h0
  exact ⟨congrArg (Machine.okReply ·) hframe, hregs⟩

end Sys2Proof.Machine
end

section
/-! PROOFS. O37 and O38: a clause opens, takes entries, is sealed, ends and is released (R48 to R52, R60, R61). -/

namespace Sys2Proof.Machine

variable {s t : State} {c : Nat}

/-! ### CLS_ALLOC (R49) -/

/-- The lowest slot that CLS_ALLOC may take. -/
theorem find_freeSlot (hon : ∀ i < 16, unitOn s grCLS i = true) (hc : c < 16) (hfree : clsState s c = csFREE)
    (hlow : ∀ i < c, clsState s i ≠ csFREE) :
    (List.range 16).find? (fun i => clsState s i == csFREE && unitOn s grCLS i) = some c := by
  rw [List.find?_range_eq_some]
  refine ⟨by simp [hfree, hon c hc], List.mem_range.mpr hc, fun i hi => by simp [hlow i hi]⟩

theorem find_noFreeSlot (hused : ∀ i < 16, clsState s i ≠ csFREE) :
    (List.range 16).find? (fun i => clsState s i == csFREE && unitOn s grCLS i) = none := by
  rw [List.find?_range_eq_none]
  intro i hi
  simp [hused i hi]

/-- The word that names a new clause across devices. -/
def newGid (s : State) (c : Nat) : Word :=
  CLS_GLOBAL_ID_SERIAL.set (CLS_GLOBAL_ID_COORD_SLOT.set (CLS_GLOBAL_ID_COORD_SWITCH.set 0 (ownId s)) c) s.serial

/-- The registers of a slot that opens. -/
def openedRegs (s : State) (c : Nat) : State :=
  wrReg (wrReg (setCls s c { opened := now s }) (CLS_STATE c) (CLS_STATE_STATE.set 0 csOPEN)) (CLS_GLOBAL_ID c) (newGid s c)

theorem clsState_openedRegs (s : State) (c : Nat) : clsState (openedRegs s c) c = csOPEN := by
  rw [clsState, openedRegs, rdF_wrReg_other _ _ _ (cls_gid_ne_state c).symm, rdF, rdReg_wrReg_same, Fld.get_set_same _ _ _ (by decide)]
  rfl

theorem rdReg_openedRegs_other {a : Nat} (s : State) (hstate : a ≠ CLS_STATE c) (hgid : a ≠ CLS_GLOBAL_ID c) :
    rdReg (openedRegs s c) a = rdReg s a := by
  rw [openedRegs, rdReg_wrReg_other _ _ hgid, rdReg_wrReg_other _ _ hstate]
  rfl

theorem clsAlloc_of_free (h : (List.range 16).find? (fun i => clsState s i == csFREE && unitOn s grCLS i) = some c) :
    clsAlloc s = okReply { openedRegs s c with serial := (s.serial + 1) % 2 ^ 32 }
      (CLS_ALLOC_SERIAL.set (CLS_ALLOC_SLOT.set 0 c) s.serial) := by
  simp only [clsAlloc, h]
  rfl

theorem clsAlloc_of_full (h : (List.range 16).find? (fun i => clsState s i == csFREE && unitOn s grCLS i) = none) :
    clsAlloc s = okReply s (CLS_ALLOC_SLOT.set 0 0x1F) := by
  simp only [clsAlloc, h]

/-- Settles O37: the slot that the search finds, and the fields of the answer. -/
theorem clauseOpens : Obligations.ClauseOpens := by
  unfold Obligations.ClauseOpens
  refine ⟨fun s c hon hc hfree hlow => ?free, fun s _ hused => ?full⟩
  case free =>
    refine ⟨_, congrArg done (clsAlloc_of_free (find_freeSlot hon hc hfree hlow)), rfl, ?slot, ?serial, rfl, ?state,
      ?opened, ?entries, fun i hi => clsOf_setCls_other s c _ hi, rfl, fun a ha => ?regs⟩
    case slot =>
      rw [okReply_reply, Fld.get_set_other _ _ _ _ (by decide), Fld.get_set_same _ _ _ (by decide)]
      exact Nat.mod_eq_of_lt (Nat.lt_trans hc (by decide))
    case serial => rw [okReply_reply, Fld.get_set_same _ _ _ (by decide)]; rfl
    case state => exact (clsState_congr rfl).trans (clsState_openedRegs s c)
    case opened => exact congrArg Clause.opened (clsOf_setCls_same s c _)
    case entries => exact congrArg Clause.entries (clsOf_setCls_same s c _)
    case regs =>
      obtain ⟨hstate, hgid⟩ : a ≠ CLS_STATE c ∧ a ≠ CLS_GLOBAL_ID c := by simpa using ha
      exact rdReg_openedRegs_other s hstate hgid
  case full =>
    refine ⟨_, congrArg done (clsAlloc_of_full (find_noFreeSlot hused)), rfl, ?_, rfl⟩
    rw [okReply_reply, Fld.get_set_same _ _ _ (by decide)]
    rfl

/-! ### CLS_STAGE_DATA (R48, R50) -/

/-- The entry that a write of CLS_STAGE_DATA adds. -/
def stagedEntry (s : State) (c : Nat) (w : Word) : Entry :=
  { addr := rdReg s (CLS_STAGE_ADDR c), mask := rdReg s (CLS_STAGE_MASK c), data := w }

/-- The state once the entry stands in the clause. -/
def staged (s : State) (c : Nat) (w : Word) : State :=
  wrReg (wrF (setCls s c { clsOf s c with entries := (clsOf s c).entries ++ [stagedEntry s c w] }) (CLS_STATE c) CLS_STATE_ENTRIES
    ((clsOf s c).entries.length + 1)) (CLS_STAGE_MASK c) (BitVec.allOnes 64)

theorem rdF_staged_entries (w : Word) (h : (clsOf s c).entries.length < 4096) :
    rdF (staged s c w) (CLS_STATE c) CLS_STATE_ENTRIES = (clsOf s c).entries.length + 1 := by
  rw [staged, rdF_wrReg_other _ _ _ (cls_stageMask_ne_state c).symm, rdF_wrF_same _ _ _ _ (by decide)]
  exact Nat.mod_eq_of_lt (Nat.lt_of_le_of_lt h (by decide))

theorem rdReg_staged_other {a : Nat} (w : Word) (hstate : a ≠ CLS_STATE c) (hmask : a ≠ CLS_STAGE_MASK c) :
    rdReg (staged s c w) a = rdReg s a := by
  rw [staged, rdReg_wrReg_other _ _ hmask, rdReg_wrF, if_neg hstate]
  rfl

theorem stageData_of_room (w : Word) (hopen : clsState s c = csOPEN) (h : (clsOf s c).entries.length < 4096) :
    stageData c w s = okReply (staged s c w) := by
  simp only [stageData, hopen, ne_eq, not_true_eq_false, if_false, if_neg (Nat.not_le.mpr h)]
  rfl

theorem stageData_of_full (w : Word) (hopen : clsState s c = csOPEN) (h : 4096 ≤ (clsOf s c).entries.length) :
    stageData c w s = okReply (clauseAbort c 0x03 s) := by
  simp only [stageData, hopen, ne_eq, not_true_eq_false, if_false, if_pos h]

/-! ### SEAL (R52, R64) -/

/-- The clause is sealed, and its participant has not yet spoken. -/
def sealedAlone (s : State) (c : Nat) : State :=
  setClsState c csSEALED (modCls c (fun x => { x with dig := shake256 (clauseText s c) 32 }) s)

/-- R64: a participant tells its coordinator. -/
def prepared (c : Nat) (d : Bytes) (s : State) : State :=
  if clsRole s c = 2 ∧ idAssigned s then
    toSwitch (coordSwitch s c) cPREPARE (leBytes 8 (clsGid s c) ++ leBytes 2 (ownId s) ++ zeros 6 ++ d) s
  else s

theorem clsSeal_of_open (h : clsState s c = csOPEN) :
    clsSeal c s = okReply (tryGlobal c (prepared c (shake256 (clauseText s c) 32) (sealedAlone s c))) := by
  simp only [clsSeal, h, ne_eq, not_true_eq_false, if_false]
  rfl

theorem clsState_sealedAlone (s : State) (c : Nat) : clsState (sealedAlone s c) c = csSEALED :=
  clsState_setClsState _ c (by decide)

theorem clsOf_sealedAlone (s : State) (c : Nat) :
    clsOf (sealedAlone s c) c = { clsOf s c with dig := shake256 (clauseText s c) 32 } :=
  clsOf_setCls_same s c _

theorem clsRole_sealedAlone (s : State) (c : Nat) : clsRole (sealedAlone s c) c = clsRole s c :=
  clsRole_congr (rdReg_setClsState_other _ c _ (cls_cond_ne_state c))

theorem clausesKept_prepared (d : Bytes) (h : ClausesKept s t) : ClausesKept s (prepared c d t) :=
  clausesKept_ite (clausesKept_toSwitch h) h

/-- The global digest is noted in a slot and its CLS_STATE; what the clause was sealed with stays. -/
theorem tryGlobal_keeps (c : Nat) (s : State) : clsState (tryGlobal c s) c = clsState s c
    ∧ (clsOf (tryGlobal c s) c).dig = (clsOf s c).dig ∧ (clsOf (tryGlobal c s) c).entries = (clsOf s c).entries := by
  unfold tryGlobal
  dsimp only
  split
  · refine ⟨rdF_wrF_field _ _ _ _ _ (by decide), ?_, ?_⟩
    · rw [clsOf_congr (wrF_cls _ _ _ _), clsOf_setCls_same]
    · rw [clsOf_congr (wrF_cls _ _ _ _), clsOf_setCls_same]
  · exact ⟨rfl, rfl, rfl⟩

theorem tryGlobal_of_not_coordinator (h : clsRole s c ≠ 1) : tryGlobal c s = s := by
  simp [tryGlobal, h]

/-- A local clause has neither coordinator nor participants. -/
theorem clsSeal_local (h : clsState s c = csOPEN) (hrole : clsRole s c = 0) : clsSeal c s = okReply (sealedAlone s c) := by
  have hrole' : clsRole (sealedAlone s c) c = 0 := (clsRole_sealedAlone s c).trans hrole
  rw [clsSeal_of_open h, prepared, if_neg (by simp [hrole']), tryGlobal_of_not_coordinator (by simp [hrole'])]

/-- What a sealed clause is, whatever its role. -/
theorem clsSeal_effect (hc : c < 16) (h : clsState s c = csOPEN) : clsState (clsSeal c s) c = csSEALED
    ∧ (clsOf (clsSeal c s) c).dig = shake256 (clauseText s c) 32 ∧ (clsOf (clsSeal c s) c).entries = (clsOf s c).entries := by
  rw [clsSeal_of_open h]
  have hkept := clausesKept_prepared (c := c) (shake256 (clauseText s c) 32) (clausesKept_refl (sealedAlone s c))
  obtain ⟨hstate, hdig, hentries⟩ := tryGlobal_keeps c (prepared c (shake256 (clauseText s c) 32) (sealedAlone s c))
  have hclause := (clsOf_congr hkept.1 c).trans (clsOf_sealedAlone s c)
  refine ⟨hstate.trans ?_, hdig.trans ?_, hentries.trans ?_⟩
  · rw [clsState_congr (hkept.state hc), clsState_sealedAlone]
  · rw [hclause]
  · rw [hclause]

/-! ### RELEASE (Table CTL-6) -/

theorem sget_skeep {α : Type} (d : Nat → α) (p : Nat → Bool) (m : SMap α) (k : Nat) :
    sget d (skeep p m) k = if p k then sget d m k else d k := by
  induction m with
  | nil => simp [skeep, sget]
  | cons e m ih =>
    obtain ⟨j, v⟩ := e
    by_cases hj : j = k
    · subst hj
      by_cases hp : p j
      · simp [skeep, sget, hp]
      · simpa [skeep, sget, hp] using ih
    · by_cases hp : p j
      · simpa [skeep, sget, hp, hj] using ih
      · simpa [skeep, sget, hp, hj] using ih

/-- The registers of a slot beyond the header return to their reset values. -/
def slotReg (c a : Nat) : Bool := csrGroup a == grCLS && csrUnit a == c && 0x100 ≤ csrOff a

/-- The slot is free. -/
def released (s : State) (c : Nat) : State := { s with cls := sdel s.cls c, regs := skeep (fun a => !slotReg c a) s.regs }

theorem clsRelease_of_ended (h : clsState s c = csABORTED ∨ clsState s c = csCOMMITTED) : clsRelease c s = okReply (released s c) :=
  if_pos h.symm

theorem rdReg_released (s : State) (c a : Nat) : rdReg (released s c) a = if slotReg c a then regReset a else rdReg s a := by
  rw [rdReg, released, sget_skeep]
  cases slotReg c a <;> rfl

theorem slotReg_state {c : Nat} (h : c < 16) : slotReg c (CLS_STATE c) = true := by
  have hgroup : csrGroup (CLS_STATE c) = grCLS := csrGroup_csrAddr (by omega) (by decide) (by decide)
  have hunit : csrUnit (CLS_STATE c) = c := csrUnit_csrAddr (by omega) (by decide) (by decide)
  have hoff : csrOff (CLS_STATE c) = 0x108 := csrOff_csrAddr (by decide)
  simp [slotReg, hgroup, hunit, hoff]

theorem regReset_state_free : ∀ c < 16, CLS_STATE_STATE.get (regReset (CLS_STATE c)) = csFREE := by decide +kernel

theorem clsState_released (s : State) {c : Nat} (h : c < 16) : clsState (released s c) c = csFREE := by
  rw [clsState, rdF, rdReg_released, if_pos (slotReg_state h), regReset_state_free c h]

/-! ### ABORT, timeouts and refusals (Table CTL-6, R60) -/

theorem clsLive_of_state (h : 1 ≤ clsState s c) (h5 : clsState s c ≤ 5) : clsLive s c = true := by
  simp [clsLive, h, h5]

/-- Settles O38, one command after another. -/
theorem clauseStaging : Obligations.ClauseStaging := by
  unfold Obligations.ClauseStaging
  refine ⟨fun s c w hc hopen hroom => ?stage, fun s c w hc hopen hfull hno => ?capacity, fun s c hc hopen => ?sealing,
    fun s c hc hno => ⟨fun hst => ?abort, fun hst => ?timeout⟩, fun s c hc hst => ?release, fun s c w hc hst => ?refused⟩
  case stage =>
    refine ⟨_, congrArg done (stageData_of_room w hopen hroom), rfl, ?entries, ?count, ?mask,
      fun i hi => clsOf_setCls_other s c _ hi, rfl, fun a ha => ?regs⟩
    case entries => exact congrArg Clause.entries (clsOf_setCls_same s c _)
    case count => rw [rdF_congr (okReply_regs _ _), rdF_staged_entries w hroom]
    case mask => rw [rdReg_congr (okReply_regs _ _), staged, rdReg_wrReg_same]
    case regs =>
      obtain ⟨hstate, hmask⟩ : a ≠ CLS_STATE c ∧ a ≠ CLS_STAGE_MASK c := by simpa using ha
      rw [rdReg_congr (okReply_regs _ _), rdReg_staged_other w hstate hmask]
      rfl
  case capacity =>
    have hlive : clsLive s c = true := clsLive_of_state (by rw [hopen]; decide) (by rw [hopen]; decide)
    exact ⟨_, congrArg done (stageData_of_full w hopen hfull), okReply_reply _ _,
      (clauseAbort_aborted hc hlive hno (by decide)).okReply⟩
  case sealing =>
    obtain ⟨hstate, hdig, hentries⟩ := clsSeal_effect hc hopen
    refine ⟨clsSeal c s, rfl, ?reply, hstate, hdig, hentries, fun hrole => ?alone⟩
    case reply => rw [clsSeal_of_open hopen, okReply_reply]
    case alone =>
      rw [clsSeal_local hopen hrole]
      refine ⟨clsOf_sealedAlone s c, rfl, fun a ha => ?_⟩
      exact rdReg_setClsState_other _ c _ (by simpa using ha)
  case abort =>
    have hlive : clsLive s c = true := by
      rcases hst with h | h | h | ⟨h, -⟩ <;> exact clsLive_of_state (by rw [h]; decide) (by rw [h]; decide)
    have hcmd : clsAbortCmd c s = okReply (clauseAbort c 0x01 s) := if_pos (by simpa using hst)
    exact ⟨_, congrArg done hcmd, okReply_reply _ _, (clauseAbort_aborted hc hlive hno (by decide)).okReply⟩
  case timeout =>
    have hlive : clsLive s c = true := by
      rcases hst with h | h <;> exact clsLive_of_state (by rw [h]; decide) (by rw [h]; decide)
    exact ⟨_, congrArg done (if_pos hst), clauseAbort_aborted hc hlive hno (by decide)⟩
  case release =>
    refine ⟨_, congrArg done (clsRelease_of_ended hst), rfl, clsState_released s hc, sget_sdel_same _ _ _,
      fun i hi => sget_sdel_other _ _ hi, fun a ha => ?_, rfl⟩
    have hout : slotReg c a = false := by
      rcases ha with h | h <;> simp [slotReg, h]
    exact (rdReg_released s c a).trans (by rw [hout]; rfl)
  case refused =>
    have hopen : clsState s c ≠ csOPEN := by rw [hst]; decide
    have hended : ¬(clsState s c = csCOMMITTED ∨ clsState s c = csABORTED) := by rw [hst]; decide
    exact ⟨congrArg done (if_pos hopen), congrArg done (if_pos hopen), congrArg done (if_neg hended)⟩

end Sys2Proof.Machine
end

section
/-! PROOFS. O40: a clause across devices (R58, R64 to R66). -/

namespace Sys2Proof.Machine

variable {s t : State} {c : Nat} {m : Msg}

/-! ### A CTRL message reaches the switch (R272, R273) -/

/-- In an idle ground nothing is delivered, and nothing that waited goes on. -/
theorem takeDelivered_of_idle (o : Out) (m : Msg) (h : GroundIdle s) : takeDelivered s o m = s := by
  obtain ⟨hdelivered, hwaiting, hreply⟩ := h
  have hnone : s.ground.cells.countP (fun x => x.hold == .reply) = 0 := by
    rw [List.countP_eq_zero]
    simpa using hreply
  have hdetach : detachDelivered s o m = ([], s) := by simp [detachDelivered, deliveredMsg, hdelivered]
  have hground : { s with ground := { s.ground with waiting := [] } } = s := by rw [← hwaiting]
  rw [takeDelivered, hdetach]
  simp only [freeCells, List.foldl_nil, drainWaiting, hnone, hwaiting, reenter, takeWaiting]
  exact hground

theorem atSwitch_of_ctrlMsg (prg : Nat) (k : State → State) (h : CtrlMsg s m) : atSwitch prg (m.as tCTRL) k s = k s := by
  obtain ⟨⟨hint, hdst, hidle⟩, -, htc⟩ := h
  simp [atSwitch, takeDelivered_of_idle _ _ hidle, Msg.as, Msg.tcOk, hint, hdst, htc]

/-! ### The clause that a message names -/

theorem clauseByGid_spec {role gid : Nat} (h : clauseByGid s role gid = some c) : clsLive s c = true ∧ clsRole s c = role := by
  have hfound := List.find?_some h
  simp only [Bool.and_eq_true, beq_iff_eq] at hfound
  exact hfound.1

/-- What an abort finds in a clause does not depend on votes that it holds. -/
theorem noHomeWork_setCls {x : Clause} (h : NoHomeWork s c) (hx : x.entries = (clsOf s c).entries) : NoHomeWork (setCls s c x) c := by
  obtain ⟨hentries, hreserved⟩ := h
  exact ⟨by rw [clsOf_setCls_same, hx, hentries], hreserved⟩

theorem Aborted.of_setCls {x : Clause} {reason : Nat} (h : Aborted (setCls s c x) t c reason) (hx : x.entries = (clsOf s c).entries)
    (hrole : clsRole s c ≠ 0) : Aborted s t c reason := by
  obtain ⟨hst, hreason, hcount, hentries, -⟩ := h
  exact ⟨hst, hreason, hcount, by rw [hentries, clsOf_setCls_same, hx], fun h0 => absurd h0 hrole⟩

/-! ### The coordinator (R64) -/

/-- While PREPAREs are missing the global digest is not formed. -/
theorem tryGlobal_of_missing (h : (clsOf s c).preps.length ≠ clsPeers s c) : tryGlobal c s = s := by
  simp [tryGlobal, h]

/-- While PREPAREs are missing nothing is decided. -/
theorem tryDecide_of_missing (h : (clsOf s c).preps.length ≠ clsPeers s c) : tryDecide c s = s := by
  simp [tryDecide, h]

/-- The clause with the PREPARE of a message. -/
def withPrepare (m : Msg) (x : Clause) : Clause :=
  { x with preps := x.preps ++ [(leAt m.pay 8 2 % 4096, bslice (m.pay.drop 16) 0 32)] }

/-- A PREPARE of a new switch for which there is room is held, and validation begins with the one that completes the global digest. -/
theorem prepareIn_of_room (hgid : clauseByGid s 1 (leAt m.pay 0 8) = some c) (hopen : (clsOf s c).commitAt = none)
    (hnew : ((clsOf s c).preps.any fun x => x.1 == leAt m.pay 8 2 % 4096) = false) (hroom : ¬ clsPeers s c ≤ (clsOf s c).preps.length) :
    prepareIn m s =
      let u := tryGlobal c (setCls s c (withPrepare m (clsOf s c)))
      if clsState u c = csVALIDATING ∧ (clsOf s c).glob = [] ∧ (clsOf u c).glob ≠ [] then validate c u else u := by
  have hcommit : (clsOf s c).commitAt.isSome = false := by rw [hopen]; rfl
  simp only [prepareIn, hgid, hcommit, hnew, hroom, Bool.false_eq_true, if_false]
  rfl

theorem prepareIn_of_missing (hgid : clauseByGid s 1 (leAt m.pay 0 8) = some c) (hopen : (clsOf s c).commitAt = none)
    (hnew : ((clsOf s c).preps.any fun x => x.1 == leAt m.pay 8 2 % 4096) = false) (hmore : (clsOf s c).preps.length + 1 < clsPeers s c) :
    prepareIn m s = setCls s c (withPrepare m (clsOf s c)) := by
  have hglobal : tryGlobal c (setCls s c (withPrepare m (clsOf s c))) = setCls s c (withPrepare m (clsOf s c)) := by
    refine tryGlobal_of_missing ?_
    rw [clsOf_setCls_same, withPrepare, List.length_append]
    exact Nat.ne_of_lt hmore
  rw [prepareIn_of_room hgid hopen hnew (by omega), hglobal]
  dsimp only
  rw [clsOf_setCls_same]
  exact if_neg fun ⟨_, hnone, hsome⟩ => hsome hnone

theorem prepareIn_of_none (hgid : clauseByGid s 1 (leAt m.pay 0 8) = none) :
    prepareIn m s = sendDecision (leAt m.pay 8 2 % 4096) (leAt m.pay 0 8) false 0 s := by
  simp only [prepareIn, hgid]

/-- The clause with the vote of a message. -/
def withVote (m : Msg) (x : Clause) : Clause := { x with votes := x.votes ++ [(m.hdr.src / 4096, bit (leAt m.pay 8 1) 0)] }

/-- The vote of a switch that prepared and has not voted is noted, and a yes vote may decide, a no vote aborts. -/
theorem voteIn_of_prepared (hgid : clauseByGid s 1 (leAt m.pay 0 8) = some c) (hopen : (clsOf s c).commitAt = none)
    (hprep : ((clsOf s c).preps.any fun x => x.1 == m.hdr.src / 4096) = true)
    (hnew : ((clsOf s c).votes.any fun x => x.1 == m.hdr.src / 4096) = false) :
    voteIn m s = if bit (leAt m.pay 8 1) 0 then tryDecide c (setCls s c (withVote m (clsOf s c)))
      else clauseAbort c 0x15 (setCls s c (withVote m (clsOf s c))) := by
  simp [voteIn, hgid, hopen, hprep, hnew, withVote]

theorem coordTimeout_of_missing (hrole : clsRole s c = 1) (hlive : clsLive s c = true) (hopen : (clsOf s c).commitAt = none)
    (hmissing : (clsOf s c).preps.length < clsPeers s c
      ∨ ∃ x ∈ (clsOf s c).preps, ((clsOf s c).votes.any fun v => v.1 == x.1) = false) :
    coordTimeout c s = clauseAbort c 0x02 s := by
  refine if_pos ⟨hrole, hlive, by rw [hopen]; rfl, ?_⟩
  rw [Bool.or_eq_true, decide_eq_true_eq, List.any_eq_true]
  refine hmissing.imp_right fun ⟨x, hx, hv⟩ => ⟨x, hx, ?_⟩
  rw [hv, Bool.not_false]

/-- The acknowledgement of one participant among others. -/
theorem decisionAckIn_of_more {o : Outcome} {x : Bool × Nat} (ho : s.outcomes = [o]) (hgid : o.gid = leAt m.pay 0 8)
    (hx : o.decided = some x) (hmore : o.waiting.filter (fun y => y != m.hdr.src / 4096) ≠ []) :
    decisionAckIn m s = { s with outcomes := [{ o with waiting := o.waiting.filter (fun y => y != m.hdr.src / 4096) }] } := by
  have hfind : outcomeOf s (leAt m.pay 0 8) = some o := by simp [outcomeOf, ho, hgid]
  simp [decisionAckIn, hfind, hx, hmore, ho, hgid]

/-! ### The participant (R64 to R66) -/

/-- R58: a decision that comes more than a microsecond before its commit instant arms the clause. -/
theorem learnDecision_commit {at_ : Nat} (hprep : clsState s c = csPREPARED) (hat : now s + 1000 < at_) :
    learnDecision c true at_ s = setClsState c csARMED (setCls s c { clsOf s c with commitAt := some at_, late := false }) := by
  have hlate : ¬ at_ < now s := by omega
  have hfar : ¬ at_ ≤ now s + 1000 := by omega
  simp only [learnDecision, hprep, hlate, decide_false, Bool.not_true, Bool.false_eq_true, if_false, ne_eq, not_true_eq_false]
  exact if_neg hfar

theorem learnDecision_abort (at_ : Nat) : learnDecision c false at_ s = clauseAbort c 0x15 s := rfl

theorem takeDecision_of_clause {gid at_ : Nat} {commit : Bool} (h : clauseByGid s 2 gid = some c) :
    takeDecision gid commit at_ s = toSwitch (gid % 4096) cDECISION_ACK (leBytes 8 gid) (learnDecision c commit at_ s) := by
  simp only [takeDecision, h]

theorem decisionIn_of_coordinator (h : m.hdr.src / 4096 = leAt m.pay 0 8 % 4096) :
    decisionIn m s = takeDecision (leAt m.pay 0 8) (bit (leAt m.pay 8 1) 0) (leAt m.pay 16 8) s :=
  if_neg (not_not.mpr h)

/-- R66: a prepared clause without decision ends ABORTED, and its source of doubt fires. -/
theorem inDoubt_aborted (hc : c < 16) (hprep : clsState s c = csPREPARED) (hrole : clsRole s c = 2) (hno : NoHomeWork s c) :
    Aborted s (inDoubt c s) c 0x16 ∧ stickySet (inDoubt c s) srcCLS_CLAUSE_IN_DOUBT 16 = true := by
  have hlive : clsLive s c = true := clsLive_of_state (by rw [hprep]; decide) (by rw [hprep]; decide)
  have haborted : Aborted s (clauseAbort c 0x16 s) c 0x16 := clauseAbort_aborted hc hlive hno (by decide)
  have hbit : srcCLS_CLAUSE_IN_DOUBT.bit ≠ 15 := by decide
  have hstate : CLS_STATE c ≠ G_ERR_STICKY grCLS 16 0 := csrAddr_ne_of_off (by decide)
  have haborts : CLS_ABORTS ≠ G_ERR_STICKY grCLS 16 0 := csrAddr_ne_of_off (by decide)
  rw [inDoubt, if_pos hprep]
  refine ⟨haborted.of_regs (by rw [hrole]; decide) ?_ ?_ ?_, stickySet_raise _ _ _ (by decide)⟩
  · rw [raise_frame]
  · exact rdReg_raise_other _ _ _ hstate fun h => absurd h hbit
  · exact rdReg_raise_other _ _ _ haborts fun h => absurd h hbit

theorem outcomeAnswerIn_of_doubt (hsrc : m.hdr.src / 4096 = leAt m.pay 0 8 % 4096) (hgid : clauseByGid s 2 (leAt m.pay 0 8) = some c)
    (hnone : 2 ≤ leAt m.pay 8 1) : outcomeAnswerIn m s = inDoubt c s := by
  have hle : ¬ leAt m.pay 8 1 ≤ 1 := by omega
  simp only [outcomeAnswerIn, hsrc, ne_eq, not_true_eq_false, if_false, hle, hgid]

theorem outcomeAnswerIn_of_decision (hsrc : m.hdr.src / 4096 = leAt m.pay 0 8 % 4096) (hle : leAt m.pay 8 1 ≤ 1) :
    outcomeAnswerIn m s = takeDecision (leAt m.pay 0 8) (leAt m.pay 8 1 == 1) (leAt m.pay 16 8) s := by
  simp only [outcomeAnswerIn, hsrc, ne_eq, not_true_eq_false, if_false, hle, if_true]

/-- Settles O40, one message or timer after another. -/
theorem clauseAcrossDevices : Obligations.ClauseAcrossDevices := by
  unfold Obligations.ClauseAcrossDevices
  refine ⟨fun s prg c m hm hgid hopen hnew hmore => ?prepare, fun s prg m hm hgid => ?refuse,
    fun s prg c m hm hgid hopen hprep hnew hyes t ht => ?yes, fun s prg c m hm hgid hc hopen hprep hnew hvote hno => ?no,
    fun s c hc hlive hrole hopen hmissing hno => ?timeout, fun s prg c m hm hsrc hc hgid hprep hcommit hat => ?commit,
    fun s prg c m hm hsrc hc hgid habort hno => ?abort, fun s prg m o x hm ho hgid hx hmore => ?ack,
    fun s c hprep => congrArg done (if_pos hprep), fun s prg m hm => ⟨fun hnone => ?unknown, fun o b at_ ho hdecided => ?known⟩,
    fun s prg m hm hsrc hle => ?answer, fun s prg c m hm hsrc hc hgid hprep hnone hno => ?doubt,
    fun s c hc hprep hrole hno => ⟨_, rfl, inDoubt_aborted hc hprep hrole hno⟩⟩
  case prepare => exact congrArg done ((atSwitch_of_ctrlMsg prg _ hm).trans (prepareIn_of_missing hgid hopen hnew hmore))
  case refuse => exact congrArg done ((atSwitch_of_ctrlMsg prg _ hm).trans (prepareIn_of_none hgid))
  case yes =>
    have hvote : voteIn m s = tryDecide c t := by
      rw [voteIn_of_prepared hgid hopen hprep hnew, if_pos hyes, ht, withVote, hyes]
    refine ⟨congrArg done ((atSwitch_of_ctrlMsg prg _ hm).trans hvote), fun hmore => tryDecide_of_missing ?_⟩
    rw [ht, clsOf_setCls_same]
    exact Nat.ne_of_lt hmore
  case no =>
    obtain ⟨hlive, hrole⟩ := clauseByGid_spec hgid
    have hin : voteIn m s = clauseAbort c 0x15 (setCls s c (withVote m (clsOf s c))) := by
      rw [voteIn_of_prepared hgid hopen hprep hnew, hvote, if_neg Bool.false_ne_true]
    refine ⟨_, congrArg done ((atSwitch_of_ctrlMsg prg _ hm).trans hin), ?_⟩
    have haborted : Aborted (setCls s c (withVote m (clsOf s c))) (clauseAbort c 0x15 (setCls s c (withVote m (clsOf s c)))) c 0x15 :=
      clauseAbort_aborted hc hlive (noHomeWork_setCls hno rfl) (by decide)
    exact haborted.of_setCls rfl (by rw [hrole]; decide)
  case timeout =>
    exact ⟨_, congrArg done (coordTimeout_of_missing hrole hlive hopen hmissing), clauseAbort_aborted hc hlive hno (by decide)⟩
  case commit =>
    refine congrArg done ((atSwitch_of_ctrlMsg prg _ hm).trans ?_)
    rw [decisionIn_of_coordinator hsrc, takeDecision_of_clause hgid, hcommit, learnDecision_commit hprep hat]
  case abort =>
    obtain ⟨hlive, -⟩ := clauseByGid_spec hgid
    refine ⟨clauseAbort c 0x15 s, clauseAbort_aborted hc hlive hno (by decide),
      congrArg done ((atSwitch_of_ctrlMsg prg _ hm).trans ?_)⟩
    rw [decisionIn_of_coordinator hsrc, takeDecision_of_clause hgid, habort, learnDecision_abort]
  case ack => exact congrArg done ((atSwitch_of_ctrlMsg prg _ hm).trans (decisionAckIn_of_more ho hgid hx hmore))
  case unknown =>
    refine congrArg done ((atSwitch_of_ctrlMsg prg _ hm).trans ?_)
    simp only [outcomeQueryIn, hnone]
  case known =>
    refine congrArg done ((atSwitch_of_ctrlMsg prg _ hm).trans ?_)
    simp only [outcomeQueryIn, ho, hdecided]
  case answer => exact congrArg done ((atSwitch_of_ctrlMsg prg _ hm).trans (outcomeAnswerIn_of_decision hsrc hle))
  case doubt =>
    obtain ⟨-, hrole⟩ := clauseByGid_spec hgid
    exact ⟨_, congrArg done ((atSwitch_of_ctrlMsg prg _ hm).trans (outcomeAnswerIn_of_doubt hsrc hgid hnone)),
      inDoubt_aborted hc hprep hrole hno⟩

end Sys2Proof.Machine
end

section
/-! PROOFS. Device time and the time unit: O2, O15 and O16 (R41, R68 to R72, R480). -/

namespace Sys2Proof.Machine

/-! ### Device time in units of 2^-16 ns -/

/-- A device time is counted exactly as long as its nanoseconds fit 64 bits. -/
theorem fine_stampOf {i : Int} (h0 : 0 ≤ i) (h : i < 2 ^ 80) : (stampOf i).fine = i := by
  have hmod : i % (2 ^ 80 : Nat) = i := Int.emod_eq_of_lt h0 h
  simp only [stampOf, Stamp.fine, hmod]
  omega

theorem stampOf_fine {x : Stamp} (hns : x.ns < 2 ^ 64) (hfrac : x.frac < 2 ^ 16) : stampOf x.fine = x := by
  obtain ⟨ns, frac⟩ := x
  simp only at hns hfrac
  have hmod : (ns * 65536 + frac : Int) % (2 ^ 80 : Nat) = ns * 65536 + frac := Int.emod_eq_of_lt (by omega) (by omega)
  have hquot : (ns * 65536 + frac : Int).toNat / 65536 = ns := by omega
  have hrem : (ns * 65536 + frac : Int).toNat % 65536 = frac := by omega
  simp only [stampOf, Stamp.fine, hmod, hquot, hrem]

/-! ### The tick (R68, R70) -/

theorem slewStep_eq_sign (i : Int) : (if i = 0 then 0 else if 0 < i then 1 else -1 : Int) = i.sign := by
  obtain h | rfl | h := lt_trichotomy i 0
  · rw [Int.sign_eq_neg_one_of_neg h, if_neg h.ne, if_neg h.not_gt]
  · rfl
  · rw [Int.sign_eq_one_of_pos h, if_neg h.ne', if_pos h]

/-- One step of the slew is at most one unit, and takes that much of the correction. -/
theorem sign_step_le (i : Int) : -1 ≤ i.sign ∧ i.sign ≤ 1 ∧ (i - i.sign).natAbs ≤ i.natAbs := by
  obtain h | rfl | h := lt_trichotomy i 0
  · rw [Int.sign_eq_neg_one_of_neg h]; omega
  · decide
  · rw [Int.sign_eq_one_of_pos h]; omega

theorem tick_clk (s : State) : (tick s).clk = stampOf (s.clk.fine + 65536 + s.tim.slew.sign) := by
  rw [← slewStep_eq_sign]; rfl

theorem tick_slew (s : State) : (tick s).tim.slew = s.tim.slew - s.tim.slew.sign := by
  rw [← slewStep_eq_sign]; rfl

/-- Settles O2: the step is the tick, and the slew moves by the sign of what is outstanding. -/
theorem tickAdvancesTime : Obligations.TickAdvancesTime := by
  unfold Obligations.TickAdvancesTime
  intro s hidle hns hfrac
  obtain ⟨hlow, hhigh, hgone⟩ := sign_step_le s.tim.slew
  have hfine : (tick s).clk.fine = s.clk.fine + 65536 + s.tim.slew.sign := by
    rw [tick_clk]
    exact fine_stampOf (by simp only [Stamp.fine]; omega) (by simp only [Stamp.fine]; omega)
  refine ⟨tick s, step_nil hidle, rfl, ?balance, by omega, by omega, by rw [tick_slew]; exact hgone, fun hslew => ?exact, rfl⟩
  case balance =>
    rw [hfine, tick_slew]
    omega
  case exact =>
    have hnext : s.clk.fine + 65536 + s.tim.slew.sign = Stamp.fine ⟨s.clk.ns + 1, s.clk.frac⟩ := by
      rw [hslew, Int.sign_zero]
      simp only [Stamp.fine]
      omega
    rw [tick_clk, tick_slew, hnext, hslew]
    exact ⟨stampOf_fine (by simp only; omega) hfrac, rfl⟩

/-! ### Reads of TIM_NOW, writes of TIM_SET (R41, R68, R70) -/

/-- TIM_SET, as the table of the TIM page lists it. -/
def timSetRow : RegRow := ⟨0x130, 8, 1, [fd 0 64 .wo 0 .const]⟩

theorem regRow?_timSet : regRow? TIM_SET = some timSetRow := by decide +kernel

theorem csrWriteNow_timSet (s : State) (w : Word) : csrWriteNow TIM_SET w s = timSet w s := by
  have hgroup : csrGroup TIM_SET = grTIM := by decide
  have hoff : csrOff TIM_SET = 0x130 := by decide
  have hpark : unitParked s grTIM (csrUnit TIM_SET) = false := rfl
  have hcls : grTIM ≠ grCLS := by decide
  unfold csrWriteNow
  rw [regRow?_timSet]
  simp [hgroup, hoff, hpark, hcls, timSetRow, fd]

theorem csrWrite_timSet {s : State} (w : Word) (h : guardOf s TIM_SET = none) : csrWrite TIM_SET 8 w s = timSet w s := by
  rw [csrWrite_of_guardOf_none _ _ _ h, csrWriteNow_timSet]

theorem timSet_of_unbound {s : State} (w : Word) (h : anyBound s = false) :
    timSet w s = { s with clk := ⟨w.toNat, 0⟩, tim := { s.tim with slew := 0 }, reply := ⟨false, 0⟩ } := by
  rw [timSet, h]; rfl

theorem timSet_of_bound {s : State} (w : Word) (h : anyBound s = true) : timSet w s = { s with reply := ⟨true, 0⟩ } := by
  rw [timSet, h]; rfl

/-! ### What a source that fires leaves (R418) -/

@[simp] theorem raise_clk (f : Src) (u : Nat) (s : State) : (raise f u s).clk = s.clk := by rw [raise_frame]
@[simp] theorem raise_tim (f : Src) (u : Nat) (s : State) : (raise f u s).tim = s.tim := by rw [raise_frame]

/-- No register of a page but the sticky one changes, for a source that is no HANG. -/
theorem rdReg_raise_csrAddr {f : Src} {g p o : Nat} (u u' : Nat) (s : State) (hbit : f.bit ≠ 15) (hoff : o % 4096 ≠ 0x020) :
    rdReg (raise f u s) (csrAddr g u' p o) = rdReg s (csrAddr g u' p o) :=
  rdReg_raise_other f u s (csrAddr_ne_of_off hoff) fun h => absurd h hbit

/-! ### An offset measurement (R70, Table PRK-1) -/

/-- R70: the offset does not exceed ALIGN_LIMIT, which is given in ns. -/
abbrev OffsetWithin (off : Int) (s : State) : Prop := off.natAbs ≤ (1000 * rdF s TIM_LIMITS TIM_LIMITS_ALIGN_LIMIT : Int).natAbs

/-- An offset is shown in TIM_OFFSET, and counts where it exceeds ALIGN_LIMIT. -/
def offsetNoted (off : Int) (within : Prop) [Decidable within] (s : State) : State :=
  let s := wrF s TIM_OFFSET TIM_OFFSET_OFFSET (clampPs off)
  if within then s else bump s TIM_ALIGN_EXCEED

/-- Device time takes the offset at once, or slews it while a domain is bound. -/
def offsetTaken (off : Int) (s : State) : State :=
  if anyBound s then { s with tim := { s.tim with slew := -(off * 65536 / 1000) } }
  else { s with clk := stampOf (s.clk.fine - off * 65536 / 1000), tim := { s.tim with slew := 0 } }

/-- A good measurement continues the run of good ones, and any other the run of bad ones. -/
def counted (within : Prop) [Decidable within] (s : State) : State :=
  { s with tim := { s.tim with good := if within then s.tim.good + 1 else 0, bad := if within then 0 else s.tim.bad + 1 } }

/-- The time unit moves by the run that this measurement continues or begins. -/
def offsetJudged (within : Prop) [Decidable within] (s : State) : State :=
  let st := timState (counted within s)
  let t := if within then dropCause srcTIM_TIME_ALIGN 0 (counted within s) else counted within s
  if st = tsFREE then setTimState { t with tim := { t.tim with good := 0, bad := 0 } } tsACQUIRE
  else if (st = tsACQUIRE ∨ st = tsHOLDOVER) ∧ 16 ≤ (if within then s.tim.good + 1 else 0) then
    setTimState { t with tim := { t.tim with bad := 0 } } tsLOCKED
  else if st = tsLOCKED then
    if (if within then 0 else s.tim.bad + 1) = 4 then raise srcTIM_TIME_ALIGN 0 (addCause srcTIM_TIME_ALIGN 0 0 t) else t
  else t

theorem measure_eq (off : Int) (s : State) :
    measure off s = offsetJudged (OffsetWithin off s) (offsetTaken off (offsetNoted off (OffsetWithin off s) s)) := rfl

/-- Device time, the correction that is outstanding, and the offset shown are the same. -/
def SameOffset (s t : State) : Prop :=
  t.clk = s.clk ∧ t.tim.slew = s.tim.slew ∧ rdF t TIM_OFFSET TIM_OFFSET_OFFSET = rdF s TIM_OFFSET TIM_OFFSET_OFFSET

theorem sameOffset_setTimState {s t : State} {v : Nat} (h : SameOffset s t) : SameOffset s (setTimState t v) := by
  obtain ⟨hclk, hslew, hoff⟩ := h
  exact ⟨hclk, hslew, (rdF_wrF_other _ _ _ _ (by decide)).trans hoff⟩

theorem sameOffset_raise {s t : State} {f : Src} {u : Nat} (hbit : f.bit ≠ 15) (h : SameOffset s t) : SameOffset s (raise f u t) := by
  obtain ⟨hclk, hslew, hoff⟩ := h
  refine ⟨(raise_clk f u t).trans hclk, (congrArg _ (raise_tim f u t)).trans hslew, ?_⟩
  rw [← hoff, rdF, TIM_OFFSET, rdReg_raise_csrAddr _ _ _ hbit (by decide), rdF]

theorem sameOffset_ite {p : Prop} [Decidable p] {s t u : State} (ht : SameOffset s t) (hu : SameOffset s u) :
    SameOffset s (if p then t else u) := by
  split <;> assumption

theorem SameOffset.congr {s t u : State} (h : SameOffset s t) (hclk : u.clk = t.clk) (hslew : u.tim.slew = t.tim.slew)
    (hregs : u.regs = t.regs) : SameOffset s u := by
  obtain ⟨hclk', hslew', hoff⟩ := h
  exact ⟨hclk.trans hclk', hslew.trans hslew', (rdF_congr hregs _ _).trans hoff⟩

/-- Judging a measurement touches neither device time nor the offset shown. -/
theorem sameOffset_offsetJudged (within : Prop) [Decidable within] (s : State) : SameOffset s (offsetJudged within s) := by
  have hrun : SameOffset s (if within then dropCause srcTIM_TIME_ALIGN 0 (counted within s) else counted within s) :=
    sameOffset_ite ⟨rfl, rfl, rfl⟩ ⟨rfl, rfl, rfl⟩
  unfold offsetJudged
  refine sameOffset_ite (sameOffset_setTimState ?acquires) (sameOffset_ite (sameOffset_setTimState ?locks)
    (sameOffset_ite (sameOffset_ite (sameOffset_raise (by decide) ?exceeds) hrun) hrun))
  all_goals exact hrun.congr rfl rfl rfl

theorem clampPs_lt (i : Int) : clampPs i < 2 ^ 32 := by
  simp only [clampPs, wrapInt]
  omega

theorem rdF_offsetNoted (off : Int) (within : Prop) [Decidable within] (s : State) :
    rdF (offsetNoted off within s) TIM_OFFSET TIM_OFFSET_OFFSET = clampPs off := by
  have hshown : rdF (wrF s TIM_OFFSET TIM_OFFSET_OFFSET (clampPs off)) TIM_OFFSET TIM_OFFSET_OFFSET = clampPs off := by
    rw [rdF_wrF_same _ _ _ _ (by decide)]
    exact Nat.mod_eq_of_lt (clampPs_lt off)
  rw [offsetNoted]
  split
  · exact hshown
  · exact (rdF_bump_other _ _ _ (by decide)).trans hshown

/-- Showing an offset binds no domain. -/
theorem anyBound_offsetNoted (off : Int) (within : Prop) [Decidable within] (s : State) :
    anyBound (offsetNoted off within s) = anyBound s := by
  have hid (d : Nat) : domBound (offsetNoted off within s) d = domBound s d := by
    have hoffset : TIM_DOM_ID (d + 1) ≠ TIM_OFFSET := csrAddr_ne_of_off (by decide)
    have hcount : TIM_DOM_ID (d + 1) ≠ TIM_ALIGN_EXCEED := csrAddr_ne_of_off (by decide)
    rw [offsetNoted, domBound, domBound, rdBit, rdBit]
    split
    · rw [rdF_wrF_other _ _ _ _ hoffset]
    · rw [rdF_bump_other _ _ _ hcount, rdF_wrF_other _ _ _ _ hoffset]
  exact congrArg (List.range 4).any (funext hid)

theorem offsetNoted_clk (off : Int) (within : Prop) [Decidable within] (s : State) : (offsetNoted off within s).clk = s.clk := by
  rw [offsetNoted]; split <;> rfl

theorem offsetTaken_regs (off : Int) (s : State) : (offsetTaken off s).regs = s.regs := by
  rw [offsetTaken]; split <;> rfl

/-- R70: what a measurement leaves in TIM_OFFSET, in device time and in the slew. -/
theorem measure_effect (off : Int) (s : State) :
    rdF (measure off s) TIM_OFFSET TIM_OFFSET_OFFSET = clampPs off
      ∧ (anyBound s = false → (measure off s).clk = stampOf (s.clk.fine - off * 65536 / 1000))
      ∧ (anyBound s = true → (measure off s).clk = s.clk ∧ (measure off s).tim.slew = -(off * 65536 / 1000)) := by
  obtain ⟨hclk, hslew, hshown⟩ :=
    sameOffset_offsetJudged (OffsetWithin off s) (offsetTaken off (offsetNoted off (OffsetWithin off s) s))
  rw [measure_eq, hclk, hslew, hshown, rdF_congr (offsetTaken_regs _ _), rdF_offsetNoted, offsetTaken, anyBound_offsetNoted]
  refine ⟨rfl, fun hfree => ?free, fun hbound => ?bound⟩
  case free =>
    rw [hfree, ← offsetNoted_clk off (OffsetWithin off s) s]
    rfl
  case bound =>
    rw [hbound]
    exact ⟨offsetNoted_clk _ _ _, rfl⟩

theorem ptpSync_of_ptp {s : State} (off : Int) (h : rdF s TIM_SOURCE TIM_SOURCE_KIND = 1) : ptpSync off s = measure off s := if_pos h

/-- R69: at a whole second of device time the offset of an edge is 0. -/
theorem ppsEdge_of_wholeSecond {s : State} (h : rdF s TIM_SOURCE TIM_SOURCE_KIND = 2) (hns : s.clk.ns % 1000000000 = 0)
    (hfrac : s.clk.frac = 0) : ppsEdge s = measure 0 s := by
  simp [ppsEdge, h, hns, hfrac]

/-- A measured offset of 0 leaves device time where it is. -/
theorem measure_zero_clk {s : State} (hns : s.clk.ns < 2 ^ 64) (hfrac : s.clk.frac < 2 ^ 16) : (measure 0 s).clk = s.clk := by
  obtain ⟨-, hfree, hbound⟩ := measure_effect 0 s
  cases h : anyBound s with
  | true =>
    obtain ⟨hclk, -⟩ := hbound h
    exact hclk
  | false =>
    rw [hfree h, show s.clk.fine - 0 * 65536 / 1000 = s.clk.fine by omega]
    exact stampOf_fine hns hfrac

/-- A read of TIM_NOW shows device time and latches its fraction. -/
theorem timNowRead_effect {s : State} (hfrac : s.clk.frac < 2 ^ 16) :
    (timNowRead s).reply = ⟨false, BitVec.ofNat 64 s.clk.ns⟩ ∧ rdF (timNowRead s) TIM_FRAC TIM_FRAC_FRAC = s.clk.frac
      ∧ OnlyRegs [TIM_FRAC] s { timNowRead s with reply := s.reply } := by
  refine ⟨rfl, ?frac, onlyRegs_wrReg s TIM_FRAC _⟩
  rw [timNowRead, rdF_congr (okReply_regs _ _), rdF_wrF_same _ _ _ _ (by decide)]
  exact Nat.mod_eq_of_lt hfrac

/-- Settles O15: a read, a write, and the measurements of two sources, each by what it leaves. -/
theorem deviceTime : Obligations.DeviceTime := by
  unfold Obligations.DeviceTime
  refine ⟨fun s hfrac => ⟨timNowRead s, rfl, timNowRead_effect hfrac⟩, fun s w hguard => ⟨fun hfree => ?free, fun hbound => ?bound⟩,
    fun s off hptp => ⟨measure off s, congrArg done (ptpSync_of_ptp off hptp), measure_effect off s⟩,
    fun s hpps hns hsecond hfrac => ⟨measure 0 s, congrArg done (ppsEdge_of_wholeSecond hpps hsecond hfrac), ?offset, ?clk⟩⟩
  case free => exact congrArg done ((csrWrite_timSet w hguard).trans (timSet_of_unbound w hfree))
  case bound => exact congrArg done ((csrWrite_timSet w hguard).trans (timSet_of_bound w hbound))
  case offset =>
    obtain ⟨hshown, -⟩ := measure_effect 0 s
    exact hshown.trans (by decide)
  case clk => exact measure_zero_clk hns (by omega)

/-! ### The states of the time unit (R69, R71, R72), PPS_OUT (R480) and marks (R332) -/

theorem timState_setTimState {v : Nat} (s : State) (hv : v < 4) : timState (setTimState s v) = v :=
  (rdF_wrF_same _ _ _ _ (by decide)).trans (Nat.mod_eq_of_lt hv)

theorem timState_raise {f : Src} (u : Nat) (s : State) (hbit : f.bit ≠ 15) : timState (raise f u s) = timState s :=
  congrArg TIM_STATE_STATE.get (rdReg_raise_csrAddr u 0 s hbit (by decide))

/-- A source of the TIM page that fires as the time unit enters state `v`. -/
theorem raise_setTimState_effect {f : Src} {v : Nat} (s : State) (hbit : f.bit < 15) (hv : v < 4) :
    timState (raise f 0 (setTimState s v)) = v ∧ stickySet (raise f 0 (setTimState s v)) f 0 = true
      ∧ (raise f 0 (setTimState s v)).clk = s.clk :=
  ⟨(timState_raise 0 _ (by omega)).trans (timState_setTimState s hv), stickySet_raise _ _ _ (by omega), raise_clk _ _ _⟩

theorem timHoldover_of_locked {s : State} (h : timState s = tsLOCKED) (hlow : 1 ≤ rdF s TIM_SOURCE TIM_SOURCE_KIND)
    (hhigh : rdF s TIM_SOURCE TIM_SOURCE_KIND ≤ 3) :
    timHoldover s = raise srcTIM_TIME_HOLDOVER 0 (setTimState { s with tim := { s.tim with good := 0, bad := 0 } } tsHOLDOVER) :=
  if_pos ⟨h, hlow, hhigh⟩

theorem timUnlocked_of_holdover {s : State} (h : timState s = tsHOLDOVER) :
    timUnlocked s = raise srcTIM_TIME_UNLOCKED 0 (setTimState { s with tim := { s.tim with good := 0 } } tsFREE) := if_pos h

theorem portOf_setPort_same (s : State) (p : Nat) (x : Port) : portOf (setPort s p x) p = x := sget_sset_same _ _ _ _

theorem onlyPort_setPort (s : State) (p : Nat) (x : Port) : OnlyPort p s (setPort s p x) :=
  ⟨rfl, fun _ hq => sget_sset_other _ _ _ hq⟩

theorem markDue_of_active {s : State} {p : Nat} (h : linkState s p = lsACTIVE) :
    markDue p s = setPort s p { portOf s p with markDue := true } := if_pos h

/-- Settles O16: two states entered with their sources, a pin, and a mark that waits. -/
theorem timeStates : Obligations.TimeStates := by
  unfold Obligations.TimeStates
  refine ⟨fun s hlocked hlow hhigh => ?holdover, fun s hholdover => ?unlocked, fun s => rfl, fun s p hactive => ?mark⟩
  case holdover =>
    exact ⟨_, congrArg done (timHoldover_of_locked hlocked hlow hhigh), raise_setTimState_effect _ (by decide) (by decide)⟩
  case unlocked => exact ⟨_, congrArg done (timUnlocked_of_holdover hholdover), raise_setTimState_effect _ (by decide) (by decide)⟩
  case mark =>
    refine ⟨_, congrArg done (markDue_of_active hactive), ?due, onlyPort_setPort _ _ _⟩
    rw [portOf_setPort_same]

end Sys2Proof.Machine
end

section
/-! PROOFS. O18: gate lists, decision instants, SLIPs and tiles that wait (R78, R82, R88 to R90, R120, R273). -/

namespace Sys2Proof.Machine

variable {s : State} {d n : Nat} {m : Msg}

/-! ### Gate lists (R78) -/

theorem gatePos_setGate_same (s : State) (n : Nat) (g : GatePos) : gatePos (setGate s n g) n = g := sget_sset_same _ _ _ _

/-- In a scheduled round an entry that has one behind it, and is not marked LAST, gives way. -/
theorem gateNext_of_scheduled (hdom : prgDom s n = some d) (hround : inSlip s d = false)
    (hlast : bit (gateEntry s n (bankInForce s d) (gatePos s n).entry) 30 = false) (hroom : (gatePos s n).entry < 255) :
    gateNext s n = setGate s n ⟨(gatePos s n).entry + 1, s.tim.ref⟩ := by
  have hbehind : ¬ 255 ≤ (gatePos s n).entry := by omega
  simp [gateNext, hdom, hround, hlast, hbehind]

/-! ### A decision instant (R88, R120) -/

theorem takeDelivered_of_noneDelivered (o : Out) (m : Msg) (h : s.ground.delivered = []) : takeDelivered s o m = drainWaiting s := by
  simp [takeDelivered, detachDelivered, deliveredMsg, h, freeCells]

/-- In an idle ground nothing that waited goes on. -/
theorem drainWaiting_of_idle (h : GroundIdle s) : drainWaiting s = s := by
  have ⟨hdelivered, _, _⟩ := h
  rw [← takeDelivered_of_noneDelivered (.hub 0) default hdelivered, takeDelivered_of_idle _ _ h]

theorem dropWaitTiles_of_none (p : WaitTile → Bool) (h : s.tiles = []) : dropWaitTiles p s = s := by
  have hnone : { s with tiles := [] } = s := by rw [← h]
  simp [dropWaitTiles, freeCells, h, hnone]

/-- Without a tile that waits none is dropped. -/
theorem dropUnmatched_of_none (d : Nat) (htiles : s.tiles = []) (hidle : GroundIdle s) : dropUnmatched d s = s := by
  rw [dropUnmatched, dropWaitTiles_of_none _ htiles, drainWaiting_of_idle hidle, htiles]
  rfl

theorem domOf_setDom_same (s : State) (d : Nat) (x : Domain) : domOf (setDom s d x) d = x := sget_sset_same _ _ _ _

/-- A domain without regions has none that is late, and its decision instant only notes that the round is decided. -/
theorem decisionInstant_of_noRegions (hbound : domBound s d = true) (hstarted : (domOf s d).started = true)
    (hopen : (domOf s d).decided = false) (hcrgs : domCRGs s d = []) (hprgs : domPRGs s d = []) (htiles : s.tiles = [])
    (hidle : GroundIdle s) : decisionInstant d s = setDom s d { domOf s d with decided := true } := by
  have hdrop (x : Domain) : dropUnmatched d (setDom s d x) = setDom s d x := dropUnmatched_of_none d htiles hidle
  simp [decisionInstant, hbound, hstarted, hopen, hcrgs, hprgs, hdrop]

/-! ### A SLIP that arrives (R89, R90) -/

theorem slipAt_of_idle (p : Nat) (hidle : GroundIdle s) (htc : m.hdr.tc = 6) :
    slipAt p (m.asOp tCTRL 1) s = slipIn p m s := by
  simp only [slipAt, takeDelivered_of_idle _ _ hidle]
  have hok : (m.asOp tCTRL 1).tcOk = true := by simp [Msg.tcOk, Msg.asOp, htc]
  rw [hok]
  rfl

/-- A SLIP for a round not yet over, of which none was sent, is held and goes out of the domain's other ports. -/
theorem slipIn_of_new {p : Nat} (hdom : domById s (leAt m.pay 0 2) = some d) (hport : (domPorts s d).contains (gangBase s p) = true)
    (hcut : (domOf s d).cutRound ≤ leAt m.pay 8 8) (hround : roundOf s d ≤ leAt m.pay 8 8)
    (hnew : (domOf s d).sent.contains (leAt m.pay 8 8) = false) :
    let held := setDom s d { domOf s d with sent := (domOf s d).sent ++ [leAt m.pay 8 8], held := (domOf s d).held ++ [leAt m.pay 8 8] }
    slipIn p m s = sendSlip
      (if (domPorts s d).any (fun q => q != gangBase s p) then bump held (TIM_DOM_SLIPS_FWD (d + 1)) else held) d (some (gangBase s p))
      (bslice m.pay 0 5 ++ leBytes 1 ((leAt m.pay 5 1 + 1) % 256) ++ bslice (m.pay.drop 6) 0 18) := by
  have hcut' : ¬ leAt m.pay 8 8 < (domOf s d).cutRound := by omega
  have hlate : decide (leAt m.pay 8 8 < roundOf s d) = false := by simpa using hround
  simp only [slipIn, hdom, hport, hcut', hnew, hlate, Bool.not_true, Bool.and_false, Bool.false_eq_true, if_false]
  rfl

/-! ### A TILE for a region (R82, R273) -/

/-- A TILE for a region that no domain binds waits behind those that wait. -/
theorem regionTile_of_unbound (here : Bool) (cs : List GCell) (h : crgDom s n = none) :
    regionTile n m here cs s = { s with tiles := s.tiles ++ [⟨n, m, m.hdr.tc == 7, here, cs⟩] } := by
  simp [regionTile, h]

/-- With nothing delivered, a message has no cells, and its SRC says whether this device sent it. -/
theorem tileIn_of_region (prg : Nat) (hn : n < 16) (hint : m.hdr.dint = true) (hdst : m.hdr.dst % 4096 = 0x100 + n)
    (hgroup : groupCopy s m.hdr = false) (hdelivered : s.ground.delivered = []) (htype : m.hdr.type = tTILE)
    (htc : m.hdr.tc = 7 ∨ m.hdr.tc = 0) :
    tileIn prg m s = regionTile n m (m.hdr.sint && m.hdr.src / 4096 == ownId s) [] s := by
  have hok : m.tcOk = true := by
    obtain h | h := htc <;> simp [Msg.tcOk, htype, h, show tTILE ≠ tCTRL by decide, show tTILE ≠ tNOTIFY by decide]
  have hregion : 0x100 + n < 0x110 := by omega
  simp [tileIn, hok, hgroup, hint, hdst, hregion, detachDelivered, sentHere, deliveredMsg, hdelivered]

theorem as_of_type {t : Nat} (h : m.hdr.type = t) : m.as t = m := by rw [← h]; rfl

/-- Settles O18, one event after another. -/
theorem roundEvents : Obligations.RoundEvents := by
  unfold Obligations.RoundEvents
  refine ⟨⟨fun s n d hdom hround hlast hroom => ?gate, fun s d hbound hstarted hopen hcrgs hprgs htiles hidle => ?decision,
    fun s p d m hidle htype htc hdom hport hcut hround hnew => ?slip⟩,
    fun s prg n m hn hdom hint hdst hgroup hidle htype htc => ?tile⟩
  case gate =>
    exact ⟨_, congrArg done (gateNext_of_scheduled hdom hround hlast hroom), gatePos_setGate_same _ _ _, rfl⟩
  case decision =>
    exact ⟨_, congrArg done (decisionInstant_of_noRegions hbound hstarted hopen hcrgs hprgs htiles hidle),
      domOf_setDom_same _ _ _, rfl⟩
  case slip =>
    exact congrArg done ((slipAt_of_idle p hidle htc).trans (slipIn_of_new hdom hport hcut hround hnew))
  case tile =>
    obtain ⟨hdelivered, -, -⟩ := hidle
    have htile : tileIn prg m s = regionTile n m (m.hdr.sint && m.hdr.src / 4096 == ownId s) [] s :=
      tileIn_of_region prg hn hint hdst hgroup hdelivered htype htc
    refine congrArg done ?_
    rw [as_of_type htype, htile, regionTile_of_unbound _ _ hdom]

end Sys2Proof.Machine
end

section
/-! PROOFS. O32: what region SRAM reads after a store (R127, R128). -/

namespace Sys2Proof.Machine

/-- The bytes of a store in region SRAM go into consecutive addresses, as those of the pool do. -/
theorem sramPut_sram (s : State) (n a : Nat) (d : Bytes) : (sramPut n a d s).sram = poolPut d (sramSize * n + a) s.sram := by
  suffices h : ∀ (d : Bytes) (p k : Nat) (m : List Host.Cell),
      (d.zipIdx k).foldl (fun m x => sset (fun _ => 0) m (p + x.2) x.1) m = poolPut d (p + k) m from h d (sramSize * n + a) 0 s.sram
  intro d
  induction d with
  | nil => intro p k m; rfl
  | cons x r ih =>
    intro p k m
    rw [List.zipIdx_cons, List.foldl_cons, ih, poolPut, Nat.add_assoc]

/-- A byte of region SRAM after a store: one of the bytes stored, or what it was. -/
theorem sget_sramPut (s : State) (n a : Nat) (d : Bytes) (i : Nat) :
    sget (fun _ => (0 : Byte)) (sramPut n a d s).sram i
      = if h : sramSize * n + a ≤ i ∧ i < sramSize * n + a + d.length then d[i - (sramSize * n + a)]'(by omega)
        else sget (fun _ => (0 : Byte)) s.sram i := by
  rw [sramPut_sram, sget_poolPut]

/-- Two ranges of SRAM that lie in their regions have no byte in common where the regions or the ranges are apart. -/
theorem sram_ranges_apart {n m a b k l i : Nat} (hk : a + k ≤ sramSize) (hl : b + l ≤ sramSize) (hi : i < l)
    (h : m ≠ n ∨ b + l ≤ a ∨ a + k ≤ b) :
    ¬(sramSize * n + a ≤ sramSize * m + b + i ∧ sramSize * m + b + i < sramSize * n + a + k) := by
  simp only [sramSize] at *
  omega

/-- A range just written has no word with an error (R128). -/
theorem sramBadIn_sramPut (s : State) (n a : Nat) (d : Bytes) : sramBadIn (sramPut n a d s) n a d.length = false := by
  simp only [sramBadIn, sramPut, List.any_eq_false, List.mem_filter]
  rintro w ⟨-, hout⟩
  simpa [imp_iff_not_or] using hout

/-- Settles O32, from the byte that SRAM reads after a store. -/
theorem sramHoldsWhatIsStored : Obligations.SramHoldsWhatIsStored := by
  unfold Obligations.SramHoldsWhatIsStored
  intro s n a d hd
  refine ⟨?read, fun m b k hk hapart => ?other, fun _ => sramBadIn_sramPut s n a d, rfl⟩
  case read =>
    refine List.ext_getElem (by simp [sramGet]) fun i _ hi => ?_
    simp only [sramGet, List.getElem_map, List.getElem_range]
    rw [sget_sramPut, dif_pos (by omega)]
    simp only [Nat.add_sub_cancel_left]
  case other =>
    refine List.map_congr_left fun i hi => ?_
    rw [sget_sramPut, dif_neg (sram_ranges_apart hd hk (List.mem_range.mp hi) hapart)]

end Sys2Proof.Machine
end

section
/-! PROOFS. O28 and O30: bobbins as registers and memory hold them, their descriptors and the commands of BOB_CTL (R108, R111, R117, R122,
R123, Table STR-8). -/

namespace Sys2Proof.Machine

variable {s : State} {b : Nat}

/-! ### A bobbin after an update -/

@[simp] theorem bobOf_setBob_same (s : State) (b : Nat) (x : Bobbin) : bobOf (setBob s b x) b = x := sget_sset_same _ _ _ _

@[simp] theorem bobOf_setCursor (s : State) (b c v : Nat) : bobOf (setCursor c v s) b = bobOf s b := rfl

@[simp] theorem bobOf_setBobState (s : State) (b c v : Nat) : bobOf (setBobState c v s) b = bobOf s b := rfl

@[simp] theorem bobOf_okReply (s : State) (b : Nat) (w : Word) : bobOf (okReply s w) b = bobOf s b := rfl

theorem bobState_setBobState_same {v : Nat} (s : State) (b : Nat) (h : v < 8) : bobState (setBobState b v s) b = v := by
  rw [bobState, setBobState, rdF_wrF_same _ _ _ _ (by decide)]
  exact Nat.mod_eq_of_lt h

theorem onlyRegs_setBobState (s : State) (b v : Nat) : OnlyRegs [BOB_STATE b] s (setBobState b v s) := onlyRegs_wrReg s _ _

/-- BOB_STATE takes its cursor alike whatever the memory of the bobbin. -/
theorem rdReg_setCursor_setBob (s : State) (b c v : Nat) (x : Bobbin) (a : Nat) :
    rdReg (setCursor c v (setBob s b x)) a = rdReg (setCursor c v s) a := rfl

/-! ### Descriptors (R108, R111, R123) -/

/-- A bobbin that runs, with a descriptor of a known opcode at its cursor, executes it. -/
theorem bobExec_of_runs {op : Nat} (k : State → State) (h : BobRuns s b op) (hop : op ≤ 5) : bobExec b op k s = k s := by
  obtain ⟨hstate, hround, hregion, hcrg, hbob, hat⟩ := h
  have hknown : ¬ 5 < op := by omega
  simp [bobExec, hstate, hround, hregion, hcrg, hbob, hat, hknown]

/-- R111: LOOP, with a level free, pushes one and goes on. -/
theorem bobLoop_of_room (h : (bobOf s b).stack.length < 4) :
    bobLoop b s = setCursor b (bobCursor s b + 1) (setBob s b { bobOf s b with
      stack := (bobOf s b).stack ++ [⟨bobCursor s b, 0, bits (descAt (bobProg s b) (bobCursor s b)) 151 128,
        bits (descAt (bobProg s b) (bobCursor s b)) 63 32, bits (descAt (bobProg s b) (bobCursor s b)) 207 192⟩] }) :=
  if_neg (Nat.not_le.mpr h)

/-- R111: NEXT goes back behind its LOOP while iterations remain, and drops the level after the last one. -/
theorem bobNext_of_stack {r : List LoopLvl} {l : LoopLvl} (h : (bobOf s b).stack = r ++ [l]) :
    bobNext b s = if l.i + 1 < l.count
      then setCursor b (l.start + 1) (setBob s b { bobOf s b with stack := r ++ [{ l with i := l.i + 1 }] })
      else setCursor b (bobCursor s b + 1) (setBob s b { bobOf s b with stack := r }) := by
  simp [bobNext, h]

theorem bobWait_of_idle (hsched : bobSched s b = true) (h : (bobOf s b).steps = []) :
    bobWait b s = setBobState b bsWAIT_ROUND s := by
  simp [bobWait, hsched, h]

theorem bobEnd_of_idle (h : (bobOf s b).steps = []) : bobEnd b s = setBobState b bsDONE s := by
  simp [bobEnd, h]

/-- Settles O28, one opcode after another. -/
theorem descriptorsRun : Obligations.DescriptorsRun := by
  unfold Obligations.DescriptorsRun
  refine ⟨fun s b h => congrArg done (bobExec_of_runs _ h (by decide)), fun s b h hroom => ?loop,
    fun s b r l h hstack hmore => ?again, fun s b r l h hstack hlast => ?last, fun s b h hsched hsteps => ?wait,
    fun s b h hsteps => ?fin⟩
  case loop =>
    refine ⟨_, congrArg done ((bobExec_of_runs _ h (by decide)).trans (bobLoop_of_room hroom)), ?_, rdReg_setCursor_setBob ..⟩
    rw [bobOf_setCursor, bobOf_setBob_same]
  case again =>
    refine ⟨_, congrArg done ((bobExec_of_runs _ h (by decide)).trans ((bobNext_of_stack hstack).trans (if_pos hmore))), ?_,
      rdReg_setCursor_setBob ..⟩
    rw [bobOf_setCursor, bobOf_setBob_same]
  case last =>
    have hlast : ¬ l.i + 1 < l.count := Nat.not_lt.mpr hlast
    refine ⟨_, congrArg done ((bobExec_of_runs _ h (by decide)).trans ((bobNext_of_stack hstack).trans (if_neg hlast))), ?_,
      rdReg_setCursor_setBob ..⟩
    rw [bobOf_setCursor, bobOf_setBob_same]
  case wait =>
    exact ⟨_, congrArg done ((bobExec_of_runs _ h (by decide)).trans (bobWait_of_idle hsched hsteps)),
      bobState_setBobState_same s b (by decide), onlyRegs_setBobState s b _⟩
  case fin =>
    exact ⟨_, congrArg done ((bobExec_of_runs _ h (by decide)).trans (bobEnd_of_idle hsteps)),
      bobState_setBobState_same s b (by decide), onlyRegs_setBobState s b _⟩

/-! ### A write of BOB_CTL (Table STR-8) -/

/-- BOB_CTL, as the table of the BOB page lists it. -/
def bobCtlRow : RegRow := ⟨0x100, 8, 1, [fd 0 3 .wo 0 .const]⟩

theorem csrGroup_bobCtl (h : b < 4096) : csrGroup (BOB_CTL b) = grBOB := csrGroup_csrAddr h (by decide) (by decide)

theorem csrUnit_bobCtl (h : b < 4096) : csrUnit (BOB_CTL b) = b := csrUnit_csrAddr h (by decide) (by decide)

theorem csrPage_bobCtl (b : Nat) : csrPage (BOB_CTL b) = 0 := csrPage_csrAddr (by decide) (by decide)

theorem csrOff_bobCtl (b : Nat) : csrOff (BOB_CTL b) = 0x100 := csrOff_csrAddr (by decide)

theorem regRow?_bobCtl (h : b < 4096) : regRow? (BOB_CTL b) = some bobCtlRow := by
  have hbase : 0x1000000000 ≤ BOB_CTL b := by simp only [BOB_CTL, csrAddr]; omega
  have hunit : unitExists grBOB b = true := decide_eq_true h
  have hpage : pageExists (BOB_CTL b) = true := by
    simp [pageExists, csrGroup_bobCtl h, csrUnit_bobCtl h, csrPage_bobCtl, hbase, hunit]
  rw [regRow?, if_pos hpage, csrGroup_bobCtl h, csrUnit_bobCtl h, csrPage_bobCtl, csrOff_bobCtl]
  rfl

/-- A write of BOB_CTL of a region with power, that no clause holds, is the command of its CMD field. -/
theorem csrWrite_bobCtl (w : Word) (h : b < 4096) (hguard : guardOf s (BOB_CTL b) = none) (hpark : unitParked s grBOB b = false) :
    csrWrite (BOB_CTL b) 8 w s = bobCmd b (BOB_CTL_CMD.get w) s := by
  have hgr : grBOB ≠ grCLS ∧ grBOB ≠ grCRG := by decide
  have htim : BOB_CTL b ≠ TIM_SET := csrAddr_ne_of_off (by decide)
  rw [csrWrite_of_guardOf_none _ _ _ hguard, csrWriteNow, regRow?_bobCtl h, csrGroup_bobCtl h, csrUnit_bobCtl h, csrOff_bobCtl]
  simp [hpark, hgr, htim, bobCtlRow, fd]

/-- ARM of an IDLE bobbin that the bank in force names as unscheduled. -/
theorem bobCmd_arm {e : BobEnt} (hidle : bobState s b = bsIDLE) (hvalid : bankValid s (bobRgn b) (bankNow s (bobRgn b)) = true)
    (hent : bobEnt (progOf s (bobRgn b) (bankNow s (bobRgn b))) (bobIdx b) = some e) (hmode : e.mode = 2) :
    bobCmd b 1 s = okReply (setBobState b bsARMED (bobRestart b e (bankNow s (bobRgn b)) s)) := by
  simp [bobCmd, hidle, hvalid, hent, hmode]

theorem bobCmd_start (harmed : bobState s b = bsARMED) (hsched : bobSched s b = false) :
    bobCmd b 2 s = okReply (setBobState b bsRUNNING s) := by
  simp [bobCmd, harmed, hsched]

theorem bobCmd_stop (hrun : bobState s b = bsRUNNING) (hsched : bobSched s b = false) :
    bobCmd b 3 s = okReply (setBobState b bsARMED (dropSteps b s)) := by
  simp [bobCmd, hrun, hsched]

theorem bobCmd_release (harmed : bobState s b = bsARMED) (hsched : bobSched s b = false) :
    bobCmd b 4 s = okReply (setBobState b bsIDLE (setBob s b {})) := by
  simp [bobCmd, harmed, hsched]

/-- Settles O30, one command after another. -/
theorem bobbinCommands : Obligations.BobbinCommands := by
  unfold Obligations.BobbinCommands
  refine ⟨fun s b e hb hguard hpark hidle hvalid hent hmode => ?arm, fun s b hb hguard hpark harmed hsched => ?start,
    fun s b hb hguard hpark hrun hsched => ?stop, fun s b hb hguard hpark harmed hsched => ?release⟩
  case arm =>
    refine ⟨_, congrArg done ((csrWrite_bobCtl 1 hb hguard hpark).trans (bobCmd_arm hidle hvalid hent hmode)),
      bobState_setBobState_same _ b (by decide), ?_, rfl⟩
    rw [bobOf_okReply, bobOf_setBobState, bobRestart, bobOf_setBob_same]
  case start =>
    exact ⟨_, congrArg done ((csrWrite_bobCtl 2 hb hguard hpark).trans (bobCmd_start harmed hsched)),
      bobState_setBobState_same s b (by decide), rfl, onlyRegs_setBobState s b _⟩
  case stop =>
    refine ⟨_, congrArg done ((csrWrite_bobCtl 3 hb hguard hpark).trans (bobCmd_stop hrun hsched)),
      bobState_setBobState_same _ b (by decide), ?_, rfl⟩
    rw [bobOf_okReply, bobOf_setBobState, dropSteps, modBob, bobOf_setBob_same]
  case release =>
    refine ⟨_, congrArg done ((csrWrite_bobCtl 4 hb hguard hpark).trans (bobCmd_release harmed hsched)),
      bobState_setBobState_same _ b (by decide), ?_, rfl⟩
    rw [bobOf_okReply, bobOf_setBobState, bobOf_setBob_same]

end Sys2Proof.Machine
end

section
/-! PROOFS. O27: program loads (R106, R107). -/

namespace Sys2Proof.Machine

variable {s : State} {n : Nat}

/-! ### A write of CRG_PROG_LOAD (R107) -/

/-- CRG_PROG_LOAD, as the table of the CRG page lists it. -/
def progLoadRow : RegRow :=
  ⟨0x130, 8, 1, [fd 0 1 .rw 0 .p, fd 1 21 .rw 0 .p, fd 32 1 .w1s 0 .const, fd 33 1 .ro 0 .n, fd 35 4 .ro 0 .n]⟩

theorem regRow?_progLoad : ∀ n < 16, regRow? (CRG_PROG_LOAD n) = some progLoadRow := by decide +kernel

/-- A write of CRG_PROG_LOAD of a region with power, that no clause holds, is the command of the region's program loader. -/
theorem csrWrite_progLoad (w : Word) (hn : n < 16) (hguard : guardOf s (CRG_PROG_LOAD n) = none)
    (hpark : unitParked s grCRG n = false) : csrWrite (CRG_PROG_LOAD n) 8 w s = progLoad n w s := by
  have hg : csrGroup (CRG_PROG_LOAD n) = grCRG := csrGroup_csrAddr (by omega) (by decide) (by decide)
  have hu : csrUnit (CRG_PROG_LOAD n) = n := csrUnit_csrAddr (by omega) (by decide) (by decide)
  have ho : csrOff (CRG_PROG_LOAD n) = 0x130 := csrOff_csrAddr (by decide)
  have hgr : grCRG ≠ grCLS := by decide
  have htim : ∀ k < 16, CRG_PROG_LOAD k ≠ TIM_SET := by decide
  rw [csrWrite_of_guardOf_none _ _ _ hguard, csrWriteNow, regRow?_progLoad n hn, hg, hu, ho]
  simp [hpark, hgr, htim n hn, progLoadRow, fd]

/-- CRG_PROG_LOAD has taken BANK and BYTES from a write, which completes. -/
def loadTaken (n : Nat) (w : Word) (s : State) : State :=
  okReply (wrF (wrF s (CRG_PROG_LOAD n) CRG_PROG_LOAD_BANK (CRG_PROG_LOAD_BANK.get w)) (CRG_PROG_LOAD n) CRG_PROG_LOAD_BYTES
    (CRG_PROG_LOAD_BYTES.get w))

theorem rdF_loadTaken_other {a : Nat} (w : Word) (f : Fld) (h : a ≠ CRG_PROG_LOAD n) : rdF (loadTaken n w s) a f = rdF s a f := by
  rw [loadTaken, rdF_congr (okReply_regs _ _), rdF_wrF_other _ _ _ _ h, rdF_wrF_other _ _ _ _ h]

theorem loadTaken_busy (w : Word) :
    rdBit (loadTaken n w s) (CRG_PROG_LOAD n) CRG_PROG_LOAD_BUSY = rdBit s (CRG_PROG_LOAD n) CRG_PROG_LOAD_BUSY := by
  rw [rdBit, loadTaken, rdF_congr (okReply_regs _ _), rdF_wrF_field _ _ _ _ _ (by decide), rdF_wrF_field _ _ _ _ _ (by decide), rdBit]

/-- Whether a load is refused does not depend on CRG_PROG_LOAD. -/
theorem loadRefused_loadTaken (w : Word) (bank : Nat) : loadRefused (loadTaken n w s) n bank = loadRefused s n bank := by
  have hprog : ∀ f, rdF (loadTaken n w s) (CRG_PROG_STATE n) f = rdF s (CRG_PROG_STATE n) f :=
    fun f => rdF_loadTaken_other w f (csrAddr_ne_of_off (by decide))
  have hbob : ∀ b f, rdF (loadTaken n w s) (BOB_STATE b) f = rdF s (BOB_STATE b) f :=
    fun b f => rdF_loadTaken_other w f (csrAddr_ne_of_off (by decide))
  simp only [loadRefused, bankNow, bobState, bobBank, hprog, hbob]

/-- The loader of a region has started a load: it shows BUSY and no RESULT. -/
def loadStarted (l : ProgLoad) (s : State) : State :=
  { wrF (wrF s (CRG_PROG_LOAD l.rgn) CRG_PROG_LOAD_BUSY 1) (CRG_PROG_LOAD l.rgn) CRG_PROG_LOAD_RESULT 0 with
    progLoads := s.progLoads ++ [l] }

theorem rdF_loadStarted (l : ProgLoad) (a : Nat) (f : Fld) :
    rdF (loadStarted l s) a f
      = rdF (wrF (wrF s (CRG_PROG_LOAD l.rgn) CRG_PROG_LOAD_BUSY 1) (CRG_PROG_LOAD l.rgn) CRG_PROG_LOAD_RESULT 0) a f := rfl

theorem loadStarted_busy (l : ProgLoad) : rdBit (loadStarted l s) (CRG_PROG_LOAD l.rgn) CRG_PROG_LOAD_BUSY = true := by
  rw [rdBit, rdF_loadStarted, rdF_wrF_field _ _ _ _ _ (by decide), rdF_wrF_same _ _ _ _ (by decide)]
  rfl

theorem loadStarted_result (l : ProgLoad) : rdF (loadStarted l s) (CRG_PROG_LOAD l.rgn) CRG_PROG_LOAD_RESULT = 0 := by
  rw [rdF_loadStarted, rdF_wrF_same _ _ _ _ (by decide)]
  rfl

/-- The load that a write of CRG_PROG_LOAD asks for. -/
def loadAsked (n : Nat) (w : Word) (s : State) : ProgLoad :=
  ⟨n, CRG_PROG_LOAD_BANK.get w, CRG_PROG_LOAD_BYTES.get w, rdF s (CRG_PROG_SRC n) CRG_PROG_SRC_ADDR * 8⟩

/-- R107: GO with no load in progress and a free bank starts a load from CRG_PROG_SRC. -/
theorem progLoad_of_go {w : Word} (hgo : CRG_PROG_LOAD_GO.get w = 1) (hbusy : rdBit s (CRG_PROG_LOAD n) CRG_PROG_LOAD_BUSY = false)
    (hfree : loadRefused s n (CRG_PROG_LOAD_BANK.get w) = false) :
    progLoad n w s = loadStarted (loadAsked n w s) (loadTaken n w s) := by
  have hsrc : CRG_PROG_SRC n ≠ CRG_PROG_LOAD n := csrAddr_ne_of_off (by decide)
  have haddr : rdF (wrF (wrF (loadTaken n w s) (CRG_PROG_LOAD n) CRG_PROG_LOAD_BUSY 1) (CRG_PROG_LOAD n) CRG_PROG_LOAD_RESULT 0)
      (CRG_PROG_SRC n) CRG_PROG_SRC_ADDR = rdF s (CRG_PROG_SRC n) CRG_PROG_SRC_ADDR := by
    rw [rdF_wrF_other _ _ _ _ hsrc, rdF_wrF_other _ _ _ _ hsrc, rdF_loadTaken_other w _ hsrc]
  have hstart : ¬(CRG_PROG_LOAD_GO.get w = 0 ∨ rdBit (loadTaken n w s) (CRG_PROG_LOAD n) CRG_PROG_LOAD_BUSY = true) := by
    simp [loadTaken_busy, hgo, hbusy]
  have hbank : ¬ loadRefused (loadTaken n w s) n (CRG_PROG_LOAD_BANK.get w) = true := by simp [loadRefused_loadTaken, hfree]
  rw [loadAsked, ← haddr]
  exact (if_neg hstart).trans (if_neg hbank)

/-! ### The load completes (R106, R107) -/

/-- VALID once a bank has been loaded with a result. -/
def validAfter (v bank r : Nat) : Nat :=
  if bank = 0 then v / 2 * 2 + (if r = 1 then 1 else 0) else v % 2 + (if r = 1 then 2 else 0)

theorem validAfter_lt {v : Nat} (bank r : Nat) (h : v < 4) : validAfter v bank r < 4 := by
  unfold validAfter
  split <;> split <;> omega

/-- The bit of the bank loaded says whether the image passed. -/
theorem bit_validAfter {bank : Nat} (v r : Nat) (h : bank < 2) : bit (validAfter v bank r) bank = decide (r = 1) := by
  have hbank : bank = 0 ∨ bank = 1 := by omega
  unfold validAfter bit
  rw [beq_eq_decide, decide_eq_decide]
  rcases hbank with rfl | rfl <;> (by_cases hr : r = 1) <;> simp [hr]

/-- The registers of a region once its loader has ended with a result. -/
def loadShown (n bank r : Nat) (s : State) : State :=
  wrF (wrF (wrF s (CRG_PROG_LOAD n) CRG_PROG_LOAD_BUSY 0) (CRG_PROG_LOAD n) CRG_PROG_LOAD_RESULT r) (CRG_PROG_STATE n)
    CRG_PROG_STATE_VALID (validAfter (rdF s (CRG_PROG_STATE n) CRG_PROG_STATE_VALID) bank r)

theorem progLoadReg_ne (n : Nat) : CRG_PROG_LOAD n ≠ CRG_PROG_STATE n := csrAddr_ne_of_off (by decide)

theorem loadShown_busy (bank r : Nat) : rdBit (loadShown n bank r s) (CRG_PROG_LOAD n) CRG_PROG_LOAD_BUSY = false := by
  rw [rdBit, loadShown, rdF_wrF_other _ _ _ _ (progLoadReg_ne n), rdF_wrF_field _ _ _ _ _ (by decide), rdF_wrF_same _ _ _ _ (by decide)]
  rfl

theorem loadShown_result {r : Nat} (bank : Nat) (h : r < 16) :
    rdF (loadShown n bank r s) (CRG_PROG_LOAD n) CRG_PROG_LOAD_RESULT = r := by
  rw [loadShown, rdF_wrF_other _ _ _ _ (progLoadReg_ne n), rdF_wrF_same _ _ _ _ (by decide)]
  exact Nat.mod_eq_of_lt h

theorem loadShown_valid {bank : Nat} (r : Nat) (h : bank < 2) :
    bit (rdF (loadShown n bank r s) (CRG_PROG_STATE n) CRG_PROG_STATE_VALID) bank = decide (r = 1) := by
  have hv : rdF s (CRG_PROG_STATE n) CRG_PROG_STATE_VALID < 4 := Fld.get_lt _ _
  rw [loadShown, rdF_wrF_same _ _ _ _ (by decide)]
  exact (congrArg (bit · bank) (Nat.mod_eq_of_lt (validAfter_lt bank r hv))).trans (bit_validAfter _ r h)

/-- A bank holds an image, and its ID register names it. -/
def bankFilled (n bank : Nat) (img : Bytes) (s : State) : State :=
  wrReg { s with banks := sset (fun _ => []) s.banks (2 * n + bank) img } (if bank = 0 then CRG_PROG_ID0 n else CRG_PROG_ID1 n)
    (BitVec.ofNat 64 (leAt img 8 8))

/-- A bank is empty. -/
def bankEmptied (n bank : Nat) (s : State) : State := { s with banks := sset (fun _ => []) s.banks (2 * n + bank) [] }

/-- A bank's ID register holds none of what its loader shows. -/
theorem rdF_bankFilled {a : Nat} (bank : Nat) (img : Bytes) (f : Fld) (h : a = CRG_PROG_LOAD n ∨ a = CRG_PROG_STATE n) :
    rdF (bankFilled n bank img s) a f = rdF s a f := by
  have hid : a ≠ if bank = 0 then CRG_PROG_ID0 n else CRG_PROG_ID1 n := by
    rcases h with rfl | rfl <;> split <;> exact csrAddr_ne_of_off (by decide)
  rw [bankFilled, rdF_wrReg_other _ _ _ hid]
  exact rdF_congr (s := s) rfl a f

theorem progOf_bankFilled (bank : Nat) (img : Bytes) : progOf (bankFilled n bank img s) n bank = img := by
  rw [progOf, bankFilled, wrReg_banks, sget_sset_same]

theorem rdF_bankEmptied (bank a : Nat) (f : Fld) : rdF (bankEmptied n bank s) a f = rdF s a f := rfl

theorem progOf_bankEmptied (bank : Nat) : progOf (bankEmptied n bank s) n bank = [] := by
  simp only [progOf, bankEmptied, sget_sset_same]

/-- The only load of a region ends: its result shows, and its bank holds the image where that is 1. -/
theorem progLoaded_of_load {l : ProgLoad} {r : Nat} (bad : Bool) (hl : s.progLoads = [l]) (hn : l.rgn = n)
    (hr : (if bad then 7 else imageCheck (cdLoad s l.src l.bytes) l.bytes) = r) :
    progLoaded n bad s = if r = 1 then bankFilled n l.bank (cdLoad s l.src l.bytes) (loadShown n l.bank r { s with progLoads := [] })
      else bankEmptied n l.bank (loadShown n l.bank r { s with progLoads := [] }) := by
  subst hr
  have hfind : s.progLoads.find? (·.rgn == n) = some l := by simp [hl, hn]
  have hdrop : s.progLoads.filter (·.rgn != n) = [] := by simp [hl, hn]
  have hvalid : rdF (wrF (wrF { s with progLoads := [] } (CRG_PROG_LOAD n) CRG_PROG_LOAD_BUSY 0) (CRG_PROG_LOAD n)
      CRG_PROG_LOAD_RESULT (if bad then 7 else imageCheck (cdLoad s l.src l.bytes) l.bytes)) (CRG_PROG_STATE n) CRG_PROG_STATE_VALID
      = rdF { s with progLoads := [] } (CRG_PROG_STATE n) CRG_PROG_STATE_VALID := by
    rw [rdF_wrF_other _ _ _ _ (progLoadReg_ne n).symm, rdF_wrF_other _ _ _ _ (progLoadReg_ne n).symm]
  rw [loadShown, ← hvalid]
  simp only [progLoaded, hfind, hdrop]
  rfl

theorem imageCheck_lt (p : Bytes) (bytes : Nat) : imageCheck p bytes < 16 := by
  unfold imageCheck
  extract_lets
  split_ifs <;> decide

/-- Settles O27: the write starts the load, and its end shows the result. -/
theorem programLoads : Obligations.ProgramLoads := by
  unfold Obligations.ProgramLoads
  refine ⟨fun s n w hn hguard hpark hgo hbusy hfree => ?start, fun s n l bad hn hl hrgn hbank => ?ends⟩
  case start =>
    exact ⟨_, congrArg done ((csrWrite_progLoad w hn hguard hpark).trans (progLoad_of_go hgo hbusy hfree)),
      loadStarted_busy (loadAsked n w s), loadStarted_result (loadAsked n w s), rfl, rfl⟩
  case ends =>
    intro img r
    have hr : r < 16 := by
      show (if bad then 7 else imageCheck img l.bytes) < 16
      split
      · decide
      · exact imageCheck_lt _ _
    have hload : progLoaded n bad s = if r = 1 then bankFilled n l.bank img (loadShown n l.bank r { s with progLoads := [] })
        else bankEmptied n l.bank (loadShown n l.bank r { s with progLoads := [] }) := progLoaded_of_load bad hl hrgn rfl
    clear_value img r
    refine ⟨_, congrArg done hload, ?_⟩
    by_cases h1 : r = 1
    · rw [if_pos h1, if_pos h1, rdBit, rdF_bankFilled _ _ _ (.inl rfl), rdF_bankFilled _ _ _ (.inl rfl), rdF_bankFilled _ _ _ (.inr rfl)]
      exact ⟨rfl, progOf_bankFilled _ _, loadShown_result _ hr, loadShown_busy _ _, loadShown_valid _ hbank⟩
    · rw [if_neg h1, if_neg h1, rdBit, rdF_bankEmptied, rdF_bankEmptied, rdF_bankEmptied]
      exact ⟨rfl, progOf_bankEmptied _, loadShown_result _ hr, loadShown_busy _ _, loadShown_valid _ hbank⟩

end Sys2Proof.Machine
end

section
/-! PROOFS. O31: the units of the stations (R31, R117 to R119, R126). -/

namespace Sys2Proof.Machine

variable {s : State} {b i : Nat} {st : Step}

/-- The next unit of a step that may start runs its station's computation, and ends as that does; `k` says as how many tiles the unit
counts, which does not depend on the reads made. -/
theorem runUnit_of_mayRun {ty : Nat} (k : Step → Stn → Nat) (body : Step → Stn → Ctx → Ctx) (h : StepMayRun s b i st ty)
    (hk : ∀ (y : Step) (x : Stn) (made : Nat), k { y with made := made } x = k y x) :
    runUnit ty b i k body s
      = unitEnds s b (k (unitCtx s b st body).step (stnOf (bobProg s b) st.station)) st (unitCtx s b st body) := by
  obtain ⟨hstep, rfl, hstart⟩ := h
  have hrun : ¬(st.type ≠ st.type ∨ (!mayStart s b st) = true) := by simp [hstart]
  rw [← hk _ _ (unitReads st (unitCtx s b st body))]
  simp only [runUnit, hstep]
  rw [if_neg hrun]
  rfl

/-! ### How a unit ends -/

theorem unitEnds_of_stuck {k : Nat} {c : Ctx} (h : c.stuck = true) : unitEnds s b k st c = c.askAll s := if_pos h

theorem unitEnds_of_fault {k code det : Nat} {c : Ctx} (hstuck : c.stuck = false) (h : c.fault = some (code, det)) :
    unitEnds s b k st c = bobFault b code st.station st.desc det st.tile (some st) (unitState b st c) := by
  simp [unitEnds, hstuck, h]

theorem unitEnds_of_none {k : Nat} {c : Ctx} (hstuck : c.stuck = false) (h : c.fault = none) :
    unitEnds s b k st c = if c.step.unit < c.step.units then unitDone b k st c
      else putStep b { c.step with made := unitReads st c } (unitState b st c) := by
  simp [unitEnds, hstuck, h]

/-- Settles O31: every station's unit is `runUnit` of its computation, and the ends of a unit are the branches of `unitEnds`. -/
theorem stationUnitsRun : Obligations.StationUnitsRun := by
  unfold Obligations.StationUnitsRun
  refine ⟨fun s b i st => ?stations, fun s b k st c hstuck hnone => ?goes,
    fun s b k code det st c hstuck hfault => unitEnds_of_fault hstuck hfault, fun s b k st c hstuck => unitEnds_of_stuck hstuck⟩
  case stations =>
    exact ⟨fun h => congrArg done (runUnit_of_mayRun (fun _ _ => 1) ingressUnit h fun _ _ _ => rfl),
      fun h => congrArg done (runUnit_of_mayRun (fun _ _ => 1) egressUnit h fun _ _ _ => rfl),
      fun h => congrArg done (runUnit_of_mayRun (fun _ _ => 1) loadUnit h fun _ _ _ => rfl),
      fun h => congrArg done (runUnit_of_mayRun (fun _ _ => 1) storeUnit h fun _ _ _ => rfl),
      fun h => congrArg done (runUnit_of_mayRun (fun _ _ => 1) expandUnit h fun _ _ _ => rfl),
      fun h => congrArg done (runUnit_of_mayRun (fun st _ => st.param % 16 + 1) matmulUnit h fun _ _ _ => rfl),
      fun h => congrArg done (runUnit_of_mayRun (fun _ _ => 1) elemwiseUnit h fun _ _ _ => rfl),
      fun h => congrArg done (runUnit_of_mayRun (fun st _ => tilesOf st.param) normUnit h fun _ _ _ => rfl),
      fun h => congrArg done (runUnit_of_mayRun (fun _ _ => 1) attendUnit h fun _ _ _ => rfl),
      fun h => congrArg done (runUnit_of_mayRun (fun _ _ => 1) reduceUnit h fun _ _ _ => rfl),
      fun h => congrArg done (runUnit_of_mayRun (fun st _ => tilesOf st.param) gatherUnit h fun _ _ _ => rfl),
      fun h => congrArg done (runUnit_of_mayRun (fun st _ => tilesOf st.param) scatterUnit h fun _ _ _ => rfl),
      fun h => congrArg done (runUnit_of_mayRun (fun st _ => tilesOf st.param) filterUnit h fun _ _ _ => rfl),
      fun h => congrArg done (runUnit_of_mayRun (fun st _ => tilesOf st.param) convertUnit h fun _ _ _ => rfl),
      fun h => congrArg done (runUnit_of_mayRun (fun _ x => leAt x.param 8 1 * cdiv (leAt x.param 10 2) 128) compressUnit h
        fun _ _ _ => rfl)⟩
  case goes =>
    exact ⟨fun hmore => (unitEnds_of_none hstuck hnone).trans (if_pos hmore),
      fun hlast => (unitEnds_of_none hstuck hnone).trans (if_neg (Nat.not_lt.mpr hlast))⟩

end Sys2Proof.Machine
end

section
/-! PROOFS. O29: steps issue, their read data arrives, and they complete (R108, R109, R112, R117, R122, R123). -/

namespace Sys2Proof.Machine

variable {s : State} {b : Nat} {e : BobEnt} {st : Step}

/-! ### The step that a descriptor describes (R108, R109, R112) -/

/-- What a step built from the descriptor at the cursor takes from it. -/
theorem buildStep_spec (h : buildStep s b e = .inr st) :
    st.desc = bobCursor s b ∧ st.station = bits (descAt (bobProg s b) (bobCursor s b)) 12 8
      ∧ st.type = (stnOf (bobProg s b) (bits (descAt (bobProg s b) (bobCursor s b)) 12 8)).type
      ∧ st.engine = (stnOf (bobProg s b) (bits (descAt (bobProg s b) (bobCursor s b)) 12 8)).engine
      ∧ st.tile = stepTile s b e (descAt (bobProg s b) (bobCursor s b))
      ∧ st.rows = bits (descAt (bobProg s b) (bobCursor s b)) 214 208 + 1
      ∧ st.cols = bits (descAt (bobProg s b) (bobCursor s b)) 221 215 + 1 ∧ st.unit = 0 ∧ st.vague = false := by
  revert h
  unfold buildStep
  extract_lets
  split_ifs
  · rintro ⟨⟩
  · rintro ⟨⟩
  · rintro ⟨⟩
  · rintro ⟨⟩
    exact ⟨rfl, rfl, rfl, rfl, rfl, rfl, rfl, rfl, rfl⟩
  · rintro ⟨⟩

/-- A descriptor whose station exists, may run for the bobbin and is neither fenced nor in reset, and whose operand runs lie in their
areas, describes a step. -/
theorem buildStep_of_fits :
    let p := bobProg s b
    let d := descAt p (bobCursor s b)
    let x := stnOf p (bits d 12 8)
    let g := operandGran x (bits d 207 192) (bits d 214 208 + 1)
    let pl := fun (hi lo k : Nat) => operandPlace p e (bits d hi lo) (slotStride (bobOf s b).stack) (bit d (16 + k))
    bits d 12 8 < phStations p → (bobSched s b = true ∨ x.unsched = true) →
    blockFenced s grSTN (32 * bobRgn b + x.engine) = false → engineResetting s grSTN (32 * bobRgn b + x.engine) = false →
    runFits (pl 79 64 0) g.1 = true → runFits (pl 95 80 1) g.2.1 = true → runFits (pl 111 96 2) g.2.2.1 = true →
    runFits (pl 127 112 3) g.2.2.2 = true → ∃ st, buildStep s b e = .inr st := by
  intro p d x g pl hstn hsched hfence hreset h0 h1 h2 h3
  have hmay : ¬((!bobSched s b) = true ∧ (!x.unsched) = true) := by
    rcases hsched with h | h <;> simp [h]
  have hon : ¬(blockFenced s grSTN (32 * bobRgn b + x.engine) = true ∨ engineResetting s grSTN (32 * bobRgn b + x.engine) = true) := by
    simp [hfence, hreset]
  refine ⟨_, (if_neg (Nat.not_le.mpr hstn)).trans ((if_neg hmay).trans ((if_neg hon).trans (if_pos ?_)))⟩
  simp only [runsFit]
  rw [h0, h1, h2, h3]
  rfl

/-- A plan changes no step's tile. -/
theorem planStep_tile {y : Step} (h : planStep s b y = .inr st) : st.tile = y.tile := by
  revert h
  unfold planStep
  split
  · rintro ⟨⟩; rfl
  · extract_lets
    split
    · rintro ⟨⟩
    · rintro ⟨⟩; rfl

theorem planStep_of_unplanned (h : planned st.type = none) : planStep s b st = .inr st := by
  simp only [planStep, h]

theorem nextStep_tile (h : nextStep s b e = .inr st) : st.tile = stepTile s b e (descAt (bobProg s b) (bobCursor s b)) := by
  revert h
  unfold nextStep
  split
  · rintro ⟨⟩
  · next y hy =>
    intro h
    obtain ⟨-, -, -, -, htile, -⟩ := buildStep_spec hy
    rw [planStep_tile h, htile]

/-! ### Read credit (R122) -/

/-- `k` of the reads that a step waits for are issued. -/
def Step.withReads (st : Step) (k : Nat) : Step := { st with toRead := st.toRead - k, reading := st.reading + k }

/-- The reads of a bobbin are counted, in its page and in its region's. -/
def readsCounted (b k : Nat) (s : State) : State := if k = 0 then s else bump (bump s (BOB_READS b) k) (CRG_READS (bobRgn b)) k

@[simp] theorem bobOf_readsCounted (b c k : Nat) (s : State) : bobOf (readsCounted b k s) c = bobOf s c := by
  unfold readsCounted
  split <;> rfl

/-- The counts of reads are none of the registers that show a bobbin's state and position. -/
theorem rdReg_readsCounted (b k : Nat) (s : State) {a : Nat} (h : a = BOB_STATE b ∨ a = BOB_POS b) :
    rdReg (readsCounted b k s) a = rdReg s a := by
  have hbob : a ≠ BOB_READS b := by rcases h with rfl | rfl <;> exact csrAddr_ne_of_off (by decide)
  have hcrg : a ≠ CRG_READS (bobRgn b) := by rcases h with rfl | rfl <;> exact csrAddr_ne_of_off (by decide)
  unfold readsCounted
  split
  · rfl
  · rw [rdReg_bump, if_neg hcrg, rdReg_bump, if_neg hbob]

/-- With one step, the bobbin's whole credit is that step's. -/
theorem issueReads_of_single (m : Nat) (h : (bobOf s b).steps = [st]) :
    issueReads b m s = readsCounted b (min st.toRead (m - st.reading))
      (setBob s b { bobOf s b with steps := [st.withReads (min st.toRead (m - st.reading))] }) := by
  simp [issueReads, readsOut, readsCounted, h, Step.withReads]

theorem rdReg_setBob (s : State) (b : Nat) (x : Bobbin) (a : Nat) : rdReg (setBob s b x) a = rdReg s a := rfl

/-! ### A step issues (R117, R122, R123) -/

/-- A step joins the steps of a bobbin, BOB_POS shows its tile, and its reads are issued. -/
def stepJoined (b m : Nat) (st : Step) (s : State) : State :=
  issueReads b m (wrF (modBob b (fun y => { y with steps := y.steps ++ [st], pos := y.pos + 1 }) s) (BOB_POS b) BOB_POS_TILE st.tile)

/-- A step has been issued: the bobbin is RUNNING behind its descriptor. -/
def stepIssued (b m : Nat) (st : Step) (s : State) : State :=
  setBobState b bsRUNNING (setCursor b (bobCursor s b + 1) (stepJoined b m st s))

theorem bobCursor_wrF_pos (v : Nat) (y : Bobbin) : bobCursor (wrF (setBob s b y) (BOB_POS b) BOB_POS_TILE v) b = bobCursor s b := by
  have hne : BOB_STATE b ≠ BOB_POS b := csrAddr_ne_of_off (by decide)
  rw [bobCursor, rdF_wrF_other _ _ _ _ hne]
  rfl

/-- The steps of a bobbin that had none, as one joins. -/
theorem stepJoined_of_none (m : Nat) (h : (bobOf s b).steps = []) :
    stepJoined b m st s = readsCounted b (min st.toRead (m - st.reading))
      (setBob (wrF (setBob s b { bobOf s b with steps := [st], pos := (bobOf s b).pos + 1 }) (BOB_POS b) BOB_POS_TILE st.tile) b
        { bobOf s b with steps := [st.withReads (min st.toRead (m - st.reading))], pos := (bobOf s b).pos + 1 }) := by
  rw [stepJoined, modBob, h, List.nil_append]
  generalize hy : ({ bobOf s b with steps := [st], pos := (bobOf s b).pos + 1 } : Bobbin) = y
  have hof : bobOf (wrF (setBob s b y) (BOB_POS b) BOB_POS_TILE st.tile) b = y := bobOf_setBob_same s b y
  have hsteps : y.steps = [st] := by rw [← hy]
  rw [issueReads_of_single m (by rw [hof]; exact hsteps), hof, ← hy]

theorem bobOf_stepIssued (m : Nat) (h : (bobOf s b).steps = []) :
    bobOf (stepIssued b m st s) b
      = { bobOf s b with steps := [st.withReads (min st.toRead (m - st.reading))], pos := (bobOf s b).pos + 1 } := by
  rw [stepIssued, bobOf_setBobState, bobOf_setCursor, stepJoined_of_none m h, bobOf_readsCounted, bobOf_setBob_same]

theorem bobState_stepIssued (m : Nat) : bobState (stepIssued b m st s) b = bsRUNNING := bobState_setBobState_same _ b (by decide)

theorem bobCursor_stepIssued (m : Nat) : bobCursor (stepIssued b m st s) b = (bobCursor s b + 1) % 2 ^ 24 := by
  rw [stepIssued, bobCursor, setBobState, rdF_wrF_field _ _ _ _ _ (by decide), setCursor, rdF_wrF_same _ _ _ _ (by decide)]
  rfl

theorem pos_stepIssued (m : Nat) (h : (bobOf s b).steps = []) :
    rdF (stepIssued b m st s) (BOB_POS b) BOB_POS_TILE = st.tile % 2 ^ 32 := by
  have hne : BOB_POS b ≠ BOB_STATE b := csrAddr_ne_of_off (by decide)
  rw [stepIssued, setBobState, rdF_wrF_other _ _ _ _ hne, setCursor, rdF_wrF_other _ _ _ _ hne, stepJoined_of_none m h, rdF,
    rdReg_readsCounted _ _ _ (.inr rfl), rdReg_setBob]
  exact rdF_wrF_same _ _ _ _ (by decide)

/-- R122: a step of a bobbin with no step and with credit is issued; one that lacks the outcome of a read goes on planning. -/
theorem tryIssue_of_step (hsafe : s.flt.safe = false) (hent : bobEnt (bobProg s b) (bobIdx b) = some e) (hsteps : (bobOf s b).steps = [])
    (hcredit : 0 < e.maxReads) (hnext : nextStep s b e = .inr st) :
    tryIssue b s = if st.vague then replanStep b st.order (stepIssued b e.maxReads st s) else stepIssued b e.maxReads st s := by
  have hcursor := bobCursor_wrF_pos (s := s) (b := b) st.tile { bobOf s b with steps := [st], pos := (bobOf s b).pos + 1 }
  have hroom : ¬ e.maxReads ≤ 0 := Nat.not_le.mpr hcredit
  rw [stepIssued, ← hcursor]
  simp only [tryIssue, hsafe, hent, hnext, hsteps, readsOut, stepJoined, modBob]
  simp [hroom]

theorem tryIssue_of_fault {code : Nat} (hsafe : s.flt.safe = false) (hent : bobEnt (bobProg s b) (bobIdx b) = some e)
    (hnext : nextStep s b e = .inl code) :
    tryIssue b s = bobFault b code (bits (descAt (bobProg s b) (bobCursor s b)) 12 8) (bobCursor s b) 0
      (stepTile s b e (descAt (bobProg s b) (bobCursor s b))) none s := by
  simp [tryIssue, hsafe, hent, hnext]

/-! ### Read data, and the end of a step (R117, R123) -/

theorem retryIssue_of_running (h : bobState s b = bsRUNNING) : retryIssue b s = s := if_neg (by rw [h]; decide)

/-- A step takes read data. -/
def Step.dataIn (st : Step) : Step := { st with reading := st.reading - 1 }

/-- Nothing of the credit goes to a step that waits for none. -/
theorem Step.withReads_of_none (h : st.toRead = 0) (k : Nat) : st.withReads (min st.toRead k) = st := by
  rw [h, Nat.zero_min]
  rfl

theorem issueReads_of_none (m : Nat) (hsteps : (bobOf s b).steps = [st]) (hnone : st.toRead = 0) :
    issueReads b m s = setBob s b (bobOf s b) := by
  rw [issueReads_of_single m hsteps, Step.withReads_of_none hnone, hnone, Nat.zero_min, ← hsteps]
  rfl

/-- Read data of the only step, with no read that waits for credit, gives that credit back. -/
theorem readArrives_of_single (hsteps : (bobOf s b).steps = [st]) (hreading : 0 < st.reading) (hnone : st.toRead = 0)
    (hent : bobEnt (bobProg s b) (bobIdx b) = some e) (hrun : bobState s b = bsRUNNING) :
    readArrives b s = setBob (setBob s b { bobOf s b with steps := [st.dataIn] }) b { bobOf s b with steps := [st.dataIn] } := by
  generalize hy : ({ bobOf s b with steps := [st.dataIn] } : Bobbin) = y
  have hof : (bobOf (setBob s b y) b).steps = [st.dataIn] := by rw [bobOf_setBob_same, ← hy]
  have hissue : issueReads b e.maxReads (setBob s b y) = setBob (setBob s b y) b y := by
    rw [issueReads_of_none e.maxReads hof hnone, bobOf_setBob_same]
  have hprog : bobEnt (bobProg (setBob s b y) b) (bobIdx b) = some e := hent
  have hmap : ({ bobOf s b with steps := [{ st with reading := st.reading - 1 }] } : Bobbin) = y := hy
  have hretry : retryIssue b (setBob (setBob s b y) b y) = setBob (setBob s b y) b y := retryIssue_of_running hrun
  simp [readArrives, hsteps, hreading, hmap, hprog, hissue, hretry]

/-- The counters of completed steps of a region, and of a station's engine. -/
def rgnStepsReg (n : Nat) (st : Step) : Nat := if st.sched then CRG_STEPS_SCHED n else CRG_STEPS_UNSCHED n
def stnStepsReg (u : Nat) (st : Step) : Nat := if st.sched then STN_STEPS_SCHED u else STN_STEPS_UNSCHED u

/-- A step that completes is counted, by its bobbin, its region and its station's engine (R117, R178, R424). -/
def stepCounted (b : Nat) (st : Step) (s : State) : State :=
  let s := bump (progress (progress (bump s (BOB_STEPS b)) grBOB b) grCRG (bobRgn b)) (rgnStepsReg (bobRgn b) st)
  if st.type = tyCOMPRESS then s else bump s (stnStepsReg (32 * bobRgn b + st.engine) st)

/-- The other counters of a step leave a register that is none of them. -/
theorem rdReg_stepCounted (s : State) {a : Nat} (hprog : ∀ g u, a ≠ G_PROGRESS g u 0) (hrgn : a ≠ rgnStepsReg (bobRgn b) st)
    (hstn : a ≠ stnStepsReg (32 * bobRgn b + st.engine) st) : rdReg (stepCounted b st s) a = rdReg (bump s (BOB_STEPS b)) a := by
  have hregion : rdReg (bump (progress (progress (bump s (BOB_STEPS b)) grBOB b) grCRG (bobRgn b)) (rgnStepsReg (bobRgn b) st)) a
      = rdReg (bump s (BOB_STEPS b)) a := by
    rw [rdReg_bump, if_neg hrgn, progress, rdReg_bump, if_neg (hprog _ _), progress, rdReg_bump, if_neg (hprog _ _)]
  by_cases htype : st.type = tyCOMPRESS
  · rw [stepCounted, if_pos htype, hregion]
  · rw [stepCounted, if_neg htype, rdReg_bump, if_neg hstn, hregion]

theorem bobState_stepCounted (b : Nat) (st : Step) (s : State) : bobState (stepCounted b st s) b = bobState s b := by
  have hrgn : BOB_STATE b ≠ rgnStepsReg (bobRgn b) st := by
    unfold rgnStepsReg
    split <;> exact csrAddr_ne_of_off (by decide)
  have hstn : BOB_STATE b ≠ stnStepsReg (32 * bobRgn b + st.engine) st := by
    unfold stnStepsReg
    split <;> exact csrAddr_ne_of_off (by decide)
  have hbob : BOB_STATE b ≠ BOB_STEPS b := csrAddr_ne_of_off (by decide)
  rw [bobState, rdF, rdReg_stepCounted s (a := BOB_STATE b) (fun _ _ => csrAddr_ne_of_off (by decide)) hrgn hstn, rdReg_bump, if_neg hbob,
    bobState, rdF]

theorem bobSteps_stepCounted (s : State) (hb : b < 4096) (he : st.engine < 32) :
    rdReg (stepCounted b st s) (BOB_STEPS b) = rdReg s (BOB_STEPS b) + 1 := by
  have hu : 32 * bobRgn b + st.engine < 4096 := by simp only [bobRgn]; omega
  have hgroup : ∀ o < 4096, csrAddr grBOB b 0 0xC00 ≠ csrAddr grSTN (32 * bobRgn b + st.engine) 0 o := by
    intro o ho h
    obtain ⟨hg, -⟩ := (csrAddr_inj hb (by decide) (by decide) hu (by decide) ho).mp h
    exact absurd hg (by decide)
  have hrgn : BOB_STEPS b ≠ rgnStepsReg (bobRgn b) st := by
    unfold rgnStepsReg
    split <;> exact csrAddr_ne_of_off (by decide)
  have hstn : BOB_STEPS b ≠ stnStepsReg (32 * bobRgn b + st.engine) st := by
    unfold stnStepsReg
    split <;> exact hgroup _ (by decide)
  rw [rdReg_stepCounted s (a := BOB_STEPS b) (fun _ _ => csrAddr_ne_of_off (by decide)) hrgn hstn, rdReg_bump, if_pos rfl]
  rfl

theorem bobOf_stepCounted (b c : Nat) (st : Step) (s : State) : bobOf (stepCounted b st s) c = bobOf s c := by
  by_cases htype : st.type = tyCOMPRESS
  · rw [stepCounted, if_pos htype]
    simp only [bobOf, bump_bobs, progress_bobs]
  · rw [stepCounted, if_neg htype]
    simp only [bobOf, bump_bobs, progress_bobs]

/-- The only step of a RUNNING bobbin, its units done, frees its place and is counted. -/
theorem stepComplete_of_single (hsteps : (bobOf s b).steps = [st]) (hdone : st.units ≤ st.unit) (hrun : bobState s b = bsRUNNING) :
    stepComplete b 0 s = stepCounted b st (setBob s b { bobOf s b with steps := [] }) := by
  have hretry : ∀ t, retryIssue b (stepCounted b st (setBob s b t)) = stepCounted b st (setBob s b t) :=
    fun t => retryIssue_of_running ((bobState_stepCounted _ _ _).trans hrun)
  have hunits : ¬ st.unit < st.units := Nat.not_lt.mpr hdone
  rw [← hretry]
  simp [stepComplete, hsteps, hrun, hunits, modBob, stepCounted, rgnStepsReg, stnStepsReg]

/-- Settles O29: the step that a descriptor describes is issued, takes its read data, and completes. -/
theorem stepsIssue : Obligations.StepsIssue := by
  unfold Obligations.StepsIssue
  refine ⟨fun s b e h hsafe hent hsteps hcredit => ?issue, fun s b e h hsafe hent hsteps hcredit hstn hsched hplan hfence hreset h0 h1
    h2 h3 => ?describes, fun s b e st hsteps hreading hnone hent hrun => ?data, fun s b st hb he hsteps hdone hrun => ?complete⟩
  case issue =>
    split
    · next code hnext => exact congrArg done ((bobExec_of_runs _ h (by decide)).trans (tryIssue_of_fault hsafe hent hnext))
    · next st hnext =>
      have htile : st.tile % 2 ^ 32 = stepTile s b e (descAt (bobProg s b) (bobCursor s b)) := by
        rw [nextStep_tile hnext]
        exact Nat.mod_mod _ _
      refine ⟨stepIssued b e.maxReads st s,
        congrArg done ((bobExec_of_runs _ h (by decide)).trans (tryIssue_of_step hsafe hent hsteps hcredit hnext)), ?_, ?_,
        (pos_stepIssued _ hsteps).trans htile, bobCursor_stepIssued _, bobState_stepIssued _⟩
      · rw [bobOf_stepIssued _ hsteps]
        rfl
      · rw [bobOf_stepIssued _ hsteps]
  case describes =>
    obtain ⟨st, hbuild⟩ := buildStep_of_fits hstn hsched hfence hreset h0 h1 h2 h3
    obtain ⟨hdesc, hstation, htype, hengine, -, hrows, hcols, hunit, hvague⟩ := buildStep_spec hbuild
    have hnext : nextStep s b e = .inr st := by
      rw [nextStep, hbuild]
      exact planStep_of_unplanned (htype ▸ hplan)
    have hissue : tryIssue b s = stepIssued b e.maxReads st s := by
      rw [tryIssue_of_step hsafe hent hsteps hcredit hnext, hvague, if_neg Bool.false_ne_true]
    refine ⟨_, st.withReads (min st.toRead (e.maxReads - st.reading)), congrArg done ((bobExec_of_runs _ h (by decide)).trans hissue), ?_,
      hdesc, hstation, htype, hengine, hrows, hcols, hunit⟩
    rw [bobOf_stepIssued _ hsteps]
  case data =>
    refine ⟨_, congrArg done (readArrives_of_single hsteps hreading hnone hent hrun), ?_, rfl⟩
    rw [bobOf_setBob_same]
    rfl
  case complete =>
    refine ⟨_, congrArg done (stepComplete_of_single hsteps hdone hrun), ?_, bobSteps_stepCounted _ hb he⟩
    rw [bobOf_stepCounted, bobOf_setBob_same]

end Sys2Proof.Machine
end

section
/-! PROOFS. O14: resets begin, complete and are abandoned (R126, R422, R426, R427, R430). -/

namespace Sys2Proof.Machine

variable {s t : State} {g u n c : Nat}

/-! ### A write of G_RESET_CTL (R427) -/

/-- G_RESET_CTL, as the common page header lists it. -/
def resetCtlRow : RegRow := ⟨0x058, 8, 1, [fd 0 3 .wo 0 .const, fd 16 12 .wo 0 .const, fd 32 1 .ro 0 .n, fd 33 3 .ro 0 .n]⟩

theorem regRow?_resetCtl (hu : u < 4096) (h : unitExists g u = true) : regRow? (G_RESET_CTL g u 0) = some resetCtlRow := by
  have hbase : 0x1000000000 ≤ G_RESET_CTL g u 0 := by simp only [G_RESET_CTL, csrAddr]; omega
  have hg : csrGroup (G_RESET_CTL g u 0) = g := csrGroup_csrAddr hu (by decide) (by decide)
  have huu : csrUnit (G_RESET_CTL g u 0) = u := csrUnit_csrAddr hu (by decide) (by decide)
  have hp : csrPage (G_RESET_CTL g u 0) = 0 := csrPage_csrAddr (by decide) (by decide)
  have ho : csrOff (G_RESET_CTL g u 0) = 0x058 := csrOff_csrAddr (by decide)
  have hpage : pageExists (G_RESET_CTL g u 0) = true := by simp [pageExists, hg, huu, hp, hbase, h]
  rw [regRow?, if_pos hpage, ho, if_pos (by decide)]
  rfl

theorem guardOf_of_noClause (a : Nat) (h : s.cls = []) : guardOf s a = none := by simp [guardOf, h]

/-- With no clause, a write of G_RESET_CTL on a page of a unit asks for the reset that it names. -/
theorem csrWrite_resetCtl (w : Word) (hu : u < 4096) (h : unitExists g u = true) (hcls : s.cls = []) :
    csrWrite (G_RESET_CTL g u 0) 8 w s = resetCtl (csrAddr g u 0 0) w s := by
  have ho : csrOff (G_RESET_CTL g u 0) = 0x058 := csrOff_csrAddr (by decide)
  have hb : csrBase (G_RESET_CTL g u 0) = csrAddr g u 0 0 := csrBase_csrAddr (by decide)
  rw [csrWrite_of_guardOf_none _ _ _ (guardOf_of_noClause _ hcls), csrWriteNow, regRow?_resetCtl hu h, ho, hb]
  exact if_pos rfl

theorem resetCtl_context (base : Nat) (hc : c < 4096) :
    resetCtl base (G_RESET_CTL_CONTEXT.set (G_RESET_CTL_REQ.set 0 1) c) s = contextReset base c s := by
  have hreq : G_RESET_CTL_REQ.get (G_RESET_CTL_CONTEXT.set (G_RESET_CTL_REQ.set 0 1) c) = 1 := by
    rw [Fld.get_set_other _ _ _ _ (by decide), Fld.get_set_same _ _ _ (by decide)]
    rfl
  have hctx : G_RESET_CTL_CONTEXT.get (G_RESET_CTL_CONTEXT.set (G_RESET_CTL_REQ.set 0 1) c) = c := by
    rw [Fld.get_set_same _ _ _ (by decide)]
    exact Nat.mod_eq_of_lt hc
  rw [resetCtl, hreq, if_pos rfl, hctx]

theorem resetCtl_engine (base : Nat) : resetCtl base (G_RESET_CTL_REQ.set 0 2) s = engineReset base s := by
  have hreq : G_RESET_CTL_REQ.get (G_RESET_CTL_REQ.set 0 2) = 2 := Fld.get_set_same _ _ _ (by decide)
  have hne : ¬ (2 : Nat) = 1 := by decide
  rw [resetCtl, hreq, if_neg hne, if_pos rfl]

/-- R427: a reset that nothing covers, refuses or holds begins. -/
theorem resetAsk_begins {sc : Scope} (base : Nat) (hpark : unitParked s sc.g sc.u = false) (hjobs : s.flt.jobs = []) (hcls : s.cls = [])
    (hgen : genHeld s sc = false) :
    resetAsk sc base s = okReply (if sc.rung = .engine then beginEngine sc.g sc.u [base] [] s
      else beginContext sc.g sc.u sc.ctx [base] s) := by
  have hwaits : resetWaits s sc = false := by simp [resetWaits, guardHolds, hcls, hgen]
  rw [apply_ite okReply]
  simp [resetAsk, hpark, hjobs, hwaits]

/-- No request carries the GEN of a tile block (R431). -/
theorem genHeld_tileBlock (s : State) (u : Nat) : genHeld s ⟨.engine, grTBK, u, 0⟩ = false := by
  have hcontext : (Rung.engine == Rung.context) = false := rfl
  have hgroups : (grTBK == grSHT) = false ∧ (grTBK == grCXP) = false := ⟨rfl, rfl⟩
  simp only [genHeld, List.any_eq_false]
  intro x _
  rcases hwho : x.who with ⟨b, o⟩ | ⟨q, j⟩ | ⟨k, ld⟩
  · simp [hcontext]
  · simp [hgroups]
  · simp [hgroups]

/-! ### Generations (R430) -/

/-- A unit with one page has one GEN. -/
theorem unitGen_of_onePage (h : lastPage g u = 0) : unitGen g u s = genNext g u 0 s := by
  simp [unitGen, h]

theorem genOf_genNext (s : State) (g u : Nat) : genOf (genNext g u 0 s) g u = (genOf s g u + 1) % 256 :=
  rdF_wrF_same _ _ _ _ (by decide)

/-! ### A reset begins (R126, R427, R430) -/

theorem abortTarget_of_noClause (p : Entry → Bool) (h : s.cls = []) : abortTarget p s = s := by
  rw [abortTarget, h, List.foldl_nil]

/-- A job as a reset that absorbs none starts it. -/
def freshJob (sc : Scope) (askers late : List Nat) (s : State) : ResetJob := { scope := sc, began := s.flt.stamp, askers, late }

theorem startJob_of_none (sc : Scope) (askers late : List Nat) (h : s.flt.jobs = []) :
    startJob sc askers late s = tickStamp { s with flt := { s.flt with jobs := [freshJob sc askers late s] } } := by
  simp [startJob, freshJob, h]

/-- A started job is the only one, and changes no register and no bobbin. -/
theorem startJob_effect (sc : Scope) (askers late : List Nat) (h : s.flt.jobs = []) :
    (startJob sc askers late s).flt.jobs = [freshJob sc askers late s] ∧ (startJob sc askers late s).regs = s.regs
      ∧ (startJob sc askers late s).bobs = s.bobs := by
  rw [startJob_of_none sc askers late h]
  exact ⟨rfl, rfl, rfl⟩

/-- R126: a bobbin whose context is reset: FAULTED unless it is IDLE, with its work discarded. -/
def bobCut (b : Nat) (s : State) : State :=
  setBob (if bobState s b = bsIDLE then s else addDue (.bobGone b none) (setBobState b bsFAULTED s)) b {}

theorem bobCut_flt (b : Nat) (s : State) : (bobCut b s).flt = s.flt := by
  unfold bobCut
  split <;> rfl

theorem bobOf_bobCut (b : Nat) (s : State) : bobOf (bobCut b s) b = {} := bobOf_setBob_same _ _ _

theorem genOf_bobCut (b : Nat) (s : State) : genOf (bobCut b s) grBOB b = genOf s grBOB b := by
  have hne : G_GEN grBOB b 0 ≠ BOB_STATE b := csrAddr_ne_of_off (by decide)
  unfold bobCut
  split
  · rfl
  · exact rdF_wrF_other s _ _ _ hne

theorem beginContext_of_noClause (askers : List Nat) (h : s.cls = []) :
    beginContext grCRG n c askers s
      = startJob ⟨.context, grCRG, n, c⟩ askers [] (genNext grBOB (256 * n + c) 0 (bobCut (256 * n + c) s)) := by
  simp only [beginContext, abortTarget_of_noClause _ h, if_true]
  rw [unitGen_of_onePage rfl]
  rfl

/-- CONTEXT_RESET of a bobbin, begun: its GEN is the next one, its work is gone, and its reset is the one in progress. -/
theorem beginContext_effect (askers : List Nat) (hcls : s.cls = []) (hjobs : s.flt.jobs = []) :
    genOf (beginContext grCRG n c askers s) grBOB (256 * n + c) = (genOf s grBOB (256 * n + c) + 1) % 256
      ∧ bobOf (beginContext grCRG n c askers s) (256 * n + c) = {}
      ∧ (beginContext grCRG n c askers s).flt.jobs = [freshJob ⟨.context, grCRG, n, c⟩ askers [] s] := by
  have hflt : (genNext grBOB (256 * n + c) 0 (bobCut (256 * n + c) s)).flt = s.flt := bobCut_flt _ s
  obtain ⟨hjob, hregs, hbobs⟩ := startJob_effect ⟨.context, grCRG, n, c⟩ askers [] (by rw [hflt]; exact hjobs)
  rw [beginContext_of_noClause askers hcls]
  refine ⟨?gen, ?work, ?job⟩
  case gen => rw [genOf, rdF_congr hregs, ← genOf, genOf_genNext, genOf_bobCut]
  case work =>
    rw [bobOf, hbobs]
    exact bobOf_bobCut _ s
  case job => rw [hjob, freshJob, hflt, freshJob]

/-- No unit of a tile block is under way between commands: its reset advances GEN alone. -/
theorem beginEngine_tileBlock (askers late : List Nat) (h : s.cls = []) :
    beginEngine grTBK u askers late s = startJob ⟨.engine, grTBK, u, 0⟩ askers late (genNext grTBK u 0 s) := by
  rw [beginEngine, abortTarget_of_noClause _ h, ← unitGen_of_onePage rfl]
  rfl

/-- ENGINE_RESET of a tile block, begun: its GEN is the next one, and its reset is the one in progress. -/
theorem beginEngine_effect (askers late : List Nat) (hcls : s.cls = []) (hjobs : s.flt.jobs = []) :
    genOf (beginEngine grTBK u askers late s) grTBK u = (genOf s grTBK u + 1) % 256
      ∧ (beginEngine grTBK u askers late s).flt.jobs = [freshJob ⟨.engine, grTBK, u, 0⟩ askers late s] := by
  have hnone : (genNext grTBK u 0 s).flt.jobs = [] := hjobs
  obtain ⟨hjob, hregs, -⟩ := startJob_effect ⟨.engine, grTBK, u, 0⟩ askers late hnone
  rw [beginEngine_tileBlock askers late hcls]
  refine ⟨?_, hjob⟩
  rw [genOf, rdF_congr hregs, ← genOf, genOf_genNext]

/-! ### A reset completes (R422, R426) -/

/-- Two states differ in registers at most. -/
def RestKept (s t : State) : Prop := t = { s with regs := t.regs }

theorem restKept_wrReg {a : Nat} {w : Word} (h : RestKept s t) : RestKept s (wrReg t a w) := by
  unfold RestKept at h ⊢
  rw [h]
  rfl

theorem restKept_foldl {α : Type} {f : State → α → State} (hf : ∀ v x, RestKept s v → RestKept s (f v x)) (l : List α)
    (h : RestKept s t) : RestKept s (l.foldl f t) := by
  induction l generalizing t with
  | nil => exact h
  | cons x l ih => exact ih (hf t x h)

theorem restKept_bindStations (n : Nat) (h : RestKept s t) : RestKept s (bindStations n t) := by
  unfold bindStations
  refine restKept_foldl (fun _ _ hv => ?_) _ h
  extract_lets
  split
  · exact restKept_wrReg (restKept_wrReg (restKept_wrReg hv))
  · exact restKept_wrReg (restKept_wrReg (restKept_wrReg hv))

/-- Retention changes registers alone (R106, R439). -/
theorem restKept_wipeRegs (e : Wipe) (scope : Nat → Bool) (s : State) : RestKept s (wipeRegs e scope s) := by
  unfold wipeRegs
  refine restKept_foldl (fun _ n hv => ?_) _ rfl
  split
  · exact restKept_bindStations n (restKept_wrReg hv)
  · exact hv

theorem wipeRegs_flt (e : Wipe) (scope : Nat → Bool) (s : State) : (wipeRegs e scope s).flt = s.flt := by
  rw [restKept_wipeRegs e scope s]

theorem wipeRegs_mem (e : Wipe) (scope : Nat → Bool) (s : State) : (wipeRegs e scope s).mem = s.mem := by
  rw [restKept_wipeRegs e scope s]

/-- With no request at the homes nothing goes on. -/
theorem runReqs_of_noRequest (h : s.mem.reqs = []) : runReqs s = s := by
  have hmem : { s.mem with reqs := [] } = s.mem := by rw [← h]
  have hwake : unblock s = s := by
    rw [unblock, wake, modMem, h, List.map_nil, hmem]
  have hready : nextReady s = none := by simp [nextReady, h, oldest]
  have hpump : ∀ k, pump (k + 1) s = s := fun k => by simp [pump, hwake, hready]
  rw [runReqs, hpump, runFences, h]
  rfl

theorem relift_effect (s : State) : (relift s).flt.jobs = s.flt.jobs ∧ (relift s).regs = s.regs ∧ (relift s).mem = s.mem := by
  unfold relift
  extract_lets
  split <;> exact ⟨rfl, rfl, rfl⟩

/-- The end of an engine reset of a tile block that one page asked for, before fences are lifted: its registers are as reset leaves them
(R439), the event counts, and the page that asked shows LAST = 1. -/
def blockReset (u : Nat) (j : ResetJob) (base : Nat) (s : State) : State :=
  let t := wipeRegs .low (onUnit grTBK u) s
  setLast 1 (tickStamp { t with flt := { t.flt with
    jobs := t.flt.jobs.erase j, engineDone := sset (fun _ => 0) t.flt.engineDone (csrAddr grTBK u 0 0) j.began } }) base

theorem resetDone_tileBlock {j : ResetJob} {base : Nat} (hjobs : s.flt.jobs = [j]) (hscope : j.scope = ⟨.engine, grTBK, u, 0⟩)
    (hnow : j.deferred = false) (haskers : j.askers = [base]) (hlate : j.late = []) :
    resetDone ⟨.engine, grTBK, u, 0⟩ s = runReqs (relift (blockReset u j base s)) := by
  have hfind : (s.flt.jobs.find? fun j => j.scope == ⟨.engine, grTBK, u, 0⟩ && !j.deferred) = some j := by
    simp [hjobs, hscope, hnow]
  simp only [resetDone, hfind, haskers, hlate]
  rfl

theorem resetDone_effect {j : ResetJob} (hreqs : s.mem.reqs = []) (hjobs : s.flt.jobs = [j]) (hscope : j.scope = ⟨.engine, grTBK, u, 0⟩)
    (hnow : j.deferred = false) (haskers : j.askers = [csrAddr grTBK u 0 0]) (hlate : j.late = []) :
    (resetDone ⟨.engine, grTBK, u, 0⟩ s).flt.jobs = []
      ∧ rdF (resetDone ⟨.engine, grTBK, u, 0⟩ s) (G_RESET_CTL grTBK u 0) G_RESET_CTL_LAST = 1 := by
  obtain ⟨hj, hregs, hmem⟩ := relift_effect (blockReset u j (csrAddr grTBK u 0 0) s)
  have hidle : (relift (blockReset u j (csrAddr grTBK u 0 0) s)).mem.reqs = [] := by
    rw [hmem, blockReset, setLast, wrF_mem]
    exact (congrArg Mem.reqs (wipeRegs_mem _ _ s)).trans hreqs
  rw [resetDone_tileBlock hjobs hscope hnow haskers hlate, runReqs_of_noRequest hidle]
  refine ⟨?jobs, ?last⟩
  case jobs =>
    rw [hj, blockReset, setLast, wrF_flt, tickStamp]
    simp only [wipeRegs_flt, hjobs, List.erase_cons_head]
  case last =>
    rw [rdF_congr hregs, blockReset, setLast, csrAddr_add, G_RESET_CTL]
    exact rdF_wrF_same _ _ _ _ (by decide)

/-! ### A chip reset is abandoned (R426, R429) -/

@[simp] theorem raise_jobs (f : Src) (u : Nat) (s : State) : (raise f u s).flt.jobs = s.flt.jobs := by
  unfold raise; split <;> simp [firedNow]

@[simp] theorem raise_powerAsked (f : Src) (u : Nat) (s : State) : (raise f u s).flt.powerAsked = s.flt.powerAsked := by
  unfold raise; split <;> simp [firedNow]

/-- A chip reset, the only job, has been abandoned: it counts, and RESET_ESCALATED fires. -/
def chipAbandoned (s : State) : State :=
  raise srcFLT_RESET_ESCALATED 0 (bump { s with flt := { s.flt with jobs := [] } } FLT_ESCALATIONS)

/-- A power cycle is asked for, of the board too (R429, R460). -/
def powerCycleAsked (s : State) : State := ibi ibiPOWER_CYCLE_REQ { s with flt := { s.flt with powerAsked := true } }

theorem resetEscalated_chip {j : ResetJob} (hjobs : s.flt.jobs = [j]) (hscope : j.scope = ⟨.chip, 0, 0, 0⟩)
    (hnow : j.deferred = false) (haskers : j.askers = []) (hlate : j.late = []) :
    resetEscalated ⟨.chip, 0, 0, 0⟩ s
      = if rdBit (chipAbandoned s) FLT_AUTO FLT_AUTO_POWER then powerCycleAsked (chipAbandoned s) else chipAbandoned s := by
  have hfind : (s.flt.jobs.find? fun j => j.scope == ⟨.chip, 0, 0, 0⟩ && !j.deferred) = some j := by simp [hjobs, hscope, hnow]
  simp only [resetEscalated, hfind, haskers, hlate]
  rw [hjobs, List.erase_cons_head]
  rfl

theorem rdReg_chipAbandoned (s : State) {a : Nat} (h : a ≠ G_ERR_STICKY grFLT 0 0) :
    rdReg (chipAbandoned s) a = if a = FLT_ESCALATIONS then rdReg s FLT_ESCALATIONS + 1 else rdReg s a := by
  have hbit : srcFLT_RESET_ESCALATED.bit ≠ 15 := by decide
  rw [chipAbandoned, rdReg_raise_other _ _ _ h fun h15 => absurd h15 hbit, rdReg_bump]
  rfl

/-- Whatever else it asks for, the abandoned reset is gone, its count and source show it, and no register differs by the power cycle. -/
theorem chipAbandoned_effect (s : State) :
    (chipAbandoned s).flt.jobs = [] ∧ stickySet (chipAbandoned s) srcFLT_RESET_ESCALATED 0 = true
      ∧ rdReg (chipAbandoned s) FLT_ESCALATIONS = rdReg s FLT_ESCALATIONS + 1
      ∧ rdBit (chipAbandoned s) FLT_AUTO FLT_AUTO_POWER = rdBit s FLT_AUTO FLT_AUTO_POWER
      ∧ (chipAbandoned s).flt.powerAsked = s.flt.powerAsked := by
  refine ⟨by rw [chipAbandoned, raise_jobs]; rfl, stickySet_raise _ _ _ (by decide), ?count, ?auto,
    by rw [chipAbandoned, raise_powerAsked]; rfl⟩
  case count => rw [rdReg_chipAbandoned s (by decide), if_pos rfl]
  case auto => rw [rdBit, rdF, rdReg_chipAbandoned s (by decide), if_neg (by decide), ← rdF, ← rdBit]

/-- Settles O14: a reset that is asked for begins, completes, or is abandoned. -/
theorem resets : Obligations.Resets := by
  unfold Obligations.Resets
  refine ⟨⟨fun s n c hn hc hpark hjobs hcls hgen => ?context, fun s u hu hpark hjobs hcls => ?engine⟩,
    fun s u hu hreqs _ hjobs => ⟨_, rfl, resetDone_effect hreqs hjobs rfl rfl rfl rfl⟩, fun s hjobs => ?chip⟩
  case context =>
    have hwrite : csrWrite (G_RESET_CTL grCRG n 0) 8 (G_RESET_CTL_CONTEXT.set (G_RESET_CTL_REQ.set 0 1) c) s
        = okReply (beginContext grCRG n c [csrAddr grCRG n 0 0] s) := by
      have hg : csrGroup (csrAddr grCRG n 0 0) = grCRG := csrGroup_csrAddr (by omega) (by decide) (by decide)
      have hu : csrUnit (csrAddr grCRG n 0 0) = n := csrUnit_csrAddr (by omega) (by decide) (by decide)
      have hctx : ¬ 256 ≤ c := by omega
      have hask := resetAsk_begins (sc := ⟨.context, grCRG, n, c⟩) (csrAddr grCRG n 0 0) hpark hjobs hcls hgen
      rw [csrWrite_resetCtl (g := grCRG) (u := n) _ (by omega) (decide_eq_true hn) hcls, resetCtl_context _ (by omega), contextReset, hg, hu]
      exact (if_neg hctx).trans hask
    obtain ⟨hnext, hwork, hjob⟩ := beginContext_effect (n := n) (c := c) [csrAddr grCRG n 0 0] hcls hjobs
    exact ⟨_, congrArg done hwrite, rfl, hnext, hwork, hjob⟩
  case engine =>
    have hwrite : csrWrite (G_RESET_CTL grTBK u 0) 8 (G_RESET_CTL_REQ.set 0 2) s
        = okReply (beginEngine grTBK u [csrAddr grTBK u 0 0] [] s) := by
      have hg : csrGroup (csrAddr grTBK u 0 0) = grTBK := csrGroup_csrAddr (by omega) (by decide) (by decide)
      have hunit : csrUnit (csrAddr grTBK u 0 0) = u := csrUnit_csrAddr (by omega) (by decide) (by decide)
      have hask := resetAsk_begins (sc := ⟨.engine, grTBK, u, 0⟩) (csrAddr grTBK u 0 0) hpark hjobs hcls (genHeld_tileBlock s u)
      rw [csrWrite_resetCtl (g := grTBK) (u := u) _ (by omega) (decide_eq_true hu) hcls, resetCtl_engine, engineReset, hg, hunit]
      exact hask
    obtain ⟨hnext, hjob⟩ := beginEngine_effect (u := u) [csrAddr grTBK u 0 0] [] hcls hjobs
    exact ⟨_, congrArg done hwrite, rfl, hnext, hjob⟩
  case chip =>
    obtain ⟨hgone, hset, hcount, hauto, hpower⟩ := chipAbandoned_effect s
    refine ⟨_, congrArg done (resetEscalated_chip hjobs rfl rfl rfl rfl), ?_⟩
    rw [hauto]
    cases hon : rdBit s FLT_AUTO FLT_AUTO_POWER
    · exact ⟨hgone, hset, hcount, by rw [Bool.or_false]; exact hpower⟩
    · exact ⟨hgone, hset, hcount, (Bool.or_true _).symm⟩

end Sys2Proof.Machine
end

section
/-! PROOFS. Runs of bytes: little-endian numbers, slices, and signed numbers in two's complement (R6). -/

namespace Sys2Proof.Machine

/-! ### Little-endian numbers and slices (R6) -/

@[simp] theorem length_leBytes (n v : Nat) : (leBytes n v).length = n := by
  induction n generalizing v with
  | zero => rfl
  | succ n ih => rw [leBytes, List.length_cons, ih]

@[simp] theorem length_zeros (n : Nat) : (zeros n).length = n := List.length_replicate

@[simp] theorem length_bslice (bs : Bytes) (i n : Nat) : (bslice bs i n).length = n := by
  simp only [bslice, List.length_append, length_zeros, List.length_take]
  omega

theorem leNat_leBytes (n v : Nat) : leNat (leBytes n v) = v % 2 ^ (8 * n) := by
  induction n generalizing v with
  | zero => exact (Nat.mod_one v).symm
  | succ n ih => rw [leBytes, leNat, ih, BitVec.toNat_ofNat, Nat.mul_succ, pow_add, Nat.mul_comm (2 ^ (8 * n)), Nat.mod_mul]; rfl

theorem bslice_append_left {x : Bytes} (y : Bytes) {i n : Nat} (h : i + n ≤ x.length) : bslice (x ++ y) i n = bslice x i n := by
  rw [bslice, bslice, List.drop_append_of_le_length (by omega), List.take_append_of_le_length (by rw [List.length_drop]; omega)]

theorem bslice_append_right {x : Bytes} (y : Bytes) {i n : Nat} (h : x.length ≤ i) : bslice (x ++ y) i n = bslice y (i - x.length) n := by
  rw [bslice, bslice, List.drop_append, List.drop_of_length_le h, List.nil_append]

theorem bslice_all (x : Bytes) : bslice x 0 x.length = x := by simp [bslice, zeros]

theorem leAt_append_left {x : Bytes} (y : Bytes) {i n : Nat} (h : i + n ≤ x.length) : leAt (x ++ y) i n = leAt x i n :=
  congrArg leNat (bslice_append_left y h)

theorem leAt_append_right {x : Bytes} (y : Bytes) {i n : Nat} (h : x.length ≤ i) : leAt (x ++ y) i n = leAt y (i - x.length) n :=
  congrArg leNat (bslice_append_right y h)

theorem leAt_leBytes (n v : Nat) : leAt (leBytes n v) 0 n = v % 2 ^ (8 * n) := by
  have h := bslice_all (leBytes n v)
  rw [length_leBytes] at h
  rw [leAt, h, leNat_leBytes]

theorem cast_wrapInt (w : Nat) (i : Int) : (wrapInt w i : Int) = i % 2 ^ w := by
  rw [wrapInt, Int.toNat_of_nonneg (Int.emod_nonneg i (by positivity)), Nat.cast_pow, Nat.cast_ofNat]

theorem wrapInt_lt (w : Nat) (i : Int) : wrapInt w i < 2 ^ w := by
  have hlt : (wrapInt w i : Int) < 2 ^ w := cast_wrapInt w i ▸ Int.emod_lt_of_pos i (by positivity)
  exact_mod_cast hlt

theorem leAt_leBytes_wrapInt (n : Nat) (i : Int) : leAt (leBytes n (wrapInt (8 * n) i)) 0 n = wrapInt (8 * n) i := by
  rw [leAt_leBytes, Nat.mod_eq_of_lt (wrapInt_lt (8 * n) i)]

/-- A signed number that fits `w + 1` bits reads back from its low `w + 1` bits. -/
theorem sext_wrapInt {w : Nat} {i : Int} (hlo : -(2 : Int) ^ w ≤ i) (hhi : i < 2 ^ w) : sext (w + 1) (wrapInt (w + 1) i) = i := by
  have hcast := cast_wrapInt (w + 1) i
  have hhalf : (2 : Int) ^ (w + 1) = 2 * 2 ^ w := pow_succ' 2 w
  have hpow : ((2 ^ w : Nat) : Int) = 2 ^ w := by push_cast; rfl
  simp only [sext, Nat.mod_eq_of_lt (wrapInt_lt (w + 1) i), Nat.add_sub_cancel]
  rcases Int.lt_or_le i 0 with hneg | hnonneg
  · rw [← Int.add_emod_right, Int.emod_eq_of_lt (by omega) (by omega)] at hcast
    rw [if_neg (by omega)]
    push_cast
    omega
  · rw [Int.emod_eq_of_lt hnonneg (by omega)] at hcast
    rw [if_pos (by omega), hcast]

end Sys2Proof.Machine
end

section
/-! PROOFS. O33 and O34: exact accumulators, and the 64 bytes of an accumulator object (R6, R152, R153, R155, R234). -/

namespace Sys2Proof.Machine

variable {a b c : Acc320}

/-! ### Merging and adding while there is room (R153, R234) -/

/-- R234: while no more than 2^32 terms come together, merging adds values, counts and flags. -/
theorem accMerge_of_room (ha : a.ovr = false) (hb : b.ovr = false) (h : a.count + b.count ≤ 2 ^ 32) :
    accMerge a b = ⟨a.a + b.a, a.count + b.count, a.nan || b.nan, a.pinf || b.pinf, a.ninf || b.ninf, false⟩ := by
  rw [accMerge, ha, hb, if_neg Bool.false_ne_true, Bool.false_or, if_neg (by simpa using h)]

theorem accMerge_comm (ha : a.ovr = false) (hb : b.ovr = false) (h : a.count + b.count ≤ 2 ^ 32) : accMerge a b = accMerge b a := by
  rw [accMerge_of_room ha hb h, accMerge_of_room hb ha (by omega)]
  simp only [Int.add_comm, Nat.add_comm, Bool.or_comm]

theorem accMerge_assoc (ha : a.ovr = false) (hb : b.ovr = false) (hc : c.ovr = false) (h : a.count + b.count + c.count ≤ 2 ^ 32) :
    accMerge (accMerge a b) c = accMerge a (accMerge b c) := by
  rw [accMerge_of_room ha hb (by omega), accMerge_of_room hb hc (by omega), accMerge_of_room rfl hc h,
    accMerge_of_room ha rfl (by simpa only [Nat.add_assoc] using h)]
  simp only [Int.add_assoc, Nat.add_assoc, Bool.or_assoc]

theorem accMerge_empty (ha : a.ovr = false) (h : a.count ≤ 2 ^ 32) : accMerge a {} = a := by
  have hclear : { a with ovr := false } = a := by rw [← ha]
  rw [accMerge_of_room (b := {}) ha rfl h]
  simpa only [Int.add_zero, Nat.add_zero, Bool.or_false] using hclear

/-- R153: a term that finds room counts once and leaves OVER clear. -/
theorem accAdd_of_room (v : Val) (ha : a.ovr = false) (h : a.count < 2 ^ 32) :
    accAdd a v = accTerm 149 { a with count := a.count + 1 } v := by
  rw [accAdd, ha, if_neg Bool.false_ne_true, if_neg (Nat.ne_of_lt h)]

theorem accTerm_count (u : Nat) (a : Acc320) (v : Val) : (accTerm u a v).count = a.count ∧ (accTerm u a v).ovr = a.ovr := by
  match v with
  | .nan => exact ⟨rfl, rfl⟩
  | .inf false => exact ⟨rfl, rfl⟩
  | .inf true => exact ⟨rfl, rfl⟩
  | .fin _ _ _ => exact ⟨rfl, rfl⟩

theorem accAdd_count (v : Val) (ha : a.ovr = false) (h : a.count < 2 ^ 32) :
    (accAdd a v).count = a.count + 1 ∧ (accAdd a v).ovr = false := by
  rw [accAdd_of_room v ha h]
  exact ⟨(accTerm_count _ _ v).1, (accTerm_count _ _ v).2.trans ha⟩

/-- R153, R234: adding a term is merging the partial of that term alone. -/
theorem accAdd_eq_accMerge (v : Val) (ha : a.ovr = false) (h : a.count < 2 ^ 32) : accAdd a v = accMerge a (accAdd {} v) := by
  obtain ⟨hcount, hovr⟩ := accAdd_count (a := {}) v rfl (by decide)
  rw [accMerge_of_room ha hovr (by rw [hcount]; exact h), accAdd_of_room v ha h, accAdd_of_room v rfl (by decide)]
  match v with
  | .nan => simp [accTerm, ha]
  | .inf false => simp [accTerm, ha]
  | .inf true => simp [accTerm, ha]
  | .fin _ _ _ => simp [accTerm, ha]

/-! ### Sums of lists (R152, R153) -/

theorem foldl_accAdd_count (l : List Val) (ha : a.ovr = false) (h : a.count + l.length ≤ 2 ^ 32) :
    (l.foldl accAdd a).count = a.count + l.length ∧ (l.foldl accAdd a).ovr = false := by
  induction l generalizing a with
  | nil => exact ⟨rfl, ha⟩
  | cons v l ih =>
    rw [List.length_cons] at h
    obtain ⟨hcount, hovr⟩ := accAdd_count v ha (by omega)
    obtain ⟨hsum, hfin⟩ := ih hovr (by omega)
    exact ⟨by rw [List.foldl_cons, hsum, hcount, List.length_cons]; omega, hfin⟩

/-- The partial of a list from the empty accumulator. -/
theorem partial_count {l : List Val} (h : l.length ≤ 2 ^ 32) :
    (l.foldl accAdd {}).count = l.length ∧ (l.foldl accAdd {}).ovr = false := by
  simpa using foldl_accAdd_count (a := {}) l rfl (by simpa using h)

/-- R153, R234: adding a list's values one by one is merging its partial. -/
theorem foldl_accAdd_eq_accMerge (l : List Val) (ha : a.ovr = false) (h : a.count + l.length ≤ 2 ^ 32) :
    l.foldl accAdd a = accMerge a (l.foldl accAdd {}) := by
  induction l generalizing a with
  | nil => exact (accMerge_empty ha h).symm
  | cons v l ih =>
    rw [List.length_cons] at h
    obtain ⟨hcount, hovr⟩ := accAdd_count v ha (by omega)
    obtain ⟨hone, hclear⟩ := accAdd_count (a := {}) v rfl (by decide)
    obtain ⟨hlen, hpart⟩ := partial_count (l := l) (by omega)
    rw [List.foldl_cons, List.foldl_cons, ih hovr (by omega), ih hclear (by rw [hone, Nat.zero_add]; omega),
      accAdd_eq_accMerge v ha (by omega),
      accMerge_assoc ha hclear hpart (by rw [hone, hlen, Nat.zero_add]; omega)]

theorem partial_cons {v : Val} {l : List Val} (h : l.length < 2 ^ 32) :
    (v :: l).foldl accAdd {} = accMerge (accAdd {} v) (l.foldl accAdd {}) := by
  obtain ⟨hone, hclear⟩ := accAdd_count (a := {}) v rfl (by decide)
  exact foldl_accAdd_eq_accMerge l hclear (by rw [hone, Nat.zero_add]; omega)

/-- The partial of two more values does not depend on which of them comes first. -/
theorem partial_swap {x y : Val} {l : List Val} (h : l.length + 2 ≤ 2 ^ 32) :
    (x :: y :: l).foldl accAdd {} = (y :: x :: l).foldl accAdd {} := by
  obtain ⟨hx, hxovr⟩ := accAdd_count (a := {}) x rfl (by decide)
  obtain ⟨hy, hyovr⟩ := accAdd_count (a := {}) y rfl (by decide)
  obtain ⟨hlen, hpart⟩ := partial_count (l := l) (by omega)
  rw [Nat.zero_add] at hx hy
  rw [partial_cons (by rw [List.length_cons]; omega), partial_cons (by omega),
    partial_cons (v := y) (by rw [List.length_cons]; omega), partial_cons (v := x) (by omega),
    ← accMerge_assoc hxovr hyovr hpart (by omega), ← accMerge_assoc hyovr hxovr hpart (by omega),
    accMerge_comm hxovr hyovr (by omega)]

/-- R152: the partial of a list does not depend on the order of its values. -/
theorem partial_perm {l k : List Val} (hperm : l.Perm k) (h : l.length ≤ 2 ^ 32) : l.foldl accAdd {} = k.foldl accAdd {} := by
  induction hperm with
  | nil => rfl
  | @cons v l k hlk ih =>
    rw [List.length_cons] at h
    rw [partial_cons (by omega), partial_cons (hlk.length_eq ▸ by omega), ih (by omega)]
  | swap x y l => exact partial_swap h
  | trans hlk _ ih ih' => exact (ih h).trans (ih' (hlk.length_eq ▸ h))

/-- Settles O33: adding a list is merging its partial, and a partial is a merge of its values' partials, which commutes. -/
theorem exactAccumulationIsOrderFree : Obligations.ExactAccumulationIsOrderFree := by
  unfold Obligations.ExactAccumulationIsOrderFree
  refine ⟨fun a l k ha h hperm => ?order, fun a l ha h => (foldl_accAdd_eq_accMerge l ha h).symm, fun a b => accMerge_comm⟩
  case order =>
    rw [foldl_accAdd_eq_accMerge l ha h, foldl_accAdd_eq_accMerge k ha (hperm.length_eq ▸ h), partial_perm hperm (by omega)]

/-! ### The accumulator object (R155) -/

/-- The flag byte of R155 gives its four flags back. -/
theorem bit_flags (n p m o : Bool) :
    let v := (n.toNat + 2 * p.toNat + 4 * m.toNat + 8 * o.toNat) % 2 ^ (8 * 1)
    bit v 0 = n ∧ bit v 1 = p ∧ bit v 2 = m ∧ bit v 3 = o := by
  revert n p m o
  decide

theorem length_accEnc (a : Acc320) : (accEnc a).length = 64 := by simp [accEnc]

/-- R155: where the fields of an accumulator object stand, as little-endian numbers. -/
theorem leAt_accEnc (a : Acc320) :
    leAt (accEnc a) 0 40 = wrapInt 320 a.a ∧ leAt (accEnc a) 40 5 = a.count % 2 ^ (8 * 5)
      ∧ leAt (accEnc a) 45 1 = (a.nan.toNat + 2 * a.pinf.toNat + 4 * a.ninf.toNat + 8 * a.ovr.toNat) % 2 ^ (8 * 1) := by
  rw [accEnc]
  refine ⟨?value, ?count, ?flags⟩
  case value =>
    rw [leAt_append_left _ (by simp), leAt_append_left _ (by simp), leAt_append_left _ (by simp)]
    exact leAt_leBytes_wrapInt 40 a.a
  case count =>
    rw [leAt_append_left _ (by simp), leAt_append_left _ (by simp), leAt_append_right _ (by simp), length_leBytes, leAt_leBytes]
  case flags => rw [leAt_append_left _ (by simp), leAt_append_right _ (by simp), List.length_append, length_leBytes, length_leBytes, leAt_leBytes]

theorem accDec_accEnc (hlo : -(2 : Int) ^ 319 ≤ a.a) (hhi : a.a < 2 ^ 319) (hcount : a.count ≤ 2 ^ 32) : accDec (accEnc a) = a := by
  obtain ⟨hvalue, hterms, hflags⟩ := leAt_accEnc a
  obtain ⟨hnan, hpinf, hninf, hovr⟩ := bit_flags a.nan a.pinf a.ninf a.ovr
  have hroom : a.count % 2 ^ (8 * 5) = a.count := Nat.mod_eq_of_lt (by omega)
  rw [accDec, hvalue, hterms, hflags, hnan, hpinf, hninf, hovr, hroom, sext_wrapInt hlo hhi]

/-- Settles O34: each field of the object reads back from its place, and the value from its 320 bits. -/
theorem accumulatorObjectRoundTrip : Obligations.AccumulatorObjectRoundTrip := by
  unfold Obligations.AccumulatorObjectRoundTrip
  exact fun a hlo hhi hcount => ⟨length_accEnc a, accDec_accEnc hlo hhi hcount⟩

end Sys2Proof.Machine
end

section
/-! PROOFS. Sectors and ranges of the pool: what a read that ends OK finds, and what a write behind it leaves (R245, R248, R249). -/

namespace Sys2Proof.Machine

variable {s t : State} {part sec mask p : Nat} {enc : Bool}

/-! ### What a read of the pool depends on -/

/-- Two states whose pool, wrong bits, sectors and keys are the same: a read of the pool finds the same in both. -/
structure SameStore (s t : State) : Prop where
  pool : t.mem.pool = s.mem.pool
  errs : t.mem.errs = s.mem.errs
  sectors : t.mem.sectors = s.mem.sectors
  keys : t.mem.keys = s.mem.keys
  parts : ∀ part, rdReg t (SEC_PART_STATE part) = rdReg s (SEC_PART_STATE part)

/-- A sector verifies as it stands, without correction: no poison, no wrong bits, the partition's key, no block that awaits its first
write (R249). -/
def Verifies (s : State) (part sec mask : Nat) : Prop := sectorPoison s sec = false ∧ sectorFits s part sec mask = true

theorem SameStore.trans {u : State} (h : SameStore s t) (k : SameStore t u) : SameStore s u :=
  ⟨k.pool.trans h.pool, k.errs.trans h.errs, k.sectors.trans h.sectors, k.keys.trans h.keys, fun i => (k.parts i).trans (h.parts i)⟩

theorem SameStore.symm (h : SameStore s t) : SameStore t s :=
  ⟨h.pool.symm, h.errs.symm, h.sectors.symm, h.keys.symm, fun i => (h.parts i).symm⟩

theorem poolBytes_congr (h : t.mem.pool = s.mem.pool) (p n : Nat) : poolBytes t p n = poolBytes s p n := by
  simp only [poolBytes, poolByte, h]

/-- A counter is none of the registers that keys depend on. -/
theorem sameStore_bump (s : State) {g u q o : Nat} (n : Nat) (h : o % 4096 ≠ 0x100) : SameStore s (bump s (csrAddr g u q o) n) where
  pool := rfl
  errs := rfl
  sectors := rfl
  keys := rfl
  parts _ := rdReg_wrReg_other s _ (csrAddr_ne_of_off fun k => h k.symm)

theorem blocksMoved_mem (p n : Nat) (s : State) : (blocksMoved p n s).mem = s.mem := by
  unfold blocksMoved
  split <;> rfl

theorem sameStore_blocksMoved (p n : Nat) (s : State) : SameStore s (blocksMoved p n s) := by
  unfold blocksMoved
  split
  · exact ⟨rfl, rfl, rfl, rfl, fun _ => rfl⟩
  · exact sameStore_bump s n (by decide)

theorem blockBad_congr (h : t.mem.errs = s.mem.errs) (b : Nat) : blockBad t b = blockBad s b := by rw [blockBad, blockBad, h]

theorem keyFits_congr (hkeys : t.mem.keys = s.mem.keys) (hparts : ∀ i, rdReg t (SEC_PART_STATE i) = rdReg s (SEC_PART_STATE i))
    (part : Nat) (k : WorkKey) : keyFits t part k = keyFits s part k := by
  simp only [keyFits, sealKey, slotOf, rdF, hkeys, hparts]

/-! ### Sectors that verify -/

theorem verifies_iff : Verifies s part sec mask ↔ ∃ x, sfind s.mem.sectors sec = some x ∧ x.poison = 0 ∧ keyFits s part x.key = true
    ∧ x.stale &&& mask = 0 ∧ ∀ b ∈ sectorBlocks sec, blockBad s b = false := by
  unfold Verifies sectorPoison sectorFits
  cases sfind s.mem.sectors sec with
  | none => simp
  | some x => simp [and_assoc]

theorem Verifies.notBad (h : Verifies s part sec mask) {b : Nat} (hb : b ∈ sectorBlocks sec) : blockBad s b = false := by
  obtain ⟨_, _, _, _, _, hbad⟩ := verifies_iff.mp h
  exact hbad b hb

/-- A sector goes on verifying while its side bytes and the keys stay and none of its blocks gets wrong bits. -/
theorem Verifies.of_eq (h : Verifies s part sec mask) (hsec : sfind t.mem.sectors sec = sfind s.mem.sectors sec)
    (hkeys : t.mem.keys = s.mem.keys) (hparts : ∀ i, rdReg t (SEC_PART_STATE i) = rdReg s (SEC_PART_STATE i))
    (hbad : ∀ b ∈ sectorBlocks sec, blockBad t b = true → blockBad s b = true) : Verifies t part sec mask := by
  obtain ⟨x, hx, hpoison, hkey, hstale, hgood⟩ := verifies_iff.mp h
  refine verifies_iff.mpr ⟨x, hsec.trans hx, hpoison, (keyFits_congr hkeys hparts part x.key).trans hkey, hstale, fun b hb => ?_⟩
  refine Bool.eq_false_iff.mpr fun hbt => ?_
  exact absurd (hbad b hb hbt) (by simp [hgood b hb])

theorem Verifies.congr (h : Verifies s part sec mask) (k : SameStore s t) : Verifies t part sec mask :=
  h.of_eq (by rw [k.sectors]) k.keys k.parts fun b _ => by rw [blockBad_congr k.errs]; exact id

/-! ### Correction (R249) -/

/-- The wrong bits of the memory once those of block `b` are `e`. -/
def errsSet (b : Nat) (e : Bytes) (m : SMap Nat) : SMap Nat :=
  (e.zipIdx.filter (·.1 != 0)).foldl (fun r x => sset (fun _ => 0) r (80 * b + x.2) x.1.toNat) (skeep (fun k => k / 80 != b) m)

/-- The wrong bits that the correction of a sector leaves in the memory. -/
def errsCorrected (sec : Nat) (s : State) : SMap Nat := (fixable s sec).foldl (fun r x => errsSet x.1 x.2 r) s.mem.errs

theorem foldl_setErrs (l : List (Nat × Bytes)) (s : State) : l.foldl (fun s x => setErrs x.1 x.2 s) s
    = modMem s fun m => { m with errs := l.foldl (fun r x => errsSet x.1 x.2 r) m.errs } := by
  induction l generalizing s with
  | nil => rfl
  | cons x l ih => rw [List.foldl_cons, ih]; rfl

theorem correctSector_mem (sec : Nat) (s : State) : (correctSector sec s).mem = { s.mem with errs := errsCorrected sec s } := by
  unfold correctSector errsCorrected
  dsimp only
  split
  · next h => rw [List.isEmpty_iff.mp h]; rfl
  · rw [foldl_setErrs]; rfl

theorem rdReg_correctSector (sec : Nat) (s : State) {g u q o : Nat} (h : o % 4096 ≠ 0xC10) :
    rdReg (correctSector sec s) (csrAddr g u q o) = rdReg s (csrAddr g u q o) := by
  unfold correctSector
  dsimp only
  split
  · rfl
  · rw [foldl_setErrs]
    exact rdReg_wrReg_other s _ (csrAddr_ne_of_off h)

theorem fixable_congr (h : t.mem.errs = s.mem.errs) (sec : Nat) : fixable t sec = fixable s sec := by
  simp only [fixable, errsAfter, blockErrs, funext (blockBad_congr h), h]

theorem sameStore_correctSector (h : SameStore s t) (sec : Nat) : SameStore (correctSector sec s) (correctSector sec t) where
  pool := by rw [correctSector_mem, correctSector_mem, h.pool]
  errs := by rw [correctSector_mem, correctSector_mem, errsCorrected, errsCorrected, fixable_congr h.errs, h.errs]
  sectors := by rw [correctSector_mem, correctSector_mem, h.sectors]
  keys := by rw [correctSector_mem, correctSector_mem, h.keys]
  parts i := by
    rw [SEC_PART_STATE, rdReg_correctSector sec t (by decide), rdReg_correctSector sec s (by decide)]
    exact h.parts i

theorem mem_sset {α : Type} [DecidableEq α] {d : Nat → α} {m : SMap α} {k : Nat} {v : α} {e : Nat × α} (h : e ∈ sset d m k v) :
    e = (k, v) ∨ e ∈ m := by
  unfold sset at h
  split at h
  · exact .inr (mem_sdel h)
  · exact (mem_sins h).imp id mem_sdel

/-- Entries that a run of updates adds are those that one of them adds. -/
theorem mem_foldl_adding {α β : Type} {P : Prop} {f : List α → β → List α} {l : List β} {m : List α} {e : α}
    (hf : ∀ r, ∀ x ∈ l, e ∈ f r x → e ∈ r ∨ P) (h : e ∈ l.foldl f m) : e ∈ m ∨ P := by
  induction l generalizing m with
  | nil => exact .inl h
  | cons y l ih =>
    rcases ih (fun r x hx => hf r x (List.mem_cons_of_mem y hx)) h with k | k
    · exact hf m y List.mem_cons_self k
    · exact .inr k

/-- Correcting a block puts no wrong bits before it. -/
theorem mem_errsSet {b : Nat} {x : Bytes} {m : SMap Nat} {e : Nat × Nat} (h : e ∈ errsSet b x m) : e ∈ m ∨ 80 * b ≤ e.1 := by
  have hput (r : SMap Nat) : ∀ y ∈ x.zipIdx.filter (·.1 != 0), e ∈ sset (fun _ => 0) r (80 * b + y.2) y.1.toNat →
      e ∈ r ∨ 80 * b ≤ e.1 := by
    intro y _ h
    rcases mem_sset h with rfl | h
    · exact .inr (Nat.le_add_right _ _)
    · exact .inl h
  exact (mem_foldl_adding hput h).imp (fun k => List.mem_of_mem_filter k) id

theorem mem_errsCorrected {e : Nat × Nat} (h : e ∈ errsCorrected sec s) : e ∈ s.mem.errs ∨ 320 * sec ≤ e.1 := by
  refine mem_foldl_adding (fun r x hx h => (mem_errsSet h).imp id fun hle => ?_) h
  obtain ⟨b, hb, hsome⟩ := List.mem_filterMap.mp (List.mem_of_mem_filter hx)
  obtain ⟨y, -, rfl⟩ := Option.map_eq_some_iff.mp hsome
  have hmem := List.mem_of_mem_filter hb
  simp only [sectorBlocks, List.mem_cons, List.not_mem_nil, or_false] at hmem
  omega

theorem div_of_mem_sectorBlocks {b : Nat} (h : b ∈ sectorBlocks sec) : b / 4 = sec := by
  simp only [sectorBlocks, List.mem_cons, List.not_mem_nil, or_false] at h
  omega

/-- Correction leaves the sectors before it as good as they were. -/
theorem Verifies.correctSector {sec' : Nat} (h : Verifies s part sec mask) (hlt : sec < sec') : Verifies (correctSector sec' s) part sec mask := by
  refine h.of_eq (by rw [correctSector_mem]) (by rw [correctSector_mem]) (fun i => rdReg_correctSector sec' s (by decide)) fun b hb hbad => ?_
  have hsec := div_of_mem_sectorBlocks hb
  rw [blockBad, correctSector_mem, List.any_eq_true] at hbad
  obtain ⟨e, he, hblock⟩ := hbad
  rcases mem_errsCorrected he with hold | hnew
  · exact List.any_eq_true.mpr ⟨e, hold, hblock⟩
  · rw [beq_iff_eq] at hblock
    omega

/-- Where no block has wrong bits there is nothing to correct. -/
theorem correctSector_of_good (h : ∀ b ∈ sectorBlocks sec, blockBad s b = false) : correctSector sec s = s := by
  have hnone : (sectorBlocks sec).filter (blockBad s) = [] := List.filter_eq_nil_iff.mpr fun b hb => by simp [h b hb]
  rw [Sys2Proof.Machine.correctSector, fixable, hnone]
  rfl

/-! ### A read of a sector (R249) -/

/-- The state in which a read of a sector judges it: its blocks are counted, and what can be corrected is. -/
def judged (sec : Nat) (s : State) : State := correctSector sec (blocksMoved (256 * sec) 4 s)

theorem readSector_of_judged (h : Verifies (judged sec s) part sec mask) : readSector part sec mask s = (stOK, judged sec s) := by
  obtain ⟨hpoison, hfits⟩ := h
  have hgood : unfixable (judged sec s) sec = [] := List.filter_eq_nil_iff.mpr fun b hb => by
    simp [errsAfter, Verifies.notBad ⟨hpoison, hfits⟩ hb]
  rw [judged] at hpoison hfits hgood
  simp [readSector, hgood, hpoison, hfits, judged]

theorem judged_of_readSector (h : (readSector part sec mask s).1 = stOK) : Verifies (judged sec s) part sec mask := by
  unfold readSector at h
  dsimp only at h
  split at h
  · cases h
  · split at h
    · cases h
    · next hpoison =>
      split at h
      · next hfits => exact ⟨Bool.eq_false_iff.mpr hpoison, hfits⟩
      · cases h

/-- A read of a sector ends OK where the sector verifies once it is corrected, and leaves it so. -/
theorem readSector_of_ok (h : (readSector part sec mask s).1 = stOK) :
    readSector part sec mask s = (stOK, judged sec s) ∧ Verifies (judged sec s) part sec mask :=
  ⟨readSector_of_judged (judged_of_readSector h), judged_of_readSector h⟩

theorem judged_of_verifies (h : Verifies s part sec mask) : judged sec s = blocksMoved (256 * sec) 4 s :=
  correctSector_of_good fun _ hb => (h.congr (sameStore_blocksMoved (256 * sec) 4 s)).notBad hb

theorem readSector_of_verifies (h : Verifies s part sec mask) : readSector part sec mask s = (stOK, blocksMoved (256 * sec) 4 s) := by
  rw [← judged_of_verifies h]
  refine readSector_of_judged ?_
  rw [judged_of_verifies h]
  exact h.congr (sameStore_blocksMoved (256 * sec) 4 s)

theorem sameStore_judged (h : SameStore s t) (sec : Nat) : SameStore (judged sec s) (judged sec t) :=
  sameStore_correctSector (((sameStore_blocksMoved _ _ s).symm.trans h).trans (sameStore_blocksMoved _ _ t)) sec

theorem judged_mem (sec : Nat) (s : State) : (judged sec s).mem = { s.mem with errs := (judged sec s).mem.errs } := by
  rw [judged, correctSector_mem, blocksMoved_mem]

/-! ### A read of a range (R249) -/

/-- A read of a range, one piece on: the first status that is not OK stays. -/
def readStep (part : Nat) (a : Nat × State) (x : Nat × Nat) : Nat × State :=
  (if a.1 = stOK then (readSector part (x.1 / 256) (blockMask x.1 x.2) a.2).1 else a.1,
    (readSector part (x.1 / 256) (blockMask x.1 x.2) a.2).2)

/-- A read of pieces of sectors, one after the other. -/
def readPieces (part : Nat) (xs : List (Nat × Nat)) (s : State) : Nat × State := xs.foldl (readStep part) (stOK, s)

theorem memRead_eq (part p n : Nat) (s : State) : memRead part p n s =
    ((readPieces part (pieces (n / 256 + 2) p n) s).1,
      if (readPieces part (pieces (n / 256 + 2) p n) s).1 = stOK then poolBytes (readPieces part (pieces (n / 256 + 2) p n) s).2 p n else [],
      (readPieces part (pieces (n / 256 + 2) p n) s).2) := rfl

theorem foldl_readStep_failed {a : Nat × State} (xs : List (Nat × Nat)) (h : a.1 ≠ stOK) : (xs.foldl (readStep part) a).1 = a.1 := by
  induction xs generalizing a with
  | nil => rfl
  | cons x xs ih =>
    have hstep : (readStep part a x).1 = a.1 := if_neg h
    rw [List.foldl_cons, ih (hstep ▸ h), hstep]

/-- A read of pieces that ends OK: the first piece's sector verifies once judged, and the rest is read from there. -/
theorem readPieces_cons_of_ok {x : Nat × Nat} {xs : List (Nat × Nat)} (h : (readPieces part (x :: xs) s).1 = stOK) :
    Verifies (judged (x.1 / 256) s) part (x.1 / 256) (blockMask x.1 x.2)
      ∧ readPieces part (x :: xs) s = readPieces part xs (judged (x.1 / 256) s) := by
  have hfirst : (readSector part (x.1 / 256) (blockMask x.1 x.2) s).1 = stOK := by
    by_contra hne
    exact hne ((foldl_readStep_failed xs (a := readStep part (stOK, s) x) hne).symm.trans h)
  obtain ⟨hread, hverifies⟩ := readSector_of_ok hfirst
  exact ⟨hverifies, by rw [readPieces, List.foldl_cons, readStep, hread]; rfl⟩

/-- A read of pieces ends OK or not by what it depends on, and leaves what later reads depend on alike. -/
theorem readPieces_congr {xs : List (Nat × Nat)} (h : SameStore s t) (hok : (readPieces part xs s).1 = stOK) :
    (readPieces part xs t).1 = stOK ∧ SameStore (readPieces part xs s).2 (readPieces part xs t).2 := by
  induction xs generalizing s t with
  | nil => exact ⟨rfl, h⟩
  | cons x xs ih =>
    obtain ⟨hverifies, hrest⟩ := readPieces_cons_of_ok hok
    have hsame := sameStore_judged h (x.1 / 256)
    have hread := readSector_of_judged (hverifies.congr hsame)
    have ht : readPieces part (x :: xs) t = readPieces part xs (judged (x.1 / 256) t) := by
      rw [readPieces, List.foldl_cons, readStep, hread]; rfl
    rw [hrest] at hok ⊢
    rw [ht]
    exact ih hsame hok

theorem readPieces_mem {xs : List (Nat × Nat)} (hok : (readPieces part xs s).1 = stOK) :
    (readPieces part xs s).2.mem = { s.mem with errs := (readPieces part xs s).2.mem.errs } := by
  induction xs generalizing s with
  | nil => rfl
  | cons x xs ih =>
    obtain ⟨_, hrest⟩ := readPieces_cons_of_ok hok
    rw [hrest] at hok ⊢
    rw [ih hok, judged_mem]

/-- Pieces that lie in sectors one behind the other. -/
def Rising (xs : List (Nat × Nat)) : Prop := xs.Pairwise fun x y => x.1 / 256 < y.1 / 256

/-- Reads of sectors behind it leave a sector as good as it was. -/
theorem Verifies.readPieces {xs : List (Nat × Nat)} (h : Verifies s part sec mask) (hbehind : ∀ x ∈ xs, sec < x.1 / 256)
    {part' : Nat} (hok : (readPieces part' xs s).1 = stOK) : Verifies (readPieces part' xs s).2 part sec mask := by
  induction xs generalizing s with
  | nil => exact h
  | cons x xs ih =>
    obtain ⟨_, hrest⟩ := readPieces_cons_of_ok hok
    rw [hrest] at hok ⊢
    have hjudged : Verifies (judged (x.1 / 256) s) part sec mask :=
      (h.congr (sameStore_blocksMoved _ _ s)).correctSector (hbehind x List.mem_cons_self)
    exact ih hjudged (fun y hy => hbehind y (List.mem_cons_of_mem x hy)) hok

/-- After a read that ends OK every sector that it read verifies as it stands. -/
theorem verifies_of_readPieces {xs : List (Nat × Nat)} (hrising : Rising xs) (hok : (readPieces part xs s).1 = stOK) :
    ∀ x ∈ xs, Verifies (readPieces part xs s).2 part (x.1 / 256) (blockMask x.1 x.2) := by
  induction xs generalizing s with
  | nil => exact fun _ h => absurd h List.not_mem_nil
  | cons x xs ih =>
    obtain ⟨hbehind, hrising⟩ := List.pairwise_cons.mp hrising
    obtain ⟨hfirst, hrest⟩ := readPieces_cons_of_ok hok
    rw [hrest] at hok ⊢
    intro y hy
    rcases List.mem_cons.mp hy with rfl | hy
    · exact hfirst.readPieces hbehind hok
    · exact ih hrising hok y hy

/-! ### A write of a range (R248) -/

/-- A write of a range, one piece on. -/
def writeStep (part : Nat) (enc : Bool) (p : Nat) (d : Bytes) (a : Nat × State) (x : Nat × Nat) : Nat × State :=
  (if a.1 = stOK then (writeSector part enc x.1 (bslice d (x.1 - p) x.2) a.2).1 else a.1,
    (writeSector part enc x.1 (bslice d (x.1 - p) x.2) a.2).2)

/-- A write of pieces of sectors, one after the other. -/
def writePieces (part : Nat) (enc : Bool) (p : Nat) (d : Bytes) (xs : List (Nat × Nat)) (s : State) : Nat × State :=
  xs.foldl (writeStep part enc p d) (stOK, s)

theorem memWrite_eq (part : Nat) (enc : Bool) (p : Nat) (d : Bytes) (s : State) :
    memWrite part enc p d s = writePieces part enc p d (pieces (d.length / 256 + 2) p d.length) s := rfl

/-- A write to a sector that verifies stores its bytes. -/
theorem writeSector_of_verifies {d : Bytes} (h : Verifies s part (p / 256) (blockMask p d.length)) :
    ∃ u, SameStore s u ∧ u.mem = s.mem ∧ writeSector part enc p d s = (stOK, putSector part enc p d u) := by
  by_cases hfull : d.length = 256
  · exact ⟨s, ⟨rfl, rfl, rfl, rfl, fun _ => rfl⟩, rfl, by simp [writeSector, writeSectorOver, hfull]⟩
  · refine ⟨blocksMoved (256 * (p / 256)) 4 s, sameStore_blocksMoved _ _ s, blocksMoved_mem _ _ s, ?_⟩
    simp only [writeSector, writeSectorOver, if_neg hfull, readSector_of_verifies h, if_true]

theorem putSector_mem (part : Nat) (enc : Bool) (p : Nat) (d : Bytes) (s : State) : ∃ x,
    (putSector part enc p d s).mem = { s.mem with
      pool := poolPut d p s.mem.pool
      errs := skeep (fun k => k / 320 != p / 256) s.mem.errs
      sectors := sput s.mem.sectors (p / 256) x } :=
  ⟨_, blocksMoved_mem _ _ _⟩

theorem rdReg_putSector (part : Nat) (enc : Bool) (p : Nat) (d : Bytes) (s : State) (i : Nat) :
    rdReg (putSector part enc p d s) (SEC_PART_STATE i) = rdReg s (SEC_PART_STATE i) :=
  (sameStore_blocksMoved _ _ _).parts i

theorem sfind_sdel_other {α : Type} (m : SMap α) {j k : Nat} (hjk : j ≠ k) : sfind (sdel m k) j = sfind m j := by
  induction m with
  | nil => rfl
  | cons e r ih =>
    obtain ⟨i, v⟩ := e
    by_cases hk : i = k
    · subst hk
      simp [sdel, sfind, ih, hjk.symm]
    · simp [sdel, sfind, hk, ih]

theorem sfind_sput_other {α : Type} (m : SMap α) {j k : Nat} (v : α) (hjk : j ≠ k) : sfind (sput m k v) j = sfind m j := by
  have hins : ∀ r : SMap α, sfind (sins r k v) j = sfind r j := by
    intro r
    induction r with
    | nil => simp [sins, sfind, hjk.symm]
    | cons e r ih =>
      obtain ⟨i, w⟩ := e
      by_cases hlt : k < i
      · simp [sins, sfind, hlt, hjk.symm]
      · simp [sins, sfind, hlt, ih]
  rw [sput, hins, sfind_sdel_other m hjk]

/-- A write to one sector leaves another as good as it was. -/
theorem Verifies.putSector {part' : Nat} {d : Bytes} (h : Verifies s part sec mask) (hne : sec ≠ p / 256) :
    Verifies (putSector part' enc p d s) part sec mask := by
  obtain ⟨x, hmem⟩ := putSector_mem part' enc p d s
  refine h.of_eq (by rw [hmem]; exact sfind_sput_other _ _ hne) (by rw [hmem]) (rdReg_putSector part' enc p d s) fun b _ hbad => ?_
  rw [blockBad, hmem, List.any_eq_true] at hbad
  obtain ⟨e, he, hblock⟩ := hbad
  exact List.any_eq_true.mpr ⟨e, List.mem_of_mem_filter he, hblock⟩

/-- What a write of pieces puts into the pool. -/
def putPieces (p : Nat) (d : Bytes) (xs : List (Nat × Nat)) (m : List Host.Cell) : List Host.Cell :=
  xs.foldl (fun m x => poolPut (bslice d (x.1 - p) x.2) x.1 m) m

/-- A write to sectors that verify ends OK and stores the bytes of each. -/
theorem writePieces_of_verifies {d : Bytes} {xs : List (Nat × Nat)} (hrising : Rising xs)
    (h : ∀ x ∈ xs, Verifies s part (x.1 / 256) (blockMask x.1 x.2)) :
    (writePieces part enc p d xs s).1 = stOK ∧ ∃ errs sectors,
      (writePieces part enc p d xs s).2.mem = { s.mem with pool := putPieces p d xs s.mem.pool, errs := errs, sectors := sectors } := by
  induction xs generalizing s with
  | nil => exact ⟨rfl, _, _, rfl⟩
  | cons x xs ih =>
    obtain ⟨hbehind, hrising⟩ := List.pairwise_cons.mp hrising
    have hfirst : Verifies s part (x.1 / 256) (blockMask x.1 (bslice d (x.1 - p) x.2).length) := by
      rw [length_bslice]
      exact h x List.mem_cons_self
    obtain ⟨u, hsame, humem, hwrite⟩ := writeSector_of_verifies (enc := enc) hfirst
    obtain ⟨y, hput⟩ := putSector_mem part enc x.1 (bslice d (x.1 - p) x.2) u
    have hcons : writePieces part enc p d (x :: xs) s = writePieces part enc p d xs (putSector part enc x.1 (bslice d (x.1 - p) x.2) u) := by
      rw [writePieces, List.foldl_cons, writeStep, hwrite]; rfl
    obtain ⟨hok, errs, sectors, hmem⟩ := ih hrising fun z hz =>
      ((h z (List.mem_cons_of_mem x hz)).congr hsame).putSector (Nat.ne_of_gt (hbehind z hz))
    rw [hcons]
    exact ⟨hok, errs, sectors, by rw [hmem, hput, humem]; rfl⟩

/-! ### The pieces of a range -/

theorem pieces_bounds {f q n : Nat} {x : Nat × Nat} (h : x ∈ pieces f q n) : q ≤ x.1 := by
  induction f generalizing q n with
  | zero => exact absurd h List.not_mem_nil
  | succ f ih =>
    rw [pieces] at h
    split at h
    · exact absurd h List.not_mem_nil
    · rcases List.mem_cons.mp h with rfl | h
      · exact Nat.le_refl _
      · exact Nat.le_trans (Nat.le_add_right _ _) (ih h)

theorem pieces_rising (f q n : Nat) : Rising (pieces f q n) := by
  induction f generalizing q n with
  | zero => exact List.Pairwise.nil
  | succ f ih =>
    rw [pieces]
    split
    · exact List.Pairwise.nil
    · refine List.pairwise_cons.mpr ⟨fun x hx => ?_, ih _ _⟩
      by_cases hlast : n ≤ 256 - q % 256
      · rw [Nat.min_eq_left hlast, Nat.sub_self] at hx
        cases f <;> simp [pieces] at hx
      · have hle := pieces_bounds hx
        rw [Nat.min_eq_right (by omega)] at hle
        show q / 256 < x.1 / 256
        omega

/-- The bytes that a store puts into the pool, and those that it leaves. -/
theorem sget_poolPut_getD (m : List Host.Cell) (d : Bytes) (p b : Nat) : sget (fun _ => (0 : Byte)) (poolPut d p m) b
    = if p ≤ b ∧ b < p + d.length then d.getD (b - p) 0 else sget (fun _ => (0 : Byte)) m b := by
  rw [sget_poolPut]
  split
  · next h => rw [List.getD_eq_getElem _ _ (by omega)]
  · rfl

theorem getD_bslice {d : Bytes} {i k j : Nat} (hj : j < k) : (bslice d i k).getD j 0 = d.getD (i + j) 0 := by
  simp only [bslice, List.getD_eq_getElem?_getD]
  by_cases hin : i + j < d.length
  · rw [List.getElem?_append_left (by rw [List.length_take, List.length_drop]; omega), List.getElem?_take_of_lt hj, List.getElem?_drop]
  · rw [List.getElem?_append_right (by rw [List.length_take, List.length_drop]; omega), List.getElem?_eq_none (l := d) (by omega), zeros,
      List.getElem?_replicate]
    split <;> rfl

/-- Enough pieces cover a range: the bytes of the range are the data's, and every other byte stays. -/
theorem sget_putPieces {f q n : Nat} (d : Bytes) (m : List Host.Cell) (b : Nat) (hpq : p ≤ q) (hfuel : n = 0 ∨ q % 256 + n ≤ 256 * f) :
    sget (fun _ => (0 : Byte)) (putPieces p d (pieces f q n) m) b
      = if q ≤ b ∧ b < q + n then d.getD (b - p) 0 else sget (fun _ => (0 : Byte)) m b := by
  induction f generalizing q n m with
  | zero =>
    have hnone : ¬(q ≤ b ∧ b < q + n) := by omega
    rw [if_neg hnone]
    rfl
  | succ f ih =>
    rw [pieces]
    split
    · next hn =>
      rw [if_neg (by omega)]
      rfl
    · next hn =>
      rw [putPieces, List.foldl_cons]
      refine (ih _ (by omega) (by omega)).trans ?_
      rw [sget_poolPut_getD, length_bslice]
      by_cases hrest : q + min n (256 - q % 256) ≤ b ∧ b < q + n
      · rw [if_pos (by omega), if_pos (by omega)]
      · rw [if_neg (by omega)]
        by_cases hhere : q ≤ b ∧ b < q + min n (256 - q % 256)
        · rw [if_pos hhere, if_pos (by omega), getD_bslice (by omega)]
          congr 1
          omega
        · rw [if_neg hhere, if_neg (by omega)]

/-- A write of a range stores its bytes where the pool's read finds them. -/
theorem stored_of_pool {d : Bytes} (h : t.mem.pool = putPieces p d (pieces (d.length / 256 + 2) p d.length) s.mem.pool) :
    Stored s t p d := by
  have hbyte : ∀ b, poolByte t b = if p ≤ b ∧ b < p + d.length then d.getD (b - p) 0 else poolByte s b := fun b => by
    rw [poolByte, h, sget_putPieces d _ b (Nat.le_refl p) (by omega)]
    rfl
  refine ⟨List.ext_getElem (by simp [poolBytes]) fun i hi hd => ?_, fun b hb => ?_⟩
  · simp only [poolBytes, List.getElem_map, List.getElem_range]
    rw [hbyte, if_pos (by omega), Nat.add_sub_cancel_left, List.getD_eq_getElem _ _ hd]
  · rw [hbyte, if_neg (by omega)]

/-! ### A read and a write of one range -/

/-- What a read of a range that ends OK gives and leaves, and that it ends OK wherever the pool is the same. -/
theorem memRead_of_ok {u : State} {n : Nat} (h : SameStore s u) (hok : (memRead part p n s).1 = stOK) :
    ∃ t errs, memRead part p n u = (stOK, poolBytes u p n, t) ∧ t.mem = { u.mem with errs := errs }
      ∧ ∀ (enc : Bool) (d : Bytes), d.length = n → ∃ v errs sectors, memWrite part enc p d t = (stOK, v) ∧ Stored u v p d
        ∧ v.mem = { u.mem with pool := v.mem.pool, errs := errs, sectors := sectors } := by
  obtain ⟨hread, -⟩ := readPieces_congr h hok
  have hmem := readPieces_mem hread
  have hverifies := verifies_of_readPieces (pieces_rising _ _ _) hread
  refine ⟨(readPieces part (pieces (n / 256 + 2) p n) u).2, _, ?_, hmem, fun enc d hd => ?_⟩
  · rw [memRead_eq, hread, if_pos rfl, poolBytes_congr (s := u) (by rw [hmem])]
  · subst hd
    obtain ⟨hwrite, errs, sectors, hput⟩ := writePieces_of_verifies (enc := enc) (p := p) (d := d) (pieces_rising _ _ _) hverifies
    rw [← memWrite_eq] at hwrite hput
    have hpool : (memWrite part enc p d (readPieces part (pieces (d.length / 256 + 2) p d.length) u).2).2.mem.pool
        = putPieces p d (pieces (d.length / 256 + 2) p d.length) u.mem.pool := by rw [hput, hmem]
    exact ⟨_, errs, sectors, Prod.ext hwrite rfl, stored_of_pool hpool, by rw [hput, hmem]⟩

end Sys2Proof.Machine
end

section
/-! PROOFS. What an answer of a unit leaves of the homes: it enters the ground, and memory stays (R271, R279, R296, R363, R375). -/

namespace Sys2Proof.Machine

variable {s : State}

@[simp] theorem raise_mem (f : Src) (u : Nat) (s : State) : (raise f u s).mem = s.mem := by rw [raise_frame]

@[simp] theorem deadTarget_mem (s : State) (n : Nat) (h : Hdr) : (deadTarget s n h).mem = s.mem := by simp [deadTarget]

theorem ite_mem {q : Prop} {dec : Decidable q} {u v : State} (hu : u.mem = s.mem) (hv : v.mem = s.mem) :
    (if q then u else v).mem = s.mem := by
  split <;> assumption

@[simp] theorem cellLeaves_mem (s : State) (c : GCell) : (cellLeaves s c).mem = s.mem := by
  unfold cellLeaves
  dsimp only
  split
  · simp [releaseCredit, modPort]
  · simp

@[simp] theorem freeCells_mem (cs : List GCell) (s : State) : (freeCells cs s).mem = s.mem := by
  induction cs generalizing s with
  | nil => rfl
  | cons c cs ih => exact (ih _).trans (cellLeaves_mem s c)

@[simp] theorem markIn_mem (s : State) (c : GCell) : (markIn s c).1.mem = s.mem := by
  unfold markIn
  dsimp only
  split <;> rfl

@[simp] theorem pushCell_mem (s : State) (c : GCell) : (pushCell s c).mem = s.mem := markIn_mem s c

@[simp] theorem takePinned_mem (parts : List GCell) (c : GCell) (s : State) : (takePinned parts c s).mem = s.mem :=
  ite_mem rfl (freeCells_mem parts _)

@[simp] theorem pinnedIn_mem (s : State) (c : GCell) : (pinnedIn s c).mem = s.mem :=
  ite_mem (ite_mem (pushCell_mem s c) ((takePinned_mem _ _ _).trans (pushCell_mem s c))) (pushCell_mem s c)

/-- A segment on a pinned path passes no resequencer. -/
theorem enqueue_mem (s : State) {c : GCell} (hc : c.seg.hdr.spray = false) : (enqueue s c).mem = s.mem := by
  unfold enqueue
  rw [hc]
  split
  · split
    · contradiction
    · contradiction
    · exact pushCell_mem s c
    · exact pinnedIn_mem s c
  · exact pushCell_mem s c

theorem enterRouted_mem (s : State) {c : GCell} (hc : c.seg.hdr.spray = false) : (enterRouted s c).mem = s.mem := by
  unfold enterRouted
  split
  · exact ite_mem (enqueue_mem s hc) (ite_mem rfl (ite_mem rfl (enqueue_mem _ hc)))
  · exact enqueue_mem s hc

theorem enterAs_mem (reply : Bool) (s : State) {c : GCell} (hc : c.seg.hdr.spray = false) : (enterAs reply s c).mem = s.mem := by
  have hnum (u : State) : numbered u c = (u, c) := by simp [numbered, hc]
  have hin : (if stored s c then s else bump s (GND_FLITS_IN c.slice)).mem = s.mem := ite_mem rfl rfl
  unfold enterAs
  simp only [hnum]
  exact ite_mem (ite_mem ((pushCell_mem _ c).trans hin) ((enterRouted_mem _ hc).trans hin)) rfl

theorem emitSeg_mem (reply : Bool) (s : State) (o : Origin) {g : Seg} (first : Bool) (hg : g.hdr.spray = false) :
    (emitSeg reply s o g first).mem = s.mem := by
  unfold emitSeg
  dsimp only
  split
  · exact deadTarget_mem s _ _
  · exact enterAs_mem reply s hg

/-- A message that is not sprayed leaves memory as it is. -/
theorem emitAs_mem (reply : Bool) (o : Origin) {m : Msg} (s : State) (hm : m.hdr.spray = false) : (emitAs reply o m s).mem = s.mem := by
  have hseg : ∀ g ∈ (m.segs 0).zipIdx, g.1.hdr.spray = false := fun g hg => by
    rw [spray_of_mem_segs (List.fst_mem_of_mem_zipIdx hg), hm]
  refine ite_mem ?routed (deadTarget_mem s _ _)
  generalize (m.segs 0).zipIdx = l at hseg
  induction l generalizing s with
  | nil => rfl
  | cons g l ih =>
    exact (ih _ fun x hx => hseg x (List.mem_cons_of_mem g hx)).trans (emitSeg_mem reply s o _ (hseg g List.mem_cons_self))

theorem endRequest_mem (o : Origin) (prg : Nat) (h : Hdr) (pay : Bytes) (status : Nat) (s : State) :
    (endRequest o prg h pay status false s).mem = s.mem :=
  ite_mem (emitAs_mem _ o s rfl) (ite_mem rfl (ite_mem (emitAs_mem false o _ rfl) rfl))

/-- An answer leaves memory as it is. -/
@[simp] theorem answer_mem (prg : Nat) (m : Msg) (st : Nat) (data : Option Bytes) (s : State) : (answer prg m st data s).mem = s.mem := by
  unfold answer
  split
  · exact ite_mem (emitAs_mem true .home s rfl) rfl
  · exact ite_mem rfl (endRequest_mem .home prg _ _ _ s)

end Sys2Proof.Machine
end

section
/-! PROOFS. Conjunction units, and the way of a request to its home: what it leaves, and how the lookup passes (R234, R252, R253, R298). -/

namespace Sys2Proof.Machine

variable {s t u : State} {m : Msg} {r : Req} {n prg i e p : Nat}

/-! ### Conjunction units -/

theorem cmbOf_congr (h : t.mem = s.mem) (n : Nat) : cmbOf t n = cmbOf s n := by rw [cmbOf, cmbOf, h]

@[simp] theorem cmbOf_setCmb_same (s : State) (n : Nat) (c : Cmb) : cmbOf (setCmb s n c) n = c := sget_sset_same _ _ _ _

/-- A conjunction unit with other operations. -/
def withOps (n : Nat) (os : List CmbOp) (s : State) : State := modCmb s n fun c => { c with ops := os }

@[simp] theorem cmbOf_withOps (n : Nat) (os : List CmbOp) (s : State) : cmbOf (withOps n os s) n = { cmbOf s n with ops := os } :=
  cmbOf_setCmb_same _ _ _

/-- An operation alone at its unit is the one found there. -/
theorem findOp_of_single {o : CmbOp} (h : (cmbOf s n).ops = [o]) : findOp s n o.id = some o := by simp [findOp, h]

theorem putOp_of_single {o o' : CmbOp} (h : (cmbOf s n).ops = [o]) (hid : o.id = o'.id) : putOp n o' s = withOps n [o'] s := by
  simp [putOp, withOps, modCmb, h, hid]

/-! ### The way of a request to its home: only counters, arrivals and the conjunction units change -/

/-- On the way from `s` to `u` a request has changed no more than counters, the arrival number and the conjunction units. -/
structure OnTheWay (s u : State) : Prop where
  frame : u = { s with regs := u.regs, mem := { s.mem with arrivals := u.mem.arrivals, cmbs := u.mem.cmbs } }
  regs : ∀ a, a % 4096 ≠ 0x040 → a % 4096 < 0xC00 → rdReg u a = rdReg s a

namespace OnTheWay

theorem arrived (s : State) : OnTheWay s (arrived s) := ⟨rfl, fun _ _ _ => rfl⟩

theorem bump {g q k o : Nat} (h : OnTheWay s u) (ho : o % 4096 = 0x040 ∨ 0xC00 ≤ o % 4096) (c : Nat := 1) :
    OnTheWay s (bump u (csrAddr g q k o) c) where
  frame := congrArg (fun x : State => { x with regs := (Machine.bump u (csrAddr g q k o) c).regs }) h.frame
  regs a hprog hcount := by
    refine (rdReg_wrReg_other u _ fun hne => ?_).trans (h.regs a hprog hcount)
    subst hne
    simp only [csrAddr] at hprog hcount
    omega

theorem progress (h : OnTheWay s u) (g q : Nat) : OnTheWay s (progress u g q) := h.bump (.inl rfl)

theorem setCmb (h : OnTheWay s u) (n : Nat) (c : Cmb) : OnTheWay s (setCmb u n c) where
  frame := congrArg (fun x : State => { x with mem := { x.mem with cmbs := (Machine.setCmb u n c).mem.cmbs } }) h.frame
  regs := h.regs

theorem withOps (h : OnTheWay s u) (n : Nat) (os : List CmbOp) : OnTheWay s (withOps n os u) := h.setCmb n _

theorem flt (h : OnTheWay s u) : u.flt = s.flt := by rw [h.frame]
theorem objs (h : OnTheWay s u) : u.mem.objs = s.mem.objs := by rw [h.frame]
theorem exts (h : OnTheWay s u) : u.mem.exts = s.mem.exts := by rw [h.frame]
theorem pubs (h : OnTheWay s u) : u.mem.pubs = s.mem.pubs := by rw [h.frame]
theorem doms (h : OnTheWay s u) : u.mem.doms = s.mem.doms := by rw [h.frame]
theorem hcache (h : OnTheWay s u) : u.mem.hcache = s.mem.hcache := by rw [h.frame]
theorem guarded (h : OnTheWay s u) : u.mem.guarded = s.mem.guarded := by rw [h.frame]
theorem moves (h : OnTheWay s u) : u.mem.moves = s.mem.moves := by rw [h.frame]
theorem reserved (h : OnTheWay s u) : u.mem.reserved = s.mem.reserved := by rw [h.frame]
theorem reqs (h : OnTheWay s u) : u.mem.reqs = s.mem.reqs := by rw [h.frame]
theorem txns (h : OnTheWay s u) : u.mem.txns = s.mem.txns := by rw [h.frame]

theorem rdF (h : OnTheWay s u) {g q k o : Nat} (hprog : o % 4096 ≠ 0x040) (hcount : o % 4096 < 0xC00) (f : Fld) :
    rdF u (csrAddr g q k o) f = rdF s (csrAddr g q k o) f :=
  congrArg f.get (h.regs _ (by simp only [csrAddr]; omega) (by simp only [csrAddr]; omega))

theorem sameStore (h : OnTheWay s u) : SameStore s u where
  pool := by rw [h.frame]
  errs := by rw [h.frame]
  sectors := by rw [h.frame]
  keys := by rw [h.frame]
  parts q := h.regs _ (by simp only [SEC_PART_STATE, csrAddr]; omega) (by simp only [SEC_PART_STATE, csrAddr]; omega)

theorem ownId (h : OnTheWay s u) : ownId u = ownId s := h.rdF (by decide) (by decide) _

theorem keyState (h : OnTheWay s u) (q : Nat) : keyState u q = keyState s q := h.rdF (by decide) (by decide) _

theorem partFenced (h : OnTheWay s u) (q : Nat) : partFenced u q = partFenced s q := by
  rw [Machine.partFenced, Machine.partFenced, partState, partState, SEC_PART_STATE, h.rdF (by decide) (by decide)]

theorem blockFenced (h : OnTheWay s u) (g q : Nat) : blockFenced u g q = blockFenced s g q := by
  rw [Machine.blockFenced, Machine.blockFenced, h.flt, MRG_STK_STATE, h.rdF (by decide) (by decide)]

theorem unitHeld (h : OnTheWay s u) (g q : Nat) : unitHeld u g q = unitHeld s g q := by
  rw [Machine.unitHeld, Machine.unitHeld, engineResetting, engineResetting, h.flt, rdBit, rdBit, G_CTL, h.rdF (by decide) (by decide)]

theorem objOf (h : OnTheWay s u) (i : Nat) : objOf u i = objOf s i := by rw [Machine.objOf, Machine.objOf, h.objs]

theorem extOf (h : OnTheWay s u) (e : Nat) : extOf u e = extOf s e := by rw [Machine.extOf, Machine.extOf, h.exts]

theorem coverDom (h : OnTheWay s u) (a : Nat) : coverDom u a = coverDom s a := by
  rw [Machine.coverDom, Machine.coverDom, h.doms]

theorem lookRights (h : OnTheWay s u) (part : Nat) (k : Use) (a c : Nat) : lookRights u part k a c = lookRights s part k a c := by
  simp only [Machine.lookRights, lookRightsOf, objAt, mayRead, pubOfObj, h.objOf, h.extOf, h.keyState, h.objs, h.pubs]

theorem lookState (h : OnTheWay s u) (k : Use) (e : Nat) : lookState u k e = lookState s k e := by
  simp only [Machine.lookState, h.extOf]

theorem channelFenced (h : OnTheWay s u) (p c : Nat) : channelFenced u p c = channelFenced s p c := by
  simp only [Machine.channelFenced, h.blockFenced]

theorem channelReset (h : OnTheWay s u) (p c : Nat) : channelReset u p c = channelReset s p c := by
  simp only [Machine.channelReset, funext (h.unitHeld grHBC)]

end OnTheWay

/-! ### A request at its home (R252, R253) -/

/-- What a request asks of memory. -/
def Msg.use (m : Msg) : Use := if m.hdr.type = tREAD then .read else if m.hdr.type = tATOMIC then .atomic else .write

/-- A request that nothing has looked up yet. -/
def Fresh (r : Req) : Prop := r.due = 0 ∧ r.looked = false ∧ r.accepted = false

/-- No request and no line's transaction keeps another back. -/
theorem heldReqs_of_none (hreqs : u.mem.reqs = []) (htxns : u.mem.txns = []) : heldReqs u = [] := by simp [heldReqs, hreqs, htxns]

/-- At a T0 home that nothing fences or holds, a request without coherence is served. -/
theorem atLine_of_atHome {k : Use} (h : AtHome s prg m k i e p) (hu : OnTheWay s u) (hcover : coverDom s (msgAddr m % 2 ^ 52) = none)
    (hcoh : (m.hdr.type == tREAD && m.hdr.op != 0) = false) (hmsg : r.msg = m) (hext : r.ext = e) (hphys : r.phys = p) :
    atLine r i u = serve r (objOf s i).part (objOf s i).crypt p u := by
  obtain ⟨-, -, -, -, -, -, -, -, -, -, -, -, htier, hfence, hreset, -⟩ := h
  have hchannel : atChannel r p u = none := by
    rw [atChannel, hmsg, hu.channelFenced, hfence, hu.channelReset, hreset]
    rfl
  simp only [atLine, hmsg, hu.coverDom, hcover, hcoh, Bool.false_eq_true, if_false, atTier, hext, hphys, hu.extOf, htier, if_true,
    hchannel, hu.objOf]

/-- The state once a hub has looked a request up from `u`: the hit is counted, and the hub's registrar unit has made progress. -/
def lookedIn (prg : Nat) (u : State) : State := progress (bump u (MRG_HOME_HITS (entryHub prg))) grMRG (entryHub prg)

theorem lookedIn_mem (prg : Nat) (u : State) : (lookedIn prg u).mem = u.mem := rfl

theorem OnTheWay.hit (h : OnTheWay s u) (prg : Nat) : OnTheWay s (Machine.bump u (MRG_HOME_HITS (entryHub prg))) :=
  h.bump (.inr (by decide))

theorem OnTheWay.lookedIn (h : OnTheWay s u) (prg : Nat) : OnTheWay s (Machine.lookedIn prg u) := (h.hit prg).progress _ _

/-- What is not combined goes on to its line. -/
theorem combineRead_of_unshared (h : (objOf u i).sharedRo = false) : combineRead r i u = atLine r i u := by
  simp [combineRead, h]

/-- R252: a request whose rights, extent and entry are in order passes its lookup and goes on to its line. -/
theorem process_of_atHome {k : Use} (h : AtHome s prg m k i e p) (hu : OnTheWay s u) (huse : m.use = k) (hmsg : r.msg = m)
    (hprg : r.prg = prg) (hfresh : Fresh r) :
    process r u = atLine (lookedUp (lookedIn prg u) { r with ext := e, accepted := true, looked := true } e p) i (lookedIn prg u) := by
  obtain ⟨hdue, hlooked, haccepted⟩ := hfresh
  obtain ⟨⟨hreqs, -, hreserved, hmoves, hguarded, htxns, -, -, hsafe⟩, -, -, -, -, -, hpart, hblock, hheld, hlook, hcached, hstate, -, -, -,
    hshared⟩ := h
  have huse' : (if m.hdr.type = tREAD then Use.read else if m.hdr.type = tATOMIC then Use.atomic else Use.write) = k := huse
  have hlook' : lookRightsOf false u (reqPart m) k (msgAddr m % 2 ^ 52) (msgSpan m) = .ok i e p := (hu.lookRights _ _ _ _).trans hlook
  have hunshared : (objOf (lookedIn prg u) i).sharedRo = false := by rw [(hu.lookedIn prg).objOf, hshared]
  have hpub (x : Req) : pubHolds u x i = false := by
    simp [pubHolds, writesOpen, heldReqs_of_none (hu.reqs.trans hreqs) (hu.txns.trans htxns), hu.reserved, hreserved]
  have horder (x : Req) : orderBlocked (lookedIn prg u) x = false := by
    simp [orderBlocked, heldReqs_of_none ((hu.lookedIn prg).reqs.trans hreqs) ((hu.lookedIn prg).txns.trans htxns)]
  have hdrain : ¬((bump u (MRG_HOME_HITS (entryHub prg))).mem.guarded.contains e = true
      ∨ ((bump u (MRG_HOME_HITS (entryHub prg))).mem.moves.any fun v => v.ext == some e && v.phase == 1) = true) := by
    simp [hu.guarded, hguarded, hu.moves, hmoves]
  have hready : lookState (bump u (MRG_HOME_HITS (entryHub prg))) k e = none := by rw [(hu.hit prg).lookState, hstate]
  simp only [process, hmsg, hprg, huse', hu.partFenced, hpart, hu.blockFenced, hblock, Bool.or_false, Bool.false_eq_true, if_false, hu.flt,
    hsafe, Bool.false_and, hu.unitHeld, hheld, lookOnce, hdue, ne_eq, not_true_eq_false, haccepted, hlook', hpub, hlooked, hu.hcache, hcached,
    Bool.not_true, and_false, if_neg hdrain, hready, if_true]
  rw [← lookedIn, if_neg (by simp [horder]), if_neg (by simp [hunshared]), combineRead_of_unshared hunshared]

theorem goOn_of_atHome {k : Use} (h : AtHome s prg m k i e p) (hu : OnTheWay s u) (hcover : coverDom s (msgAddr m % 2 ^ 52) = none)
    (hcoh : (m.hdr.type == tREAD && m.hdr.op != 0) = false) (huse : m.use = k) (hmsg : r.msg = m) (hprg : r.prg = prg) (hfresh : Fresh r) :
    ∃ r', r'.msg = m ∧ r'.prg = prg ∧ r'.op = r.op ∧ goOn r u = serve r' (objOf s i).part (objOf s i).crypt p (lookedIn prg u) := by
  have hwindow : ¬2 ^ 50 ≤ msgAddr r.msg % 2 ^ 52 := by
    obtain ⟨-, -, -, -, -, hlow, -⟩ := h
    rw [hmsg]
    exact Nat.not_le.mpr hlow
  refine ⟨lookedUp (lookedIn prg u) { r with ext := e, accepted := true, looked := true } e p, hmsg, hprg, rfl, ?_⟩
  rw [goOn, if_neg hwindow, process_of_atHome h hu huse hmsg hprg hfresh]
  exact atLine_of_atHome h (hu.lookedIn prg) hcover hcoh hmsg rfl rfl

/-- R406: whoever looked up a CRYPT object has a key. -/
theorem keyState_of_lookRights {k : Use} {part a c : Nat} (h : lookRights s part k a c = .ok i e p) (hcrypt : (objOf s i).crypt = true) :
    keyState s (objOf s i).part ≠ 0 := by
  unfold lookRights lookRightsOf at h
  split at h
  · cases h
  · split at h
    · cases h
    · dsimp only at h
      split_ifs at h with _ _ _ _ _ _ hkey
      cases h
      exact fun hnone => hkey ⟨hcrypt, hnone⟩

end Sys2Proof.Machine
end

section
/-! PROOFS. O43: atomics at their conjunction unit and at their home (R133, R234, R283 to R285). -/

namespace Sys2Proof.Machine

variable {s t u v : State} {m : Msg} {r : Req} {n prg i e p : Nat}

/-! ### An operation at its unit and at its home (R234) -/

/-- The outcome of an operation alone at its unit becomes known. -/
theorem opDone_of_single {o : CmbOp} {x : Nat × Msg} (st : Nat) (olds : List Bytes) (hops : (cmbOf v n).ops = [o]) (hmembers : o.members = [x]) :
    opDone n o.id st olds v = withOps n [{ o with results := some [(st, olds[0]?.getD [])] }] v := by
  simp only [opDone, findOp_of_single hops, hmembers]
  exact putOp_of_single hops rfl

theorem mirror_of_none (h : u.mem.moves = []) (p c : Nat) : mirror p c u = u := by simp [mirror, moveAtSrc, h]

theorem countTier_ok (prg : Nat) (s : State) : countTier prg stOK s = s := rfl

/-- R234, R284: an operation whose read and write at its home end OK is done there. -/
theorem serve_of_operation {o : CmbOp} {part : Nat} {enc : Bool} {old : Bytes} (hkey : (enc && keyState u part == 0) = false)
    (hsafe : u.flt.safe = false) (htype : r.msg.hdr.type = tATOMIC) (hcarries : r.op = some o.id) (hops : (cmbOf u r.prg).ops = [o])
    (hread : memRead part p (atomWidth o.op) u = (stOK, old, t))
    (hwrite : memWrite part enc p (batchApply o.op old (o.members.map (·.2))).1 t = (stOK, v)) (hmoves : v.mem.moves = []) :
    serve r part enc p u = opDone r.prg o.id stOK (batchApply o.op old (o.members.map (·.2))).2 v := by
  have hnotRead : tATOMIC ≠ tREAD := by decide
  simp only [serve, hkey, hsafe, htype, hcarries, findOp_of_single hops, hread, hwrite, Bool.false_eq_true, if_false, Bool.false_and,
    if_neg hnotRead, if_true, ne_eq, not_true_eq_false, countTier_ok, mirror_of_none hmoves]

/-- R234: the operand bytes that an operation of one member leaves, and the member's old value. -/
def memberNew (m : Msg) (old : Bytes) : Bytes := (batchApply m.hdr.op old [m]).1
def memberOld (m : Msg) (old : Bytes) : Bytes := (batchApply m.hdr.op old [m]).2[0]?.getD []

/-- R284: an operation of one member is applied at its home: the pool holds the new bytes, and its outcome is known. -/
theorem serve_of_atomicAt {o : CmbOp} {x : Nat} (h : AtomicAt s prg m i e p) (hu : OnTheWay s u) (hmsg : r.msg = m) (hprg : r.prg = prg)
    (hcarries : r.op = some o.id) (hops : (cmbOf u prg).ops = [o]) (hop : o.op = m.hdr.op) (hmembers : o.members = [(x, m)])
    (hlen : (memberNew m (poolBytes s p (msgSpan m))).length = msgSpan m) :
    AtomicDone s (serve r (objOf s i).part (objOf s i).crypt p u) prg p (memberOld m (poolBytes s p (msgSpan m)))
        (memberNew m (poolBytes s p (msgSpan m)))
      ∧ (serve r (objOf s i).part (objOf s i).crypt p u).mem.reqs = [] := by
  obtain ⟨⟨⟨hreqs, -, -, hmoves, -, -, -, -, hsafe⟩, -, -, -, -, -, -, -, -, hlook, -⟩, -, htype, -, -, -, -, hread⟩ := h
  have hkey : ((objOf s i).crypt && keyState u (objOf s i).part == 0) = false := by
    rw [hu.keyState]
    cases hcrypt : (objOf s i).crypt with
    | false => rfl
    | true => simpa using keyState_of_lookRights hlook hcrypt
  have hspan : atomWidth o.op = msgSpan m := by rw [hop, msgSpan, if_pos htype]
  obtain ⟨t, errs, hreadu, -, hwriteAll⟩ := memRead_of_ok hu.sameStore hread
  obtain ⟨v, errs', sectors, hwrite, ⟨hbytes, hothers⟩, hvmem⟩ := hwriteAll (objOf s i).crypt _ hlen
  rw [poolBytes_congr hu.sameStore.pool, ← hspan] at hreadu
  have hvops : (cmbOf v prg).ops = [o] := by rw [cmbOf, hvmem, ← hops, cmbOf]
  have happly : batchApply o.op (poolBytes s p (atomWidth o.op)) (o.members.map (·.2)) = batchApply m.hdr.op (poolBytes s p (msgSpan m)) [m] := by
    rw [hspan, hop, hmembers]
    rfl
  rw [serve_of_operation hkey (by rw [hu.flt, hsafe]) (hmsg ▸ htype) hcarries (hprg ▸ hops) hreadu (by rw [happly]; exact hwrite)
    (by rw [hvmem, hu.moves, hmoves]), happly, hprg, opDone_of_single _ _ hvops hmembers]
  refine ⟨⟨⟨hbytes, fun b hb => (hothers b hb).trans ?_⟩, by rw [cmbOf_withOps]; rfl⟩, ?_⟩
  · rw [poolByte, poolByte, hu.sameStore.pool]
  · show v.mem.reqs = []
    rw [hvmem, hu.reqs, hreqs]

theorem AtomicAt.type (h : AtomicAt s prg m i e p) : m.hdr.type = tATOMIC := by
  obtain ⟨-, -, htype, -⟩ := h
  exact htype

/-- The operation that an atomic opens at an idle unit. -/
def openedOp (s : State) (n arr port : Nat) (m : Msg) : CmbOp :=
  ⟨arr, msgAddr m, m.hdr.op, reqPart m, [(arr, m)], false, none, combinable s n m, batchMax s n, [(arr, port)]⟩

/-- The operation once it has been passed to its home. -/
def passedOp (s : State) (n arr port : Nat) (m : Msg) : CmbOp := { openedOp s n arr port m with passed := true }

/-- An idle unit that has opened an operation for an atomic and passed it. -/
def unitPassed (n arr port : Nat) (m : Msg) (s : State) : State :=
  withOps n [passedOp s n arr port m] (withOps n [openedOp s n arr port m] s)

theorem ops_unitPassed (n arr port : Nat) (m : Msg) (s : State) : (cmbOf (unitPassed n arr port m s) n).ops = [passedOp s n arr port m] := by
  rw [unitPassed, cmbOf_withOps]

theorem OnTheWay.unitPassed (h : OnTheWay s u) (n arr port : Nat) (m : Msg) : OnTheWay s (Machine.unitPassed n arr port m u) :=
  (h.withOps n _).withOps n _

/-- An operation of one member, alone at its unit, is passed as one request; it forms no batch. -/
theorem passOp_of_single {o : CmbOp} {arr : Nat} (hops : (cmbOf u n).ops = [o]) (hmembers : o.members = [(arr, m)]) :
    passOp n o.id u = goOn { arr := arr, prg := n, msg := m, op := some o.id } (withOps n [{ o with passed := true }] u) := by
  have hput : putOp n { o with passed := true } u = withOps n [{ o with passed := true }] u := putOp_of_single hops rfl
  rw [← hput]
  simp only [passOp, findOp_of_single hops, hmembers, List.isEmpty_nil, if_true]

/-- R234: an atomic that finds no operation at its unit is passed to its home at once. -/
theorem unitAtomic_of_idle {arr port : Nat} (hidle : (cmbOf u n).ops = []) :
    unitAtomic n arr port m u = goOn { arr := arr, prg := n, msg := m, op := some arr } (unitPassed n arr port m u) := by
  have hflush : flushSource n m.hdr.src u = u := by simp [flushSource, hidle]
  have hopen : (cmbOf (withOps n [openedOp u n arr port m] u) n).ops = [openedOp u n arr port m] := by rw [cmbOf_withOps]
  refine Eq.trans ?_ (passOp_of_single hopen rfl)
  simp [unitAtomic, hflush, hidle, modCmb, withOps, openedOp]

/-- R285: an atomic that is no retry and has no entry in the reply cache of an empty unit gets one, and enters the unit. -/
theorem atomicIn_of_idle (hu : OnTheWay s u) (hempty : cmbOf u n = {}) (hpart : partFenced s (reqPart r.msg) = false)
    (hblock : blockFenced s grCMB n = false) (hheld : unitHeld s grCMB n = false) (hretry : r.msg.hdr.retry = false) :
    ∃ v, OnTheWay s v ∧ (cmbOf v n).ops = [] ∧ atomicIn n r u = unitAtomic n r.arr r.port r.msg v := by
  have hnew : rcFind u n r.msg = none := by simp [rcFind, hempty]
  refine ⟨setCmb u n { cache := [⟨r.msg.hdr.src, r.msg.hdr.sint, r.msg.hdr.gen, r.msg.hdr.reqId, reqPart r.msg, none, 0⟩] }, hu.setCmb n _,
    by rw [cmbOf_setCmb_same], ?_⟩
  simp [atomicIn, hu.partFenced, hpart, hu.blockFenced, hblock, hu.unitHeld, hheld, hnew, hretry, rcCreate, hempty]

/-- An idle ground hands an atomic to its unit, with the next arrival number; its form holds and it is for this device. -/
theorem fabricReq_of_atomicAt (h : AtomicAt s prg m i e p) : ∃ port, fabricReq prg m s
    = runReqs (atomicIn prg { arr := s.mem.arrivals, prg := prg, msg := m, port := port } (bump (arrived s) (CMB_ATOMICS_IN prg))) := by
  obtain ⟨⟨⟨-, -, -, -, -, -, -, hground, -⟩, hform, hdint, hdst, hown, -⟩, -, htype, -⟩ := h
  have harr : nextArr s = (s.mem.arrivals, arrived s) := rfl
  refine ⟨arrivalPort s (unitOut prg m.hdr) prg m, ?_⟩
  simp only [fabricReq, takeDelivered_of_idle _ _ hground, harr, htype, if_true, hform, hdint, hdst, hown, (OnTheWay.arrived s).ownId, ne_eq,
    not_true_eq_false, decide_false, Bool.not_true, Bool.or_false, Bool.false_eq_true, if_false]

/-- R234, R284: an atomic that finds its unit idle is applied at its home, and its operation waits for its return. -/
theorem atomicDone_of_atomicAt (h : AtomicAt s prg m i e p) (hlen : (memberNew m (poolBytes s p (msgSpan m))).length = msgSpan m) :
    AtomicDone s (fabricReq prg m s) prg p (memberOld m (poolBytes s p (msgSpan m))) (memberNew m (poolBytes s p (msgSpan m))) := by
  obtain ⟨port, hentry⟩ := fabricReq_of_atomicAt h
  have hatomic := h
  obtain ⟨hhome, -, htype, hretry, hcover, hblock, hheld, -⟩ := h
  obtain ⟨⟨-, hcmbs, -⟩, -, -, -, -, -, hpart, -⟩ := id hhome
  have hcounted : OnTheWay s (bump (arrived s) (CMB_ATOMICS_IN prg)) := (OnTheWay.arrived s).bump (.inr (by decide))
  have hempty : cmbOf (bump (arrived s) (CMB_ATOMICS_IN prg)) prg = {} := by
    show sget (fun _ => ({} : Cmb)) s.mem.cmbs prg = {}
    rw [hcmbs]
    rfl
  obtain ⟨v, hv, hidle, hin⟩ := atomicIn_of_idle (r := { arr := s.mem.arrivals, prg := prg, msg := m, port := port }) hcounted hempty
    hpart hblock hheld hretry
  have hway : OnTheWay s (unitPassed prg s.mem.arrivals port m v) := hv.unitPassed _ _ _ _
  obtain ⟨r, hmsg, hprg, hcarries, hserve⟩ := goOn_of_atHome (r := { arr := s.mem.arrivals, prg := prg, msg := m, op := some s.mem.arrivals })
    hhome hway hcover (by rw [htype]; rfl) (by rw [Msg.use, htype]; rfl) rfl rfl ⟨rfl, rfl, rfl⟩
  obtain ⟨hdone, hreqs⟩ := serve_of_atomicAt (o := passedOp v prg s.mem.arrivals port m) hatomic (hway.lookedIn prg) hmsg hprg hcarries
    (by rw [cmbOf_congr (lookedIn_mem prg _), ops_unitPassed]) rfl rfl hlen
  rw [hentry, hin, unitAtomic_of_idle hidle, hserve, runReqs_of_noRequest hreqs]
  exact hdone

/-! ### What the operations make of their operands (R133, R283) -/

theorem asOp_self {ty : Nat} (h : m.hdr.type = ty) : m.asOp ty m.hdr.op = m := by
  subst h
  rfl

theorem asOps_self {ty : Nat} {ops : List Nat} (h : m.hdr.type = ty) (hop : m.hdr.op ∈ ops) : m.asOps ty ops = m := by
  rw [Msg.asOps, List.contains_iff_mem.mpr hop, Bool.true_or, if_pos rfl, asOp_self h]

theorem memberNew_of_ne {old : Bytes} (h : m.hdr.op ≠ 0x03) : memberNew m old = atomNew m.hdr.op old (atomArg m) (atomArg2 m) := by
  simp [memberNew, batchApply, h]

theorem memberOld_of_ne {old : Bytes} (h : m.hdr.op ≠ 0x03) : memberOld m old = old := by simp [memberOld, batchApply, h]

/-- The operations that compare binary32 values have operands of 4 bytes. -/
theorem length_atomNew {op : Nat} {old arg new : Bytes} (h : op = 0x14 ∨ op = 0x1C → old.length = 4) :
    (atomNew op old arg new).length = old.length := by
  unfold atomNew
  dsimp only
  split_ifs <;> simp only [length_leBytes, length_bslice]
  · exact (h (.inl ‹_›)).symm
  · exact (h (.inr ‹_›)).symm

theorem length_poolBytes (s : State) (p n : Nat) : (poolBytes s p n).length = n := by simp [poolBytes]

/-- R283: an operation other than EXACT_ADD leaves its result in place of its operand. -/
theorem atomicDone_of_operand (h : AtomicAt s prg m i e p) (hop : m.hdr.op ≠ 0x03) :
    AtomicDone s (fabricReq prg m s) prg p (poolBytes s p (msgSpan m))
      (atomNew m.hdr.op (poolBytes s p (msgSpan m)) (atomArg m) (atomArg2 m)) := by
  have htype := h.type
  have hwide : m.hdr.op = 0x14 ∨ m.hdr.op = 0x1C → (poolBytes s p (msgSpan m)).length = 4 := fun hf => by
    rw [length_poolBytes, msgSpan, if_pos htype]
    rcases hf with hf | hf <;> rw [hf] <;> rfl
  have hdone := atomicDone_of_atomicAt h (by rw [memberNew_of_ne hop, length_atomNew hwide, length_poolBytes])
  rwa [memberNew_of_ne hop, memberOld_of_ne hop] at hdone

theorem atomNew_add {op : Nat} {old arg new : Bytes} (h : op = 0x01 ∨ op = 0x02) : atomNew op old arg new
    = leBytes old.length ((leNat old + leNat (bslice arg 0 old.length)) % 2 ^ (8 * old.length)) := if_pos h

theorem atomNew_cas {op : Nat} {old arg new : Bytes} (h : op ∈ [0x20, 0x21, 0x22]) : atomNew op old arg new
    = if old = bslice arg 0 old.length then bslice new 0 old.length else old := by
  simp only [List.mem_cons, List.not_mem_nil, or_false] at h
  rcases h with rfl | rfl | rfl <;> rfl

/-! ### O43 -/

/-- R283: a command of operations other than EXACT_ADD leaves the operation's result. -/
theorem atomicDone_of_asOps {ops : List Nat} (h : AtomicAt s prg m i e p) (hop : m.hdr.op ∈ ops) (hexact : 0x03 ∉ ops) :
    AtomicDone s (fabricReq prg (m.asOps tATOMIC ops) s) prg p (poolBytes s p (msgSpan m))
      (atomNew m.hdr.op (poolBytes s p (msgSpan m)) (atomArg m) (atomArg2 m)) := by
  rw [asOps_self h.type hop]
  exact atomicDone_of_operand h (ne_of_mem_of_not_mem hop hexact)

theorem atomicDone_exactAdd (h : AtomicAt s prg m i e p) (hop : m.hdr.op = 0x03) : AtomicDone s (fabricReq prg (m.asOp tATOMIC 0x03) s) prg p []
      (accEnc (accMerge (accDec (poolBytes s p 64)) (accMerge {} (exactPart m)))) := by
  have htype := h.type
  have hspan : msgSpan m = 64 := by rw [msgSpan, if_pos htype, hop]; rfl
  have hnew : memberNew m (poolBytes s p (msgSpan m)) = accEnc (accMerge (accDec (poolBytes s p 64)) (accMerge {} (exactPart m))) := by
    rw [memberNew, hop, hspan]; rfl
  have hold : memberOld m (poolBytes s p (msgSpan m)) = [] := by rw [memberOld, hop]; rfl
  have hself : m.asOp tATOMIC 0x03 = m := by rw [← hop, asOp_self htype]
  have hdone := atomicDone_of_atomicAt h (by rw [hnew, length_accEnc, hspan])
  rw [hself]
  rwa [hnew, hold] at hdone

/-! ### An operation returns at its unit (R234, R285) -/

theorem replyMember_mem (st : Nat) (old : Bytes) (h : s.mem.reqs = []) : (replyMember n m st old s).mem = (modCmb s n fun c => { c with
    cache := c.cache.map (rcDone m st (if st = stOK ∧ m.hdr.op ≠ 0x03 then some old else none) s.tim.ref) }).mem := by
  have hreqs : (modCmb s n fun c => { c with
    cache := c.cache.map (rcDone m st (if st = stOK ∧ m.hdr.op ≠ 0x03 then some old else none) s.tim.ref) }).mem.reqs = [] := h
  simp only [replyMember, answer_mem, progress_mem, hreqs, List.filter_nil, List.foldl_nil]

/-- R285: behind a completion every entry of the member's key has a reply. -/
theorem rcDone_reply {st at_ : Nat} {data : Option Bytes} {x : RcEnt} (h : rcSame m (rcDone m st data at_ x) = true) :
    (rcDone m st data at_ x).reply.isSome = true := by
  unfold rcDone at h ⊢
  split
  · rfl
  · next hkept =>
    rw [if_neg hkept] at h
    exact Option.isSome_iff_ne_none.mpr (by simpa [h] using hkept)

/-- R234: the only operation of a unit returns: it leaves the unit, and its member's outcome is known. -/
theorem returnOp_of_single {o : CmbOp} {x : Nat × Msg} {w : Nat × Bytes} (hreqs : s.mem.reqs = []) (hops : (cmbOf s n).ops = [o])
    (hpassed : o.passed = true) (hmembers : o.members = [x]) (hresults : o.results = some [w]) :
    returnOp n o.addr s = replyMember n x.2 w.1 w.2 (withOps n [] s) := by
  have hleft : modCmb s n (fun c => { c with ops := c.ops.filter (·.id != o.id) }) = withOps n [] s := by simp [modCmb, withOps, hops]
  have hnext : (cmbOf (replyMember n x.2 w.1 w.2 (withOps n [] s)) n).ops = [] := by
    rw [cmbOf_congr (replyMember_mem (s := withOps n [] s) w.1 w.2 hreqs), modCmb, cmbOf_setCmb_same, cmbOf_withOps]
  simp only [returnOp, hops, List.find?_cons, hpassed, beq_self_eq_true, Bool.and_true, hresults, hleft, hmembers, List.zip_cons_cons,
    List.zip_nil_left, List.foldl_cons, List.foldl_nil, hnext, List.find?_nil]

theorem returned_of_single {o : CmbOp} {x : Nat × Msg} {w : Nat × Bytes} (hreqs : s.mem.reqs = []) (hops : (cmbOf s n).ops = [o])
    (hpassed : o.passed = true) (hmembers : o.members = [x]) (hresults : o.results = some [w]) :
    (cmbOf (runReqs (returnOp n o.addr s)) n).ops = []
      ∧ (∀ y ∈ (cmbOf (runReqs (returnOp n o.addr s)) n).cache, rcSame x.2 y = true → y.reply.isSome = true)
      ∧ (runReqs (returnOp n o.addr s)).mem.pool = s.mem.pool := by
  have hmem := replyMember_mem (n := n) (m := x.2) w.1 w.2 (s := withOps n [] s) hreqs
  rw [returnOp_of_single hreqs hops hpassed hmembers hresults, runReqs_of_noRequest (by rw [hmem]; exact hreqs), cmbOf_congr hmem, modCmb,
    cmbOf_setCmb_same, hmem]
  refine ⟨by rw [cmbOf_withOps], fun y hy hsame => ?_, rfl⟩
  obtain ⟨z, -, rfl⟩ := List.mem_map.mp hy
  exact rcDone_reply hsame

/-! ### O43 -/

/-- Settles O43: an atomic reaches its home through its idle unit and is applied there once, and the only operation of a unit returns. -/
theorem atomics : Obligations.Atomics := by
  unfold Obligations.Atomics
  refine ⟨fun s prg m i e p h hop => ⟨_, rfl, ?add⟩, fun s prg m i e p h hop => ⟨_, rfl, atomicDone_exactAdd h hop⟩,
    fun s prg m i e p h hop => ⟨_, rfl, atomicDone_of_asOps h hop (by decide)⟩,
    fun s prg m i e p h hop => ⟨_, rfl, atomicDone_of_asOps h hop (by decide)⟩, fun s prg m i e p h hop => ⟨_, rfl, ?cas⟩,
    fun s n o x w hreqs _ hops hpassed hmembers hresults => ⟨_, rfl, returned_of_single hreqs hops hpassed hmembers hresults⟩⟩
  case add =>
    have hdone := atomicDone_of_asOps (ops := [0x01, 0x02]) h (by simpa using hop) (by decide)
    rwa [atomNew_add hop, length_poolBytes] at hdone
  case cas =>
    have hdone := atomicDone_of_asOps h hop (by decide)
    rwa [atomNew_cas hop, length_poolBytes] at hdone

end Sys2Proof.Machine
end

section
/-! PROOFS. O35: contributions and tile sets, the windows of the conjunction units, and the abort of a collective (R213, R217, R223, R224,
R233, R285). -/

namespace Sys2Proof.Machine

variable {s t : State} {id tile k fmt : Nat} {c : Coll} {m : Msg} {x : TileSet} {w : WaitContrib}

/-! ### Cells that leave the ground (R363) -/

/-- As cells leave, no more changes than counters of the units' pages 0 and the credits of the ports. -/
structure CellsFreed (s t : State) : Prop where
  frame : t = { s with regs := t.regs, ports := t.ports }
  regs : ∀ a, csrPage a ≠ 0 → rdReg t a = rdReg s a

namespace CellsFreed

theorem refl (s : State) : CellsFreed s s := ⟨rfl, fun _ _ => rfl⟩

theorem bump {b : Nat} (h : CellsFreed s t) (hb : csrPage b = 0) (n : Nat := 1) : CellsFreed s (bump t b n) where
  frame := congrArg (fun v : State => { v with regs := (Machine.bump t b n).regs }) h.frame
  regs a ha := by
    have hother : a ≠ b := fun hab => ha (by rw [hab, hb])
    exact (rdReg_wrReg_other t _ hother).trans (h.regs a ha)

theorem progress (h : CellsFreed s t) (g u : Nat) : CellsFreed s (progress t g u) := h.bump (csrPage_csrAddr (by decide) (by decide))

theorem releaseCredit (h : CellsFreed s t) (b tc : Nat) : CellsFreed s (releaseCredit t b tc) := by
  have hport (x : Port) : CellsFreed s (setPort t b x) :=
    ⟨congrArg (fun v : State => { v with ports := (setPort t b x).ports }) h.frame, h.regs⟩
  exact (hport _).bump (csrPage_csrAddr (by decide) (by decide))

theorem cellLeaves (h : CellsFreed s t) (c : GCell) : CellsFreed s (cellLeaves t c) := by
  have hleft := ((h.progress grGND c.slice).bump (b := GND_FLITS_OUT c.slice) (csrPage_csrAddr (by decide) (by decide))).progress grPRG c.slice
  unfold Machine.cellLeaves
  dsimp only
  split
  · exact hleft.releaseCredit _ _
  · exact hleft

end CellsFreed

theorem cellsFreed_freeCells (cs : List GCell) (s : State) : CellsFreed s (freeCells cs s) :=
  List.foldlRecOn cs _ (CellsFreed.refl s) fun _ h c _ => h.cellLeaves c

theorem rdReg_freeCells (cs : List GCell) (s : State) {a : Nat} (ha : csrPage a ≠ 0) : rdReg (freeCells cs s) a = rdReg s a :=
  (cellsFreed_freeCells cs s).regs a ha

@[simp] theorem freeCells_ground (cs : List GCell) (s : State) : (freeCells cs s).ground = s.ground := by
  rw [(cellsFreed_freeCells cs s).frame]
@[simp] theorem freeCells_bobs (cs : List GCell) (s : State) : (freeCells cs s).bobs = s.bobs := by
  rw [(cellsFreed_freeCells cs s).frame]
@[simp] theorem freeCells_colls (cs : List GCell) (s : State) : (freeCells cs s).colls = s.colls := by
  rw [(cellsFreed_freeCells cs s).frame]
@[simp] theorem freeCells_sets (cs : List GCell) (s : State) : (freeCells cs s).sets = s.sets := by
  rw [(cellsFreed_freeCells cs s).frame]
@[simp] theorem freeCells_waitContribs (cs : List GCell) (s : State) : (freeCells cs s).waitContribs = s.waitContribs := by
  rw [(cellsFreed_freeCells cs s).frame]

/-- In an idle ground the cells of a message become free, and nothing that waited goes on. -/
theorem drainWaiting_freeCells (cs : List GCell) (h : GroundIdle s) : drainWaiting (freeCells cs s) = freeCells cs s :=
  drainWaiting_of_idle (by simpa [GroundIdle] using h)

/-! ### A contribution joins its set (R213) -/

/-- A set once a contribution has joined it that does not complete it. -/
def joinedBy (d : Bytes) (member fmt rows cols : Nat) (pay : Bytes) (x : TileSet) : TileSet :=
  { x with accs := addContrib d fmt rows cols pay x.accs, seen := x.seen ++ [member], contribs := x.contribs + 1, full := false }

/-- The set of a tile, replaced. -/
def putSet (x : TileSet) (s : State) : State := { s with sets := s.sets.map fun y => if y.coll == x.coll && y.tile == x.tile then x else y }

/-- R212, R213: a new member's contribution to an unscheduled collective counts and joins; while members are missing no result is read out. -/
theorem enterSet_of_newMember {member : Nat} (label fmt rows cols : Nat) (pay : Bytes) (hnew : member ∉ x.seen)
    (hsched : cdSched (collOf s x.coll).desc = false)
    (hmore : x.contribs + 1 ≠ collMembers (bump s GND_COLL_CONTRIB) (collOf s x.coll).desc) :
    enterSet x member label fmt rows cols pay s =
      putSet (joinedBy (collOf s x.coll).desc member fmt rows cols pay x) (bump s GND_COLL_CONTRIB) := by
  have hseen : x.seen.contains member = false := by simpa using hnew
  have hfull : (x.contribs + 1 == collMembers (bump s GND_COLL_CONTRIB) (collOf s x.coll).desc) = false := by simpa using hmore
  simp only [enterSet, hseen, hsched, hfull, putSet, joinedBy, Bool.false_eq_true, if_false, false_and]
  rfl

theorem setAt_spec (h : setAt s id tile = some x) : x.coll = id ∧ x.tile = tile := by simpa using List.find?_some h

/-- The set put in a tile's place is found there. -/
theorem setAt_putSet (h : setAt s id tile = some x) {y : TileSet} (hcoll : y.coll = x.coll) (htile : y.tile = x.tile) :
    setAt (putSet y s) id tile = some y := by
  obtain ⟨hid, hat⟩ := setAt_spec h
  have hplace : (fun z => z.coll == id && z.tile == tile) ∘ (fun z => if z.coll == y.coll && z.tile == y.tile then y else z)
      = fun z : TileSet => z.coll == id && z.tile == tile := by
    funext z
    rw [hcoll, htile, hid, hat]
    by_cases hz : (z.coll == id && z.tile == tile) = true
    · simp only [Function.comp_def, hz, if_true, hcoll, htile, hid, hat, beq_self_eq_true, Bool.and_self]
    · simp only [Function.comp_def, hz, Bool.false_eq_true, if_false]
  have hfind : s.sets.find? (fun z => z.coll == id && z.tile == tile) = some x := h
  rw [setAt, putSet, List.find?_map, hplace, hfind]
  simp [hcoll, htile]

theorem offerSet_of_open (member label fmt rows cols : Nat) (pay : Bytes) (h : setAt s id tile = some x) :
    offerSet id tile member label fmt rows cols pay s = (true, enterSet x member label fmt rows cols pay s) := by
  rw [offerSet, h]

/-- The contribution counts, and its member and number stand in the set. -/
theorem joined_effect {member rows cols : Nat} {d pay : Bytes} (h : setAt s id tile = some x) :
    let t := putSet (joinedBy d member fmt rows cols pay x) (bump s GND_COLL_CONTRIB)
    rdReg t GND_COLL_CONTRIB = rdReg s GND_COLL_CONTRIB + 1
      ∧ ∃ y, setAt t id tile = some y ∧ y.seen = x.seen ++ [member] ∧ y.contribs = x.contribs + 1 :=
  ⟨rdReg_wrReg_same s _ _, _, setAt_putSet (s := bump s GND_COLL_CONTRIB) h rfl rfl, rfl, rfl⟩

/-- R212: a TILE for the switch reaches the collective of its stream; in an idle ground it holds no cell. -/
theorem contribAt_of_idle (prg : Nat) (hidle : GroundIdle s) (hint : m.hdr.dint = true) (hdst : m.hdr.dst % 4096 = 0)
    (htype : m.hdr.type = tTILE) (htc : m.hdr.tc = 7 ∨ m.hdr.tc = 0) : contribAt prg (m.as tTILE) s = collTile prg m [] s := by
  have ⟨hdelivered, _, _⟩ := hidle
  have has : m.as tTILE = m := by rw [Msg.as, ← htype]
  have hok : m.tcOk = true := by rcases htc with h | h <;> simp [Msg.tcOk, htype, tTILE, tCTRL, tNOTIFY, h]
  rw [has]
  simp [contribAt, contribIn, detachDelivered, deliveredMsg, hdelivered, hint, hdst, hok]

/-- R212, R213: the contribution of a local member of an unscheduled reducing collective enters the open set of its tile. -/
theorem collTile_of_open (prg : Nat) (hidle : GroundIdle s)
    (hcoll : ((openColls s).find? fun e => cdContrib e.2.desc == tmStream m) = some (id, c)) (hsched : cdSched c.desc = false)
    (hmember : memberOf s c.desc m.hdr = some k) (hlocal : isChild s c.desc k = false) (htile : tmTile m < cdTiles c.desc)
    (hreducing : cdReducing c.desc = true) (hset : setAt s id (tmTile m) = some x) :
    collTile prg m [] s = enterSet x k (tmLabel m) (cdFmtIn c.desc) (tmRows m) (tmCols m) (tmData m) s := by
  have hdrain : drainWaiting (freeCells [] s) = s := drainWaiting_of_idle hidle
  simp [collTile, hdrain, hcoll, hsched, hmember, hlocal, htile, hreducing, offerSet_of_open _ _ _ _ _ _ hset]

/-- R213: a contribution that waited joins the open set of its tile, and its cells become free. -/
theorem collSetOpen_of_open (hwait : s.waitContribs = [w]) (hidle : GroundIdle s) (hset : setAt s w.coll w.tile = some x)
    (hsched : cdSched (collOf s w.coll).desc = false) (hnew : w.member ∉ x.seen)
    (hmore : x.contribs + 1 ≠ collMembers (bump { s with waitContribs := [] } GND_COLL_CONTRIB) (collOf s w.coll).desc) :
    collSetOpen 0 s = freeCells w.cells
      (putSet (joinedBy (collOf s w.coll).desc w.member w.fmt w.rows w.cols w.pay x) (bump { s with waitContribs := [] } GND_COLL_CONTRIB)) := by
  obtain ⟨hid, -⟩ := setAt_spec hset
  have hjoin := enterSet_of_newMember (s := { s with waitContribs := [] }) w.label w.fmt w.rows w.cols w.pay hnew
    (by rw [hid]; exact hsched) (by rw [hid]; exact hmore)
  have hoffer := offerSet_of_open (s := { s with waitContribs := [] }) w.member w.label w.fmt w.rows w.cols w.pay hset
  rw [hjoin, hid] at hoffer
  simp only [collSetOpen, hwait, List.getElem?_cons_zero, List.eraseIdx_cons_zero, hoffer, if_true]
  exact drainWaiting_freeCells _ hidle

/-! ### The abort of a collective (R223, R224, Table RGF-7) -/

/-- Without cells in the ground no queued TILE is discarded. -/
theorem dropTiles_of_noCells (streams : List Nat) (hcells : s.ground.cells = []) (hflows : s.ground.flows = [])
    (hwaiting : s.ground.waiting = []) : dropTiles streams s = s := by
  have hown : ownCells s = [] := by simp [ownCells, hcells, hflows, hwaiting]
  simp [dropTiles, hown]

/-- A collective is ABORTED with a reason: its sets and its contributions that wait are gone. -/
def collDropped (id reason : Nat) (s : State) : State :=
  let s := setColl s id { collOf s id with state := 3, reason := reason, done := [] }
  dropContribs (·.coll == id) { s with sets := s.sets.filter (·.coll != id) }

/-- The abort counts, and COLL_ABORTED is raised. -/
def collGone (id reason : Nat) (s : State) : State := raise srcGND_COLL_ABORTED 0 (bump (collDropped id reason s) GND_COLL_ABORTS)

/-- Steps 2 and 3 of Table RGF-7 come to no more than this without stage, targets, queued TILEs and bobbins. -/
theorem collAbort_of_alone (reason origin hops : Nat) (from_ : Option Nat) (h : CollAlone s id) :
    collAbort id reason origin hops from_ s = collGone id reason s := by
  obtain ⟨hopen, hstage, hlocals, hfwds, hbobs, hcells, hflows, hwaiting⟩ := h
  have hground : (collDropped id reason s).ground = s.ground := freeCells_ground _ _
  have hmcast (g : Nat) : mcOf (collDropped id reason s) g = mcOf s g := by rw [mcOf, mcOf, hground]
  have hlocals' : mcLocals (collDropped id reason s) (cdGroup (collOf s id).desc) = [] := by rw [mcLocals, hmcast]; exact hlocals
  have hfwds' : mcFwds (collDropped id reason s) (cdGroup (collOf s id).desc) = [] := by rw [mcFwds, hmcast]; exact hfwds
  have hbobs' : (collDropped id reason s).bobs = [] := (freeCells_bobs _ _).trans hbobs
  have htiles (l : List Nat) : dropTiles l (collDropped id reason s) = collDropped id reason s :=
    dropTiles_of_noCells l (by rw [hground]; exact hcells) (by rw [hground]; exact hflows) (by rw [hground]; exact hwaiting)
  have hdropped : dropContribs (·.coll == id) { setColl s id { collOf s id with state := 3, reason := reason, done := [] } with
      sets := s.sets.filter (·.coll != id) } = collDropped id reason s := rfl
  simp only [collAbort, hopen, hstage, setColl_sets, hdropped, htiles, hlocals', hfwds', hbobs', collGone, ne_eq, not_true_eq_false,
    if_false, Bool.false_eq_true, false_and, List.foldl_nil]

/-- What the abort of collective `id` leaves. -/
structure CollAborted (s t : State) (id reason : Nat) : Prop where
  state : (collOf t id).state = 3
  reason : (collOf t id).reason = reason
  sets : ∀ x ∈ t.sets, x.coll ≠ id
  waits : ∀ w ∈ t.waitContribs, w.coll ≠ id
  counted : rdReg t GND_COLL_ABORTS = rdReg s GND_COLL_ABORTS + 1
  sticky : stickySet t srcGND_COLL_ABORTED 0 = true

theorem collOf_collGone (id reason : Nat) (s : State) :
    collOf (collGone id reason s) id = { collOf s id with state := 3, reason := reason, done := [] } := by
  have hcolls : (collGone id reason s).colls
      = sset (fun _ => {}) s.colls id { collOf s id with state := 3, reason := reason, done := [] } := by
    rw [collGone, raise_frame]
    exact freeCells_colls _ _
  rw [collOf, hcolls, sget_sset_same]

theorem collGone_sets (id reason : Nat) (s : State) : (collGone id reason s).sets = s.sets.filter (·.coll != id) := by
  rw [collGone, raise_frame]
  exact freeCells_sets _ _

theorem collGone_waitContribs (id reason : Nat) (s : State) :
    (collGone id reason s).waitContribs = s.waitContribs.filter fun w => !(w.coll == id) := by
  rw [collGone, raise_frame]
  exact freeCells_waitContribs _ _

theorem rdReg_collGone_aborts (id reason : Nat) (s : State) :
    rdReg (collGone id reason s) GND_COLL_ABORTS = rdReg s GND_COLL_ABORTS + 1 :=
  calc
    _ = rdReg (bump (collDropped id reason s) GND_COLL_ABORTS) GND_COLL_ABORTS := rdReg_raise_csrAddr 0 0 _ (by decide) (by decide)
    _ = rdReg (collDropped id reason s) GND_COLL_ABORTS + 1 := rdReg_wrReg_same _ _ _
    _ = rdReg s GND_COLL_ABORTS + 1 := congrArg (· + 1) (rdReg_freeCells _ _ (by decide))

theorem collAborted_of_alone (reason origin hops : Nat) (from_ : Option Nat) (h : CollAlone s id) :
    CollAborted s (collAbort id reason origin hops from_ s) id reason := by
  rw [collAbort_of_alone _ _ _ _ h]
  exact {
    state := by rw [collOf_collGone]
    reason := by rw [collOf_collGone]
    sets := by simp [collGone_sets]
    waits := by simp [collGone_waitContribs]
    counted := rdReg_collGone_aborts _ _ _
    sticky := stickySet_raise _ _ _ (by decide) }

/-- R217: TIMEOUT_US of an open set of an unscheduled collective is a cause of its abort. -/
theorem collTimeout_of_open (hset : (setAt s id tile).isSome = true) (hsched : cdSched (collOf s id).desc = false) :
    collTimeout id tile s = collAbort id 0x05 (ownId s) 0 none s := by
  simp [collTimeout, hset, hsched, collFail]

/-- R224: an ABORT message aborts the open collective with its TREE_TAG for the message's reason. -/
theorem collAborted_abortIn (hcoll : ((openColls s).find? fun e => cdTag e.2.desc == leAt m.pay 0 4) = some (id, c))
    (h : CollAlone s id) : CollAborted s (abortIn m s) id (leAt m.pay 6 1) := by
  rw [abortIn, hcoll]
  exact collAborted_of_alone _ _ _ _ h

/-! ### The windows of the conjunction units (R233, R285) -/

@[simp] theorem cmbOf_modCmb_same (s : State) (n : Nat) (f : Cmb → Cmb) : cmbOf (modCmb s n f) n = f (cmbOf s n) := cmbOf_setCmb_same _ _ _

theorem wake_of_noRequest (p : Req → Bool) (h : s.mem.reqs = []) : wake p s = s := by
  have hmem : { s.mem with reqs := [] } = s.mem := by rw [← h]
  rw [wake, modMem, h, List.map_nil, hmem]

/-- R285: HOLD passes for a completed entry of a reply cache: no completed entry with its key stays, and no request waits for its place. -/
theorem replyExpire_of_noRequest (n src gen i : Nat) (sint : Bool) (h : s.mem.reqs = []) :
    replyExpire n src sint gen i s = modCmb s n fun c => { c with cache := c.cache.filter fun e =>
      !(e.src == src && e.sint == sint && e.gen == gen && e.reqId == i && e.reply.isSome) } := by
  have hreqs (f : Cmb → Cmb) : (modCmb s n f).mem.reqs = [] := h
  rw [replyExpire, wake_of_noRequest _ (hreqs _), runReqs_of_noRequest (hreqs _)]

/-! ### O35 -/

/-- Settles O35, one command after another. -/
theorem collectiveWork : Obligations.CollectiveWork := by
  unfold Obligations.CollectiveWork
  refine ⟨⟨?contribution, ?waiting, fun s n a l => ⟨_, rfl, ?buffer⟩, fun s n src gen i sint hreqs => ⟨_, rfl, ?cache⟩⟩,
    fun s id tile hset halone hsched => ⟨_, rfl, ?timeout⟩, fun s prg id c m hctrl hcoll halone => ⟨_, rfl, ?abort⟩⟩
  case contribution =>
    intro s prg id k c m x hint hdst htype htc hidle hcoll hc hsched hmember hlocal htile hreducing hset hid hnew hmore
    refine ⟨_, rfl, ?_⟩
    rw [contribAt_of_idle prg hidle hint hdst htype htc, collTile_of_open prg hidle hcoll hsched hmember hlocal htile hreducing hset,
      enterSet_of_newMember _ _ _ _ _ hnew (by rw [hid, hc]; exact hsched) (by rw [hid, hc]; exact hmore)]
    exact joined_effect hset
  case waiting =>
    intro s w x hwait hidle hset hid hsched hnew hmore
    refine ⟨_, rfl, ?_⟩
    rw [collSetOpen_of_open hwait hidle hset hsched hnew hmore]
    exact ⟨freeCells_waitContribs _ _, (rdReg_freeCells _ _ (by decide)).trans (rdReg_wrReg_same _ _ _)⟩
  case buffer => exact ⟨by rw [bufExpire, cmbOf_modCmb_same], by rw [bufExpire, cmbOf_modCmb_same], rfl⟩
  case cache =>
    rw [replyExpire_of_noRequest n src gen i sint hreqs, cmbOf_modCmb_same]
    refine ⟨rfl, fun e he hreply => ?_⟩
    have hkept := (List.mem_filter.mp he).2
    rintro ⟨rfl, rfl, rfl, rfl⟩
    simp [Option.isSome_iff_ne_none.mpr hreply] at hkept
  case timeout =>
    rw [collTimeout_of_open hset hsched]
    have h := collAborted_of_alone 0x05 (ownId s) 0 none halone
    exact ⟨h.state, h.reason, h.sets, h.waits, h.counted, h.sticky⟩
  case abort =>
    rw [atSwitch_of_ctrlMsg prg _ hctrl]
    have h := collAborted_abortIn hcoll halone
    exact ⟨h.state, h.reason, h.counted, h.sets, h.waits, h.sticky⟩

end Sys2Proof.Machine
end

section
/-! PROOFS. O42: what a write of pool memory that ends OK leaves, and a sector that was never written (R248, R249). -/

namespace Sys2Proof.Machine

variable {s t : State} {part sec mask p : Nat} {enc : Bool}

/-! ### A sector that a write has sealed (R248) -/

/-- Bits taken out of a mask are not in it any more. -/
theorem without_and (a b : Nat) : without a b &&& b = 0 := by
  induction a using Nat.strongRecOn generalizing b with
  | ind a ih =>
    rcases Nat.eq_zero_or_pos a with rfl | ha
    · simp [without]
    · have hle : a / 2 &&& b / 2 ≤ a / 2 := Nat.and_le_left
      have hdiv : (a &&& b) / 2 = a / 2 &&& b / 2 := Nat.and_div_two
      have hmod : (a &&& b) % 2 = 1 ↔ a % 2 = 1 ∧ b % 2 = 1 := Nat.and_mod_two_eq_one
      have hrest : without a b / 2 = without (a / 2) (b / 2) := by
        unfold without
        omega
      have hlow : ¬(without a b % 2 = 1 ∧ b % 2 = 1) := by
        unfold without
        omega
      have hhigh : (without a b &&& b) / 2 = 0 := by rw [Nat.and_div_two, hrest, ih (a / 2) (by omega)]
      have heven : ¬(without a b &&& b) % 2 = 1 := fun h => hlow (Nat.and_mod_two_eq_one.mp h)
      omega

/-- A partition whose slot holds a key of its own (R403). -/
def Keyed (s : State) (part : Nat) : Prop := ∃ k, (slotOf s part).cur = some k ∧ k.part = part

theorem Keyed.congr (h : Keyed s part) (hkeys : t.mem.keys = s.mem.keys) : Keyed t part := by
  simpa only [Keyed, slotOf, hkeys] using h

/-- What a partition seals with its key it can read (R405). -/
theorem Keyed.fits (h : Keyed s part) : keyFits s part (sealKey s part) = true := by
  obtain ⟨k, hcur, hpart⟩ := h
  simp [keyFits, sealKey, hcur, hpart]

/-- A store verifies for the partition that made it, over the blocks that it covers. -/
theorem verifies_putSector (h : Keyed s part) (p : Nat) (d : Bytes) :
    Verifies (putSector part enc p d s) part (p / 256) (blockMask p d.length) := by
  have hmem : (putSector part enc p d s).mem = _ := blocksMoved_mem _ _ _
  have hsector : sfind (putSector part enc p d s).mem.sectors (p / 256) = some ⟨sealKey s part, _, 0, _⟩ :=
    (congrArg (fun m : Mem => sfind m.sectors (p / 256)) hmem).trans (sfind_sput_same _ _ _)
  refine verifies_iff.mpr ⟨_, hsector, rfl, ?key, without_and _ _, fun b hb => ?good⟩
  case key =>
    rw [keyFits_congr (by rw [hmem]; rfl) (rdReg_putSector part enc p d s)]
    exact h.fits
  case good =>
    have hsec := div_of_mem_sectorBlocks hb
    rw [blockBad, hmem, List.any_eq_false]
    intro e he hblock
    obtain ⟨-, hother⟩ := List.mem_filter.mp he
    rw [bne_iff_ne] at hother
    rw [beq_iff_eq] at hblock
    omega

/-! ### A write that ends OK (R248) -/

/-- A write to a sector that ends OK stores its bytes behind, at most, a read that judged the sector. -/
theorem writeSector_of_ok {d : Bytes} (h : (writeSector part enc p d s).1 = stOK) :
    ∃ u, (u = s ∨ u = judged (p / 256) s) ∧ writeSector part enc p d s = (stOK, putSector part enc p d u) := by
  by_cases hfull : d.length = 256
  · exact ⟨s, .inl rfl, by simp [writeSector, writeSectorOver, hfull]⟩
  · have hread : (readSector part (p / 256) (blockMask p d.length) s).1 = stOK := by
      by_contra hne
      rw [writeSector, writeSectorOver, if_neg hfull] at h
      dsimp only at h
      rw [if_neg hne] at h
      exact hne h
    obtain ⟨hjudged, -⟩ := readSector_of_ok hread
    exact ⟨judged (p / 256) s, .inr rfl, by simp [writeSector, writeSectorOver, hfull, hjudged]⟩

theorem foldl_writeStep_failed {d : Bytes} {a : Nat × State} (xs : List (Nat × Nat)) (h : a.1 ≠ stOK) :
    (xs.foldl (writeStep part enc p d) a).1 = a.1 := by
  induction xs generalizing a with
  | nil => rfl
  | cons x xs ih =>
    have hstep : (writeStep part enc p d a x).1 = a.1 := if_neg h
    rw [List.foldl_cons, ih (hstep ▸ h), hstep]

/-- A write of pieces that ends OK: the first piece is stored behind, at most, a read of its sector, and the rest is written from there. -/
theorem writePieces_cons_of_ok {d : Bytes} {x : Nat × Nat} {xs : List (Nat × Nat)} (h : (writePieces part enc p d (x :: xs) s).1 = stOK) :
    ∃ u, (u = s ∨ u = judged (x.1 / 256) s)
      ∧ writePieces part enc p d (x :: xs) s = writePieces part enc p d xs (putSector part enc x.1 (bslice d (x.1 - p) x.2) u) := by
  have hfirst : (writeSector part enc x.1 (bslice d (x.1 - p) x.2) s).1 = stOK := by
    by_contra hne
    exact hne ((foldl_writeStep_failed xs (a := writeStep part enc p d (stOK, s) x) hne).symm.trans h)
  obtain ⟨u, hu, hwrite⟩ := writeSector_of_ok hfirst
  exact ⟨u, hu, by rw [writePieces, List.foldl_cons, writeStep, hwrite]; rfl⟩

theorem pool_eq_of_judged {u : State} (h : u = s ∨ u = judged sec s) : u.mem.pool = s.mem.pool := by
  rcases h with rfl | rfl
  · rfl
  · rw [judged_mem]

theorem keys_eq_of_judged {u : State} (h : u = s ∨ u = judged sec s) : u.mem.keys = s.mem.keys := by
  rcases h with rfl | rfl
  · rfl
  · rw [judged_mem]

/-- Judging a sector leaves the sectors before it as good as they were. -/
theorem Verifies.judged {sec' : Nat} {u : State} (h : Verifies s part sec mask) (hlt : sec < sec') (hu : u = s ∨ u = judged sec' s) :
    Verifies u part sec mask := by
  rcases hu with rfl | rfl
  · exact h
  · exact (h.congr (sameStore_blocksMoved _ _ s)).correctSector hlt

/-- Writes of sectors behind it leave a sector as good as it was. -/
theorem Verifies.writePieces {d : Bytes} {xs : List (Nat × Nat)} {part' : Nat} (h : Verifies s part sec mask)
    (hbehind : ∀ x ∈ xs, sec < x.1 / 256) (hok : (writePieces part' enc p d xs s).1 = stOK) :
    Verifies (writePieces part' enc p d xs s).2 part sec mask := by
  induction xs generalizing s with
  | nil => exact h
  | cons x xs ih =>
    obtain ⟨u, hu, hrest⟩ := writePieces_cons_of_ok hok
    have hlt := hbehind x List.mem_cons_self
    rw [hrest] at hok ⊢
    exact ih ((h.judged hlt hu).putSector (Nat.ne_of_lt hlt)) (fun y hy => hbehind y (List.mem_cons_of_mem x hy)) hok

/-- A write of pieces that ends OK puts their bytes into the pool, and every sector that it wrote verifies. -/
theorem writePieces_of_ok {d : Bytes} {xs : List (Nat × Nat)} (hkey : Keyed s part) (hrising : Rising xs)
    (hok : (writePieces part enc p d xs s).1 = stOK) :
    (writePieces part enc p d xs s).2.mem.pool = putPieces p d xs s.mem.pool
      ∧ ∀ x ∈ xs, Verifies (writePieces part enc p d xs s).2 part (x.1 / 256) (blockMask x.1 x.2) := by
  induction xs generalizing s with
  | nil => exact ⟨rfl, fun _ h => absurd h List.not_mem_nil⟩
  | cons x xs ih =>
    obtain ⟨hbehind, hrising⟩ := List.pairwise_cons.mp hrising
    obtain ⟨u, hu, hrest⟩ := writePieces_cons_of_ok hok
    obtain ⟨y, hput⟩ := putSector_mem part enc x.1 (bslice d (x.1 - p) x.2) u
    have hkeyed : Keyed u part := hkey.congr (keys_eq_of_judged hu)
    have hfirst := verifies_putSector (enc := enc) hkeyed x.1 (bslice d (x.1 - p) x.2)
    rw [length_bslice] at hfirst
    rw [hrest] at hok ⊢
    obtain ⟨hpool, hverifies⟩ := ih (hkeyed.congr (by rw [hput])) hrising hok
    refine ⟨by rw [hpool, hput, pool_eq_of_judged hu]; rfl, fun z hz => ?_⟩
    rcases List.mem_cons.mp hz with rfl | hz
    · exact hfirst.writePieces hbehind hok
    · exact hverifies z hz

/-! ### The read of a range that verifies (R249) -/

theorem readPieces_of_verifies {xs : List (Nat × Nat)} (h : ∀ x ∈ xs, Verifies s part (x.1 / 256) (blockMask x.1 x.2)) :
    (readPieces part xs s).1 = stOK := by
  induction xs generalizing s with
  | nil => rfl
  | cons x xs ih =>
    have hcons : readPieces part (x :: xs) s = readPieces part xs (blocksMoved (256 * (x.1 / 256)) 4 s) := by
      rw [readPieces, List.foldl_cons, readStep, readSector_of_verifies (h x List.mem_cons_self)]; rfl
    rw [hcons]
    exact ih fun y hy => (h y (List.mem_cons_of_mem x hy)).congr (sameStore_blocksMoved _ _ s)

theorem memRead_of_verifies {n : Nat} (h : ∀ x ∈ pieces (n / 256 + 2) p n, Verifies s part (x.1 / 256) (blockMask x.1 x.2)) :
    (memRead part p n s).1 = stOK ∧ (memRead part p n s).2.1 = poolBytes s p n := by
  have hok := readPieces_of_verifies h
  rw [memRead_eq, if_pos hok]
  exact ⟨hok, poolBytes_congr (by rw [readPieces_mem hok]) p n⟩

/-- A write with a key that ends OK stores its data, and the range that it wrote verifies. -/
theorem memWrite_of_ok {d : Bytes} (hkey : Keyed s part) (hok : (memWrite part enc p d s).1 = stOK) :
    Stored s (memWrite part enc p d s).2 p d ∧ ∀ x ∈ pieces (d.length / 256 + 2) p d.length,
      Verifies (memWrite part enc p d s).2 part (x.1 / 256) (blockMask x.1 x.2) := by
  rw [memWrite_eq] at hok ⊢
  obtain ⟨hpool, hverifies⟩ := writePieces_of_ok hkey (pieces_rising _ _ _) hok
  exact ⟨stored_of_pool hpool, hverifies⟩

/-! ### A sector that was never written (R249) -/

theorem readSector_of_unwritten (hnone : sfind s.mem.sectors sec = none) (hgood : ∀ b ∈ sectorBlocks sec, blockBad s b = false) :
    readSector part sec mask s = (stINTEGRITY, raise srcMRG_MAC_FAIL (homeHub (256 * sec))
      (bump (blocksMoved (256 * sec) 4 s) (MRG_MAC_FAIL (homeHub (256 * sec))))) := by
  have hmem := blocksMoved_mem (256 * sec) 4 s
  have hgood' : ∀ b ∈ sectorBlocks sec, blockBad (blocksMoved (256 * sec) 4 s) b = false := fun b hb => by
    rw [blockBad_congr (s := s) (by rw [hmem]), hgood b hb]
  have hfixed : unfixable (blocksMoved (256 * sec) 4 s) sec = [] := List.filter_eq_nil_iff.mpr fun b hb => by
    simp [errsAfter, hgood' b hb]
  simp [readSector, correctSector_of_good hgood', hfixed, sectorPoison, sectorFits, hmem, hnone]

/-- Progress counts at another register than MAC failures. -/
theorem rdReg_blocksMoved (q n : Nat) {g u k o : Nat} (h : o % 4096 ≠ 0x040) :
    rdReg (blocksMoved q n s) (csrAddr g u k o) = rdReg s (csrAddr g u k o) := by
  unfold blocksMoved
  split
  · rfl
  · exact rdReg_wrReg_other s _ (csrAddr_ne_of_off h)

/-! ### O42 -/

/-- Settles O42: what a write seals verifies for its partition, piece by piece, and what was never sealed does not. -/
theorem poolMemoryLaw : Obligations.PoolMemoryLaw := by
  unfold Obligations.PoolMemoryLaw
  refine ⟨fun s part p enc d k hcur hpart _ hok => ?written, fun s part sec mask hnone hgood => ?unwritten⟩
  case written =>
    obtain ⟨hstored, hverifies⟩ := memWrite_of_ok ⟨k, hcur, hpart⟩ hok
    obtain ⟨hread, hdata⟩ := memRead_of_verifies hverifies
    obtain ⟨hbytes, -⟩ := id hstored
    exact ⟨hstored, hread, hdata.trans hbytes⟩
  case unwritten =>
    rw [readSector_of_unwritten hnone fun b hb => by simpa using List.any_eq_false.mp hgood b hb]
    refine ⟨rfl, ?_, stickySet_raise _ _ _ (by decide), by rw [raise_mem, bump_mem, blocksMoved_mem]⟩
    rw [MRG_MAC_FAIL, rdReg_raise_csrAddr _ _ _ (by decide) (by decide), rdReg_bump, if_pos rfl, rdReg_blocksMoved _ _ (by decide)]
    rfl

end Sys2Proof.Machine
end

section
/-! PROOFS. O41: a READ, a WRITE and a WRITE_ACK at the T0 home of their address (R248, R249, R252, R277, R279). -/

namespace Sys2Proof.Machine

variable {s u : State} {m : Msg} {r : Req} {prg i e p : Nat}

/-! ### A request of the fabric reaches its home (R252, R277) -/

/-- A request as the fabric brings it: no operation of a conjunction unit and no access of a unit of the device, and no read joined it. -/
def Single (r : Req) : Prop := r.op = none ∧ r.dev = none ∧ r.merged = false ∧ r.more = []

/-- Such a request ends with one answer, and a tier outcome is counted (R252). -/
theorem finish_of_single (h : Single r) (st : Nat) (data : Option Bytes) (s : State) :
    finish r st data s = answer r.prg r.msg st data (countTier r.prg st s) := by
  obtain ⟨hop, hdev, hmerged, hmore⟩ := h
  simp [finish, hop, hdev, hmerged, hmore]

/-- A READ ends with what memory read, or with the status of the sectors that did not verify (R249, R252). -/
def readEnd (prg : Nat) (m : Msg) (x : Nat × Bytes × State) : State :=
  answer prg m x.1 (if x.1 = stOK then some x.2.1 else none) (countTier prg x.1 x.2.2)

/-- A write ends with the status of its sectors (R248, R252). -/
def writeEnd (prg : Nat) (m : Msg) (x : Nat × State) : State := answer prg m x.1 none (countTier prg x.1 x.2)

/-- An idle ground hands a READ or a write on to its lookup; no unit holds a batch that it could pass. -/
theorem fabricReq_of_atHome {k : Use} (h : AtHome s prg m k i e p) (htype : m.hdr.type ≠ tATOMIC) :
    ∃ port, fabricReq prg m s = runReqs (goOn { arr := s.mem.arrivals, prg := prg, msg := m, port := port } (arrived s)) := by
  obtain ⟨⟨-, hcmbs, -, -, -, -, -, hground, -⟩, hform, hdint, hdst, hown, -⟩ := h
  have harr : nextArr s = (s.mem.arrivals, arrived s) := rfl
  have hempty : cmbOf (arrived s) prg = {} := by
    show sget (fun _ => ({} : Cmb)) s.mem.cmbs prg = {}
    rw [hcmbs]
    rfl
  have hflush : flushSource prg m.hdr.src (arrived s) = arrived s := by simp [flushSource, hempty]
  refine ⟨arrivalPort s (unitOut prg m.hdr) prg m, ?_⟩
  simp only [fabricReq, takeDelivered_of_idle _ _ hground, harr, if_neg htype, hflush, hform, hdint, hdst, hown,
    (OnTheWay.arrived s).ownId, ne_eq, not_true_eq_false, decide_false, Bool.not_true, Bool.or_false, Bool.false_eq_true, if_false]

/-- R252: a READ or a write whose home is own T0 memory is served there, as the request that came. -/
theorem fabricReq_served {k : Use} (h : AtHome s prg m k i e p) (huse : m.use = k) (htype : m.hdr.type ≠ tATOMIC)
    (hcoh : (m.hdr.type == tREAD && m.hdr.op != 0) = false) (hcover : coverDom s (msgAddr m % 2 ^ 52) = none) :
    ∃ r, r.msg = m ∧ r.prg = prg ∧ Single r
      ∧ fabricReq prg m s = runReqs (serve r (objOf s i).part (objOf s i).crypt p (found s prg)) := by
  obtain ⟨port, hentry⟩ := fabricReq_of_atHome h htype
  obtain ⟨-, -, -, -, -, hlow, -⟩ := id h
  have hway := OnTheWay.arrived s
  refine ⟨lookedUp (found s prg) { arr := s.mem.arrivals, prg := prg, msg := m, port := port, ext := e, accepted := true, looked := true } e p,
    rfl, rfl, ⟨rfl, rfl, rfl, rfl⟩, ?_⟩
  rw [hentry, goOn, if_neg (Nat.not_le.mpr hlow), process_of_atHome h hway huse rfl rfl ⟨rfl, rfl, rfl⟩,
    atLine_of_atHome h (hway.lookedIn prg) hcover hcoh rfl rfl rfl]
  rfl

theorem onTheWay_found (s : State) (prg : Nat) : OnTheWay s (found s prg) := (OnTheWay.arrived s).lookedIn prg

theorem OnTheWay.objAt (h : OnTheWay s u) (a : Nat) : objAt u a = objAt s a := by rw [Machine.objAt, Machine.objAt, h.objs]

/-! ### A READ is served (R249) -/

theorem objAt_of_lookRights {k : Use} {part a c : Nat} (h : lookRights s part k a c = .ok i e p) : objAt s a = some i := by
  unfold lookRights lookRightsOf at h
  split at h
  · cases h
  · split at h
    · cases h
    · next j hobj =>
      dsimp only at h
      split_ifs at h
      cases h
      exact hobj

/-- R233: no combine buffer keeps the data of an object that is not SHARED_RO. -/
theorem keepShared_of_unshared (d : Bytes) (hobj : objAt s (msgAddr r.msg % 2 ^ 52) = some i) (hunshared : (objOf s i).sharedRo = false) :
    keepShared r d s = s := by
  rw [keepShared, hobj]
  exact if_neg (by simp [hunshared])

theorem memRead_objs {part n : Nat} (hok : (memRead part p n s).1 = stOK) : (memRead part p n s).2.2.mem.objs = s.mem.objs := by
  rw [memRead_eq] at hok ⊢
  rw [readPieces_mem hok]

theorem serve_read {part : Nat} {enc : Bool} (hkey : (enc && keyState u part == 0) = false) (htype : r.msg.hdr.type = tREAD)
    (hsingle : Single r) (hobj : objAt u (msgAddr r.msg % 2 ^ 52) = some i) (hunshared : (objOf u i).sharedRo = false) :
    serve r part enc p u = readEnd r.prg r.msg (memRead part p (msgLen r.msg) u) := by
  have hobjs := memRead_objs (s := u) (part := part) (p := p) (n := msgLen r.msg)
  simp only [serve, hkey, Bool.false_eq_true, if_false, htype, if_true, bne_self_eq_false, Bool.and_false, readEnd]
  generalize memRead part p (msgLen r.msg) u = x at hobjs ⊢
  split
  · next hok =>
    have hobj' : objAt x.2.2 (msgAddr r.msg % 2 ^ 52) = some i := by rw [objAt, hobjs hok, ← objAt, hobj]
    have hunshared' : (objOf x.2.2 i).sharedRo = false := by rw [objOf, hobjs hok, ← objOf, hunshared]
    rw [keepShared_of_unshared _ hobj' hunshared', finish_of_single hsingle, hok]
  · exact finish_of_single hsingle _ _ _

/-! ### A write is served (R248) -/

theorem readSector_moves (part sec mask : Nat) (s : State) : (readSector part sec mask s).2.mem.moves = s.mem.moves := by
  have hjudged : (correctSector sec (blocksMoved (256 * sec) 4 s)).mem.moves = s.mem.moves := by rw [correctSector_mem, blocksMoved_mem]
  unfold readSector
  dsimp only
  split_ifs <;> simpa using hjudged

theorem writeSector_moves (part : Nat) (enc : Bool) (p : Nat) (d : Bytes) (s : State) :
    (writeSector part enc p d s).2.mem.moves = s.mem.moves := by
  have hput (u : State) : (putSector part enc p d u).mem.moves = u.mem.moves := by
    obtain ⟨_, hmem⟩ := putSector_mem part enc p d u
    rw [hmem]
  unfold writeSector writeSectorOver
  split_ifs with hfull
  · exact hput s
  · dsimp only
    split_ifs
    · exact (hput _).trans (readSector_moves _ _ _ _)
    · exact readSector_moves _ _ _ _

/-- A write of the pool neither starts nor ends a move. -/
theorem memWrite_moves (part : Nat) (enc : Bool) (p : Nat) (d : Bytes) (s : State) : (memWrite part enc p d s).2.mem.moves = s.mem.moves := by
  rw [memWrite_eq, writePieces]
  generalize pieces (d.length / 256 + 2) p d.length = xs
  suffices hall : ∀ a : Nat × State, (xs.foldl (writeStep part enc p d) a).2.mem.moves = a.2.mem.moves from hall _
  intro a
  induction xs generalizing a with
  | nil => rfl
  | cons x xs ih => exact (ih _).trans (writeSector_moves _ _ _ _ _)

theorem dropReads_of_none (a n : Nat) (h : s.mem.cmbs = []) : dropReads a n s = s := by
  have hmem : { s.mem with cmbs := [] } = s.mem := by rw [← h]
  rw [dropReads, modMem, h, List.map_nil, hmem]

theorem serve_write {part : Nat} {enc : Bool} (hkey : (enc && keyState u part == 0) = false) (hsafe : u.flt.safe = false)
    (hread : r.msg.hdr.type ≠ tREAD) (hatomic : r.msg.hdr.type ≠ tATOMIC) (hsingle : Single r) (hcmbs : u.mem.cmbs = [])
    (hmoves : u.mem.moves = []) :
    serve r part enc p u = writeEnd r.prg r.msg (memWrite part enc p (msgData r.msg) u) := by
  simp only [serve, hkey, hsafe, Bool.false_and, Bool.false_eq_true, if_false, if_neg hread, if_neg hatomic, dropReads_of_none _ _ hcmbs]
  rw [mirror_of_none ((memWrite_moves _ _ _ _ _).trans hmoves), finish_of_single hsingle, writeEnd]

/-! ### O41 -/

/-- R406: the key of the object's partition, as a request that has been looked up finds it. -/
theorem keyed_of_atHome {k : Use} (h : AtHome s prg m k i e p) :
    ((objOf s i).crypt && keyState (found s prg) (objOf s i).part == 0) = false := by
  obtain ⟨-, -, -, -, -, -, -, -, -, hlook, -⟩ := h
  rw [(onTheWay_found s prg).keyState]
  cases hcrypt : (objOf s i).crypt with
  | false => rfl
  | true => simpa using keyState_of_lookRights hlook hcrypt

theorem fabricReq_read (h : AtHome s prg m .read i e p) (htype : m.hdr.type = tREAD) (hop : m.hdr.op = 0)
    (hcover : coverDom s (msgAddr m % 2 ^ 52) = none) :
    fabricReq prg m s = runReqs (readEnd prg m (memRead (objOf s i).part p (msgLen m) (found s prg))) := by
  obtain ⟨r, rfl, rfl, hsingle, hserved⟩ :=
    fabricReq_served h (by rw [Msg.use, if_pos htype]) (by rw [htype]; decide) (by simp [hop]) hcover
  obtain ⟨-, -, -, -, -, -, -, -, -, hlook, -, -, -, -, -, hunshared⟩ := id h
  have hway := onTheWay_found s r.prg
  have hobj : objAt (found s r.prg) (msgAddr r.msg % 2 ^ 52) = some i := (hway.objAt _).trans (objAt_of_lookRights hlook)
  have hplain : (objOf (found s r.prg) i).sharedRo = false := by rw [hway.objOf, hunshared]
  rw [hserved, serve_read (keyed_of_atHome h) htype hsingle hobj hplain]

theorem fabricReq_write (h : AtHome s prg m .write i e p) (htype : m.hdr.type = tWRITE ∨ m.hdr.type = tWRITE_ACK)
    (hcover : coverDom s (msgAddr m % 2 ^ 52) = none) :
    fabricReq prg m s = runReqs (writeEnd prg m (memWrite (objOf s i).part (objOf s i).crypt p (msgData m) (found s prg))) := by
  have hread : m.hdr.type ≠ tREAD := by rcases htype with htype | htype <;> rw [htype] <;> decide
  have hatomic : m.hdr.type ≠ tATOMIC := by rcases htype with htype | htype <;> rw [htype] <;> decide
  obtain ⟨r, rfl, rfl, hsingle, hserved⟩ :=
    fabricReq_served h (by rw [Msg.use, if_neg hread, if_neg hatomic]) hatomic (by simp [hread]) hcover
  obtain ⟨⟨-, hcmbs, -, hmoves, -, -, -, -, hsafe⟩, -⟩ := id h
  rw [hserved, serve_write (keyed_of_atHome h) hsafe hread hatomic hsingle hcmbs hmoves]

theorem as_self {ty : Nat} (h : m.hdr.type = ty) : m.as ty = m := by
  subst h
  rfl

theorem asReq_self {ty : Nat} (h : m.hdr.type = ty) : m.asReq ty = m := by
  rw [Msg.asReq, as_self h, ite_self]

/-- Settles O41: a request that finds its home is served there, and its answer carries what memory made of it. -/
theorem requestsAtHome : Obligations.RequestsAtHome := by
  unfold Obligations.RequestsAtHome
  refine ⟨fun s prg m i e p h htype hop hcover => ?read, fun s prg m i e p h hcover => ⟨fun htype => ?posted, fun htype => ?acked⟩⟩
  case read =>
    show done (fabricReq prg (m.asReq tREAD) s) = _
    rw [asReq_self htype, fabricReq_read h htype hop hcover]
    rfl
  case posted =>
    show done (fabricReq prg (m.asReq tWRITE) s) = _
    rw [asReq_self htype, fabricReq_write h (.inl htype) hcover]
    rfl
  case acked =>
    show done (fabricReq prg (m.as tWRITE_ACK) s) = _
    rw [as_self htype, fabricReq_write h (.inr htype) hcover]
    rfl

end Sys2Proof.Machine
end

section
/-! PROOFS. O45: replies to the requests of the device, fetched extent entries, and limits that pass (R252 to R254, R259, R273, R279, R296). -/

namespace Sys2Proof.Machine

variable {s : State} {m : Msg} {r : Req} {q : DevReq} {prg : Nat}

/-! ### A reply reaches the switch (R254, R273) -/

/-- A reply for internal endpoint 0x000 that an idle ground delivers is taken from the state as it is. -/
theorem replyIn_of_toSwitch (prg : Nat) (h : ToSwitch s m) : replyIn prg m s = cplIn prg m s := by
  obtain ⟨hint, hdst, -⟩ := h
  simp [replyIn, hint, hdst]

/-- A reply that no request of the device to another switch awaits is matched to the requests that were forwarded to a lender. -/
theorem replyIn_of_noDevReq (prg : Nat) (h : ToSwitch s m) (hnone : s.mem.devReqs = []) : replyIn prg m s = runReqs (lenderReply prg m s) := by
  rw [replyIn_of_toSwitch prg h]
  obtain ⟨-, -, hidle⟩ := h
  simp [cplIn, takeDelivered_of_idle _ _ hidle, hnone]

/-- R259: an OK for a copied sector of a move acknowledges the sector. -/
theorem replyIn_of_sector (prg : Nat) (h : ToSwitch s m) (hreqs : s.mem.devReqs = [q]) (hkind : q.kind = 1) (hid : q.id = m.hdr.reqId)
    (hgen : q.gen = m.hdr.gen) (hok : m.hdr.op = stOK) :
    replyIn prg m s = { s with mem := { s.mem with
      devReqs := [], moves := s.mem.moves.map fun v => if v.addr = q.a then { v with unacked := v.unacked.filter fun x => x != q.id } else v } } := by
  rw [replyIn_of_toSwitch prg h]
  obtain ⟨-, -, hidle⟩ := h
  simp [cplIn, takeDelivered_of_idle _ _ hidle, hreqs, hkind, ← hid, ← hgen, hok, modMem]

/-- R273: a reply that nothing awaits is dropped and counted. -/
theorem replyIn_of_stray (prg : Nat) (h : ToSwitch s m) (hdev : s.mem.devReqs = []) (hreqs : s.mem.reqs = []) (hlate : s.mem.lateIds = []) :
    replyIn prg m s = bump s (MRG_LATE_DROPS (entryHub prg)) := by
  have hdrop : lenderReply prg m s = bump s (MRG_LATE_DROPS (entryHub prg)) := by simp [lenderReply, hreqs, hlate]
  rw [replyIn_of_noDevReq prg h hdev, hdrop, runReqs_of_noRequest (by rw [bump_mem, hreqs])]

/-- A NOTIFY WRITE_FAILED has the TC of a write. -/
theorem atSwitch_of_writeFailed (prg : Nat) (k : State → State) (h : ToSwitch s m) (htype : m.hdr.type = tNOTIFY) (hop : m.hdr.op = 2)
    (htc : m.hdr.tc = 3) : atSwitch prg m k s = k s := by
  obtain ⟨hint, hdst, hidle⟩ := h
  simp [atSwitch, takeDelivered_of_idle _ _ hidle, Msg.tcOk, hint, hdst, htype, hop, htc, tNOTIFY, tCTRL]

/-- R279: the posted write that WRITE_FAILED names ends. -/
theorem writeFailedIn_of_single (prg : Nat) (hreqs : s.mem.devReqs = [q]) (hkind : q.kind = 0) (hid : q.id = leAt m.pay 8 2) :
    writeFailedIn prg m s = { s with mem := { s.mem with devReqs := [] } } := by
  simp [writeFailedIn, hreqs, hkind, ← hid, modMem]

/-! ### The only request that the homes hold -/

theorem dropReq_of_single (h : s.mem.reqs = [r]) : dropReq r.arr s = { s with mem := { s.mem with reqs := [] } } := by
  simp [dropReq, modMem, h]

theorem dropTxnReq_of_none (arr : Nat) (h : s.mem.txns = []) : dropTxnReq arr s = s := by
  have hmem : { s.mem with txns := [] } = s.mem := by rw [← h]
  rw [dropTxnReq, modMem, h, List.map_nil, hmem]

/-- R254: the data of the lender answers the forwarded request, and a combine buffer keeps it where it may. -/
theorem lenderReply_of_single (prg : Nat) (hreqs : s.mem.reqs = [r]) (hstage : r.stage = .lender m.hdr.reqId) (htype : m.hdr.type = tCPL_DATA)
    (hok : m.hdr.op = stOK) (hgen : m.hdr.gen = (extOf s r.ext).gen % 256) (hsingle : Single r) :
    lenderReply prg m s = answer r.prg r.msg stOK (some (bslice m.pay 0 (msgSpan r.msg)))
      (keepShared r (bslice m.pay 0 (msgSpan r.msg)) { s with mem := { s.mem with reqs := [] } }) := by
  obtain ⟨hop, -⟩ := id hsingle
  have hst : lenderStatus stOK = stOK := by decide
  have hhosted : stOK ≠ stNOT_HOSTED := by decide
  have hlow : stOK < 0x10 := by decide
  simp only [lenderReply, hreqs, List.find?_cons, hstage, beq_self_eq_true, hgen, ne_eq, not_true_eq_false, if_false, dropReq_of_single hreqs,
    hok, if_neg hhosted, hst, hop, htype, hlow, and_self, if_true, finish_of_single hsingle, countTier_ok]

/-- R253: the lookups that wait for an extent's entry go on once it has been fetched. -/
theorem entryFetched_of_single {hub e : Nat} (hreqs : s.mem.reqs = [r]) (hstage : r.stage = .fetch hub e) :
    entryFetched hub e s = runReqs (modMem (cacheFill hub e s) fun m => { m with reqs := [{ r with stage := .ready }] }) := by
  have hreqs' : (cacheFill hub e s).mem.reqs = [r] := hreqs
  simp [entryFetched, hreqs, hstage, wake, hreqs', modMem]

theorem mem_cacheFill (hub e : Nat) (s : State) : (cacheFill hub e s).mem.hcache.contains (hub, e) = true := by
  simp [cacheFill]

/-- R252: a request at its tray ends TIER_LATE at its deadline; its tags go on waiting for their responses. -/
theorem tierLate_of_tray {c : Nat} {ts : List Nat} (hreqs : s.mem.reqs = [r]) (htxns : s.mem.txns = []) (hstage : r.stage = .tray c ts)
    (hset : r.due ≠ 0) (hdue : r.due ≤ s.tim.ref) (hsingle : Single r) :
    tierLate r.arr s = runReqs (answer r.prg r.msg stTIER_LATE none (countTier r.prg stTIER_LATE
      { s with mem := { s.mem with reqs := [], lateTags := s.mem.lateTags ++ ts.map fun t => (c, t, entryHub r.prg, r.arr) } })) := by
  have hdropped : dropTxnReq r.arr (dropReq r.arr s) = { s with mem := { s.mem with reqs := [] } } := by
    rw [dropReq_of_single hreqs]
    exact dropTxnReq_of_none r.arr htxns
  have hfound : ((heldReqs s).find? fun q => q.arr == r.arr && q.due != 0 && q.due ≤ s.tim.ref) = some r := by
    simp [heldReqs, hreqs, htxns, hset, hdue]
  rw [tierLate, hfound]
  simp only [endReq, hdropped, lateTags, hstage, finish_of_single hsingle]
  rfl

/-- R256, R296: a forwarded request that its lender does not answer has lost its home. -/
theorem remoteLimit_of_single {k : Nat} (hdev : s.mem.devReqs = []) (hreqs : s.mem.reqs = [r]) (hstage : r.stage = .lender k) (hsingle : Single r) :
    remoteLimit k s = runReqs (answer r.prg r.msg stHOME_LOST none { s with mem := { s.mem with reqs := [] } }) := by
  obtain ⟨hop, -⟩ := id hsingle
  have hst : lenderStatus stTARGET_DEAD = stHOME_LOST := by decide
  simp only [remoteLimit, hdev, hreqs, List.find?_nil, List.find?_cons, hstage, beq_self_eq_true, hop, Option.isSome_none, Bool.false_and,
    Bool.false_eq_true, if_false, dropReq_of_single hreqs, hst, finish_of_single hsingle]
  rfl

/-! ### O45 -/

/-- Settles O45: each reply and each limit meets the one request that it ends, and the equations above say how. -/
theorem repliesAndFetches : Obligations.RepliesAndFetches := by
  unfold Obligations.RepliesAndFetches
  refine ⟨?sector, ?stray, ?lender, ?failed, fun s hub e r hreqs hstage => ⟨?fetched, mem_cacheFill hub e s⟩, ?late, ?lost⟩
  case sector =>
    intro s prg m q hto htype hreqs hkind hid hgen hok
    show done (replyIn prg (m.as tCPL) s) = _
    rw [as_self htype, replyIn_of_sector prg hto hreqs hkind hid hgen hok]
    rfl
  case stray =>
    intro s prg m hto hdev hreqs _ hlate
    refine ⟨fun htype => ?_, fun htype => ?_⟩
    · show done (replyIn prg (m.as tCPL) s) = _
      rw [as_self htype, replyIn_of_stray prg hto hdev hreqs hlate]
      rfl
    · show done (replyIn prg (m.as tCPL_DATA) s) = _
      rw [as_self htype, replyIn_of_stray prg hto hdev hreqs hlate]
      rfl
  case lender =>
    intro s prg m r id hto htype hok hdev hreqs _ hstage hid hgen hop hasker hmerged hmore
    subst hid
    show done (replyIn prg (m.as tCPL_DATA) s) = _
    rw [as_self htype, replyIn_of_noDevReq prg hto hdev, lenderReply_of_single prg hreqs hstage htype hok hgen ⟨hop, hasker, hmerged, hmore⟩]
    rfl
  case failed =>
    intro s prg m q hto htype hop htc hreqs hkind hid
    show done (atSwitch prg (m.asOp tNOTIFY 2) (writeFailedIn prg m) s) = _
    rw [← hop, asOp_self htype, atSwitch_of_writeFailed prg _ hto htype hop htc, writeFailedIn_of_single prg hreqs hkind hid]
    rfl
  case fetched =>
    show done (entryFetched hub e s) = _
    rw [entryFetched_of_single hreqs hstage]
    rfl
  case late =>
    intro s r c ts hreqs htxns hstage hset hdue hop hasker hmerged hmore
    show done (tierLate r.arr s) = _
    rw [tierLate_of_tray hreqs htxns hstage hset hdue ⟨hop, hasker, hmerged, hmore⟩]
    rfl
  case lost =>
    intro s r id hdev hreqs hstage hop hasker hmerged hmore
    show done (remoteLimit id s) = _
    rw [remoteLimit_of_single hdev hreqs hstage ⟨hop, hasker, hmerged, hmore⟩]
    rfl

end Sys2Proof.Machine
end

section
/-! PROOFS. O46: moves and their drains, freed objects, withdrawn ranges, leases, and scrub passes (R249, R257, R259, R261, R266, R268). -/

namespace Sys2Proof.Machine

variable {s : State} {m : Msg} {v : Move} {x : Ext} {l : Lease} {e b u : Nat}

/-! ### A sector of a move (R257, R259) -/

theorem putMove_of_single {v' : Move} (hmoves : s.mem.moves = [v]) (hslot : v.slot = v'.slot) (haddr : v.addr = v'.addr) :
    putMove s v' = { s with mem := { s.mem with moves := [v'] } } := by
  simp [putMove, modMem, hmoves, hslot, haddr]

/-- The only move takes its next sector when its data work is due and its ends can be reached (R53, R259). -/
theorem sectorCopy_of_single (raw : Bytes) (hmoves : s.mem.moves = [v]) (hcopying : copying v = true) (hsafe : s.flt.safe = false)
    (hdue : moveDue s v = true) (hsrc : ∀ b, v.src = some b → engineMay s (b + 256 * v.next) (moveBytes v v.next) = true)
    (hdst : v.dstSw = ownId s → engineMay s (v.dst + 256 * v.next) (moveBytes v v.next) = true) :
    sectorCopy v.addr raw s = moveSector { v with next := v.next + 1 } v.next raw
      { s with mem := { s.mem with moves := [{ v with next := v.next + 1 }] } } := by
  have hwrite : (v.dstSw != ownId s || engineMay s (v.dst + 256 * v.next) (moveBytes v v.next)) = true := by
    by_cases hown : v.dstSw = ownId s
    · simp [hdst hown]
    · simp [hown]
  have hput : putMove s { v with next := v.next + 1 } = { s with mem := { s.mem with moves := [{ v with next := v.next + 1 }] } } :=
    putMove_of_single hmoves rfl rfl
  rw [← hput]
  cases hplace : v.src with
  | none => simp [sectorCopy, hmoves, hcopying, hsafe, hdue, hplace, hwrite]
  | some b => simp [sectorCopy, hmoves, hcopying, hsafe, hdue, hplace, hsrc b hplace, hwrite]

/-! ### The drain of a move (R261) -/

theorem reqsOn_of_none (e : Nat) (hreqs : s.mem.reqs = []) (htxns : s.mem.txns = []) : reqsOn s e = [] := by simp [reqsOn, hreqs, htxns]

theorem dropMove_of_single (hmoves : s.mem.moves = [v]) : dropMove v s = { s with mem := { s.mem with moves := [] } } := by
  simp [dropMove, modMem, hmoves]

theorem wakeExt_of_noRequest (e : Nat) (h : s.mem.reqs = []) : wakeExt e s = s := by
  rw [wakeExt, wake_of_noRequest _ h, runReqs_of_noRequest h]

/-- The source's report ends a drain that no request at the homes and no sector keeps open. -/
theorem drainDone_of_single (hmoves : s.mem.moves = [v]) (hphase : v.phase = 1) (hext : v.ext = some e) (hacked : v.unacked = [])
    (hreqs : s.mem.reqs = []) (htxns : s.mem.txns = []) : drainDone v.addr s = { s with mem := { s.mem with moves := [] } } := by
  have hover : drainOver s v = true := by
    cases hsrc : v.src with
    | none => simp [drainOver, hacked, hsrc]
    | some p => simp [drainOver, hacked, hext, hsrc, reqsOn_of_none e hreqs htxns]
  simp only [drainDone, hmoves, List.find?_cons, beq_self_eq_true, hphase, Bool.and_self, hover, Bool.not_true, Bool.false_eq_true, if_false,
    hext, dropMove_of_single hmoves]
  exact wakeExt_of_noRequest e hreqs

theorem extOf_setExt_same (s : State) (e : Nat) (x : Ext) : extOf (setExt s e x) e = x := sget_sset_same _ _ _ _

theorem extOf_congr {t : State} (h : t.mem = s.mem) (e : Nat) : extOf t e = extOf s e := by rw [extOf, extOf, h]

/-- R255: a lost extent is LOST, and no move and no request changes with it. -/
theorem loseExt_effect (e : Nat) (s : State) : (extOf (loseExt e s) e).state = esLOST ∧ (loseExt e s).mem.moves = s.mem.moves
    ∧ (loseExt e s).mem.reqs = s.mem.reqs := by
  unfold loseExt
  dsimp only
  split
  · next hlost => exact ⟨hlost, rfl, rfl⟩
  · exact ⟨congrArg Ext.state (extOf_setExt_same s e _), rfl, rfl⟩

/-- R261: a drain that is late loses the extent. -/
theorem drainLate_of_single (hmoves : s.mem.moves = [v]) (hphase : v.phase = 1) (hext : v.ext = some e) (hreqs : s.mem.reqs = []) :
    drainLate v.addr s = raise srcMRG_MOVE_DRAIN 0 (loseExt e { s with mem := { s.mem with moves := [] } }) := by
  obtain ⟨-, -, hkept⟩ := loseExt_effect e { s with mem := { s.mem with moves := [] } }
  simp only [drainLate, hmoves, List.find?_cons, beq_self_eq_true, hphase, hext, Option.isSome_some, Bool.and_self, dropMove_of_single hmoves]
  exact wakeExt_of_noRequest e (by rw [raise_mem, hkept, hreqs])

/-! ### Objects and leases that end (R257, R266, R268) -/

theorem freeComplete_of_idle {i : Nat} (hstate : (objOf s i).state = 2) (hfreed : (objOf s i).freed = true) (hreqs : s.mem.reqs = [])
    (htxns : s.mem.txns = []) : freeComplete i s = dropObj i s := by
  simp [freeComplete, hstate, hfreed, objBusy, heldReqs_of_none hreqs htxns]

theorem objOf_setObj_same (s : State) (i : Nat) (o : Obj) : objOf (setObj s i o) i = o := sget_sset_same _ _ _ _

/-- R253: an object that is gone has no entry. -/
theorem objOf_dropObj (i : Nat) (s : State) : objOf (dropObj i s) i = {} := objOf_setObj_same _ i {}

/-- The state in which a lease is over: it and its hosted entries are gone, and MRG_LENT has fallen by its size. -/
def leaseGone (l : Lease) (s : State) : State :=
  wrReg (modMem s fun m => { m with leases := m.leases.filter (·.id != l.id), hosted := m.hosted.filter (·.lease != l.id) }) MRG_LENT
    (rdReg s MRG_LENT - BitVec.ofNat 64 (l.gib * 2 ^ 30))

/-- R268: at the end of its grace the only lease is over, and its borrower is told. -/
theorem graceExpire_of_single (hleases : s.mem.leases = [l]) (hrecalled : l.recallEnd.isSome = true) : graceExpire l.id s
    = emit (.hub 0) (ctrlMsg (leaseGone l s) (l.borrower * 4096) cLEASE_END 6 (leBytes 2 l.id)) (leaseGone l s) := by
  simp only [graceExpire, hleases, List.find?_cons, beq_self_eq_true, hrecalled, Bool.and_self]
  rfl

theorem leaseGone_leases (hleases : s.mem.leases = [l]) : (leaseGone l s).mem.leases = [] := by simp [leaseGone, modMem, hleases]

theorem leaseGone_hosted (l : Lease) (s : State) : ∀ h ∈ (leaseGone l s).mem.hosted, h.lease ≠ l.id := fun _ hh => by
  simpa using List.of_mem_filter hh

/-- R266: an extent without requests is withdrawn: its state, its GEN and the count change. -/
theorem withdrawExt_of_idle (e : Nat) (hreqs : s.mem.reqs = []) (htxns : s.mem.txns = []) :
    (extOf (withdrawExt e s) e).state = esWITHDRAWN ∧ (extOf (withdrawExt e s) e).gen = nextGen (extOf s e)
      ∧ rdReg (withdrawExt e s) MRG_WITHDRAWN = rdReg s MRG_WITHDRAWN + 1 := by
  unfold withdrawExt
  extract_lets y busy t
  have hext : extOf t e = { y with state := esWITHDRAWN, gen := nextGen y, holding := busy } := extOf_setExt_same s e _
  have hreqs' : (dropReads (extAddr t e) y.len t).mem.reqs = [] := hreqs
  have hends : endReqsOn e stEXTENT_WITHDRAWN (dropReads (extAddr t e) y.len t) = dropReads (extAddr t e) y.len t := by
    rw [endReqsOn, reqsOn_of_none e hreqs' htxns, List.foldl_nil]
  rw [hends, runReqs_of_noRequest hreqs']
  exact ⟨congrArg Ext.state hext, congrArg Ext.gen hext, rdReg_wrReg_same _ _ _⟩

theorem cutMove_of_none (e : Nat) (h : s.mem.moves = []) : cutMove e s = s := by simp [cutMove, moveOfExt, h]

/-- R268: LEASE_END withdraws the only extent, which its lease held. -/
theorem leaseEnd_of_single (hexts : s.mem.exts = [(e, x)]) (htier : x.tier = 1) (hlease : x.lease = leAt m.pay 0 2)
    (hhome : x.home = m.hdr.src / 4096) (hstate : x.state = esHOME) (hmoves : s.mem.moves = []) : leaseEnd m s = withdrawExt e s := by
  simp [leaseEnd, hexts, htier, hlease, hhome, hstate, cutMove_of_none e hmoves]

theorem leaseEnd_of_none (h : ∀ x ∈ s.mem.exts, ¬(x.2.tier = 1 ∧ x.2.lease = leAt m.pay 0 2 ∧ x.2.home = m.hdr.src / 4096)) :
    leaseEnd m s = s := by
  have hnone : (s.mem.exts.filter fun e => e.2.tier == 1 && e.2.lease == leAt m.pay 0 2 && e.2.home == m.hdr.src / 4096
      && (e.2.state == esHOME || e.2.state == esMOVING || e.2.state == esLOST)) = [] := by
    rw [List.filter_eq_nil_iff]
    intro e he hmine
    simp only [Bool.and_eq_true, beq_iff_eq] at hmine
    obtain ⟨⟨⟨htier, hlease⟩, hhome⟩, -⟩ := hmine
    exact h e he ⟨htier, hlease, hhome⟩
  rw [leaseEnd, hnone]
  rfl

/-! ### A scrub pass (R249) -/

/-- The only erroneous block of the memory is a block of its channel, and scrubbed with it. -/
theorem scrub_of_single (hsafe : s.flt.safe = false) (hperiod : rdF s (MRG_SCRUB (u / 128)) MRG_SCRUB_PERIOD ≠ 0) (hbad : s.mem.errs ≠ [])
    (hblock : ∀ x ∈ s.mem.errs, x.1 / 80 = b) (htray : isTray (64 * b) = false) (hchannel : channelOf (64 * b % 2 ^ 50) = u) :
    scrub u s = scrubBlock (u / 128) b s := by
  have hblocks : (s.mem.errs.map (·.1 / 80)).eraseDups = [b] := by
    have hall : s.mem.errs.map (·.1 / 80) = List.replicate s.mem.errs.length b := List.eq_replicate_iff.mpr
      ⟨List.length_map _, fun k hk => by
        obtain ⟨x, hx, rfl⟩ := List.mem_map.mp hk
        exact hblock x hx⟩
    obtain ⟨n, hn⟩ := Nat.exists_eq_succ_of_ne_zero (mt List.length_eq_zero_iff.mp hbad)
    rw [hall, hn, List.replicate_succ, List.eraseDups_cons, List.filter_eq_nil_iff.mpr (by simp)]
    rfl
  have hmine : [b].filter (fun b => !isTray (64 * b) && channelOf (64 * b % 2 ^ 50) == u) = [b] := by
    rw [List.filter_cons, htray, hchannel]
    simp
  simp only [scrub, hsafe, Bool.false_or, beq_iff_eq, if_neg hperiod, hblocks, hmine, List.foldl_cons, List.foldl_nil]

theorem scrubBlock_of_correctable {hub : Nat} {c : Bytes} (h : errsAfter s b = some c) :
    scrubBlock hub b s = if c = blockErrs s b then s else setErrs b c (bump s (MRG_ECC_CE hub)) := by
  rw [scrubBlock, h]

/-- What the poisoning of one block leaves: its wrong bits are gone, and its sector has the bit. -/
theorem poisonSector_effect (part b : Nat) (hblock : ∀ x ∈ s.mem.errs, x.1 / 80 = b) :
    (poisonSector part (b / 4) (2 ^ (b % 4)) s).mem.errs = []
      ∧ ∃ y, sfind (poisonSector part (b / 4) (2 ^ (b % 4)) s).mem.sectors (b / 4) = some y ∧ bit y.poison (b % 4) = true := by
  refine ⟨List.filter_eq_nil_iff.mpr fun x hx => ?_, _, sfind_sput_same _ _ _, ?_⟩
  · have hb := hblock x hx
    have hsec : x.1 / 320 = b / 4 := by omega
    simp [hsec, hb, bit]
  · rw [bit_eq_testBit, Nat.testBit_or, Nat.testBit_two_pow_self, Bool.or_true]

/-- Counting does not clear a source. -/
theorem stickySet_bump {f : Src} {u g q k o : Nat} (n : Nat) (ho : o % 4096 ≠ 0x020) (h : stickySet s f u = true) :
    stickySet (bump s (csrAddr g q k o) n) f u = true := by
  rw [← h, stickySet, stickySet, G_ERR_STICKY, rdReg_bump, if_neg (csrAddr_ne_of_off (Ne.symm ho))]

theorem stickySet_poisonSector {f : Src} (part sec mask : Nat) (h : stickySet s f u = true) :
    stickySet (poisonSector part sec mask s) f u = true := by
  have hcount : stickySet (bump s (MRG_POISON_WRITTEN (homeHub (256 * sec))) (maskBits mask 4).length) f u = true :=
    stickySet_bump _ (by decide) h
  have hregs : (poisonSector part sec mask s).regs
      = (bump s (MRG_POISON_WRITTEN (homeHub (256 * sec))) (maskBits mask 4).length).regs := rfl
  rw [stickySet_congr hregs, hcount]

theorem scrubBlock_of_uncorrectable {hub : Nat} (h : errsAfter s b = none) (hblock : ∀ x ∈ s.mem.errs, x.1 / 80 = b) :
    (scrubBlock hub b s).mem.errs = []
      ∧ (∃ y, sfind (scrubBlock hub b s).mem.sectors (b / 4) = some y ∧ bit y.poison (b % 4) = true)
      ∧ stickySet (scrubBlock hub b s) srcMRG_HBC_UE hub = true := by
  obtain ⟨part, hscrub⟩ : ∃ part, scrubBlock hub b s
      = poisonSector part (b / 4) (2 ^ (b % 4)) (raise srcMRG_HBC_UE hub (bump s (MRG_ECC_UE hub))) := ⟨_, by rw [scrubBlock, h]⟩
  rw [hscrub]
  obtain ⟨herrs, hpoison⟩ := poisonSector_effect (s := raise srcMRG_HBC_UE hub (bump s (MRG_ECC_UE hub))) part b
    (by rw [raise_mem]; exact hblock)
  exact ⟨herrs, hpoison, stickySet_poisonSector _ _ _ (stickySet_raise _ _ _ (by decide))⟩

/-! ### O46 -/

/-- Settles O46, one command after another. -/
theorem movesAndLeases : Obligations.MovesAndLeases := by
  unfold Obligations.MovesAndLeases
  refine ⟨?copy, ?drain, ?freed, ?released, ?grace, ?recalled, ?ended, ?foreign, ?scrubbed⟩
  case copy =>
    intro s v raw hmoves hcopying hsafe hdue hsrc hdst
    show done (sectorCopy v.addr raw s) = _
    rw [sectorCopy_of_single raw hmoves hcopying hsafe hdue hsrc hdst]
    rfl
  case drain =>
    intro s v e hmoves hphase hext hacked hreqs htxns
    refine ⟨?_, _, rfl, ?_⟩
    · show done (drainDone v.addr s) = _
      rw [drainDone_of_single hmoves hphase hext hacked hreqs htxns]
      rfl
    · obtain ⟨hlost, hnone, -⟩ := loseExt_effect e { s with mem := { s.mem with moves := [] } }
      rw [drainLate_of_single hmoves hphase hext hreqs, raise_mem, extOf_congr (raise_mem _ _ _)]
      exact ⟨hnone, hlost, stickySet_raise _ _ _ (by decide)⟩
  case freed =>
    intro s i hstate hfreed hreqs htxns
    refine ⟨?_, objOf_dropObj i s⟩
    show done (freeComplete i s) = _
    rw [freeComplete_of_idle hstate hfreed hreqs htxns]
    rfl
  case released =>
    intro s e hstate
    show done (rangeRelease e s) = _
    rw [rangeRelease, if_pos hstate]
    rfl
  case grace =>
    intro s l hleases hrecalled
    refine ⟨leaseGone l s, ?_, leaseGone_leases hleases, leaseGone_hosted l s, rdReg_wrReg_same _ _ _, onlyRegs_wrReg _ _ _⟩
    show done (graceExpire l.id s) = _
    rw [graceExpire_of_single hleases hrecalled]
    rfl
  case recalled =>
    intro s prg m hctrl
    show done (atSwitch prg (m.as tCTRL) (raise srcMRG_LEASE_RECALLED 0) s) = _
    rw [atSwitch_of_ctrlMsg prg _ hctrl]
    rfl
  case ended =>
    intro s prg e m x hctrl hexts htier hlease hhome hstate hmoves hreqs htxns
    refine ⟨_, rfl, ?_⟩
    have hx : extOf s e = x := by simp [extOf, hexts, sget]
    rw [atSwitch_of_ctrlMsg prg _ hctrl, leaseEnd_of_single hexts htier hlease hhome hstate hmoves, ← hx]
    exact withdrawExt_of_idle e hreqs htxns
  case foreign =>
    intro s prg m hctrl hforeign
    show done (atSwitch prg (m.as tCTRL) (leaseEnd m) s) = _
    rw [atSwitch_of_ctrlMsg prg _ hctrl, leaseEnd_of_none hforeign]
    rfl
  case scrubbed =>
    intro s u b _ hsafe hperiod hbad hblock htray hchannel
    have hscrub : exec (.scrub u []) s = done (scrubBlock (u / 128) b s) := by
      rw [← scrub_of_single hsafe hperiod hbad hblock htray hchannel]
      rfl
    refine ⟨fun c hc => ⟨fun hne => ?_, fun heq => ?_⟩, fun hnone => ?_⟩
    · rw [hscrub, scrubBlock_of_correctable hc, if_neg hne]
      rfl
    · rw [hscrub, scrubBlock_of_correctable hc, if_pos heq]
      rfl
    · obtain ⟨herrs, ⟨y, hsector, hpoison⟩, hsticky⟩ := scrubBlock_of_uncorrectable (hub := u / 128) hnone hblock
      exact ⟨_, y, hscrub, herrs, hsector, hpoison, hsticky⟩

end Sys2Proof.Machine
end

section
/-! PROOFS. The transaction header and the flit: O7 and O8 (R271, R272, R330, R331). -/

namespace Sys2Proof.Machine

/-! ### Numbers packed from fields (Tables LSA-1 and LNK-2) -/

/-- The number whose fields, from its least significant bit up, have these widths and values. -/
def pack : List (Nat × Nat) → Nat
  | [] => 0
  | (w, v) :: l => v + 2 ^ w * pack l

/-- Where the field behind these fields begins. -/
def packWidth : List (Nat × Nat) → Nat
  | [] => 0
  | (w, _) :: l => w + packWidth l

theorem pack_lt {l : List (Nat × Nat)} (hfit : ∀ x ∈ l, x.2 < 2 ^ x.1) : pack l < 2 ^ packWidth l := by
  induction l with
  | nil => exact Nat.one_pos
  | cons x l ih =>
    obtain ⟨hx, hl⟩ := List.forall_mem_cons.mp hfit
    have hstep : 2 ^ x.1 * (pack l + 1) ≤ 2 ^ x.1 * 2 ^ packWidth l := Nat.mul_le_mul_left _ (ih hl)
    have hwidth : 2 ^ packWidth (x :: l) = 2 ^ x.1 * 2 ^ packWidth l := by rw [packWidth, pow_add]
    rw [hwidth, pack]
    rw [Nat.mul_add] at hstep
    omega

/-- A field reads back from its place in a packed number. -/
theorem pack_field {l : List (Nat × Nat)} (hfit : ∀ x ∈ l, x.2 < 2 ^ x.1) {i w v : Nat} (hfield : l[i]? = some (w, v)) :
    pack l / 2 ^ packWidth (l.take i) % 2 ^ w = v := by
  induction l generalizing i with
  | nil => cases hfield
  | cons x l ih =>
    obtain ⟨hx, hl⟩ := List.forall_mem_cons.mp hfit
    cases i with
    | zero =>
      obtain rfl : x = (w, v) := by simpa using hfield
      rw [List.take_zero, packWidth, pack]
      simpa [Nat.add_mul_mod_self_left] using Nat.mod_eq_of_lt hx
    | succ i =>
      have hskip : pack (x :: l) / 2 ^ x.1 = pack l := by
        rw [pack, Nat.add_mul_div_left _ _ (Nat.two_pow_pos _), Nat.div_eq_of_lt hx, Nat.zero_add]
      rw [List.take_succ_cons, packWidth, pow_add, ← Nat.div_div_eq_div_mul, hskip]
      exact ih hl hfield

/-! ### The transaction header (R271) -/

/-- Table LSA-1: the widths and values of a header's fields, from bit 0 up. -/
def Hdr.fields (h : Hdr) : List (Nat × Nat) :=
  [(4, h.type), (1, h.sint.toNat), (1, h.spray.toNat), (1, h.last.toNat), (1, h.retry.toNat), (3, h.tc), (4, h.vep), (1, h.dint.toNat),
    (24, h.dst), (24, h.src), (16, h.reqId), (8, h.gen), (8, h.op), (16, h.seq), (16, h.hcrc)]

section HeaderFields
variable {h : Hdr} (hfits : h.fits = true)
include hfits

theorem Hdr.fields_fit : ∀ x ∈ h.fields, x.2 < 2 ^ x.1 := by
  simp only [Hdr.fits, Bool.and_eq_true, decide_eq_true_eq] at hfits
  simpa [Hdr.fields, Bool.toNat_le, and_assoc] using hfits

theorem Hdr.enc_eq_pack : h.enc = pack h.fields := by
  simp only [Hdr.fits, Bool.and_eq_true, decide_eq_true_eq] at hfits
  simp only [Hdr.enc, Hdr.fields, pack, Nat.mod_eq_of_lt, hfits]
  ring

theorem Hdr.enc_lt : h.enc < 2 ^ 128 := by
  have hwidth : packWidth h.fields = 128 := rfl
  rw [Hdr.enc_eq_pack hfits, ← hwidth]
  exact pack_lt (Hdr.fields_fit hfits)

/-- Each field of a header is read at its bits of Table LSA-1. -/
theorem Hdr.bits_enc (i : Nat) {hi lo v : Nat} (hfield : h.fields[i]? = some (hi + 1 - lo, v))
    (hplace : packWidth (h.fields.take i) = lo) : bits h.enc hi lo = v := by
  rw [bits, ← hplace, Hdr.enc_eq_pack hfits]
  exact pack_field (Hdr.fields_fit hfits) (hplace ▸ hfield)

theorem Hdr.bit_enc (i : Nat) {lo : Nat} {b : Bool} (hfield : h.fields[i]? = some (1, b.toNat))
    (hplace : packWidth (h.fields.take i) = lo) : bit h.enc lo = b := by
  have hbits : bits h.enc lo lo = b.toNat := Hdr.bits_enc hfits i (by rw [hfield, Nat.add_sub_cancel_left]) hplace
  rw [bits, Nat.add_sub_cancel_left, Nat.pow_one] at hbits
  rw [bit, hbits]
  cases b <;> rfl

theorem Hdr.dec_enc : Hdr.dec h.enc = h := by
  rw [Hdr.dec, Hdr.mk.injEq]
  exact ⟨Hdr.bits_enc hfits 0 rfl rfl, Hdr.bit_enc hfits 1 rfl rfl, Hdr.bit_enc hfits 2 rfl rfl, Hdr.bit_enc hfits 3 rfl rfl,
    Hdr.bit_enc hfits 4 rfl rfl, Hdr.bits_enc hfits 5 rfl rfl, Hdr.bits_enc hfits 6 rfl rfl, Hdr.bit_enc hfits 7 rfl rfl,
    Hdr.bits_enc hfits 8 rfl rfl, Hdr.bits_enc hfits 9 rfl rfl, Hdr.bits_enc hfits 10 rfl rfl, Hdr.bits_enc hfits 11 rfl rfl,
    Hdr.bits_enc hfits 12 rfl rfl, Hdr.bits_enc hfits 13 rfl rfl, Hdr.bits_enc hfits 14 rfl rfl⟩

theorem Hdr.leNat_enc : leNat (leBytes 16 h.enc) = h.enc := by
  have hwidth : 8 * 16 = 128 := rfl
  rw [leNat_leBytes, hwidth, Nat.mod_eq_of_lt (Hdr.enc_lt hfits)]

end HeaderFields

/-- Settles O7: the header is a number packed from its fields, and each reads back from its place. -/
theorem headerRoundTrip : Obligations.HeaderRoundTrip := by
  unfold Obligations.HeaderRoundTrip
  exact fun h hfits => ⟨Hdr.enc_lt hfits, Hdr.dec_enc hfits, by rw [Hdr.leNat_enc hfits, Hdr.dec_enc hfits]⟩

/-! ### The flit (R330, R331) -/

theorem crc32cBit_lt {c : Nat} (h : c < 2 ^ 32) : crc32cBit c < 2 ^ 32 := by
  have hshift : c >>> 1 < 2 ^ 32 := (Nat.shiftRight_le c 1).trans_lt h
  unfold crc32cBit
  split
  · exact Nat.xor_lt_two_pow hshift (by decide)
  · exact hshift

theorem crc32cByte_lt {c : Nat} (b : Byte) (h : c < 2 ^ 32) : crc32cByte c b < 2 ^ 32 := by
  have hbyte : c ^^^ b.toNat < 2 ^ 32 := Nat.xor_lt_two_pow h (b.isLt.trans (by decide))
  unfold crc32cByte
  iterate 8 apply crc32cBit_lt
  exact hbyte

/-- An LCRC fits its four bytes. -/
theorem crc32c_lt (bs : Bytes) : crc32c bs < 2 ^ 32 := by
  have hrun (c : Nat) (hc : c < 2 ^ 32) : bs.foldl crc32cByte c < 2 ^ 32 := by
    induction bs generalizing c with
    | nil => exact hc
    | cons b bs ih => exact ih _ (crc32cByte_lt b hc)
  exact Nat.xor_lt_two_pow (hrun _ (by decide)) (by decide)

theorem bslice_of_length {x : Bytes} {n : Nat} (h : x.length = n) : bslice x 0 n = x := h ▸ bslice_all x

/-- Byte 251 of a flit (Table LNK-2). -/
def Trailer.control (t : Trailer) : Nat := t.ctc % 8 + t.kind % 8 * 8 + t.ackValid.toNat * 64

/-- Table LNK-2: the last byte of the trailer gives its three fields back. -/
theorem Trailer.control_fields (t : Trailer) :
    bits (t.control % 2 ^ (8 * 1)) 2 0 = t.ctc % 8 ∧ bits (t.control % 2 ^ (8 * 1)) 5 3 = t.kind % 8
      ∧ bit (t.control % 2 ^ (8 * 1)) 6 = t.ackValid := by
  have hctc : t.ctc % 8 < 8 := Nat.mod_lt _ (by decide)
  have hkind : t.kind % 8 < 8 := Nat.mod_lt _ (by decide)
  simp only [bits, bit, Trailer.control]
  cases t.ackValid <;> simp only [Bool.toNat_true, Bool.toNat_false, beq_iff_eq, beq_eq_false_iff_ne] <;> omega

/-- R330: the 252 bytes of a flit that its LCRC covers. -/
def flitHead (body : Bytes) (t : Trailer) : Bytes :=
  bslice body 0 248 ++ leBytes 1 t.lseq ++ leBytes 1 t.lack ++ leBytes 1 t.ccount ++ leBytes 1 t.control

theorem length_flitHead (body : Bytes) (t : Trailer) : (flitHead body t).length = 252 := by simp [flitHead]

theorem mkFlit_eq (body : Bytes) (t : Trailer) : mkFlit body t = flitHead body t ++ leBytes 4 (crc32c (flitHead body t)) := rfl

theorem length_mkFlit (body : Bytes) (t : Trailer) : (mkFlit body t).length = 256 := by simp [mkFlit_eq, length_flitHead]

theorem flitOk_mkFlit (body : Bytes) (t : Trailer) : flitOk (mkFlit body t) = true := by
  have hcovered : (mkFlit body t).take 252 = flitHead body t := by
    rw [mkFlit_eq, List.take_append_of_le_length (length_flitHead body t).ge, List.take_of_length_le (length_flitHead body t).le]
  have hlcrc : leAt (mkFlit body t) 252 4 = crc32c (flitHead body t) := by
    rw [mkFlit_eq, leAt_append_right _ (length_flitHead body t).le, length_flitHead, leAt_leBytes, Nat.mod_eq_of_lt (crc32c_lt _)]
  rw [flitOk, length_mkFlit, hcovered, hlcrc, beq_self_eq_true, beq_self_eq_true, Bool.and_true]

theorem bodyOf_mkFlit {body : Bytes} (t : Trailer) (h : body.length = 248) : bodyOf (mkFlit body t) = body := by
  have hhead : bslice (flitHead body t) 0 248 = bslice (bslice body 0 248) 0 248 := by
    simp only [flitHead, List.append_assoc]
    exact bslice_append_left _ (by simp)
  rw [bodyOf, mkFlit_eq, bslice_append_left _ (by simp [length_flitHead]), hhead,
    bslice_of_length (length_bslice _ _ _), bslice_of_length h]

/-- Table LNK-2: the bytes of the trailer, as numbers. -/
theorem leAt_mkFlit (body : Bytes) (t : Trailer) :
    leAt (mkFlit body t) 248 1 = t.lseq % 2 ^ (8 * 1) ∧ leAt (mkFlit body t) 249 1 = t.lack % 2 ^ (8 * 1)
      ∧ leAt (mkFlit body t) 250 1 = t.ccount % 2 ^ (8 * 1) ∧ leAt (mkFlit body t) 251 1 = t.control % 2 ^ (8 * 1) := by
  have hhead (i : Nat) (hi : i < 252) : leAt (mkFlit body t) i 1 = leAt (flitHead body t) i 1 := by
    rw [mkFlit_eq, leAt_append_left _ (by rw [length_flitHead]; omega)]
  rw [hhead 248 (by decide), hhead 249 (by decide), hhead 250 (by decide), hhead 251 (by decide), flitHead]
  refine ⟨?lseq, ?lack, ?ccount, ?control⟩
  case lseq => simp [leAt_append_left, leAt_append_right, leAt_leBytes, -List.append_assoc]
  case lack => simp [leAt_append_left, leAt_append_right, leAt_leBytes, -List.append_assoc]
  case ccount => simp [leAt_append_left, leAt_append_right, leAt_leBytes, -List.append_assoc]
  case control => simp [leAt_append_right, leAt_leBytes, -List.append_assoc]

theorem trailerOf_mkFlit (body : Bytes) {t : Trailer} (hlseq : t.lseq < 256) (hlack : t.lack < 256) (hccount : t.ccount < 256)
    (hctc : t.ctc < 8) (hkind : t.kind < 8) : trailerOf (mkFlit body t) = t := by
  obtain ⟨hseqByte, hackByte, hcountByte, hcontrolByte⟩ := leAt_mkFlit body t
  obtain ⟨hctcBits, hkindBits, hackBit⟩ := t.control_fields
  have hbyte {n : Nat} (hn : n < 256) : n % 2 ^ (8 * 1) = n := Nat.mod_eq_of_lt hn
  rw [trailerOf, hseqByte, hackByte, hcountByte, hcontrolByte, hctcBits, hkindBits, hackBit, hbyte hlseq, hbyte hlack, hbyte hccount,
    Nat.mod_eq_of_lt hctc, Nat.mod_eq_of_lt hkind]

theorem Seg.length_body (g : Seg) : g.body.length = 248 := by simp [Seg.body]

theorem Seg.ofBody_body {g : Seg} (hfits : g.hdr.fits = true) (hpay : g.pay.length = 232) : Seg.ofBody g.body = g := by
  have hhdr : leAt g.body 0 16 = g.hdr.enc := by
    rw [Seg.body, leAt_append_left _ (by simp), leAt, bslice_of_length (length_leBytes _ _), Hdr.leNat_enc hfits]
  have hdata : bslice g.body 16 232 = g.pay := by
    rw [Seg.body, bslice_append_right _ (by simp), length_leBytes, Nat.sub_self, bslice_of_length (length_bslice _ _ _),
      bslice_of_length hpay]
  rw [Seg.ofBody, hhdr, hdata, Hdr.dec_enc hfits]

/-- Settles O8: the LCRC fits its bytes, and the trailer and the body read back from theirs. -/
theorem flitRoundTrip : Obligations.FlitRoundTrip := by
  unfold Obligations.FlitRoundTrip
  intro g t hfits hpay hlseq hlack hccount hctc hkind
  refine ⟨length_mkFlit _ _, flitOk_mkFlit _ _, trailerOf_mkFlit _ hlseq hlack hccount hctc hkind, ?_⟩
  rw [bodyOf_mkFlit t g.length_body, Seg.ofBody_body hfits hpay]

end Sys2Proof.Machine
end

section
/-! PROOFS. O9: the segments of a message (R271, R272, R276). -/

namespace Sys2Proof.Machine

/-! ### The pieces of a payload -/

section Chunks
variable {n : Nat} (hn : 0 < n)
include hn

theorem length_chunks {f : Nat} {bs : Bytes} (hf : bs.length < f) (hne : bs ≠ []) :
    (chunks n f bs).length = (bs.length + (n - 1)) / n := by
  have hpos : 0 < bs.length := List.length_pos_iff.mpr hne
  induction f generalizing bs with
  | zero => omega
  | succ f ih =>
    rw [chunks]
    split
    case isTrue hle =>
      rw [Nat.div_eq_of_lt_le (k := 1) (by omega) (by omega)]
      rfl
    case isFalse hgt =>
      have hlen : (bs.drop n).length = bs.length - n := List.length_drop
      have hmore : 0 < (bs.drop n).length := by omega
      have hsum : bs.length + (n - 1) = bs.length - n + (n - 1) + n := by omega
      rw [List.length_cons, ih (by omega) (List.length_pos_iff.mp hmore) hmore, hlen, hsum, Nat.add_div_right _ hn]

/-- The pieces of a run of bytes, each filled up to `n`, hold it, and zeros behind it. -/
theorem flatMap_chunks {f : Nat} {bs : Bytes} (hf : bs.length < f) :
    ∃ k, (chunks n f bs).flatMap (bslice · 0 n) = bs ++ zeros k := by
  induction f generalizing bs with
  | zero => omega
  | succ f ih =>
    rw [chunks]
    split
    case isTrue hle => exact ⟨n - bs.length, by simp [bslice, List.take_of_length_le hle, Nat.min_eq_right hle]⟩
    case isFalse hgt =>
      obtain ⟨k, hk⟩ := ih (bs := bs.drop n) (by rw [List.length_drop]; omega)
      have hpiece : bslice (bs.take n) 0 n = bs.take n := bslice_of_length (by rw [List.length_take]; omega)
      exact ⟨k, by rw [List.flatMap_cons, hk, hpiece, ← List.append_assoc, List.take_append_drop]⟩

end Chunks

/-! ### Sealing a segment (R276) -/

theorem take_leBytes (n k v : Nat) : (leBytes (n + k) v).take n = leBytes n v := by
  induction n generalizing v with
  | zero => rfl
  | succ n ih => rw [Nat.succ_add, leBytes, List.take_succ_cons, ih, leBytes]

theorem leBytes_add_mul (n v k : Nat) : leBytes n (v + 2 ^ (8 * n) * k) = leBytes n v := by
  induction n generalizing v with
  | zero => rfl
  | succ n ih =>
    have hpow : v + 2 ^ (8 * (n + 1)) * k = v + 256 * (2 ^ (8 * n) * k) := by rw [Nat.mul_succ, pow_add]; ring
    have hlow : BitVec.ofNat 8 (v + 256 * (2 ^ (8 * n) * k)) = BitVec.ofNat 8 v := BitVec.eq_of_toNat_eq (by simp)
    rw [hpow, leBytes, leBytes, hlow, Nat.add_mul_div_left _ _ (by decide), ih]

/-- R276: the header bytes that HCRC covers do not hold it. -/
theorem Hdr.take_enc_hcrc (h : Hdr) (c : Nat) : (leBytes 16 { h with hcrc := c }.enc).take 14 = (leBytes 16 h.enc).take 14 := by
  have hlow (d : Nat) : { h with hcrc := d }.enc = { h with hcrc := 0 }.enc + 2 ^ (8 * 14) * (d % 2 ^ 16) := by
    simp only [Hdr.enc]
    omega
  rw [take_leBytes 14 2, take_leBytes 14 2, hlow c, leBytes_add_mul, ← leBytes_add_mul 14 _ (h.hcrc % 2 ^ 16), ← hlow h.hcrc]

theorem Seg.hcrcOf_sealCrc (g : Seg) (first : Bool) : (g.sealCrc first).hcrcOf first = g.hcrcOf first := by
  simp only [Seg.hcrcOf, Seg.sealCrc, Hdr.take_enc_hcrc]
  rfl

/-! ### The segments of a message (R272) -/

/-- The pieces of a message's payload. -/
def Msg.pieces (m : Msg) : List Bytes := chunks 232 (m.pay.length + 1) m.pay

/-- Segment `i` of a message carries piece `c` of its payload (R272). -/
def Msg.segAt (m : Msg) (q i : Nat) (c : Bytes) : Seg :=
  Seg.sealCrc ⟨{ m.hdr with seq := (q + i) % 65536, last := i + 1 == m.pieces.length }, bslice c 0 232⟩ (i == 0)

theorem Msg.segAt_seq (m : Msg) (q i : Nat) (c : Bytes) : (m.segAt q i c).hdr.seq = (q + i) % 65536 := by
  rw [Msg.segAt, Seg.sealCrc]

theorem Msg.segAt_last (m : Msg) (q i : Nat) (c : Bytes) : (m.segAt q i c).hdr.last = decide (i + 1 = m.pieces.length) := by
  rw [Msg.segAt, Seg.sealCrc, ← beq_eq_decide]

theorem Msg.segAt_hcrc (m : Msg) (q i : Nat) (c : Bytes) : (m.segAt q i c).hdr.hcrc = (m.segAt q i c).hcrcOf (i == 0) := by
  rw [Msg.segAt, Seg.hcrcOf_sealCrc, Seg.sealCrc]

theorem Msg.segs_eq (m : Msg) (q : Nat) : m.segs q = m.pieces.zipIdx.map fun x => m.segAt q x.2 x.1 := rfl

theorem Msg.length_segs (m : Msg) (q : Nat) : (m.segs q).length = m.pieces.length := by simp [Msg.segs_eq]

theorem Msg.flatMap_segs (m : Msg) (q : Nat) : (m.segs q).flatMap (·.pay) = m.pieces.flatMap (bslice · 0 232) := by
  have hpay : (m.segs q).map (·.pay) = m.pieces.zipIdx.map fun x => bslice x.1 0 232 := by rw [Msg.segs_eq, List.map_map]; rfl
  have hfst : (m.pieces.zipIdx.map fun x => bslice x.1 0 232) = m.pieces.map (bslice · 0 232) := by
    rw [← List.zipIdx_map_fst 0 m.pieces, List.map_map, List.zipIdx_map_fst]
    rfl
  rw [List.flatMap_def, List.flatMap_def, hpay, hfst]

theorem Msg.exists_of_segs_get {m : Msg} {q i : Nat} {g : Seg} (h : (m.segs q)[i]? = some g) : ∃ c, g = m.segAt q i c := by
  rw [Msg.segs_eq, List.getElem?_map, Option.map_eq_some_iff] at h
  obtain ⟨x, hx, rfl⟩ := h
  rw [List.getElem?_zipIdx, Option.map_eq_some_iff] at hx
  obtain ⟨c, -, rfl⟩ := hx
  exact ⟨c, by rw [Nat.zero_add]⟩

/-- Settles O9: the payload's pieces, and the seal of each segment, which does not depend on what it seals. -/
theorem messageSegments : Obligations.MessageSegments := by
  unfold Obligations.MessageSegments
  intro m q hne
  refine ⟨?count, ?size, ?whole, ?header⟩
  case count =>
    rw [Msg.length_segs]
    exact length_chunks (n := 232) (by decide) (Nat.lt_succ_self _) hne
  case size =>
    intro g hg
    obtain ⟨i, hi⟩ := List.mem_iff_getElem?.mp hg
    obtain ⟨c, rfl⟩ := Msg.exists_of_segs_get hi
    exact length_bslice c 0 232
  case whole =>
    obtain ⟨k, hk⟩ := flatMap_chunks (n := 232) (by decide) (Nat.lt_succ_self m.pay.length)
    rw [Msg.flatMap_segs, Msg.pieces, hk, List.take_left]
  case header =>
    intro i g hi
    obtain ⟨c, rfl⟩ := Msg.exists_of_segs_get hi
    rw [Msg.length_segs]
    exact ⟨Msg.segAt_seq m q i c, Msg.segAt_last m q i c, Msg.segAt_hcrc m q i c⟩

end Sys2Proof.Machine
end

section
/-! PROOFS. Coherent reads: the way of a READ to its line, and what it is granted there (R287 to R290, Table LSA-8). -/

namespace Sys2Proof.Machine

variable {s u : State} {m : Msg} {r : Req} {prg i e p l : Nat}

/-! ### What the directory depends on, and what it leaves -/

namespace OnTheWay

theorem dir (h : OnTheWay s u) : u.mem.dir = s.mem.dir := by rw [h.frame]

theorem dirOf (h : OnTheWay s u) (l : Nat) : dirOf u l = dirOf s l := by rw [Machine.dirOf, Machine.dirOf, h.dir]

theorem holders (h : OnTheWay s u) (l : Nat) : holders u l = holders s l := by rw [Machine.holders, Machine.holders, h.dirOf]

theorem txnOf (h : OnTheWay s u) (l : Nat) : txnOf u l = txnOf s l := by rw [Machine.txnOf, Machine.txnOf, h.txns]

theorem lineSlice (h : OnTheWay s u) (a : Nat) : lineSlice u a = lineSlice s a := by
  simp only [Machine.lineSlice, h.objAt, h.objOf, h.extOf]

theorem lineT0 (h : OnTheWay s u) (l : Nat) : lineT0 u l = lineT0 s l := by
  simp only [Machine.lineT0, h.objAt, h.objOf, h.extOf]

theorem msgLine (h : OnTheWay s u) (m : Msg) : msgLine u m = msgLine s m := by rw [Machine.msgLine, Machine.msgLine, h.ownId]

end OnTheWay

theorem onTheWay_heard (s : State) (prg : Nat) : OnTheWay s (heard s prg) := (OnTheWay.arrived s).progress _ _

/-- A line's slice depends on the home table alone. -/
theorem lineSlice_congr (hobjs : u.mem.objs = s.mem.objs) (hexts : u.mem.exts = s.mem.exts) (a : Nat) : lineSlice u a = lineSlice s a := by
  simp only [lineSlice, objAt, objOf, extOf, hobjs, hexts]

theorem setDir_reqs (l : Nat) (owned : Bool) (hs : List Nat) (s : State) : (setDir l owned hs s).mem.reqs = s.mem.reqs := by
  cases hs <;> rfl

@[simp] theorem countTier_mem (prg st : Nat) (s : State) : (countTier prg st s).mem = s.mem := ite_mem rfl (ite_mem rfl rfl)

@[simp] theorem cohRaise_mem (f : Src) (l : Nat) (s : State) : (cohRaise f l s).mem = s.mem := by
  rw [cohRaise, raise_mem]
  exact ite_mem rfl rfl

/-- A read of the pool changes nothing at the homes but the wrong bits that it corrects. -/
theorem readSector_mem (part sec mask : Nat) (s : State) :
    (readSector part sec mask s).2.mem = { s.mem with errs := (judged sec s).mem.errs } := by
  have hjudged : (judged sec s).mem = { s.mem with errs := (judged sec s).mem.errs } := by rw [judged_mem]
  rw [← hjudged, judged]
  unfold readSector
  dsimp only
  split_ifs <;> simp

theorem memRead_reqs (part p n : Nat) (s : State) : (memRead part p n s).2.2.mem.reqs = s.mem.reqs := by
  rw [memRead_eq, readPieces]
  generalize pieces (n / 256 + 2) p n = xs
  suffices hall : ∀ a : Nat × State, (xs.foldl (readStep part) a).2.mem.reqs = a.2.mem.reqs from hall _
  intro a
  induction xs generalizing a with
  | nil => rfl
  | cons x xs ih => rw [List.foldl_cons, ih, readStep, readSector_mem]

/-! ### A coherent READ reaches its line (R287 to R290) -/

/-- Where a line begins: a coherent READ is of one whole line (R277). -/
theorem lineStart_of_form (hform : formError m = none) (htype : m.hdr.type = tREAD) (hop : m.hdr.op ≠ 0) :
    64 * (msgAddr m % 2 ^ 52 / 64) = msgAddr m % 2 ^ 52 := by
  have haligned : msgAddr m % 64 = 0 := by
    by_contra hne
    have hnoAtomic : tREAD ≠ tATOMIC := by decide
    simp only [formError, htype, hnoAtomic, hop, hne, ne_eq, not_false_eq_true, or_true, and_self, if_true, if_false] at hform
    split_ifs at hform
  omega

/-- R289: no transaction and no request keep a line back. -/
theorem lineBusy_of_none (hreqs : u.mem.reqs = []) (htxns : u.mem.txns = []) (r : Req) : lineBusy u r = none := by
  simp [lineBusy, lineBusyAt, hreqs, htxns]

/-- A coherent READ of a member of the domain that covers its line, whose slice takes it, whatever the line's record (R287 to R289). -/
def MemberAt (s : State) (m : Msg) : Prop :=
  ∃ d x, coverDom s (msgAddr m % 2 ^ 52) = some d ∧ sfind s.mem.doms d = some x ∧ x.members.contains m.hdr.src = true
    ∧ m.hdr.sint = false ∧ x.sweeping = false ∧ blockFenced s grDIR (lineSlice s (msgAddr m % 2 ^ 52)) = false
    ∧ unitHeld s grDIR (lineSlice s (msgAddr m % 2 ^ 52)) = false

theorem LineFree.memberAt (h : LineFree s m) : MemberAt s m ∧ s.mem.dir = [] := by
  obtain ⟨d, x, hcover, hdom, hmember, hsint, hsweep, hblock, hheld, hdir⟩ := h
  exact ⟨⟨d, x, hcover, hdom, hmember, hsint, hsweep, hblock, hheld⟩, hdir⟩

/-- The records of lines decide nothing before Table LSA-8. -/
theorem memberAt_of_noDir (h : MemberAt { s with mem := { s.mem with dir := [] } } m) : MemberAt s m := h

/-- R288 to R290: a coherent READ of a member comes to Table LSA-8. -/
theorem atLine_of_member (h : AtHome s prg m .read i e p) (hu : OnTheWay s u) (hline : MemberAt s m)
    (htype : m.hdr.type = tREAD) (hop : m.hdr.op ≠ 0) (hmsg : r.msg = m) (hphys : r.phys = p) :
    atLine r i u = coherentRead r (msgAddr m % 2 ^ 52 / 64) u := by
  obtain ⟨⟨hreqs, -, -, -, -, htxns, -, -, -⟩, hform, -, -, -, -, -, -, -, -, -, -, -, hfence, hreset, -⟩ := h
  obtain ⟨d, x, hcover, hdom, hmember, hsint, hsweep, hblock, hheld⟩ := hline
  have hcoh : (m.hdr.type == tREAD && m.hdr.op != 0) = true := by simp [htype, hop]
  have hquiet : sweepingDom u (msgAddr m % 2 ^ 52 / 64) = false := by
    rw [sweepingDom, lineStart_of_form hform htype hop, hu.coverDom, hcover, hu.doms, Option.bind_some, hdom]
    exact hsweep
  have hfree : lineBusy u r = none := lineBusy_of_none (hu.reqs.trans hreqs) (hu.txns.trans htxns) r
  have hchannel : atChannel r p u = none := by
    rw [atChannel, hmsg, hu.channelFenced, hfence, hu.channelReset, hreset]
    rfl
  simp only [atLine, hmsg, hu.coverDom, hcover, hcoh, hu.doms, hdom, hmember, hsint, hu.lineSlice, hu.blockFenced, hblock, hu.unitHeld,
    hheld, hquiet, hfree, hphys, hchannel, Bool.not_true, Bool.not_false, Bool.and_true, Bool.and_false, Bool.false_eq_true, if_false,
    if_true]

/-- R252, R290: a coherent READ of a member whose home is own T0 memory comes to Table LSA-8, as the request that came. -/
theorem fabricReq_coherent (h : AtHome s prg m .read i e p) (hline : MemberAt s m) (htype : m.hdr.type = tREAD) (hop : m.hdr.op ≠ 0) :
    ∃ r, r.msg = m ∧ r.prg = prg ∧ r.ext = e ∧ r.phys = p ∧ Single r
      ∧ fabricReq prg m s = runReqs (coherentRead r (msgAddr m % 2 ^ 52 / 64) (found s prg)) := by
  obtain ⟨port, hentry⟩ := fabricReq_of_atHome h (by rw [htype]; decide)
  obtain ⟨-, -, -, -, -, hlow, -⟩ := id h
  refine ⟨lookedUp (found s prg)
      { arr := s.mem.arrivals, prg := prg, msg := m, port := port, ext := e, accepted := true, looked := true } e p, rfl, rfl, rfl, rfl, ⟨rfl, rfl, rfl, rfl⟩, ?_⟩
  rw [hentry, goOn, if_neg (Nat.not_le.mpr hlow), process_of_atHome h (OnTheWay.arrived s) (by rw [Msg.use, if_pos htype]) rfl rfl
      ⟨rfl, rfl, rfl⟩, atLine_of_member h ((OnTheWay.arrived s).lookedIn prg) hline htype hop rfl rfl]
  rfl

/-! ### Grants (R290, Table LSA-8) -/

/-- What becomes of a grant of E with data, by what memory read: the data goes to the requester, who is recorded as the owner, or the
status of the line, and nothing is recorded. -/
def grantEnd (prg : Nat) (m : Msg) (x : Nat × Bytes × State) : State :=
  if x.1 = stOK then answer prg m stOK_E (some x.2.1) (setDir (msgAddr m % 2 ^ 52 / 64) true [m.hdr.src] x.2.2)
  else answer prg m x.1 none (countTier prg x.1 x.2.2)

theorem grantEnd_reqs {x : Nat × Bytes × State} (h : x.2.2.mem.reqs = []) : (grantEnd prg m x).mem.reqs = [] := by
  unfold grantEnd
  split
  · rw [answer_mem, setDir_reqs, h]
  · rw [answer_mem, countTier_mem, h]

theorem grant_exclusive (hsingle : Single r) : grant r (msgAddr r.msg % 2 ^ 52 / 64) stOK_E true [r.msg.hdr.src] false u
    = grantEnd r.prg r.msg (memRead (objOf u (extOf u r.ext).obj).part r.phys 64 u) := by
  simp only [grant, Bool.false_eq_true, if_false, finish_of_single hsingle, grantEnd]
  rfl

theorem grant_bare (hsingle : Single r) (l : Nat) : grant r l stOK_E true [r.msg.hdr.src] true u
    = answer r.prg r.msg stOK_E none (setDir l true [r.msg.hdr.src] u) := by
  simp only [grant, if_true, finish_of_single hsingle]
  rfl

/-- A line without a record is granted E by a shared as by a unique read; no other line makes room for it. -/
theorem coherentRead_of_free (hdir : u.mem.dir = []) (hop : r.msg.hdr.op = 1 ∨ r.msg.hdr.op = 2) :
    coherentRead r l u = wakeLine l (grant r l stOK_E true [r.msg.hdr.src] false u) := by
  have hrecord : dirOf u l = none := by rw [dirOf, hdir]; rfl
  have hnone : holders u l = [] := by rw [holders, hrecord]
  have hroom : victim u l = none := by simp [victim, hdir]
  rcases hop with hop | hop <;> simp [coherentRead, hrecord, hnone, hroom, hop]

/-- UPGRADE of the only holder is granted E without data. -/
theorem coherentRead_of_holder {d : DirLine} (hrecord : dirOf u l = some d) (hholders : d.holders = [r.msg.hdr.src])
    (hop : r.msg.hdr.op = 3) : coherentRead r l u = wakeLine l (grant r l stOK_E true [r.msg.hdr.src] true u) := by
  have honly : holders u l = [r.msg.hdr.src] := by
    rw [holders, hrecord]
    exact hholders
  simp [coherentRead, hrecord, honly, hop]

/-- R290: a shared or a unique READ of a line without a record ends in a grant of E, or with the status of the line. -/
theorem fabricReq_free (h : AtHome s prg m .read i e p) (hline : LineFree s m) (htype : m.hdr.type = tREAD)
    (hop : m.hdr.op = 1 ∨ m.hdr.op = 2) :
    fabricReq prg m s = runReqs (grantEnd prg m (memRead (objOf s (extOf s e).obj).part p 64 (found s prg))) := by
  obtain ⟨hmember, hdir⟩ := hline.memberAt
  obtain ⟨r, rfl, rfl, rfl, rfl, hsingle, hserved⟩ := fabricReq_coherent h hmember htype (by omega)
  obtain ⟨⟨hreqs, -⟩, -⟩ := id h
  have hway := onTheWay_found s r.prg
  have hwake : (grantEnd r.prg r.msg (memRead (objOf s (extOf s r.ext).obj).part r.phys 64 (found s r.prg))).mem.reqs = [] :=
    grantEnd_reqs (by rw [memRead_reqs, hway.reqs, hreqs])
  rw [hserved, coherentRead_of_free (hway.dir.trans hdir) hop, grant_exclusive hsingle, hway.extOf, hway.objOf, wakeLine,
    wake_of_noRequest _ hwake]

/-- R290: UPGRADE of the only holder, whether it owns the line already or not. -/
theorem fabricReq_upgrade {d : DirLine} (h : AtHome s prg m .read i e p) (hline : MemberAt s m) (htype : m.hdr.type = tREAD)
    (hop : m.hdr.op = 3) (hrecord : dirOf s (msgAddr m % 2 ^ 52 / 64) = some d) (hholders : d.holders = [m.hdr.src]) :
    fabricReq prg m s = runReqs (answer prg m stOK_E none (setDir (msgAddr m % 2 ^ 52 / 64) true [m.hdr.src] (found s prg))) := by
  obtain ⟨r, rfl, rfl, rfl, rfl, hsingle, hserved⟩ := fabricReq_coherent h hline htype (by omega)
  obtain ⟨⟨hreqs, -⟩, -⟩ := id h
  have hway := onTheWay_found s r.prg
  rw [hserved, coherentRead_of_holder ((hway.dirOf _).trans hrecord) hholders hop, grant_bare hsingle, wakeLine,
    wake_of_noRequest _ (by rw [answer_mem, setDir_reqs, hway.reqs, hreqs])]

end Sys2Proof.Machine
end

section
/-! PROOFS. O44: coherent reads, messages for the directory, its limits, and fences (R280, R287 to R292). -/

namespace Sys2Proof.Machine

variable {s u : State} {m : Msg} {r : Req} {t : LineTxn} {prg : Nat}

/-! ### Messages for the directory (R291, R292) -/

/-- R35, R272, R423: a message that the directory takes now goes to its line. -/
theorem dirIn_of_atDir (h : AtDir s prg m) : dirIn prg m s = runReqs (
    if m.hdr.type = tSNP_RSP then snpRspAt m (heard s prg)
    else if m.hdr.type = tWB then wbAt prg m (heard s prg)
    else evictAt prg m (heard s prg)) := by
  obtain ⟨hground, -, hsafe, hform, hhub, hslice, hchannel⟩ := h
  have hway := OnTheWay.arrived s
  have harr : nextArr s = (s.mem.arrivals, arrived s) := rfl
  have hopen : (if m.brings = true then (lineT0 s (msgLine s m)).bind fun p => channelReset s p 64 else none) = none := by
    rw [hchannel, ite_self]
  simp only [dirIn, takeDelivered_of_idle _ _ hground, harr, hform, Bool.not_true, Bool.false_eq_true, if_false, dirMsg, hway.flt, hsafe,
    Bool.false_and, hway.unitHeld, hhub, hway.msgLine, hway.lineSlice, hslice, hway.lineT0, hway.channelReset, hopen]
  rfl

/-- R292: a WB of the owner of a line without a transaction. -/
theorem wbAt_of_owner {d : DirLine} (htxns : u.mem.txns = []) (hrecord : dirOf u (msgLine u m) = some d) (howned : d.owned = true)
    (hholder : d.holders.contains m.hdr.src = true) :
    wbAt prg m u = answer prg m stOK none (setDir (msgLine u m) false []
      (writeLine (msgLine u m) (bslice m.pay 8 64) (bump u (DIR_WB (lineSlice u (64 * msgLine u m)))))) := by
  have hrecord' : dirOf (bump u (DIR_WB (lineSlice u (64 * msgLine u m)))) (msgLine u m) = some d := hrecord
  have hnone : txnOf (bump u (DIR_WB (lineSlice u (64 * msgLine u m)))) (msgLine u m) = none := by rw [txnOf, bump_mem, htxns]; rfl
  simp only [wbAt, hrecord', hnone, howned, hholder, Bool.and_self, if_true]

/-- EVICT_CLEAN of a holder of a line without a transaction. -/
theorem evictAt_of_holder (htxns : u.mem.txns = []) (hholder : (holders u (msgLine u m)).contains m.hdr.src = true) :
    evictAt prg m u
      = answer prg m stOK none (setDir (msgLine u m) false ((holders u (msgLine u m)).filter fun x => x != m.hdr.src) u) := by
  have hnone : txnOf u (msgLine u m) = none := by rw [txnOf, htxns]; rfl
  simp only [evictAt, hnone, hholder, Bool.not_false, and_self, if_true]

theorem putTxn_of_single {t' : LineTxn} (htxns : u.mem.txns = [t]) (hline : t.line = t'.line) :
    putTxn t' u = { u with mem := { u.mem with txns := [t'] } } := by
  simp [putTxn, modMem, htxns, hline]

theorem txnOf_of_single (htxns : u.mem.txns = [t]) : txnOf u t.line = some t := by simp [txnOf, htxns]

/-- While an agent is still asked, a transaction goes on. -/
theorem tryEndTxn_of_asked (htxns : u.mem.txns = [t]) (hask : t.ask ≠ []) : tryEndTxn t.line u = u := by
  simp [tryEndTxn, txnOf_of_single htxns, hask]

/-- A transaction that asks agent `x` no more (R291). -/
def unasked (x : Nat) (t : LineTxn) : LineTxn := { t with ask := t.ask.filter fun y => y.1 != x }

/-- R291: a clean SNP_RSP that is not the last takes the agent from those asked. -/
theorem snpRspAt_of_clean (htxns : u.mem.txns = [t]) (hline : t.line = msgLine u m) (hop : m.hdr.op = 0)
    (hasked : (t.ask.any fun x => x.1 == m.hdr.src) = true) (hmore : (t.ask.filter fun x => x.1 != m.hdr.src) ≠ []) :
    snpRspAt m u = { u with mem := { u.mem with txns := [unasked m.hdr.src t] } } := by
  have hbit (k : Nat) : bit m.hdr.op k = false := by simp [hop, bit]
  have hput : putTxn (unasked m.hdr.src t) u = { u with mem := { u.mem with txns := [unasked m.hdr.src t] } } :=
    putTxn_of_single htxns rfl
  have hend : tryEndTxn t.line (putTxn (unasked m.hdr.src t) u) = putTxn (unasked m.hdr.src t) u :=
    tryEndTxn_of_asked (t := unasked m.hdr.src t) (by rw [hput]) hmore
  simp only [snpRspAt, ← hline, txnOf_of_single htxns, hasked, hbit, Bool.not_true, Bool.false_eq_true, false_and, if_false]
  exact hend.trans hput

/-! ### Limits of the directory (R291, R292) -/

theorem poisonSector_mem (part sec mask : Nat) (s : State) : ∃ sectors errs,
    (poisonSector part sec mask s).mem = { s.mem with sectors := sectors, errs := errs } := ⟨_, _, rfl⟩

/-- R292: POISON on a line changes sectors alone. -/
theorem poisonLine_keeps (l : Nat) (s : State) : (poisonLine l s).mem.reqs = s.mem.reqs ∧ (poisonLine l s).mem.txns = s.mem.txns
    ∧ (poisonLine l s).mem.objs = s.mem.objs ∧ (poisonLine l s).mem.exts = s.mem.exts := by
  unfold poisonLine
  split
  · obtain ⟨sectors, errs, hmem⟩ := poisonSector_mem _ _ _ s
    rw [hmem]
    exact ⟨rfl, rfl, rfl, rfl⟩
  · exact ⟨rfl, rfl, rfl, rfl⟩

/-- A coherence source fires at the line's slice (R420). -/
theorem stickySet_cohRaise {f : Src} (l : Nat) (s : State) (hbit : f.bit < 64) :
    stickySet (cohRaise f l s) f (lineSlice s (64 * l)) = true :=
  stickySet_raise _ _ _ hbit

/-- A transaction whose announced WB of agent `a` did not come (R292). -/
def missed (a : Nat) (t : LineTxn) : LineTxn := { t with wbs := t.wbs.filter (fun x => x.1 != a), poisoned := true }

/-- R292: an announced WB did not come in time while another agent is still asked. -/
theorem wbTimeout_of_single {a : Nat} (hsafe : s.flt.safe = false) (hreqs : s.mem.reqs = []) (htxns : s.mem.txns = [t])
    (hlate : (t.wbs.any fun x => x.1 == a && decide (x.2 ≤ s.tim.ref)) = true) (hask : t.ask ≠ []) :
    wbTimeout t.line a s = cohRaise srcDIR_COH_WB_TIMEOUT t.line (putTxn (missed a t) (poisonLine t.line s)) := by
  obtain ⟨hreqs', htxns', -⟩ := poisonLine_keeps t.line s
  have hmem : (cohRaise srcDIR_COH_WB_TIMEOUT t.line (putTxn (missed a t) (poisonLine t.line s))).mem
      = { (poisonLine t.line s).mem with txns := [missed a t] } := by
    rw [cohRaise_mem, putTxn_of_single (t' := missed a t) (htxns'.trans htxns) rfl]
  have hend := tryEndTxn_of_asked (u := cohRaise srcDIR_COH_WB_TIMEOUT t.line (putTxn (missed a t) (poisonLine t.line s)))
    (t := missed a t) (by rw [hmem]) hask
  simp only [wbTimeout, hsafe, Bool.false_eq_true, if_false, txnOf_of_single htxns, hlate, if_true]
  exact (congrArg runReqs hend).trans (runReqs_of_noRequest (by rw [hmem]; exact hreqs'.trans hreqs))

/-! ### Fences (R280) -/

/-- With a fence as the only request, no request is ready, and the fence is answered once it waits for nothing. -/
theorem runReqs_of_fence (hreqs : u.mem.reqs = [r]) (hstage : r.stage = .fence) (hwaits : fenceWaits u r = false)
    (hplaces : r.places.getD (placesOf u r.msg.hdr.src) = []) :
    runReqs u = answer r.prg r.msg stOK none { u with mem := { u.mem with reqs := [] } } := by
  have hmem : { u.mem with reqs := [r] } = u.mem := by rw [← hreqs]
  have hunblock : unblock u = u := by simp [unblock, wake, modMem, hreqs, hstage, hmem]
  have hready : nextReady u = none := by simp [nextReady, hreqs, hstage, oldest]
  have hpump (k : Nat) : pump (k + 1) u = u := by simp [pump, hunblock, hready]
  simp [runReqs, hpump, runFences, hreqs, hstage, hwaits, hplaces, dropReq, modMem]

/-- A fence alone at the homes waits for nothing, if nothing was ahead of it in the ground. -/
theorem fenceWaits_of_alone (hreqs : u.mem.reqs = [r]) (htxns : u.mem.txns = []) (hcmbs : u.mem.cmbs = [])
    (htype : r.msg.hdr.type = tFENCE) (hmore : r.more = []) : fenceWaits u r = false := by
  have hplain : fenced r.msg.hdr = false := by rw [fenced, htype]; rfl
  simp [fenceWaits, heldReqs, hreqs, htxns, hcmbs, hplain, hmore]

/-- A fence that comes to idle homes is answered at once, and leaves nothing there. -/
theorem runReqs_holdReq_fence (hreqs : u.mem.reqs = []) (htxns : u.mem.txns = []) (hcmbs : u.mem.cmbs = [])
    (htype : r.msg.hdr.type = tFENCE) (hmore : r.more = []) (hplaces : r.places.getD (placesOf u r.msg.hdr.src) = []) :
    runReqs (holdReq r .fence u) = answer r.prg r.msg stOK none u := by
  have hheld : (holdReq r .fence u).mem.reqs = [{ r with stage := .fence }] := by
    rw [holdReq, modMem_mem, hreqs, List.nil_append]
  have hleft : { holdReq r .fence u with mem := { (holdReq r .fence u).mem with reqs := [] } } = u := by
    have hmem : { u.mem with reqs := [] } = u.mem := by rw [← hreqs]
    show { u with mem := { u.mem with reqs := [] } } = u
    rw [hmem]
  rw [runReqs_of_fence hheld rfl (fenceWaits_of_alone hheld htxns hcmbs htype hmore) hplaces, hleft]

/-- No unit holds a batch that a request could pass (R235). -/
theorem flushSource_of_noUnit (n src : Nat) (h : u.mem.cmbs = []) : flushSource n src u = u := by
  have hempty : cmbOf u n = {} := by
    rw [cmbOf, h]
    rfl
  simp [flushSource, hempty]

/-- R280: a FENCE with no earlier write or atomic of its source anywhere is answered at once. -/
theorem fenceIn_of_idle (hidle : MemIdle s) (hto : ToSwitch s m) (htype : m.hdr.type = tFENCE) (htc : m.hdr.tc = 3) (hop : m.hdr.op = 0)
    (hpart : partFenced s (reqPart m) = false) (hahead : fenceAhead s (unitOut prg m.hdr) m = []) (hplaces : placesOf s m.hdr.src = []) :
    fenceIn prg m s = answer prg m stOK none (arrived s) := by
  obtain ⟨hreqs, hcmbs, -, -, -, htxns, -, -, -⟩ := hidle
  obtain ⟨hint, hdst, hground⟩ := hto
  have hway := OnTheWay.arrived s
  have harr : nextArr s = (s.mem.arrivals, arrived s) := rfl
  have hflush : flushSource prg m.hdr.src (arrived s) = arrived s := flushSource_of_noUnit _ _ hcmbs
  simp only [fenceIn, hahead, takeDelivered_of_idle _ _ hground, harr, hflush, htc, hop, hint, hdst, hway.partFenced, hpart, ne_eq,
    not_true_eq_false, or_self, if_false, Bool.not_true, decide_false, Bool.or_self, Bool.false_eq_true, false_and]
  exact runReqs_holdReq_fence (hway.reqs.trans hreqs) htxns hcmbs htype rfl hplaces

/-! ### O44 -/

theorem asOp_of_eq {ty op : Nat} (htype : m.hdr.type = ty) (hop : m.hdr.op = op) : m.asOp ty op = m := by rw [← hop, asOp_self htype]

/-- Settles O44, one message or limit after another. -/
theorem coherentRequests : Obligations.CoherentRequests := by
  unfold Obligations.CoherentRequests
  refine ⟨?free, ?upgrade, ?wb, ?evict, ?rsp, ?snpLate, ?wbLate, ?fence⟩
  case free =>
    intro s prg m i e p h hline htype
    refine ⟨fun hop => ?_, fun hop => ?_⟩
    · show done (fabricReq prg (m.asOp tREAD 1) s) = _
      rw [asOp_of_eq htype hop, fabricReq_free h hline htype (.inl hop)]
      rfl
    · show done (fabricReq prg (m.asOp tREAD 2) s) = _
      rw [asOp_of_eq htype hop, fabricReq_free h hline htype (.inr hop)]
      rfl
  case upgrade =>
    intro s prg m i e p d h htype hop hline hrecord hholders
    obtain ⟨hmember, -⟩ := hline.memberAt
    show done (fabricReq prg (m.asOp tREAD 3) s) = _
    rw [asOp_of_eq htype hop, fabricReq_upgrade h (memberAt_of_noDir hmember) htype hop hrecord hholders]
    rfl
  case wb =>
    intro s prg m d h htxns htype hrecord howned hholder
    have hway := onTheWay_heard s prg
    show done (dirIn prg (m.as tWB) s) = _
    rw [as_self htype, dirIn_of_atDir h, htype, if_neg (by decide), if_pos rfl,
      wbAt_of_owner (hway.txns.trans htxns) (by rw [hway.dirOf, hway.msgLine, hrecord]) howned hholder, hway.msgLine, hway.lineSlice]
    rfl
  case evict =>
    intro s prg m h htxns htype hholder
    have hway := onTheWay_heard s prg
    show done (dirIn prg (m.as tEVICT_CLEAN) s) = _
    rw [as_self htype, dirIn_of_atDir h, htype, if_neg (by decide), if_neg (by decide),
      evictAt_of_holder (hway.txns.trans htxns) (by rw [hway.holders, hway.msgLine, hholder]), hway.msgLine, hway.holders]
    rfl
  case rsp =>
    intro s prg m t h htxns htype hline hop hasked hmore
    have hway := onTheWay_heard s prg
    show done (dirIn prg (m.as tSNP_RSP) s) = _
    rw [as_self htype, dirIn_of_atDir h, htype, if_pos rfl,
      snpRspAt_of_clean (hway.txns.trans htxns) (hline.trans (hway.msgLine m).symm) hop hasked hmore]
    rfl
  case snpLate =>
    intro s l a t htxn hlate
    show done (snpTimeout l a s) = _
    simp only [snpTimeout, htxn, hlate, if_true]
    rfl
  case wbLate =>
    rintro s l a t hsafe hreqs htxns rfl hlate hask
    obtain ⟨-, htxns', hobjs, hexts⟩ := poisonLine_keeps t.line s
    have hslice : lineSlice (putTxn (missed a t) (poisonLine t.line s)) (64 * t.line) = lineSlice s (64 * t.line) :=
      lineSlice_congr hobjs hexts _
    refine ⟨wbTimeout t.line a s, rfl, ?_⟩
    rw [wbTimeout_of_single hsafe hreqs htxns hlate hask]
    refine ⟨?_, hslice ▸ stickySet_cohRaise _ _ (by decide)⟩
    rw [cohRaise_mem, putTxn_of_single (t' := missed a t) (htxns'.trans htxns) rfl]
    rfl
  case fence =>
    intro s prg m hidle hto htype htc hop hpart hahead hplaces
    show done (fenceIn prg (m.as tFENCE) s) = _
    rw [as_self htype, fenceIn_of_idle hidle hto htype htc hop hpart hahead hplaces]
    rfl

end Sys2Proof.Machine
end

section
/-! PROOFS. What flits that enter and move in the ground leave unchanged: the shuttle's state and the sources that have set
(R363, R375 to R379). -/

namespace Sys2Proof.Machine

variable {s t : State}

/-- As flits enter and move in the ground, the shuttle's state stays, and so does every source that has set. -/
structure Entered (s t : State) : Prop where
  sht : t.sht = s.sht
  sticky : ∀ f u, stickySet s f u = true → stickySet t f u = true

namespace Entered

theorem refl (s : State) : Entered s s := ⟨rfl, fun _ _ => id⟩

/-- An update of the fields that neither the shuttle nor the sources are. -/
theorem same {ground ports fires dues flt} (h : Entered s t) : Entered s { t with ground, ports, fires, dues, flt } := ⟨h.sht, h.sticky⟩

theorem bump {g q p o n : Nat} (h : Entered s t) (ho : o % 4096 ≠ 0x020 := by decide) : Entered s (bump t (csrAddr g q p o) n) :=
  ⟨h.sht, fun f u hf => stickySet_bump n ho (h.sticky f u hf)⟩

theorem progress {g u : Nat} (h : Entered s t) : Entered s (progress t g u) := h.bump

theorem raise {f : Src} {u : Nat} (h : Entered s t) : Entered s (raise f u t) :=
  ⟨by rw [raise_frame, h.sht], fun f' u' hf => stickySet_raise_of_set f' f u' u t (h.sticky f' u' hf)⟩

theorem ite {c : Prop} {dec : Decidable c} {u v : State} (hu : Entered s u) (hv : Entered s v) : Entered s (if c then u else v) := by
  split <;> assumption

theorem ite_fst {α : Type} {c : Prop} {dec : Decidable c} {u v : State × α} (hu : Entered s u.1) (hv : Entered s v.1) :
    Entered s (if c then u else v).1 := by
  split <;> assumption

theorem foldl {α : Type} {f : State → α → State} (l : List α) (h : Entered s t) (hf : ∀ u a, Entered s u → Entered s (f u a)) :
    Entered s (l.foldl f t) :=
  List.foldlRecOn l f h fun u hu a _ => hf u a hu

theorem deadTarget {n : Nat} {k : Hdr} (h : Entered s t) : Entered s (deadTarget t n k) := by
  have hreg (u : State) (v : Nat) (f : Fld) (hu : Entered s u) : Entered s (wrF u (PRG_DEAD_TARGET n) f v) :=
    ⟨hu.sht, fun f' u' hf => by
      have hother : rdReg (wrF u (PRG_DEAD_TARGET n) f v) (G_ERR_STICKY f'.g u' f'.p) = rdReg u (G_ERR_STICKY f'.g u' f'.p) :=
        rdReg_wrReg_other _ _ (csrAddr_ne_of_off (by decide))
      rw [stickySet, hother]
      exact hu.sticky f' u' hf⟩
  exact (hreg _ _ _ (hreg _ _ _ h)).bump.raise

theorem cellLeaves {c : GCell} (h : Entered s t) : Entered s (cellLeaves t c) := by
  have hleft : Entered s (Machine.progress (Machine.bump (Machine.progress t grGND c.slice) (GND_FLITS_OUT c.slice)) grPRG c.slice) :=
    h.progress.bump.progress
  unfold Machine.cellLeaves
  dsimp only
  split
  · exact hleft.same.bump
  · exact hleft

theorem freeCells {cs : List GCell} (h : Entered s t) : Entered s (freeCells cs t) := h.foldl cs fun _ _ => cellLeaves

theorem markIn {c : GCell} (h : Entered s t) : Entered s (markIn t c).1 := ite_fst h.bump h

theorem pushCell {c : GCell} (h : Entered s t) : Entered s (pushCell t c) := h.markIn.same

theorem takePinned {parts : List GCell} {c : GCell} (h : Entered s t) : Entered s (takePinned parts c t) := ite h.same h.same.freeCells.same

theorem pinnedIn {c : GCell} (h : Entered s t) : Entered s (pinnedIn t c) :=
  ite (ite h.pushCell.same h.pushCell.takePinned) h.pushCell

theorem deliverSeg {f : Flow} {c : GCell} (h : Entered s t) : Entered s (deliverSeg t f c).1 := by
  unfold Machine.deliverSeg
  split
  · have hwhole : Entered s (if c.seg.hdr.last then Machine.bump t (GND_RESEQ_MSGS f.prg) else t) := ite h.bump h
    exact ite_fst hwhole.pushCell (ite hwhole.cellLeaves (ite hwhole.cellLeaves.bump hwhole.cellLeaves.deadTarget.same))
  · have hleft : Entered s (if keepsCells c.seg.hdr then t else Machine.cellLeaves t c) := ite h h.cellLeaves
    exact ite_fst hleft.bump.same hleft

theorem runFlow {n : Nat} {f : Flow} (h : Entered s t) : Entered s (runFlow n t f).1 := by
  induction n generalizing t f with
  | zero => exact h
  | succ n ih =>
    unfold Machine.runFlow
    split
    · exact h
    split
    · exact h
    extract_lets
    split
    · exact ih h.cellLeaves
    · exact ih h.deliverSeg

theorem reseqIn {c : GCell} (h : Entered s t) : Entered s (reseqIn t c) := by
  unfold Machine.reseqIn
  dsimp only
  split
  · exact ite h.same.bump.bump.same h.same
  split
  · exact ite h.same.runFlow.same (ite h.same.cellLeaves.bump (ite h.same.bump.same h.same))
  · exact ite h.same.bump.same h.same

theorem reseqRetryN {n prg : Nat} (h : Entered s t) : Entered s (reseqRetryN n t prg) := by
  induction n generalizing t with
  | zero => exact h
  | succ n ih =>
    have hround {l : List GCell} {ground : Ground}
        : Entered s (l.foldl (fun v c => Machine.reseqIn v { c with hold := .none }) { t with ground }) :=
      h.same.foldl l fun _ _ => reseqIn
    exact ite (ih hround) hround

theorem reseqEnter {c : GCell} (h : Entered s t) : Entered s (reseqEnter t c) := h.reseqIn.reseqRetryN

theorem enqueue {c : GCell} (h : Entered s t) : Entered s (enqueue t c) := by
  unfold Machine.enqueue
  split
  · split
    · exact h.reseqEnter
    · exact h.markIn.reseqEnter
    · exact h.pushCell
    · exact h.pinnedIn
  · exact h.pushCell

theorem enterRouted {c : GCell} (h : Entered s t) : Entered s (enterRouted t c) := by
  unfold Machine.enterRouted
  split
  · exact ite h.enqueue (ite h.same (ite h.same h.same.enqueue))
  · exact h.enqueue

theorem numbered {c : GCell} (h : Entered s t) : Entered s (numbered t c).1 := by
  have hseq (k : FlowKey) (n : Nat) : Entered s (takeFlowSeq t k n).2 := by
    unfold takeFlowSeq
    split
    · exact h.same
    · exact h.same
  exact ite_fst (hseq _ _) h

theorem enterAs {reply : Bool} {c : GCell} (h : Entered s t) : Entered s (enterAs reply t c) := by
  have hin : Entered s (if stored t c then t else Machine.bump t (GND_FLITS_IN c.slice)) := ite h h.bump
  exact ite (ite hin.numbered.pushCell hin.numbered.enterRouted) h.same

theorem emitSeg {reply first : Bool} {o : Origin} {g : Seg} (h : Entered s t) : Entered s (emitSeg reply t o g first) := by
  unfold Machine.emitSeg
  dsimp only
  split
  · exact h.deadTarget
  · exact h.enterAs

theorem emitAs {reply : Bool} {o : Origin} {m : Msg} (h : Entered s t) : Entered s (emitAs reply o m t) :=
  ite (h.foldl _ fun _ _ => emitSeg) h.deadTarget

theorem emit {o : Origin} {m : Msg} (h : Entered s t) : Entered s (emit o m t) := h.emitAs

theorem endRequest {o : Origin} {prg status : Nat} {k : Hdr} {pay : Bytes} {nak : Bool} (h : Entered s t) :
    Entered s (endRequest o prg k pay status nak t) :=
  ite h.emitAs (ite (ite h.emit h) (ite h.bump.emit h))

end Entered

end Sys2Proof.Machine
end

section
/-! PROOFS. What accesses at a home and elsewhere leave unchanged: the queue pairs (R239 to R302). -/

namespace Sys2Proof.Machine

variable {s t : State}

/-- From `s` to `t` the queue pairs are as they were. What only updates other parts of the state keeps them by definition. -/
def QpsKept (s t : State) : Prop := t.sht.qps = s.sht.qps

namespace QpsKept

variable {r : Req} {m : Msg} {n prg p part i l st : Nat} {enc : Bool} {d : Bytes} {u : State}

theorem refl (s : State) : QpsKept s s := rfl

theorem trans (h : QpsKept s t) (k : QpsKept t u) : QpsKept s u := Eq.trans k h

theorem ite {c : Prop} {dec : Decidable c} {u v : State} (hu : QpsKept s u) (hv : QpsKept s v) : QpsKept s (if c then u else v) := by
  split <;> assumption

theorem ite_snd {α : Type} {c : Prop} {dec : Decidable c} {u v : α × State} (hu : QpsKept s u.2) (hv : QpsKept s v.2) :
    QpsKept s (if c then u else v).2 := by
  split <;> assumption

theorem foldl {α : Type} {f : State → α → State} {l : List α} (h : QpsKept s t) (hf : ∀ u a, QpsKept s u → QpsKept s (f u a)) :
    QpsKept s (l.foldl f t) :=
  List.foldlRecOn l f h fun u hu a _ => hf u a hu

theorem foldl_snd {α β : Type} {f : β × State → α → β × State} {l : List α} {u : β × State} (h : QpsKept s u.2)
    (hf : ∀ u a, QpsKept s u.2 → QpsKept s (f u a).2) : QpsKept s (l.foldl f u).2 :=
  List.foldlRecOn (motive := fun u : β × State => QpsKept s u.2) l f h fun u hu a _ => hf u a hu

/-! #### Messages and sources -/

theorem entered (h : QpsKept s t) (k : Entered t u) : QpsKept s u := h.trans (congrArg Shuttle.qps k.sht)

theorem raise {f : Src} {u : Nat} (h : QpsKept s t) : QpsKept s (raise f u t) := h.entered (Entered.refl t).raise
theorem deadTarget {k : Hdr} (h : QpsKept s t) : QpsKept s (deadTarget t n k) := h.entered (Entered.refl t).deadTarget
theorem emit {o : Origin} (h : QpsKept s t) : QpsKept s (emit o m t) := h.entered (Entered.refl t).emit

theorem answer {data : Option Bytes} (h : QpsKept s t) : QpsKept s (answer prg m st data t) := by
  unfold Machine.answer
  split
  · exact ite (h.entered (Entered.refl t).emitAs) h
  · exact ite h (h.entered (Entered.refl t).endRequest)

/-! #### Pool memory and moves (R248, R249, R259) -/

theorem blocksMoved (h : QpsKept s t) : QpsKept s (blocksMoved p n t) := ite h h

theorem correctSector (h : QpsKept s t) : QpsKept s (correctSector n t) := ite h (foldl (t := bump t _ _) h fun _ _ hr => hr)

theorem readSector {mask : Nat} (h : QpsKept s t) : QpsKept s (readSector part n mask t).2 := by
  have hcorrected := (h.blocksMoved (p := 256 * n) (n := 4)).correctSector (n := n)
  exact ite_snd (raise hcorrected) (ite_snd hcorrected (ite_snd hcorrected (raise hcorrected)))

theorem sealSector {stale : Nat} (h : QpsKept s t) : QpsKept s (sealSector part enc p d stale t) := blocksMoved (t := modMem t _) h

theorem writeSectorOver {mask : Nat} (h : QpsKept s t) : QpsKept s (writeSectorOver mask part enc p d t).2 :=
  have hread := ite_snd (c := d.length = 256) (u := (stOK, t)) h (h.readSector (part := part) (n := p / 256) (mask := mask))
  ite_snd hread.sealSector hread

theorem memRead (h : QpsKept s t) : QpsKept s (memRead part p n t).2.2 := foldl_snd (u := (stOK, t)) h fun _ _ => readSector

theorem memWrite (h : QpsKept s t) : QpsKept s (memWrite part enc p d t).2 := foldl_snd (u := (stOK, t)) h fun _ _ => writeSectorOver

theorem trayMoved {write : Bool} (h : QpsKept s t) : QpsKept s (trayMoved write p n t) := ite h h

theorem enginePiece {base len : Nat} (h : QpsKept s t) : QpsKept s (enginePiece part enc base len p d t) :=
  ite h.trayMoved.sealSector (ite h.trayMoved.writeSectorOver h.trayMoved.sealSector)

theorem engineWrite {base len : Nat} (h : QpsKept s t) : QpsKept s (engineWrite part enc base len p d t) := foldl h fun _ _ => enginePiece

theorem enginePoison (h : QpsKept s t) : QpsKept s (enginePoison part p n t) := foldl h.trayMoved fun _ _ hr => hr

theorem moveArrive {base len : Nat} (h : QpsKept s t) : QpsKept s (moveArrive part enc base len p n d t) :=
  ite h.enginePoison (ite h.engineWrite h)

theorem moveRead {v : Move} {b : Nat} (h : QpsKept s t) : QpsKept s (moveRead v b i d t).2 := by
  unfold Machine.moveRead
  extract_lets
  split
  · split
    · exact h.trayMoved
    · exact raise (t := bump _ _) h.trayMoved
  · exact h.trayMoved.memRead

theorem movePut {v : Move} {data : Option Bytes} (h : QpsKept s t) : QpsKept s (movePut v i data t) := by
  unfold Machine.movePut
  split
  · exact h.engineWrite
  · exact h.enginePoison

theorem moveSend {v : Move} {data : Option Bytes} (h : QpsKept s t) : QpsKept s (moveSend v i data t) := emit (t := modMem _ _) h

theorem moveSector {v : Move} (h : QpsKept s t) : QpsKept s (moveSector v i d t) := by
  unfold Machine.moveSector
  cases v.src with
  | some b => exact ite h.moveRead.movePut h.moveRead.moveSend
  | none => exact ite h.movePut h.moveSend

theorem mirror (h : QpsKept s t) : QpsKept s (mirror p n t) := by
  unfold Machine.mirror
  split
  · exact h
  split
  · exact h
  refine foldl h fun _ _ hr => ?_
  split
  · exact ite hr.moveSector hr
  · exact hr

/-! #### Requests that end (R233, R234, R431) -/

theorem countTier (h : QpsKept s t) : QpsKept s (countTier prg st t) := ite h (ite h h)

theorem makeRoom {f len : Nat} (h : QpsKept s t) : QpsKept s (makeRoom f n len t) := by
  induction f generalizing t with
  | zero => exact h
  | succ f ih => exact ite h (ih h)

theorem keepShared (h : QpsKept s t) : QpsKept s (keepShared r d t) := by
  unfold Machine.keepShared
  split
  · exact ite (ite h (makeRoom h)) h
  · exact h

theorem opDone {olds : List Bytes} (h : QpsKept s t) : QpsKept s (opDone n i st olds t) := by
  unfold Machine.opDone
  split <;> exact h

/-- A placement that DRAIN ended is no more of its queue pair (R325). -/
theorem lateReply {w : Asker} (h : QpsKept s t) : QpsKept s (lateReply w t) := by
  unfold Machine.lateReply
  split
  · exact ite h h
  · exact h

theorem farDone (h : QpsKept s t) : QpsKept s (farDone i st d t) := by
  unfold Machine.farDone
  split
  · exact h
  · exact ite (lateReply (t := modMem _ _) h) h

theorem finish {data : Option Bytes} (h : QpsKept s t) : QpsKept s (finish r st data t) := by
  unfold Machine.finish
  split
  · exact h.countTier.opDone
  · exact h.countTier.farDone
  · exact foldl (answer (ite h.countTier h.countTier)) fun _ _ hr => hr.countTier.answer

/-! #### Service at a home (R248, R249, R284) -/

theorem serve (h : QpsKept s t) : QpsKept s (serve r part enc p t) := by
  unfold Machine.serve
  extract_lets
  split
  · exact h.finish
  split
  · exact h
  split
  · exact ite h.memRead.keepShared.finish h.memRead.finish
  split
  · split
    · exact ite h.memRead.finish h.memRead.memWrite.mirror.finish
    split
    · exact h
    · exact ite h.memRead.finish h.memRead.memWrite.countTier.mirror.opDone
  · exact finish (mirror (memWrite h))

/-! #### Coherence (R287 to R295) -/

theorem cohRaise {f : Src} (h : QpsKept s t) : QpsKept s (cohRaise f l t) := raise (ite h h)

theorem setDir {owned : Bool} {hs : List Nat} (h : QpsKept s t) : QpsKept s (setDir l owned hs t) := by
  unfold Machine.setDir
  split <;> exact h

theorem startTxn {o : Option Req} {op : Nat} {ask stay : List Nat} (h : QpsKept s t) : QpsKept s (startTxn l o op ask stay t) :=
  foldl (t := modMem t _) h fun _ _ hr => emit (t := bump _ _) hr

theorem writeLine (h : QpsKept s t) : QpsKept s (writeLine l d t) := by
  unfold Machine.writeLine
  split
  · exact h.memWrite.mirror
  · exact h

theorem sweepLine (h : QpsKept s t) : QpsKept s (sweepLine l t) := ite h.startTxn h

theorem grant {owned bare : Bool} {hs : List Nat} (h : QpsKept s t) : QpsKept s (grant r l st owned hs bare t) := by
  unfold Machine.grant
  split
  · exact h.setDir.finish
  · have hread : QpsKept s (Machine.memRead (objOf t (extOf t r.ext).obj).part r.phys 64 t).2.2 := h.memRead
    exact ite hread.setDir.finish hread.finish

theorem wakeLine (h : QpsKept s t) : QpsKept s (wakeLine l t) := h

theorem coherentRead (h : QpsKept s t) : QpsKept s (coherentRead r l t) := by
  unfold Machine.coherentRead
  extract_lets q sl op v hs owned others holder w r' room
  have hv : QpsKept s v := ite h.setDir h
  have hw : QpsKept s w := ite hv hv
  clear_value room
  cases room with
  | some x => exact ite hw (startTxn (t := bump (holdReq r' (.line x) w) _) hw)
  | none =>
    exact ite (ite hw.grant.wakeLine (ite hw.startTxn hw.grant.wakeLine))
      (ite (ite hw.grant.wakeLine hw.startTxn) (ite hw.grant.wakeLine hw.startTxn))

theorem tryEndTxn (h : QpsKept s t) : QpsKept s (tryEndTxn l t) := by
  have hend (x : LineTxn) : QpsKept s (endTxn x t) := by
    have hdir : QpsKept s (Machine.setDir x.line false x.stay (modMem t fun m => { m with txns := m.txns.filter (·.line != x.line) })) :=
      setDir h
    unfold endTxn
    refine sweepLine (wakeLine ?_)
    split
    · exact hdir
    · exact ite (finish hdir) (ite (ite (grant hdir) (grant hdir)) hdir)
  unfold Machine.tryEndTxn
  split
  · exact ite (hend _) h
  · exact h

theorem snpRspAt (h : QpsKept s t) : QpsKept s (snpRspAt m t) := by
  unfold Machine.snpRspAt
  extract_lets
  split
  · exact h
  refine ite h (tryEndTxn (t := Machine.putTxn _ _) ?_)
  have hcount {x y : LineTxn} {c c' : Prop} {dec : Decidable c} {dec' : Decidable c'} {a : Nat} :
      QpsKept s (if c then (x, bump t a) else if c' then (y, bump t a) else (y, t)).2 := ite_snd h (ite_snd h h)
  exact ite hcount.writeLine hcount

theorem wbAt (h : QpsKept s t) : QpsKept s (wbAt prg m t) := by
  unfold Machine.wbAt
  extract_lets l q v d cpl owner
  have hv : QpsKept s v := h
  have howner : QpsKept s (if owner then cpl (Machine.setDir l false [] (Machine.writeLine l d v))
      else Machine.cohRaise srcDIR_COH_PROTOCOL l (cpl v)) := ite hv.writeLine.setDir.answer hv.answer.cohRaise
  split
  · exact ite (tryEndTxn (t := Machine.putTxn _ _) hv.writeLine.answer) (ite (answer (t := Machine.putTxn _ _) hv.writeLine) howner)
  · exact howner

theorem evictAt (h : QpsKept s t) : QpsKept s (evictAt prg m t) := answer (ite h.setDir h)

theorem dirMsg (h : QpsKept s t) : QpsKept s (dirMsg r t) := by
  unfold Machine.dirMsg
  extract_lets m sl ch v
  have hv : QpsKept s v := h
  refine ite h (ite h (ite h ?_))
  clear_value ch
  cases ch with
  | some x => exact h
  | none => exact ite hv.snpRspAt (ite hv.wbAt hv.evictAt)

/-! #### The way of a request (R240, R252, R254, R267) -/

theorem trayIssue {c : Nat} (h : QpsKept s t) : QpsKept s (trayIssue r c t) := by
  unfold Machine.trayIssue
  split <;> exact h

/-- What a port or a channel makes of a request. -/
theorem atTray {c : Nat} (h : QpsKept s t) (hu : atTray r c t = some u) : QpsKept s u := by
  unfold Machine.atTray at hu
  split_ifs at hu <;> cases hu
  exacts [h.finish, h, h.finish]

theorem atChannel (h : QpsKept s t) (hu : atChannel r p t = some u) : QpsKept s u := by
  unfold Machine.atChannel at hu
  split at hu
  · cases hu
    exact h.finish
  split at hu <;> cases hu
  exact h

theorem toLender {x : Ext} (h : QpsKept s t) : QpsKept s (toLender r x t) :=
  have hid : QpsKept s (freshId t).2 := h
  ite (c := hasRoute _ _ _) hid.emit hid.deadTarget.finish

theorem atTier (h : QpsKept s t) : QpsKept s (atTier r i t) := by
  unfold Machine.atTier
  extract_lets
  split
  · split
    next hu => exact h.atChannel hu
    · exact h.serve
  refine ite h.toLender ?_
  unfold Machine.toTray
  split
  next hu => exact h.atTray hu
  · exact h.trayIssue

theorem atLine (h : QpsKept s t) : QpsKept s (atLine r i t) := by
  unfold Machine.atLine
  extract_lets
  split
  · exact ite h.finish h.atTier
  extract_lets
  refine ite h.finish (ite h.finish (ite h (ite h ?_)))
  split
  · exact h
  split
  next hu => exact h.atChannel hu
  refine ite h.coherentRead ?_
  split
  · exact h.startTxn
  · exact h.atTier

theorem combineRead (h : QpsKept s t) : QpsKept s (combineRead r i t) := by
  have hcount {c : Prop} {dec : Decidable c} {a : Nat} : QpsKept s (if c then t else bump t a) := ite h h
  unfold Machine.combineRead
  extract_lets
  split
  · exact h.atLine
  split
  · exact hcount.atLine
  split
  · exact finish (t := bump _ _) hcount
  split
  · exact hcount
  · exact hcount.atLine

theorem process (h : QpsKept s t) : QpsKept s (process r t) := by
  unfold Machine.process
  extract_lets
  refine ite h.finish (ite h (ite h ?_))
  split
  · exact h.finish
  extract_lets _ _ v _ w
  have hv : QpsKept s v := ite h h
  have hw : QpsKept s w := ite hv hv
  refine ite h (ite h (ite hv ?_))
  split
  · exact hv.finish
  · exact ite hw (combineRead (ite hw hw))

theorem hostedReq (h : QpsKept s t) : QpsKept s (hostedReq r p n t) := by
  unfold Machine.hostedReq
  extract_lets
  split
  · exact ite (finish (t := modMem _ _) h.moveArrive) h.finish
  refine ite h.finish ?_
  split
  · exact h.serve
  · exact ite h h.finish

theorem physReq (h : QpsKept s t) : QpsKept s (physReq r t) := by
  unfold Machine.physReq
  extract_lets m p n from_ hub v w
  have hw : QpsKept s w := ite h h
  refine ite h.finish (ite h.finish (ite h (ite h (ite h ?_))))
  split
  next hu =>
    split at hu
    · exact h.atTray hu
    · exact h.atChannel hu
  split
  · exact ite (finish (t := putMove _ _) hw.moveArrive) hw.finish
  · exact hw.hostedReq

theorem goOn (h : QpsKept s t) : QpsKept s (goOn r t) := ite h.physReq h.process

/-! #### Conjunction units (R234, R235, R285) -/

theorem passOp (h : QpsKept s t) : QpsKept s (passOp n i t) := by
  unfold Machine.passOp
  split
  · exact h
  split
  · exact h
  · exact goOn (t := putOp _ _ _) (ite h h)

theorem rcCreate (h : QpsKept s t) (hu : rcCreate n m t = some u) : QpsKept s u := by
  unfold Machine.rcCreate at hu
  extract_lets at hu
  split at hu
  · cases hu
    exact h
  split at hu <;> cases hu
  exact h

theorem unitAtomic {arr port : Nat} (h : QpsKept s t) : QpsKept s (unitAtomic n arr port m t) := by
  unfold Machine.unitAtomic
  extract_lets a v part fits w
  have hw : QpsKept s w := foldl (foldl h fun _ _ => passOp) fun _ _ => passOp
  split
  · exact hw
  · exact ite hw (passOp (t := modCmb _ _ _) hw)

theorem atomicIn (h : QpsKept s t) : QpsKept s (atomicIn n r t) := by
  have hcreate {m : Msg} {arr port : Nat} : QpsKept s (match Machine.rcCreate n m t with
      | some u => Machine.unitAtomic n arr port m u
      | none => holdReq r .room t) := by
    split
    next hu => exact (h.rcCreate hu).unitAtomic
    · exact h
  unfold Machine.atomicIn
  extract_lets
  refine ite h.finish (ite h ?_)
  split
  · exact ite (finish (t := bump _ _) h) hcreate
  · exact hcreate
  · split
    · exact finish (t := bump _ _) h
    · exact h
  · exact finish (t := bump _ _) h

/-! #### Requests that go on, and fences (R280) -/

theorem pump (h : QpsKept s t) : QpsKept s (pump n t) := by
  induction n generalizing t with
  | zero => exact h
  | succ n ih =>
    unfold Machine.pump
    extract_lets v
    have hv : QpsKept s v := h
    split
    · exact hv
    next r _ =>
      have hturn : QpsKept s (dropReq r.arr (takeTurn r v)) := hv
      exact ih (ite hturn.dirMsg (ite hturn.atomicIn hturn.goOn))

theorem runReqs (h : QpsKept s t) : QpsKept s (runReqs t) :=
  foldl h.pump fun _ _ hr => ite hr (ite (answer (t := dropReq _ _) hr) hr)

/-! #### Accesses of an engine (R121, R309, R316) -/

theorem ask {who : Asker} {k : Ask} (h : QpsKept s t) : QpsKept s (ask who n part k t) := by
  have harr : QpsKept s (nextArr t).2 := h
  have hid : QpsKept s (freshId (nextArr t).2).2 := harr
  exact ite (runReqs (goOn (t := modMem _ _) harr)) (ite (emit (t := modMem (modMem _ _) _) hid) (deadTarget hid))

theorem askAll {c : Ctx} (h : QpsKept s t) : QpsKept s (c.askAll t) := foldl h fun _ _ => ask

end QpsKept

end Sys2Proof.Machine
end

section
/-! PROOFS. Queue pairs: doorbells, requests, errors and segments that leave; acknowledgements, timers and registrations
(R306 to R325). -/

namespace Sys2Proof.Machine

variable {s t : State} {n q : Nat} {m : Msg} {x : Qp}

/-! ### Queue pairs and registrations as they are read -/

theorem qpOf_congr (h : t.sht.qps = s.sht.qps) (q : Nat) : qpOf t q = qpOf s q := by rw [qpOf, qpOf, h]

@[simp] theorem qpOf_setQp_same (s : State) (q : Nat) (x : Qp) : qpOf (setQp s q x) q = x := sget_sset_same _ _ _ _

@[simp] theorem qpOf_modQp_same (s : State) (q : Nat) (f : Qp → Qp) : qpOf (modQp s q f) q = f (qpOf s q) := qpOf_setQp_same _ _ _

@[simp] theorem shtReg_setShtReg_same (s : State) (i : Nat) (x : Reg) : shtReg (setShtReg s i x) i = x := sget_sset_same _ _ _ _

/-! ### A segment reaches its engine (R273, R311) -/

theorem atEngine_of_toQp (k : State → State) (h : ToQp s n q m) : atEngine n m k s = k s := by
  obtain ⟨hn, hint, hdst, hshuttle, hidle, -⟩ := h
  simp [atEngine, takeDelivered_of_idle _ _ hidle, hn, hint, hdst, hshuttle]

/-- The engine that a segment names. -/
theorem engine_of_toQp (h : ToQp s n q m) : m.hdr.dst % 16 = n := by
  obtain ⟨hn, -, hdst, -⟩ := h
  omega

theorem takes_of_toQp (h : ToQp s n q m) : shtTakes s n q = true := by
  obtain ⟨-, -, -, -, -, -, htakes, -⟩ := h
  exact htakes

theorem qpEngine_of_takes (h : shtTakes s n q = true) : qpEngine q = n := by
  simp only [shtTakes, Bool.and_eq_true, beq_iff_eq] at h
  exact h.1

theorem state_of_takes (h : shtTakes s n q = true) : (qpOf s q).state = qsRTS ∨ (qpOf s q).state = qsDRAINING := by
  simp only [shtTakes, Bool.and_eq_true, Bool.or_eq_true, beq_iff_eq] at h
  exact h.2

/-- Only a WRITE_ACK takes a CPL (R311). -/
theorem cplNow_of_notAck (n st : Nat) (s : State) (h : m.hdr.type ≠ tWRITE_ACK) : cplNow n m st s = s := if_neg h

/-- A queue pair that takes segments takes ERROR with an error. -/
theorem qpErr_of_live (st : Nat) (failing : Option Nat) (h : (qpOf s q).state = qsRTS ∨ (qpOf s q).state = qsDRAINING) :
    qpErr q st failing s = qpFail q st failing s := by
  refine if_neg ?_
  rcases h with h | h <;> rw [h] <;> decide

/-! ### Doorbells (R308) -/

/-- Whether the indices of a DOORBELL run past a ring. -/
def doorbellPast (x : Qp) (m : Msg) : Bool :=
  2 ^ x.sqLog < rsub (leAt m.pay 12 4) x.sqHead || 2 ^ 31 ≤ rsub (leAt m.pay 12 4) x.sqTail
    || (if x.rqLog = 0 then 0 else 2 ^ x.rqLog) < rsub (leAt m.pay 16 4) x.rqHead || 2 ^ 31 ≤ rsub (leAt m.pay 16 4) x.rqTail
    || rsub x.cqTail x.cqHead < rsub (leAt m.pay 20 4) x.cqHead

theorem doorbell_of_owner (h : ToQp s n q m) (hint : m.hdr.sint = false) (hsrc : m.hdr.src = (qpOf s q).owner) :
    doorbell m s = if doorbellPast (qpOf s q) m then qpErr q shRING none s
      else setQp s q { qpOf s q with sqTail := leAt m.pay 12 4, rqTail := leAt m.pay 16 4, cqHead := leAt m.pay 20 4 } := by
  have hengine := engine_of_toQp h
  obtain ⟨-, -, -, -, -, rfl, htakes, hack⟩ := h
  have howner : (!shtTakes s n (shtQp m) || m.hdr.sint || m.hdr.src != (qpOf s (shtQp m)).owner) = false := by simp [htakes, hint, hsrc]
  simp only [doorbell, hengine, howner, Bool.false_eq_true, if_false, cplNow_of_notAck _ _ _ hack, doorbellPast]
  rfl

/-! ### Requests are read and start (R309) -/

/-- The read of the one send entry that the ring holds. -/
theorem sqReadDone_of_one (hstate : (qpOf s q).state = qsRTS) (hone : rsub (qpOf s q).sqTail (qpOf s q).sqHead = 1)
    (hhead : (qpOf s q).sqHead < 2 ^ 32) :
    let x := (shtCtx s q jbSQ).readSt ((qpOf s q).sqBase + 64 * ((qpOf s q).sqHead % 2 ^ (qpOf s q).sqLog)) 64
    sqReadDone q s = if x.2.2.stuck then x.2.2.askAll s
      else if x.1 ≠ stOK then qpErr q x.1 none (farUsed x.2.2.used x.2.2.s)
      else badNext q (modQp (farUsed x.2.2.used x.2.2.s) q fun y => { y with
        sqHead := (y.sqHead + 1) % 2 ^ 32, wqes := y.wqes ++ [{ id := (qpOf s q).sqHead, raw := x.2.1 }] }) := by
  have hn : min 8 (rsub (qpOf s q).sqTail (qpOf s q).sqHead) = 1 := by rw [hone]; rfl
  have hk : ((qpOf s q).sqHead + 0) % 2 ^ 32 = (qpOf s q).sqHead := Nat.mod_eq_of_lt hhead
  intro x
  unfold sqReadDone
  extract_lets y n
  have hn1 : n = 1 := hn
  rw [hn1, if_neg (by simp [y, hstate])]
  simp only [y, hk, List.range_one, List.foldl_cons, List.foldl_nil, ne_eq, not_true_eq_false, if_false, List.nil_append, x]

theorem wqeStart_of_next {op : Nat} {w : Wqe} (hstate : (qpOf s q).state = qsRTS ∨ (qpOf s q).state = qsDRAINING)
    (hnext : (qpOf s q).wqes.find? (fun y => !y.started) = some w) (hop : w.op = op) (hok : wqeOk w = true)
    (hout : ((qpOf s q).wqes.filter (·.started)).all (·.out) = true)
    (hfence : w.fence = true → ((qpOf s q).wqes.filter (·.started)).all (fun y => !(y.op == 3 || y.op == 4)) = true) :
    wqeStart q op s = setQp s q { qpOf s q with wqes := (qpOf s q).wqes.map fun y =>
      if y.id = w.id then { w with started := true, first := (qpOf s q).sendPsn } else y } := by
  have hruns : ¬((qpOf s q).state ≠ qsRTS ∧ (qpOf s q).state ≠ qsDRAINING) := by tauto
  have hfence' : (!w.fence || ((qpOf s q).wqes.filter (·.started)).all fun b => !(b.op == 3 || b.op == 4)) = true := by
    cases hw : w.fence
    · rfl
    · exact hfence hw
  simp only [wqeStart, if_neg hruns, hnext]
  exact if_pos ⟨hop, hok, hout, hfence'⟩

/-! ### Writes of an engine (R310, R316) -/

namespace QpsKept

theorem write1 {a : Nat} {c : Ctx} {d : Bytes} (h : QpsKept s c.s) : QpsKept s (c.write1 a d).2.s := by
  have hask {k : Ask} {x : Option (Option (Nat × Bytes)) × Ctx} (hx : (if c.dry then (none, c) else c.asked k) = x) :
      QpsKept s x.2.s := by
    subst hx
    unfold Ctx.asked
    split
    · exact h
    split <;> exact h
  unfold Ctx.write1
  split
  · exact h
  extract_lets n k
  split
  next hx => exact hask hx
  next hx => exact hask hx
  next v hx =>
    have hv : QpsKept s v.s := hask hx
    split
    · exact hv.countTier
    next e _ _ =>
      have hdrops {a n : Nat} : QpsKept s (writeDrops (some e) a n (lookedAt v.rgn e v.s)) := ite (ite hv hv) (ite hv hv)
      exact hdrops.memWrite.countTier.mirror
    · split <;> exact hv

theorem writeSt {a : Nat} {c : Ctx} {d : Bytes} (h : QpsKept s c.s) : QpsKept s (c.writeSt a d).2.s := by
  refine List.foldlRecOn (motive := fun x : Nat × Ctx => QpsKept s x.2.s) _ _ h fun x hx k _ => ?_
  split
  · exact hx.write1
  · exact hx

end QpsKept

/-! ### Completions and errors of a queue pair (R310, Table SHT-6) -/

/-- `y` is the queue pair `x` but for its completions. -/
def ButCompletions (x y : Qp) : Prop := ∃ cqes tail, y = { x with cqes := cqes, cqTail := tail }

theorem ButCompletions.refl (x : Qp) : ButCompletions x x := ⟨_, _, rfl⟩

theorem ButCompletions.trans {x y z : Qp} (h : ButCompletions x y) (k : ButCompletions y z) : ButCompletions x z := by
  obtain ⟨_, _, rfl⟩ := h
  obtain ⟨_, _, rfl⟩ := k
  exact ⟨_, _, rfl⟩

theorem ButCompletions.congr {x y z : Qp} (h : ButCompletions x y) (hz : z = y) : ButCompletions x z := hz ▸ h

theorem drainCqes_butCompletions (n q : Nat) (s : State) : ButCompletions (qpOf s q) (qpOf (drainCqes n q s).2 q) := by
  induction n generalizing s with
  | zero => exact .refl _
  | succ n ih =>
    unfold drainCqes
    extract_lets x
    split
    · exact .refl _
    split
    · exact ⟨_, _, qpOf_setQp_same _ _ _⟩
    extract_lets
    split
    next st c hwrite =>
    split
    · exact ⟨_, _, qpOf_congr (QpsKept.refl s).askAll q⟩
    have hstart (v : State) (y : Qp) (hy : ButCompletions x y) (hv : qpOf v q = y) : ButCompletions x (qpOf (drainCqes n q v).2 q) :=
      hy.trans (hv ▸ ih v)
    split
    · exact hstart _ _ ⟨_, _, rfl⟩ (qpOf_setQp_same _ _ _)
    · extract_lets v
      have hv : qpOf v q = _ := qpOf_setQp_same _ _ _
      refine hstart _ (qpOf v q) ⟨_, _, hv⟩ ?_
      split
      · exact qpOf_congr (QpsKept.refl v).emit q
      · rfl

/-- What an error makes of a queue pair, but for its completions. -/
def qpFailed (x : Qp) (status : Nat) : Qp :=
  { x with state := qsERROR, err := status, wqes := [], segs := [], resend := [], resps := [], timerDue := 0,
           inflight := 0, cpls := [], unackd := 0, marked := [], flushes := [] }

theorem qpFail_butCompletions (q st : Nat) (failing : Option Nat) (s : State) :
    ButCompletions (qpFailed (qpOf s q) st) (qpOf (qpFail q st failing s) q) := by
  unfold qpFail
  extract_lets x due u
  have hu : ButCompletions (qpFailed (qpOf s q) st) (qpOf u q) := ⟨_, _, qpOf_setQp_same _ _ _⟩
  have hdrained : ButCompletions (qpOf u q) (qpOf (drainCqes (qpOf u q).cqes.length q (shtDrop q (fun j => !jbStays j) u)).2 q) :=
    drainCqes_butCompletions _ q (shtDrop q _ u)
  exact (hu.trans hdrained).congr (qpOf_congr (QpsKept.raise (QpsKept.refl _)).emit q)

/-- R420: a queue pair that takes ERROR is reported. -/
theorem stickySet_qpFail (q st : Nat) (failing : Option Nat) (s : State) :
    stickySet (qpFail q st failing s) srcSHT_QP_ERROR (qpEngine q) = true :=
  (Entered.refl _).emit.sticky _ _ (stickySet_raise _ _ _ (by decide))

/-! ### Messages of a queue pair (R311, R314) -/

theorem shtSend_of_route (h : hasRoute s (.region (qpEngine q)) m.hdr = true) : shtSend q m s = emit (.region (qpEngine q)) m s := if_pos h

theorem qpOf_emit (o : Origin) (m : Msg) (s : State) (q : Nat) : qpOf (emit o m s) q = qpOf s q :=
  qpOf_congr (QpsKept.refl s).emit q

/-- What an error leaves owes no acknowledgement. -/
theorem unackd_qpErr {st : Nat} {failing : Option Nat} (h : (qpOf s q).unackd = 0) : (qpOf (qpErr q st failing s) q).unackd = 0 := by
  unfold qpErr
  split
  · exact h
  · obtain ⟨_, _, hfailed⟩ := qpFail_butCompletions q st failing s
    rw [hfailed]
    rfl

theorem unackd_nakFatal {psn st : Nat} (h : (qpOf s q).unackd = 0) : (qpOf (nakFatal q psn st s) q).unackd = 0 := by
  refine unackd_qpErr ?_
  split
  · exact (congrArg Qp.unackd (qpOf_emit _ _ s q)).trans h
  · exact h

/-- A segment that finds no route may end its queue pair, and leaves nothing to acknowledge where nothing was (R296, R314). -/
theorem unackd_shtSend (h : (qpOf s q).unackd = 0) : (qpOf (shtSend q m s) q).unackd = 0 := by
  have hdead {n : Nat} {k : Hdr} : (qpOf (deadTarget s n k) q).unackd = 0 :=
    (congrArg Qp.unackd (qpOf_congr (QpsKept.refl s).deadTarget q)).trans h
  unfold shtSend
  extract_lets
  split
  · exact (congrArg Qp.unackd (qpOf_emit _ _ s q)).trans h
  · split
    · exact unackd_nakFatal hdead
    · exact hdead

theorem qpsKept_foldl_emit {α : Type} (l : List α) (o : Origin) (f : State → α → Msg) (s : State) :
    QpsKept s (l.foldl (fun s a => emit o (f s a) s) s) :=
  (QpsKept.refl s).foldl fun _ _ hr => hr.emit

theorem unackd_sendAck (q psn st : Nat) (s : State) : (qpOf (sendAck q psn st s) q).unackd = 0 := by
  have hset {y : Qp} (hy : y.unackd = 0) : (qpOf (setQp s q y) q).unackd = 0 := by rw [qpOf_setQp_same, hy]
  unfold sendAck
  extract_lets x hit u v
  have hv : (qpOf v q).unackd = 0 := unackd_shtSend (hset rfl)
  unfold sendCpls
  extract_lets hit mine w
  rw [qpOf_congr (qpsKept_foldl_emit mine _ _ w), qpOf_modQp_same]
  exact hv

/-! ### Routes (R367 to R369) -/

namespace OnTheWay

variable {u : State}

theorem refl (s : State) : OnTheWay s s := ⟨rfl, fun _ _ _ => rfl⟩

theorem ports (h : OnTheWay s u) (p : Nat) : portOf u p = portOf s p := by rw [h.frame]; rfl
theorem ground (h : OnTheWay s u) : u.ground = s.ground := by rw [h.frame]

theorem gangReg (h : OnTheWay s u) (p : Nat) : Machine.rdF u (PRT_GANG p) PRT_GANG_WIDTH = Machine.rdF s (PRT_GANG p) PRT_GANG_WIDTH :=
  h.rdF (by decide) (by decide) _

theorem gangBase (h : OnTheWay s u) (p : Nat) : gangBase u p = gangBase s p := by
  rw [Machine.gangBase, Machine.gangBase, h.gangReg, h.gangReg]

theorem linkState (h : OnTheWay s u) (p : Nat) : linkState u p = linkState s p := h.rdF (by decide) (by decide) _

theorem portLive (h : OnTheWay s u) (b : Nat) : portLive u b = portLive s b := by
  have howner : ownerPRG u (b / 16) = ownerPRG s (b / 16) := by
    simp only [ownerPRG, SEC_PART_MEMBERS, h.rdF (o := 0x108) (by decide) (by decide)]
  simp only [Machine.portLive, gangLive, gangWidth, h.gangReg, h.linkState, h.ports, portShut, h.blockFenced, howner, h.partFenced]

theorem shortest (h : OnTheWay s u) (sl tc : Nat) (l : List Nat) : shortest u sl tc l = shortest s sl tc l := by
  induction l with
  | nil => rfl
  | cons p l ih =>
    have hvoq (o : Out) : voq u sl o tc = voq s sl o tc := by rw [voq, voq, h.ground]
    rw [Machine.shortest, Machine.shortest, ih]
    cases Machine.shortest s sl tc l with
    | none => rfl
    | some q => simp only [hvoq]

theorem routeOut (h : OnTheWay s u) (sl : Nat) (k : Hdr) (desc : Bool) : routeOut u sl k desc = routeOut s sl k desc := by
  have hhere : forThisSwitch u k = forThisSwitch s k := by
    simp only [forThisSwitch, groupCopy, idAssigned, h.ownId]
  have hlocal : localOut u sl k = localOut s sl k := by
    simp only [localOut, groupCopy, idAssigned, h.ownId, h.gangBase, h.portLive]
  have hmembers : liveMembers u k desc = liveMembers s k desc := by
    simp only [liveMembers, h.ground, funext h.portLive]
  simp only [Machine.routeOut, hhere, hlocal, hmembers, h.shortest]

/-- A route depends on no counter. -/
theorem hasRoute (h : OnTheWay s u) (o : Origin) (k : Hdr) : hasRoute u o k = hasRoute s o k :=
  congrArg Option.isSome (h.routeOut _ k false)

end OnTheWay

/-! ### A READ_REQ or a FLUSH leaves (R312, R318, R321) -/

theorem mem_of_shtNext_req {w : Wqe} (h : shtNext x = some (.req w)) : w ∈ x.wqes := by
  unfold shtNext at h
  split at h
  · cases h
  split at h
  · simp at h
  split at h
  · split at h <;> cases h
  split at h
  · cases h
  next hfind =>
    split at h <;> split at h <;> cases h
    exact List.mem_of_find?_eq_some hfind

/-- The next request to start is no error where every request is one of Table SHT-3. -/
theorem badNext_of_ok (h : ∀ y ∈ (qpOf s q).wqes, wqeOk y = true) : badNext q s = s := by
  unfold badNext
  extract_lets y
  split
  next w hfind => simp [h w (List.mem_of_find?_eq_some hfind)]
  · rfl

/-- The timer is all of the queue pair that starting it changes. -/
theorem qpOf_startTimer (q psn : Nat) (s : State) :
    ∃ due, qpOf (startTimer q psn s) q = { qpOf s q with timerDue := due } := by
  unfold startTimer
  extract_lets
  split
  · exact ⟨_, qpOf_setQp_same _ _ _⟩
  · exact ⟨_, rfl⟩

theorem startTimer_regs (q psn : Nat) (s : State) : (startTimer q psn s).regs = s.regs := by
  unfold startTimer
  extract_lets
  split <;> rfl

/-- A route depends on nothing of the shuttle (R367 to R369). -/
theorem hasRoute_sht (s : State) (x : Shuttle) (o : Origin) (k : Hdr) : hasRoute { s with sht := x } o k = hasRoute s o k := by
  have hshortest (sl tc : Nat) (l : List Nat) : shortest { s with sht := x } sl tc l = shortest s sl tc l := by
    induction l with
    | nil => rfl
    | cons p l ih => rw [shortest, shortest, ih]; rfl
  simp only [hasRoute, routeOut, hshortest]
  rfl

theorem hasRoute_startTimer (q psn : Nat) (s : State) (o : Origin) (k : Hdr) : hasRoute (startTimer q psn s) o k = hasRoute s o k := by
  unfold startTimer
  extract_lets
  split
  · exact hasRoute_sht s _ o k
  · rfl

theorem hasRoute_countTx (q : Nat) (s : State) (o : Origin) (k : Hdr) : hasRoute (countTx q false s) o k = hasRoute s o k :=
  ((OnTheWay.refl s).progress grSHT (qpEngine q)).hasRoute o k

/-- The header of a READ_REQ or FLUSH names the queue pair's partition, peer and GEN, and this switch (R311). -/
theorem reqMsg_hdr_congr {w : Wqe} {psn : Nat} (hregs : t.regs = s.regs) (hpart : (qpOf t q).part = (qpOf s q).part)
    (hpeer : (qpOf t q).peer = (qpOf s q).peer) (hgen : (qpOf t q).gen = (qpOf s q).gen) :
    (reqMsg t q w psn).hdr = (reqMsg s q w psn).hdr := by
  have hid : ownId t = ownId s := rdF_congr hregs _ _
  unfold reqMsg
  split <;> simp only [shtMsg, hpart, hpeer, hgen, hid]

/-- The PSNs that a request without data segments takes. -/
def reqSpan (w : Wqe) : Nat := if w.op = 3 then cdiv w.len 4096 else 1

/-- The queue pair once a READ_REQ or FLUSH has left. -/
def reqSent (x : Qp) (w : Wqe) : Qp :=
  { putWqe x { w with out := true, span := reqSpan w } with
    sendPsn := padd x.sendPsn (reqSpan w), inflight := x.inflight + 64,
    segs := x.segs ++ [⟨x.sendPsn, reqSpan w, w.id, 0, 0, 64, w.raw⟩] }

theorem wqeOk_of_mem_reqSent {w : Wqe} (hok : ∀ y ∈ x.wqes, wqeOk y = true) (hw : w ∈ x.wqes) :
    ∀ y ∈ (reqSent x w).wqes, wqeOk y = true := by
  intro y hy
  obtain ⟨z, hz, rfl⟩ := List.mem_map.mp hy
  dsimp only
  split
  · exact hok w hw
  · exact hok z hz

/-- A READ_REQ or FLUSH leaves: its queue pair and timer, then its segment. -/
def reqLeft (q : Nat) (w : Wqe) (s u : State) : State := badNext q (shtSend q (reqMsg u q w (qpOf s q).sendPsn) (countTx q false u))

theorem shtItem_req (q : Nat) (w : Wqe) (s : State) :
    shtItem q (.req w) [] s = reqLeft q w s (startTimer q (qpOf s q).sendPsn (setQp s q (reqSent (qpOf s q) w))) := rfl

theorem qpOf_shtItem_req {w : Wqe} (hw : w ∈ (qpOf s q).wqes) (hok : ∀ y ∈ (qpOf s q).wqes, wqeOk y = true)
    (hroute : hasRoute s (.region (qpEngine q)) (reqMsg s q w (qpOf s q).sendPsn).hdr = true) :
    ∃ due, qpOf (shtItem q (.req w) [] s) q = { reqSent (qpOf s q) w with timerDue := due } := by
  rw [shtItem_req]
  obtain ⟨due, hqp⟩ := qpOf_startTimer q (qpOf s q).sendPsn (setQp s q (reqSent (qpOf s q) w))
  have hregs := startTimer_regs q (qpOf s q).sendPsn (setQp s q (reqSent (qpOf s q) w))
  have hkept := hasRoute_startTimer q (qpOf s q).sendPsn (setQp s q (reqSent (qpOf s q) w))
  generalize startTimer q (qpOf s q).sendPsn (setQp s q (reqSent (qpOf s q) w)) = u at hqp hregs hkept ⊢
  rw [qpOf_setQp_same] at hqp
  have hhdr : (reqMsg u q w (qpOf s q).sendPsn).hdr = (reqMsg s q w (qpOf s q).sendPsn).hdr :=
    reqMsg_hdr_congr hregs (congrArg Qp.part hqp :) (congrArg Qp.peer hqp :) (congrArg Qp.gen hqp :)
  have hsend : hasRoute (countTx q false u) (.region (qpEngine q)) (reqMsg u q w (qpOf s q).sendPsn).hdr = true := by
    rw [hasRoute_countTx, hhdr, hkept]
    exact (hasRoute_sht s _ _ _).trans hroute
  rw [reqLeft, shtSend_of_route hsend]
  have hleft : qpOf (emit (.region (qpEngine q)) (reqMsg u q w (qpOf s q).sendPsn) (countTx q false u)) q
      = { reqSent (qpOf s q) w with timerDue := due } := (qpOf_emit _ _ _ q).trans hqp
  refine ⟨due, (congrArg (qpOf · q) (badNext_of_ok fun y hy => ?_)).trans hleft⟩
  exact wqeOk_of_mem_reqSent hok hw y ((congrArg Qp.wqes hleft) ▸ hy)

theorem segmentTx_of_turn {left : Nat} {it : ShtItem} (hsafe : s.flt.safe = false) (hoff : regionOff s true n = false)
    (hon : unitOn s grSHT n = true) (hturn : shtTurn s n = some (q, left)) (hnext : shtNext (qpOf s q) = some it) :
    segmentTx n s = shtPut n q left it s := by
  simp [segmentTx, hsafe, hoff, hon, hturn, hnext]

/-! ### Acknowledgements (R317, R319) -/

theorem releaseTo_state (x : Qp) (una st : Nat) : (releaseTo x una st).state = x.state :=
  List.foldlRecOn (motive := fun y : Qp => y.state = x.state) _ _ rfl fun _ hy _ _ => hy

/-- Requests leave in ring order, so that none leaves before the one at the head is complete (R310). -/
theorem retireWqes_of_incomplete (k : Nat) (h : ((qpOf s q).wqes.head?.any fun w => w.complete) = false) : retireWqes k q s = s := by
  cases k with
  | zero => rfl
  | succ k =>
    unfold retireWqes
    split
    · rfl
    next w r hwqes =>
      have hw : w.complete = false := by simpa [hwqes] using h
      simp [hw]

theorem settleQp_of_incomplete (hstate : (qpOf s q).state = qsRTS) (h : ((qpOf s q).wqes.head?.any fun w => w.complete) = false) :
    settleQp q s = s := by
  have hdrain : ¬((qpOf s q).state = qsDRAINING ∧ (qpOf s q).wqes.isEmpty ∧ (qpOf s q).cqes.isEmpty) := by
    rw [hstate]
    exact fun hd => absurd hd.1 (by decide)
  rw [settleQp, retireWqes_of_incomplete _ h]
  exact if_neg hdrain

/-- The queue pair once an ACK has released the segments that it covers. -/
def ackTaken (x : Qp) (m : Msg) (due window clean : Nat) : Qp :=
  { releaseTo x (padd (smPsn m) 1) (smStatus m) with
    unaPsn := padd (smPsn m) 1, retries := 0, timerDue := due, window := window, clean := clean }

/-- An ACK without ECHO that reaches new segments and completes no request at the head does no more than release them. -/
theorem ackIn_of_advance (h : ToQp s n q m) (hstate : (qpOf s q).state = qsRTS) (hecho : smEcho m = false)
    (hnew : 0 < psub (padd (smPsn m) 1) (qpOf s q).unaPsn)
    (hsent : psub (padd (smPsn m) 1) (qpOf s q).unaPsn ≤ psub (qpOf s q).sendPsn (qpOf s q).unaPsn)
    (hhead : ((releaseTo (qpOf s q) (padd (smPsn m) 1) (smStatus m)).wqes.head?.any fun w => w.complete) = false) :
    ∃ p due window clean, ackIn m s = setQp (shtDrop q p s) q (ackTaken (qpOf s q) m due window clean) := by
  have hsettled (u : State) (due window clean : Nat) :
      settleQp q (setQp u q (ackTaken (qpOf s q) m due window clean)) = setQp u q (ackTaken (qpOf s q) m due window clean) := by
    refine settleQp_of_incomplete ?_ ?_ <;> rw [qpOf_setQp_same]
    · exact (releaseTo_state _ _ _).trans hstate
    · exact hhead
  have hengine := engine_of_toQp h
  obtain ⟨-, -, -, -, -, rfl, htakes, hack⟩ := h
  have htaken : ∃ p due window clean,
      ackIn m s = settleQp (shtQp m) (setQp (shtDrop (shtQp m) p s) (shtQp m) (ackTaken (qpOf s (shtQp m)) m due window clean)) := by
    unfold ackIn
    extract_lets k q u x una adv y bytes z lo hi halve taken v
    have hu : u = s := cplNow_of_notAck _ _ _ hack
    clear_value u
    subst hu
    have hhalve : halve = false := by simp [halve, hecho]
    have htaken : ∃ due window clean, taken = ackTaken (qpOf u (shtQp m)) m due window clean := by
      have hz : ∃ due, z = { y with unaPsn := una, retries := 0, timerDue := due } := ⟨_, if_neg (Nat.pos_iff_ne_zero.mp hnew)⟩
      obtain ⟨due, hz⟩ := hz
      clear_value z bytes hi lo halve
      subst hz hhalve
      simp only [taken, hecho, Bool.false_eq_true, if_false]
      generalize growWindow _ _ _ _ = grown
      obtain ⟨window, clean⟩ := grown
      exact ⟨_, window, clean, rfl⟩
    obtain ⟨due, window, clean, htaken⟩ := htaken
    have hon : ¬(!shtTakes u k q) = true := by simp [k, q, hengine, htakes]
    rw [if_neg hon, if_neg (Nat.not_lt.mpr hsent), hhalve, htaken]
    exact ⟨_, due, window, clean, rfl⟩
  obtain ⟨p, due, window, clean, htaken⟩ := htaken
  exact ⟨p, due, window, clean, htaken.trans (hsettled _ _ _ _)⟩

/-- A new NAK SEQ makes every segment due again (R321). -/
theorem nakIn_of_seq (h : ToQp s n q m) (hst : smStatus m = shSEQ) (hnew : (qpOf s q).nakSeq ≠ some (smPsn m)) :
    nakIn m s = setQp s q (goBack { qpOf s q with nakSeq := some (smPsn m) }) := by
  have hengine := engine_of_toQp h
  obtain ⟨-, -, -, -, -, rfl, htakes, hack⟩ := h
  simp [nakIn, hengine, htakes, cplNow_of_notAck _ _ _ hack, hst, hnew]

theorem ackDelay_of_owed (hstate : (qpOf s q).state = qsRTS) (howed : (qpOf s q).unackd ≠ 0) (hflush : (qpOf s q).flushes = []) :
    ackDelay q s = sendAck q (psub (qpOf s q).recvPsn 1) stOK s := by
  simp [ackDelay, hstate, howed, ackable, hflush]

/-- A timer that expires below the limit counts, and makes every segment due again (R321). -/
theorem shtExpiry_of_retry (hstate : (qpOf s q).state = qsRTS) (hsegs : (qpOf s q).segs ≠ [])
    (hlimit : (qpOf s q).retries + 1 < rdF s (SHT_RETRY (qpEngine q)) SHT_RETRY_LIMIT) :
    ∃ due, shtExpiry q s = setQp (bump s (SHT_RETRIES (qpEngine q))) q
      { goBack { qpOf s q with retries := (qpOf s q).retries + 1 } with timerDue := due } := by
  have hruns : ¬(((qpOf s q).state ≠ qsRTS ∧ (qpOf s q).state ≠ qsDRAINING) ∨ (qpOf s q).segs.isEmpty) := by simp [hstate, hsegs]
  have hkept : rdF (bump s (SHT_RETRIES (qpEngine q))) (SHT_RETRY (qpEngine q)) SHT_RETRY_LIMIT
      = rdF s (SHT_RETRY (qpEngine q)) SHT_RETRY_LIMIT :=
    rdF_bump_other s 1 _ (csrAddr_ne_of_off (by decide))
  have hbelow : ¬max 1 (rdF (bump s (SHT_RETRIES (qpEngine q))) (SHT_RETRY (qpEngine q)) SHT_RETRY_LIMIT) ≤ (qpOf s q).retries + 1 := by
    rw [hkept]
    omega
  unfold shtExpiry
  extract_lets n x u
  rw [if_neg hruns, if_neg hbelow]
  exact ⟨_, rfl⟩

/-! ### Revoked registrations (R325) -/

theorem shtReg_congr (h : t.sht.regs = s.sht.regs) (i : Nat) : shtReg t i = shtReg s i := by rw [shtReg, shtReg, h]

theorem revokeDone_of_drained {i : Nat} (hstate : (shtReg s i).state = 2) (hdrained : regPlaces s i = []) :
    shtReg (revokeDone i s) i = { keygen := ((shtReg s i).keygen + 1) % 256 } := by
  unfold revokeDone
  extract_lets r u
  rw [if_pos ⟨hstate, by rw [hdrained]; rfl⟩]
  exact (shtReg_congr (congrArg Shuttle.regs (Entered.refl u).emit.sht) i).trans (shtReg_setShtReg_same _ _ _)

/-- Of the shuttle's state, only queue pairs have changed, and `q` has no receive and no FLUSH to end. -/
structure NoneToEnd (q : Nat) (s t : State) : Prop where
  frame : ∃ qps, t.sht = { s.sht with qps := qps }
  recvs : (qpOf t q).recvs = []
  flushes : (qpOf t q).flushes = []

namespace NoneToEnd

theorem modQp {f : Qp → Qp} (h : NoneToEnd q s t) (hrecvs : ∀ x, (f x).recvs = x.recvs) (hflushes : ∀ x, (f x).flushes = x.flushes) :
    NoneToEnd q s (modQp t q f) := by
  obtain ⟨⟨qps, hframe⟩, hr, hf⟩ := h
  refine ⟨⟨(Machine.modQp t q f).sht.qps, ?_⟩, ?_, ?_⟩
  · rw [show (Machine.modQp t q f).sht = { t.sht with qps := (Machine.modQp t q f).sht.qps } from rfl, hframe]
  · rw [qpOf_modQp_same, hrecvs, hr]
  · rw [qpOf_modQp_same, hflushes, hf]

theorem shtNotify {n ep op idx st detail : Nat} (h : NoneToEnd q s t) : NoneToEnd q s (shtNotify n ep op idx st detail t) := by
  have hsht : (Machine.shtNotify n ep op idx st detail t).sht = t.sht := (Entered.refl t).emit.sht
  have hqp := qpOf_congr (congrArg Shuttle.qps hsht) q
  obtain ⟨hframe, hrecvs, hflushes⟩ := h
  exact ⟨hsht ▸ hframe, hqp ▸ hrecvs, hqp ▸ hflushes⟩

end NoneToEnd

/-- The end of a placement that is of no READ and no receive changes nothing of the shuttle but queue pairs, where no receive and
no FLUSH waits (R316, R317). -/
theorem placeEnded_sht {p : Place} (st : Nat) (hread : p.read = none) (hrecv : p.recv = none) (hrecvs : (qpOf s q).recvs = [])
    (hflushes : (qpOf s q).flushes = []) : ∃ qps, (placeEnded q p st s).sht = { s.sht with qps := qps } := by
  have herased : NoneToEnd q s (modQp s q fun x => { x with places := x.places.erase p }) :=
    NoneToEnd.modQp ⟨⟨_, rfl⟩, hrecvs, hflushes⟩ (fun _ => rfl) fun _ => rfl
  unfold placeEnded
  simp only [hread, hrecv]
  generalize modQp s q _ = u at herased ⊢
  have htold : NoneToEnd q s (if st ≠ stOK then shtNotify (qpEngine q) (qpOf u q).owner 0x23 (q % 2048) st p.psn
      (modQp u q fun x => { x with fails := x.fails ++ [(p.psn, st)] }) else u) := by
    split
    · exact .shtNotify (herased.modQp (fun _ => rfl) fun _ => rfl)
    · exact herased
  obtain ⟨hframe, hr, hf⟩ := htold
  simp only [hr, hf, List.length_nil, retireRecvs, tryFlush]
  exact hframe

theorem revokeLate_of_one {i : Nat} {p : Place} (hstate : (shtReg s i).state = 2) (hplaces : regPlaces s i = [(q, p)]) :
    ∃ keep, revokeLate i s = raise srcSHT_REVOKE_LATE 0 (setShtReg
      (placeEnded q p stTIER_LATE (shtDrop q keep { s with sht := { s.sht with late := s.sht.late ++ [(q, p.psn)] } }))
      i { shtReg s i with ended := (shtReg s i).ended + 1 }) :=
  ⟨(· == jbPlace p.psn false), by simp [revokeLate, hstate, hplaces]⟩

/-! ### O48 and O50 -/

/-- Settles O48: a doorbell of the owner is an update of the indices or an error of the queue pair, which only completions follow; the
read and the start of a request are their equations; a request that leaves changes its queue pair before its segment is sent. -/
theorem shuttleRequests : Obligations.ShuttleRequests := by
  unfold Obligations.ShuttleRequests
  refine ⟨?within, ?past, ?read, ?start, ?leave⟩
  case within =>
    intro s n q m h hint hsrc hsq hsq' hrq hrq' hcq
    have hwithin : doorbellPast (qpOf s q) m = false := by
      simp only [doorbellPast, Bool.or_eq_false_iff, decide_eq_false_iff_not, Nat.not_lt, Nat.not_le]
      exact ⟨⟨⟨⟨hsq, hsq'⟩, hrq⟩, hrq'⟩, hcq⟩
    show done (atEngine n m (doorbell m) s) = _
    rw [atEngine_of_toQp _ h, doorbell_of_owner h hint hsrc, hwithin]
    rfl
  case past =>
    intro s n q m h hint hsrc hsq hnone
    have hpast : doorbellPast (qpOf s q) m = true := by simp [doorbellPast, hsq]
    have htakes := takes_of_toQp h
    have hengine := qpEngine_of_takes htakes
    refine ⟨doorbell m s, congrArg done (atEngine_of_toQp _ h), ?_⟩
    rw [doorbell_of_owner h hint hsrc, if_pos hpast, qpErr_of_live _ _ (state_of_takes htakes)]
    obtain ⟨cqes, tail, hfailed⟩ := qpFail_butCompletions q shRING none s
    rw [hfailed]
    exact ⟨rfl, rfl, hengine ▸ stickySet_qpFail q shRING none s⟩
  case read =>
    intro s q hstate hone hhead
    exact congrArg done (sqReadDone_of_one hstate hone hhead)
  case start =>
    rintro s q op w hstate hnext hop hok hout hfence t rfl
    have hstart := wqeStart_of_next hstate hnext hop hok hout hfence
    refine ⟨?_, ?_, ?_, ?_⟩ <;> rintro rfl <;> exact congrArg done hstart
  case leave =>
    intro s n q left w hn hsafe hoff hon hturn hnext hengine hok hroute
    subst hengine
    obtain ⟨due, hsent⟩ := qpOf_shtItem_req (mem_of_shtNext_req hnext) hok hroute
    refine ⟨segmentTx (qpEngine q) s, rfl, ?_⟩
    rw [segmentTx_of_turn hsafe hoff hon hturn hnext]
    have hqp : qpOf (shtPut (qpEngine q) q left (.req w) s) q = { reqSent (qpOf s q) w with timerDue := due } := hsent
    rw [hqp]
    exact ⟨rfl, rfl, rfl⟩

/-- Settles O50: an ACK that completes no request at the head ends with the released queue pair; NAK SEQ and the retry timer go
back to the segments unacknowledged; what ends a registration's placements changes nothing else of the shuttle but queue pairs. -/
theorem shuttleAcknowledgement : Obligations.ShuttleAcknowledgement := by
  unfold Obligations.ShuttleAcknowledgement
  refine ⟨?ack, ?nak, ?delay, ?timer, ?revoked, ?late⟩
  case ack =>
    intro s n q m h hstate hecho hnew hsent hhead
    obtain ⟨p, due, window, clean, hack⟩ := ackIn_of_advance h hstate hecho hnew hsent hhead
    refine ⟨ackIn m s, congrArg done (atEngine_of_toQp _ h), ?_⟩
    rw [hack, qpOf_setQp_same]
    exact ⟨rfl, rfl, rfl, rfl, rfl, rfl⟩
  case nak =>
    intro s n q m h hst hnew
    show done (atEngine n m (nakIn m) s) = _
    rw [atEngine_of_toQp _ h, nakIn_of_seq h hst hnew]
    rfl
  case delay =>
    intro s q hstate howed hflush
    refine ⟨ackDelay q s, rfl, ?_⟩
    rw [ackDelay_of_owed hstate howed hflush]
    exact ⟨rfl, unackd_sendAck q _ stOK s⟩
  case timer =>
    intro s q hq hstate hsegs hlimit
    obtain ⟨due, hretry⟩ := shtExpiry_of_retry hstate hsegs hlimit
    refine ⟨shtExpiry q s, rfl, ?_⟩
    rw [hretry, qpOf_setQp_same]
    exact ⟨rfl, rfl, (rdReg_bump s _ _ 1).trans (if_pos rfl)⟩
  case revoked =>
    intro s i hstate hdrained
    refine ⟨revokeDone i s, rfl, ?_⟩
    rw [revokeDone_of_drained hstate hdrained]
    exact ⟨rfl, rfl⟩
  case late =>
    intro s i q p hstate hplaces hread hrecv hrecvs hflushes
    obtain ⟨keep, hlate⟩ := revokeLate_of_one hstate hplaces
    refine ⟨revokeLate i s, rfl, ?_⟩
    rw [hlate]
    obtain ⟨qps, hended⟩ := placeEnded_sht (s := shtDrop q keep { s with sht := { s.sht with late := s.sht.late ++ [(q, p.psn)] } })
      stTIER_LATE hread hrecv hrecvs hflushes
    generalize placeEnded _ _ _ _ = u at hended ⊢
    have hraised (v : State) : (raise srcSHT_REVOKE_LATE 0 v).sht = v.sht := (Entered.refl v).raise.sht
    refine ⟨?_, stickySet_raise _ _ _ (by decide), ?_⟩
    · rw [shtReg_congr (congrArg Shuttle.regs (hraised _)), shtReg_setShtReg_same]
    · rw [hraised]
      exact congrArg Shuttle.late hended

end Sys2Proof.Machine
end

section
/-! PROOFS. O19 and O21: how a link trains, and what the blocks of TRAIN flits bring (R339, R340, R342, Table LNK-4). -/

namespace Sys2Proof.Machine

variable {s u : State} {p : Nat}

/-! ### Ports and link states after an update -/

theorem portOf_modPort_same (s : State) (p : Nat) (f : Port → Port) : portOf (modPort s p f) p = f (portOf s p) := portOf_setPort_same _ _ _

/-- What an update of a port keeps of every port. -/
theorem portOf_modPort_keeps {α : Type} (s : State) (p q : Nat) {f : Port → Port} (g : Port → α) (h : ∀ x, g (f x) = g x) :
    g (portOf (modPort s p f) q) = g (portOf s q) := by
  by_cases hq : q = p
  · rw [hq, portOf_modPort_same, h]
  · exact congrArg g ((onlyPort_setPort s p _).2 q hq)

@[simp] theorem modPort_regs (s : State) (p : Nat) (f : Port → Port) : (modPort s p f).regs = s.regs := rfl

theorem linkState_congr (h : u.regs = s.regs) (p : Nat) : linkState u p = linkState s p := rdF_congr h _ _

theorem linkState_setLink (s : State) (p st : Nat) : linkState (setLink s p st) p = st % 8 := rdF_wrF_same s _ _ _ (by decide)

theorem linkState_raise {f : Src} (n : Nat) (s : State) (hbit : f.bit ≠ 15) : linkState (raise f n s) p = linkState s p :=
  congrArg (Fld.get _) (rdReg_raise_csrAddr n p s hbit (by decide))

/-! ### Training events (Table LNK-4) -/

/-- A port enters a training state: no register but PRT_LINK_STATE changes. -/
theorem setLink_effect (s : State) (p : Nat) {st : Nat} (h : st < 8) :
    linkState (setLink s p st) p = st ∧ OnlyRegs [PRT_LINK_STATE p] s (setLink s p st) :=
  ⟨(linkState_setLink s p st).trans (Nat.mod_eq_of_lt h), onlyRegs_wrReg s _ _⟩

theorem linkDetect_of_detect (h : linkState s p = lsDETECT) : linkDetect p s = setLink s p lsEQUALIZE := if_pos h

theorem equalizeDone_of_equalize (h : linkState s p = lsEQUALIZE) : equalizeDone p s = setLink s p lsALIGN := if_pos h

theorem alignLock_of_align (h : linkState s p = lsALIGN) : alignLock p s = setLink s p lsPARAM := if_pos h

theorem alignLock_of_retrain (h : linkState s p = lsRETRAIN) :
    alignLock p s = setPort s p { portOf s p with locked := true } := by
  have hne : ¬linkState s p = lsALIGN := by rw [h]; decide
  exact (if_neg hne).trans (if_pos h)

theorem autoRetry_of_down (h : linkState s p = lsDOWN) (hauto : linkCfg s p PRT_LINK_CFG_AUTO_RETRY ≠ 0) (hloop : (portOf s p).looped = false) :
    autoRetry p s = setLink s p lsDETECT := by
  simp [autoRetry, h, hauto, hloop]

/-! ### TRAIN flits that are sent (R340) -/

/-- A flit that reports no release is counted in PRT_FLITS_TX and as progress of its port (R424). -/
theorem onTheWay_sendBare (s : State) (p : Nat) (body : Bytes) (t : Trailer) :
    OnTheWay (modPort s p fun x => { x with out := mkFlit body t }) (sendBare s p body t) :=
  ((OnTheWay.refl _).bump (.inr (by decide))).progress grPRT p

theorem portOf_sendBare (s : State) (p : Nat) (body : Bytes) (t : Trailer) : (portOf (sendBare s p body t) p).out = mkFlit body t := by
  rw [(onTheWay_sendBare s p body t).ports, portOf_modPort_same]

theorem linkState_sendBare (s : State) (p : Nat) (body : Bytes) (t : Trailer) : linkState (sendBare s p body t) p = linkState s p := by
  rw [(onTheWay_sendBare s p body t).linkState, linkState_congr (modPort_regs _ _ _)]

theorem rdReg_sendBare_flitsTx (s : State) (p : Nat) (body : Bytes) (t : Trailer) :
    rdReg (sendBare s p body t) (PRT_FLITS_TX p) = rdReg s (PRT_FLITS_TX p) + 1 := by
  have hne : PRT_FLITS_TX p ≠ G_PROGRESS grPRT p 0 := csrAddr_ne_of_off (by decide)
  rw [sendBare, progress, rdReg_bump, if_neg hne, rdReg_bump, if_pos rfl]
  exact congrArg (· + 1) (rdReg_congr (modPort_regs _ _ _) _)

/-- The port sends its block, and its gang notes the credits that it has announced. -/
theorem trainTx_of_training (hsafe : s.flt.safe = false) (h : training (linkState s p) = true) :
    ∃ b f, (∀ x : Port, (f x).out = x.out)
      ∧ trainTx p s = modPort (sendBare s p (trainBody s p) ⟨(portOf s p).nextSeq, 0, 0, 0, kTRAIN, false⟩) b f := by
  have hsend : (!s.flt.safe && training (linkState s p)) = true := by simp [hsafe, h]
  rw [trainTx, if_pos hsend]
  refine ⟨_, _, ?_, rfl⟩
  exact fun _ => rfl

/-- Settles O19, one event after another; a TRAIN flit then changes nothing of what a link state shows. -/
theorem linkTrains : Obligations.LinkTrains := by
  unfold Obligations.LinkTrains
  refine ⟨?detect, ?equalize, ?align, ?relock, ?retry, ?send⟩
  case detect => exact fun s p h => ⟨_, congrArg done (linkDetect_of_detect h), setLink_effect s p (by decide)⟩
  case equalize => exact fun s p h => ⟨_, congrArg done (equalizeDone_of_equalize h), setLink_effect s p (by decide)⟩
  case align => exact fun s p h => ⟨_, congrArg done (alignLock_of_align h), setLink_effect s p (by decide)⟩
  case relock =>
    refine fun s p h => ⟨_, congrArg done (alignLock_of_retrain h), ?_, onlyPort_setPort s p _⟩
    rw [portOf_setPort_same]
  case retry => exact fun s p h hauto hloop => ⟨_, congrArg done (autoRetry_of_down h hauto hloop), setLink_effect s p (by decide)⟩
  case send =>
    intro s p hsafe h
    obtain ⟨b, f, hout, hsent⟩ := trainTx_of_training hsafe h
    refine ⟨_, congrArg done hsent, ?_, ?_, ?_⟩
    · rw [portOf_modPort_keeps _ b p Port.out hout, portOf_sendBare]
    · rw [rdReg_congr (modPort_regs _ _ _), rdReg_sendBare_flitsTx]
    · rw [linkState_congr (modPort_regs _ _ _), linkState_sendBare]

/-! ### A TRAIN flit arrives (R342) -/

/-- The state once a good TRAIN flit has been counted: it is progress of the port (R424), and it ends a run of FAULT_IDLE flits. -/
def trainHeard (p : Nat) (s : State) : State :=
  modPort (progress (bump (bump s (PRT_FEC_CORR p) 0) (PRT_FLITS_RX p)) grPRT p) p fun x => { x with faultRun := 0 }

/-- The role that a block gives its port is compared with the port's own. -/
def roleChecked (p : Nat) (pe : Peer) (s : State) : State := if (pe.role == 0) != trustedPort s p then raise srcPRT_LINK_ROLE p s else s

/-- An accepted block is kept, and whether the peer has this port's block. -/
def peerKept (p : Nat) (pe : Peer) (acked : Bool) (s : State) : State :=
  modPort (roleChecked p pe s) p fun x => { x with peer := some pe, ownAcked := acked }

/-- R342: what the block of a TRAIN flit brings a port in PARAM. -/
def blockTaken (p : Nat) (f : Bytes) (s : State) : State :=
  let pe := Peer.ofBody f
  if leAt f 0 1 ≠ 1 ∨ pe.credits.any (· == 0) ∨ pe.gang ≠ ownGang s p then
    raise srcPRT_LINK_PARAM p (modPort s p fun x => { x with peer := none })
  else
    let acked := (portOf (roleChecked p pe s) p).ownAcked || leAt f 25 1 == 1
    if acked then linkActive p pe (peerKept p pe acked s) else peerKept p pe acked s

/-- A good TRAIN flit reaches a port in PARAM. -/
structure TrainInParam (s : State) (p : Nat) (f : Bytes) : Prop where
  safe : s.flt.safe = false
  state : linkState s p = lsPARAM
  ok : flitOk f = true
  kind : (trailerOf f).kind = kTRAIN

/-- Table LNK-5: a block that a port can accept: its VERSION, its credits and its GANG. -/
def BlockValid (s : State) (p : Nat) (f : Bytes) : Prop :=
  leAt f 0 1 = 1 ∧ (Peer.ofBody f).credits.any (· == 0) = false ∧ (Peer.ofBody f).gang = ownGang s p

theorem onTheWay_counted (s : State) (p : Nat) : OnTheWay s (progress (bump (bump s (PRT_FEC_CORR p) 0) (PRT_FLITS_RX p)) grPRT p) :=
  (((OnTheWay.refl s).bump (.inr (by decide)) 0).bump (.inr (by decide))).progress grPRT p

theorem linkState_trainHeard (s : State) (p : Nat) : linkState (trainHeard p s) p = linkState s p :=
  (linkState_congr (modPort_regs _ _ _) p).trans ((onTheWay_counted s p).linkState p)

theorem ownGang_trainHeard (s : State) (p : Nat) : ownGang (trainHeard p s) p = ownGang s p := by
  have hgang (q : Nat) : rdF (trainHeard p s) (PRT_GANG q) PRT_GANG_WIDTH = rdF s (PRT_GANG q) PRT_GANG_WIDTH :=
    (rdF_congr (modPort_regs _ _ _) _ _).trans ((onTheWay_counted s p).gangReg q)
  simp only [ownGang, gangBase, hgang]

theorem portOf_trainHeard (s : State) (p : Nat) : portOf (trainHeard p s) p = { portOf s p with faultRun := 0 } := by
  rw [trainHeard, portOf_modPort_same, (onTheWay_counted s p).ports]

theorem ground_trainHeard (s : State) (p : Nat) : (trainHeard p s).ground = s.ground := by
  simp [trainHeard, modPort, progress]

/-- R342: a good TRAIN flit brings a port in PARAM its block. -/
theorem rxTrain_of_param {f : Bytes} (h : TrainInParam s p f) : rxFlit p 0 none (rxTrain p f) s = blockTaken p f (trainHeard p s) := by
  obtain ⟨hsafe, hstate, hok, hkind⟩ := h
  have hcounted : OnTheWay s (bump s (PRT_FEC_CORR p) 0) := (OnTheWay.refl s).bump (.inr (by decide)) 0
  have hparam : linkState (bump s (PRT_FEC_CORR p) 0) p = lsPARAM := (hcounted.linkState p).trans hstate
  have hgo : ¬((trailerOf f).kind ≠ kTRAIN ∨ ¬(linkState (bump s (PRT_FEC_CORR p) 0) p = lsPARAM
      ∨ (linkState (bump s (PRT_FEC_CORR p) 0) p = lsRETRAIN ∧ (portOf (bump s (PRT_FEC_CORR p) 0) p).locked = true))) := by
    simp [hkind, hparam]
  rw [rxFlit, rxTrain, hok, hcounted.flt, hsafe, if_neg (by decide), if_neg (by decide)]
  dsimp only
  rw [if_neg hgo]
  rfl

theorem blockTaken_of_invalid {f : Bytes} (h : leAt f 0 1 ≠ 1 ∨ (Peer.ofBody f).credits.any (· == 0) = true ∨ (Peer.ofBody f).gang ≠ ownGang s p) :
    blockTaken p f s = raise srcPRT_LINK_PARAM p (modPort s p fun x => { x with peer := none }) := if_pos h

/-- The source that compares roles leaves the ports, their states and the ground as they are. -/
theorem roleChecked_effect (p : Nat) (pe : Peer) (s : State) :
    portOf (roleChecked p pe s) = portOf s ∧ linkState (roleChecked p pe s) p = linkState s p ∧ (roleChecked p pe s).ground = s.ground := by
  have hframe := raise_frame srcPRT_LINK_ROLE p s
  have hlink := linkState_raise (p := p) (f := srcPRT_LINK_ROLE) p s (by decide)
  unfold roleChecked
  split
  · exact ⟨by rw [hframe]; rfl, hlink, by rw [hframe]⟩
  · exact ⟨rfl, rfl, rfl⟩

theorem peerKept_effect (p : Nat) (pe : Peer) (acked : Bool) (s : State) :
    (portOf (peerKept p pe acked s) p).peer = some pe ∧ linkState (peerKept p pe acked s) p = linkState s p
      ∧ (peerKept p pe acked s).ground = s.ground := by
  obtain ⟨-, hlink, hground⟩ := roleChecked_effect p pe s
  refine ⟨?_, ?_, hground⟩
  · rw [peerKept, portOf_modPort_same]
  · rw [peerKept, linkState_congr (modPort_regs _ _ _), hlink]

/-- R342: a valid block is kept; once the peer has this port's block too, the port becomes ACTIVE. -/
theorem rxTrain_of_valid {f : Bytes} (h : TrainInParam s p f) (hvalid : BlockValid s p f) :
    rxFlit p 0 none (rxTrain p f) s =
      let acked := (portOf s p).ownAcked || leAt f 25 1 == 1
      let u := peerKept p (Peer.ofBody f) acked (trainHeard p s)
      if acked then linkActive p (Peer.ofBody f) u else u := by
  obtain ⟨hversion, hcredits, hgang⟩ := hvalid
  rw [rxTrain_of_param h, blockTaken]
  dsimp only
  rw [if_neg (by simp [hversion, hcredits, hgang, ownGang_trainHeard]), (roleChecked_effect p (Peer.ofBody f) _).1, portOf_trainHeard]

/-! ### The port becomes ACTIVE (R339, Table LNK-4) -/

/-- What PRT_LINK_STATE shows of the peer. -/
def peerShown (p : Nat) (pe : Peer) (s : State) : State :=
  let s := wrF (setLink s p lsACTIVE) (PRT_LINK_STATE p) PRT_LINK_STATE_PEER_ROLE pe.role
  let s := wrF s (PRT_LINK_STATE p) PRT_LINK_STATE_PEER_SWITCH pe.switch
  let s := wrF s (PRT_LINK_STATE p) PRT_LINK_STATE_PEER_PORT pe.port
  let s := wrF s (PRT_LINK_STATE p) PRT_LINK_STATE_PEER_VEPS pe.veps
  showLive (gangBase s p) s

/-- Out of PARAM the link is a new one. -/
theorem linkActive_of_param (pe : Peer) (h : linkState s p = lsPARAM) :
    linkActive p pe s = modPort (peerShown p pe (newLink p pe s)) p fun x => { x with prev := some pe } := by
  rw [linkActive]
  dsimp only
  have hother : (lsPARAM == lsRETRAIN) = false := by decide
  rw [h, hother, Bool.false_and, Bool.false_and, if_neg (by decide)]
  rfl

/-- A field reads as before where another is set that it does not overlap, of whichever register. -/
theorem rdF_wrF_apart (s : State) (a b : Nat) (f g : Fld) (v : Nat) (h : g.lo + g.width ≤ f.lo ∨ f.lo + f.width ≤ g.lo) :
    rdF (wrF s a f v) b g = rdF s b g := by
  by_cases hb : b = a
  · rw [hb, rdF_wrF_field s a f g v h]
  · exact rdF_wrF_other s f g v hb

theorem linkState_peerShown (p : Nat) (pe : Peer) (s : State) : linkState (peerShown p pe s) p = lsACTIVE := by
  simp only [peerShown, showLive, linkState]
  rw [rdF_wrF_apart _ _ _ _ _ _ (by decide), rdF_wrF_apart _ _ _ _ _ _ (by decide), rdF_wrF_apart _ _ _ _ _ _ (by decide),
    rdF_wrF_apart _ _ _ _ _ _ (by decide), rdF_wrF_apart _ _ _ _ _ _ (by decide)]
  exact linkState_setLink s p lsACTIVE

theorem peerSwitch_peerShown (p : Nat) (pe : Peer) (s : State) :
    rdF (peerShown p pe s) (PRT_LINK_STATE p) PRT_LINK_STATE_PEER_SWITCH = pe.switch % 2 ^ 12 := by
  simp only [peerShown, showLive]
  rw [rdF_wrF_apart _ _ _ _ _ _ (by decide), rdF_wrF_apart _ _ _ _ _ _ (by decide), rdF_wrF_apart _ _ _ _ _ _ (by decide)]
  exact rdF_wrF_same _ _ _ _ (by decide)

theorem portOf_peerShown (p : Nat) (pe : Peer) (s : State) : portOf (peerShown p pe s) = portOf s := rfl

/-- R390: where no flit is queued, a flush of a port changes nothing beyond the ground but one counter. -/
theorem ports_flushPort_of_empty (b st : Nat) (hcells : s.ground.cells = []) (hwaiting : s.ground.waiting = []) :
    (flushPort b st s).ports = s.ports := by
  simp only [flushPort, hcells, hwaiting]
  rfl

theorem portOf_congr (h : u.ports = s.ports) (p : Nat) : portOf u p = portOf s p := congrArg (sget _ · p) h

theorem portOf_withGround (s : State) (g : Ground) (p : Nat) : portOf { s with ground := g } p = portOf s p := rfl

/-- A new link keeps the peer's block. -/
theorem peer_newLink (p : Nat) (pe : Peer) (hcells : s.ground.cells = []) (hwaiting : s.ground.waiting = []) :
    (portOf (newLink p pe s) p).peer = (portOf s p).peer := by
  have hflush (b : Nat) (f : Port → Port) : portOf (flushPort b stPORT_DOWN (modPort s p f)) p = portOf (modPort s p f) p :=
    portOf_congr (ports_flushPort_of_empty (s := modPort s p f) b stPORT_DOWN hcells hwaiting) p
  rw [newLink]
  dsimp only
  split
  · rw [portOf_withGround, portOf_modPort_keeps (g := Port.peer) (h := ?_), hflush, portOf_modPort_keeps (g := Port.peer) (h := ?_)]
    all_goals exact fun _ => rfl
  · rw [portOf_modPort_keeps (g := Port.peer) (h := ?_)]
    exact fun _ => rfl

/-- R342: the port is ACTIVE and shows the peer; it has its block. -/
theorem linkActive_effect (pe : Peer) (h : linkState s p = lsPARAM) (hcells : s.ground.cells = []) (hwaiting : s.ground.waiting = []) :
    (portOf (linkActive p pe s) p).peer = (portOf s p).peer ∧ linkState (linkActive p pe s) p = lsACTIVE
      ∧ rdF (linkActive p pe s) (PRT_LINK_STATE p) PRT_LINK_STATE_PEER_SWITCH = pe.switch % 2 ^ 12 := by
  rw [linkActive_of_param pe h]
  refine ⟨?_, ?_, ?_⟩
  · rw [portOf_modPort_keeps (g := Port.peer) (h := ?_), portOf_peerShown, peer_newLink p pe hcells hwaiting]
    exact fun _ => rfl
  · rw [linkState_congr (modPort_regs _ _ _), linkState_peerShown]
  · rw [rdF_congr (modPort_regs _ _ _), peerSwitch_peerShown]

theorem ofBody_switch_lt (f : Bytes) : (Peer.ofBody f).switch < 2 ^ 12 := Nat.mod_lt _ (by decide)

/-- Settles O21: a block is kept, kept with the link ACTIVE, or refused. -/
theorem linkActiveByParameters : Obligations.LinkActiveByParameters := by
  unfold Obligations.LinkActiveByParameters
  refine ⟨?kept, ?active, ?refused⟩
  case kept =>
    intro s p f hsafe hstate hok hkind hversion hcredits hgang hown hpeer
    have hacked : ((portOf s p).ownAcked || leAt f 25 1 == 1) = false := by simp [hown, hpeer]
    obtain ⟨hpeer, hlink, -⟩ := peerKept_effect p (Peer.ofBody f) false (trainHeard p s)
    have htaken := rxTrain_of_valid ⟨hsafe, hstate, hok, hkind⟩ ⟨hversion, hcredits, hgang⟩
    rw [hacked] at htaken
    exact ⟨_, congrArg done htaken, hpeer, hlink.trans ((linkState_trainHeard s p).trans hstate)⟩
  case active =>
    intro s p f hsafe hstate hcells hwaiting hok hkind hversion hcredits hgang hacked
    have hacked : ((portOf s p).ownAcked || leAt f 25 1 == 1) = true := by simpa using hacked
    obtain ⟨hpeer, hlink, hground⟩ := peerKept_effect p (Peer.ofBody f) true (trainHeard p s)
    have htaken := rxTrain_of_valid ⟨hsafe, hstate, hok, hkind⟩ ⟨hversion, hcredits, hgang⟩
    rw [hacked] at htaken
    rw [ground_trainHeard] at hground
    obtain ⟨hkeeps, hactive, hswitch⟩ := linkActive_effect (Peer.ofBody f) (hlink.trans ((linkState_trainHeard s p).trans hstate))
      (hground ▸ hcells) (hground ▸ hwaiting)
    exact ⟨_, congrArg done htaken, hkeeps.trans hpeer, hactive, hswitch.trans (Nat.mod_eq_of_lt (ofBody_switch_lt f))⟩
  case refused =>
    intro s p f hsafe hstate hok hkind hbad
    have htaken := (rxTrain_of_param ⟨hsafe, hstate, hok, hkind⟩).trans (blockTaken_of_invalid (by rwa [ownGang_trainHeard]))
    refine ⟨_, congrArg done htaken, stickySet_raise _ _ _ (by decide), ?_⟩
    rw [linkState_raise p _ (by decide), linkState_congr (modPort_regs _ _ _), linkState_trainHeard, hstate]

end Sys2Proof.Machine
end

section
/-! PROOFS. O51 and O52: what the host of a CXL port writes, reads and asks (R355 to R359, R457). -/

namespace Sys2Proof.Machine

variable {s u : State} {c ld dpa b : Nat}

/-! ### Requests of a host that wait, and writes (R35, R358) -/

theorem hostRun_of_held (h : HostReq) (hheld : unitHeld s grCXP h.port = true) : hostRun h s = putHost h s := if_pos hheld

theorem hostRun_of_taken (h : HostReq) (hheld : unitHeld s grCXP h.port = false) :
    hostRun h s = if h.write then raise srcCXP_HOST_WRITE h.port (bump s (CXP_HOST_WR_DISCARD h.port)) else hostLine h s := by
  simp [hostRun, hheld]

theorem hostWrite_of_served (hon : cxlOn s c = true) (hhost : cxlHost s c = true) :
    hostWrite c s = hostRun { port := c, ld := 0, dpa := 0, write := true } s := by
  simp [hostWrite, hon, hhost]

/-- A source that is no HANG and fires behind a counter: two registers change, and what is recorded of the firing (R418). -/
theorem onlyRegs_raise_bump {f : Src} (n : Nat) (s : State) (a k : Nat) (hbit : f.bit ≠ 15) :
    OnlyRegs [a, G_ERR_STICKY f.g n f.p] { s with flt := (raise f n (bump s a k)).flt, fires := (raise f n (bump s a k)).fires }
      (raise f n (bump s a k)) := by
  refine ⟨raise_frame f n (bump s a k), fun i hi => ?_⟩
  obtain ⟨ha, hsticky⟩ : i ≠ a ∧ i ≠ G_ERR_STICKY f.g n f.p := by simpa using hi
  rw [rdReg_raise_other f n _ hsticky fun h => absurd h hbit, rdReg_bump, if_neg ha]
  rfl

/-- Settles O51: the write counts and fires its source, or waits. -/
theorem hostWriteDiscarded : Obligations.HostWriteDiscarded := by
  unfold Obligations.HostWriteDiscarded
  refine ⟨?taken, ?held, ?notice⟩
  case taken =>
    intro s c _ hon hhost hheld
    have hwrite := (hostWrite_of_served hon hhost).trans (hostRun_of_taken _ hheld)
    refine ⟨_, congrArg done hwrite, ?_, stickySet_raise _ _ _ (by decide), onlyRegs_raise_bump _ _ _ _ (by decide)⟩
    exact (rdReg_raise_csrAddr c c _ (by decide) (by decide)).trans ((rdReg_bump s _ _ 1).trans (if_pos rfl))
  case held =>
    intro s c hon hhost hheld
    exact congrArg done ((hostWrite_of_served hon hhost).trans (hostRun_of_held _ hheld))
  case notice => decide +kernel

/-! ### Reads (R355 to R357) -/

namespace OnTheWay

theorem slotLog (h : OnTheWay s u) (c : Nat) : slotLog u c = slotLog s c := h.rdF (by decide) (by decide) _

theorem dirPub (h : OnTheWay s u) (c ld k : Nat) : dirPub u c ld k = dirPub s c ld k := by
  have hpart : ldPart u c ld = ldPart s c ld := h.rdF (by decide) (by decide) _
  simp only [Machine.dirPub, h.pubs, h.slotLog, hpart]

theorem dirEntry (h : OnTheWay s u) (c ld k : Nat) : dirEntry u c ld k = dirEntry s c ld k := by
  simp only [Machine.dirEntry, h.dirPub, h.slotLog]

end OnTheWay

theorem onTheWay_hostRead (s : State) (c : Nat) : OnTheWay s (bump s (CXP_HOST_RD c)) := (OnTheWay.refl s).bump (.inr (by decide))

/-- R357: a port that takes work counts a read and serves its line. -/
theorem hostRead_of_taken (dpa : Nat) (h : LdServed s c ld) (hheld : unitHeld s grCXP c = false) :
    hostRead c ld dpa s = hostLine { port := c, ld := ld, dpa := dpa / 64 * 64 } (bump s (CXP_HOST_RD c)) := by
  obtain ⟨hon, hhost, hvalid⟩ := h
  rw [hostRead, hon, hhost, hvalid, if_pos (by decide), hostRun_of_taken _ ((onTheWay_hostRead s c).unitHeld grCXP c ▸ hheld)]
  rfl

/-- R356: slot 0 is the directory. -/
theorem hostLine_of_directory {h : HostReq} (hsafe : s.flt.safe = false) (hslot : h.dpa / 2 ^ slotLog s h.port = 0) (hentry : h.dpa / 64 < 4096) :
    hostLine h s = { s with cxl := some { port := h.port, ld := h.ld, poison := false, data := dirEntry s h.port h.ld (h.dpa / 64) } } := by
  simp [hostLine, hsafe, hslot, hentry, hostReply]

/-- R357: what lies in no publication that the device sees is poison. -/
theorem hostLine_of_unpublished {h : HostReq} (hsafe : s.flt.safe = false) (hslot : 0 < h.dpa / 2 ^ slotLog s h.port) (hat : h.at_ = none)
    (hpub : dirPub s h.port h.ld (h.dpa / 2 ^ slotLog s h.port - 1) = none) :
    hostLine h s = { bump s (CXP_HOST_POISON h.port) with cxl := some { port := h.port, ld := h.ld, poison := true, data := [] } } := by
  simp [hostLine, hsafe, hslot.ne', hat, hostRange, hpub, hostReply]

/-! ### Mailbox commands (R359) -/

theorem ldAnswer_of_served (h : LdServed s c ld) (code : Nat) (vals : List Nat) :
    ldAnswer c ld code vals s = { s with cxl := some { port := c, ld := ld, code := code, vals := vals } } := by
  obtain ⟨hon, hhost, hvalid⟩ := h
  simp [ldAnswer, hon, hhost, hvalid]

/-! ### Windows of mailboxes (R453 to R457) -/

/-- The mailbox of a logical device's window is bound to a CXL device. -/
theorem ldMailbox_eq_some (h : ldMailbox s c ld = some b) : b < 64 ∧ mbxKind s b = 2 := by
  unfold ldMailbox at h
  split at h
  · cases h
  · have hbound := List.find?_some h
    exact ⟨List.mem_range.mp (List.mem_of_find?_eq_some h), by simp_all⟩

theorem mbxOf_setMbx_same (m : Nat) (x : Mbx) (s : State) : mbxOf (setMbx m x s) m = x := sget_sset_same _ _ _ _

theorem mbxOf_congr (h : u.mbx = s.mbx) (m : Nat) : mbxOf u m = mbxOf s m := congrArg (sget _ · m) h

/-- A mailbox that is set shows its counts of words, and no other register changes. -/
theorem rdReg_setMbx_other {a : Nat} (m : Nat) (x : Mbx) (s : State) (hin : a ≠ MBX_IN_STATE m) (hout : a ≠ MBX_OUT_STATE m) :
    rdReg (setMbx m x s) a = rdReg s a :=
  (rdReg_wrReg_other _ _ hout).trans (rdReg_wrReg_other _ _ hin)

theorem rdReg_setMbx_csrAddr (m : Nat) (x : Mbx) (s : State) {o : Nat} (h : o % 4096 ≠ 0x110 ∧ o % 4096 ≠ 0x128) :
    rdReg (setMbx m x s) (csrAddr grMBX m 0 o) = rdReg s (csrAddr grMBX m 0 o) :=
  rdReg_setMbx_other m x s (csrAddr_ne_of_off h.1) (csrAddr_ne_of_off h.2)

/-- A mailbox once it has taken a message: a header with the next SEQ, and the words behind it. -/
def mbxTaken (kind len : Nat) (part : Option Nat) (ep port tag : Nat) (data : List Word) (x : Mbx) : Mbx :=
  { x with inq := x.inq ++ mbxHeader kind len part ep port ((x.inSeq + 1) % 256) tag :: data.take len, inSeq := (x.inSeq + 1) % 256 }

/-- R455: what a mailbox that holds `n` words sets once it has taken a message: its doorbell, or its bit of MBX_FULL_PEND. -/
def mbxNotified (m n : Nat) (s : State) : State :=
  if rdF s (MBX_NOTIFY m) MBX_NOTIFY_MODE = 1 then
    wrReg s MBX_DOORBELL (rdReg s MBX_DOORBELL ||| BitVec.ofNat 64 (2 ^ rdF s (MBX_NOTIFY m) MBX_NOTIFY_BIT))
  else if 8 < n then wrReg s MBX_FULL_PEND (rdReg s MBX_FULL_PEND ||| BitVec.ofNat 64 (2 ^ m)) else s

theorem mbxNotified_effect (m n : Nat) (s : State) :
    (mbxNotified m n s).mbx = s.mbx ∧ rdReg (mbxNotified m n s) (MBX_ACCEPTED m) = rdReg s (MBX_ACCEPTED m) := by
  unfold mbxNotified
  split_ifs
  · exact ⟨rfl, rdReg_wrReg_other _ _ (csrAddr_ne_of_off (by decide))⟩
  · exact ⟨rfl, rdReg_wrReg_other _ _ (csrAddr_ne_of_off (by decide))⟩
  · exact ⟨rfl, rfl⟩

/-- A mailbox that is set and counts: the mailbox, and the counter. -/
theorem bump_setMbx_effect (m : Nat) (x : Mbx) (s : State) {o : Nat} (h : o % 4096 ≠ 0x110 ∧ o % 4096 ≠ 0x128) :
    mbxOf (bump (setMbx m x s) (csrAddr grMBX m 0 o)) m = x
      ∧ rdReg (bump (setMbx m x s) (csrAddr grMBX m 0 o)) (csrAddr grMBX m 0 o) = rdReg s (csrAddr grMBX m 0 o) + 1 := by
  refine ⟨(mbxOf_congr (bump_mbx _ _ _) m).trans (mbxOf_setMbx_same m x s), ?_⟩
  rw [rdReg_bump, if_pos rfl, rdReg_setMbx_csrAddr m x s h]
  rfl

/-- R453, R454: a mailbox that is on and has room takes a message whole from the party that its binding names, and counts it. -/
theorem mbxAccept_of_room {kind source len : Nat} (part : Option Nat) (ep port tag : Nat) (data : List Word) (hb : b < 64)
    (hon : unitOn s grMBX b = true) (hkind : mbxKind s b = kind) (hsource : mbxSource s b = source)
    (hroom : (mbxOf s b).inq.length + len + 1 ≤ 16) :
    ∃ t, mbxAccept b kind source len part ep port tag data s = (1, t)
      ∧ mbxOf t b = mbxTaken kind len part ep port tag data (mbxOf s b) ∧ rdReg t (MBX_ACCEPTED b) = rdReg s (MBX_ACCEPTED b) + 1 := by
  have hbound : ¬(mbxKind s b ≠ kind ∨ ((kind = 1 ∨ kind = 2) ∧ mbxSource s b ≠ source)) := by simp [hkind, hsource]
  have haccept : mbxAccept b kind source len part ep port tag data s =
      let x := mbxTaken kind len part ep port tag data (mbxOf s b)
      (1, mbxNotified b x.inq.length (bump (setMbx b x s) (MBX_ACCEPTED b))) := by
    rw [mbxAccept, if_neg (Nat.not_le.mpr hb), hon, if_neg (by decide), if_neg hbound]
    dsimp only
    rw [if_neg (Nat.not_lt.mpr hroom)]
    rfl
  refine ⟨_, haccept, ?_⟩
  generalize mbxTaken kind len part ep port tag data (mbxOf s b) = x
  obtain ⟨hmail, hcount⟩ := bump_setMbx_effect (o := 0xC00) b x s (by decide)
  obtain ⟨hmbx, hreg⟩ := mbxNotified_effect b x.inq.length (bump (setMbx b x s) (MBX_ACCEPTED b))
  exact ⟨(mbxOf_congr hmbx b).trans hmail, hreg.trans hcount⟩

/-- R457: the window of a logical device pushes into its mailbox, and IN_STATUS answers that the message was accepted. -/
theorem inPush_of_room {len : Nat} (tag : Nat) (ws : List Word) (h : ldMailbox s c ld = some b) (hon : unitOn s grMBX b = true) (hlen : len < 8)
    (hroom : (mbxOf s b).inq.length + len + 1 ≤ 16) :
    mbxOf (inPush c ld len tag ws s) b = { mbxTaken 2 len (some (ldPart s c ld)) (c + 16 * ld) c tag ws (mbxOf s b) with push := 1 }
      ∧ rdReg (inPush c ld len tag ws s) (MBX_ACCEPTED b) = rdReg s (MBX_ACCEPTED b) + 1 := by
  obtain ⟨hb, hkind⟩ := ldMailbox_eq_some h
  obtain ⟨t, haccept, htaken, hcount⟩ := mbxAccept_of_room (some (ldPart s c ld)) (c + 16 * ld) c tag ws hb hon hkind rfl hroom
  have hpush : inPush c ld len tag ws s = { setMbx b { mbxOf t b with push := 1 } t with
      cxl := some { port := c, ld := ld, code := 1, vals := [16 - (mbxOf t b).inq.length] } } := by
    rw [inPush, h]
    dsimp only
    rw [Nat.mod_eq_of_lt hlen, ← ldPart, haccept]
  rw [← htaken]
  generalize hx : ({ mbxOf t b with push := 1 } : Mbx) = x at hpush ⊢
  have hmbx : (inPush c ld len tag ws s).mbx = (setMbx b x t).mbx := by rw [hpush]
  have hregs : (inPush c ld len tag ws s).regs = (setMbx b x t).regs := by rw [hpush]
  refine ⟨(mbxOf_congr hmbx b).trans (mbxOf_setMbx_same b x t), ?_⟩
  rw [rdReg_congr hregs, MBX_ACCEPTED, rdReg_setMbx_csrAddr b x t (by decide)]
  exact hcount

/-- R457: the oldest complete outbound message is freed and counted. -/
theorem outPop_of_message (h : outHead (mbxOf s b) ≠ []) :
    outPop b s = bump (setMbx b { mbxOf s b with outq := (mbxOf s b).outq.drop (outHead (mbxOf s b)).length } s) (MBX_SENT b) := by
  simp [outPop, h]

/-! ### O52 -/

/-- Settles O52: reads of the directory and behind it, the mailbox commands, and the window of a mailbox. -/
theorem hostReadsAndMailbox : Obligations.HostReadsAndMailbox := by
  unfold Obligations.HostReadsAndMailbox
  refine ⟨?directory, ?unpublished, ?commands, ?push, ?pop⟩
  case directory =>
    intro s c ld dpa h hheld hsafe hdpa hslot
    have hread := onTheWay_hostRead s c
    have hpow : 2 ^ 18 ≤ 2 ^ slotLog s c := Nat.pow_le_pow_right (by decide) hslot
    have hline : dpa / 64 * 64 / 2 ^ slotLog s c = 0 := Nat.div_eq_of_lt (by omega)
    have hentry : dpa / 64 * 64 / 64 = dpa / 64 := Nat.mul_div_cancel _ (by decide)
    refine congrArg done ((hostRead_of_taken dpa h hheld).trans ((hostLine_of_directory (hread.flt ▸ hsafe) ?_ ?_).trans ?_))
    · rw [hread.slotLog, hline]
    · dsimp only
      omega
    · rw [hread.dirEntry, hentry]
  case unpublished =>
    intro s c ld dpa h hheld hsafe hslot hpub
    have hread := onTheWay_hostRead s c
    refine congrArg done ((hostRead_of_taken dpa h hheld).trans (hostLine_of_unpublished (hread.flt ▸ hsafe) ?_ rfl ?_))
    · rw [hread.slotLog]
      exact hslot
    · rw [hread.dirPub, hread.slotLog]
      exact hpub
  case commands =>
    intro s c ld h f hf
    have hanswer (code : Nat) (vals : List Nat) : done (ldAnswer c ld code vals s) = .next (settle (f code vals)) := by
      rw [ldAnswer_of_served h, hf, done]
    have hhealth : s.flt.safe.toNat = if s.flt.safe then 1 else 0 := by cases s.flt.safe <;> rfl
    exact ⟨hanswer _ _, hanswer _ _, hhealth ▸ hanswer _ _, hanswer _ _, hanswer _ _, hanswer _ _, hanswer _ _, hanswer _ _⟩
  case push =>
    intro s c ld len tag b ws h hon hlen hroom
    obtain ⟨hmail, hcount⟩ := inPush_of_room tag ws h hon hlen hroom
    refine ⟨_, rfl, ?_, ?_, ?_, hcount⟩
    · rw [hmail, mbxTaken, List.take_left']
      rfl
    · rw [hmail, mbxTaken, List.drop_append]
      simp
    · rw [hmail]
  case pop =>
    intro s c ld b h hhead
    have hpop : cxlOutPop c ld s = outPop b s := by rw [cxlOutPop, h]
    obtain ⟨hmail, hcount⟩ := bump_setMbx_effect (o := 0xC10) b
      { mbxOf s b with outq := (mbxOf s b).outq.drop (outHead (mbxOf s b)).length } s (by decide)
    refine ⟨_, congrArg done (hpop.trans (outPop_of_message hhead)), ?_, ?_⟩
    · exact congrArg Mbx.outq hmail
    · exact hcount

end Sys2Proof.Machine
end

section
/-! PROOFS. O53: the links of CXL ports, and what a tray answers (R252, R352 to R354). -/

namespace Sys2Proof.Machine

variable {s t u : State} {c tag : Nat} {r : Req}

/-! ### A link comes up (R352) -/

theorem cxlState_setCxlState (c : Nat) {v : Nat} (s : State) (hv : v < 4) : cxlState (setCxlState c v s) c = v :=
  (rdF_wrF_same s _ _ _ (by decide)).trans (Nat.mod_eq_of_lt hv)

/-- The width and speed that a link came up with are shown. -/
def linkShown (c width speed : Nat) (s : State) : State :=
  wrF (wrF s (CXP_LINK_STATE c) CXP_LINK_STATE_WIDTH (width % 4)) (CXP_LINK_STATE c) CXP_LINK_STATE_SPEED (speed % 2)

theorem rdReg_linkShown_other (w v : Nat) {a : Nat} (h : a ≠ CXP_LINK_STATE c) : rdReg (linkShown c w v s) a = rdReg s a :=
  (rdReg_wrReg_other _ _ h).trans (rdReg_wrReg_other _ _ h)

theorem rdF_linkShown {g n q o : Nat} (w v : Nat) (f : Fld) (h : o % 4096 ≠ 0x108) :
    rdF (linkShown c w v s) (csrAddr g n q o) f = rdF s (csrAddr g n q o) f :=
  congrArg f.get (rdReg_linkShown_other w v (csrAddr_ne_of_off h))

theorem cxlHost_linkShown (w v : Nat) (s : State) : cxlHost (linkShown c w v s) c = cxlHost s c :=
  congrArg (· == 1) (rdF_linkShown w v _ (by decide))

theorem trayBad_linkShown (w v cap : Nat) (s : State) : trayBad (linkShown c w v s) c cap = trayBad s c cap := by
  have hT2 (f : Fld) : rdF (linkShown c w v s) (CXP_TRAY_T2 c) f = rdF s (CXP_TRAY_T2 c) f := rdF_linkShown w v f (by decide)
  have hT3 (f : Fld) : rdF (linkShown c w v s) (CXP_TRAY_T3 c) f = rdF s (CXP_TRAY_T3 c) f := rdF_linkShown w v f (by decide)
  simp only [trayBad, hT2, hT3]

theorem trayLinkUp_of_fits {cap : Nat} (w v : Nat) (hon : cxlOn s c = true) (hdown : cxlState s c ≠ 2) (hreqs : s.mem.reqs = [])
    (hfits : cxlHost s c = true ∨ trayBad s c cap = false) :
    trayLinkUp c cap w v s = setCxlState c 2 (linkShown c w v s) := by
  have hgood : (!cxlHost s c && trayBad s c cap) = false := by rcases hfits with h | h <;> simp [h]
  have hup : (!cxlOn s c || cxlState s c == 2) = false := by simp [hon, hdown]
  rw [trayLinkUp, hup, if_neg (by decide), ← linkShown]
  dsimp only
  rw [cxlHost_linkShown, trayBad_linkShown, hgood, if_neg (by decide)]
  exact runReqs_of_noRequest hreqs

theorem trayLinkUp_of_bad {cap : Nat} (w v : Nat) (hon : cxlOn s c = true) (hdown : cxlState s c ≠ 2)
    (htray : cxlHost s c = false) (hbad : trayBad s c cap = true) :
    trayLinkUp c cap w v s = raise srcCXP_TRAY_CONFIG c (setCxlState c 1 (linkShown c w v s)) := by
  have hup : (!cxlOn s c || cxlState s c == 2) = false := by simp [hon, hdown]
  rw [trayLinkUp, hup, if_neg (by decide), ← linkShown]
  dsimp only
  rw [cxlHost_linkShown, trayBad_linkShown, htray, hbad, if_pos (by decide)]

theorem onlyRegs_trans {as : List Nat} (h : OnlyRegs as s t) (k : OnlyRegs as t u) : OnlyRegs as s u := by
  obtain ⟨hframe, hregs⟩ := h
  obtain ⟨kframe, kregs⟩ := k
  exact ⟨kframe.trans (congrArg (fun x : State => { x with regs := u.regs }) hframe), fun a ha => (kregs a ha).trans (hregs a ha)⟩

/-- The link is up with its width and speed, and no register but CXP_LINK_STATE has changed. -/
theorem setCxlState_linkShown_effect (c w v : Nat) (s : State) :
    cxlState (setCxlState c 2 (linkShown c w v s)) c = 2
      ∧ rdF (setCxlState c 2 (linkShown c w v s)) (CXP_LINK_STATE c) CXP_LINK_STATE_WIDTH = w % 4
      ∧ rdF (setCxlState c 2 (linkShown c w v s)) (CXP_LINK_STATE c) CXP_LINK_STATE_SPEED = v % 2
      ∧ OnlyRegs [CXP_LINK_STATE c] s (setCxlState c 2 (linkShown c w v s)) := by
  refine ⟨cxlState_setCxlState c _ (by decide), ?width, ?speed, ?frame⟩
  case width =>
    rw [setCxlState, linkShown, rdF_wrF_field _ _ _ _ _ (by decide), rdF_wrF_field _ _ _ _ _ (by decide), rdF_wrF_same _ _ _ _ (by decide)]
    exact Nat.mod_mod _ _
  case speed =>
    rw [setCxlState, linkShown, rdF_wrF_field _ _ _ _ _ (by decide), rdF_wrF_same _ _ _ _ (by decide)]
    exact Nat.mod_mod _ _
  case frame => exact onlyRegs_trans (onlyRegs_trans (onlyRegs_wrReg _ _ _) (onlyRegs_wrReg _ _ _)) (onlyRegs_wrReg _ _ _)

theorem cxlState_raise {f : Src} (n : Nat) (s : State) (hbit : f.bit ≠ 15) : cxlState (raise f n s) c = cxlState s c :=
  congrArg (Fld.get _) (rdReg_raise_csrAddr n c s hbit (by decide))

/-! ### A link goes down (R354) -/

/-- Where no request is outstanding, a tray that goes down loses the tags of late responses alone. -/
theorem trayDown_of_noRequest (h : s.mem.reqs = []) :
    trayDown c s = modMem s fun m => { m with lateTags := m.lateTags.filter fun x => x.1 != c } := by
  rw [trayDown, h]
  exact runReqs_of_noRequest h

/-- What a port that goes down leaves where no request is outstanding. -/
theorem cxlLeave_effect (v : Nat) (h : s.mem.reqs = []) (hv : v < 4) :
    cxlState (cxlLeave c v s) c = v
      ∧ (cxlLeave c v s).mem = { s.mem with
          lateTags := s.mem.lateTags.filter (fun x => x.1 != c), hosts := s.mem.hosts.filter (fun x => x.port != c),
          far := (cxlLeave c v s).mem.far } := by
  rw [cxlLeave, trayDown_of_noRequest (by exact h)]
  refine ⟨(rdF_congr ?regs _ _).trans (cxlState_setCxlState c s hv), ?mem⟩
  case regs => simp only [modMem_regs, farDrop]
  case mem => simp only [modMem_mem, farDrop, setCxlState, wrF_mem]

theorem cxpLinkDown_of_up (h : cxlState s c ≠ 0) : cxpLinkDown c 0 s = raise srcCXP_CXP_LINK_DOWN c (cxlLeave c 0 s) := by
  simp [cxpLinkDown, h]

/-! ### Responses of a tray (R252, R353) -/

theorem trayBlocked_of_single (h : s.mem.reqs = [r]) : trayBlocked s r = false := by simp [trayBlocked, h]

theorem tagFreed_of_noRequest (c : Nat) (h : s.mem.reqs = []) : tagFreed c s = s := by simp [tagFreed, h]

/-- R353: what a response brings a request of which the tags `left` are still to be answered. -/
def lineAnswered (c kind : Nat) (left : List Nat) (raw : Bytes) (r : Req) (s : State) : State :=
  let y := { r with stage := .tray c left }
  let u := if left.isEmpty then progress s grCXP c else s
  if kind = 1 then
    runReqs (finish y stTIER_FAILED none (raise srcCXP_TRAY_POISON c (bump (tagFreed c (lateTags y (dropReq y.arr u))) (CXP_POISON_RX c))))
  else if left.isEmpty then runReqs (trayServe y raw (tagFreed c (dropReq y.arr u)))
  else modMem u fun m => { m with reqs := m.reqs.map fun q => if q.arr = y.arr then y else q }

/-- A response to a line of the only request meets it, for nothing is ahead of it. -/
theorem trayResponse_of_single {ts : List Nat} (kind : Nat) (raw : Bytes) (hreqs : s.mem.reqs = [r]) (hstage : r.stage = .tray c ts)
    (htag : ts.contains tag = true) : trayResponse c tag kind raw s = lineAnswered c kind (ts.filter (· != tag)) raw r s := by
  rw [trayResponse, hreqs, List.find?_cons_of_pos (h := ?found)]
  case found =>
    rw [hstage]
    simpa using htag
  dsimp only
  rw [trayBlocked_of_single hreqs, if_neg (by decide), hstage]
  rfl

/-- A poisoned response ends its request; its other tags await their responses. -/
theorem trayResponse_of_poison {ts : List Nat} (raw : Bytes) (hreqs : s.mem.reqs = [r]) (hstage : r.stage = .tray c ts)
    (htag : ts.contains tag = true) (hsingle : Single r) :
    let u := if ts.filter (fun t => t != tag) = [] then progress s grCXP c else s
    trayResponse c tag 1 raw s = runReqs (answer r.prg r.msg stTIER_FAILED none (countTier r.prg stTIER_FAILED
      (raise srcCXP_TRAY_POISON c (bump { u with mem := { u.mem with
        reqs := [], lateTags := u.mem.lateTags ++ (ts.filter fun t => t != tag).map fun t => (c, t, entryHub r.prg, r.arr) } } (CXP_POISON_RX c))))) := by
  intro u
  have hu : u.mem.reqs = [r] := by
    simp only [u]
    split <;> exact hreqs
  have hdrop : dropReq r.arr u = { u with mem := { u.mem with reqs := [] } } := dropReq_of_single hu
  rw [trayResponse_of_single 1 raw hreqs hstage htag, lineAnswered]
  simp only [List.isEmpty_iff, if_true]
  rw [hdrop, lateTags, tagFreed_of_noRequest c rfl, finish_of_single (by exact hsingle)]
  rfl

/-- The response to the last line of a request serves it. -/
theorem trayResponse_of_last (raw : Bytes) (hreqs : s.mem.reqs = [r]) (hstage : r.stage = .tray c [tag]) :
    trayResponse c tag 0 raw s
      = runReqs (trayServe { r with stage := .tray c [] } raw { progress s grCXP c with mem := { s.mem with reqs := [] } }) := by
  have hdrop : dropReq r.arr (progress s grCXP c) = { progress s grCXP c with mem := { s.mem with reqs := [] } } := dropReq_of_single hreqs
  have hleft : [tag].filter (· != tag) = [] := by simp
  rw [trayResponse_of_single 0 raw hreqs hstage (by simp), hleft, lineAnswered, List.isEmpty_nil, if_pos rfl, if_neg (by decide), if_pos rfl]
  dsimp only
  rw [hdrop, tagFreed_of_noRequest c rfl]

/-- A late response is dropped and counted, at the port and in the hub of its request. -/
theorem trayResponse_of_late {hub arr : Nat} (kind : Nat) (raw : Bytes) (hreqs : s.mem.reqs = []) (hlate : s.mem.lateTags = [(c, tag, hub, arr)]) :
    trayResponse c tag kind raw s
      = bump (bump { s with mem := { s.mem with lateTags := [] } } (CXP_LATE_DROPS c)) (MRG_LATE_DROPS hub) := by
  have hgone : modMem s (fun m => { m with lateTags := m.lateTags.erase (c, tag, hub, arr) }) = { s with mem := { s.mem with lateTags := [] } } := by
    simp [modMem, hlate]
  rw [trayResponse, hreqs, hlate, List.find?_nil]
  dsimp only
  rw [List.find?_cons_of_pos (by simp)]
  dsimp only
  rw [hgone, bump_mem, List.any_nil, if_neg (by decide)]
  exact tagFreed_of_noRequest c hreqs

/-! ### O53 -/

/-- Settles O53, one event after another. -/
theorem trayLinks : Obligations.TrayLinks := by
  unfold Obligations.TrayLinks
  refine ⟨?up, ?down, ?correctable, ?poison, ?last, ?late⟩
  case up =>
    intro s c cap w v _ hon hdown hreqs
    refine ⟨fun hfits => ?_, fun htray hbad => ?_⟩
    · exact ⟨_, congrArg done (trayLinkUp_of_fits w v hon hdown hreqs hfits), setCxlState_linkShown_effect c w v s⟩
    · refine ⟨_, congrArg done (trayLinkUp_of_bad w v hon hdown htray hbad), ?_, stickySet_raise _ _ _ (by decide)⟩
      rw [cxlState_raise c _ (by decide), cxlState_setCxlState c _ (by decide)]
  case down =>
    intro s c _ hup hreqs
    obtain ⟨hstate, hmem⟩ := cxlLeave_effect (c := c) 0 hreqs (by decide)
    refine ⟨_, congrArg done (cxpLinkDown_of_up hup), ?_, stickySet_raise _ _ _ (by decide), ?_, ?_, ?_⟩
    · rw [cxlState_raise c _ (by decide), hstate]
    · rw [raise_mem, hmem]
    · rw [raise_mem, hmem]
    · rw [raise_mem, hmem]
  case correctable => exact fun s c => rfl
  case poison =>
    intro s c tag ts r raw _ hreqs hstage htag hop hdev hmerged hmore
    exact congrArg done (trayResponse_of_poison raw hreqs hstage htag ⟨hop, hdev, hmerged, hmore⟩)
  case last => exact fun s c tag r raw _ hreqs hstage => congrArg done (trayResponse_of_last raw hreqs hstage)
  case late => exact fun s c tag hub arr raw hreqs hlate => congrArg done (trayResponse_of_late 0 raw hreqs hlate)

end Sys2Proof.Machine
end

section
/-! PROOFS. O25: token buckets and policers, resequencers, and paths that move (R373, R376, R379, R380, R383, R386). -/

namespace Sys2Proof.Machine

variable {s : State} {a b k n p c v path : Nat} {key : FlowKey} {f : Flow} {x : GCell} {r : RouteHold}

/-! ### Refills (R383, R386) -/

/-- R386: the written setting at `a` takes force. -/
def takesForce (a : Nat) (s : State) : State :=
  { s with ground := { s.ground with inForce := sset regReset s.ground.inForce a (rdReg s a) } }

@[simp] theorem takesForce_regs (a : Nat) (s : State) : (takesForce a s).regs = s.regs := rfl
@[simp] theorem rdReg_takesForce (a b : Nat) (s : State) : rdReg (takesForce a s) b = rdReg s b := rfl

@[simp] theorem inForce_takesForce_same (a : Nat) (s : State) : inForce (takesForce a s) a = rdReg s a := sget_sset_same _ _ _ _

theorem inForce_takesForce_other (s : State) (h : b ≠ a) : inForce (takesForce a s) b = inForce s b := sget_sset_other _ _ _ h

/-- R383: a token bucket at its refill. -/
def bucketRefilled (p c : Nat) (s : State) : State :=
  let u := takesForce (QOS_TB_TC p c) s
  let w := rdReg s (QOS_TB_TC p c)
  let t := min (256 * QOS_TB_TC_BURST.get w) (tokensOf s p c + QOS_TB_TC_RATE.get w)
  { u with ground := { u.ground with tokens := sset (fun _ => 0) s.ground.tokens (8 * p + c) t } }

theorem refill_of_bucket (p : Nat) (s : State) (hc : c < 5) : refill p c s = bucketRefilled p c s := by
  rw [refill, if_pos hc]
  rfl

theorem tokensOf_bucketRefilled (p c : Nat) (s : State) :
    tokensOf (bucketRefilled p c s) p c
      = min (256 * QOS_TB_TC_BURST.get (rdReg s (QOS_TB_TC p c))) (tokensOf s p c + QOS_TB_TC_RATE.get (rdReg s (QOS_TB_TC p c))) :=
  sget_sset_same _ _ _ _

theorem inForce_bucketRefilled (p c : Nat) (s : State) : inForce (bucketRefilled p c s) (QOS_TB_TC p c) = rdReg s (QOS_TB_TC p c) :=
  inForce_takesForce_same _ _

/-- The two buckets of meter `k` hold `m`. -/
def setMeter (k : Nat) (m : Meter) (s : State) : State :=
  { s with ground := { s.ground with meters := sset (fun _ => {}) s.ground.meters k m } }

@[simp] theorem setMeter_regs (k : Nat) (m : Meter) (s : State) : (setMeter k m s).regs = s.regs := rfl
@[simp] theorem inForce_setMeter (a k : Nat) (m : Meter) (s : State) : inForce (setMeter k m s) a = inForce s a := rfl

theorem meter_setMeter_same (k : Nat) (m : Meter) (s : State) : sget (fun _ => {}) (setMeter k m s).ground.meters k = m :=
  sget_sset_same _ _ _ _

/-- R386: the policer of registers `a` and `b` and meter `k` at its refill. -/
def policerRefilled (a b k : Nat) (s : State) : State :=
  setMeter k (refilled (rdReg s a) (rdReg s b) (sget (fun _ => {}) s.ground.meters k)) (takesForce b (takesForce a s))

/-- What a policer's refill leaves: both settings in force, its meter filled, and every register as it was. -/
theorem policerRefilled_effect (k : Nat) (s : State) (hab : a ≠ b) :
    inForce (policerRefilled a b k s) a = rdReg s a ∧ inForce (policerRefilled a b k s) b = rdReg s b
      ∧ (policerRefilled a b k s).regs = s.regs
      ∧ sget (fun _ => {}) (policerRefilled a b k s).ground.meters k
        = refilled (rdReg s a) (rdReg s b) (sget (fun _ => {}) s.ground.meters k) := by
  refine ⟨?first, ?second, ?regs, meter_setMeter_same _ _ _⟩
  case first => rw [policerRefilled, inForce_setMeter, inForce_takesForce_other _ hab, inForce_takesForce_same]
  case second => rw [policerRefilled, inForce_setMeter, inForce_takesForce_same, rdReg_takesForce]
  case regs => rw [policerRefilled, setMeter_regs, takesForce_regs, takesForce_regs]

/-- With no flit in the ground none is metered again. -/
theorem remeter_of_noCells (p : Nat) (l : List Nat) (h : s.ground.cells = []) :
    l.foldl (fun s c => remeter s.ground.cells.length s p c) s = s := by
  induction l with
  | nil => rfl
  | cons c l ih => rw [List.foldl_cons, h, List.length_nil, remeter, ih]

theorem refill_of_endpointPolicer (p : Nat) (hv : v < 16) (h : s.ground.cells = []) :
    refill p (8 + v) s = policerRefilled (QOS_POL_VEP_A p v) (QOS_POL_VEP_B p v) (meterKey p 0 v) s := by
  rw [refill, if_neg (by omega), if_pos (by omega), Nat.add_sub_cancel_left]
  exact remeter_of_noCells p (List.range 6) (s := policerRefilled _ _ _ s) h

theorem refill_of_classPolicer (p : Nat) (hc : c < 6) (h : s.ground.cells = []) :
    refill p (32 + c) s = policerRefilled (QOS_POL_TC_A p c) (QOS_POL_TC_B p c) (meterKey p 1 c) s := by
  rw [refill, if_neg (by omega), if_neg (by omega), if_pos (by omega), Nat.add_sub_cancel_left]
  exact remeter_of_noCells p (List.range 6) (s := policerRefilled _ _ _ s) h

theorem endpointPolicer_regs_ne (p v : Nat) : QOS_POL_VEP_A p v ≠ QOS_POL_VEP_B p v := csrAddr_ne_of_off (by omega)
theorem classPolicer_regs_ne (p c : Nat) : QOS_POL_TC_A p c ≠ QOS_POL_TC_B p c := csrAddr_ne_of_off (by omega)

/-! ### Resequencers (R376, R379, R380) -/

/-- With no flit in the ground none waits for a resequencer. -/
theorem reseqRetry_of_noCells (n : Nat) (h : s.ground.cells = []) : reseqRetry s n = s := by
  rw [reseqRetry, h, List.countP_nil, reseqRetryN]

/-- R376: the context of a flow is freed. -/
def flowFreed (n : Nat) (key : FlowKey) (s : State) : State :=
  { s with ground := { s.ground with flows := s.ground.flows.filter fun x => !(x.prg == n && x.key == key) } }

theorem findFlow_flowFreed (n : Nat) (key : FlowKey) (s : State) : findFlow (flowFreed n key s) n key = none := by
  rw [findFlow, List.find?_eq_none]
  intro x hx
  obtain ⟨_, hother⟩ := List.mem_filter.mp hx
  simpa only [Bool.not_eq_true, Bool.not_eq_true'] using hother

theorem reseqIdle_of_empty (hflow : findFlow s n key = some f) (hheld : f.held = []) (hfirst : f.first = none)
    (hcells : s.ground.cells = []) : reseqIdle n key s = flowFreed n key s := by
  have hidle : (!f.held.isEmpty || f.first.isSome) = false := by simp [hheld, hfirst]
  rw [reseqIdle, hflow]
  dsimp only
  rw [hidle, if_neg (by decide)]
  exact reseqRetry_of_noCells (s := flowFreed n key s) n hcells

/-- An OPENING flow starts at its lowest held SEQ. -/
theorem reseqOpened_of_opening (hflow : findFlow s n key = some f) (hopening : f.e = none)
    (hlow : lowestHeld (openBase f) f.held = some x) :
    reseqOpened n key s
      = let y := runFlow (f.held.length + 1) s { f with e := some x.seg.hdr.seq }
        reseqRetry (putFlow y.1 y.2) n := by
  have hnew : ¬ f.e.isSome = true := by simp [hopening]
  rw [reseqOpened, hflow]
  dsimp only
  rw [if_neg hnew, hlow]

/-- A flow that lacks a segment is released, and counted as timed out. -/
theorem reseqTimeout_of_held (hflow : findFlow s n key = some f) (hheld : f.held ≠ []) (hrunning : f.e ≠ none) :
    reseqTimeout n key s
      = reseqRetry (raise srcGND_RESEQ_TIMEOUT n (bump (reseqRelease s f) (GND_RESEQ_TIMEOUTS n))) n := by
  have hlacks : ¬ (f.held.isEmpty ∨ f.e.isNone) := by simp [hheld, hrunning]
  rw [reseqTimeout, hflow]
  dsimp only
  rw [if_neg hlacks]

theorem reseqEntries_of_single (hflows : s.ground.flows = [f]) : reseqEntries s f.prg = f.held.length := by
  simp [reseqEntries, hflows]

/-- The only flow of a full resequencer holds the oldest entry. -/
theorem reseqForced_of_single (hflows : s.ground.flows = [f]) (hfull : 4096 ≤ f.held.length) :
    reseqForced f.prg s
      = reseqRetry (raise srcGND_RESEQ_FORCED f.prg (bump (reseqRelease s f) (GND_RESEQ_FORCED f.prg))) f.prg := by
  have hholds : f.held ≠ [] := List.ne_nil_of_length_pos (by omega)
  have hroom : ¬ reseqEntries s f.prg < 4096 := by
    rw [reseqEntries_of_single hflows]
    omega
  have hpick : ¬ (f.prg ≠ f.prg ∨ f.held.isEmpty) := by simp [hholds]
  rw [reseqForced, if_neg hroom, hflows]
  dsimp only [List.foldl_cons, List.foldl_nil]
  rw [if_neg hpick]

/-! ### Paths that move (R373) -/

theorem oldRouted_of_mem (hmem : x ∈ s.ground.cells) (hout : x.out = .port b) (hhold : x.hold = .none)
    (hpinned : x.seg.hdr.spray = false) (hbefore : x.stamp < n) : oldRouted s b n = true := by
  rw [oldRouted, List.any_eq_true]
  exact ⟨x, hmem, by simp [hout, hhold, hpinned, hbefore]⟩

/-- A change whose old path still holds a flit releases nothing. -/
theorem releaseRoutes_of_oldRouted (hholds : s.ground.routeHolds = [r]) (hqueued : oldRouted s r.oldPort r.at_ = true) :
    releaseRoutes s = s := by
  have hfree : (s.ground.routeHolds.filter fun h => h.timed && !oldRouted s h.oldPort h.at_) = [] := by simp [hholds, hqueued]
  rw [releaseRoutes, hfree]
  rfl

/-- R373: the only change that holds a path has lasted for its HOLD. -/
theorem routeHoldOver_of_oldRouted (hholds : s.ground.routeHolds = [r]) (hqueued : oldRouted s r.oldPort r.at_ = true) :
    routeHoldOver r.path s = { s with ground := { s.ground with routeHolds := [{ r with timed := true }] } } := by
  have hthis : (s.ground.routeHolds.any fun x => x.path == r.path) = true := by simp [hholds]
  rw [routeHoldOver]
  dsimp only
  rw [if_pos hthis, hholds, List.map_cons, List.map_nil, if_pos rfl]
  exact releaseRoutes_of_oldRouted (r := { r with timed := true }) rfl hqueued

/-! ### O25 -/

/-- Settles O25, one event after another. -/
theorem trafficControl : Obligations.TrafficControl := by
  unfold Obligations.TrafficControl
  refine ⟨?bucket, ?endpointPolicer, ?classPolicer, ?idle, ?openHold, ?timeout, ?forced, ?routeHold⟩
  case bucket =>
    intro s p c hc
    exact ⟨_, congrArg done (refill_of_bucket p s hc), tokensOf_bucketRefilled p c s, inForce_bucketRefilled p c s, rfl⟩
  case endpointPolicer =>
    intro s p v hv hcells
    exact ⟨_, congrArg done (refill_of_endpointPolicer p hv hcells), policerRefilled_effect _ s (endpointPolicer_regs_ne p v)⟩
  case classPolicer =>
    intro s p c hc hcells
    exact ⟨_, congrArg done (refill_of_classPolicer p hc hcells), policerRefilled_effect _ s (classPolicer_regs_ne p c)⟩
  case idle =>
    intro s n src dst tc a b f hflow hheld hfirst hcells
    exact ⟨_, congrArg done (reseqIdle_of_empty hflow hheld hfirst hcells), findFlow_flowFreed n _ s, rfl⟩
  case openHold =>
    intro s n src dst tc a b f c hflow hopening hlow
    exact congrArg (fun u => done (drainWaiting u)) (reseqOpened_of_opening hflow hopening hlow)
  case timeout =>
    intro s n src dst tc a b f hflow hheld hrunning
    exact congrArg (fun u => done (drainWaiting u)) (reseqTimeout_of_held hflow hheld hrunning)
  case forced =>
    rintro s n f hflows rfl hfull
    exact congrArg (fun u => done (drainWaiting u)) (reseqForced_of_single hflows hfull)
  case routeHold =>
    rintro s path r c hholds rfl hmem hout hhold hpinned hbefore
    exact congrArg done (routeHoldOver_of_oldRouted hholds (oldRouted_of_mem hmem hout hhold hpinned hbefore))

end Sys2Proof.Machine
end

section
/-! PROOFS. O3: a quiet state has no consequences (R31, R53, R310, R422, R423, R426, R448). -/

namespace Sys2Proof.Machine

variable {s : State}

/-- A fold whose step leaves the state alone at every element leaves it alone. -/
theorem foldl_eq_self {α : Type} {f : State → α → State} {l : List α} (h : ∀ x ∈ l, f s x = s) : l.foldl f s = s := by
  induction l with
  | nil => rfl
  | cons x r ih =>
    rw [List.foldl_cons, h x List.mem_cons_self]
    exact ih fun y hy => h y (List.mem_cons_of_mem _ hy)

/-- With nothing recorded and nothing due, no consequence follows (R422). -/
theorem settleAll_of_none (k : Nat) (hfires : s.fires = []) (hdues : s.dues = []) : settleAll k s = s := by
  cases k with
  | zero => rfl
  | succ k => rw [settleAll, hfires, hdues]

theorem bootAsk_of_noRequest (h : s.boot.ask = false) : bootAsk s = s := by simp [bootAsk, h]

theorem runDeferred_of_noReset (h : s.flt.jobs = []) : runDeferred s = s := by simp [runDeferred, h]

/-- Outside safe state, with no fence, none is lifted (R422, R423). -/
theorem relift_of_unfenced (hfences : s.flt.fences = []) (hsafe : s.flt.safe = false) : relift s = s := by
  have hsame : { s with flt := { s.flt with fences := [] } } = s := by rw [← hfences]
  have hlifted : { s with flt := { s.flt with safe := false } } = s := by rw [← hsafe]
  rw [relift, hfences, List.filter_nil, hsame]
  dsimp only
  rw [hlifted, ite_self]

theorem dropGone_of_noAccess (h : s.mem.far = []) : dropGone s = s := by simp [dropGone, h]

/-- No flit waits for a unit of its region. -/
theorem groundOn_of_noneHeld (n : Nat) (h : ∀ c ∈ s.ground.cells, c.hold ≠ .off) : groundOn n s = s := by
  cases n with
  | zero => rfl
  | succ n =>
    have hnone : (s.ground.cells.find? fun c => c.hold == .off && !unitHeld s grGND c.slice && rdBit s (G_CTL grPRG c.slice 0) G_CTL_ENABLE)
        = none := by
      rw [List.find?_eq_none]
      intro c hc
      simp [h c hc]
    rw [groundOn, hnone]

theorem runHosts_of_noHost (h : s.mem.hosts = []) : runHosts s = s := by rw [runHosts, h, List.foldl_nil]

/-- A bobbin without a vague step plans nothing again (R122). -/
theorem replan_of_noneVague {b : Nat} (h : ∀ st ∈ (bobOf s b).steps, st.vague = false) : replan b s = s := by
  have hnone : (bobOf s b).steps.filter (·.vague) = [] := by simpa using h
  simp [replan, hnone]

/-- A clause whose checks have not ended has no data work (R53). -/
theorem runWork_of_unchecked {c : Nat} (n : Nat) (h : clsState s c = csVALIDATING → (clsOf s c).checked = false) : runWork n c s = s := by
  cases n with
  | zero => rfl
  | succ n =>
    have hidle : clsState s c ≠ csVALIDATING ∨ (!(clsOf s c).checked) = true := by
      by_cases hst : clsState s c = csVALIDATING
      · simp [h hst]
      · exact .inl hst
    rw [runWork]
    exact if_pos (or_assoc.mp (.inl hidle))

theorem retryAllCqes_of_none (h : (s.sht.qps.all fun e => e.2.cqes.isEmpty) = true) : retryAllCqes s = s := by
  have hnone : s.sht.qps.filter (fun e => !e.2.cqes.isEmpty) = [] := by simpa using h
  rw [retryAllCqes, hnone, List.foldl_nil]

/-- Nothing that waited goes on. -/
theorem goOnAll_of_nothingWaits (hwait : NothingWaits s) (hplans : PlansDone s)
    (hcqes : (s.sht.qps.all fun e => e.2.cqes.isEmpty) = true) : goOnAll s = s := by
  obtain ⟨hground, hcells, hreqs, hfar, hhosts⟩ := hwait
  obtain ⟨hbobs, hcls⟩ := hplans
  have hreply : (s.ground.cells.any (·.hold == .reply)) = false := by
    simpa using fun c hc => (hcells c hc).2
  have hon : groundOn s.ground.cells.length s = s := groundOn_of_noneHeld _ fun c hc => (hcells c hc).1
  have hreplan : s.bobs.foldl (fun u e => replan e.1 u) s = s := foldl_eq_self fun e he => replan_of_noneVague (hbobs e he)
  have hwork : s.cls.foldl (fun u e => runWork (e.2.entries.length + 1) e.1 u) s = s :=
    foldl_eq_self fun e he => runWork_of_unchecked _ (hcls e he)
  rw [goOnAll, dropGone_of_noAccess hfar]
  simp only [hon, hground, hreply, hreqs, List.isEmpty_nil, Bool.not_false, Bool.and_self, if_true, runHosts_of_noHost hhosts, hreplan,
    hwork, retryAllCqes_of_none hcqes]

/-- R31: no turn ends where every turn with work left goes on. -/
theorem map_turns_eq_self {p : Nat × (Nat × Nat) → Bool} {l : SMap (Nat × Nat)} (h : ∀ x ∈ l, 0 < x.2.2 → p x = true) :
    (l.map fun x => if p x then x else (x.1, (x.2.1, 0))) = l := by
  refine (List.map_congr_left fun x hx => ?_).trans (List.map_id l)
  by_cases hp : p x = true
  · exact if_pos hp
  · have hover : x.2.2 = 0 := by
      by_contra hleft
      exact hp (h x hx (Nat.pos_of_ne_zero hleft))
    rw [if_neg hp, ← hover]
    rfl

theorem expireTurns_of_live (h : TurnsLive s) : expireTurns s = s := by
  rw [expireTurns, map_turns_eq_self h.1]

theorem expireShtTurns_of_live (h : TurnsLive s) : expireShtTurns s = s := by
  rw [expireShtTurns, map_turns_eq_self h.2]

/-- Settles O3: each stage of `settle` finds nothing to do. -/
theorem settleQuiet : Obligations.SettleQuiet := by
  unfold Obligations.SettleQuiet
  intro s hquiet
  obtain ⟨hfires, hdues, hjobs, hfences, hsafe, hask, hcqes, hwait, hplans, hturns⟩ := hquiet
  have hall : settleAll settleFuel s = s := settleAll_of_none _ hfires hdues
  simp only [settle, hall, bootAsk_of_noRequest hask, runDeferred_of_noReset hjobs, relift_of_unfenced hfences hsafe,
    goOnAll_of_nothingWaits hwait hplans hcqes, expireTurns_of_live hturns, expireShtTurns_of_live hturns]

end Sys2Proof.Machine
end

section
/-! PROOFS. O54: how a report ends (R416, Table SEC-6). -/

namespace Sys2Proof.Machine

/-- A report that ends: BUSY is 0, and so is LENGTH until a report is stored. -/
def reportEnded (s : State) : State := wrF (wrF s SEC_ATTEST_CTL SEC_ATTEST_CTL_BUSY 0) SEC_ATTEST_CTL SEC_ATTEST_CTL_LENGTH 0

/-- A report that ends shows RESULT `v`. -/
def reportShown (v : Nat) (s : State) : State := wrF (reportEnded s) SEC_ATTEST_CTL SEC_ATTEST_CTL_RESULT v

/-- The report of a state: its body, under the index in force. -/
def reportBody (s : State) : Bytes := attestBody (reportEnded s) s.sec.report s.sec.index

/-- The report with its signature. -/
def signedReport (s : State) : Bytes := reportBody s ++ bslice (Config.sign s.sec.index (reportBody s)) 0 9893

/-- The report with its signature is in the buffer; `reportEnded` leaves the buffer's address as it is. -/
def reportStored (s : State) : State :=
  cdWrite { reportEnded s with sec := { s.sec with index := s.sec.index + 1, report := [] } } (attestBuf (reportEnded s)) (signedReport s)

/-- The report is released: the index has advanced, RESULT is 1, and it counts. -/
def reportReleased (s : State) : State :=
  bump (wrF (wrF (reportStored s) SEC_ATTEST_CTL SEC_ATTEST_CTL_RESULT 1) SEC_ATTEST_CTL SEC_ATTEST_CTL_LENGTH ((signedReport s).length % 65536))
    SEC_REPORTS

variable {s : State}

theorem attestBuf_reportEnded (s : State) : attestBuf (reportEnded s) = attestBuf s := by
  have hne : SEC_ATTEST_SRC ≠ SEC_ATTEST_CTL := by decide
  rw [attestBuf, reportEnded, rdF_wrF_other _ _ _ _ hne, rdF_wrF_other _ _ _ _ hne, attestBuf]

/-- R416: the three ends of a report. -/
theorem attestDone_of_busy (stored : Bool) (hbusy : rdBit s SEC_ATTEST_CTL SEC_ATTEST_CTL_BUSY = true) :
    attestDone stored s = if 2 ^ 40 ≤ s.sec.index then reportShown 3 s
      else if !stored then raise srcSEC_SIGN_STATE 16 (reportShown 2 s) else reportReleased s := by
  rw [attestDone, hbusy, if_neg (by decide)]
  rfl

theorem reportShown_result {v : Nat} (s : State) (hv : v < 4) : rdF (reportShown v s) SEC_ATTEST_CTL SEC_ATTEST_CTL_RESULT = v :=
  (rdF_wrF_same _ _ _ _ (by decide)).trans (Nat.mod_eq_of_lt hv)

/-- What a released report leaves: the next index, the engine idle with RESULT 1, and the report where the buffer was. -/
theorem reportReleased_effect (s : State) :
    (reportReleased s).sec.index = s.sec.index + 1 ∧ rdBit (reportReleased s) SEC_ATTEST_CTL SEC_ATTEST_CTL_BUSY = false
      ∧ rdF (reportReleased s) SEC_ATTEST_CTL SEC_ATTEST_CTL_RESULT = 1
      ∧ (reportReleased s).cdmem = (cdWrite s (attestBuf s) (signedReport s)).cdmem := by
  have hne : SEC_ATTEST_CTL ≠ SEC_REPORTS := by decide
  have hframe := cdWrite_frame { reportEnded s with sec := { s.sec with index := s.sec.index + 1, report := [] } } (attestBuf (reportEnded s))
    (signedReport s)
  refine ⟨?index, ?busy, ?result, ?mem⟩
  case index => rw [reportReleased, bump_sec, wrF_sec, wrF_sec, reportStored, hframe]
  case busy =>
    have hregs : (reportStored s).regs = (reportEnded s).regs := by rw [reportStored, hframe]
    have hended : rdF (reportEnded s) SEC_ATTEST_CTL SEC_ATTEST_CTL_BUSY = 0 := by
      rw [reportEnded, rdF_wrF_field _ _ _ _ _ (by decide), rdF_wrF_same _ _ _ _ (by decide), Nat.zero_mod]
    rw [rdBit, reportReleased, rdF_bump_other _ _ _ hne, rdF_wrF_field _ _ _ _ _ (by decide), rdF_wrF_field _ _ _ _ _ (by decide),
      rdF_congr hregs, hended]
    rfl
  case result =>
    rw [reportReleased, rdF_bump_other _ _ _ hne, rdF_wrF_field _ _ _ _ _ (by decide), rdF_wrF_same _ _ _ _ (by decide)]
    rfl
  case mem =>
    rw [reportReleased, bump_cdmem, wrF_cdmem, wrF_cdmem, reportStored, attestBuf_reportEnded]
    have hsame : { reportEnded s with sec := { s.sec with index := s.sec.index + 1, report := [] } }.cdmem = s.cdmem := rfl
    exact cdWrite_cdmem_congr hsame _ _

/-- Settles O54, by how the report ends: released, refused by the state-store die, or refused for want of an index. -/
theorem signingIndex : Obligations.SigningIndex := by
  unfold Obligations.SigningIndex
  refine ⟨?stored, ?lost, ?exhausted, by decide +kernel⟩
  case stored =>
    intro s hbusy hindex
    have hend : attestDone true s = reportReleased s := by
      rw [attestDone_of_busy true hbusy, if_neg (Nat.not_le.mpr hindex), if_neg (by decide)]
    obtain ⟨hnext, hidle, hresult, hmem⟩ := reportReleased_effect s
    exact ⟨_, congrArg done hend, hnext, hidle, hresult, reportBody s, ⟨_, rfl⟩, hmem⟩
  case lost =>
    intro s hbusy hindex
    have hend : attestDone false s = raise srcSEC_SIGN_STATE 16 (reportShown 2 s) := by
      rw [attestDone_of_busy false hbusy, if_neg (Nat.not_le.mpr hindex), if_pos (by decide)]
    have hresult : rdF (raise srcSEC_SIGN_STATE 16 (reportShown 2 s)) SEC_ATTEST_CTL SEC_ATTEST_CTL_RESULT = 2 := by
      rw [rdF, SEC_ATTEST_CTL, rdReg_raise_csrAddr _ _ _ (by decide) (by decide)]
      exact reportShown_result s (by decide)
    refine ⟨_, congrArg done hend, ?_, ?_, hresult, stickySet_raise _ _ _ (by decide)⟩
    · rw [raise_frame]; rfl
    · rw [raise_frame]; rfl
  case exhausted =>
    intro s b hbusy hindex
    have hend : attestDone b s = reportShown 3 s := by rw [attestDone_of_busy b hbusy, if_pos hindex]
    exact ⟨_, congrArg done hend, rfl, rfl, reportShown_result s (by decide)⟩

end Sys2Proof.Machine
end

section
/-! PROOFS. What an answer and the end of a request leave of the security state: all of it (R271, R279, R285, R296, R363, R375). -/

namespace Sys2Proof.Machine

variable {s : State}

@[simp] theorem raise_sec (f : Src) (u : Nat) (s : State) : (raise f u s).sec = s.sec := by rw [raise_frame]

@[simp] theorem deadTarget_sec (s : State) (n : Nat) (h : Hdr) : (deadTarget s n h).sec = s.sec := by simp [deadTarget]

theorem ite_sec {q : Prop} {dec : Decidable q} {u v : State} (hu : u.sec = s.sec) (hv : v.sec = s.sec) :
    (if q then u else v).sec = s.sec := by
  split <;> assumption

theorem foldl_sec {α : Type} {f : State → α → State} {l : List α} (hf : ∀ u, ∀ x ∈ l, (f u x).sec = u.sec) : (l.foldl f s).sec = s.sec := by
  induction l generalizing s with
  | nil => rfl
  | cons x l ih => exact (ih fun u y hy => hf u y (List.mem_cons_of_mem x hy)).trans (hf s x List.mem_cons_self)

@[simp] theorem cellLeaves_sec (s : State) (c : GCell) : (cellLeaves s c).sec = s.sec := by
  unfold cellLeaves
  dsimp only
  split
  · simp [releaseCredit, modPort]
  · simp

@[simp] theorem freeCells_sec (cs : List GCell) (s : State) : (freeCells cs s).sec = s.sec := foldl_sec fun u c _ => cellLeaves_sec u c

@[simp] theorem pushCell_sec (s : State) (c : GCell) : (pushCell s c).sec = s.sec := by
  unfold pushCell markIn
  dsimp only
  split <;> rfl

@[simp] theorem pinnedIn_sec (s : State) (c : GCell) : (pinnedIn s c).sec = s.sec := by
  have htake (parts : List GCell) (u : State) : (takePinned parts c u).sec = u.sec := ite_sec rfl (freeCells_sec parts _)
  exact ite_sec (ite_sec (pushCell_sec s c) ((htake _ _).trans (pushCell_sec s c))) (pushCell_sec s c)

/-- A segment on a pinned path passes no resequencer. -/
theorem enqueue_sec (s : State) {c : GCell} (hc : c.seg.hdr.spray = false) : (enqueue s c).sec = s.sec := by
  unfold enqueue
  rw [hc]
  split
  · split
    · contradiction
    · contradiction
    · exact pushCell_sec s c
    · exact pinnedIn_sec s c
  · exact pushCell_sec s c

theorem enterAs_sec (reply : Bool) (s : State) {c : GCell} (hc : c.seg.hdr.spray = false) : (enterAs reply s c).sec = s.sec := by
  have hnum (u : State) : numbered u c = (u, c) := by simp [numbered, hc]
  have hin : (if stored s c then s else bump s (GND_FLITS_IN c.slice)).sec = s.sec := ite_sec rfl rfl
  have hrouted (u : State) : (enterRouted u c).sec = u.sec := by
    unfold enterRouted
    split
    · exact ite_sec (enqueue_sec u hc) (ite_sec rfl (ite_sec rfl (enqueue_sec _ hc)))
    · exact enqueue_sec u hc
  unfold enterAs
  simp only [hnum]
  exact ite_sec (ite_sec ((pushCell_sec _ c).trans hin) ((hrouted _).trans hin)) rfl

theorem emitSeg_sec (reply : Bool) (s : State) (o : Origin) {g : Seg} (first : Bool) (hg : g.hdr.spray = false) :
    (emitSeg reply s o g first).sec = s.sec := by
  unfold emitSeg
  dsimp only
  split
  · exact deadTarget_sec s _ _
  · exact enterAs_sec reply s hg

theorem emitAs_sec (reply : Bool) (o : Origin) {m : Msg} (s : State) (hm : m.hdr.spray = false) : (emitAs reply o m s).sec = s.sec := by
  refine ite_sec (foldl_sec fun u g hg => emitSeg_sec reply u o _ ?_) (deadTarget_sec s _ _)
  rw [spray_of_mem_segs (List.fst_mem_of_mem_zipIdx hg), hm]

@[simp] theorem answer_sec (prg : Nat) (m : Msg) (st : Nat) (data : Option Bytes) (s : State) : (answer prg m st data s).sec = s.sec := by
  unfold answer
  split
  · exact ite_sec (emitAs_sec true .home s rfl) rfl
  · exact ite_sec rfl (ite_sec (emitAs_sec _ .home s rfl) (ite_sec rfl (ite_sec (emitAs_sec false .home _ rfl) rfl)))

@[simp] theorem countTier_sec (prg st : Nat) (s : State) : (countTier prg st s).sec = s.sec := ite_sec rfl (ite_sec rfl rfl)

@[simp] theorem farDone_sec (id st : Nat) (data : Bytes) (s : State) : (farDone id st data s).sec = s.sec := by
  have hlate (w : Asker) (u : State) : (lateReply w u).sec = u.sec := by
    unfold lateReply
    split
    · exact ite_sec rfl rfl
    · rfl
  unfold farDone
  split
  · rfl
  · exact ite_sec (hlate _ _) rfl

/-- However a request ends, the security state stays. -/
@[simp] theorem finish_sec (r : Req) (st : Nat) (data : Option Bytes) (s : State) : (finish r st data s).sec = s.sec := by
  have hop (n id : Nat) (olds : List Bytes) (u : State) : (opDone n id st olds u).sec = u.sec := by
    unfold opDone
    split <;> rfl
  unfold finish
  split
  · exact (hop _ _ _ _).trans (countTier_sec _ _ _)
  · exact (farDone_sec _ _ _ _).trans (countTier_sec _ _ _)
  · refine (foldl_sec fun u m _ => (answer_sec _ _ _ _ _).trans (countTier_sec _ _ u)).trans ((answer_sec _ _ _ _ _).trans ?_)
    exact ite_sec (countTier_sec _ _ _) (countTier_sec _ _ _)

/-- R285: the replies that a partition leaves are cleared, and its atomics that wait for one end; the security state stays. -/
theorem flushReplies_sec (p : Nat) (s : State) : (flushReplies p s).sec = s.sec :=
  (foldl_sec fun u r _ => finish_sec r _ _ (dropReq r.arr u)).trans (foldl_sec fun _ _ _ => rfl)

end Sys2Proof.Machine
end

section
/-! PROOFS. O55: partitions that retire, consents that expire, attestation and the TAP (R410, R412, R414, R415). -/

namespace Sys2Proof.Machine

variable {s t : State} {p : Nat}

/-! ### Retirement (R410, Table SEC-4) -/

/-- What a partition leaves in its page once it is FREE: no members and no grants. -/
def partCleared (p : Nat) (s : State) : State :=
  (List.range 8).foldl (fun s i => wrReg s (SEC_PART_GRANT p i) 0) (wrReg s (SEC_PART_MEMBERS p) 0)

theorem rdReg_clearGrants (p : Nat) (l : List Nat) (s : State) (a : Nat) :
    rdReg (l.foldl (fun s i => wrReg s (SEC_PART_GRANT p i) 0) s) a = if ∃ i ∈ l, a = SEC_PART_GRANT p i then 0 else rdReg s a := by
  induction l generalizing s with
  | nil => simp
  | cons j l ih =>
    rw [List.foldl_cons, ih, rdReg_wrReg]
    simp only [List.mem_cons, exists_eq_or_imp]
    by_cases hl : ∃ i ∈ l, a = SEC_PART_GRANT p i
    · simp [hl]
    · simp only [hl, if_false, or_false]

theorem rdReg_partCleared (p : Nat) (s : State) :
    rdReg (partCleared p s) (SEC_PART_MEMBERS p) = 0 ∧ ∀ i < 8, rdReg (partCleared p s) (SEC_PART_GRANT p i) = 0 := by
  refine ⟨?members, fun i hi => ?grant⟩
  case members =>
    rw [partCleared, rdReg_clearGrants, rdReg_wrReg_same, ite_self]
  case grant => rw [partCleared, rdReg_clearGrants, if_pos ⟨i, List.mem_range.mpr hi, rfl⟩]

/-- The retirement of a partition is over. -/
def retired (p : Nat) (s : State) : State := { s with sec := { s.sec with retiring := s.sec.retiring.erase p } }

theorem rdReg_retired (p : Nat) (s : State) (a : Nat) : rdReg (retired p s) a = rdReg s a := rdReg_congr rfl a

/-- R410: where nothing of the partition is left to end, its page is cleared and it is FREE. -/
theorem retireFree_of_empty (hretiring : s.sec.retiring = [p]) (hobjs : s.mem.objs = []) (hdoms : s.mem.doms = [])
    (hregions : partRegions s p = []) :
    retireFree p s = setPartState p 0 (retired p (partCleared p (flushReplies p s))) := by
  have hheld : (!s.sec.retiring.contains p) = false := by simp [hretiring]
  simp only [retireFree, hheld, if_neg Bool.false_ne_true, hobjs, hdoms, List.filter_nil, List.foldl_nil, hregions, partCleared, retired]

theorem partCleared_sec (p : Nat) (s : State) : (partCleared p s).sec = s.sec := foldl_sec fun _ _ _ => rfl

theorem partState_setPartState {v : Nat} (p : Nat) (s : State) (hv : v < 4) : partState (setPartState p v s) p = v :=
  (rdF_wrF_same s _ _ _ (by decide)).trans (Nat.mod_eq_of_lt hv)

/-- A state of a partition is shown beside its members and its grants. -/
theorem rdReg_setPartState_csrAddr (v : Nat) (s : State) {o : Nat} (ho : o % 4096 ≠ 0x100) :
    rdReg (setPartState p v s) (csrAddr grSEC p 0 o) = rdReg s (csrAddr grSEC p 0 o) :=
  rdReg_wrReg_other _ _ (csrAddr_ne_of_off ho)

/-! ### Consents (R414) -/

theorem consentEnd_effect (p : Nat) (s : State) :
    (consentEnd p s).sec.consents = sdel s.sec.consents p
      ∧ rdF (consentEnd p s) (SEC_PART_STATE p) SEC_PART_STATE_CONSENT = 0
      ∧ OnlyRegs [SEC_PART_STATE p, SEC_PART_CONSENT_END p] { s with sec := (consentEnd p s).sec } (consentEnd p s) := by
  have hne : SEC_PART_STATE p ≠ SEC_PART_CONSENT_END p := csrAddr_ne_of_off (by decide)
  refine ⟨rfl, ?consent, rfl, fun a ha => ?frame⟩
  case consent =>
    rw [consentEnd, rdF_wrReg_other _ _ _ hne, rdF_wrF_same _ _ _ _ (by decide)]
    rfl
  case frame =>
    obtain ⟨hstate, hend⟩ : a ≠ SEC_PART_STATE p ∧ a ≠ SEC_PART_CONSENT_END p := by simpa using ha
    exact (rdReg_wrReg_other _ _ hend).trans (rdReg_wrReg_other _ _ hstate)

/-! ### Attestation begins (R415) -/

theorem csrWriteNow_attestCtl (w : Word) (s : State) : csrWriteNow SEC_ATTEST_CTL w s = attestCtl w s := rfl

/-- The nonce is taken from the buffer, and a report is in progress. -/
def attestBegun (s : State) : State :=
  wrF { s with sec := { s.sec with report := cdLoad s (attestBuf s) 32 } } SEC_ATTEST_CTL SEC_ATTEST_CTL_BUSY 1

theorem csrWrite_attestGo (hguard : guardOf s SEC_ATTEST_CTL = none) (hidle : rdBit s SEC_ATTEST_CTL SEC_ATTEST_CTL_BUSY = false) :
    csrWrite SEC_ATTEST_CTL 8 (SEC_ATTEST_CTL_GO.set 0 1) s = attestBegun (okReply s) := by
  have hgo : SEC_ATTEST_CTL_GO.get (SEC_ATTEST_CTL_GO.set 0 1) = 1 := Fld.get_set_same _ _ _ (by decide)
  have hready : rdBit (okReply s) SEC_ATTEST_CTL SEC_ATTEST_CTL_BUSY = false := hidle
  rw [csrWrite_of_guardOf_none _ _ _ hguard, csrWriteNow_attestCtl, attestCtl, if_pos hgo, attestGo, hready, if_neg Bool.false_ne_true,
    attestBegun]

theorem attestBegun_busy (s : State) : rdBit (attestBegun s) SEC_ATTEST_CTL SEC_ATTEST_CTL_BUSY = true := by
  rw [rdBit, attestBegun, rdF_wrF_same _ _ _ _ (by decide)]
  rfl

/-! ### The TAP (R412) -/

theorem tapAccess_of_denied {op : Nat} (a size : Nat) (w : Word) (hop : 2 ≤ op) (hjtag : rdF s SEC_DEBUG SEC_DEBUG_JTAG ≠ 2) :
    tapAccess op a size w s = tapDenied s := by
  have hread : ¬ op ≤ 1 := by omega
  simp [tapAccess, hread, hjtag]

theorem tapDenied_effect (s : State) :
    rdReg (tapDenied s) SEC_TAP_DENIED = rdReg s SEC_TAP_DENIED + 1 ∧ stickySet (tapDenied s) srcSEC_TAP_DENIED 16 = true
      ∧ (tapDenied s).cdmem = s.cdmem ∧ (tapDenied s).mem = s.mem := by
  have hregs : (tapDenied s).regs = (raise srcSEC_TAP_DENIED 16 (bump s SEC_TAP_DENIED)).regs := rfl
  refine ⟨?count, (stickySet_congr hregs _ _).trans (stickySet_raise _ _ _ (by decide)), ?cdmem, raise_mem _ _ _⟩
  case count =>
    rw [rdReg_congr hregs, SEC_TAP_DENIED, rdReg_raise_csrAddr _ _ _ (by decide) (by decide), rdReg_bump, if_pos rfl]
    rfl
  case cdmem =>
    rw [tapDenied, raise_frame]
    rfl

theorem csrRead_fwVersion (s : State) : csrRead CHP_FW_VERSION 8 s = okReply s (rdReg s CHP_FW_VERSION) := rfl

/-- A CSR read over the TAP opens a session, and its answer is shifted out. -/
theorem tapAccess_fwVersion (w : Word) (hjtag : rdF s SEC_DEBUG SEC_DEBUG_JTAG = 2) :
    tapAccess 2 CHP_FW_VERSION 8 w s
      = { s with reply := ⟨false, rdReg s CHP_FW_VERSION⟩,
                 sec := { s.sec with sessions := s.sec.sessions + 1, tap := rdReg s CHP_FW_VERSION } } := by
  have hallowed : debugAllowed s (csrGroup CHP_FW_VERSION) (csrUnit CHP_FW_VERSION) = true := rfl
  rw [tapAccess, hjtag, hallowed]
  simp only [csrRead_fwVersion]
  rfl

/-! ### O55 -/

/-- Settles O55, one command after another. -/
theorem partitionsAndAttestation : Obligations.PartitionsAndAttestation := by
  unfold Obligations.PartitionsAndAttestation
  refine ⟨?retire, ?consent, ?attest, ?denied, ?allowed⟩
  case retire =>
    intro s p _ hretiring hobjs hdoms _ hregions
    have hsec : (partCleared p (flushReplies p s)).sec.retiring = [p] := by rw [partCleared_sec, flushReplies_sec, hretiring]
    obtain ⟨hmembers, hgrants⟩ := rdReg_partCleared p (flushReplies p s)
    have hreg {o : Nat} (ho : o % 4096 ≠ 0x100) : rdReg (setPartState p 0 (retired p (partCleared p (flushReplies p s)))) (csrAddr grSEC p 0 o)
        = rdReg (partCleared p (flushReplies p s)) (csrAddr grSEC p 0 o) :=
      (rdReg_setPartState_csrAddr 0 _ ho).trans (rdReg_retired p _ _)
    refine ⟨_, congrArg done (retireFree_of_empty hretiring hobjs hdoms hregions), partState_setPartState p _ (by decide), ?_, ?_, ?_⟩
    · rw [setPartState, wrF_sec, retired, hsec, List.erase_cons_head]
    · exact (hreg (by decide)).trans hmembers
    · exact fun i hi => (hreg (by omega)).trans (hgrants i hi)
  case consent =>
    intro s p c _ hfind hlate
    have hend : consentExpire p s = consentEnd p s := by simp only [consentExpire, hfind, if_pos hlate]
    exact ⟨_, congrArg done hend, consentEnd_effect p s⟩
  case attest =>
    exact fun s hguard hidle => ⟨_, congrArg done (csrWrite_attestGo hguard hidle), rfl, attestBegun_busy _, rfl, rfl⟩
  case denied =>
    exact fun s op a size w hop hjtag => ⟨_, congrArg done (tapAccess_of_denied a size w hop hjtag), rfl, tapDenied_effect s⟩
  case allowed => exact fun s w hjtag => ⟨_, congrArg done (tapAccess_fwVersion w hjtag), rfl, rfl, rfl⟩

end Sys2Proof.Machine
end

section
/-! PROOFS. O13: writes of G_ERR_STICKY and G_ERR_INJECT (R41, R43, R44, R412, R418), and what a source of any group leaves as it fires. -/

namespace Sys2Proof.Machine

variable {s t : State} {g u p : Nat}

/-! ### A source fires, with the interrupt of R471 where it has one (R418) -/

theorem ibi_frame (r : Nat) (s : State) : ibi r s = { s with boot := (ibi r s).boot } := rfl

/-- Beside what `raise` changes, an in-band interrupt may go out. -/
theorem fireSource_frame (f : Src) (u : Nat) (s : State) :
    fireSource f u s = { s with
      regs := (raise f u s).regs, flt := (raise f u s).flt, fires := (raise f u s).fires, boot := (fireSource f u s).boot } := by
  unfold fireSource
  dsimp only
  split
  · rw [ibi_frame, raise_frame]
  · rw [raise_frame]

theorem fireSource_regs (f : Src) (u : Nat) (s : State) : (fireSource f u s).regs = (raise f u s).regs := by rw [fireSource_frame]

theorem fireSource_reply (f : Src) (u : Nat) (s : State) : (fireSource f u s).reply = s.reply := by rw [fireSource_frame]

theorem fireSource_sets (f : Src) (u : Nat) (s : State) (hb : f.bit < 64) : stickySet (fireSource f u s) f u = true :=
  (stickySet_congr (fireSource_regs f u s) f u).trans (stickySet_raise f u s hb)

theorem fireSource_keepsSet {f f' : Src} {u u' : Nat} (h : stickySet s f u = true) : stickySet (fireSource f' u' s) f u = true :=
  (stickySet_congr (fireSource_regs f' u' s) f u).trans (stickySet_raise_of_set f f' u u' s h)

/-! ### Header registers (Table CTL-3) -/

/-- A header register of a page that exists. -/
theorem regRow?_header {o : Nat} (hu : u < 4096) (hp : p < 16) (ho : o < 0x100) (h : pageExists (csrAddr g u p o) = true) :
    regRow? (csrAddr g u p o) = rowAt (headerRows g u p) o := by
  have hoff : csrOff (csrAddr g u p o) = o := csrOff_csrAddr (by omega)
  rw [regRow?, if_pos h, hoff, if_pos ho, csrGroup_csrAddr hu hp (by omega), csrUnit_csrAddr hu hp (by omega), csrPage_csrAddr hp (by omega)]

/-- A direct write of G_ERR_STICKY clears. -/
theorem csrWriteNow_errSticky (w : Word) (hu : u < 4096) (hp : p < 16) (hpage : pageExists (G_ERR_STICKY g u p) = true)
    (hpark : unitParked s g u = false) : csrWriteNow (G_ERR_STICKY g u p) w s = errClear (csrAddr g u p 0) w s := by
  have hrow : regRow? (G_ERR_STICKY g u p) = some ⟨0x020, 8, 1, [fd 0 16 .w1c 0 .c]⟩ := regRow?_header hu hp (by decide) hpage
  have hg : csrGroup (G_ERR_STICKY g u p) = g := csrGroup_csrAddr hu hp (by decide)
  have hunit : csrUnit (G_ERR_STICKY g u p) = u := csrUnit_csrAddr hu hp (by decide)
  have hoff : csrOff (G_ERR_STICKY g u p) = 0x020 := csrOff_csrAddr (by decide)
  have hbase : csrBase (G_ERR_STICKY g u p) = csrAddr g u p 0 := csrBase_csrAddr (by decide)
  simp [csrWriteNow, hrow, hg, hunit, hoff, hbase, hpark, fd]

/-- A direct write of G_ERR_INJECT fires sources. -/
theorem csrWriteNow_errInject (w : Word) (hu : u < 4096) (hp : p < 16) (hpage : pageExists (G_ERR_INJECT g u p) = true)
    (hpark : unitParked s g u = false) : csrWriteNow (G_ERR_INJECT g u p) w s = errInject (csrAddr g u p 0) w s := by
  have hrow : regRow? (G_ERR_INJECT g u p) = some ⟨0x038, 8, 1, [fd 0 16 .wo 0 .const]⟩ := regRow?_header hu hp (by decide) hpage
  have hg : csrGroup (G_ERR_INJECT g u p) = g := csrGroup_csrAddr hu hp (by decide)
  have hunit : csrUnit (G_ERR_INJECT g u p) = u := csrUnit_csrAddr hu hp (by decide)
  have hoff : csrOff (G_ERR_INJECT g u p) = 0x038 := csrOff_csrAddr (by decide)
  have hbase : csrBase (G_ERR_INJECT g u p) = csrAddr g u p 0 := csrBase_csrAddr (by decide)
  simp [csrWriteNow, hrow, hg, hunit, hoff, hbase, hpark, fd]

/-! ### Bits are cleared (R418) -/

/-- The bits that a write names are cleared in a sticky register, and the write is answered. -/
def stickyCleared (a : Nat) (w : Word) (s : State) : State := okReply (wrReg s a (rdReg s a &&& ~~~w))

theorem errClear_of_noCause (w : Word) (h : s.flt.causes = []) :
    errClear (csrAddr g u p 0) w s = stickyCleared (G_ERR_STICKY g u p) w s := by
  have hsame : { s.flt with causes := [] } = s.flt := by rw [← h]
  rw [errClear, csrAddr_add]
  simp only [okReply_flt, wrReg_flt, h, List.filter_nil, List.foldl_nil, hsame]
  rfl

/-- A cause other than a hang persists, and fires its source again where the write cleared its bit. -/
theorem errClear_of_cause {c : Cause} (w : Word) (h : s.flt.causes = [c]) (hbit : c.src.bit ≠ 15) :
    errClear (csrAddr g u p 0) w s
      = if G_ERR_STICKY c.src.g c.unit c.src.p = G_ERR_STICKY g u p ∧ bit (rdReg s (G_ERR_STICKY g u p) &&& w).toNat c.src.bit
        then fireSource c.src c.unit (stickyCleared (G_ERR_STICKY g u p) w s) else stickyCleared (G_ERR_STICKY g u p) w s := by
  have hholds (v : State) : causeHolds v c = true := by simp [causeHolds, hbit]
  have hsame : { s.flt with causes := [c] } = s.flt := by rw [← h]
  rw [errClear, csrAddr_add]
  simp only [okReply_flt, wrReg_flt, h, List.filter_cons_of_pos (hholds _), List.filter_nil, hsame, List.foldl_cons, List.foldl_nil]
  rfl

theorem bit_of_and {x y : Word} {n : Nat} : bit (x &&& y).toNat n = (bit x.toNat n && bit y.toNat n) := by
  simp [bit_eq_testBit, BitVec.toNat_and, Nat.testBit_and]

theorem bit_lt {w : Word} {n : Nat} (h : bit w.toNat n = true) : n < 64 := by
  by_contra hn
  rw [bit_eq_testBit, ← BitVec.getLsbD, BitVec.getLsbD_of_ge w n (by omega)] at h
  cases h

/-- A bit that the written ones do not meet stays. -/
theorem bit_clear_of_unmet {x w : Word} {n : Nat} (h : bit (x &&& w).toNat n = false) : bit (x &&& ~~~w).toNat n = bit x.toNat n := by
  by_cases hn : n < 64
  · have hnot : bit (~~~w).toNat n = !bit w.toNat n := by
      rw [bit_eq_testBit, bit_eq_testBit, ← BitVec.getLsbD, ← BitVec.getLsbD, BitVec.getLsbD_not, decide_eq_true hn, Bool.true_and]
    rw [bit_of_and] at h ⊢
    rw [hnot]
    cases hx : bit x.toNat n <;> simp_all
  · have hzero (y : Word) : bit y.toNat n = false := Bool.eq_false_iff.mpr fun hy => hn (bit_lt hy)
    rw [hzero, hzero]

theorem stickySet_stickyCleared (f : Src) (w : Word) (a : Nat) (h : ¬(G_ERR_STICKY f.g u f.p = a ∧ bit (rdReg s a &&& w).toNat f.bit = true)) :
    stickySet (stickyCleared a w s) f u = stickySet s f u := by
  rw [stickySet, stickyCleared, rdReg_congr (okReply_regs _ _), rdReg_wrReg]
  split
  · next ha =>
    subst ha
    exact bit_clear_of_unmet (by simpa using h)
  · rfl

/-- R418: the bit of a persisting cause reads after the write as before it. -/
theorem errClear_keepsCause {c : Cause} (w : Word) (h : s.flt.causes = [c]) (hbit : c.src.bit ≠ 15) :
    (errClear (csrAddr g u p 0) w s).reply = ⟨false, 0⟩
      ∧ stickySet (errClear (csrAddr g u p 0) w s) c.src c.unit = stickySet s c.src c.unit := by
  rw [errClear_of_cause w h hbit]
  split
  · next hgone =>
    obtain ⟨ha, hset⟩ := hgone
    rw [bit_of_and, Bool.and_eq_true] at hset
    have hwas : stickySet s c.src c.unit = true := by
      rw [stickySet, ha]
      exact hset.1
    exact ⟨fireSource_reply _ _ _, (fireSource_sets _ _ _ (bit_lt hset.1)).trans hwas.symm⟩
  · next hkept => exact ⟨rfl, stickySet_stickyCleared _ w _ hkept⟩

/-! ### Errors are injected (R43, R412) -/

/-- The sources of a page that a word names fire, one after another. -/
def fireNamed (g u p : Nat) (w : Word) (l : List (Nat × Nat)) (s : State) : State :=
  l.foldl (fun s x => if bit w.toNat x.1 then fireSource ⟨g, p, x.1⟩ u s else s) s

theorem fireNamed_reply (w : Word) (l : List (Nat × Nat)) (s : State) : (fireNamed g u p w l s).reply = s.reply := by
  induction l generalizing s with
  | nil => rfl
  | cons x l ih =>
    refine (ih _).trans ?_
    dsimp only
    split
    · exact fireSource_reply _ _ _
    · rfl

theorem fireNamed_keepsSet {f : Src} {v : Nat} (w : Word) (l : List (Nat × Nat)) (h : stickySet s f v = true) :
    stickySet (fireNamed g u p w l s) f v = true := by
  induction l generalizing s with
  | nil => exact h
  | cons x l ih => exact ih (stickySet_ite (fireSource_keepsSet h) h)

theorem fireNamed_sets {w : Word} {l : List (Nat × Nat)} {x : Nat × Nat} (hx : x ∈ l) (hw : bit w.toNat x.1 = true) (s : State) :
    stickySet (fireNamed g u p w l s) ⟨g, p, x.1⟩ u = true := by
  induction l generalizing s with
  | nil => cases hx
  | cons y l ih =>
    rcases List.mem_cons.mp hx with rfl | hl
    · refine fireNamed_keepsSet w l ?_
      dsimp only
      rw [if_pos hw]
      exact fireSource_sets _ _ _ (bit_lt hw)
    · exact ih hl _

theorem errInject_of_allowed (w : Word) (hu : u < 4096) (hp : p < 16) (hinject : rdBit s SEC_DEBUG SEC_DEBUG_INJECT = true)
    (hdebug : debugAllowed s g u = true) : errInject (csrAddr g u p 0) w s = fireNamed g u p w (pageSources g u p) (okReply s) := by
  rw [errInject, csrGroup_csrAddr hu hp (by decide), csrUnit_csrAddr hu hp (by decide), csrPage_csrAddr hp (by decide), hinject, hdebug,
    Bool.and_self, if_pos rfl]
  rfl

/-! ### O13 -/

/-- Settles O13: a clear without a cause, a clear that a cause undoes, and an injection. -/
theorem stickyBitsClear : Obligations.StickyBitsClear := by
  unfold Obligations.StickyBitsClear
  refine ⟨?clear, ?cause, ?inject⟩
  case clear =>
    intro s g u p w _ hu hp hpage hguard hpark hcauses
    have hwrite : csrWrite (G_ERR_STICKY g u p) 8 w s = stickyCleared (G_ERR_STICKY g u p) w s := by
      rw [csrWrite_of_guardOf_none _ _ _ hguard, csrWriteNow_errSticky w hu hp hpage hpark, errClear_of_noCause w hcauses]
    refine ⟨_, congrArg done hwrite, rfl, rdReg_wrReg_same _ _ _, onlyRegs_wrReg _ _ _⟩
  case cause =>
    intro s g u p w c _ hu hp hpage hguard hpark hcauses hbit
    have hwrite : csrWrite (G_ERR_STICKY g u p) 8 w s = errClear (csrAddr g u p 0) w s := by
      rw [csrWrite_of_guardOf_none _ _ _ hguard, csrWriteNow_errSticky w hu hp hpage hpark]
    exact ⟨_, congrArg done hwrite, errClear_keepsCause w hcauses hbit⟩
  case inject =>
    intro s g u p w _ hu hp hpage hguard hpark hinject hdebug
    have hwrite : csrWrite (G_ERR_INJECT g u p) 8 w s = fireNamed g u p w (pageSources g u p) (okReply s) := by
      rw [csrWrite_of_guardOf_none _ _ _ hguard, csrWriteNow_errInject w hu hp hpage hpark, errInject_of_allowed w hu hp hinject hdebug]
    exact ⟨_, congrArg done hwrite, fireNamed_reply _ _ _, fun x hx hw => fireNamed_sets hx hw _⟩

end Sys2Proof.Machine
end

section
/-! PROOFS. O58: mailboxes as their parties push, pop and clear (R453 to R456, R460). -/

namespace Sys2Proof.Machine

variable {s t : State} {b : Nat}

/-! ### A message of the board controller (R453, R454) -/

/-- The board controller is no source that a binding names: what `source` says does not matter for it. -/
theorem mbxAccept_board (len source source' : Nat) (part : Option Nat) (ep port tag : Nat) (data : List Word) (s : State) :
    mbxAccept b 4 source len part ep port tag data s = mbxAccept b 4 source' len part ep port tag data s := by
  have hnamed : ¬((4 : Nat) = 1 ∨ (4 : Nat) = 2) := by decide
  simp only [mbxAccept, hnamed, false_and, or_false]

theorem take_wordsOf (n : Nat) (d : Bytes) : (wordsOf n d).take n = wordsOf n d :=
  List.take_of_length_le (by simp [wordsOf])

/-- R454: a message that the board controller pushes into mailbox 63 is taken whole, behind the header of the device. -/
theorem mbxPush_board (port : Nat) (m : Msg) (hon : unitOn s grMBX 63 = true) (hkind : mbxKind s 63 = 4)
    (hroom : (mbxOf s 63).inq.length + leAt m.pay 1 1 % 8 + 1 ≤ 16) :
    mbxOf (mbxPush 4 port m s) 63
        = mbxTaken 4 (leAt m.pay 1 1 % 8) none 0 0 (leAt m.pay 2 1) (wordsOf (leAt m.pay 1 1 % 8) (bslice m.pay 8 56)) (mbxOf s 63)
      ∧ rdReg (mbxPush 4 port m s) (MBX_ACCEPTED 63) = rdReg s (MBX_ACCEPTED 63) + 1 := by
  obtain ⟨t, haccept, htaken, hcount⟩ := mbxAccept_of_room none 0 0 (leAt m.pay 2 1) (wordsOf (leAt m.pay 1 1 % 8) (bslice m.pay 8 56))
    (by decide) hon hkind rfl hroom
  have hpush : mbxPush 4 port m s = t := by
    rw [mbxAccept_board _ _ 0] at haccept
    simp [mbxPush, haccept]
  rw [hpush]
  exact ⟨htaken, hcount⟩

theorem mbxAt_board (port : Nat) (m : Msg) (h : GroundIdle s) : mbxAt 4 port m s = mbxPush 4 port m s := by
  have hboard : ¬((4 : Nat) = 1 ∧ (!(m.asOp tNOTIFY 0x10).tcOk) = true) := by simp
  rw [mbxAt, takeDelivered_of_idle _ _ h]
  exact if_neg hboard

/-! ### Words are read and written (R454, R456) -/

theorem regRow?_mbxInPop : ∀ b < 64, (regRow? (MBX_IN_POP b)).isNone = false := by decide +kernel

/-- A read of MBX_IN_POP takes a word. -/
theorem csrRead_mbxInPop (hb : b < 64) : csrRead (MBX_IN_POP b) 8 s = mbxInPop b s := by
  have hg : csrGroup (MBX_IN_POP b) = grMBX := csrGroup_csrAddr (by omega) (by decide) (by decide)
  have hu : csrUnit (MBX_IN_POP b) = b := csrUnit_csrAddr (by omega) (by decide) (by decide)
  have hne : ∀ k < 64, MBX_IN_POP k ≠ CLS_ALLOC ∧ MBX_IN_POP k ≠ TIM_NOW ∧ MBX_IN_POP k ≠ PWR_RAIL_MIN := by decide
  simp [csrRead, regRow?_mbxInPop b hb, hne b hb, hg, hu]

theorem mbxInPop_of_word {w : Word} {r : List Word} (h : (mbxOf s b).inq = w :: r) :
    mbxInPop b s = okReply (bump (setMbx b { mbxOf s b with inq := r } s) (MBX_POPPED b)) w := by
  simp only [mbxInPop, h]

theorem mbxInPop_of_empty (h : (mbxOf s b).inq = []) : mbxInPop b s = okReply s 0 := by simp only [mbxInPop, h]

theorem regRow?_mbxOutPush : ∀ b < 64, regRow? (MBX_OUT_PUSH b) = some ⟨0x120, 8, 1, [fd 0 64 .wo 0 .const]⟩ := by decide +kernel

/-- A write of MBX_OUT_PUSH pushes a word. -/
theorem csrWriteNow_mbxOutPush (w : Word) (hb : b < 64) : csrWriteNow (MBX_OUT_PUSH b) w s = mbxOutPush b w s := by
  have hg : csrGroup (MBX_OUT_PUSH b) = grMBX := csrGroup_csrAddr (by omega) (by decide) (by decide)
  have hu : csrUnit (MBX_OUT_PUSH b) = b := csrUnit_csrAddr (by omega) (by decide) (by decide)
  have ho : csrOff (MBX_OUT_PUSH b) = 0x120 := csrOff_csrAddr (by decide)
  have hpark : unitParked s grMBX b = false := rfl
  have hgr : grMBX ≠ grCLS ∧ grMBX ≠ grCRG ∧ grMBX ≠ grBOB := by decide
  have hne : ∀ k < 64, MBX_OUT_PUSH k ≠ TIM_SET ∧ MBX_OUT_PUSH k ≠ MRG_HQ_CTL ∧ MBX_OUT_PUSH k ≠ SEC_ATTEST_CTL
      ∧ MBX_OUT_PUSH k ≠ FLT_DUMP_CTL ∧ MBX_OUT_PUSH k ≠ CHP_RESTART ∧ MBX_OUT_PUSH k ≠ CHP_WDOG := by decide
  rw [csrWriteNow, regRow?_mbxOutPush b hb]
  simp [hg, hu, ho, hpark, hgr, hne b hb, fd]

/-- R456: the header that the device makes of one that is pushed: its LENGTH and TAG, and the next SEQ. -/
def outHeader (w : Word) (x : Mbx) : Word :=
  BitVec.ofNat 64 (bits w.toNat 5 3 * 2 ^ 3 + (x.outSeq + 1) % 256 * 2 ^ 48 + bits w.toNat 63 56 * 2 ^ 56)

/-- A mailbox whose outbound queue has taken a header: it lacks the message's words. -/
def outBegun (w : Word) (x : Mbx) : Mbx :=
  { x with outq := x.outq ++ [outHeader w x], outSeq := (x.outSeq + 1) % 256, need := bits w.toNat 5 3 }

theorem mbxOutPush_of_header {w : Word} (hneed : (mbxOf s b).need = 0) (hlen : 0 < bits w.toNat 5 3)
    (hroom : (mbxOf s b).outq.length + bits w.toNat 5 3 + 1 ≤ 16) :
    mbxOutPush b w s = okReply (setMbx b (outBegun w (mbxOf s b)) s) := by
  rw [mbxOutPush]
  dsimp only
  rw [if_pos hneed, if_neg (Nat.not_lt.mpr hroom), if_neg hlen.ne']
  rfl

/-! ### Bits are cleared (R455) -/

theorem doorbellClear_of_unguarded (full : Bool) (w sets : Word) (h : guardOf s (if full then MBX_FULL_PEND else MBX_DOORBELL) = none) :
    doorbellClear full w sets s = mbxClear full w sets s := by
  simp [doorbellClear, heldBy, h]

/-- The register keeps the bits that are set, and nothing but it and the answer changes. -/
theorem mbxClear_effect (full : Bool) (w sets : Word) (s : State) :
    (mbxClear full w sets s).reply = ⟨false, 0⟩
      ∧ rdReg (mbxClear full w sets s) (if full then MBX_FULL_PEND else MBX_DOORBELL)
        = (rdReg s (if full then MBX_FULL_PEND else MBX_DOORBELL) &&& ~~~w) ||| (if full then sets else sets &&& 0xFFFFFFFF#64)
      ∧ OnlyRegs [if full then MBX_FULL_PEND else MBX_DOORBELL] { s with reply := (mbxClear full w sets s).reply } (mbxClear full w sets s) := by
  unfold mbxClear
  generalize (if full then MBX_FULL_PEND else MBX_DOORBELL) = a
  generalize (if full then sets else sets &&& 0xFFFFFFFF#64) = kept
  exact ⟨rfl, rdReg_wrReg_same s a _, onlyRegs_wrReg _ _ _⟩

/-! ### O58 -/

/-- Settles O58, one access or message after another. -/
theorem mailboxes : Obligations.Mailboxes := by
  unfold Obligations.Mailboxes
  refine ⟨?push, ?pop, ?empty, ?header, ?clear, fun s => ⟨_, rfl, rfl, rfl, rfl⟩⟩
  case push =>
    intro s port m hidle hon hkind hroom
    obtain ⟨htaken, hcount⟩ := mbxPush_board port m hon hkind hroom
    refine ⟨_, congrArg done (mbxAt_board port m hidle), ?_, hcount⟩
    rw [htaken, mbxTaken, take_wordsOf]
  case pop =>
    intro s b w r hb hinq
    obtain ⟨hmail, hcount⟩ := bump_setMbx_effect (o := 0xC18) b { mbxOf s b with inq := r } s (by decide)
    refine ⟨_, congrArg done ((csrRead_mbxInPop hb).trans (mbxInPop_of_word hinq)), rfl, ?_, ?_⟩
    · exact congrArg Mbx.inq ((mbxOf_congr (okReply_mbx _ _) b).trans hmail)
    · exact (rdReg_congr (okReply_regs _ _) _).trans hcount
  case empty =>
    intro s b hb hinq
    exact congrArg done ((csrRead_mbxInPop hb).trans (mbxInPop_of_empty hinq))
  case header =>
    intro s b w hb hguard hneed hlen hroom
    have hwrite : csrWrite (MBX_OUT_PUSH b) 8 w s = okReply (setMbx b (outBegun w (mbxOf s b)) s) := by
      rw [csrWrite_of_guardOf_none _ _ _ hguard, csrWriteNow_mbxOutPush w hb, mbxOutPush_of_header hneed hlen hroom]
    have hmail : mbxOf (okReply (setMbx b (outBegun w (mbxOf s b)) s)) b = outBegun w (mbxOf s b) :=
      (mbxOf_congr (okReply_mbx _ _) b).trans (mbxOf_setMbx_same b _ s)
    refine ⟨_, congrArg done hwrite, rfl, ?_, ?_⟩
    · rw [hmail, outBegun]
    · rw [hmail, outBegun, outHeader]
  case clear =>
    intro s full w sets hguard
    exact ⟨_, congrArg done (doorbellClear_of_unguarded full w sets hguard), mbxClear_effect full w sets s⟩

end Sys2Proof.Machine
end

section
/-! PROOFS. O57: power-on, the loader, restarts and the watchdog (R445 to R450, R460, R467). -/

namespace Sys2Proof.Machine

variable {s t : State}

/-! ### What the board controller is told (R460) -/

/-- An interrupt is sent or held; nothing else of the control die changes. -/
theorem ibi_boot (r : Nat) (s : State) :
    (ibi r s).boot = { s.boot with ibiHeld := (ibi r s).boot.ibiHeld, ibiSent := (ibi r s).boot.ibiSent } := by
  unfold ibi modBoot
  dsimp only
  split
  · rfl
  · split <;> rfl

theorem ibi_of_address (r : Nat) (h : s.boot.i3c = true) : ibi r s = { s with boot := { s.boot with ibiSent := s.boot.ibiSent ++ [r] } } := by
  rw [ibi, modBoot, if_pos h]

theorem ibi_of_noAddress {r : Nat} (h : s.boot.i3c = false) (hnew : s.boot.ibiHeld.contains r = false) :
    ibi r s = { s with boot := { s.boot with ibiHeld := s.boot.ibiHeld ++ [r] } } := by
  have haddress : ¬s.boot.i3c = true := by rw [h]; exact Bool.false_ne_true
  have hheld : ¬s.boot.ibiHeld.contains r = true := by rw [hnew]; exact Bool.false_ne_true
  rw [ibi, modBoot, if_neg haddress, if_neg hheld]

/-! ### The loader asks a source (R448) -/

theorem bootState_setBootState {v : Nat} (s : State) (hv : v < 8) : bootState (setBootState v s) = v :=
  (rdF_wrF_same s _ _ _ (by decide)).trans (Nat.mod_eq_of_lt hv)

theorem setBootState_cdmem (v : Nat) (s : State) : (setBootState v s).cdmem = s.cdmem := rfl

/-- The loader fetches from the source asked, which CHP_BOOT_STATE shows. -/
def sourceShown (s : State) : State :=
  let hlk := bootSources.getD s.boot.src false
  let s := modBoot s fun b => { b with fetching := true, retry := false, chunk := false, ask := hlk }
  wrF (if bootState s = bsRESTARTING then s else setBootState bsFETCH s) CHP_BOOT_STATE CHP_BOOT_STATE_SOURCE hlk.toNat

theorem sourceShown_effect (s : State) :
    sourceShown s = { s with regs := (sourceShown s).regs, boot := (sourceShown s).boot }
      ∧ (sourceShown s).boot = { s.boot with fetching := true, retry := false, chunk := false, ask := bootSources.getD s.boot.src false }
      ∧ bootState (sourceShown s) = (if bootState s = bsRESTARTING then bsRESTARTING else bsFETCH)
      ∧ ∀ a, a ≠ CHP_BOOT_STATE → rdReg (sourceShown s) a = rdReg s a := by
  have hstate (v : Nat) (u : State) : bootState (wrF u CHP_BOOT_STATE CHP_BOOT_STATE_SOURCE v) = bootState u :=
    rdF_wrF_field _ _ _ _ _ (by decide)
  unfold sourceShown
  dsimp only
  rw [hstate]
  split
  · next hrestart =>
    rw [if_pos (show bootState s = bsRESTARTING from hrestart)]
    exact ⟨rfl, rfl, hrestart, fun a ha => rdReg_wrReg_other _ _ ha⟩
  · next hfetch =>
    rw [if_neg (show ¬bootState s = bsRESTARTING from hfetch)]
    exact ⟨rfl, rfl, bootState_setBootState _ (by decide), fun a ha => (rdReg_wrReg_other _ _ ha).trans (rdReg_wrReg_other _ _ ha)⟩

/-- The request for an image leaves, or its port trains first. -/
def sourceAsked (s : State) : State :=
  if s.boot.ask then (if linkState s bootPort = lsDISABLED then setLink s bootPort lsDETECT else s)
  else mgmtFrame 4 (zeros 6 ++ leBytes 8 fuseDeviceId ++ zeros 8) s

theorem bootRequest_eq (s : State) : bootRequest s = sourceAsked (sourceShown s) := by
  rw [sourceAsked, (sourceShown_effect s).2.1]
  rfl

theorem sourceAsked_effect (s : State) :
    sourceAsked s = { s with regs := (sourceAsked s).regs, boot := (sourceAsked s).boot }
      ∧ (sourceAsked s).boot = { s.boot with mgmt := (sourceAsked s).boot.mgmt }
      ∧ ∀ a, a ≠ PRT_LINK_STATE bootPort → rdReg (sourceAsked s) a = rdReg s a := by
  unfold sourceAsked
  split
  · split
    · exact ⟨rfl, rfl, fun a ha => rdReg_wrReg_other _ _ ha⟩
    · exact ⟨rfl, rfl, fun _ _ => rfl⟩
  · exact ⟨rfl, rfl, fun _ _ => rfl⟩

theorem bootState_ne_linkState (p : Nat) : CHP_BOOT_STATE ≠ PRT_LINK_STATE p := csrAddr_ne_of_off (by decide)

/-- What a request to a source leaves: the loader fetches, and two registers show it. -/
theorem bootRequest_effect (s : State) :
    bootRequest s = { s with regs := (bootRequest s).regs, boot := (bootRequest s).boot }
      ∧ (bootRequest s).boot = { s.boot with
          fetching := true, retry := false, chunk := false, ask := bootSources.getD s.boot.src false, mgmt := (bootRequest s).boot.mgmt }
      ∧ bootState (bootRequest s) = (if bootState s = bsRESTARTING then bsRESTARTING else bsFETCH)
      ∧ ∀ a, a ∉ [CHP_BOOT_STATE, PRT_LINK_STATE bootPort] → rdReg (bootRequest s) a = rdReg s a := by
  obtain ⟨hshown, hboot, hstate, hregs⟩ := sourceShown_effect s
  obtain ⟨hasked, hmgmt, hlink⟩ := sourceAsked_effect (sourceShown s)
  rw [bootRequest_eq]
  refine ⟨?frame, ?boot, ?state, fun a ha => ?regs⟩
  case frame => exact hasked.trans (by rw [hshown])
  case boot => exact hmgmt.trans (by rw [hboot])
  case state => exact (congrArg (Fld.get _) (hlink _ (bootState_ne_linkState _))).trans hstate
  case regs =>
    obtain ⟨hchp, hprt⟩ : a ≠ CHP_BOOT_STATE ∧ a ≠ PRT_LINK_STATE bootPort := by simpa using ha
    exact (hlink a hprt).trans (hregs a hchp)

/-! ### Power-on (R446, R467) -/

/-- The device as power-on leaves it, before the loader starts. -/
def poweredOn (rails : List Nat) (s : State) : State :=
  { State.reset with
    pending := s.pending, free := s.free
    boot := { State.reset.boot with shadow := s.boot.shadow, on := true }
    sec := { State.reset.sec with index := s.sec.index }
    pwr := { State.reset.pwr with
      mv := (List.range 44).foldl (fun m r => sput m r (rails.getD r 0)) [], trip := s.pwr.trip } }

theorem powerOn_of_good {rails : List Nat} (hoff : s.boot.on = false) (hshadow : s.boot.shadow = some fuses)
    (hgood : ((List.range 44).all fun r => railGood r (rails.getD r 0)) = true) : powerOn rails s = bootRequest (poweredOn rails s) := by
  have hon : (s.boot.on || !((List.range 44).all fun r => railGood r (rails.getD r 0))) = false := by rw [hoff, hgood]; rfl
  have hrom : romStart (poweredOn rails s) = bootRequest (poweredOn rails s) := by
    have hheld : (poweredOn rails s).boot.shadow = some fuses := hshadow
    rw [romStart, hheld]
    exact if_pos rfl
  rw [powerOn, hon, if_neg Bool.false_ne_true]
  exact hrom

theorem poweredOn_regs (rails : List Nat) (s : State) : (poweredOn rails s).regs = State.reset.regs := rfl

theorem poweredOn_on (rails : List Nat) (s : State) : (poweredOn rails s).boot.on = true := rfl

/-- Power-on leaves the state of reset, but for the waiting commands, the signing index, the boot state, the registers and the supply. -/
theorem poweredOn_frame (rails : List Nat) (s : State) (rs : SMap Word) (b : Boot) {p : Power} (hp : p = (poweredOn rails s).pwr) :
    { poweredOn rails s with regs := rs, boot := b }
      = { State.reset with
          regs := rs, boot := b, pwr := p, pending := s.pending, free := s.free, sec := { State.reset.sec with index := s.sec.index } } := by
  subst hp
  rfl

theorem bootState_poweredOn (rails : List Nat) (s : State) : bootState (poweredOn rails s) = bsROM := by
  have hregs : (poweredOn rails s).regs = State.reset.regs := rfl
  rw [bootState, rdF_congr hregs]
  decide +kernel

/-! ### A source fails (R448) -/

/-- The loader once its source has failed: at the next one, or waiting to start again. -/
def sourceFailed (s : State) : State :=
  if s.boot.src + 1 < bootSources.length then
    bootRequest { ibi ibiBOOT_WAIT s with boot := { (ibi ibiBOOT_WAIT s).boot with src := s.boot.src + 1 } }
  else { ibi ibiBOOT_WAIT s with boot := { (ibi ibiBOOT_WAIT s).boot with retry := true, ask := false } }

theorem bootFail_eq (s : State) : bootFail s = sourceFailed s := by
  have hsrc : (ibi ibiBOOT_WAIT s).boot.src = s.boot.src := by rw [ibi_boot]
  simp only [bootFail, bootNext, modBoot, hsrc, sourceFailed]

theorem bootTimeout_of_silence (hfetch : s.boot.fetching = true) (hretry : s.boot.retry = false) (hchunk : s.boot.chunk = false) :
    bootTimeout s = sourceFailed s := by
  simp [bootTimeout, hfetch, hretry, hchunk, bootFail_eq]

theorem bootNone_of_asked (hfetch : s.boot.fetching = true) (hretry : s.boot.retry = false) :
    bootNone (bootSources.getD s.boot.src false) s = sourceFailed s := by
  simp [bootNone, hfetch, hretry, bootFail_eq]

/-- After the second the loader starts with the first source. -/
theorem bootRetry_of_waiting (hfetch : s.boot.fetching = true) (hretry : s.boot.retry = true) :
    bootRetry s = bootRequest (modBoot s fun b => { b with src := 0 }) := by
  simp [bootRetry, hfetch, hretry]

/-! ### Chunks (R448) -/

theorem bootChunk_of_held {off : Nat} {d : Bytes} (hfetch : s.boot.fetching = true)
    (hheld : off + d.length ≤ heldTo s.boot.pieces (s.boot.pieces.length + 1) off) :
    bootChunk off d s = { s with boot := { s.boot with chunk := true } } := by
  simp [bootChunk, hfetch, hheld, modBoot]

/-- A chunk that brings bytes is kept, and the loader looks whether the image is complete. -/
theorem bootChunk_of_new {off : Nat} {d : Bytes} {u : State} (hfetch : s.boot.fetching = true)
    (hnew : heldTo s.boot.pieces (s.boot.pieces.length + 1) off < off + d.length)
    (hu : u = { s with boot := { s.boot with chunk := true, pieces := s.boot.pieces ++ [(off, d)] } }) :
    bootChunk off d s
      = if 0x2800 ≤ imageHeld u ∧ imageNeed u ≤ imageHeld u ∧ bootState s ≠ bsRESTARTING then setBootState bsVERIFY u else u := by
  subst hu
  have hon : ¬(!s.boot.fetching) = true := by rw [hfetch]; exact Bool.false_ne_true
  rw [bootChunk, if_neg hon]
  exact if_neg (Nat.not_le.mpr hnew)

/-! ### An image is checked (R447) -/

theorem length_imageBytes (ps : List (Nat × Bytes)) (a n : Nat) : (imageBytes ps a n).length = n := by simp [imageBytes]

/-- A slice of a run of an image's bytes is a run of them. -/
theorem bslice_imageBytes (ps : List (Nat × Bytes)) (a : Nat) {i k n : Nat} (h : i + k ≤ n) :
    bslice (imageBytes ps a n) i k = imageBytes ps (a + i) k := by
  have hrun : ((imageBytes ps a n).drop i).take k = imageBytes ps (a + i) k := by
    refine List.ext_getElem ?_ fun j hj hj' => ?_
    · simp only [List.length_take, List.length_drop, length_imageBytes]
      omega
    · simp only [List.getElem_take, List.getElem_drop, imageBytes, List.getElem_map, List.getElem_range, Nat.add_assoc]
  rw [bslice, hrun, length_imageBytes, Nat.sub_self]
  exact List.append_nil _

/-- BODY_BYTES of the header of an image. -/
theorem leAt_header (ps : List (Nat × Bytes)) : leAt (imageBytes ps 0 0x2800) 0x18 8 = leNat (imageBytes ps 0x18 8) := by
  rw [leAt, bslice_imageBytes ps 0 (by decide), Nat.zero_add]

/-- The body of the image held. -/
def imageBody (ps : List (Nat × Bytes)) : Bytes := imageBytes ps 0x2800 (leNat (imageBytes ps 0x18 8))

/-- An accepted image has been loaded, and the firmware runs. -/
def firmwareLoaded (s : State) : State :=
  let ps := s.boot.pieces
  let hd := imageBytes ps 0 0x2800
  let body := imageBytes ps 0x2800 (leAt hd 0x18 8)
  let s := cdWrite s 0 body
  let s := wrReg s CHP_FW_VERSION (BitVec.ofNat 64 (leAt hd 8 8))
  modBoot s fun b => { b with
    fw := true, fetching := false, ask := false, retry := false, pieces := [], src := 0,
    digest := shake256 (hd ++ body) 32, kicked := s.tim.ref }

/-- The firmware runs, and says so. -/
def firmwareRuns (ready : Bool) (s : State) : State := ibi ibiFW_READY (setBootState (if ready then bsREADY else bsRUNS) (firmwareLoaded s))

theorem imageVerified_of_complete (ready : Bool) (hfetch : s.boot.fetching = true) (hheader : 0x2800 ≤ imageHeld s)
    (hbody : imageNeed s ≤ imageHeld s) :
    imageVerified ready s = if imageOk s.boot.pieces then firmwareRuns ready s
      else bootNext (ibi ibiBOOT_BAD_IMAGE { s with boot := { s.boot with pieces := [] } }) := by
  have hcomplete : ¬(!(s.boot.fetching && decide (0x2800 ≤ imageHeld s) && decide (imageNeed s ≤ imageHeld s))) = true := by
    simp [hfetch, hheader, hbody]
  rw [imageVerified, if_neg hcomplete]
  unfold firmwareRuns firmwareLoaded
  rfl

theorem cdRead_congr (h : t.cdmem = s.cdmem) (a n : Nat) : cdRead t a n = cdRead s a n := by
  simp only [cdRead, cdByte, h]

theorem firmwareLoaded_boot (s : State) : (firmwareLoaded s).boot.fw = true ∧ (firmwareLoaded s).boot.fetching = false := ⟨rfl, rfl⟩

theorem firmwareLoaded_cdmem (s : State) : (firmwareLoaded s).cdmem = (cdWrite s 0 (imageBody s.boot.pieces)).cdmem := by
  unfold firmwareLoaded modBoot wrReg
  dsimp only
  rw [leAt_header, imageBody]

/-- The firmware runs and says so, and control-die memory holds the image from address 0 on. -/
theorem firmwareRuns_effect (ready : Bool) (s : State) :
    (firmwareRuns ready s).boot.fw = true ∧ (firmwareRuns ready s).boot.fetching = false
      ∧ bootState (firmwareRuns ready s) = (if ready then bsREADY else bsRUNS)
      ∧ cdRead (firmwareRuns ready s) 0 (leNat (imageBytes s.boot.pieces 0x18 8)) = imageBody s.boot.pieces := by
  obtain ⟨hfw, hfetching⟩ := firmwareLoaded_boot s
  have hboot : (firmwareRuns ready s).boot = _ := ibi_boot _ _
  have hframe : firmwareRuns ready s = _ := ibi_frame _ _
  have hcdmem : (firmwareRuns ready s).cdmem = (firmwareLoaded s).cdmem := by rw [hframe, setBootState_cdmem]
  have hregs : (firmwareRuns ready s).regs = (setBootState (if ready then bsREADY else bsRUNS) (firmwareLoaded s)).regs := by rw [hframe]
  refine ⟨?fw, ?fetching, ?state, ?body⟩
  case fw => rw [hboot]; exact hfw
  case fetching => rw [hboot]; exact hfetching
  case state =>
    rw [bootState, rdF_congr hregs]
    exact bootState_setBootState _ (by cases ready <;> decide)
  case body =>
    have hread := (controlMemoryLaw s 0 (imageBody s.boot.pieces)).1
    have hlength : (imageBody s.boot.pieces).length = leNat (imageBytes s.boot.pieces 0x18 8) := length_imageBytes _ _ _
    rw [hlength] at hread
    exact (cdRead_congr (hcdmem.trans (firmwareLoaded_cdmem s)) _ _).trans hread

/-! ### Restarts and the watchdog (R449, R450) -/

theorem csrWriteNow_restart (w : Word) (s : State) : csrWriteNow CHP_RESTART w s = restartCtl w s := rfl

theorem csrWriteNow_wdog (w : Word) (s : State) : csrWriteNow CHP_WDOG w s = wdogCtl w s := rfl

/-- The clauses that a restart makes abort, as consequences that fall due. -/
theorem foldl_restartAborts (l : List Nat) (s : State) :
    l.foldl (fun s c =>
      let st := rdF s (CLS_STATE c) CLS_STATE_STATE
      if st = 1 ∨ st = 2 then addDue (.clause c 0x14) s else s) s
      = { s with dues := s.dues ++ (l.filter fun c => clsState s c == csOPEN || clsState s c == csSEALED).map fun c => Due.clause c 0x14 } := by
  induction l generalizing s with
  | nil => simp
  | cons c l ih =>
    have hopen : (rdF s (CLS_STATE c) CLS_STATE_STATE = 1 ∨ rdF s (CLS_STATE c) CLS_STATE_STATE = 2)
        ↔ (clsState s c == csOPEN || clsState s c == csSEALED) = true := by
      simp [clsState, csOPEN, csSEALED]
    rw [List.foldl_cons, ih]
    dsimp only
    split
    · next h =>
      have hsame : (fun k => clsState (addDue (.clause c 0x14) s) k == csOPEN || clsState (addDue (.clause c 0x14) s) k == csSEALED)
          = fun k => clsState s k == csOPEN || clsState s k == csSEALED := rfl
      rw [hsame, List.filter_cons_of_pos (p := fun k => clsState s k == csOPEN || clsState s k == csSEALED) (hopen.mp h), List.map_cons]
      simp only [addDue, List.append_assoc, List.singleton_append]
    · next h => rw [List.filter_cons_of_neg (p := fun k => clsState s k == csOPEN || clsState s k == csSEALED) (mt hopen.mpr h)]

/-- The control die as a restart halts it, before the loader fetches again. -/
def halted (s : State) : State :=
  ibi ibiRESTARTING (setBootState bsRESTARTING { s with
    boot := { s.boot with fw := false, pieces := [], src := 0 }
    dues := s.dues ++ ((List.range 16).filter fun c => clsState s c == csOPEN || clsState s c == csSEALED).map fun c => Due.clause c 0x14 })

theorem ctlRestart_eq (s : State) : ctlRestart s = bootRequest (halted s) := by
  rw [ctlRestart, foldl_restartAborts]
  rfl

theorem halted_boot (s : State) :
    (halted s).boot.fw = false ∧ (halted s).boot.kicked = s.boot.kicked := by
  have hboot := ibi_boot ibiRESTARTING (setBootState bsRESTARTING { s with
    boot := { s.boot with fw := false, pieces := [], src := 0 }
    dues := s.dues ++ ((List.range 16).filter fun c => clsState s c == csOPEN || clsState s c == csSEALED).map fun c => Due.clause c 0x14 })
  exact ⟨(congrArg Boot.fw hboot).trans rfl, (congrArg Boot.kicked hboot).trans rfl⟩

/-- What a restart leaves: the loader fetches, RESTARTING shows, and the clauses that it makes abort are due. -/
theorem ctlRestart_effect (s : State) :
    (ctlRestart s).reply = s.reply ∧ (ctlRestart s).boot.fw = false ∧ (ctlRestart s).boot.fetching = true
      ∧ bootState (ctlRestart s) = bsRESTARTING ∧ (ctlRestart s).boot.kicked = s.boot.kicked
      ∧ (ctlRestart s).dues
        = s.dues ++ ((List.range 16).filter fun c => clsState s c == csOPEN || clsState s c == csSEALED).map fun c => Due.clause c 0x14 := by
  obtain ⟨hframe, hboot, hstate, -⟩ := bootRequest_effect (halted s)
  obtain ⟨hfw, hkicked⟩ := halted_boot s
  have hrestarting : bootState (halted s) = bsRESTARTING := bootState_setBootState _ (by decide)
  rw [ctlRestart_eq]
  refine ⟨?reply, ?fw, ?fetching, ?state, ?kicked, ?dues⟩
  case reply => exact (congrArg State.reply hframe).trans rfl
  case fw => exact (congrArg Boot.fw hboot).trans hfw
  case fetching => exact congrArg Boot.fetching hboot
  case state => rw [hstate, if_pos hrestarting]
  case kicked => exact (congrArg Boot.kicked hboot).trans hkicked
  case dues => exact (congrArg State.dues hframe).trans rfl

/-- A restart leaves the sources that have set. -/
theorem stickySet_ctlRestart (f : Src) (u : Nat) (s : State) : stickySet (ctlRestart s) f u = stickySet s f u := by
  have hchp : G_ERR_STICKY f.g u f.p ≠ CHP_BOOT_STATE := csrAddr_ne_of_off (by decide)
  have hprt : G_ERR_STICKY f.g u f.p ≠ PRT_LINK_STATE bootPort := csrAddr_ne_of_off (by decide)
  obtain ⟨-, -, -, hregs⟩ := bootRequest_effect (halted s)
  have hreg : rdReg (ctlRestart s) (G_ERR_STICKY f.g u f.p) = rdReg s (G_ERR_STICKY f.g u f.p) := by
    rw [ctlRestart_eq, hregs _ (by simp [hchp, hprt])]
    exact rdReg_wrReg_other _ _ hchp
  rw [stickySet, hreg, stickySet]

/-- R449: the watchdog has fired, and its period starts again. -/
def watchdogFired (s : State) : State := raise srcCHP_FW_WATCHDOG 0 (modBoot s fun b => { b with kicked := s.tim.ref })

theorem watchdogFired_boot (s : State) : (watchdogFired s).boot = { s.boot with kicked := s.tim.ref } := by
  rw [watchdogFired, raise_frame]
  rfl

theorem fwWatchdog_of_running (hperiod : rdF s CHP_WDOG CHP_WDOG_PERIOD ≠ 0) (hfw : s.boot.fw = true) :
    fwWatchdog s = if rdBit s CHP_WDOG CHP_WDOG_AUTO then ctlRestart (watchdogFired s) else watchdogFired s := by
  have hauto : rdBit (watchdogFired s) CHP_WDOG CHP_WDOG_AUTO = rdBit s CHP_WDOG CHP_WDOG_AUTO := by
    rw [rdBit, rdF, watchdogFired, CHP_WDOG, rdReg_raise_csrAddr _ _ _ (by decide) (by decide)]
    rfl
  rw [← hauto]
  simp only [fwWatchdog, hfw, hperiod, decide_false, Bool.not_true, Bool.or_self, if_neg Bool.false_ne_true]
  rfl

/-! ### O57 -/

/-- Settles O57, one event after another. -/
theorem bootAndFirmware : Obligations.BootAndFirmware := by
  unfold Obligations.BootAndFirmware
  refine ⟨?power, ?fails, ?retry, fun s r => ⟨ibi_of_address r, ibi_of_noAddress⟩, ?chunk, ?image, ?restart, ?kick, ?watchdog, ?pin⟩
  case power =>
    intro s rails hoff hshadow hgood
    obtain ⟨hframe, hboot, hstate, hregs⟩ := bootRequest_effect (poweredOn rails s)
    have hrom : ¬bootState (poweredOn rails s) = bsRESTARTING := by
      rw [bootState_poweredOn]
      decide
    have hreset (a : Nat) : rdReg (poweredOn rails s) a = rdReg State.reset a := rdReg_congr (poweredOn_regs rails s) a
    refine ⟨bootRequest (poweredOn rails s), congrArg done (powerOn_of_good hoff hshadow hgood), ?on, ?fetching, ?state, ?regs, ?frame⟩
    case on => rw [hboot]; exact poweredOn_on rails s
    case fetching => rw [hboot]
    case state => rw [hstate, if_neg hrom]
    case regs => exact fun a ha => (hregs a ha).trans (hreset a)
    case frame => exact hframe.trans (poweredOn_frame rails s _ _ (by rw [hframe]))
  case fails =>
    intro s hfetch hretry
    exact ⟨fun hchunk => congrArg done (bootTimeout_of_silence hfetch hretry hchunk), congrArg done (bootNone_of_asked hfetch hretry)⟩
  case retry =>
    intro s hfetch hretry
    obtain ⟨-, hboot, -, -⟩ := bootRequest_effect (modBoot s fun b => { b with src := 0 })
    refine ⟨_, congrArg done (bootRetry_of_waiting hfetch hretry), ?_, ?_, ?_⟩
    · exact (congrArg Boot.src hboot).trans rfl
    · exact congrArg Boot.retry hboot
    · exact congrArg Boot.fetching hboot
  case chunk =>
    intro s off d hfetch
    refine ⟨fun hheld => congrArg done (bootChunk_of_held hfetch hheld), fun hnew u hu => ⟨fun h1 h2 h3 => ?_, fun h => ?_⟩⟩
    · exact congrArg done ((bootChunk_of_new hfetch hnew hu).trans (if_pos ⟨h1, h2, h3⟩))
    · refine congrArg done ((bootChunk_of_new hfetch hnew hu).trans (if_neg fun hall => ?_))
      obtain ⟨h1, h2, h3⟩ := hall
      rcases h with h | h | h
      · exact absurd h1 (Nat.not_le.mpr h)
      · exact absurd h2 (Nat.not_le.mpr h)
      · exact h3 h
  case image =>
    intro s b hfetch hheader hbody
    refine ⟨_, congrArg done (imageVerified_of_complete b hfetch hheader hbody), fun hok => ?_, fun hbad => ?_⟩
    · rw [if_pos hok]
      exact firmwareRuns_effect b s
    · rw [hbad, if_neg Bool.false_ne_true]
  case restart =>
    intro s hguard
    have hgo : CHP_RESTART_GO.get (CHP_RESTART_GO.set 0 1) = 1 := Fld.get_set_same _ _ _ (by decide)
    have hwrite : csrWrite CHP_RESTART 8 (CHP_RESTART_GO.set 0 1) s = ctlRestart (okReply s) := by
      rw [csrWrite_of_guardOf_none _ _ _ hguard, csrWriteNow_restart, restartCtl, if_pos hgo]
    obtain ⟨hreply, hfw, hfetch, hstate, -, hdues⟩ := ctlRestart_effect (okReply s)
    exact ⟨_, congrArg done hwrite, hreply, hfw, hfetch, hstate, hdues⟩
  case kick =>
    intro s w hguard
    have hkick : CHP_WDOG_KICK.get (CHP_WDOG_KICK.set w 1) = 1 := Fld.get_set_same _ _ _ (by decide)
    have hwrite : csrWrite CHP_WDOG 8 (CHP_WDOG_KICK.set w 1) s
        = wdogKick (okReply (wrReg s CHP_WDOG (rwMerge s CHP_WDOG (CHP_WDOG_KICK.set w 1)))) := by
      rw [csrWrite_of_guardOf_none _ _ _ hguard, csrWriteNow_wdog, wdogCtl, if_pos hkick]
    exact ⟨_, congrArg done hwrite, rfl, rfl⟩
  case watchdog =>
    intro s hperiod hfw
    have hset : stickySet (watchdogFired s) srcCHP_FW_WATCHDOG 0 = true := stickySet_raise _ _ _ (by decide)
    have hboot := watchdogFired_boot s
    refine ⟨_, congrArg done (fwWatchdog_of_running hperiod hfw), ?_⟩
    cases hauto : rdBit s CHP_WDOG CHP_WDOG_AUTO
    · exact ⟨hset, congrArg Boot.kicked hboot, fun _ => hboot, fun h => absurd h Bool.false_ne_true⟩
    · obtain ⟨-, hhalted, hfetch, hstate, hkicked, -⟩ := ctlRestart_effect (watchdogFired s)
      exact ⟨(stickySet_ctlRestart _ _ _).trans hset, hkicked.trans (congrArg Boot.kicked hboot), fun h => absurd h.symm Bool.false_ne_true,
        fun _ => ⟨hhalted, hfetch, hstate⟩⟩
  case pin =>
    intro s ns
    refine ⟨fun hshort => if_pos hshort, fun hlong hgap => ?_, fun hlong hon => ?_⟩
    · exact (if_neg (Nat.not_lt.mpr hlong)).trans (if_pos hgap)
    · have hpin : resetPin s = beginChip 2 [] s := if_pos hon
      have h100 : ¬ns < 100 := by omega
      exact ((if_neg h100).trans (if_neg (Nat.not_lt.mpr hlong))).trans (congrArg done hpin)

end Sys2Proof.Machine
end

section
/-! PROOFS. O59: rails and temperatures raise and clear their conditions (R468 to R471, R482, R128). -/

namespace Sys2Proof.Machine

variable {s t : State}

/-! ### A condition that lasts (R418) -/

/-- The supply state is not what a condition changes. -/
theorem lasting_pwr (f : Src) (new ended : Bool) (s : State) : (lasting f new ended s).pwr = s.pwr := by
  unfold lasting
  split
  · rw [fireSource_frame]
    rfl
  · split <;> rfl

/-- A condition that begins for a part sets its source. -/
theorem lasting_sets (f : Src) (ended : Bool) (s : State) (hbit : f.bit < 64) : stickySet (lasting f true ended s) f 0 = true :=
  fireSource_sets f 0 _ hbit

theorem lasting_of_ended (f : Src) (s : State) : lasting f false true s = dropCause f 0 s := rfl

/-- A condition that is no hang changes no register but the sticky one of its page. -/
theorem rdReg_lasting {f : Src} {a : Nat} (new ended : Bool) (s : State) (hbit : f.bit ≠ 15) (ha : a ≠ G_ERR_STICKY f.g 0 f.p) :
    rdReg (lasting f new ended s) a = rdReg s a := by
  unfold lasting
  split
  · rw [rdReg_congr (fireSource_regs _ _ _), rdReg_raise_other _ _ _ ha fun h => absurd h hbit, rdReg_congr (addCause_regs _ _ _ _)]
  · split <;> rfl

theorem dropCause_drops (f : Src) (u : Nat) (s : State) : ∀ c ∈ (dropCause f u s).flt.causes, ¬(c.src = f ∧ c.unit = u) := by
  rintro c hc ⟨rfl, rfl⟩
  have hkept : (!(c.src == c.src && c.unit == c.unit)) = true := (List.mem_filter.mp hc).2
  simp at hkept

/-! ### Rails (R468 to R470, R482) -/

theorem csrWriteNow_railSel (w : Word) (s : State) : csrWriteNow PWR_RAIL_SEL w s = railSelect w s := rfl

/-- The minimum of a rail starts over. -/
def minStarted (s : State) : State := wrF s PWR_RAIL_MIN PWR_RAIL_MIN_MV 0xFFFF

theorem minStarted_low (s : State) : rdF (minStarted s) PWR_RAIL_MIN PWR_RAIL_MIN_MV = 0xFFFF := rdF_wrF_same s _ _ _ (by decide)

/-- A rail is selected, and its minimum starts. -/
def railSelected (r : Nat) (s : State) : State := minStarted (wrF s PWR_RAIL_SEL PWR_RAIL_SEL_RAIL r)

theorem railSelect_of_exists {w : Word} (h : PWR_RAIL_SEL_RAIL.get w < 44) :
    railSelect w s = okReply (railSelected (PWR_RAIL_SEL_RAIL.get w) s) := if_neg (Nat.not_le.mpr h)

theorem railSelect_of_none {w : Word} (h : 44 ≤ PWR_RAIL_SEL_RAIL.get w) : railSelect w s = csrRefused s := if_pos h

theorem onlyRegs_okReply {as : List Nat} (v : Word) (h : OnlyRegs as s t) : OnlyRegs as { s with reply := (okReply t v).reply } (okReply t v) := by
  obtain ⟨hframe, hregs⟩ := h
  exact ⟨congrArg (fun x : State => okReply x v) hframe, fun a ha => (rdReg_congr (okReply_regs _ _) a).trans (hregs a ha)⟩

theorem onlyRegs_minStarted (s : State) : OnlyRegs [PWR_RAIL_MIN] s (minStarted s) := onlyRegs_wrReg s _ _

theorem onlyRegs_railSelected (r : Nat) (s : State) : OnlyRegs [PWR_RAIL_SEL, PWR_RAIL_MIN] s (railSelected r s) := by
  obtain ⟨hsel, hselRegs⟩ := onlyRegs_wrReg s PWR_RAIL_SEL (PWR_RAIL_SEL_RAIL.set (rdReg s PWR_RAIL_SEL) r)
  obtain ⟨-, hminRegs⟩ := onlyRegs_minStarted (wrF s PWR_RAIL_SEL PWR_RAIL_SEL_RAIL r)
  refine ⟨rfl, fun a ha => ?_⟩
  obtain ⟨hasel, hamin⟩ : a ≠ PWR_RAIL_SEL ∧ a ≠ PWR_RAIL_MIN := by simpa using ha
  exact (hminRegs a (by simpa using hamin)).trans (hselRegs a (by simpa using hasel))

theorem railSel_railSelected {r : Nat} (s : State) (hr : r < 64) : railSel (railSelected r s) = r :=
  (rdF_wrF_other _ _ _ _ (by decide)).trans ((rdF_wrF_same s _ _ _ (by decide)).trans (Nat.mod_eq_of_lt hr))

/-- A measurement of a rail is the voltage held of it, and PWR_RAIL_MIN may follow. -/
theorem railSet_effect (r mv : Nat) (s : State) :
    (railSet r mv s).pwr = { s.pwr with mv := sput s.pwr.mv r (mv % 65536) } ∧ ∀ a, a ≠ PWR_RAIL_MIN → rdReg (railSet r mv s) a = rdReg s a := by
  unfold railSet
  dsimp only
  split
  · exact ⟨rfl, fun a ha => rdReg_wrReg_other _ _ ha⟩
  · exact ⟨rfl, fun _ _ => rfl⟩

/-- The core rails below the warning level. -/
def belowWarning (s : State) : List Nat :=
  (List.range 41).filter fun r =>
    coreRail r && (sfind s.pwr.mv r).isSome && decide (railMv s r < rdF s PWR_SUPPLY_LIMITS PWR_SUPPLY_LIMITS_WARN_MV)

theorem supplyCheck_pwr (s : State) : (supplyCheck s).pwr = { s.pwr with below := belowWarning s } := lasting_pwr _ _ _ _

/-- A rail newly below the warning level sets SUPPLY_WARN. -/
theorem supplyCheck_sets {r : Nat} (hbelow : r ∈ belowWarning s) (hnew : r ∉ s.pwr.below) :
    stickySet (supplyCheck s) srcPWR_SUPPLY_WARN 0 = true := by
  have hany : ((belowWarning s).any fun r => !s.pwr.below.contains r) = true := List.any_eq_true.mpr ⟨r, hbelow, by simpa using hnew⟩
  have hcheck : supplyCheck s = lasting srcPWR_SUPPLY_WARN ((belowWarning s).any fun r => !s.pwr.below.contains r) (belowWarning s).isEmpty
      { s with pwr := { s.pwr with below := belowWarning s } } := rfl
  rw [hcheck, hany]
  exact lasting_sets _ _ _ (by decide)

theorem coreRail_lt {r : Nat} (h : coreRail r = true) : r < 41 := by
  have hcore : r < 12 ∨ r = 40 := by simpa [coreRail] using h
  omega

/-- A core rail measured below the warning level is among those below it. -/
theorem mem_belowWarning_railSet {r mv : Nat} (hcore : coreRail r = true) (hmv : mv < rdF s PWR_SUPPLY_LIMITS PWR_SUPPLY_LIMITS_WARN_MV) :
    r ∈ belowWarning (railSet r mv s) ∧ sfind (railSet r mv s).pwr.mv r = some mv := by
  obtain ⟨hpwr, hregs⟩ := railSet_effect r mv s
  have hlimit : rdF s PWR_SUPPLY_LIMITS PWR_SUPPLY_LIMITS_WARN_MV < 2 ^ 16 := Fld.get_lt _ _
  have hheld : sfind (railSet r mv s).pwr.mv r = some mv := by
    rw [hpwr, sfind_sput_same, Nat.mod_eq_of_lt (by omega)]
  have hsame : rdF (railSet r mv s) PWR_SUPPLY_LIMITS PWR_SUPPLY_LIMITS_WARN_MV = rdF s PWR_SUPPLY_LIMITS PWR_SUPPLY_LIMITS_WARN_MV :=
    congrArg (Fld.get _) (hregs _ (by decide))
  refine ⟨List.mem_filter.mpr ⟨List.mem_range.mpr (coreRail_lt hcore), ?_⟩, hheld⟩
  simp [hcore, railMv, hheld, hsame, hmv]

/-- A rail newly out of its limits, which may not be removed, begins the condition. -/
theorem railFault_of_new {r mv : Nat} (hr : r < 44) (hout : railFaults r mv = true) (hnew : r ∉ s.pwr.bad) (hgate : gatableRail r = false) :
    railFault r mv s = lasting srcPWR_RAIL_FAULT true false
      { railSet r mv s with pwr := { (railSet r mv s).pwr with bad := s.pwr.bad ++ [r] } } := by
  obtain ⟨hpwr, -⟩ := railSet_effect r mv s
  have hguard : ¬(44 ≤ r ∨ (!railFaults r mv) = true) := by simp [hr, hout]
  have hbad : (railSet r mv s).pwr.bad = s.pwr.bad := by rw [hpwr]
  rw [railFault, if_neg hguard]
  simp [modPwr, hbad, hnew, hgate]

/-- The last bad rail is good again: no rail is bad, and the cause of RAIL_FAULT ends. -/
theorem railBack_of_lastBad {r mv : Nat} (hr : r < 44) (hgood : railGood r mv = true) (hbad : s.pwr.bad = [r]) :
    (railBack r mv s).pwr.bad = [] ∧ ∀ c ∈ (railBack r mv s).flt.causes, ¬(c.src = srcPWR_RAIL_FAULT ∧ c.unit = 0) := by
  obtain ⟨hpwr, -⟩ := railSet_effect r mv s
  have hheld : (supplyCheck (railSet r mv s)).pwr.bad = [r] := by rw [supplyCheck_pwr, hpwr, hbad]
  have hnone : [r].filter (· != r) = [] := by simp
  have hback : railBack r mv s = dropCause srcPWR_RAIL_FAULT 0
      { supplyCheck (railSet r mv s) with pwr := { (supplyCheck (railSet r mv s)).pwr with bad := [] } } := by
    rw [railBack, if_neg (Nat.not_le.mpr hr)]
    simp only [hgood, if_true, modPwr, hheld, hnone, List.all_nil, lasting_of_ended]
  rw [hback]
  exact ⟨rfl, dropCause_drops _ _ _⟩

/-! ### Temperatures (R471) -/

theorem tempReg_ne : ∀ n ∈ thermRegions, tempReg n ≠ PWR_TJ_MAX ∧ tempReg n ≠ PWR_THERM ∧ tempReg n ≠ G_ERR_STICKY grPWR 0 0 := by decide

/-- A sensor's value writes its register and PWR_TJ_MAX. -/
theorem tempSet_effect (n : Nat) (x : Int) (s : State) :
    (tempSet n x s).pwr = s.pwr ∧ (tempReg n ≠ PWR_TJ_MAX → rdReg (tempSet n x s) (tempReg n) = BitVec.ofNat 64 (wrapInt 16 x))
      ∧ ∀ a, a ≠ PWR_TJ_MAX → a ≠ tempReg n → rdReg (tempSet n x s) a = rdReg s a := by
  unfold tempSet
  dsimp only
  generalize thermRegions.foldl _ _ = hot
  have hmax (a : Nat) (ha : a ≠ PWR_TJ_MAX) (u : State) (v : Nat) :
      rdReg (wrF (wrF u PWR_TJ_MAX PWR_TJ_MAX_TEMP v) PWR_TJ_MAX PWR_TJ_MAX_REGION hot) a = rdReg u a :=
    (rdReg_wrReg_other _ _ ha).trans (rdReg_wrReg_other _ _ ha)
  exact ⟨rfl, fun h => (hmax _ h _ _).trans (rdReg_wrReg_same _ _ _), fun a ha hn => (hmax _ ha _ _).trans (rdReg_wrReg_other _ _ hn)⟩

/-- A 16-bit signed value is what its register gives back. -/
theorem toInt_wrapInt {x : Int} (hlo : -32768 ≤ x) (hhi : x < 32768) : (BitVec.ofNat 16 (BitVec.ofNat 64 (wrapInt 16 x)).toNat).toInt = x := by
  have hlt : wrapInt 16 x < 2 ^ 16 := wrapInt_lt 16 x
  have hword : (BitVec.ofNat 64 (wrapInt 16 x)).toNat = wrapInt 16 x := by
    rw [BitVec.toNat_ofNat]
    exact Nat.mod_eq_of_lt (by omega)
  have hcast : (wrapInt 16 x : Int) = x % 2 ^ 16 := cast_wrapInt 16 x
  rw [hword, BitVec.toInt_ofNat', Int.bmod_def, hcast]
  split <;> omega

theorem tempOf_tempSet {n : Nat} {x : Int} (s : State) (hn : n ∈ thermRegions) (hlo : -32768 ≤ x) (hhi : x < 32768) :
    tempOf (tempSet n x s) n = x := by
  obtain ⟨hmax, -, -⟩ := tempReg_ne n hn
  obtain ⟨-, hreg, -⟩ := tempSet_effect n x s
  rw [tempOf, hreg hmax, toInt_wrapInt hlo hhi]

/-- The regions above WARN. -/
def aboveWarning (s : State) : List Nat := thermRegions.filter fun n => decide (16 * (rdF s PWR_THERM PWR_THERM_WARN : Int) < tempOf s n)

theorem thermCheck_pwr (s : State) : (thermCheck s).pwr = { s.pwr with warm := aboveWarning s } := lasting_pwr _ _ _ _

theorem tempOf_thermCheck {n : Nat} (s : State) (hn : n ∈ thermRegions) : tempOf (thermCheck s) n = tempOf s n := by
  obtain ⟨-, -, hsticky⟩ := tempReg_ne n hn
  have hreg : rdReg (thermCheck s) (tempReg n) = rdReg s (tempReg n) := rdReg_lasting _ _ _ (by decide) hsticky
  rw [tempOf, hreg, tempOf]

/-- A region newly above WARN sets THERM_WARN. -/
theorem thermCheck_sets {n : Nat} (habove : n ∈ aboveWarning s) (hnew : n ∉ s.pwr.warm) : stickySet (thermCheck s) srcPWR_THERM_WARN 0 = true := by
  have hany : ((aboveWarning s).any fun n => !s.pwr.warm.contains n) = true := List.any_eq_true.mpr ⟨n, habove, by simpa using hnew⟩
  have hcheck : thermCheck s = lasting srcPWR_THERM_WARN ((aboveWarning s).any fun n => !s.pwr.warm.contains n) (aboveWarning s).isEmpty
      { s with pwr := { s.pwr with warm := aboveWarning s } } := rfl
  rw [hcheck, hany]
  exact lasting_sets _ _ _ (by decide)

theorem mem_aboveWarning_tempSet {n : Nat} {x : Int} (hn : n ∈ thermRegions) (hlo : -32768 ≤ x) (hhi : x < 32768)
    (hwarn : 16 * (rdF s PWR_THERM PWR_THERM_WARN : Int) < x) : n ∈ aboveWarning (tempSet n x s) := by
  obtain ⟨-, htherm, -⟩ := tempReg_ne n hn
  obtain ⟨-, -, hregs⟩ := tempSet_effect n x s
  have hsame : rdF (tempSet n x s) PWR_THERM PWR_THERM_WARN = rdF s PWR_THERM PWR_THERM_WARN :=
    congrArg (Fld.get _) (hregs _ (by decide) htherm.symm)
  refine List.mem_filter.mpr ⟨hn, ?_⟩
  rw [hsame, tempOf_tempSet s hn hlo hhi]
  exact decide_eq_true hwarn

theorem pwr_thermCheck_tempSet (n : Nat) (x : Int) (s : State) :
    (thermCheck (tempSet n x s)).pwr = { s.pwr with warm := aboveWarning (tempSet n x s) } := by
  obtain ⟨hpwr, -, -⟩ := tempSet_effect n x s
  rw [thermCheck_pwr, hpwr]

theorem thermTrip_of_new {n : Nat} {x : Int} (hn : n ∈ thermRegions) (hx : 1760 ≤ x) (hnew : n ∉ s.pwr.hot) :
    thermTrip n x s = lasting srcPWR_THERM_TRIP true false
      { thermCheck (tempSet n x s) with pwr := { (thermCheck (tempSet n x s)).pwr with hot := s.pwr.hot ++ [n], trip := true } } := by
  have hguard : ¬((!thermRegions.contains n) = true ∨ x < 1760) := by simp [hn, hx]
  have hhot : (thermCheck (tempSet n x s)).pwr.hot = s.pwr.hot := by rw [pwr_thermCheck_tempSet]
  rw [thermTrip, if_neg hguard]
  simp [modPwr, hhot, hnew]

theorem cooled_pwr {n : Nat} {x : Int} (hn : n ∈ thermRegions) (hx : x < 1760) :
    (cooled n x s).pwr = { (thermCheck (tempSet n x s)).pwr with hot := s.pwr.hot.filter (· != n) } := by
  have hguard : ¬(!thermRegions.contains n) = true := by simp [hn]
  have hhot : (thermCheck (tempSet n x s)).pwr.hot = s.pwr.hot := by rw [pwr_thermCheck_tempSet]
  rw [cooled, if_neg hguard]
  dsimp only
  rw [if_pos hx, lasting_pwr, modPwr, hhot]

/-! ### Errors of tile SRAM (R128) -/

theorem sramBreak_of_good {n k : Nat} (hk : k < sramWords) (hgood : s.sramBad.contains (sramWords * n + k) = false) :
    sramBreak n k s = { s with sramBad := s.sramBad ++ [sramWords * n + k] } := by
  have hbad : ¬s.sramBad.contains (sramWords * n + k) = true := by rw [hgood]; exact Bool.false_ne_true
  rw [sramBreak, if_neg (Nat.not_le.mpr hk), if_neg hbad]

theorem sramUpset_single {n k : Nat} (hk : k < sramWords) (hgood : s.sramBad.contains (sramWords * n + k) = false) :
    sramUpset n (.single k) s = bump s (CRG_SRAM_CE n) := by
  have hguard : ¬(decide (sramWords ≤ k) || s.sramBad.contains (sramWords * n + k)) = true := by
    rw [hgood, decide_eq_false (Nat.not_le.mpr hk)]
    exact Bool.false_ne_true
  exact if_neg hguard

theorem sramUpset_double {n k : Nat} (hk : k < sramWords) (hgood : s.sramBad.contains (sramWords * n + k) = false) :
    sramUpset n (.double k) s = raise srcCRG_SRAM_UE_IDLE n { s with sramBad := s.sramBad ++ [sramWords * n + k] } := by
  rw [← sramBreak_of_good hk hgood]
  exact if_neg (Nat.not_le.mpr hk)

/-! ### O59 -/

/-- Settles O59, one event after another. -/
theorem supplyAndTemperature : Obligations.SupplyAndTemperature := by
  unfold Obligations.SupplyAndTemperature
  refine ⟨fun s w hguard => ?select, fun s => ?read, ?warn, ?fault, ?good, ?warm, ?trip, ?cool,
    fun s u _ => ⟨_, rfl, fireSource_sets _ _ _ (by decide)⟩, ?sram⟩
  case select =>
    have hwrite : csrWrite PWR_RAIL_SEL 8 w s = railSelect w s := by rw [csrWrite_of_guardOf_none _ _ _ hguard, csrWriteNow_railSel]
    refine ⟨fun hr => ⟨_, congrArg done (hwrite.trans (railSelect_of_exists hr)), rfl, ?_, ?_, ?_⟩,
      fun hr => congrArg done (hwrite.trans (railSelect_of_none hr))⟩
    · rw [railSel, rdF_congr (okReply_regs _ _)]
      exact railSel_railSelected s (by omega)
    · rw [rdF_congr (okReply_regs _ _)]
      exact minStarted_low _
    · exact onlyRegs_okReply 0 (onlyRegs_railSelected _ s)
  case read =>
    refine ⟨okReply (minStarted s) (BitVec.ofNat 64 (railLow s)), rfl, rfl, ?_, onlyRegs_okReply _ (onlyRegs_minStarted s)⟩
    rw [rdF_congr (okReply_regs _ _)]
    exact minStarted_low s
  case warn =>
    intro s r mv hcore hmv hnew
    obtain ⟨hbelow, hheld⟩ := mem_belowWarning_railSet hcore hmv
    obtain ⟨hpwr, -⟩ := railSet_effect r mv s
    have hnew' : r ∉ (railSet r mv s).pwr.below := by rwa [hpwr]
    refine ⟨supplyCheck (railSet r mv s), congrArg done (if_pos hcore), supplyCheck_sets hbelow hnew', ?_, ?_⟩
    · rw [supplyCheck_pwr]
      exact hbelow
    · rw [railMv, supplyCheck_pwr]
      exact congrArg (Option.getD · 0) hheld
  case fault =>
    intro s r mv hr hout hnew hgate
    exact ⟨_, congrArg done (railFault_of_new hr hout hnew hgate), lasting_sets _ _ _ (by decide), congrArg Power.bad (lasting_pwr _ _ _ _)⟩
  case good => exact fun s r mv hr hgood hbad => ⟨_, rfl, railBack_of_lastBad hr hgood hbad⟩
  case warm =>
    intro s n x hn hlo hhi hwarn hnew
    have habove := mem_aboveWarning_tempSet hn hlo hhi hwarn
    obtain ⟨hpwr, -, -⟩ := tempSet_effect n x s
    refine ⟨thermCheck (tempSet n x s), congrArg done (if_pos (List.contains_iff_mem.mpr hn)), thermCheck_sets habove (by rwa [hpwr]), ?_, ?_⟩
    · rw [thermCheck_pwr]
      exact habove
    · rw [tempOf_thermCheck _ hn, tempOf_tempSet s hn hlo hhi]
  case trip =>
    intro s n x hn hx hnew
    refine ⟨_, congrArg done (thermTrip_of_new hn hx hnew), lasting_sets _ _ _ (by decide), ?_, ?_⟩
    · exact congrArg Power.trip (lasting_pwr _ _ _ _)
    · exact congrArg Power.hot (lasting_pwr _ _ _ _)
  case cool =>
    intro s n x hn hx
    refine ⟨cooled n x s, rfl, ?_, ?_⟩
    · rw [cooled_pwr hn hx]
    · rw [cooled_pwr hn hx, pwr_thermCheck_tempSet]
  case sram =>
    exact fun s n k _ hk hgood => ⟨congrArg done (sramUpset_single hk hgood), congrArg done (sramUpset_double hk hgood),
      congrArg done (sramBreak_of_good hk hgood)⟩

end Sys2Proof.Machine
end

section
/-! PROOFS. For O60: no consequence of a command lets a station of the shuttle take a turn. A turn begins with a segment that a command
sends (`shtPut`); nothing that `settle` calls adds one to a device that has none. Each operation `f` that it calls has one lemma, `noTurn_f`,
whose proof follows the text of `f` as that of `kept_f` does. -/

namespace Sys2Proof.Machine

-- One after another: side by side, so many short proofs take more threads than the check has memory for.
set_option Elab.async false

/-- No queue pair has a turn of a shuttle engine. -/
def NoTurn (s : State) : Prop := s.sht.turns = []

variable {t : State}

/-- An update of any field but the shuttle's. -/
theorem noTurn_same {regs reply free clk tim doms gates stragglers cdmem fires dues flt banks sram sramBad bobs turns tiles stale progLoads
    colls sets waitContribs ports ground mem cls serial outcomes mbx boot cxl pwr sec} (h : NoTurn t) :
    NoTurn { t with regs, reply, free, clk, tim, doms, gates, stragglers, cdmem, fires, dues, flt, banks, sram, sramBad, bobs, turns,
                      tiles, stale, progLoads, colls, sets, waitContribs, ports, ground, mem, cls, serial, outcomes, mbx, boot, cxl, pwr,
                      sec } := h

/-- What enters the ground leaves the shuttle as it was. -/
theorem noTurn_entered {u : State} (h : NoTurn t) (e : Entered t u) : NoTurn u := (congrArg Shuttle.turns e.sht).trans h

/-- An update of the shuttle that adds no turn. -/
theorem noTurn_setSht {x : Shuttle} (hx : x.turns = []) : NoTurn { t with sht := x } := hx

/-! ### Control flow -/

theorem noTurn_ite {c : Prop} {dec : Decidable c} {u v : State} (hu : NoTurn u) (hv : NoTurn v) : NoTurn (if c then u else v) := by
  split <;> assumption

theorem noTurn_ite_snd {α : Type} {c : Prop} {dec : Decidable c} {u v : α × State} (hu : NoTurn u.2) (hv : NoTurn v.2) :
    NoTurn (if c then u else v).2 := by
  split <;> assumption

theorem noTurn_ite_ctx {c : Prop} {dec : Decidable c} {u v : Ctx} (hu : NoTurn u.s) (hv : NoTurn v.s) : NoTurn (if c then u else v).s := by
  split <;> assumption

theorem noTurn_ite_snd_ctx {α : Type} {c : Prop} {dec : Decidable c} {u v : α × Ctx} (hu : NoTurn u.2.s) (hv : NoTurn v.2.s) :
    NoTurn (if c then u else v).2.s := by
  split <;> assumption

theorem noTurn_ite_snd_snd_ctx {α β : Type} {c : Prop} {dec : Decidable c} {u v : α × β × Ctx} (hu : NoTurn u.2.2.s)
    (hv : NoTurn v.2.2.s) : NoTurn (if c then u else v).2.2.s := by
  split <;> assumption

/-! A value with a state is taken apart. -/

theorem noTurn_snd {α : Type} {p : α × State} {a : α} {u : State} (e : p = (a, u)) (h : NoTurn p.2) : NoTurn u := by
  subst e; exact h

theorem noTurn_snd_snd {α β : Type} {p : α × β × State} {a : α} {b : β} {u : State} (e : p = (a, b, u)) (h : NoTurn p.2.2) : NoTurn u := by
  subst e; exact h

theorem noTurn_snd_ctx {α : Type} {p : α × Ctx} {a : α} {u : Ctx} (e : p = (a, u)) (h : NoTurn p.2.s) : NoTurn u.s := by
  subst e; exact h

theorem noTurn_snd_snd_ctx {α β : Type} {p : α × β × Ctx} {a : α} {b : β} {u : Ctx} (e : p = (a, b, u)) (h : NoTurn p.2.2.s) :
    NoTurn u.s := by
  subst e; exact h

/-- A fold keeps what each of its rounds keeps; `g` reads the state that the rounds hand on. -/
theorem noTurn_foldl_by {α σ : Type} (g : σ → State) {f : σ → α → σ} (hf : ∀ u a, NoTurn (g u) → NoTurn (g (f u a))) {l : List α} {u : σ}
    (h : NoTurn (g u)) : NoTurn (g (l.foldl f u)) := by
  induction l generalizing u with
  | nil => exact h
  | cons a l ih => exact ih (hf u a h)

theorem noTurn_foldl {α : Type} {f : State → α → State} (hf : ∀ u a, NoTurn u → NoTurn (f u a)) {l : List α} (h : NoTurn t) :
    NoTurn (l.foldl f t) := noTurn_foldl_by id hf h

theorem noTurn_foldl_snd {α β : Type} {f : β × State → α → β × State} (hf : ∀ u a, NoTurn u.2 → NoTurn (f u a).2) {l : List α}
    {u : β × State} (h : NoTurn u.2) : NoTurn (l.foldl f u).2 := noTurn_foldl_by Prod.snd hf h

theorem noTurn_foldl_snd_snd_ctx {α β γ : Type} {f : β × γ × Ctx → α → β × γ × Ctx} (hf : ∀ u a, NoTurn u.2.2.s → NoTurn (f u a).2.2.s)
    {l : List α} {u : β × γ × Ctx} (h : NoTurn u.2.2.s) : NoTurn (l.foldl f u).2.2.s :=
  noTurn_foldl_by (fun u : β × γ × Ctx => u.2.2.s) hf h

theorem noTurn_foldl_snd_ctx {α β : Type} {f : β × Ctx → α → β × Ctx} (hf : ∀ u a, NoTurn u.2.s → NoTurn (f u a).2.s) {l : List α}
    {u : β × Ctx} (h : NoTurn u.2.s) : NoTurn (l.foldl f u).2.s := noTurn_foldl_by (fun u : β × Ctx => u.2.s) hf h
/-! ### Registers and memories -/

theorem noTurn_modMem {f : Mem → Mem} (h : NoTurn t) : NoTurn (modMem t f) := noTurn_same h
theorem noTurn_wrReg {a : Nat} {w : Word} (h : NoTurn t) : NoTurn (wrReg t a w) := noTurn_same h
theorem noTurn_cdPut {a : Nat} {b : Byte} (h : NoTurn t) : NoTurn (cdPut t a b) := noTurn_same h

end Sys2Proof.Machine
end

section
/-! PROOFS. For O60: no turn comes from the operations of the ground, of memory and of the fabric. -/

namespace Sys2Proof.Machine

-- One after another: side by side, so many short proofs take more threads than the check has memory for.
set_option Elab.async false

variable {t : State}

/-! ### Registers, values, control-die memory and sources -/

theorem noTurn_wrF {a v : Nat} {f : Fld} (h : NoTurn t) : NoTurn (wrF t a f v) := noTurn_wrReg h
theorem noTurn_bump {a n : Nat} (h : NoTurn t) : NoTurn (bump t a n) := noTurn_wrReg h
theorem noTurn_progress {g u : Nat} (h : NoTurn t) : NoTurn (progress t g u) := noTurn_bump h
theorem noTurn_okReply {v : Word} (h : NoTurn t) : NoTurn (okReply t v) := noTurn_same h
theorem noTurn_takeFreeBytes {n : Nat} (h : NoTurn t) : NoTurn (takeFreeBytes n t).2 := noTurn_same h

theorem noTurn_fwStores {cells : List (Nat × Byte)} (h : NoTurn t) : NoTurn (fwStores t cells) := noTurn_foldl (fun _ _ hr => noTurn_cdPut hr) h
theorem noTurn_tickStamp (h : NoTurn t) : NoTurn (tickStamp t) := noTurn_same h

theorem noTurn_raise {f : Src} {u : Nat} (h : NoTurn t) : NoTurn (raise f u t) := noTurn_entered h (Entered.refl t).raise

theorem noTurn_csrError (h : NoTurn t) : NoTurn (csrError t) := noTurn_raise (noTurn_same h)
theorem noTurn_csrRefused (h : NoTurn t) : NoTurn (csrRefused t) := noTurn_same h
theorem noTurn_raiseIf {c : Bool} {f : Src} {u : Nat} (h : NoTurn t) : NoTurn (raiseIf c f u t) := noTurn_ite (noTurn_raise h) h

/-! ### The ground: cells, flows, routes and policers -/

theorem noTurn_setPort {p : Nat} {x : Port} (h : NoTurn t) : NoTurn (setPort t p x) := noTurn_same h
theorem noTurn_modPort {p : Nat} {f : Port → Port} (h : NoTurn t) : NoTurn (modPort t p f) := noTurn_setPort h
theorem noTurn_releaseCredit {b tc : Nat} (h : NoTurn t) : NoTurn (releaseCredit t b tc) := noTurn_bump (noTurn_modPort h)
theorem noTurn_deadTarget {n : Nat} {h' : Hdr} (h : NoTurn t) : NoTurn (deadTarget t n h') := noTurn_entered h (Entered.refl t).deadTarget
theorem noTurn_addDue {d : Due} (h : NoTurn t) : NoTurn (addDue d t) := noTurn_same h

theorem noTurn_cellLeaves {c : GCell} (h : NoTurn t) : NoTurn (cellLeaves t c) := noTurn_entered h (Entered.refl t).cellLeaves

theorem noTurn_freeCells {cs : List GCell} (h : NoTurn t) : NoTurn (freeCells cs t) := noTurn_entered h (Entered.refl t).freeCells

theorem noTurn_deliver {o : Out} {prg : Nat} {port : Option Nat} {m : Msg} {cells : List GCell}
    (h : NoTurn t) : NoTurn (deliver t o prg port m cells) := noTurn_same h

theorem noTurn_takePinned {parts : List GCell} {c : GCell} (h : NoTurn t) : NoTurn (takePinned parts c t) :=
  noTurn_entered h (Entered.refl t).takePinned

theorem noTurn_takeWaiting {n : Nat} (h : NoTurn t) : NoTurn (takeWaiting n t) := by
  induction n generalizing t with
  | zero => exact h
  | succ n ih =>
    unfold takeWaiting
    extract_lets
    split
    · exact ih (noTurn_takePinned h)
    · exact h

theorem noTurn_enterRouted {c : GCell} (h : NoTurn t) : NoTurn (enterRouted t c) := noTurn_entered h (Entered.refl t).enterRouted

theorem noTurn_numbered {c : GCell} (h : NoTurn t) : NoTurn (numbered t c).1 := noTurn_entered h (Entered.refl t).numbered

theorem noTurn_enterAs {reply : Bool} {c : GCell} (h : NoTurn t) : NoTurn (enterAs reply t c) := noTurn_entered h (Entered.refl t).enterAs

theorem noTurn_enterShared {c : GCell} (h : NoTurn t) : NoTurn (enterShared t c) := noTurn_enterAs h

theorem noTurn_emitAs {reply : Bool} {o : Origin} {m : Msg} (h : NoTurn t) : NoTurn (emitAs reply o m t) := noTurn_entered h (Entered.refl t).emitAs

theorem noTurn_emit {o : Origin} {m : Msg} (h : NoTurn t) : NoTurn (emit o m t) := noTurn_entered h (Entered.refl t).emit
theorem noTurn_emitReply {m : Msg} (h : NoTurn t) : NoTurn (emitReply m t) := noTurn_emitAs h

theorem noTurn_emitPort {b : Nat} {m : Msg} (h : NoTurn t) : NoTurn (emitPort b m t) :=
  noTurn_ite (noTurn_foldl (fun _ _ hr => noTurn_enterShared hr) h) h

theorem noTurn_endRequest {o : Origin} {prg status : Nat} {h' : Hdr} {pay : Bytes} {nak : Bool}
    (h : NoTurn t) : NoTurn (endRequest o prg h' pay status nak t) := noTurn_entered h (Entered.refl t).endRequest

theorem noTurn_reenter {l : List GCell} {gone : Bool} (h : NoTurn t) : NoTurn (reenter l gone t) := by
  induction l generalizing t gone with
  | nil => exact h
  | cons c r ih =>
    unfold reenter
    split
    · exact ih (noTurn_enterShared h)
    split
    · exact ih h
    split
    · exact ih (noTurn_enterShared h)
    · exact noTurn_ite (ih (noTurn_endRequest (noTurn_deadTarget h))) (ih (noTurn_numbered h))

theorem noTurn_drainWaiting (h : NoTurn t) : NoTurn (drainWaiting t) := noTurn_takeWaiting (noTurn_reenter (noTurn_same h))

theorem noTurn_police {b tc : Nat} {vep : Option Nat} (h : NoTurn t) : NoTurn (police t b tc vep).2.2 := by
  unfold police
  split
  · exact h
  dsimp only
  split
  · refine noTurn_same ?_
    split
    · exact h
    · exact noTurn_same h
  split
  · exact h
  · exact noTurn_same h

theorem noTurn_routeIn {c : GCell} (h : NoTurn t) : NoTurn (routeIn t c) := by
  unfold routeIn
  split
  · extract_lets
    split
    · exact noTurn_ite (noTurn_enterRouted (noTurn_releaseCredit h)) (noTurn_enterRouted h)
    · exact noTurn_enterRouted h
  · exact noTurn_ite (noTurn_endRequest (noTurn_deadTarget (noTurn_cellLeaves h))) (noTurn_cellLeaves h)

theorem noTurn_meterIn {b : Nat} {c : GCell} (h : NoTurn t) : NoTurn (meterIn t b c) := by
  unfold meterIn
  dsimp only
  split
  · exact
      have h1 := noTurn_bump (noTurn_police h)
      noTurn_ite (noTurn_same h1) (noTurn_routeIn h1)
  · exact
      have h2 := noTurn_bump (noTurn_police h)
      noTurn_ite (noTurn_same h2) (noTurn_routeIn h2)
  · exact
      have h3 := noTurn_bump (noTurn_bump (noTurn_police h))
      noTurn_ite (noTurn_ite (noTurn_same h3) (noTurn_routeIn h3)) (noTurn_same (noTurn_bump (noTurn_bump (noTurn_police h))))

theorem noTurn_bootTile {b : Nat} {h' : Hdr} (h : NoTurn t) : NoTurn (bootTile b h' t) := noTurn_ite h (noTurn_modPort h)

theorem noTurn_groundIn {p : Nat} {g : Seg} (h : NoTurn t) : NoTurn (groundIn p g t) := by
  unfold groundIn
  extract_lets
  split
  · exact noTurn_same h
  split
  · exact noTurn_raise (noTurn_releaseCredit (noTurn_bump (noTurn_bump h)))
  · exact
      have h1 := noTurn_releaseCredit (noTurn_bump h)
      have h2 := noTurn_releaseCredit (noTurn_bump h)
      have h3 := noTurn_releaseCredit (noTurn_bump h)
      have h4 := noTurn_ite (noTurn_bootTile (noTurn_bump h)) (noTurn_bump h)
      noTurn_ite (noTurn_ite (noTurn_endRequest h1) h1)
        (noTurn_ite (noTurn_ite (noTurn_endRequest h2) h2)
          (noTurn_ite (noTurn_ite (noTurn_endRequest h3) h3)
            (noTurn_ite (noTurn_ite (noTurn_endRequest (noTurn_releaseCredit h4)) (noTurn_releaseCredit h4))
              (noTurn_ite (noTurn_deliver (noTurn_releaseCredit h4)) (noTurn_meterIn h4)))))

theorem noTurn_groundOn {n : Nat} (h : NoTurn t) : NoTurn (groundOn n t) := by
  induction n generalizing t with
  | zero => exact h
  | succ n ih =>
    unfold groundOn
    split
    · exact ih (noTurn_groundIn (noTurn_same h))
    · exact h

theorem noTurn_answerFlushed {status : Nat} {seen l : List GCell} (h : NoTurn t) : NoTurn (answerFlushed status seen l t) := by
  induction l generalizing t seen with
  | nil => exact h
  | cons c r ih =>
    have hc : NoTurn (cellLeaves (bump t (GND_FLUSHED c.slice)) c) := noTurn_cellLeaves (noTurn_bump h)
    unfold answerFlushed
    refine ih (noTurn_ite hc (noTurn_ite hc ?_))
    split
    next heq => exact noTurn_endRequest (noTurn_snd heq (noTurn_ite_snd hc (noTurn_takeFreeBytes hc)))

theorem noTurn_flushPort {b status : Nat} (h : NoTurn t) : NoTurn (flushPort b status t) :=
  noTurn_foldl (fun _ _ hr => noTurn_routeIn hr) (noTurn_answerFlushed (noTurn_bump (noTurn_same h)))

/-! ### Pool memory, objects, extents and moves -/

theorem noTurn_setErrs {b : Nat} {e : Bytes} (h : NoTurn t) : NoTurn (setErrs b e t) := noTurn_modMem h
theorem noTurn_blocksMoved {p n : Nat} (h : NoTurn t) : NoTurn (blocksMoved p n t) := noTurn_ite h (noTurn_bump h)

theorem noTurn_correctSector {sec : Nat} (h : NoTurn t) : NoTurn (correctSector sec t) :=
  noTurn_ite h (noTurn_foldl (fun _ _ hr => noTurn_setErrs hr) (noTurn_bump h))

theorem noTurn_readSector {part sec mask : Nat} (h : NoTurn t) : NoTurn (readSector part sec mask t).2 :=
  have h1 := noTurn_correctSector (noTurn_blocksMoved h)
  noTurn_ite_snd (noTurn_raise (noTurn_bump h1)) (noTurn_ite_snd h1 (noTurn_ite_snd h1 (noTurn_raise (noTurn_bump h1))))

theorem noTurn_sealSector {part p stale : Nat} {enc : Bool} {d : Bytes} (h : NoTurn t) : NoTurn (sealSector part enc p d stale t) :=
  noTurn_blocksMoved (noTurn_modMem h)

theorem noTurn_putSector {part p : Nat} {enc : Bool} {d : Bytes} (h : NoTurn t) : NoTurn (putSector part enc p d t) := noTurn_sealSector h

theorem noTurn_writeSectorOver {mask part p : Nat} {enc : Bool} {d : Bytes}
    (h : NoTurn t) : NoTurn (writeSectorOver mask part enc p d t).2 :=
  noTurn_ite_snd (noTurn_putSector (noTurn_ite_snd h (noTurn_readSector h))) (noTurn_ite_snd h (noTurn_readSector h))

theorem noTurn_writeSector {part p : Nat} {enc : Bool} {d : Bytes} (h : NoTurn t) : NoTurn (writeSector part enc p d t).2 :=
  noTurn_writeSectorOver h

theorem noTurn_memRead {part p n : Nat} (h : NoTurn t) : NoTurn (memRead part p n t).2.2 := by
  unfold memRead
  split
  next heq =>
  refine noTurn_snd heq (noTurn_foldl_snd (fun _ _ hr => ?_) h)
  split
  next heq => exact noTurn_snd heq (noTurn_readSector hr)

theorem noTurn_memWrite {part p : Nat} {enc : Bool} {d : Bytes} (h : NoTurn t) : NoTurn (memWrite part enc p d t).2 := by
  unfold memWrite
  refine noTurn_foldl_snd (fun _ _ hr => ?_) h
  split
  next heq =>
  have h1 := noTurn_snd heq (noTurn_writeSector hr)
  exact h1

theorem noTurn_forgetRange {p n : Nat} (h : NoTurn t) : NoTurn (forgetRange p n t) := noTurn_modMem h
theorem noTurn_poisonSector {part sec mask : Nat} (h : NoTurn t) : NoTurn (poisonSector part sec mask t) := noTurn_modMem (noTurn_bump h)
theorem noTurn_setObj {i : Nat} {o : Obj} (h : NoTurn t) : NoTurn (setObj t i o) := noTurn_modMem h
theorem noTurn_setExt {i : Nat} {e : Ext} (h : NoTurn t) : NoTurn (setExt t i e) := noTurn_modMem h
theorem noTurn_putMove {v : Move} (h : NoTurn t) : NoTurn (putMove t v) := noTurn_modMem h
theorem noTurn_trayMoved {write : Bool} {p n : Nat} (h : NoTurn t) : NoTurn (trayMoved write p n t) := noTurn_ite (noTurn_bump h) h

theorem noTurn_enginePiece {part base len p : Nat} {enc : Bool} {d : Bytes} (h : NoTurn t) : NoTurn (enginePiece part enc base len p d t) :=
  noTurn_ite (noTurn_putSector (noTurn_trayMoved h))
    (noTurn_ite (noTurn_writeSectorOver (noTurn_trayMoved h)) (noTurn_sealSector (noTurn_trayMoved h)))

theorem noTurn_engineWrite {part base len p : Nat} {enc : Bool} {d : Bytes} (h : NoTurn t) : NoTurn (engineWrite part enc base len p d t) :=
  noTurn_foldl (fun _ _ hr => noTurn_enginePiece hr) h

theorem noTurn_enginePoison {part p n : Nat} (h : NoTurn t) : NoTurn (enginePoison part p n t) :=
  noTurn_foldl (fun _ _ hr => noTurn_poisonSector hr) (noTurn_trayMoved h)

theorem noTurn_zeroFill {part p n : Nat} {enc : Bool} (h : NoTurn t) : NoTurn (zeroFill part enc p n t) :=
  noTurn_foldl (fun _ _ hr => noTurn_enginePiece hr) h

theorem noTurn_legacyBad {p : Nat} (h : NoTurn t) : NoTurn (legacyBad p t) := noTurn_raise (noTurn_bump h)

theorem noTurn_moveRead {v : Move} {b i : Nat} {raw : Bytes} (h : NoTurn t) : NoTurn (moveRead v b i raw t).2 := by
  unfold moveRead
  extract_lets
  split
  · split
    · exact noTurn_trayMoved h
    · exact noTurn_legacyBad (noTurn_trayMoved h)
  · exact noTurn_memRead (noTurn_trayMoved h)

theorem noTurn_movePut {v : Move} {i : Nat} {d : Option Bytes} (h : NoTurn t) : NoTurn (movePut v i d t) := by
  unfold movePut
  split
  · exact noTurn_engineWrite h
  · exact noTurn_enginePoison h

theorem noTurn_moveArrive {part base len p n : Nat} {enc : Bool} {pay : Bytes}
    (h : NoTurn t) : NoTurn (moveArrive part enc base len p n pay t) :=
  noTurn_ite (noTurn_enginePoison h) (noTurn_ite (noTurn_engineWrite h) (noTurn_forgetRange h))

/-! ### Loads, stores, atomics and coherence -/

theorem noTurn_answer {prg st : Nat} {m : Msg} {data : Option Bytes} (h : NoTurn t) : NoTurn (answer prg m st data t) := by
  unfold answer
  split
  · exact noTurn_ite (noTurn_emitReply h) h
  · exact noTurn_ite h (noTurn_endRequest h)

theorem noTurn_countTier {prg st : Nat} (h : NoTurn t) : NoTurn (countTier prg st t) := noTurn_ite (noTurn_bump h) (noTurn_ite (noTurn_bump h) h)
theorem noTurn_setCmb {n : Nat} {c : Cmb} (h : NoTurn t) : NoTurn (setCmb t n c) := noTurn_modMem h
theorem noTurn_modCmb {n : Nat} {f : Cmb → Cmb} (h : NoTurn t) : NoTurn (modCmb t n f) := noTurn_setCmb h

theorem noTurn_makeRoom {f n len : Nat} (h : NoTurn t) : NoTurn (makeRoom f n len t) := by
  induction f generalizing t with
  | zero => exact h
  | succ f ih => exact noTurn_ite h (ih (noTurn_bump (noTurn_setCmb h)))

theorem noTurn_keepRead {n addr len : Nat} {d : Bytes} (h : NoTurn t) : NoTurn (keepRead n addr len d t) :=
  noTurn_ite h (noTurn_modCmb (noTurn_makeRoom h))

theorem noTurn_dropReads {addr len : Nat} (h : NoTurn t) : NoTurn (dropReads addr len t) := noTurn_modMem h
theorem noTurn_nextArr (h : NoTurn t) : NoTurn (nextArr t).2 := noTurn_modMem h
theorem noTurn_holdReq {r : Req} {g : Stage} (h : NoTurn t) : NoTurn (holdReq r g t) := noTurn_modMem h
theorem noTurn_dropReq {arr : Nat} (h : NoTurn t) : NoTurn (dropReq arr t) := noTurn_modMem h
theorem noTurn_wake {p : Req → Bool} (h : NoTurn t) : NoTurn (wake p t) := noTurn_modMem h
theorem noTurn_freshId (h : NoTurn t) : NoTurn (freshId t).2 := noTurn_modMem h
theorem noTurn_putOp {n : Nat} {o : CmbOp} (h : NoTurn t) : NoTurn (putOp n o t) := noTurn_modCmb h

theorem noTurn_opDone {n id st : Nat} {olds : List Bytes} (h : NoTurn t) : NoTurn (opDone n id st olds t) := by
  unfold opDone
  split
  · exact h
  · exact noTurn_putOp h

theorem noTurn_lateReply {w : Asker} (h : NoTurn t) : NoTurn (lateReply w t) := by
  unfold lateReply
  split
  · exact noTurn_ite (noTurn_bump (noTurn_same h)) (noTurn_bump h)
  · exact noTurn_bump h

theorem noTurn_farDone {id st : Nat} {data : Bytes} (h : NoTurn t) : NoTurn (farDone id st data t) := by
  unfold farDone
  split
  · exact h
  · exact noTurn_ite (noTurn_lateReply (noTurn_modMem h)) (noTurn_modMem h)

theorem noTurn_finish {r : Req} {st : Nat} {data : Option Bytes} (h : NoTurn t) : NoTurn (finish r st data t) := by
  unfold finish
  split
  · exact noTurn_opDone (noTurn_countTier h)
  · exact noTurn_farDone (noTurn_countTier h)
  · exact noTurn_foldl (fun _ _ hr => noTurn_answer (noTurn_countTier hr))
      (noTurn_answer (noTurn_ite (noTurn_bump (noTurn_countTier h)) (noTurn_countTier h)))

theorem noTurn_moveSend {v : Move} {i : Nat} {d : Option Bytes} (h : NoTurn t) : NoTurn (moveSend v i d t) :=
  noTurn_emit (noTurn_modMem (noTurn_putMove (noTurn_freshId h)))

theorem noTurn_moveSector {v : Move} {i : Nat} {raw : Bytes} (h : NoTurn t) : NoTurn (moveSector v i raw t) := by
  unfold moveSector
  split
  next d u heq =>
  have hu : NoTurn u := by
    split at heq
    · exact noTurn_snd heq (noTurn_moveRead h)
    · exact noTurn_snd heq h
  exact noTurn_ite (noTurn_movePut hu) (noTurn_moveSend hu)

theorem noTurn_mirror {p n : Nat} (h : NoTurn t) : NoTurn (mirror p n t) := by
  unfold mirror
  split
  · exact h
  split
  · exact h
  refine noTurn_foldl (fun _ _ hr => ?_) h
  split
  · exact noTurn_ite (noTurn_moveSector hr) hr
  · exact hr

theorem noTurn_keepShared {r : Req} {d : Bytes} (h : NoTurn t) : NoTurn (keepShared r d t) := by
  unfold keepShared
  split
  · exact noTurn_ite (noTurn_keepRead h) h
  · exact h

theorem noTurn_serveAtomic {r : Req} {part p : Nat} {enc : Bool} (h : NoTurn t) : NoTurn (serveAtomic r part enc p t) :=
  noTurn_ite (noTurn_finish (noTurn_memRead h)) (noTurn_finish (noTurn_mirror (noTurn_memWrite (noTurn_memRead h))))

theorem noTurn_serve {r : Req} {part p : Nat} {enc : Bool} (h : NoTurn t) : NoTurn (serve r part enc p t) := by
  unfold serve
  extract_lets
  split
  · exact noTurn_finish h
  split
  · exact noTurn_holdReq h
  split
  · exact noTurn_ite (noTurn_finish (noTurn_keepShared (noTurn_memRead h))) (noTurn_finish (noTurn_memRead h))
  split
  · split
    · exact noTurn_serveAtomic h
    split
    · exact h
    · exact noTurn_ite (noTurn_finish (noTurn_memRead h)) (noTurn_opDone (noTurn_mirror (noTurn_countTier (noTurn_memWrite (noTurn_memRead h)))))
  · exact noTurn_finish (noTurn_mirror (noTurn_memWrite (noTurn_dropReads h)))

theorem noTurn_cohRaise {f : Src} {l : Nat} (h : NoTurn t) : NoTurn (cohRaise f l t) := noTurn_raise (noTurn_ite h (noTurn_same h))

theorem noTurn_setDir {l : Nat} {owned : Bool} {hs : List Nat} (h : NoTurn t) : NoTurn (setDir l owned hs t) := by
  unfold setDir
  split
  · exact noTurn_modMem h
  · exact noTurn_modMem h

theorem noTurn_sendSnoop {l op agent : Nat} (h : NoTurn t) : NoTurn (sendSnoop l op agent t) := noTurn_emit (noTurn_bump h)

theorem noTurn_startTxn {l op : Nat} {r : Option Req} {ask stay : List Nat} (h : NoTurn t) : NoTurn (startTxn l r op ask stay t) :=
  noTurn_foldl (fun _ _ hr => noTurn_sendSnoop hr) (noTurn_modMem h)

theorem noTurn_putTxn {t' : LineTxn} (h : NoTurn t) : NoTurn (putTxn t' t) := noTurn_modMem h

theorem noTurn_writeLine {l : Nat} {d : Bytes} (h : NoTurn t) : NoTurn (writeLine l d t) := by
  unfold writeLine
  split
  · exact noTurn_mirror (noTurn_memWrite h)
  · exact h

theorem noTurn_sweepLine {l : Nat} (h : NoTurn t) : NoTurn (sweepLine l t) := noTurn_ite (noTurn_startTxn h) h

theorem noTurn_grant {r : Req} {l st : Nat} {owned bare : Bool} {hs : List Nat} (h : NoTurn t) : NoTurn (grant r l st owned hs bare t) := by
  unfold grant
  split
  · exact noTurn_finish (noTurn_setDir h)
  split
  next heq =>
  have h1 := noTurn_snd_snd heq (noTurn_memRead h)
  exact noTurn_ite (noTurn_finish (noTurn_setDir h1)) (noTurn_finish h1)

theorem noTurn_wakeLine {l : Nat} (h : NoTurn t) : NoTurn (wakeLine l t) := noTurn_wake h

theorem noTurn_coherentRead {r : Req} {l : Nat} (h : NoTurn t) : NoTurn (coherentRead r l t) := by
  unfold coherentRead
  dsimp only
  split
  · exact
      have h1 := noTurn_ite (noTurn_setDir h) h
      have h2 := noTurn_ite (noTurn_bump h1) h1
      noTurn_ite (noTurn_holdReq h2) (noTurn_startTxn (noTurn_bump (noTurn_holdReq h2)))
  · exact
      have h1 := noTurn_ite (noTurn_setDir h) h
      have h2 := noTurn_ite (noTurn_bump h1) h1
      noTurn_ite (noTurn_ite (noTurn_wakeLine (noTurn_grant h2)) (noTurn_ite (noTurn_startTxn h2) (noTurn_wakeLine (noTurn_grant h2))))
        (noTurn_ite (noTurn_ite (noTurn_wakeLine (noTurn_grant h2)) (noTurn_startTxn h2))
          (noTurn_ite (noTurn_wakeLine (noTurn_grant h2)) (noTurn_startTxn h2)))

theorem noTurn_endTxn {t' : LineTxn} (h : NoTurn t) : NoTurn (endTxn t' t) := by
  unfold endTxn
  refine noTurn_sweepLine (noTurn_wakeLine ?_)
  split
  · exact noTurn_progress (noTurn_setDir (noTurn_modMem h))
  · exact noTurn_ite (noTurn_finish (noTurn_progress (noTurn_setDir (noTurn_modMem h))))
      (noTurn_ite
        (noTurn_ite (noTurn_grant (noTurn_progress (noTurn_setDir (noTurn_modMem h))))
          (noTurn_grant (noTurn_progress (noTurn_setDir (noTurn_modMem h)))))
        (noTurn_holdReq (noTurn_progress (noTurn_setDir (noTurn_modMem h)))))

theorem noTurn_tryEndTxn {l : Nat} (h : NoTurn t) : NoTurn (tryEndTxn l t) := by
  unfold tryEndTxn
  split
  · exact noTurn_ite (noTurn_endTxn h) h
  · exact h

theorem noTurn_trayIssue {r : Req} {c : Nat} (h : NoTurn t) : NoTurn (trayIssue r c t) := by
  unfold trayIssue
  split
  · exact noTurn_holdReq (noTurn_bump h)
  · exact noTurn_holdReq h

theorem noTurn_atTray {r : Req} {c : Nat} {u : State} (h : NoTurn t) (e : atTray r c t = some u) : NoTurn u := by
  unfold atTray at e
  split at e
  · cases e; exact noTurn_finish h
  split at e
  · cases e; exact noTurn_holdReq h
  split at e
  · cases e; exact noTurn_finish h
  · cases e

theorem noTurn_toTray {r : Req} {c : Nat} (h : NoTurn t) : NoTurn (toTray r c t) := by
  unfold toTray
  split
  next heq =>
    exact noTurn_atTray h heq
  · exact noTurn_trayIssue h

theorem noTurn_toLender {r : Req} {x : Ext} (h : NoTurn t) : NoTurn (toLender r x t) :=
  noTurn_ite (noTurn_holdReq (noTurn_emit (noTurn_freshId h))) (noTurn_finish (noTurn_deadTarget (noTurn_freshId h)))

theorem noTurn_atChannel {r : Req} {p : Nat} {u : State} (h : NoTurn t) (e : atChannel r p t = some u) : NoTurn u := by
  unfold atChannel at e
  split at e
  · cases e; exact noTurn_finish h
  split at e
  · cases e; exact noTurn_holdReq h
  · cases e

theorem noTurn_atTier {r : Req} {i : Nat} (h : NoTurn t) : NoTurn (atTier r i t) := by
  unfold atTier
  extract_lets
  split
  · split
    next heq =>
      exact noTurn_atChannel h heq
    · exact noTurn_serve h
  · exact noTurn_ite (noTurn_toLender h) (noTurn_toTray h)

theorem noTurn_atLine {r : Req} {i : Nat} (h : NoTurn t) : NoTurn (atLine r i t) := by
  unfold atLine
  extract_lets
  split
  · exact noTurn_ite (noTurn_finish h) (noTurn_atTier h)
  extract_lets
  split
  · exact noTurn_finish h
  split
  · exact noTurn_finish h
  split
  · exact noTurn_holdReq h
  split
  · exact noTurn_holdReq h
  split
  · exact noTurn_holdReq h
  split
  next heq =>
    exact noTurn_atChannel h heq
  split
  · exact noTurn_coherentRead h
  split
  · exact noTurn_startTxn h
  · exact noTurn_atTier h

theorem noTurn_combineRead {r : Req} {i : Nat} (h : NoTurn t) : NoTurn (combineRead r i t) := by
  unfold combineRead
  extract_lets
  split
  · exact noTurn_atLine h
  split
  · exact noTurn_atLine (noTurn_ite h (noTurn_bump h))
  split
  · exact noTurn_finish (noTurn_bump (noTurn_ite h (noTurn_bump h)))
  split
  · exact noTurn_bump (noTurn_modMem (noTurn_ite h (noTurn_bump h)))
  · exact noTurn_atLine (noTurn_ite h (noTurn_bump h))

theorem noTurn_process {r : Req} (h : NoTurn t) : NoTurn (process r t) := by
  unfold process
  extract_lets
  split
  · exact noTurn_finish h
  split
  · exact noTurn_holdReq h
  split
  · exact noTurn_holdReq h
  split
  · exact noTurn_finish h
  extract_lets
  split
  · exact noTurn_holdReq h
  split
  · exact noTurn_holdReq (noTurn_bump h)
  split
  · exact noTurn_holdReq (noTurn_ite h (noTurn_bump h))
  split
  · exact noTurn_finish (noTurn_ite h (noTurn_bump h))
  · exact
      have h1 := noTurn_ite h (noTurn_bump h)
      have h2 := noTurn_ite (noTurn_progress h1) h1
      noTurn_ite (noTurn_holdReq h2) (noTurn_combineRead (noTurn_ite (noTurn_dropReads h2) h2))

theorem noTurn_hostedReq {r : Req} {p n : Nat} (h : NoTurn t) : NoTurn (hostedReq r p n t) := by
  unfold hostedReq
  extract_lets
  split
  · exact noTurn_ite (noTurn_finish (noTurn_modMem (noTurn_moveArrive h))) (noTurn_finish h)
  refine noTurn_ite (noTurn_finish h) ?_
  split
  · exact noTurn_serve h
  · exact noTurn_ite (noTurn_bump h) (noTurn_finish h)

theorem noTurn_physReq {r : Req} (h : NoTurn t) : NoTurn (physReq r t) := by
  unfold physReq
  extract_lets m p n from_ hub u1 u2
  refine noTurn_ite (noTurn_finish h) (noTurn_ite (noTurn_finish h) (noTurn_ite (noTurn_holdReq h) (noTurn_ite (noTurn_holdReq h)
    (noTurn_ite (noTurn_holdReq h) ?_))))
  split
  next heq =>
    split at heq
    · exact noTurn_atTray h heq
    · exact noTurn_atChannel h heq
  · have hu : NoTurn u2 := noTurn_ite (noTurn_bump (noTurn_progress h)) (noTurn_progress h)
    split
    · exact noTurn_ite (noTurn_finish (noTurn_putMove (noTurn_moveArrive hu))) (noTurn_finish hu)
    · exact noTurn_hostedReq hu

theorem noTurn_goOn {r : Req} (h : NoTurn t) : NoTurn (goOn r t) := noTurn_ite (noTurn_physReq h) (noTurn_process h)

theorem noTurn_passOp {n id : Nat} (h : NoTurn t) : NoTurn (passOp n id t) := by
  unfold passOp
  split
  · exact h
  split
  · exact h
  · exact noTurn_goOn (noTurn_putOp (noTurn_ite h (noTurn_bump (noTurn_bump h))))

theorem noTurn_flushSource {n src : Nat} (h : NoTurn t) : NoTurn (flushSource n src t) := noTurn_foldl (fun _ _ hr => noTurn_passOp hr) h

theorem noTurn_rcCreate {n : Nat} {m : Msg} {u : State} (h : NoTurn t) (e : rcCreate n m t = some u) : NoTurn u := by
  unfold rcCreate at e
  extract_lets at e
  split at e
  · cases e; exact noTurn_setCmb h
  split at e
  · cases e; exact noTurn_bump (noTurn_setCmb h)
  · cases e

theorem noTurn_unitAtomic {n arr port : Nat} {m : Msg} (h : NoTurn t) : NoTurn (unitAtomic n arr port m t) := by
  unfold unitAtomic
  extract_lets
  split
  · exact noTurn_putOp (noTurn_foldl (fun _ _ hr => noTurn_passOp hr) (noTurn_flushSource h))
  · exact
      have h1 := noTurn_foldl (fun _ _ hr => noTurn_passOp hr) (noTurn_flushSource h)
      noTurn_ite (noTurn_modCmb h1) (noTurn_passOp (noTurn_modCmb h1))

theorem noTurn_atomicIn {n : Nat} {r : Req} (h : NoTurn t) : NoTurn (atomicIn n r t) := by
  unfold atomicIn
  extract_lets
  split
  · exact noTurn_finish h
  split
  · exact noTurn_holdReq h
  split
  · split
    · exact noTurn_finish (noTurn_bump h)
    split
    next heq =>
      exact noTurn_unitAtomic (noTurn_rcCreate h heq)
    · exact noTurn_holdReq h
  · split
    next heq =>
      exact noTurn_unitAtomic (noTurn_rcCreate h heq)
    · exact noTurn_holdReq h
  · split
    · exact noTurn_finish (noTurn_bump h)
    · exact noTurn_holdReq h
  · exact noTurn_finish (noTurn_bump h)

theorem noTurn_replyMember {n st : Nat} {m : Msg} {old : Bytes} (h : NoTurn t) : NoTurn (replyMember n m st old t) :=
  noTurn_foldl (fun _ _ hr => noTurn_answer (noTurn_dropReq (noTurn_bump hr))) (noTurn_answer (noTurn_progress (noTurn_modCmb h)))

theorem noTurn_snpRspAt {m : Msg} (h : NoTurn t) : NoTurn (snpRspAt m t) := by
  unfold snpRspAt
  extract_lets
  split
  · exact h
  · exact noTurn_ite h
      (noTurn_tryEndTxn (noTurn_putTxn (noTurn_ite (noTurn_writeLine (noTurn_ite_snd (noTurn_bump h) (noTurn_ite_snd (noTurn_bump h) h)))
        (noTurn_ite_snd (noTurn_bump h) (noTurn_ite_snd (noTurn_bump h) h)))))

theorem noTurn_wbAt {prg : Nat} {m : Msg} (h : NoTurn t) : NoTurn (wbAt prg m t) := by
  unfold wbAt
  extract_lets
  split
  · exact noTurn_ite (noTurn_tryEndTxn (noTurn_putTxn (noTurn_answer (noTurn_writeLine (noTurn_bump h)))))
      (noTurn_ite (noTurn_answer (noTurn_putTxn (noTurn_writeLine (noTurn_bump h))))
        (noTurn_ite (noTurn_answer (noTurn_setDir (noTurn_writeLine (noTurn_bump h)))) (noTurn_cohRaise (noTurn_answer (noTurn_bump h)))))
  · exact noTurn_ite (noTurn_answer (noTurn_setDir (noTurn_writeLine (noTurn_bump h)))) (noTurn_cohRaise (noTurn_answer (noTurn_bump h)))

theorem noTurn_evictAt {prg : Nat} {m : Msg} (h : NoTurn t) : NoTurn (evictAt prg m t) :=
  noTurn_answer (noTurn_ite (noTurn_setDir h) (noTurn_bump h))

theorem noTurn_dirMsg {r : Req} (h : NoTurn t) : NoTurn (dirMsg r t) := by
  unfold dirMsg
  dsimp only
  split
  · exact noTurn_holdReq h
  split
  · exact noTurn_holdReq h
  split
  · exact noTurn_holdReq h
  split
  · exact noTurn_holdReq h
  · exact noTurn_ite (noTurn_snpRspAt (noTurn_progress h)) (noTurn_ite (noTurn_wbAt (noTurn_progress h)) (noTurn_evictAt (noTurn_progress h)))

theorem noTurn_unblock (h : NoTurn t) : NoTurn (unblock t) := noTurn_wake h
theorem noTurn_takeTurn {r : Req} (h : NoTurn t) : NoTurn (takeTurn r t) := noTurn_modMem h
theorem noTurn_resume {r : Req} (h : NoTurn t) : NoTurn (resume r t) := noTurn_ite (noTurn_dirMsg h) (noTurn_ite (noTurn_atomicIn h) (noTurn_goOn h))

theorem noTurn_pump {n : Nat} (h : NoTurn t) : NoTurn (pump n t) := by
  induction n generalizing t with
  | zero => exact h
  | succ n ih =>
    unfold pump
    extract_lets
    split
    · exact noTurn_unblock h
    · exact ih (noTurn_resume (noTurn_dropReq (noTurn_takeTurn (noTurn_unblock h))))

theorem noTurn_runFences (h : NoTurn t) : NoTurn (runFences t) :=
  noTurn_foldl (fun _ _ hr => noTurn_ite hr (noTurn_ite (noTurn_answer (noTurn_dropReq hr)) (noTurn_modMem hr))) h

theorem noTurn_runReqs (h : NoTurn t) : NoTurn (runReqs t) := noTurn_runFences (noTurn_pump h)

theorem noTurn_ask {who : Asker} {n part : Nat} {k : Ask} (h : NoTurn t) : NoTurn (ask who n part k t) :=
  noTurn_ite (noTurn_runReqs (noTurn_goOn (noTurn_modMem (noTurn_nextArr h))))
    (noTurn_ite (noTurn_emit (noTurn_modMem (noTurn_modMem (noTurn_freshId (noTurn_nextArr h)))))
      (noTurn_modMem (noTurn_deadTarget (noTurn_freshId (noTurn_nextArr h)))))

theorem noTurn_farDrop {p : Asker → Bool} (h : NoTurn t) : NoTurn (farDrop p t) := noTurn_modMem h

theorem noTurn_cacheFill {hub e : Nat} (h : NoTurn t) : NoTurn (cacheFill hub e t) := noTurn_modMem h

theorem noTurn_lateTags {r : Req} (h : NoTurn t) : NoTurn (lateTags r t) := by
  unfold lateTags
  split
  · exact noTurn_modMem h
  · exact noTurn_modMem h
  · exact h

theorem noTurn_dropTxnReq {arr : Nat} (h : NoTurn t) : NoTurn (dropTxnReq arr t) := noTurn_modMem h

theorem noTurn_trayDown {c : Nat} (h : NoTurn t) : NoTurn (trayDown c t) :=
  noTurn_runReqs (noTurn_foldl (fun _ _ hr => noTurn_finish (noTurn_dropReq hr)) (noTurn_modMem h))

theorem noTurn_sweepDom {d : Nat} (h : NoTurn t) : NoTurn (sweepDom d t) := by
  unfold sweepDom
  split
  · exact h
  · exact noTurn_foldl (fun _ _ hr => noTurn_ite hr (noTurn_startTxn hr)) (noTurn_modMem h)

end Sys2Proof.Machine
end

section
/-! PROOFS. For O60: no turn comes from the operations of time, links, programs and collectives. -/

namespace Sys2Proof.Machine

-- One after another: side by side, so many short proofs take more threads than the check has memory for.
set_option Elab.async false

variable {t : State}

/-! ### Device time and its sources -/

theorem noTurn_setTimState {v : Nat} (h : NoTurn t) : NoTurn (setTimState t v) := noTurn_wrF h
theorem noTurn_dropCause {f : Src} {u : Nat} (h : NoTurn t) : NoTurn (dropCause f u t) := noTurn_same h
theorem noTurn_addCause {f : Src} {u : Nat} {prog : Word} (h : NoTurn t) : NoTurn (addCause f u prog t) := noTurn_same (noTurn_dropCause h)

theorem noTurn_timSourceChanged {old : Word} (h : NoTurn t) : NoTurn (timSourceChanged old t) :=
  noTurn_ite (noTurn_setTimState (noTurn_dropCause (noTurn_same h)))
    (noTurn_ite h
      (noTurn_ite (noTurn_ite (noTurn_dropCause (noTurn_same h)) (noTurn_setTimState (noTurn_dropCause (noTurn_same h))))
        (noTurn_setTimState (noTurn_dropCause (noTurn_same h)))))

theorem noTurn_setDom {d : Nat} {x : Domain} (h : NoTurn t) : NoTurn (setDom t d x) := noTurn_same h

/-! ### Links and ports -/

theorem noTurn_setLink {p st : Nat} (h : NoTurn t) : NoTurn (setLink t p st) := noTurn_wrF h
theorem noTurn_showLive {b : Nat} (h : NoTurn t) : NoTurn (showLive b t) := noTurn_wrF h

theorem noTurn_gangDeliver {n b : Nat} (h : NoTurn t) : NoTurn (gangDeliver n b t) := by
  induction n generalizing t with
  | zero => exact h
  | succ n ih =>
    unfold gangDeliver
    split
    · exact h
    split
    · exact h
    · exact ih (noTurn_groundIn (noTurn_modPort (noTurn_modPort h)))

theorem noTurn_gangLose {b m : Nat} (h : NoTurn t) : NoTurn (gangLose b m t) := by
  unfold gangLose
  extract_lets
  split
  · exact noTurn_modPort h
  · exact noTurn_raise (noTurn_gangDeliver (noTurn_modPort (noTurn_modPort h)))

theorem noTurn_portLost {p : Nat} {down : Bool} (h : NoTurn t) : NoTurn (portLost p down t) :=
  noTurn_ite (noTurn_gangLose (noTurn_showLive h)) (noTurn_ite (noTurn_addDue (noTurn_flushPort (noTurn_showLive h))) (noTurn_showLive h))

theorem noTurn_linkFall {f : Src} {p : Nat} (h : NoTurn t) : NoTurn (linkFall f p t) :=
  noTurn_portLost (noTurn_raise (noTurn_modPort (noTurn_setLink h)))

theorem noTurn_linkDown {p : Nat} (h : NoTurn t) : NoTurn (linkDown p t) := noTurn_linkFall h

theorem noTurn_linkDisable {p : Nat} (h : NoTurn t) : NoTurn (linkDisable p t) :=
  have h1 := noTurn_modPort (noTurn_setLink h)
  noTurn_ite (noTurn_portLost h1) h1

/-! ### Stream programs and bobbins -/

theorem noTurn_setBobState {b v : Nat} (h : NoTurn t) : NoTurn (setBobState b v t) := noTurn_wrF h
theorem noTurn_setCursor {b v : Nat} (h : NoTurn t) : NoTurn (setCursor b v t) := noTurn_wrF h
theorem noTurn_setBob {b : Nat} {x : Bobbin} (h : NoTurn t) : NoTurn (setBob t b x) := noTurn_same h
theorem noTurn_modBob {b : Nat} {f : Bobbin → Bobbin} (h : NoTurn t) : NoTurn (modBob b f t) := noTurn_setBob h

theorem noTurn_bobFault {b code station desc detail tile : Nat} {st : Option Step}
    (h : NoTurn t) : NoTurn (bobFault b code station desc detail tile st t) :=
  noTurn_ite h (noTurn_addDue (noTurn_raise (noTurn_setBobState (noTurn_wrF (noTurn_wrReg h)))))

theorem noTurn_bobFenced {b : Nat} (h : NoTurn t) : NoTurn (bobFenced b t) :=
  noTurn_ite h (noTurn_addDue (noTurn_setBobState (noTurn_modBob (noTurn_wrReg h))))

theorem noTurn_dropSteps {b : Nat} (h : NoTurn t) : NoTurn (dropSteps b t) := noTurn_modBob h
theorem noTurn_bobRestart {b bank : Nat} {e : BobEnt} (h : NoTurn t) : NoTurn (bobRestart b e bank t) := noTurn_setBob (noTurn_wrReg h)

theorem noTurn_bindStations {n : Nat} (h : NoTurn t) : NoTurn (bindStations n t) := by
  unfold bindStations
  refine noTurn_foldl (fun _ _ hr => ?_) h
  extract_lets
  split
  · exact noTurn_wrReg (noTurn_wrReg (noTurn_wrReg hr))
  · exact noTurn_wrReg (noTurn_wrReg (noTurn_wrReg hr))

theorem noTurn_bankTakesForce {n : Nat} (h : NoTurn t) : NoTurn (bankTakesForce n t) := noTurn_bindStations (noTurn_wrF h)

theorem noTurn_bobCmd {b cmd : Nat} (h : NoTurn t) : NoTurn (bobCmd b cmd t) := by
  unfold bobCmd
  extract_lets
  split
  · exact noTurn_csrRefused h
  split
  · split
    · exact noTurn_ite (noTurn_okReply (noTurn_setBobState (noTurn_bobRestart h))) (noTurn_csrRefused h)
    · exact noTurn_csrRefused h
  split
  · exact noTurn_okReply (noTurn_setBobState h)
  split
  · split
    · exact noTurn_okReply (noTurn_setBobState (noTurn_bobRestart h))
    · exact noTurn_csrRefused h
  · exact noTurn_ite (noTurn_okReply (noTurn_setBobState (noTurn_dropSteps h)))
      (noTurn_ite (noTurn_okReply (noTurn_setBobState (noTurn_setBob h))) (noTurn_csrRefused h))

theorem noTurn_progLoad {n : Nat} {w : Word} (h : NoTurn t) : NoTurn (progLoad n w t) :=
  have h1 := noTurn_okReply (noTurn_wrF (noTurn_wrF h))
  noTurn_ite h1 (noTurn_ite (noTurn_wrF h1) (noTurn_same (noTurn_wrF (noTurn_wrF h1))))

theorem noTurn_putStep {b : Nat} {st : Step} (h : NoTurn t) : NoTurn (putStep b st t) := noTurn_modBob h
theorem noTurn_expireTurns (h : NoTurn t) : NoTurn (expireTurns t) := noTurn_same h

/-! ### Collectives and multicast -/

theorem noTurn_setColl {i : Nat} {c : Coll} (h : NoTurn t) : NoTurn (setColl t i c) := noTurn_same h

theorem noTurn_closeGap {f : FlowKey} {q k : Nat} (h : NoTurn t) : NoTurn (closeGap f q k t) := noTurn_same h

theorem noTurn_dropRun {run : List GCell} (h : NoTurn t) : NoTurn (dropRun run t) := by
  unfold dropRun
  dsimp only
  split
  · exact noTurn_same h
  · exact noTurn_ite (noTurn_closeGap (noTurn_same h)) (noTurn_same h)

theorem noTurn_dropTiles {streams : List Nat} (h : NoTurn t) : NoTurn (dropTiles streams t) :=
  noTurn_ite h (noTurn_drainWaiting (noTurn_foldl (fun _ _ hr => noTurn_dropRun hr) h))

theorem noTurn_dropContribs {p : WaitContrib → Bool} (h : NoTurn t) : NoTurn (dropContribs p t) := noTurn_freeCells (noTurn_same h)

theorem noTurn_collAbort {id reason origin hops : Nat} {from_ : Option Nat}
    (h : NoTurn t) : NoTurn (collAbort id reason origin hops from_ t) := by
  unfold collAbort
  extract_lets
  split
  · exact h
  refine noTurn_raise (noTurn_bump (noTurn_foldl (fun _ _ hr => ?_)
    (noTurn_foldl (fun _ _ hr => noTurn_emit hr)
      (noTurn_foldl (fun _ _ hr => noTurn_ite hr (noTurn_emitPort hr))
        (noTurn_ite (noTurn_emit (noTurn_dropTiles (noTurn_dropContribs (noTurn_same (noTurn_setColl h)))))
          (noTurn_dropTiles (noTurn_dropContribs (noTurn_same (noTurn_setColl h)))))))))
  split
  · exact noTurn_bobFault hr
  · exact hr

theorem noTurn_collFail {id reason : Nat} (h : NoTurn t) : NoTurn (collFail id reason t) := noTurn_collAbort h

theorem noTurn_collPortGone {p : Nat} (h : NoTurn t) : NoTurn (collPortGone p t) :=
  noTurn_foldl (fun _ _ hr => noTurn_ite (noTurn_collFail hr) (noTurn_ite (noTurn_collFail hr) (noTurn_ite (noTurn_collFail hr) hr))) h

theorem noTurn_collBobGone {b : Nat} {st : Option Step} (h : NoTurn t) : NoTurn (collBobGone b st t) :=
  noTurn_foldl (fun _ _ hr => noTurn_ite (noTurn_collFail hr) hr) h

theorem noTurn_collRegionGone {n : Nat} (h : NoTurn t) : NoTurn (collRegionGone n t) :=
  noTurn_foldl (fun _ _ hr => noTurn_ite (noTurn_collFail hr) hr) h

end Sys2Proof.Machine
end

section
/-! PROOFS. For O60: no turn comes from the operations of the stations. -/

namespace Sys2Proof.Machine

-- One after another: side by side, so many short proofs take more threads than the check has memory for.
set_option Elab.async false

variable {t : State}

/-! ### Station units: the context of a unit of work and the units themselves -/

theorem noTurn_lookedAt {rgn e : Nat} (h : NoTurn t) : NoTurn (lookedAt rgn e t) :=
  noTurn_ite (noTurn_bump (noTurn_progress h)) (noTurn_cacheFill (noTurn_bump (noTurn_progress h)))

theorem noTurn_ctx_asked {k : Ask} {c : Ctx} (h : NoTurn c.s) : NoTurn (Ctx.asked k c).2.s := by
  unfold Ctx.asked
  split <;> exact h

theorem noTurn_ctx_halt {c : Ctx} (h : NoTurn c.s) : NoTurn (Ctx.halt c).s := h

theorem noTurn_ctx_read1 {a n : Nat} {c : Ctx} (h : NoTurn c.s) : NoTurn (c.read1 a n).2.2.s := by
  unfold Ctx.read1
  refine noTurn_ite_snd_snd_ctx h ?_
  extract_lets k
  split
  next heq =>
    have hc := noTurn_snd_ctx heq (noTurn_ctx_asked h)
    exact hc
  next heq => exact noTurn_ctx_halt (noTurn_snd_ctx heq (noTurn_ctx_asked h))
  next heq =>
    have hc := noTurn_snd_ctx heq (noTurn_ctx_asked h)
    split
    · exact noTurn_countTier hc
    · extract_lets
      split
      next heq => exact noTurn_countTier (noTurn_snd_snd heq (noTurn_memRead (noTurn_lookedAt hc)))
    · exact hc

theorem noTurn_writeDrops {e : Option Nat} {a n : Nat} (h : NoTurn t) : NoTurn (writeDrops e a n t) := by
  unfold writeDrops
  split
  · exact noTurn_ite (noTurn_dropReads h) h
  · exact h

theorem noTurn_ctx_write1 {a : Nat} {d : Bytes} {c : Ctx} (h : NoTurn c.s) : NoTurn (c.write1 a d).2.s := by
  have hask {k : Ask} {p : Option (Option (Nat × Bytes)) × Ctx} (e : (if c.dry then (none, c) else c.asked k) = p) : NoTurn p.2.s :=
    e ▸ noTurn_ite_snd_ctx h (noTurn_ctx_asked h)
  unfold Ctx.write1
  refine noTurn_ite_snd_ctx h ?_
  extract_lets n k
  split
  next heq => exact hask heq
  next heq => exact noTurn_ctx_halt (hask heq)
  next heq =>
    have hc := hask heq
    split
    · exact noTurn_countTier hc
    · extract_lets
      split
      next heq => exact noTurn_mirror (noTurn_countTier (noTurn_snd heq (noTurn_memWrite (noTurn_writeDrops (noTurn_lookedAt hc)))))
    · exact noTurn_ite_ctx hc hc

theorem noTurn_ctx_readSt {a n : Nat} {c : Ctx} (h : NoTurn c.s) : NoTurn (Ctx.readSt a n c).2.2.s := by
  unfold Ctx.readSt
  refine noTurn_foldl_snd_snd_ctx (fun _ _ hr => ?_) h
  split
  · split
    next heq =>
    have h1 := noTurn_snd_snd_ctx heq (noTurn_ctx_read1 hr)
    exact h1
  · exact hr

theorem noTurn_ctx_writeSt {a : Nat} {d : Bytes} {c : Ctx} (h : NoTurn c.s) : NoTurn (Ctx.writeSt a d c).2.s :=
  noTurn_foldl_snd_ctx (fun _ _ hr => noTurn_ite_snd_ctx (noTurn_ctx_write1 hr) hr) h

theorem noTurn_farUsed {ids : List Nat} (h : NoTurn t) : NoTurn (farUsed ids t) := noTurn_modMem h
theorem noTurn_ctx_askAll {c : Ctx} (h : NoTurn t) : NoTurn (Ctx.askAll c t) := noTurn_foldl (fun _ _ hr => noTurn_ask hr) h

end Sys2Proof.Machine
end

section
/-! PROOFS. For O60: no turn comes from the operations of CXL ports, homes, the boot and the shuttle. -/

namespace Sys2Proof.Machine

-- One after another: side by side, so many short proofs take more threads than the check has memory for.
set_option Elab.async false

variable {t : State}

/-! ### CXL ports and the requests of hosts -/

theorem noTurn_setCxlState {c v : Nat} (h : NoTurn t) : NoTurn (setCxlState c v t) := noTurn_wrF h

theorem noTurn_cxlLeave {c v : Nat} (h : NoTurn t) : NoTurn (cxlLeave c v t) :=
  noTurn_trayDown (noTurn_farDrop (noTurn_modMem (noTurn_setCxlState h)))

theorem noTurn_cxlRetrain {c : Nat} (h : NoTurn t) : NoTurn (cxlRetrain c t) := noTurn_ite (noTurn_cxlLeave h) h
theorem noTurn_cxlEnable {c : Nat} (h : NoTurn t) : NoTurn (cxlEnable c t) := noTurn_ite (noTurn_setCxlState h) (noTurn_raiseIf (noTurn_cxlLeave h))

theorem noTurn_hostReply {c ld : Nat} {d : Option Bytes} (h : NoTurn t) : NoTurn (hostReply c ld d t) :=
  noTurn_same (noTurn_ite (noTurn_bump h) h)

theorem noTurn_putHost {h' : HostReq} (h : NoTurn t) : NoTurn (putHost h' t) := noTurn_modMem h

theorem noTurn_hostGet {h' : HostReq} {a n : Nat} (h : NoTurn t) : NoTurn (hostGet h' a n t) :=
  have h1 := noTurn_farUsed (noTurn_ctx_readSt h)
  noTurn_ite (noTurn_putHost (noTurn_ctx_askAll h)) (noTurn_ite (noTurn_hostReply (noTurn_takeFreeBytes h1)) (noTurn_hostReply h1))

theorem noTurn_hostLine {h' : HostReq} (h : NoTurn t) : NoTurn (hostLine h' t) := by
  unfold hostLine
  split
  · exact noTurn_hostReply h
  split
  · exact noTurn_hostReply h
  split
  · exact noTurn_hostReply h
  · exact noTurn_hostGet h

theorem noTurn_hostRun {h' : HostReq} (h : NoTurn t) : NoTurn (hostRun h' t) :=
  noTurn_ite (noTurn_putHost h) (noTurn_ite (noTurn_raise (noTurn_bump h)) (noTurn_hostLine h))

theorem noTurn_runHosts (h : NoTurn t) : NoTurn (runHosts t) := noTurn_foldl (fun _ _ hr => noTurn_hostRun (noTurn_modMem hr)) h

/-! ### Homes, hosted extents, leases and publications -/

theorem noTurn_releaseHeld {slot : Nat} (h : NoTurn t) : NoTurn (releaseHeld slot t) := noTurn_modMem h
theorem noTurn_holdRange {slot home p n : Nat} (h : NoTurn t) : NoTurn (holdRange slot home p n t) := noTurn_modMem h
theorem noTurn_dropHeld {slot home p : Nat} (h : NoTurn t) : NoTurn (dropHeld slot home p t) := noTurn_modMem h

theorem noTurn_allocTake {slot : Nat} {d : Bytes} (h : NoTurn t) : NoTurn (allocTake slot d t) :=
  noTurn_setObj (noTurn_foldl (fun _ _ hr => noTurn_holdRange hr) (noTurn_modMem h))

theorem noTurn_dropFills {slot : Nat} {d : Bytes} (h : NoTurn t) : NoTurn (dropFills slot d t) := noTurn_modMem h
theorem noTurn_allocFill {d : Bytes} (h : NoTurn t) : NoTurn (allocFill d t) := noTurn_ite (noTurn_foldl (fun _ _ hr => noTurn_zeroFill hr) h) h

theorem noTurn_allocUndo {slot : Nat} {d : Bytes} (h : NoTurn t) : NoTurn (allocUndo slot d t) := by
  unfold allocUndo
  extract_lets
  split
  · exact noTurn_setObj (noTurn_dropFills h)
  · exact noTurn_dropFills h

theorem noTurn_setObjState {i st : Nat} (h : NoTurn t) : NoTurn (setObjState t i st) := noTurn_setObj h

theorem noTurn_moveTake {slot : Nat} {d : Bytes} (h : NoTurn t) : NoTurn (moveTake slot d t) := by
  unfold moveTake
  split
  · exact h
  · exact noTurn_modMem (noTurn_holdRange (noTurn_setExt h))

theorem noTurn_dropMove {v : Move} (h : NoTurn t) : NoTurn (dropMove v t) := noTurn_modMem h
theorem noTurn_wakeExt {e : Nat} (h : NoTurn t) : NoTurn (wakeExt e t) := noTurn_runReqs (noTurn_wake h)

theorem noTurn_moveUndo {slot : Nat} {d : Bytes} (h : NoTurn t) : NoTurn (moveUndo slot d t) := by
  unfold moveUndo
  split
  · exact h
  split
  · exact h
  · exact noTurn_wakeExt (noTurn_dropMove (noTurn_dropHeld (noTurn_modMem (noTurn_ite (noTurn_setExt h) h))))

theorem noTurn_sendTake {slot : Nat} {d : Bytes} (h : NoTurn t) : NoTurn (sendTake slot d t) := by
  unfold sendTake
  split
  · exact h
  · exact noTurn_modMem h

theorem noTurn_sendEnd {slot st : Nat} {d : Bytes} (h : NoTurn t) : NoTurn (sendEnd slot d st t) := by
  unfold sendEnd
  split
  · exact h
  · exact noTurn_modMem (noTurn_dropMove h)

theorem noTurn_recvTake {slot : Nat} {d : Bytes} (h : NoTurn t) : NoTurn (recvTake slot d t) := noTurn_modMem h

theorem noTurn_recvUndo {slot : Nat} {d : Bytes} {doubt : Bool} (h : NoTurn t) : NoTurn (recvUndo slot d doubt t) :=
  noTurn_ite (noTurn_modMem h) (noTurn_modMem h)

theorem noTurn_hqAnswer {ent : Bytes} (h : NoTurn t) : NoTurn (hqAnswer ent t) := noTurn_wrReg (noTurn_wrReg (noTurn_wrF (noTurn_wrF h)))
theorem noTurn_sendQuery {kind addr : Nat} (h : NoTurn t) : NoTurn (sendQuery kind addr t) := noTurn_emit (noTurn_modMem (noTurn_freshId h))

theorem noTurn_hqGo (h : NoTurn t) : NoTurn (hqGo t) :=
  noTurn_ite h (noTurn_ite (noTurn_hqAnswer h) (noTurn_ite (noTurn_wrF (noTurn_deadTarget h)) (noTurn_sendQuery (noTurn_wrF (noTurn_wrF h)))))

theorem noTurn_cohClearUndo {dom : Nat} (h : NoTurn t) : NoTurn (cohClearUndo dom t) := by
  unfold cohClearUndo
  split
  · exact h
  · exact noTurn_runReqs (noTurn_wake (noTurn_modMem h))

theorem noTurn_pubLapse {slot : Nat} (h : NoTurn t) : NoTurn (pubLapse slot t) :=
  noTurn_ite (noTurn_modMem h) (noTurn_runReqs (noTurn_wake (noTurn_modMem h)))

theorem noTurn_pubTake {d : Bytes} (h : NoTurn t) : NoTurn (pubTake d t) := noTurn_modMem h

theorem noTurn_pubUndo {d : Bytes} (h : NoTurn t) : NoTurn (pubUndo d t) := by
  unfold pubUndo
  split
  · exact noTurn_modMem h
  · exact h

theorem noTurn_homeTake {slot code : Nat} {d : Bytes} (h : NoTurn t) : NoTurn (homeTake slot code d t) := by
  unfold homeTake
  split
  · exact noTurn_allocTake h
  split
  · split
    · exact noTurn_setObjState h
    · exact h
  · exact noTurn_ite (noTurn_moveTake h) (noTurn_ite (noTurn_sendTake h) (noTurn_ite (noTurn_recvTake h) (noTurn_ite (noTurn_pubTake h) h)))

theorem noTurn_homeStart {code : Nat} {d : Bytes} (h : NoTurn t) : NoTurn (homeStart code d t) := noTurn_ite (noTurn_sweepDom h) h

theorem noTurn_homeWork {slot code : Nat} {d : Bytes} {u : State} (h : NoTurn t) (e : homeWork slot code d t = some u) : NoTurn u := by
  unfold homeWork at e
  split at e
  · cases e
  split at e
  · split at e
    · cases e
    · cases e; exact noTurn_allocFill h
  split at e
  · split at e
    · cases e; exact h
    · cases e
  · cases e; exact h

theorem noTurn_homeUndo {slot code : Nat} {d : Bytes} {doubt : Bool} (h : NoTurn t) : NoTurn (homeUndo slot code d doubt t) := by
  unfold homeUndo
  split
  · exact noTurn_allocUndo h
  split
  · split
    · exact noTurn_ite (noTurn_setObjState h) h
    · exact h
  · exact noTurn_ite (noTurn_moveUndo h)
      (noTurn_ite (noTurn_sendEnd h)
        (noTurn_ite (noTurn_recvUndo h) (noTurn_ite (noTurn_cohClearUndo h) (noTurn_ite (noTurn_pubLapse (noTurn_pubUndo h)) h))))

/-! ### Boot, restarts and mailboxes -/

theorem noTurn_modBoot {f : Boot → Boot} (h : NoTurn t) : NoTurn (modBoot t f) := noTurn_same h
theorem noTurn_ibi {r : Nat} (h : NoTurn t) : NoTurn (ibi r t) := noTurn_modBoot h
theorem noTurn_setBootState {v : Nat} (h : NoTurn t) : NoTurn (setBootState v t) := noTurn_wrF h
theorem noTurn_mgmtFrame {type : Nat} {body : Bytes} (h : NoTurn t) : NoTurn (mgmtFrame type body t) := noTurn_modBoot h

theorem noTurn_ctlNotify {ep op : Nat} {sint : Bool} {pay : Bytes} (h : NoTurn t) : NoTurn (ctlNotify ep sint op pay t) :=
  noTurn_ite (noTurn_emitPort h) (noTurn_emit h)

theorem noTurn_bootRequest (h : NoTurn t) : NoTurn (bootRequest t) :=
  have h1 := noTurn_ite (noTurn_modBoot h) (noTurn_setBootState (noTurn_modBoot h))
  noTurn_ite (noTurn_ite (noTurn_setLink (noTurn_wrF h1)) (noTurn_wrF h1)) (noTurn_mgmtFrame (noTurn_wrF h1))

theorem noTurn_bootAsk (h : NoTurn t) : NoTurn (bootAsk t) := noTurn_ite (noTurn_ctlNotify (noTurn_modBoot h)) h

theorem noTurn_ctlRestart (h : NoTurn t) : NoTurn (ctlRestart t) :=
  noTurn_bootRequest (noTurn_ibi (noTurn_setBootState (noTurn_foldl (fun _ _ hr => noTurn_ite (noTurn_addDue hr) hr) (noTurn_modBoot h))))

theorem noTurn_wdogKick (h : NoTurn t) : NoTurn (wdogKick t) := noTurn_modBoot h
theorem noTurn_setMbx {m : Nat} {x : Mbx} (h : NoTurn t) : NoTurn (setMbx m x t) := noTurn_wrF (noTurn_wrF (noTurn_same h))

theorem noTurn_outPop {m : Nat} (h : NoTurn t) : NoTurn (outPop m t) := noTurn_ite h (noTurn_bump (noTurn_setMbx h))

theorem noTurn_mbxDeliver {m : Nat} {first : Bool} (h : NoTurn t) : NoTurn (mbxDeliver m first t) := by
  unfold mbxDeliver
  extract_lets
  split
  · exact noTurn_outPop (noTurn_ctlNotify h)
  · exact noTurn_ite (noTurn_modBoot h) h
  · exact noTurn_outPop (noTurn_mgmtFrame h)
  · exact noTurn_ibi h
  · exact h

theorem noTurn_mbxOutPush {m : Nat} {w : Word} (h : NoTurn t) : NoTurn (mbxOutPush m w t) :=
  have h1 := noTurn_okReply (noTurn_setMbx h)
  have h2 := noTurn_okReply (noTurn_setMbx h)
  noTurn_ite (noTurn_ite (noTurn_csrRefused h) (noTurn_ite (noTurn_mbxDeliver h1) h1)) (noTurn_ite (noTurn_mbxDeliver h2) h2)

theorem noTurn_mbxClear {full : Bool} {w sets : Word} (h : NoTurn t) : NoTurn (mbxClear full w sets t) := noTurn_okReply (noTurn_wrReg h)

/-! ### Shuttle queue pairs -/

theorem noTurn_setQp {q : Nat} {x : Qp} (h : NoTurn t) : NoTurn (setQp t q x) := noTurn_same h
theorem noTurn_modQp {q : Nat} {f : Qp → Qp} (h : NoTurn t) : NoTurn (modQp t q f) := noTurn_setQp h
theorem noTurn_shtCtx {q job : Nat} (h : NoTurn t) : NoTurn (shtCtx t q job).s := h
theorem noTurn_shtDrop {q : Nat} {p : Nat → Bool} (h : NoTurn t) : NoTurn (shtDrop q p t) := noTurn_farDrop h
theorem noTurn_shtNotify {n ep op idx status detail : Nat} (h : NoTurn t) : NoTurn (shtNotify n ep op idx status detail t) := noTurn_emit h

theorem noTurn_drainCqes {n q : Nat} (h : NoTurn t) : NoTurn (drainCqes n q t).2 := by
  induction n generalizing t with
  | zero => exact h
  | succ n ih =>
    unfold drainCqes
    extract_lets
    split
    · exact h
    refine noTurn_ite_snd (noTurn_setQp h) ?_
    extract_lets
    split
    next heq =>
    have hc := noTurn_snd_ctx heq (noTurn_ctx_writeSt (noTurn_shtCtx h))
    exact noTurn_ite_snd (noTurn_ctx_askAll h) (noTurn_ite_snd (ih (noTurn_setQp (noTurn_farUsed hc)))
      (ih (noTurn_ite (noTurn_shtNotify (noTurn_setQp (noTurn_farUsed hc))) (noTurn_setQp (noTurn_farUsed hc)))))

theorem noTurn_qpFail {q status : Nat} {failing : Option Nat} (h : NoTurn t) : NoTurn (qpFail q status failing t) :=
  noTurn_shtNotify (noTurn_raise (noTurn_drainCqes (noTurn_shtDrop (noTurn_setQp h))))

theorem noTurn_qpErr {q status : Nat} {failing : Option Nat} (h : NoTurn t) : NoTurn (qpErr q status failing t) :=
  noTurn_ite h (noTurn_qpFail h)

theorem noTurn_tryDrain {q : Nat} (h : NoTurn t) : NoTurn (tryDrain q t) := noTurn_ite (noTurn_shtNotify (noTurn_setQp h)) h

theorem noTurn_retryCqes {q : Nat} (h : NoTurn t) : NoTurn (retryCqes q t) :=
  noTurn_tryDrain (noTurn_ite (noTurn_drainCqes h) (noTurn_qpErr (noTurn_drainCqes h)))

theorem noTurn_retryAllCqes (h : NoTurn t) : NoTurn (retryAllCqes t) := noTurn_foldl (fun _ _ hr => noTurn_retryCqes hr) h

theorem noTurn_expireShtTurns (h : NoTurn t) : NoTurn (expireShtTurns t) :=
  noTurn_setSht (by rw [h, List.map_nil])

theorem noTurn_qpReset {q : Nat} (h : NoTurn t) : NoTurn (qpReset q t) := noTurn_setQp (noTurn_shtDrop h)

theorem noTurn_shtEngineReset {n : Nat} (h : NoTurn t) : NoTurn (shtEngineReset n t) :=
  noTurn_foldl (fun _ _ hr => noTurn_modQp (noTurn_shtDrop (noTurn_qpFail hr))) h

theorem noTurn_shtFence {part : Nat} (h : NoTurn t) : NoTurn (shtFence part t) := noTurn_foldl (fun _ _ hr => noTurn_qpErr hr) h

end Sys2Proof.Machine
end

section
/-! PROOFS. For O60: no turn comes from the operations of partitions, faults, resets and power. -/

namespace Sys2Proof.Machine

-- One after another: side by side, so many short proofs take more threads than the check has memory for.
set_option Elab.async false

variable {t : State}

/-! ### Partitions, keys and attestation -/

theorem noTurn_setPartState {p v : Nat} (h : NoTurn t) : NoTurn (setPartState p v t) := noTurn_wrF h
theorem noTurn_consentEnd {p : Nat} (h : NoTurn t) : NoTurn (consentEnd p t) := noTurn_wrReg (noTurn_wrF (noTurn_same h))
theorem noTurn_pgenNext {p : Nat} (h : NoTurn t) : NoTurn (pgenNext p t) := noTurn_consentEnd (noTurn_wrF h)

theorem noTurn_resealSector {p sec : Nat} {cur : WorkKey} {r : Nat × Nat} (h : NoTurn t) : NoTurn (resealSector p cur r sec t) := by
  unfold resealSector
  dsimp only
  split
  · exact noTurn_ite (noTurn_trayMoved (noTurn_blocksMoved (noTurn_modMem (noTurn_readSector (noTurn_trayMoved h)))))
      (noTurn_readSector (noTurn_trayMoved h))
  · exact noTurn_readSector (noTurn_trayMoved h)

theorem noTurn_sweepUnwritten {p n : Nat} (h : NoTurn t) : NoTurn (sweepUnwritten p n t) :=
  noTurn_foldl (fun _ _ hr => noTurn_ite hr (noTurn_raise (noTurn_bump hr))) h

theorem noTurn_keySweep {p : Nat} (h : NoTurn t) : NoTurn (keySweep p t) := by
  unfold keySweep
  split
  · exact h
  · exact noTurn_foldl (fun _ _ hr => noTurn_foldl (fun _ _ hq => noTurn_resealSector hq) (noTurn_sweepUnwritten hr)) h

theorem noTurn_attestGo (h : NoTurn t) : NoTurn (attestGo t) := noTurn_ite h (noTurn_wrF (noTurn_same h))

/-! ### Fences, resets and class actions -/

theorem noTurn_genNext {g u p : Nat} (h : NoTurn t) : NoTurn (genNext g u p t) := noTurn_wrF h
theorem noTurn_unitGen {g u : Nat} (h : NoTurn t) : NoTurn (unitGen g u t) := noTurn_foldl (fun _ _ hr => noTurn_genNext hr) h
theorem noTurn_qpGens {n : Nat} {f : Qp → Qp} (h : NoTurn t) : NoTurn (qpGens n f t) := noTurn_foldl (fun _ _ hr => noTurn_setQp hr) h
theorem noTurn_blockGen {g u : Nat} (h : NoTurn t) : NoTurn (blockGen g u t) := noTurn_ite (noTurn_qpGens (noTurn_unitGen h)) (noTurn_unitGen h)

theorem noTurn_abortOn {p : Entry → Bool} {reason : Nat} (h : NoTurn t) : NoTurn (abortOn p reason t) :=
  noTurn_foldl (fun _ _ hr => noTurn_ite (noTurn_addDue hr) hr) h

theorem noTurn_abortTarget {p : Entry → Bool} (h : NoTurn t) : NoTurn (abortTarget p t) :=
  noTurn_foldl (fun _ _ hr => noTurn_ite (noTurn_addDue hr) hr) h

theorem noTurn_flushSlice {n st : Nat} (h : NoTurn t) : NoTurn (flushSlice n st t) :=
  noTurn_foldl (fun _ _ hr => noTurn_ite (noTurn_endRequest hr) hr) (noTurn_answerFlushed (noTurn_bump (noTurn_same h)))

theorem noTurn_flushCmb {n st : Nat} (h : NoTurn t) : NoTurn (flushCmb n st t) :=
  noTurn_runReqs (noTurn_foldl (fun _ _ hr => noTurn_foldl (fun _ _ hq => noTurn_replyMember hq) hr)
    (noTurn_modCmb (noTurn_foldl (fun _ _ hr => noTurn_lateTags (noTurn_dropTxnReq (noTurn_dropReq hr))) h)))

theorem noTurn_flushReplies {p : Nat} (h : NoTurn t) : NoTurn (flushReplies p t) :=
  noTurn_foldl (fun _ _ hr => noTurn_finish (noTurn_dropReq hr)) (noTurn_foldl (fun _ _ hr => noTurn_modCmb hr) h)

theorem noTurn_flushDir {u st : Nat} (h : NoTurn t) : NoTurn (flushDir u st t) := by
  unfold flushDir
  refine noTurn_runReqs (noTurn_wake (noTurn_foldl (fun _ _ hr => ?_) (noTurn_modMem h)))
  split
  · exact noTurn_finish hr
  · exact hr

theorem noTurn_flushTray {c st : Nat} (h : NoTurn t) : NoTurn (flushTray c st t) :=
  noTurn_runReqs (noTurn_foldl (fun _ _ hr => noTurn_finish (noTurn_lateTags (noTurn_dropReq hr))) h)

theorem noTurn_flushStation {u : Nat} (h : NoTurn t) : NoTurn (flushStation u t) := by
  unfold flushStation
  refine noTurn_foldl (fun _ _ hr => ?_) h
  split
  · exact noTurn_ite hr (noTurn_bobFault hr)
  · exact hr

theorem noTurn_flushBlock {g u : Nat} (h : NoTurn t) : NoTurn (flushBlock g u t) :=
  noTurn_ite (noTurn_addDue (noTurn_flushPort h))
    (noTurn_ite (noTurn_flushTray h)
      (noTurn_ite (noTurn_flushDir h) (noTurn_ite (noTurn_flushCmb h) (noTurn_ite (noTurn_flushSlice h) (noTurn_ite (noTurn_flushStation h) h)))))

theorem noTurn_portReset {p : Nat} (h : NoTurn t) : NoTurn (portReset p t) :=
  noTurn_modPort (noTurn_ite (noTurn_linkDown h) (noTurn_ite h (noTurn_setLink h)))

theorem noTurn_resetBlock {g u : Nat} (h : NoTurn t) : NoTurn (resetBlock g u t) :=
  noTurn_ite (noTurn_portReset (noTurn_flushBlock h))
    (noTurn_ite (noTurn_cxlLeave (noTurn_flushBlock h)) (noTurn_ite (noTurn_shtEngineReset (noTurn_flushBlock h)) (noTurn_flushBlock h)))

theorem noTurn_fenceRegion {r : Bool × Nat} (h : NoTurn t) : NoTurn (fenceRegion r t) :=
  noTurn_ite (noTurn_foldl (fun _ _ hr => noTurn_ite (noTurn_addDue (noTurn_flushPort hr)) hr) h)
    (noTurn_addDue (noTurn_foldl (fun _ _ hr => noTurn_bobFenced hr) h))

theorem noTurn_fencePart {p : Nat} (h : NoTurn t) : NoTurn (fencePart p t) :=
  noTurn_foldl (fun _ _ hr => noTurn_ite (noTurn_collFail hr) hr)
    (noTurn_flushReplies (noTurn_abortOn
      (noTurn_shtFence (noTurn_foldl (fun _ _ hr => noTurn_fenceRegion hr) (noTurn_setPartState (noTurn_tickStamp (noTurn_same h)))))))

theorem noTurn_fenceBlock {g u : Nat} {src : Option Src} (h : NoTurn t) : NoTurn (fenceBlock g u src t) :=
  noTurn_flushBlock (noTurn_tickStamp (noTurn_same h))

theorem noTurn_relift (h : NoTurn t) : NoTurn (relift t) := noTurn_ite (noTurn_same h) (noTurn_same h)

theorem noTurn_startJob {sc : Scope} {askers late : List Nat} (h : NoTurn t) : NoTurn (startJob sc askers late t) :=
  noTurn_tickStamp (noTurn_same h)

theorem noTurn_setLast {v base : Nat} (h : NoTurn t) : NoTurn (setLast v t base) := noTurn_wrF h

theorem noTurn_beginContext {g u ctx : Nat} {askers : List Nat} (h : NoTurn t) : NoTurn (beginContext g u ctx askers t) :=
  noTurn_ite
    (noTurn_startJob (noTurn_unitGen (noTurn_setBob (noTurn_ite (noTurn_abortTarget h) (noTurn_addDue (noTurn_setBobState (noTurn_abortTarget h)))))))
    (noTurn_startJob (noTurn_qpReset (noTurn_abortTarget h)))

theorem noTurn_beginEngine {g u : Nat} {askers late : List Nat} (h : NoTurn t) : NoTurn (beginEngine g u askers late t) :=
  noTurn_startJob (noTurn_blockGen (noTurn_resetBlock (noTurn_abortTarget h)))

theorem noTurn_chipClear (s : State) : NoTurn (chipClear s) := rfl

theorem noTurn_beginChip {cause : Nat} {late : List Nat} (s : State) : NoTurn (beginChip cause late s) :=
  noTurn_startJob (noTurn_bump (noTurn_wrF (noTurn_foldl (fun _ _ hr => noTurn_pgenNext hr) (noTurn_foldl (fun _ _ hr => noTurn_unitGen hr)
    (noTurn_same (noTurn_chipClear s))))))

theorem noTurn_deferReset {sc : Scope} {askers late : List Nat} (h : NoTurn t) : NoTurn (deferReset sc askers late t) := noTurn_same h

theorem noTurn_engineOrDefer {g u : Nat} {askers late : List Nat} (h : NoTurn t) : NoTurn (engineOrDefer g u askers late t) :=
  noTurn_ite (noTurn_deferReset h) (noTurn_beginEngine h)

theorem noTurn_resetRefused {base : Nat} (h : NoTurn t) : NoTurn (resetRefused base t) := noTurn_setLast (noTurn_csrRefused h)
theorem noTurn_absorbAsk {j : ResetJob} {base : Nat} (h : NoTurn t) : NoTurn (absorbAsk j base t) := noTurn_okReply (noTurn_same h)

theorem noTurn_resetAsk {sc : Scope} {base : Nat} (h : NoTurn t) : NoTurn (resetAsk sc base t) := by
  unfold resetAsk
  split
  · exact noTurn_resetRefused h
  split
  · exact noTurn_absorbAsk h
  · exact noTurn_ite (noTurn_resetRefused h)
      (noTurn_ite (noTurn_okReply (noTurn_deferReset h))
        (noTurn_ite (noTurn_okReply (noTurn_beginEngine h)) (noTurn_okReply (noTurn_beginContext h))))

theorem noTurn_contextReset {base ctx : Nat} (h : NoTurn t) : NoTurn (contextReset base ctx t) :=
  noTurn_ite (noTurn_resetRefused h) (noTurn_resetAsk h)

theorem noTurn_engineReset {base : Nat} (h : NoTurn t) : NoTurn (engineReset base t) := noTurn_ite (noTurn_resetAsk h) (noTurn_resetRefused h)

theorem noTurn_runDeferred (h : NoTurn t) : NoTurn (runDeferred t) :=
  noTurn_foldl (fun _ _ hr => noTurn_ite (noTurn_beginEngine (noTurn_same hr)) (noTurn_beginContext (noTurn_same hr))) h

/-! ### Safe state, hangs, tests and dumps -/

theorem noTurn_fireSource {f : Src} {u : Nat} (h : NoTurn t) : NoTurn (fireSource f u t) :=
  noTurn_ite (noTurn_ibi (noTurn_raise h)) (noTurn_raise h)

theorem noTurn_dumpStart {trigger : Nat} (h : NoTurn t) : NoTurn (dumpStart trigger t) :=
  noTurn_ite h (noTurn_ite (noTurn_wrF h) (noTurn_same (noTurn_bump (noTurn_wrReg (noTurn_wrF (noTurn_wrF h))))))

theorem noTurn_safeEnter (h : NoTurn t) : NoTurn (safeEnter t) :=
  have h1 := noTurn_foldl (fun _ _ hr => noTurn_ite (noTurn_addDue hr) hr) (noTurn_ibi (noTurn_bump (noTurn_tickStamp (noTurn_same h))))
  have h2 := noTurn_ite (noTurn_dumpStart h1) h1
  noTurn_ite h (noTurn_ite (noTurn_beginChip _) h2)

theorem noTurn_contextAction {f : Src} {u : Nat} (h : NoTurn t) : NoTurn (contextAction f u t) :=
  noTurn_ite (noTurn_addDue (noTurn_setBobState h)) h

theorem noTurn_autoEngine {g u : Nat} (h : NoTurn t) : NoTurn (autoEngine g u t) := noTurn_ite h (noTurn_engineOrDefer h)

theorem noTurn_classAction {f : Src} {u : Nat} (h : NoTurn t) : NoTurn (classAction f u t) := by
  unfold classAction
  split
  · exact noTurn_contextAction h
  · exact noTurn_ite (noTurn_contextAction h) (noTurn_ite (noTurn_ite (noTurn_autoEngine (noTurn_fenceBlock h)) (noTurn_fenceBlock h)) h)
  · exact noTurn_foldl (fun _ _ hr => noTurn_fencePart hr) h
  · exact noTurn_safeEnter h
  · exact h

/-! ### Rails, temperatures, PARK and STANDBY -/

theorem noTurn_modPwr {f : Power → Power} (h : NoTurn t) : NoTurn (modPwr t f) := noTurn_same h

theorem noTurn_lasting {f : Src} {new none_ : Bool} (h : NoTurn t) : NoTurn (lasting f new none_ t) :=
  noTurn_ite (noTurn_fireSource (noTurn_addCause h)) (noTurn_ite (noTurn_dropCause h) h)

theorem noTurn_supplyCheck (h : NoTurn t) : NoTurn (supplyCheck t) := noTurn_lasting (noTurn_modPwr h)

theorem noTurn_railSelect {w : Word} (h : NoTurn t) : NoTurn (railSelect w t) :=
  noTurn_ite (noTurn_csrRefused h) (noTurn_okReply (noTurn_wrF (noTurn_wrF h)))

theorem noTurn_thermCheck (h : NoTurn t) : NoTurn (thermCheck t) := noTurn_lasting (noTurn_modPwr h)

theorem noTurn_standbyExit (h : NoTurn t) : NoTurn (standbyExit t) := by
  unfold standbyExit
  refine noTurn_ite (noTurn_okReply h) (noTurn_ite (noTurn_csrRefused h) ?_)
  extract_lets p u v
  have hv : NoTurn v := rfl
  exact noTurn_okReply (noTurn_wrReg hv)

end Sys2Proof.Machine
end

section
/-! PROOFS. For O60: no turn comes from the operations of clauses and register accesses. -/

namespace Sys2Proof.Machine

-- One after another: side by side, so many short proofs take more threads than the check has memory for.
set_option Elab.async false

variable {t : State}

/-! ### Clauses: staging, checks and work -/

theorem noTurn_setCls {c : Nat} {x : Clause} (h : NoTurn t) : NoTurn (setCls t c x) := noTurn_same h
theorem noTurn_modCls {c : Nat} {f : Clause → Clause} (h : NoTurn t) : NoTurn (modCls c f t) := noTurn_setCls h
theorem noTurn_setClsState {c st : Nat} (h : NoTurn t) : NoTurn (setClsState c st t) := noTurn_wrF h
theorem noTurn_toSwitch {sw op : Nat} {pay : Bytes} (h : NoTurn t) : NoTurn (toSwitch sw op pay t) := noTurn_emit h
theorem noTurn_sendVote {c : Nat} {yes : Bool} (h : NoTurn t) : NoTurn (sendVote c yes t) := noTurn_toSwitch h
theorem noTurn_sendDecision {sw gid at_ : Nat} {commit : Bool} (h : NoTurn t) : NoTurn (sendDecision sw gid commit at_ t) := noTurn_toSwitch h
theorem noTurn_putOutcome {o : Outcome} (h : NoTurn t) : NoTurn (putOutcome o t) := noTurn_same h
theorem noTurn_dropOutcome {gid : Nat} (h : NoTurn t) : NoTurn (dropOutcome gid t) := noTurn_same h

theorem noTurn_recordDecision {c at_ : Nat} {commit : Bool} (h : NoTurn t) : NoTurn (recordDecision c commit at_ t) :=
  noTurn_foldl (fun _ _ hr => noTurn_sendDecision hr) (noTurn_ite (noTurn_dropOutcome h) (noTurn_ite (noTurn_putOutcome h) h))

theorem noTurn_undoEntries {c : Nat} {doubt : Bool} (h : NoTurn t) : NoTurn (undoEntries c doubt t) :=
  noTurn_pubLapse (noTurn_releaseHeld (noTurn_foldl (fun _ _ hr => noTurn_ite (noTurn_homeUndo hr) hr) h))

theorem noTurn_releaseWrites {c : Nat} (h : NoTurn t) : NoTurn (releaseWrites c t) :=
  noTurn_foldl (fun _ _ hr => noTurn_addDue hr) (noTurn_modCls h)

theorem noTurn_clauseAbort {c reason : Nat} (h : NoTurn t) : NoTurn (clauseAbort c reason t) := by
  unfold clauseAbort
  split
  · exact h
  extract_lets
  split
  · split
    · exact
        have h1 := noTurn_bump (noTurn_wrF (noTurn_setClsState (noTurn_modCls (noTurn_releaseWrites (noTurn_undoEntries h)))))
        have h2 := noTurn_ite (noTurn_bump h1) h1
        noTurn_ite h2 (noTurn_recordDecision h2)
    · exact
        have h1 := noTurn_bump (noTurn_wrF (noTurn_setClsState (noTurn_modCls (noTurn_releaseWrites (noTurn_undoEntries h)))))
        noTurn_recordDecision (noTurn_ite (noTurn_bump h1) h1)
  · exact
      have h1 := noTurn_bump (noTurn_wrF (noTurn_setClsState (noTurn_modCls (noTurn_releaseWrites (noTurn_undoEntries h)))))
      have h2 := noTurn_ite (noTurn_bump h1) h1
      noTurn_ite (noTurn_sendVote h2) h2

theorem noTurn_failEntry {c i reason : Nat} (h : NoTurn t) : NoTurn (failEntry c i reason t) := noTurn_clauseAbort (noTurn_wrF h)

theorem noTurn_stageData {c : Nat} {w : Word} (h : NoTurn t) : NoTurn (stageData c w t) :=
  noTurn_ite (noTurn_csrRefused h) (noTurn_ite (noTurn_okReply (noTurn_clauseAbort h)) (noTurn_okReply (noTurn_wrReg (noTurn_wrF (noTurn_setCls h)))))

theorem noTurn_tryGlobal {c : Nat} (h : NoTurn t) : NoTurn (tryGlobal c t) := noTurn_ite (noTurn_wrF (noTurn_setCls h)) h

theorem noTurn_clsSeal {c : Nat} (h : NoTurn t) : NoTurn (clsSeal c t) :=
  have h1 := noTurn_setClsState (noTurn_modCls h)
  noTurn_ite (noTurn_csrRefused h) (noTurn_okReply (noTurn_tryGlobal (noTurn_ite (noTurn_toSwitch h1) h1)))

theorem noTurn_clsRelease {c : Nat} (h : NoTurn t) : NoTurn (clsRelease c t) :=
  noTurn_ite (noTurn_okReply (noTurn_same h))
    (noTurn_csrRefused h)

theorem noTurn_verify {key msg : Bytes} {buf : Nat} (h : NoTurn t) : NoTurn (verify key buf msg t).2 := noTurn_bump h

theorem noTurn_approvals {c : Nat} {es : List Entry} {e : Entry} (h : NoTurn t) : NoTurn (approvals c es e t).2 := by
  unfold approvals
  split
  · exact h
  split
  · exact noTurn_ite_snd h h
  split
  · exact noTurn_ite_snd (noTurn_modCls (noTurn_verify (noTurn_verify h))) (noTurn_verify (noTurn_verify h))
  · exact h

theorem noTurn_checkEntry {c : Nat} {es : List Entry} {e : Entry} (h : NoTurn t) : NoTurn (checkEntry c es e t).2 :=
  noTurn_ite_snd h
    (noTurn_ite_snd h
      (noTurn_ite_snd h
        (noTurn_ite_snd h
          (noTurn_ite_snd h
            (noTurn_ite_snd (noTurn_approvals h) (noTurn_ite_snd (noTurn_approvals h) (noTurn_ite_snd (noTurn_approvals h) (noTurn_approvals h))))))))

theorem noTurn_workOf {c : Nat} {e : Entry} {u : State} (h : NoTurn t) (he : workOf c e t = some u) : NoTurn u := by
  unfold workOf at he
  split at he
  · cases he; exact h
  split at he
  · exact noTurn_homeWork h he
  · cases he; exact noTurn_ite (noTurn_keySweep h) h

theorem noTurn_beginWork {c k : Nat} (h : NoTurn t) : NoTurn (beginWork c k t) := by
  unfold beginWork
  split
  · exact noTurn_ite (noTurn_homeStart h) h
  · exact h

theorem noTurn_runWork {n c : Nat} (h : NoTurn t) : NoTurn (runWork n c t) := by
  induction n generalizing t with
  | zero => exact h
  | succ n ih =>
    unfold runWork
    extract_lets x
    refine noTurn_ite h ?_
    split
    · exact h
    next u heq =>
      have hu : NoTurn u := by
        cases he : x.entries[x.work]? with
        | none => simp [he] at heq
        | some e => exact noTurn_workOf h (by simpa [he] using heq)
      exact ih (noTurn_beginWork (noTurn_modCls hu))

theorem noTurn_startWork {c : Nat} (h : NoTurn t) : NoTurn (startWork c t) := noTurn_runWork (noTurn_beginWork (noTurn_modCls h))

theorem noTurn_walkEntries {c : Nat} {walked l : List Entry} (h : NoTurn t) : NoTurn (walkEntries c walked l t) := by
  induction l generalizing t walked with
  | nil => exact noTurn_startWork h
  | cons e rest ih =>
    unfold walkEntries
    extract_lets e
    split
    next heq =>
    have hu := noTurn_snd heq (noTurn_checkEntry h)
    exact noTurn_ite (noTurn_failEntry hu) (ih (noTurn_ite (noTurn_homeTake (noTurn_modCls hu)) (noTurn_modCls hu)))

theorem noTurn_validate {c : Nat} (h : NoTurn t) : NoTurn (validate c t) :=
  noTurn_ite (noTurn_failEntry h) (noTurn_ite (noTurn_failEntry h) (noTurn_walkEntries h))

theorem noTurn_clsClose {c : Nat} {stores : List (Nat × Byte)} {leases : List (Nat × Lease)} {psns : List (Nat × Nat)}
    {digests : List (Nat × Bytes)} (h : NoTurn t) : NoTurn (clsClose c stores leases psns digests t) :=
  have h1 := noTurn_setClsState (noTurn_setCls (noTurn_fwStores h))
  have h2 := noTurn_ite (noTurn_putOutcome h1) h1
  noTurn_ite (noTurn_csrRefused (noTurn_fwStores h))
    (noTurn_ite (noTurn_okReply (noTurn_clauseAbort h1))
      (noTurn_okReply (noTurn_ite (noTurn_tryGlobal h2) (noTurn_validate (noTurn_tryGlobal h2)))))

theorem noTurn_clsAbortCmd {c : Nat} (h : NoTurn t) : NoTurn (clsAbortCmd c t) :=
  noTurn_ite (noTurn_okReply (noTurn_clauseAbort h)) (noTurn_csrRefused h)

theorem noTurn_clsCmdBad (h : NoTurn t) : NoTurn (clsCmdBad t) := noTurn_csrRefused h

/-! ### Clauses: arming, commit and decisions -/

theorem noTurn_putReg {a : Nat} {w : Word} (h : NoTurn t) : NoTurn (putReg a w t) := noTurn_ite h (noTurn_addDue (noTurn_wrReg h))

theorem noTurn_domUnbound {d : Nat} (h : NoTurn t) : NoTurn (domUnbound d t) :=
  noTurn_foldl (fun _ _ hr => noTurn_ite (noTurn_clauseAbort hr) hr) h

/-! ### Register accesses -/

theorem noTurn_errClear {base : Nat} {w : Word} (h : NoTurn t) : NoTurn (errClear base w t) :=
  noTurn_foldl (fun _ _ hr => noTurn_ite (noTurn_fireSource hr) hr) (noTurn_same (noTurn_okReply (noTurn_wrReg h)))

theorem noTurn_errInject {base : Nat} {w : Word} (h : NoTurn t) : NoTurn (errInject base w t) :=
  noTurn_ite (noTurn_foldl (fun _ _ hr => noTurn_ite (noTurn_fireSource hr) hr) (noTurn_okReply h)) (noTurn_csrRefused h)

theorem noTurn_resetCtl {base : Nat} {w : Word} (h : NoTurn t) : NoTurn (resetCtl base w t) :=
  noTurn_ite (noTurn_contextReset h) (noTurn_ite (noTurn_engineReset h) (noTurn_resetRefused h))

theorem noTurn_timSet {w : Word} (h : NoTurn t) : NoTurn (timSet w t) := noTurn_ite (noTurn_csrRefused h) (noTurn_okReply (noTurn_same h))

theorem noTurn_clsCtl {c : Nat} {w : Word} (h : NoTurn t) : NoTurn (clsCtl c w t) := by
  unfold clsCtl
  split
  · exact noTurn_clsSeal h
  · exact noTurn_clsClose h
  · exact noTurn_clsAbortCmd h
  · exact noTurn_clsRelease h
  · exact noTurn_clsCmdBad h

theorem noTurn_dumpCtl {w : Word} (h : NoTurn t) : NoTurn (dumpCtl w t) :=
  have h1 := noTurn_okReply (noTurn_wrReg h)
  noTurn_ite (noTurn_dumpStart h1) h1

theorem noTurn_wdogCtl {w : Word} (h : NoTurn t) : NoTurn (wdogCtl w t) :=
  have h1 := noTurn_okReply (noTurn_wrReg h)
  noTurn_ite (noTurn_wdogKick h1) h1

theorem noTurn_attestCtl {w : Word} (h : NoTurn t) : NoTurn (attestCtl w t) := noTurn_ite (noTurn_attestGo (noTurn_okReply h)) (noTurn_okReply h)
theorem noTurn_hqCtl {w : Word} (h : NoTurn t) : NoTurn (hqCtl w t) := noTurn_ite (noTurn_hqGo (noTurn_okReply h)) (noTurn_okReply h)

theorem noTurn_restartCtl {w : Word} (h : NoTurn t) : NoTurn (restartCtl w t) :=
  noTurn_ite (noTurn_ctlRestart (noTurn_okReply h)) (noTurn_okReply h)

theorem noTurn_standbyCtl {w : Word} (h : NoTurn t) : NoTurn (standbyCtl w t) :=
  noTurn_ite (noTurn_standbyExit (noTurn_okReply h)) (noTurn_okReply h)

theorem noTurn_plainWrite {a : Nat} {w : Word} (h : NoTurn t) : NoTurn (plainWrite a w t) :=
  noTurn_ite (noTurn_okReply h) (noTurn_ite (noTurn_csrRefused h) (noTurn_ite (noTurn_okReply (noTurn_putReg h)) (noTurn_csrRefused h)))

theorem noTurn_csrWriteNow {a : Nat} {w : Word} (h : NoTurn t) : NoTurn (csrWriteNow a w t) := by
  unfold csrWriteNow
  extract_lets
  split
  · exact noTurn_csrError h
  · exact noTurn_ite (noTurn_resetCtl h)
      (noTurn_ite (noTurn_csrError h)
        (noTurn_ite (noTurn_csrRefused h)
          (noTurn_ite (noTurn_csrRefused h)
            (noTurn_ite (noTurn_errClear h)
              (noTurn_ite (noTurn_errInject h)
                (noTurn_ite (noTurn_plainWrite h)
                  (noTurn_ite (noTurn_ite (noTurn_clsCtl h)
                    (noTurn_ite (noTurn_stageData h) (noTurn_ite (noTurn_plainWrite h) (noTurn_csrRefused h))))
                    (noTurn_ite (noTurn_timSet h)
                      (noTurn_ite (noTurn_progLoad h)
                        (noTurn_ite (noTurn_bobCmd h)
                          (noTurn_ite (noTurn_hqCtl h)
                            (noTurn_ite (noTurn_attestCtl h)
                              (noTurn_ite (noTurn_dumpCtl h)
                                (noTurn_ite (noTurn_restartCtl h)
                                  (noTurn_ite (noTurn_wdogCtl h)
                                    (noTurn_ite (noTurn_mbxOutPush h)
                                      (noTurn_ite (noTurn_mbxClear h)
                                        (noTurn_ite (noTurn_mbxClear h)
                                          (noTurn_ite
                                            (noTurn_standbyCtl h) (noTurn_ite (noTurn_railSelect h) (noTurn_plainWrite h)))))))))))))))))))))

end Sys2Proof.Machine
end

section
/-! PROOFS. For O60: no turn comes from the operations of the issue of steps. -/

namespace Sys2Proof.Machine

-- One after another: side by side, so many short proofs take more threads than the check has memory for.
set_option Elab.async false

variable {t : State}

/-! ### Steps: issue and planning -/

theorem noTurn_issueReads {b maxReads : Nat} (h : NoTurn t) : NoTurn (issueReads b maxReads t) :=
  noTurn_ite (noTurn_setBob h) (noTurn_bump (noTurn_bump (noTurn_setBob h)))

theorem noTurn_replanStep {b order : Nat} (h : NoTurn t) : NoTurn (replanStep b order t) := by
  unfold replanStep
  split
  · split
    · exact noTurn_ite (noTurn_ctx_askAll h) (noTurn_ite (noTurn_bobFault h) (noTurn_issueReads (noTurn_putStep h)))
    · exact h
  · exact h

theorem noTurn_tryIssue {b : Nat} (h : NoTurn t) : NoTurn (tryIssue b t) := by
  unfold tryIssue
  refine noTurn_ite h ?_
  extract_lets p d y full
  split
  · exact h
  split
  · exact noTurn_bobFault h
  extract_lets credit hz memHz u v w
  have hw : NoTurn w := noTurn_setBobState (noTurn_setCursor (noTurn_issueReads (noTurn_wrF (noTurn_modBob h))))
  exact noTurn_ite (noTurn_ite (noTurn_replanStep hw) hw) (noTurn_ite (noTurn_bump (noTurn_setBobState h)) h)

theorem noTurn_retryIssue {b : Nat} (h : NoTurn t) : NoTurn (retryIssue b t) := noTurn_ite (noTurn_tryIssue h) h

theorem noTurn_replan {b : Nat} (h : NoTurn t) : NoTurn (replan b t) :=
  noTurn_ite h (noTurn_ite h (noTurn_retryIssue (noTurn_foldl (fun _ _ hr => noTurn_replanStep hr) h)))

end Sys2Proof.Machine
end

section
/-! PROOFS. For O60: no turn comes from the consequences of a command. -/

namespace Sys2Proof.Machine

-- One after another: side by side, so many short proofs take more threads than the check has memory for.
set_option Elab.async false

variable {t : State}

/-! ### Consequences within a command -/

theorem noTurn_refire {base : Nat} {sel : Nat → Bool} (h : NoTurn t) : NoTurn (refire base sel t) := noTurn_same h

theorem noTurn_bindEnd {n : Nat} (h : NoTurn t) : NoTurn (bindEnd n t) :=
  noTurn_bankTakesForce (noTurn_foldl (fun _ _ hr => noTurn_ite (noTurn_setBobState (noTurn_setBob hr)) hr) h)

theorem noTurn_bindStart {n : Nat} (h : NoTurn t) : NoTurn (bindStart n t) := by
  unfold bindStart
  extract_lets
  split
  · exact noTurn_raise (noTurn_wrF (noTurn_bankTakesForce h))
  refine noTurn_foldl (fun _ _ hr => ?_) (noTurn_wrF (noTurn_bankTakesForce h))
  split
  · exact noTurn_ite (noTurn_setBobState (noTurn_bobRestart hr)) hr
  · exact hr

theorem noTurn_rebind {n : Nat} {old : Option Nat} (h : NoTurn t) : NoTurn (rebind n old t) :=
  have h1 := noTurn_ite (noTurn_bindEnd h) h
  noTurn_ite h (noTurn_ite (noTurn_bindStart h1) h1)

theorem noTurn_domChanged {d : Nat} {old : Word} (h : NoTurn t) : NoTurn (domChanged d old t) :=
  noTurn_ite h (noTurn_foldl (fun _ _ hr => noTurn_ite (noTurn_rebind hr) hr) (noTurn_ite (noTurn_domUnbound (noTurn_setDom h)) (noTurn_setDom h)))

theorem noTurn_gangChanged {p : Nat} {old : Word} (h : NoTurn t) : NoTurn (gangChanged p old t) :=
  noTurn_foldl
    (fun _ _ hr => noTurn_ite (noTurn_raise (noTurn_modPort (noTurn_bump (noTurn_setLink (noTurn_modPort (noTurn_flushPort hr))))))
      (noTurn_modPort (noTurn_flushPort hr)))
    h

theorem noTurn_enableChanged {a : Nat} {old : Word} (h : NoTurn t) : NoTurn (enableChanged a old t) :=
  noTurn_ite h (noTurn_ite (noTurn_ite (noTurn_ite (noTurn_setLink h) h) (noTurn_linkDisable h)) (noTurn_ite (noTurn_cxlEnable h) h))

theorem noTurn_changedReg {a : Nat} {old : Word} (h : NoTurn t) : NoTurn (changedReg a old t) :=
  noTurn_ite (noTurn_ite (noTurn_enableChanged h) h)
    (noTurn_ite (noTurn_refire h)
      (noTurn_ite (noTurn_refire h)
        (noTurn_ite (noTurn_timSourceChanged h)
          (noTurn_ite (noTurn_domChanged h)
            (noTurn_ite (noTurn_rebind h)
              (noTurn_ite (noTurn_ite h (noTurn_raiseIf (noTurn_bankTakesForce h)))
                (noTurn_ite (noTurn_gangChanged h)
                  (noTurn_ite (noTurn_cxlRetrain h) (noTurn_ite (noTurn_thermCheck h) (noTurn_ite (noTurn_supplyCheck h) h))))))))))

theorem noTurn_settleDue {d : Due} (h : NoTurn t) : NoTurn (settleDue d t) := by
  unfold settleDue
  split
  · exact noTurn_collFail h
  · exact noTurn_collPortGone h
  · exact noTurn_collBobGone h
  · exact noTurn_collRegionGone h
  · exact noTurn_changedReg h
  · exact noTurn_clauseAbort h
  · exact noTurn_endRequest h
  · exact noTurn_qpErr h
  · exact noTurn_csrWriteNow h

theorem noTurn_settleAll {k : Nat} (h : NoTurn t) : NoTurn (settleAll k t) := by
  induction k generalizing t with
  | zero => exact h
  | succ k ih =>
    unfold settleAll
    split
    · exact ih (noTurn_classAction (noTurn_same h))
    · exact ih (noTurn_settleDue (noTurn_same h))
    · exact h

theorem noTurn_dropGone (h : NoTurn t) : NoTurn (dropGone t) := noTurn_ite h (noTurn_farDrop h)

theorem noTurn_goOnAll (h : NoTurn t) : NoTurn (goOnAll t) :=
  have h1 := noTurn_groundOn (noTurn_dropGone h)
  have h2 := noTurn_ite h1 (noTurn_drainWaiting h1)
  noTurn_retryAllCqes (noTurn_foldl (fun _ _ hr => noTurn_runWork hr)
    (noTurn_foldl (fun _ _ hr => noTurn_replan hr) (noTurn_runHosts (noTurn_ite h2 (noTurn_runReqs h2)))))

theorem noTurn_settle (h : NoTurn t) : NoTurn (settle t) :=
  noTurn_expireShtTurns (noTurn_expireTurns
    (noTurn_settleAll (noTurn_goOnAll (noTurn_settleAll (noTurn_relift (noTurn_runDeferred (noTurn_bootAsk (noTurn_settleAll h))))))))

end Sys2Proof.Machine
end

section
/-! PROOFS. O60: EXIT in STANDBY looks at more rails than those found bad (R465, R474). -/

namespace Sys2Proof.Machine

/-- STANDBY with a gatable core rail that was last reported at 640 mV: within the limits of RAIL_FAULT, so that no rail is bad, and
below its level range, so that it is not good (R465). The turn, which has no work left, tells the state from every state that follows
one without turns. -/
def weakRailInStandby : State :=
  { wrF State.reset PWR_STATE PWR_STATE_DEV 2 with pwr := { State.reset.pwr with mv := [(0, 640)] }, sht := { turns := [(0, (0, 0))] } }

theorem csrWriteNow_standby (w : Word) (s : State) : csrWriteNow PWR_STANDBY w s = standbyCtl w s := rfl

/-- A gatable rail that is not good refuses the exit. -/
theorem standbyExit_of_gatableBad {s : State} (hstandby : devState s = 2) (hbad : gatableBad s = true) : standbyExit s = csrRefused s := by
  rw [standbyExit, if_neg (not_not.mpr hstandby), if_pos hbad]

theorem csrWrite_exit_weakRail : csrWrite PWR_STANDBY 8 (PWR_STANDBY_EXIT.set 0 1) weakRailInStandby = csrRefused weakRailInStandby := by
  have hguard : guardOf weakRailInStandby PWR_STANDBY = none := by decide +kernel
  have hgo : PWR_STANDBY_EXIT.get (PWR_STANDBY_EXIT.set 0 1) = 1 := by decide
  have hstandby : devState (okReply weakRailInStandby) = 2 := by decide +kernel
  have hbad : gatableBad (okReply weakRailInStandby) = true := by decide +kernel
  rw [csrWrite_of_guardOf_none _ _ _ hguard, csrWriteNow_standby, standbyCtl, if_pos hgo, standbyExit_of_gatableBad hstandby hbad]
  rfl

/-- The refused exit has no consequences. -/
theorem settle_exitRefused : settle (csrRefused weakRailInStandby) = csrRefused weakRailInStandby := settleQuiet _ (by decide +kernel)

/-- Refutes O60: EXIT is refused for a gatable rail whose last report is not good, while no rail is among those found bad. A state that
the exit could leave has no turns of the shuttle, and nor has what its consequences make of it; the refused write leaves the turn. -/
theorem not_powerStates : ¬ Obligations.PowerStates := by
  unfold Obligations.PowerStates
  rintro ⟨-, -, -, hexit, -⟩
  obtain ⟨t, hexec, -, -, -, -, hsht⟩ := hexit weakRailInStandby (by decide +kernel) (by decide +kernel) rfl
  have hsettle : settle (csrWrite PWR_STANDBY 8 (PWR_STANDBY_EXIT.set 0 1) weakRailInStandby) = settle t := Host.Outcome.next.inj hexec
  rw [csrWrite_exit_weakRail, settle_exitRefused] at hsettle
  have hnone : NoTurn (csrRefused weakRailInStandby) := hsettle ▸ noTurn_settle (congrArg Shuttle.turns hsht)
  exact absurd hnone (List.cons_ne_nil _ _)

end Sys2Proof.Machine
end
